-- ==== Sys2Proof/Word.lean ====
section
/-! DEFINITION. The word types of the PK7264 (R7, R9) and the sparse table every numbered unit is held in. -/

namespace Sys2Proof

/-- A word: 72 bits (R7). -/
abbrev Word := BitVec 72

/-- A half, an I/O register or an op: 36 bits (R7, R9). -/
abbrev Half := BitVec 36

/-- An I/O address: 24 bits (R9). -/
abbrev IoAddr := BitVec 24

/-- A sparse table from numbers to values: keys strictly rising, no entry equal to what an unlisted key reads as. -/
abbrev Tab (α : Type) := List (Nat × α)

end Sys2Proof
end

