-- ==== Sys2Proof/Syntax.lean ====
section
/-! DEFINITION. The commands of the block, one constructor for each row of the opcode table, with the operands that the row's
rule gives the command. A row that happens in time (a tick, a completion, an expiry) is a command too: whoever sends it says
that it happens now. Operands that only the outside knows (a measured value, what a check found) come with it. -/

namespace Sys2Proof

/-- The requester of an I/O access (R97): a cell, the debug port or the image loader. -/
inductive Requester where
  | cell (c : Fin 64)
  | debug
  | loader
deriving DecidableEq, Repr

/-- What the caliper finds in the vectors that a cell sends outward (R213-R217): the port, and the bits of its vector that differ. -/
inductive Caliper where
  | agree
  /-- a pair differs, or no two members of a triple agree -/
  | differ (port : Fin 5) (bits : BitVec 160)
  /-- one member of a triple differs from the other two -/
  | minority (pos : Fin 4) (port : Fin 5) (bits : BitVec 160)
  /-- the two comparators disagree -/
  | comparators (port : Fin 5) (bits : BitVec 160)
deriving DecidableEq, Repr

/-- What every op word brings beside its operands (R354): the cell that issues it, its predicate, its STOP bit, and what the
caliper finds in what its bundle sends. -/
structure OpHdr where
  cell : Fin 64
  pred : Fin 8
  stop : Bool
  cal  : Caliper
deriving DecidableEq, Repr

/-- A first failure: address or word index, element, operation, bit, and whether it lies in an instruction SRAM. -/
structure BistFail where
  adr   : Fin 68719476736
  elem  : Fin 16
  op    : Fin 8
  bit   : Fin 80
  isram : Bool
deriving DecidableEq, Repr

/-- One sample of the tamper monitor (R576): the mesh resistances in 10 Ω, the open switches, and whether the I/O rail lies outside its ±10 %. -/
structure TamperIn where
  mesh : List (BitVec 18)
  sw   : BitVec 2
  rail : Bool
deriving DecidableEq, Repr

/-- A sample of the tamper monitor, and how many samples in a row its inputs have been bad. -/
structure TamperRun where
  sample : TamperIn
  count  : BitVec 6
deriving DecidableEq, Repr

/-- A zero crossing (R57): the mains voltage that crosses, and whether its phase error was below 2° (R58). -/
structure Crossing where
  ph   : Fin 4
  good : Bool
deriving DecidableEq, Repr

/-- A loss of a mains domain's lock (R58), and what caused it. -/
structure LockLoss where
  dom : Fin 32
  why : Fin 3
deriving DecidableEq, Repr

/-- A reading of a port in modes 1 and 3: a current, and the line code of the second sensor (R152). -/
structure LoopIn where
  cur  : Half
  line : Fin 3
deriving DecidableEq, Repr

/-- The restart of a furrow's group, and whether a word of its JOIN could not be corrected (R224, R233). -/
structure RestartJoin where
  fur : Fin 16
  bad : Bool
deriving DecidableEq, Repr

/-- Bits that the two comparators of a caliper test find (R241). -/
structure TestFound where
  a : BitVec 160
  b : BitVec 160
deriving DecidableEq, Repr

/-- A fault source and the others that are sampled with it (R255, R259). -/
structure Sampled where
  src  : Fin 192
  same : List (Fin 192)
deriving DecidableEq, Repr

/-- The verdict of an arbitration test (R221). -/
inductive ArbVerdict where
  | blamed (pos : Fin 4)
  | agree
  | noMajority
deriving DecidableEq, Repr

/-- Bits of a word with its check bits that flip (R37, R38): on the word of an access that has the number `word`, where it is stored and
on its way. -/
structure Flips where
  word : Nat := 0
  mem  : BitVec 80 := 0
  path : BitVec 80 := 0
deriving DecidableEq, Repr

/-- A cell that sends apart from a bundle's outputs, and what the caliper finds in it (R213). -/
structure Sends where
  cell : Fin 64
  cal  : Caliper
deriving DecidableEq, Repr

/-- A code line's prefetch by a cell, with the flips of its words. -/
structure Prefetch extends Sends where
  fl : Flips
deriving DecidableEq, Repr

/-- The offset of an OUT, and the bits of its transfer that flip on the I/O ditch (R403, R479). -/
structure OutImm where
  imm  : BitVec 14
  flip : BitVec 43
deriving DecidableEq, Repr

/-- A half that crosses the I/O ditch, and the bits of its transfer that flip (R479). -/
structure IoHalf where
  val  : Half
  flip : BitVec 43
deriving DecidableEq, Repr

/-- The commands; `who` is the requester of a register access. -/
inductive Instr where
  /-- REGISTER_WRITE: A write to an I/O register that has no row of its own sets its fields according to their access codes (R12). -/
  | registerWrite (who : Requester) (addr : IoAddr) (val : Half)
  /-- RC_READ: A read of a read-to-clear field returns its value and clears it, with a 72-bit register cleared on its low-half read (R13). -/
  | rcRead (who : Requester) (addr : IoAddr)
  /-- LOW_HALF_READ: A read of the low half of a 72-bit register returns it and latches the high half into the requester's HILAT (R97). -/
  | lowHalfRead (who : Requester) (addr : IoAddr)
  /-- HIGH_HALF_READ: A read of a high half is answered from a matching valid HILAT, clearing its valid bit, or from the live register (R97). -/
  | highHalfRead (who : Requester) (addr : IoAddr)
  /-- HIGH_HALF_WRITE: A write of a high half goes into the requester's holding register in the block and changes nothing else (R98). -/
  | highHalfWrite (who : Requester) (addr : IoAddr) (val : Half)
  /-- LOW_HALF_WRITE: A low-half write commits both halves when the held high half matches, and otherwise commits the low half alone (R98). -/
  | lowHalfWrite (who : Requester) (addr : IoAddr) (val : Half)
  /-- CLOCK_FREQUENCY_FAULT: A clock outside ±10 % of nominal for 8 consecutive measurement windows raises the clock fault source of that clock (R25). -/
  | clockFrequencyFault (k : Fin 6) (u : Fin 16)
  /-- PLL_LOCK_LOSS: A PLL that loses lock raises its clock fault source (R25). -/
  | pllLockLoss (k : Fin 5) (u : Fin 16)
  /-- CRYSTAL_LOSS: On crystal loss the ditch rider switches to the fault-collector oscillator within 2 µs and keeps its accounts running (R26). -/
  | crystalLoss
  /-- CONDITIONED_LEVEL_CHANGE: An input terminal level held for FILT + 1 samples changes the conditioned level and is stamped with the time of its first sample (R116). -/
  | conditionedLevelChange (p : Fin 32) (t : Fin 3) (lvl : Bool) (sub : Fin 5)
  /-- DOMAIN_PORT_TICK: On each port tick every enabled domain accepts and credits edges, updates rate and readings, takes commands, evaluates slots and publishes values (R62). -/
  | domainPortTick (ptp0 : Nat) (ptp1 : Nat)
  /-- CHANNEL_LOSS: LOSSN consecutive accepted edges on one channel declare the other channel lost, freeze the domain and raise the pulser channel loss source (R50). -/
  | channelLoss (n : Fin 32)
  /-- INTEGRITY_FAULT: WERR exceeding ERRLIM within a window sets the INTEG cause and raises the pulser integrity source (R49). -/
  | integrityFault (n : Fin 32)
  /-- ERROR_WINDOW_END: The end of a window of 64 × 2^WIN counted edges starts a new error-rate window (R49). -/
  | errorWindowEnd (n : Fin 32)
  /-- STALL: No counted edge for STALLT milliseconds sets STALL and clears the rate estimate (R53). -/
  | stall (n : Fin 32)
  /-- DOMAIN_ENABLE: Setting ADnCTL.EN restarts rate estimation, rebases a derived domain, clears channel loss and starts mains acquisition, or is refused for a bad derived source (R73). -/
  | domainEnable (who : Requester) (n : Fin 32) (val : Half)
  /-- DOMAIN_DISABLE: Clearing ADnCTL.EN holds the readings, discards a pending edge and stops slot evaluation (R73). -/
  | domainDisable (who : Requester) (n : Fin 32) (val : Half)
  /-- ZERO: The ZERO command rebases a domain and its derived domains according to the domain type (R56). -/
  | zero (who : Requester) (n : Fin 32)
  /-- CLRREV: The CLRREV command clears the reverse accumulator ADnREVA (R81). -/
  | clrrev (who : Requester) (n : Fin 32)
  /-- SNAP: The SNAP command copies LIVE and CONF of one port tick into ADnSNL and ADnSNC (R81). -/
  | snap (who : Requester) (n : Fin 32)
  /-- MAINS_ZERO_CROSSING: A positive-going zero crossing of the selected mains voltage is located and tracked by the mains PLL (R57). -/
  | mainsZeroCrossing (n : Fin 32) (z : Crossing)
  /-- MAINS_LOCK: Eight consecutive cycles with a phase error below 2° set LOCK and clear HOLD (R58). -/
  | mainsLock (n : Fin 32)
  /-- MAINS_LOCK_LOSS: A missing crossing for 40 ms, a frequency out of range or a low amplitude clears LOCK and starts HOLD (R58). -/
  | mainsLockLoss (q : LockLoss)
  /-- HOLD_END: Eight cycles after lock loss the mains domain stops with STALL set and acquires the mains again (R58). -/
  | holdEnd (n : Fin 32)
  /-- SLOT_WRITE_ARRIVAL: A slot value or control write reaches the live comparator two port ticks after completion, reloads its kept value when arming and is judged for NEAR (R64). -/
  | slotWriteArrival (n : Fin 32) (k : Fin 8)
  /-- SLOT_ACTION: On the port tick after a match the slot sets, clears or toggles a terminal or sends a commit trigger to the TXU (R67). -/
  | slotAction (n : Fin 32) (k : Fin 8)
  /-- WAITC_COMPLETE: A waiting WAITC resumes its cell within 30 ns of the port tick on which the threshold is reached (R71). -/
  | waitcComplete (c : Fin 64)
  /-- TIMER_UNIT_TICK: A prescaler expiry gives a timer unit tick that loads, decrements or wraps the count (R86). -/
  | timerUnitTick (n : Fin 64)
  /-- TIMER_ZERO: A decrement that makes the count 0 raises Z and, in one-shot mode, clears RUN (R87). -/
  | timerZero (n : Fin 64)
  /-- COMPARE_WRITE_ARRIVAL: A compare write reaches the live comparator on the second unit tick after completion and sets NEAR when within ±1 of the count (R94). -/
  | compareWriteArrival (n : Fin 64) (k : Fin 2)
  /-- RELOAD_WRITE: A write of TMnRLD reaches the reload buffer on the first timer base tick after completion (R89). -/
  | reloadWrite (n : Fin 64)
  /-- RELOADNOW loads RELOAD into the counter on the next base tick, restarts the prescaler and is evaluated as a load by the compares (R90). -/
  | reloadnow (who : Requester) (n : Fin 64)
  /-- RUN: Setting RUN resumes counting from TMnCNT with a restarted prescaler, or a mode change while running is refused (R88). -/
  | run (who : Requester) (n : Fin 64) (val : Half)
  /-- TMGO: A write to TMGO0 or TMGO1 sets RUN in every named timer on one base tick (R103). -/
  | tmgo (who : Requester) (k : Fin 2) (mask : BitVec 32)
  /-- STRT_TRIGGER: A selected master event sets RUN of the slave timer at order 1 of the next base tick (R101). -/
  | strtTrigger (n : Fin 64)
  /-- RST_TRIGGER: A selected master event loads RELOAD into the slave timer as RELOADNOW does (R101). -/
  | rstTrigger (n : Fin 64)
  /-- GATE_TRIGGER: A change of the selected master level opens or closes the slave timer's gate (R101). -/
  | gateTrigger (n : Fin 64)
  /-- CLK_TRIGGER: A selected master event counts as one count-clock event of the slave timer (R101). -/
  | clkTrigger (n : Fin 64)
  /-- PIN_ACTION: A timer's Z or compare actions, or its WIN level, change its named terminal on the next port tick (R104). -/
  | pinAction (n : Fin 64)
  /-- EN: The EN command moves a port from OFF to ACTIVE after the settings checks, or starts the network check for an Ex port (R131). -/
  | en (who : Requester) (p : Fin 32)
  /-- DIS: The DIS command moves a port from any state to OFF and ends a network check (R131). -/
  | dis (who : Requester) (p : Fin 32)
  /-- RESTORE: The RESTORE command moves a port from ISOLATED or FAILED to ACTIVE after the checks and clears RCNT (R131). -/
  | restore (who : Requester) (p : Fin 32)
  /-- ISOL: The ISOL command moves a port from ACTIVE to ISOLATED with no automatic retry (R131). -/
  | isol (who : Requester) (p : Fin 32)
  /-- NETWORK_CHECK_END: The 2 ms series-resistance measurement of an Ex port ends and moves the port to ACTIVE or loads REF with 4 (R128). -/
  | networkCheckEnd (p : Fin 32) (ohms : Nat)
  /-- OPEN_FAULT: An open line or low coil current for its filter time isolates the port and sets OPEN (R132). -/
  | openFault (p : Fin 32)
  /-- SHORT_FAULT: A short, a coil held at IO by the limiter for 5 ms, or clamp current isolates the port and sets SHORT (R132). -/
  | shortFault (p : Fin 32)
  /-- LIMIT_FAULT: A limiter active for more than 10 ms isolates the port and sets LIMIT (R125). -/
  | limitFault (p : Fin 32)
  /-- ENV_EXIT: A sample whose stored energy exceeds ESMAX isolates the port within 2 µs and sets ENV (R129). -/
  | envExit (p : Fin 32) (mv : Nat)
  /-- CHARGE_WINDOW_END: At the end of each QWIN window the port compares its charge with QMAX and starts a new window (R129). -/
  | chargeWindowEnd (p : Fin 32) (charge : Nat) (energy : Word)
  /-- RAIL_FAULT: A rail-switch read-back differing for 50 consecutive samples isolates the port and sets RAIL (R132). -/
  | railFault (p : Fin 32)
  /-- LOOP_FAULT: A loop current out of 3.6–21.0 mA for 100 ms, or a read-back error, sets LOOP or OPEN (R123). -/
  | loopFault (p : Fin 32)
  /-- RETRY_RETURN: After RDLY × 10 ms an ISOLATED port with a transient fault returns to ACTIVE through the checks with outputs at safe values (R133). -/
  | retryReturn (p : Fin 32)
  /-- RCNT_CLEAR: RWIN seconds without a fault clear RCNT (R133). -/
  | rcntClear (p : Fin 32)
  /-- HIT_END: After HITT ms the valve drive changes the coil current from HIT to HOLD (R119). -/
  | hitEnd (p : Fin 32) (t : Fin 3)
  /-- RTD_CONVERSION_END: A 50 ms RTD conversion ends and loads FPnRES, reporting an open or short line (R122). -/
  | rtdConversionEnd (p : Fin 32) (res : Half)
  /-- LOOP_UPDATE: Every 1 ms a loop port updates FPnRES with the loop or read-back current (R123). -/
  | loopUpdate (p : Fin 32) (r : LoopIn)
  /-- TXV_PUSH: A write with TXV pushes TXD into the UART transmit FIFO, or discards it and sets OVR when full (R160). -/
  | txvPush (who : Requester) (p : Fin 32) (oct : BitVec 8)
  /-- UART_TRANSMIT_END: The UART finishes an octet and releases its driver one bit time after the last stop bit (R124). -/
  | uartTransmitEnd (p : Fin 32)
  /-- UART_RECEIVE: A received octet enters the receive FIFO, or is discarded with OVR when full (R124). -/
  | uartReceive (p : Fin 32) (oct : BitVec 8) (err : Bool)
  /-- RXD_READ: A read of FPnDATA with RXV set returns and removes the oldest received octet (R160). -/
  | rxdRead (who : Requester) (p : Fin 32)
  /-- SEQ_START: Setting FPnSEQC.RUN on a halted sequencer of an ACTIVE port starts its program at ENTRY with flags cleared (R134). -/
  | seqStart (who : Requester) (p : Fin 32) (val : Half)
  /-- SEQ_HALT: HALT stops the sequencer, sets HLT and SEV and clears RUN (R137). -/
  | seqHalt (p : Fin 32)
  /-- SEQ_LDI: LDI loads a zero-extended 9-bit immediate into a Q register (R134). -/
  | seqLdi (p : Fin 32)
  /-- SEQ_LDH: LDH loads a 9-bit immediate into the upper bits of a Q register (R134). -/
  | seqLdh (p : Fin 32)
  /-- SEQ_MOV: ALU MOV copies one Q register into another and sets Z and N (R134). -/
  | seqMov (p : Fin 32)
  /-- SEQ_ADD: ALU ADD adds two Q registers modulo 2^18 (R134). -/
  | seqAdd (p : Fin 32)
  /-- SEQ_SUB: ALU SUB subtracts one Q register from another modulo 2^18 (R134). -/
  | seqSub (p : Fin 32)
  /-- SEQ_AND: ALU AND combines two Q registers bitwise (R134). -/
  | seqAnd (p : Fin 32)
  /-- SEQ_OR: ALU OR combines two Q registers bitwise (R134). -/
  | seqOr (p : Fin 32)
  /-- SEQ_XOR: ALU XOR combines two Q registers bitwise (R134). -/
  | seqXor (p : Fin 32)
  /-- SEQ_SHL: ALU SHL shifts a Q register left by one (R134). -/
  | seqShl (p : Fin 32)
  /-- SEQ_SHR: ALU SHR shifts a Q register right by one (R134). -/
  | seqShr (p : Fin 32)
  /-- SEQ_CMP: ALU CMP sets the flags from a subtraction without writing (R134). -/
  | seqCmp (p : Fin 32)
  /-- SEQ_ADDI: ADDI adds a sign-extended 9-bit immediate to a Q register (R134). -/
  | seqAddi (p : Fin 32)
  /-- SEQ_IN: IN reads a terminal level, FPnRES part, SIN or the tick count into a Q register (R134). -/
  | seqIn (p : Fin 32)
  /-- SEQ_OUT: OUT writes output levels or SOUT from a Q register (R134). -/
  | seqOut (p : Fin 32)
  /-- SEQ_SETT: SETT sets the commanded level of one terminal (R134). -/
  | seqSett (p : Fin 32)
  /-- SEQ_WAIT: WAIT starts a wait of n + 1 units (R134). -/
  | seqWait (p : Fin 32)
  /-- SEQ_WAIT_END: A WAIT ends and the next instruction runs (R134). -/
  | seqWaitEnd (p : Fin 32)
  /-- SEQ_WEDG: WEDG starts waiting for an edge on a terminal, with a timeout of Q[q] units when nonzero (R610). -/
  | seqWedg (p : Fin 32)
  /-- SEQ_WEDG_EDGE: The selected edge is seen, T clears and the next instruction runs on the following tick (R610). -/
  | seqWedgEdge (p : Fin 32)
  /-- SEQ_WEDG_TIMEOUT: The WEDG wait ends without an edge, T sets and the next instruction runs (R610). -/
  | seqWedgTimeout (p : Fin 32)
  /-- SEQ_BR: BR branches to a slot on its condition (R134). -/
  | seqBr (p : Fin 32)
  /-- SEQ_DJNZ: DJNZ decrements a Q register and branches if the result is not zero (R134). -/
  | seqDjnz (p : Fin 32)
  /-- SEQ_EVT: EVT loads SEQS.CODE and sets the SEV cause (R134). -/
  | seqEvt (p : Fin 32)
  /-- SEQ_FLT: FLT raises a field fault with cause SFLT, transient under R133 or permanent at once (R134). -/
  | seqFlt (p : Fin 32)
  /-- SEQ_ILLEGAL: An illegal instruction, or running past slot 63, halts the sequencer with ILL, HLT and SEV set (R135). -/
  | seqIllegal (p : Fin 32)
  /-- CHANNEL_ENABLE: Setting CHnCTL.EN moves a channel to IDLE, or RETIRED if latched, after the meter domain rule is checked (R140). -/
  | channelEnable (who : Requester) (n : Fin 16) (val : Half)
  /-- CHANNEL_DISABLE: Clearing CHnCTL.EN moves an IDLE or SAFE channel to DISABLED and is refused in other states (R140). -/
  | channelDisable (who : Requester) (n : Fin 16) (val : Half)
  /-- ARM moves an IDLE channel to AUTHORISED (R140). -/
  | arm (who : Requester) (n : Fin 16)
  /-- DISARM moves an AUTHORISED channel to IDLE (R140). -/
  | disarm (who : Requester) (n : Fin 16)
  /-- END moves an AUTHORISED or FLOWING channel to ENDING (R140). -/
  | chEnd (who : Requester) (n : Fin 16)
  /-- CLOSE moves an ENDING channel to IDLE and sets CLOSED (R140). -/
  | close (who : Requester) (n : Fin 16)
  /-- SAFE moves an active channel to SAFE, forcing its outputs (R140). -/
  | safe (who : Requester) (n : Fin 16)
  /-- CLEAR moves a SAFE channel to IDLE when the interlock is inactive, otherwise sets BADCMD (R140). -/
  | clear (who : Requester) (n : Fin 16)
  /-- INTERLOCK: On a port tick where the interlock terminal is at its active level, the channel is taken to SAFE (R140). -/
  | interlock (n : Fin 16)
  /-- CHANNEL_RETIREMENT_CLEAR: CHnRET.CLR under an installer session clears the retirement latch through a system commit and returns the channel to IDLE (R143). -/
  | channelRetirementClear (who : Requester) (n : Fin 16)
  /-- TBEGIN opens a FREE transaction, makes the issuing group its owner and makes it current (R172). -/
  | tbegin (h : OpHdr) (s1 : Fin 32)
  /-- TSEL makes an owned transaction current (R172). -/
  | tsel (h : OpHdr) (s1 : Fin 32)
  /-- TSW stages a write to the TX fields of an I/O register and claims them, after a sluice check (R175). -/
  | tsw (h : OpHdr) (s1 : Fin 32) (s2 : Fin 32)
  /-- TTOT stages a totalizer add from a staged domain snapshot and claims the totalizer (R189). -/
  | ttot (h : OpHdr) (s1 : Fin 32)
  /-- TPAR stages a parameter write after the session rights check and claims the word (R177). -/
  | tpar (h : OpHdr) (s1 : Fin 32) (s2 : Fin 32)
  /-- TSNAP stages a domain, timer or port energy snapshot with the next index (R172). -/
  | tsnap (h : OpHdr) (s1 : Fin 32)
  /-- TAPP copies a buffer of 1–512 words into a record append while issue is frozen (R176). -/
  | tapp (h : OpHdr) (s1 : Fin 32) (s2 : Fin 32)
  /-- TAPP_COPY_END: The TXU copies the last word of a TAPP buffer and the group's issue resumes (R173). -/
  | tappCopyEnd (n : Fin 32) (fl : Flips)
  /-- TFRM stages the release of a held frame descriptor and claims it (R177). -/
  | tfrm (h : OpHdr) (s1 : Fin 32)
  /-- TCOMMIT starts the commit, immediately or holding in WAITING for a trigger (R178). -/
  | tcommit (h : OpHdr) (s1 : Fin 32)
  /-- TABORT aborts the current transaction with code USER (R183). -/
  | tabort (h : OpHdr)
  /-- RESERVATION_GRANT: The ditch rider grants or refuses a commit's reservation on its next cycle against the visible budget (R308). -/
  | reservationGrant (n : Fin 32)
  /-- PREP_DURABLE: The PREP entry becomes durable and the transaction goes to its apply tick or to WAITING (R169). -/
  | prepDurable (n : Fin 32) (ok : Bool)
  /-- APPLY_PORT_TICK: On the apply port tick every staged write is applied, every snapshot taken and the MARK write started (R171). -/
  | applyPortTick (timers : List (Fin 64)) (ptp0 : Nat) (ptp1 : Nat)
  /-- MARK_DURABLE: When the MARK entry is durable the TXU releases frames, carries out home writes and writes DONE (R169). -/
  | markDurable (n : Fin 32)
  /-- DONE_DURABLE: The DONE entry becomes durable, releasing claims and the reservation and setting the result committed (R181). -/
  | doneDurable (n : Fin 32)
  /-- TX_TIMEOUT: WTO milliseconds in WAITING without a trigger abort the transaction with TIMEOUT (R178). -/
  | txTimeout (n : Fin 32)
  /-- KILL: TXCMD.KILL aborts the named open, preparing or waiting transaction with code KILL (R202). -/
  | kill (who : Requester) (n : Fin 32)
  /-- JOURNAL_TAIL_WRITE: A valid write of RSJTAIL moves the journal tail and rewrites both control block copies (R203). -/
  | journalTailWrite (who : Requester) (val : Half)
  /-- SYSTEM_COMMIT: A system commit writes a retirement word and its audit entry in the required order without a transaction number (R190). -/
  | systemCommit
  /-- UNWIND_END: Unwinding ends when no released access is outstanding, and arbitration or restart follows (R216). -/
  | unwindEnd (c : Fin 64)
  /-- UNWIND_TIMEOUT: Unwinding not ended 2,688 cycles after the freeze abandons the remaining accesses and forces a restart (R216). -/
  | unwindTimeout (c : Fin 64)
  /-- ARBITRATION_TEST_END: The 40,960-cycle arbitration test ends and its outcome blames a suspect, nobody or the arbiter (R221). -/
  | arbitrationTestEnd (f : Fin 16) (v : ArbVerdict)
  /-- GROUP_RESUME: A re-paired group takes the caliper exception at monitor level with MEPC at the mismatched bundle (R223). -/
  | groupResume (f : Fin 16)
  /-- GROUP_RESTART: A group is made consistent by a JOIN from the lead and restarts at its partition's restart vector (R224). -/
  | groupRestart (q : RestartJoin)
  /-- MINORITY_TEST_END: A triple's minority member finishes its test and is retired or becomes SPARE, with an automatic JOIN when AUTOJ is set (R225). -/
  | minorityTestEnd (c : Fin 64) (fails : Bool)
  /-- SPLIT detaches target cells of a group as singles, stopped or spare cells after quiesce (R230). -/
  | split (who : Requester) (f : Fin 16) (src : Fin 4) (tgt : BitVec 4) (nrole : Fin 4)
  /-- JOIN copies a source's state into STOPPED or SPARE targets to form a larger group (R231). -/
  | join (who : Requester) (f : Fin 16) (src : Fin 4) (tgt : BitVec 4)
  /-- STOP sets target singles to STOPPED after quiesce (R234). -/
  | stop (who : Requester) (f : Fin 16) (tgt : BitVec 4)
  /-- SPARE sets STOPPED targets to SPARE and removes them from their partition (R234). -/
  | spare (who : Requester) (f : Fin 16) (tgt : BitVec 4)
  /-- RETIRE retires STOPPED or SPARE targets (R234). -/
  | retire (who : Requester) (f : Fin 16) (tgt : BitVec 4)
  /-- QUIESCE_END: Quiesce ends when loads, long ops, stores, I/O writes and TXU ops have completed, and the command proceeds (R229). -/
  | quiesceEnd (f : Fin 16) (differ : BitVec 101)
  /-- QUIESCE_DRAIN_TIMEOUT: Quiesce not ended in 2,688 cycles fails the command with DRAIN and the source resumes (R229). -/
  | quiesceDrainTimeout (f : Fin 16)
  /-- JOIN_END: The JOIN copy phases end and the group starts, or a copy error fails the JOIN with COPYERR (R232). -/
  | joinEnd (f : Fin 16) (bad : Bool)
  /-- CELL_RETIREMENT_CLEAR: FnRET.CLR under an installer session clears retirement bits, which return the cells as STOPPED (R249). -/
  | cellRetirementClear (who : Requester) (f : Fin 16) (mask : BitVec 4)
  /-- CLOCK_CHANGE: A write to FnCLK.FREQ stops the furrow's cells while its FPLL relocks (R240). -/
  | clockChange (who : Requester) (f : Fin 16) (freq : Fin 16)
  /-- RELOCK_END: The FPLL relocks and the furrow's cells restart at the new clock (R240). -/
  | relockEnd (f : Fin 16)
  /-- CALIPER_TEST: FnCTEST.GO inverts one compared bit of a follower for one cycle and records whether both comparators detected it (R241). -/
  | caliperTest (f : Fin 16) (go : Option (Requester × Half)) (r : TestFound)
  /-- FAULT_ASSERT: A fault source's rising active level is classified and its reaction, record and counter applied (R255). -/
  | faultAssert (k : Sampled) (ext : Option (Fin 64))
  /-- FAULT_DEASSERT: A DEVFAT source's deassertion restarts the quiet timer (R268). -/
  | faultDeassert (k : Fin 192) (u : Fin 64)
  /-- FAULT_RESTART: After the quiet period the collector counts a recovery and restarts the device, or sets LATCH at the limit (R269). -/
  | faultRestart
  /-- RECOVERY_WINDOW_END: WIN minutes after the window opened, CNT returns to 0 (R272). -/
  | recoveryWindowEnd
  /-- FEED: A write to FCFEED from the feed partition is judged as a valid feed or asserts FS184 (R263). -/
  | feed (who : Requester) (key : BitVec 8)
  /-- FEED_TIMEOUT: WMAX passing after a valid feed without another asserts FS184 and clears FEEDV (R264). -/
  | feedTimeout
  /-- FEED_WARNING: Three quarters of WMAX after the last valid feed the collector raises EV233 (R264). -/
  | feedWarning
  /-- ICLR: FCREC.ICLR under an installer session clears LATCH and CNT and may start an uncounted fault restart (R273). -/
  | iclr (who : Requester) (val : Half)
  /-- CF_CLEAR: Writing 1 to FCSTAT.CF clears it only when no CHFAT source is active (R262). -/
  | cfClear (who : Requester) (val : Half)
  /-- SOFTWARE_DEVICE_FATAL: FCSWF.DEV asserts FS191 (R292). -/
  | softwareDeviceFatal (who : Requester)
  /-- SOFTWARE_CHANNEL_FATAL: FCSWF.CH asserts FS190 on the channels in CHM (R292). -/
  | softwareChannelFatal (who : Requester) (mask : BitVec 16)
  /-- SAFETY_READBACK_FAULT: A safety ball differing from its commanded level for 8 cycles asserts FS188 (R260). -/
  | safetyReadbackFault (u : Fin 4)
  /-- OSCILLATOR_CROSS_CHECK: An ALIVE oscillator ratio more than 12 % off nominal over a window asserts FS158 (R261). -/
  | oscillatorCrossCheck
  /-- FSTOP_PULSE_TEST: Every second FSTOP is pulse-tested for 200 ns, and a failure asserts FS189 (R258). -/
  | fstopPulseTest (ok : Bool)
  /-- BIST_GO: BCTL.GO starts a march on a permitted target or ends with RES = 4 (R280). -/
  | bistGo (who : Requester) (val : Half)
  /-- BIST_END: A march ends, records its result and first failure and raises EV245 and EV246 (R280). -/
  | bistEnd (n : Nat) (fail : Option BistFail)
  /-- SPARE_TEST_VISIT: Every PER seconds the engine visits the next furrow with a spare and starts testing its spares (R281). -/
  | spareTestVisit
  /-- SPARE_TEST_END: A spare test ends and the spare returns to SPARE or is retired with FS187 (R281). -/
  | spareTestEnd (c : Fin 64) (pass : Bool)
  /-- MRAM_SCRUB: The scrub reads an MRAM word and writes a single-bit error back corrected, or counts an uncorrectable word (R283). -/
  | mramScrub (a : Fin 0x1000000000) (mem : BitVec 80) (taken : Bool)
  /-- PATROL_SCRUB: A patrol reads an SRAM or DRAM word and rewrites a corrected word, or counts an uncorrectable one (R480). -/
  | patrolScrub (a : Fin 0x2000000000) (mem : BitVec 80) (taken : Bool)
  /-- RAIL_OUT_OF_REGULATION: A rail outside ±5 % for 10 µs asserts FS175 with its unit (R297). -/
  | railOutOfRegulation (u : Fin 4)
  /-- BANK_MEASUREMENT_END: The bank's charge or bleed step ends, giving C_m and the bounds C_U and C_L (R300). -/
  | bankMeasurementEnd (us : Nat)
  /-- REMEAS: DRCTL.REMEAS measures the bank again while not shedding (R300). -/
  | remeas (who : Requester) (val : Half)
  /-- CHARGE_COMPLETE: The charger reaches V_CHG and holds the bank between V_CHG − 0.20 V and V_CHG (R301). -/
  | chargeComplete
  /-- BANK_LEAK: A mean holding current above 10 mA over 10 s asserts FS176 with BREF 4 (R302). -/
  | bankLeak
  /-- ACCOUNT_UPDATE: Every 1 ms the ditch rider recomputes the joule accounts and the LOW cause (R307). -/
  | accountUpdate (vin : BitVec 18) (hold : BitVec 18) (pin : BitVec 18) (iin : BitVec 18)
  /-- POWER_ON_WEIR: VIN above 8.2 V for 1 ms begins a power-on start (R304). -/
  | powerOnWeir
  /-- WARN: VIN below WARN for 20 µs closes the hold-up switch, sets SHED, refuses reservations and starts the shed plan (R304). -/
  | warn
  /-- SUPPLY_RETURN: VIN above WARN + 0.3 V for 10 ms stops the plan at its next boundary and reopens the switch (R315). -/
  | supplyReturn
  /-- CUT: The converter input at CUT stops the converter, aborting transactions short of their apply tick and ending in the unpowered state (R306). -/
  | cut
  /-- SHED_END: The END step ends the plan, sets PLANEND and aborts waiting transactions with SHED (R311). -/
  | shedEnd
  /-- SHED_NOTE: The NOTE step sets the STEP cause only (R311). -/
  | shedNote
  /-- ABORTW aborts with SHED every transaction waiting for a trigger (R311). -/
  | abortw
  /-- CHSAFE takes each named channel to SAFE (R311). -/
  | chsafe
  /-- PORTOFFL disables each named port of FP0–FP15 (R311). -/
  | portoffl
  /-- PORTOFFH disables each named port of FP16–FP31 (R311). -/
  | portoffh
  /-- RAILOFF disables every port and switches the field rail off (R311). -/
  | railoff
  /-- CLKDN limits the named furrows' cell clocks to 0.5 GHz (R311). -/
  | clkdn
  /-- PARK quiesces and clock-gates every cell of the named furrows, keeping all state (R312). -/
  | park
  /-- FOFF stops and powers off the named furrows, aborting their unapplied transactions with OWNER (R312). -/
  | foff
  /-- DRAMOFF puts the DRAM in self-refresh or powers it off (R311). -/
  | dramoff
  /-- ETHOFF powers down the named Ethernet ports (R311). -/
  | ethoff
  /-- WAITX waits ARG ms more before the next step (R311). -/
  | waitx
  /-- THROTTLE_STEP: Every 10 ms while hot the furrow clock falls one code, or every 100 ms once cool it rises one code (R318). -/
  | throttleStep (f : Fin 16)
  /-- DRAM_REFRESH: Each DRAM bank is refreshed for 180 ns once every 3.9 µs (R475). -/
  | dramRefresh (bank : Fin 64)
  /-- ROW_CLOSE: A DRAM bank idle for 1 µs closes its open row (R475). -/
  | rowClose (bank : Fin 64)
  /-- ADD writes the sum of two registers (R377). -/
  | add (h : OpHdr) (d : Fin 32) (s1 : Fin 32) (s2 : Fin 32)
  /-- SUB writes the difference of two registers (R377). -/
  | sub (h : OpHdr) (d : Fin 32) (s1 : Fin 32) (s2 : Fin 32)
  /-- ADDF adds and sets C, V and SV (R378). -/
  | addf (h : OpHdr) (d : Fin 32) (s1 : Fin 32) (s2 : Fin 32)
  /-- SUBF subtracts and sets C, V and SV (R378). -/
  | subf (h : OpHdr) (d : Fin 32) (s1 : Fin 32) (s2 : Fin 32)
  /-- ADC adds with carry and sets the flags (R378). -/
  | adc (h : OpHdr) (d : Fin 32) (s1 : Fin 32) (s2 : Fin 32)
  /-- SBC subtracts with borrow and sets the flags (R378). -/
  | sbc (h : OpHdr) (d : Fin 32) (s1 : Fin 32) (s2 : Fin 32)
  /-- ADDS adds with signed saturation (R378). -/
  | adds (h : OpHdr) (d : Fin 32) (s1 : Fin 32) (s2 : Fin 32)
  /-- SUBS subtracts with signed saturation (R378). -/
  | subs (h : OpHdr) (d : Fin 32) (s1 : Fin 32) (s2 : Fin 32)
  /-- AND writes the bitwise AND of two registers (R377). -/
  | and (h : OpHdr) (d : Fin 32) (s1 : Fin 32) (s2 : Fin 32)
  /-- OR writes the bitwise OR of two registers (R377). -/
  | or (h : OpHdr) (d : Fin 32) (s1 : Fin 32) (s2 : Fin 32)
  /-- XOR writes the bitwise XOR of two registers (R377). -/
  | xor (h : OpHdr) (d : Fin 32) (s1 : Fin 32) (s2 : Fin 32)
  /-- ANDN writes s1 AND NOT s2 (R377). -/
  | andn (h : OpHdr) (d : Fin 32) (s1 : Fin 32) (s2 : Fin 32)
  /-- SHL shifts left by a register count (R379). -/
  | shl (h : OpHdr) (d : Fin 32) (s1 : Fin 32) (s2 : Fin 32)
  /-- SHR shifts right logically by a register count (R379). -/
  | shr (h : OpHdr) (d : Fin 32) (s1 : Fin 32) (s2 : Fin 32)
  /-- SAR shifts right arithmetically by a register count (R379). -/
  | sar (h : OpHdr) (d : Fin 32) (s1 : Fin 32) (s2 : Fin 32)
  /-- ROL rotates left by a register count modulo 72 (R377). -/
  | rol (h : OpHdr) (d : Fin 32) (s1 : Fin 32) (s2 : Fin 32)
  /-- MIN writes the signed lesser value (R377). -/
  | min (h : OpHdr) (d : Fin 32) (s1 : Fin 32) (s2 : Fin 32)
  /-- MAX writes the signed greater value (R377). -/
  | max (h : OpHdr) (d : Fin 32) (s1 : Fin 32) (s2 : Fin 32)
  /-- MINU writes the unsigned lesser value (R377). -/
  | minu (h : OpHdr) (d : Fin 32) (s1 : Fin 32) (s2 : Fin 32)
  /-- MAXU writes the unsigned greater value (R377). -/
  | maxu (h : OpHdr) (d : Fin 32) (s1 : Fin 32) (s2 : Fin 32)
  /-- CLZ counts leading zero bits (R377). -/
  | clz (h : OpHdr) (d : Fin 32) (s1 : Fin 32)
  /-- POPC counts one bits (R377). -/
  | popc (h : OpHdr) (d : Fin 32) (s1 : Fin 32)
  /-- ABS writes the absolute value (R377). -/
  | abs (h : OpHdr) (d : Fin 32) (s1 : Fin 32)
  /-- ADDI adds a sign-extended immediate (R377). -/
  | addi (h : OpHdr) (d : Fin 32) (s1 : Fin 32) (imm : BitVec 14)
  /-- ANDI ANDs with a zero-extended immediate (R377). -/
  | andi (h : OpHdr) (d : Fin 32) (s1 : Fin 32) (imm : BitVec 14)
  /-- ORI ORs with a zero-extended immediate (R377). -/
  | ori (h : OpHdr) (d : Fin 32) (s1 : Fin 32) (imm : BitVec 14)
  /-- XORI XORs with a zero-extended immediate (R377). -/
  | xori (h : OpHdr) (d : Fin 32) (s1 : Fin 32) (imm : BitVec 14)
  /-- SHLI shifts left by an immediate count (R379). -/
  | shli (h : OpHdr) (d : Fin 32) (s1 : Fin 32) (imm : BitVec 14)
  /-- SHRI shifts right logically by an immediate count (R379). -/
  | shri (h : OpHdr) (d : Fin 32) (s1 : Fin 32) (imm : BitVec 14)
  /-- SARI shifts right arithmetically by an immediate count (R379). -/
  | sari (h : OpHdr) (d : Fin 32) (s1 : Fin 32) (imm : BitVec 14)
  /-- ROLI rotates left by an immediate count (R377). -/
  | roli (h : OpHdr) (d : Fin 32) (s1 : Fin 32) (imm : BitVec 14)
  /-- CMPI.EQ sets a predicate when a register equals the immediate (R377). -/
  | cmpiEq (h : OpHdr) (d : Fin 8) (s1 : Fin 32) (imm : BitVec 14)
  /-- CMPI.NE sets a predicate when a register differs from the immediate (R377). -/
  | cmpiNe (h : OpHdr) (d : Fin 8) (s1 : Fin 32) (imm : BitVec 14)
  /-- CMPI.LT sets a predicate on signed less-than against the immediate (R377). -/
  | cmpiLt (h : OpHdr) (d : Fin 8) (s1 : Fin 32) (imm : BitVec 14)
  /-- CMPI.GE sets a predicate on signed greater-or-equal against the immediate (R377). -/
  | cmpiGe (h : OpHdr) (d : Fin 8) (s1 : Fin 32) (imm : BitVec 14)
  /-- CMPI.LTU sets a predicate on unsigned less-than against the immediate (R377). -/
  | cmpiLtu (h : OpHdr) (d : Fin 8) (s1 : Fin 32) (imm : BitVec 14)
  /-- CMPI.GEU sets a predicate on unsigned greater-or-equal against the immediate (R377). -/
  | cmpiGeu (h : OpHdr) (d : Fin 8) (s1 : Fin 32) (imm : BitVec 14)
  /-- EXTB zero-extends one octet lane (R380). -/
  | extb (h : OpHdr) (d : Fin 32) (s1 : Fin 32) (k : Fin 9)
  /-- EXTBS sign-extends one octet lane (R380). -/
  | extbs (h : OpHdr) (d : Fin 32) (s1 : Fin 32) (k : Fin 9)
  /-- INSB inserts an octet into a lane (R380). -/
  | insb (h : OpHdr) (d : Fin 32) (s1 : Fin 32) (s2 : Fin 32) (k : Fin 9)
  /-- EXTQ zero-extends one quarter (R380). -/
  | extq (h : OpHdr) (d : Fin 32) (s1 : Fin 32) (k : Fin 4)
  /-- EXTQS sign-extends one quarter (R380). -/
  | extqs (h : OpHdr) (d : Fin 32) (s1 : Fin 32) (k : Fin 4)
  /-- INSQ inserts a quarter (R380). -/
  | insq (h : OpHdr) (d : Fin 32) (s1 : Fin 32) (s2 : Fin 32) (k : Fin 4)
  /-- EXTH zero-extends one half (R380). -/
  | exth (h : OpHdr) (d : Fin 32) (s1 : Fin 32) (k : Fin 2)
  /-- EXTHS sign-extends one half (R380). -/
  | exths (h : OpHdr) (d : Fin 32) (s1 : Fin 32) (k : Fin 2)
  /-- INSH inserts a half (R380). -/
  | insh (h : OpHdr) (d : Fin 32) (s1 : Fin 32) (s2 : Fin 32) (k : Fin 2)
  /-- BEQM writes a mask of equal octet lanes (R380). -/
  | beqm (h : OpHdr) (d : Fin 32) (s1 : Fin 32) (s2 : Fin 32)
  /-- BSWAP reverses the octet lanes (R380). -/
  | bswap (h : OpHdr) (d : Fin 32) (s1 : Fin 32)
  /-- LADD adds octet lanes modulo 256 (R380). -/
  | ladd (h : OpHdr) (d : Fin 32) (s1 : Fin 32) (s2 : Fin 32)
  /-- LSUB subtracts octet lanes modulo 256 (R380). -/
  | lsub (h : OpHdr) (d : Fin 32) (s1 : Fin 32) (s2 : Fin 32)
  /-- CMP.EQ sets a predicate when two registers are equal (R381). -/
  | cmpEq (h : OpHdr) (d : Fin 8) (s1 : Fin 32) (s2 : Fin 32)
  /-- CMP.NE sets a predicate when two registers differ (R381). -/
  | cmpNe (h : OpHdr) (d : Fin 8) (s1 : Fin 32) (s2 : Fin 32)
  /-- CMP.LT sets a predicate on signed less-than (R381). -/
  | cmpLt (h : OpHdr) (d : Fin 8) (s1 : Fin 32) (s2 : Fin 32)
  /-- CMP.GE sets a predicate on signed greater-or-equal (R381). -/
  | cmpGe (h : OpHdr) (d : Fin 8) (s1 : Fin 32) (s2 : Fin 32)
  /-- CMP.LTU sets a predicate on unsigned less-than (R381). -/
  | cmpLtu (h : OpHdr) (d : Fin 8) (s1 : Fin 32) (s2 : Fin 32)
  /-- CMP.GEU sets a predicate on unsigned greater-or-equal (R381). -/
  | cmpGeu (h : OpHdr) (d : Fin 8) (s1 : Fin 32) (s2 : Fin 32)
  /-- TST sets a predicate when the AND of two registers is nonzero (R381). -/
  | tst (h : OpHdr) (d : Fin 8) (s1 : Fin 32) (s2 : Fin 32)
  /-- PAND ANDs two predicates (R381). -/
  | pand (h : OpHdr) (d : Fin 8) (s1 : Fin 8) (s2 : Fin 8)
  /-- POR ORs two predicates (R381). -/
  | por (h : OpHdr) (d : Fin 8) (s1 : Fin 8) (s2 : Fin 8)
  /-- PXOR XORs two predicates (R381). -/
  | pxor (h : OpHdr) (d : Fin 8) (s1 : Fin 8) (s2 : Fin 8)
  /-- PANDN writes Fs1 AND NOT Fs2 (R381). -/
  | pandn (h : OpHdr) (d : Fin 8) (s1 : Fin 8) (s2 : Fin 8)
  /-- PNOT inverts a predicate (R381). -/
  | pnot (h : OpHdr) (d : Fin 8) (s1 : Fin 8)
  /-- MFF reads the predicates into a general register (R328). -/
  | mff (h : OpHdr) (d : Fin 32)
  /-- MTF writes F1–F7 from a general register (R328). -/
  | mtf (h : OpHdr) (s1 : Fin 32)
  /-- MULS writes a signed 144-bit product to a product register (R382). -/
  | muls (h : OpHdr) (d : Fin 4) (s1 : Fin 32) (s2 : Fin 32)
  /-- MULU writes an unsigned 144-bit product (R382). -/
  | mulu (h : OpHdr) (d : Fin 4) (s1 : Fin 32) (s2 : Fin 32)
  /-- MACS accumulates a signed product into a product register (R383). -/
  | macs (h : OpHdr) (d : Fin 4) (s1 : Fin 32) (s2 : Fin 32)
  /-- MACU accumulates an unsigned product (R383). -/
  | macu (h : OpHdr) (d : Fin 4) (s1 : Fin 32) (s2 : Fin 32)
  /-- MSUS subtracts a signed product from a product register (R383). -/
  | msus (h : OpHdr) (d : Fin 4) (s1 : Fin 32) (s2 : Fin 32)
  /-- MULL writes the low 72 bits of a product to a general register (R382). -/
  | mull (h : OpHdr) (d : Fin 32) (s1 : Fin 32) (s2 : Fin 32)
  /-- MFPH reads the high half of a product register (R383). -/
  | mfph (h : OpHdr) (d : Fin 32) (s1 : Fin 4)
  /-- MFPL reads the low half of a product register (R383). -/
  | mfpl (h : OpHdr) (d : Fin 32) (s1 : Fin 4)
  /-- MTPH writes the high half of a product register (R383). -/
  | mtph (h : OpHdr) (d : Fin 4) (s1 : Fin 32)
  /-- MTPL writes the low half of a product register (R383). -/
  | mtpl (h : OpHdr) (d : Fin 4) (s1 : Fin 32)
  /-- MFPX extracts 72 bits of a product register from bit n (R384). -/
  | mfpx (h : OpHdr) (d : Fin 32) (s1 : Fin 4) (n : Fin 73)
  /-- MFPXR extracts 72 bits from bit n with rounding (R384). -/
  | mfpxr (h : OpHdr) (d : Fin 32) (s1 : Fin 4) (n : Fin 72)
  /-- XMUL multiplies a product register by a register as a long op (R385). -/
  | xmul (h : OpHdr) (d : Fin 4) (s1 : Fin 4) (s2 : Fin 32)
  /-- XMULT multiplies as XMUL and traps on overflow (R385). -/
  | xmult (h : OpHdr) (d : Fin 4) (s1 : Fin 4) (s2 : Fin 32)
  /-- DIV divides signed as a long op, saturating on a zero divisor (R386). -/
  | div (h : OpHdr) (d : Fin 32) (s1 : Fin 32) (s2 : Fin 32)
  /-- DIVU divides unsigned as a long op (R386). -/
  | divu (h : OpHdr) (d : Fin 32) (s1 : Fin 32) (s2 : Fin 32)
  /-- REM writes the signed remainder (R386). -/
  | rem (h : OpHdr) (d : Fin 32) (s1 : Fin 32) (s2 : Fin 32)
  /-- REMU writes the unsigned remainder (R386). -/
  | remu (h : OpHdr) (d : Fin 32) (s1 : Fin 32) (s2 : Fin 32)
  /-- DIVQ writes the 48.24 quotient (R386). -/
  | divq (h : OpHdr) (d : Fin 32) (s1 : Fin 32) (s2 : Fin 32)
  /-- DIVT divides signed and traps on a zero divisor (R386). -/
  | divt (h : OpHdr) (d : Fin 32) (s1 : Fin 32) (s2 : Fin 32)
  /-- DIVUT divides unsigned and traps on a zero divisor (R386). -/
  | divut (h : OpHdr) (d : Fin 32) (s1 : Fin 32) (s2 : Fin 32)
  /-- REMT writes the signed remainder and traps on a zero divisor (R386). -/
  | remt (h : OpHdr) (d : Fin 32) (s1 : Fin 32) (s2 : Fin 32)
  /-- REMUT writes the unsigned remainder and traps on a zero divisor (R386). -/
  | remut (h : OpHdr) (d : Fin 32) (s1 : Fin 32) (s2 : Fin 32)
  /-- DIVQT writes the 48.24 quotient and traps on a zero divisor (R386). -/
  | divqt (h : OpHdr) (d : Fin 32) (s1 : Fin 32) (s2 : Fin 32)
  /-- SQRTU writes the integer square root (R385). -/
  | sqrtu (h : OpHdr) (d : Fin 32) (s1 : Fin 32)
  /-- SQRTQ writes the 48.24 square root (R385). -/
  | sqrtq (h : OpHdr) (d : Fin 32) (s1 : Fin 32)
  /-- LONG_OP_COMPLETE: A long op completes, writes its destination and flags, and may raise its exception (R387). -/
  | longOpComplete (c : Fin 64) (idx : Nat)
  /-- LIMM builds a constant from its immediate and payload word according to MODE (R356). -/
  | limm (h : OpHdr) (slot : Fin 4) (own : Bool) (d : Fin 32) (mode : Fin 4) (v : BitVec 52)
  /-- LDW loads a word (R389). -/
  | ldw (h : OpHdr) (d : Fin 32) (s1 : Fin 32) (imm : BitVec 14)
  /-- LDH loads a zero-extended half (R390). -/
  | ldh (h : OpHdr) (d : Fin 32) (s1 : Fin 32) (woff : BitVec 10) (k : Fin 16)
  /-- LDHS loads a sign-extended half (R390). -/
  | ldhs (h : OpHdr) (d : Fin 32) (s1 : Fin 32) (woff : BitVec 10) (k : Fin 16)
  /-- LDQ loads a zero-extended quarter (R390). -/
  | ldq (h : OpHdr) (d : Fin 32) (s1 : Fin 32) (woff : BitVec 10) (k : Fin 16)
  /-- LDQS loads a sign-extended quarter (R390). -/
  | ldqs (h : OpHdr) (d : Fin 32) (s1 : Fin 32) (woff : BitVec 10) (k : Fin 16)
  /-- LDB loads a zero-extended octet lane (R390). -/
  | ldb (h : OpHdr) (d : Fin 32) (s1 : Fin 32) (woff : BitVec 10) (k : Fin 16)
  /-- LDBS loads a sign-extended octet lane (R390). -/
  | ldbs (h : OpHdr) (d : Fin 32) (s1 : Fin 32) (woff : BitVec 10) (k : Fin 16)
  /-- STW stores a word through the store buffer (R389). -/
  | stw (h : OpHdr) (d : Fin 32) (s1 : Fin 32) (imm : BitVec 14)
  /-- STH stores a half, merged at the target (R390). -/
  | sth (h : OpHdr) (d : Fin 32) (s1 : Fin 32) (woff : BitVec 10) (k : Fin 16)
  /-- STQ stores a quarter, merged at the target (R390). -/
  | stq (h : OpHdr) (d : Fin 32) (s1 : Fin 32) (woff : BitVec 10) (k : Fin 16)
  /-- STB stores an octet lane, merged at the target (R390). -/
  | stb (h : OpHdr) (d : Fin 32) (s1 : Fin 32) (woff : BitVec 10) (k : Fin 16)
  /-- LDWX loads a word at a scaled indexed address (R390). -/
  | ldwx (h : OpHdr) (d : Fin 32) (s1 : Fin 32) (s2 : Fin 32) (sh : Fin 4)
  /-- STWX stores a word at a scaled indexed address (R390). -/
  | stwx (h : OpHdr) (d : Fin 32) (s1 : Fin 32) (s2 : Fin 32) (sh : Fin 4)
  /-- BMOV copies words in ascending order as a resumable block op (R394). -/
  | bmov (h : OpHdr) (d : Fin 32) (s1 : Fin 32) (s2 : Fin 32)
  /-- BMOVD copies words in descending order (R394). -/
  | bmovd (h : OpHdr) (d : Fin 32) (s1 : Fin 32) (s2 : Fin 32)
  /-- BFILL fills words with a value (R392). -/
  | bfill (h : OpHdr) (d : Fin 32) (s1 : Fin 32) (s2 : Fin 32)
  /-- CRCB folds words into a reflected CRC-32 register (R396). -/
  | crcb (h : OpHdr) (d : Fin 32) (s1 : Fin 32) (s2 : Fin 32)
  /-- CMPB compares two blocks until the first differing words (R394). -/
  | cmpb (h : OpHdr) (d : Fin 32) (s1 : Fin 32) (s2 : Fin 32)
  /-- BLOCK_WORD_STEP: A block op word step completes, updating its operand registers, and events may be taken between steps (R395). -/
  | blockWordStep (x : Sends) (fl : Flips) (flD : Flips)
  /-- DCINV invalidates the data-cache line holding an address (R391). -/
  | dcinv (h : OpHdr) (s1 : Fin 32)
  /-- DCINVA invalidates the whole data cache and attribute cache (R391). -/
  | dcinva (h : OpHdr)
  /-- LOAD_RETURN: A load or IN response is held to its nominal latency or ends a freeze, and writes its destination (R412). -/
  | loadReturn (c : Fin 64) (idx : Nat) (fl : Flips)
  /-- STORE_DRAIN: The store buffer sends its oldest store to its target, where the sluice checks it (R422). -/
  | storeDrain (c : Fin 64) (fl : Flips)
  /-- STORE_ACK: A target acknowledges a store and its store-buffer entry is freed (R422). -/
  | storeAck (c : Fin 64) (idx : Nat)
  /-- FETCH_LINE_RETURN: A code-store or DRAM line miss returns and fills the wide-line buffer (R416). -/
  | fetchLineReturn (x : Sends) (fl : Flips)
  /-- CODE_PREFETCH: Fetch reaching the second half of a line prefetches the next line, declined silently if refused (R418). -/
  | codePrefetch (x : Prefetch)
  /-- BR branches to a relative target after its delay bundle when its predicate is true (R398). -/
  | br (h : OpHdr) (off : BitVec 24)
  /-- CALL branches and pushes the return address on the return stack (R398). -/
  | call (h : OpHdr) (off : BitVec 24)
  /-- JR branches to a register target (R398). -/
  | jr (h : OpHdr) (s1 : Fin 32)
  /-- CALLR branches to a register target and pushes the return address (R398). -/
  | callr (h : OpHdr) (s1 : Fin 32)
  /-- RET pops the return stack and branches to the popped address (R398). -/
  | ret (h : OpHdr)
  /-- RETX waits for its fences and restores ST and PC from EPC and ESTAT, or MEPC and MESTAT (R401). -/
  | retx (h : OpHdr)
  /-- LOOP sets up a hardware loop level and sets ST.LEN (R359). -/
  | loop (h : OpHdr) (level : Fin 4) (gc : Fin 32) (off : BitVec 17)
  /-- SYSC enters S, or M for the M variant, as a trap (R400). -/
  | sysc (h : OpHdr) (m : Bool)
  /-- MFS copies a special register into a general register (R402). -/
  | mfs (h : OpHdr) (d : Fin 32) (spr : Fin 128)
  /-- MTS writes a special register, with ST taking effect after two shadow bundles (R333). -/
  | mts (h : OpHdr) (s1 : Fin 32) (spr : Fin 128)
  /-- IN reads an I/O register into a general register (R403). -/
  | ioIn (h : OpHdr) (d : Fin 32) (s1 : Fin 32) (imm : BitVec 14)
  /-- OUT posts a write of an I/O register (R403). -/
  | ioOut (h : OpHdr) (d : Fin 32) (s1 : Fin 32) (o : OutImm)
  /-- IST queues a write of one op to the local instruction SRAM (R345). -/
  | ist (h : OpHdr) (d : Fin 32) (s1 : Fin 32) (imm : BitVec 14)
  /-- IST_WRITE: A queued IST reaches the array after the third following bundle has been read (R421). -/
  | istWrite (c : Fin 64)
  /-- ISYNC discards the loop and wide-line buffers so the next bundle is fetched afresh (R404). -/
  | isync (h : OpHdr)
  /-- FENCE holds its bundle until the conditions of its mask hold (R405). -/
  | fence (h : OpHdr) (mask : BitVec 4)
  /-- TLBI_PAGE_S1: TLBI kind 0 invalidates the partition's stage-1 entries of one page (R406). -/
  | tlbiPageS1 (h : OpHdr) (s1 : Fin 32)
  /-- TLBI_ALL_S1: TLBI kind 1 invalidates all stage-1 entries of the partition (R406). -/
  | tlbiAllS1 (h : OpHdr)
  /-- TLBI_PAGE_S2: TLBI kind 2 invalidates a partition's stage-2 entries of one intermediate page (R406). -/
  | tlbiPageS2 (h : OpHdr) (s1 : Fin 32) (s2 : Fin 32)
  /-- TLBI_PARTITION: TLBI kind 3 invalidates all entries of both stages of a partition (R406). -/
  | tlbiPartition (h : OpHdr) (s2 : Fin 32)
  /-- TLBI_ALL: TLBI kind 4 invalidates every TLB entry (R406). -/
  | tlbiAll (h : OpHdr)
  /-- SEV sets the event latch of the named cell, group or partition (R363). -/
  | sev (h : OpHdr) (s1 : Fin 32)
  /-- WFE clears a set event latch or gates the clock until the latch is set or a waking event arrives (R364). -/
  | wfe (h : OpHdr)
  /-- WFE_WAKE: A waiting WFE is woken by the latch or an eligible event and issue continues (R364). -/
  | wfeWake (c : Fin 64)
  /-- WAITC waits until a domain reading reaches a threshold, completing at once if already reached (R70). -/
  | waitc (h : OpHdr) (s1 : Fin 32) (dom : Fin 32) (conf : Bool) (down : Bool)
  /-- BRK raises the breakpoint exception, or halts the group under debug with BRKH (R408). -/
  | brk (h : OpHdr)
  /-- RESERVED_OP: An op with a reserved encoding has an undefined effect within fixed bounds (R368). -/
  | reservedOp (h : OpHdr) (slot : Fin 4)
  /-- COMPLETION_CAUSE: A completion cause is raised at the first boundary where the cell is unfrozen and at the op's entry depth (R435). -/
  | completionCause (x : Sends)
  /-- EVENT_ENTRY: At a boundary the cell takes the highest-priority pending event that passes the level and priority test (R451). -/
  | eventEntry (x : Sends)
  /-- TAKEOVER: A higher event pending in cycles 0–7 of an event entry takes the entry over (R447). -/
  | takeover (x : Sends)
  /-- DOORBELL: A write of ECDB raises EV236 + k for each bit written as 1 (R453). -/
  | doorbell (who : Requester) (mask : BitVec 8)
  /-- DROP: ECXCTL.DROP discards every held completion cause of the cell (R436). -/
  | drop (who : Requester)
  /-- ROUTE_WRITE: A write to ECRTe reroutes the event from the next event-controller cycle (R450). -/
  | routeWrite (who : Requester) (e : Fin 256) (val : Half)
  /-- WALK_READ_RETURN: A translation walk read returns and the walk continues, fills the TLB or ends in a translation fault (R461). -/
  | walkReadReturn (x : Sends) (fl : Flips)
  /-- REGION_ENABLE: A write setting SLATTR.EN enables a region or is rejected with a reason in SLIDX.REJ (R493). -/
  | regionEnable (who : Requester) (sl : Fin 99) (val : Half)
  /-- REGION_LOCK: A write with SLATTR.LK locks the region's registers until reset (R494). -/
  | regionLock (who : Requester) (sl : Fin 99) (val : Half)
  /-- SLUICE_RULE_WRITE: A rule write takes effect on the next sluice cycle and notes the requests in flight (R495). -/
  | sluiceRuleWrite (who : Requester) (sl : Fin 99) (reg : Fin 3) (val : Half)
  /-- DRAINED: SLIDX.DRAINED sets when every request noted at the last rule write has completed (R495). -/
  | drained (sl : Fin 99)
  /-- RING_TAIL_WRITE: A write of a ring's TAIL gives descriptors to the port (R504). -/
  | ringTailWrite (who : Requester) (p : Fin 2) (tx : Bool) (k : Fin 8) (tail : BitVec 12)
  /-- RING_ENABLE: Setting a ring's EN starts or restarts it and clears its error bit, or is refused while its held descriptor is claimed (R523). -/
  | ringEnable (who : Requester) (p : Fin 2) (tx : Bool) (k : Fin 8) (val : Half)
  /-- DESCRIPTOR_READ: A transmit ring reads the descriptor at HEAD and sends it, holds it, or stops on a fault (R506). -/
  | descriptorRead (p : Fin 2) (k : Fin 8) (desc : Flips) (buf : Flips)
  /-- FRAME_SENT: A transmitted frame ends, its descriptor is written DONE with its status and time stamp, and HEAD advances (R506). -/
  | frameSent (p : Fin 2) (back : Nat)
  /-- REL releases the held descriptor of a transmit ring (R512). -/
  | rel (who : Requester) (p : Fin 2) (k : Fin 8)
  /-- CAN ends the held descriptor as CANCELLED without sending (R512). -/
  | can (who : Requester) (p : Fin 2) (k : Fin 8)
  /-- FRAME_RECEIVED: A received frame passes FCS, PRP, MACsec and the headgate and is stored in the chosen ring or dropped (R508). -/
  | frameReceived (p : Fin 2) (octets : List (BitVec 8)) (fcs : Bool) (back : Nat) (desc : Flips)
  /-- BUCKET_REFILL: Each millisecond the police bucket gains RATE tokens up to BURST (R514). -/
  | bucketRefill (p : Fin 2)
  /-- LINK_CHANGE: A port's link goes up or down, setting the LINK cause (R507). -/
  | linkChange (p : Fin 2) (up : Bool) (anc : Bool)
  /-- TXSA_WRITE: A write of MSpTXSA with V set takes effect from the next frame and sets the next PN to 1 (R517). -/
  | txsaWrite (who : Requester) (p : Fin 2) (val : Half)
  /-- PTP_ADD_WRITE: A write to PTpADD sets the clock increment from the next PTP tick, clamping and setting CLAMP if out of range (R518). -/
  | ptpAddWrite (who : Requester) (p : Fin 2) (val : Half)
  /-- PTP_STEP: A low-half write of PTpSTEP adds the signed offset to the clock on the next PTP tick and sets STEP (R518). -/
  | ptpStep (who : Requester) (p : Fin 2) (val : Half)
  /-- LOCK_TIMEOUT: LKTO seconds without a write to PTpADD clear PTpCTL.LOCK (R520). -/
  | lockTimeout (p : Fin 2)
  /-- NRESET: nRESET low takes the safety balls low and the field terminals to high impedance, holding a committing transaction until its MARK is durable (R602). -/
  | nreset
  /-- NRESET_RELEASE: Release of nRESET samples the straps and begins a start at step 3 (R602). -/
  | nresetRelease (strap : Fin 4)
  /-- RAIL_REGULATION: The converter's rails come into regulation, the own oscillators start and MODE is sampled (R526). -/
  | railRegulation (strap : Fin 4)
  /-- SPLL_LOCK: The crystal starts, SPLL locks, the boot clock moves to 200 MHz and the bank measurement starts (R526). -/
  | spllLock
  /-- SELF_TEST: Fuses are read, pending zeroisation is completed and the security unit runs its self-tests (R526). -/
  | selfTest (ok : Bool) (x : TamperIn)
  /-- XSPI_INIT: The xSPI memory is reset, its SFDP read and 8D-8D-8D mode entered, and both slot headers read (R530). -/
  | xspiInit (errA : Bool) (errB : Bool) (fmhz : BitVec 9) (dummy : BitVec 5)
  /-- SLOT_CHOICE: The loader chooses a candidate slot, verifies its manifest, or enters image recovery when none passes (R539). -/
  | slotChoice (bad : Bool)
  /-- BIST_AT_START: March C− runs on every local SRAM, every furrow SRAM and optionally the DRAM (R279). -/
  | bistAtStart (cells : BitVec 64) (furs : BitVec 16) (drams : BitVec 4)
  /-- SECTION_LOAD: Sections are read, hashed and written, or the code store is kept when the load record matches (R541). -/
  | sectionLoad (bad : Bool)
  /-- RECORDS_APPLY: FURROW, PART and REGS records are applied with system rights (R543). -/
  | recordsApply
  /-- JOURNAL_REPLAY: The TXU walks the journal from the done limit, completing or discarding each PREP entry and setting RDY (R195). -/
  | journalReplay
  /-- BINDINGS_APPLY: Parameter bindings are applied, then LOCKS records set the locks (R547). -/
  | bindingsApply
  /-- FIRST_APPLICATION_BUNDLE: Every running cell enters M at its restart vector with cause 0x23 and nFAULT is released (R445). -/
  | firstApplicationBundle
  /-- STAGE: BTCMD.STAGE starts copying an image from DRAM into the unused slot under an update session (R551). -/
  | stage (who : Requester) (trialn : Fin 16)
  /-- STAGING_PHASE_END: A staging phase ends, starting the next phase or ending staging with its result (R551). -/
  | stagingPhaseEnd (bad : Bool) (n : Nat)
  /-- CONFIRM: BTCMD.CONFIRM programs H3 of the loaded trial slot to zero and may raise the fused minimum SVN (R552). -/
  | confirm (who : Requester)
  /-- RESTART: BTCMD.RESTART begins a start at step 3 (R552). -/
  | restart (who : Requester)
  /-- ABORT: BTCMD.ABORT ends a staging in progress with RES = 3 at its next word (R552). -/
  | abort (who : Requester)
  /-- OPEN: SSCMD.OPEN reads a certificate chain into a session slot for checking (R560). -/
  | sessOpen (who : Requester) (k : Fin 4)
  /-- CHAIN_CHECK_END: The chain check ends and the slot becomes CHALLENGED with a fresh challenge, or fails with a code (R558). -/
  | chainCheckEnd
  /-- PROVE: SSCMD.PROVE verifies the holder's signature over the challenge and opens the session or frees the slot (R560). -/
  | prove (who : Requester) (k : Fin 4)
  /-- CLOSE_SESSION: SSCMD.CLOSE from its partition ends an open session (R561). -/
  | closeSession (who : Requester) (k : Fin 4)
  /-- CHALLENGE_TIMEOUT: A challenge unanswered for CHTO seconds ends the attempt with TIMEOUT (R561). -/
  | challengeTimeout (k : Fin 4)
  /-- SESSION_IDLE_END: IDLE minutes without a session-gated action end the session (R561). -/
  | sessionIdleEnd (k : Fin 4)
  /-- SESSION_EXPIRY: Passing the holder's not-after ends the session (R561). -/
  | sessionExpiry (k : Fin 4)
  /-- IDLE_LIMIT_WRITE: A write of SSCFG.IDLE applies at once to every open session and may end some (R561). -/
  | idleLimitWrite (who : Requester) (val : Half)
  /-- HASH: The HASH job computes SHA-256 of a buffer (R573). -/
  | hash (fl : Flips)
  /-- ENC: The ENC job encrypts with AES in the selected mode (R573). -/
  | enc (fl : Flips)
  /-- DEC: The DEC job decrypts with AES in the selected mode (R573). -/
  | dec (fl : Flips)
  /-- CMAC: The CMAC job computes an AES-CMAC (R573). -/
  | cmac (fl : Flips)
  /-- SIGN: The SIGN job signs a digest with RSASSA-PSS (R573). -/
  | sign (fl : Flips)
  /-- VERIFY: The VERIFY job checks an RSASSA-PSS signature (R573). -/
  | verify (fl : Flips)
  /-- DECRYPT: The DECRYPT job decrypts with RSAES-OAEP (R573). -/
  | decrypt (fl : Flips)
  /-- RANDOM: The RANDOM job delivers octets from the DRBG (R573). -/
  | random
  /-- GENAES: The GENAES job creates an AES key in a slot (R573). -/
  | genaes
  /-- GENRSA: The GENRSA job creates an RSA key pair in a slot (R573). -/
  | genrsa
  /-- UNWRAP: The UNWRAP job unwraps a key into a slot under a key-wrap key (R573). -/
  | unwrap (fl : Flips)
  /-- PUBLOAD: The PUBLOAD job loads an RSA public modulus into a slot (R573). -/
  | pubload (fl : Flips)
  /-- PUBREAD: The PUBREAD job reads an RSA public modulus from a slot (R573). -/
  | pubread
  /-- DELETE: The DELETE job zeroises a slot (R573). -/
  | delete
  /-- ATTEST: The ATTEST job writes a signed attestation report for a nonce (R579). -/
  | attest (fl : Flips)
  /-- IDCERT: The IDCERT job writes the identity certificate (R579). -/
  | idcert
  /-- CKPT: The CKPT job writes an audit checkpoint now (R571). -/
  | ckpt
  /-- RESEAL: The RESEAL job sets SD to the loaded LRD and SEALED to 1 (R565). -/
  | reseal
  /-- REVOKE: The REVOKE job adds a serial to the revocation list (R559). -/
  | revoke (fl : Flips)
  /-- JOB_END: A security job ends, setting SJSTAT and the JOB cause (R573). -/
  | jobEnd
  /-- CHECKPOINT_SIGNED: A checkpoint record finishes signing and is written (R571). -/
  | checkpointSigned
  /-- AUDIT_EXPORT_WRITE: A write of AUEXP naming a valid entry address releases exported entries (R569). -/
  | auditExportWrite (who : Requester) (val : Half)
  /-- TIME_FLOOR_REFRESH: Every 60 s the security unit raises its time floor to the locked PTP time (R559). -/
  | timeFloorRefresh
  /-- TAMPER_RESPONSE: A tamper input bad for FILT + 1 samples zeroises payment keys, closes sessions, locks debug and sets LATCH (R577). -/
  | tamperResponse (q : TamperRun)
  /-- TAMPER_CLEAR: TPCMD.CLR under a TAMPCLR session clears LATCH when every input is good (R578). -/
  | tamperClear (who : Requester)
  /-- EXTEST selects the boundary register for external test in the factory state (R581). -/
  | extest
  /-- IDCODE selects the 32-bit identification register (R581). -/
  | idcode
  /-- SAMPLE_PRELOAD: SAMPLE/PRELOAD selects the boundary register (R581). -/
  | samplePreload
  /-- BYPASS selects the one-bit register, and a denied instruction acts as it and sets DENY (R581). -/
  | bypass
  /-- AUTH_CHAIN_WORD: AUTH command 0 shifts in one word of a certificate chain (R582). -/
  | authChainWord (w : Word)
  /-- AUTH_CHAIN_END: AUTH command 1 ends the chain and has it checked (R582). -/
  | authChainEnd
  /-- AUTH_SIGNATURE: AUTH command 2 shifts in one word of the signature (R582). -/
  | authSignature (w : Word)
  /-- AUTH_SUBMIT: AUTH command 3 submits the signature and enters the debug state or counts a failure (R582). -/
  | authSubmit
  /-- AUTH_EXIT: AUTH command 4 returns the TAP to LOCKED (R582). -/
  | authExit
  /-- AUTH_CHALLENGE: AUTH command 5 reads the challenge (R582). -/
  | authChallenge
  /-- TRST returns the TAP to LOCKED and appends an entry (R582). -/
  | trst
  /-- DEBUG_EXIT: DBCTL.EXIT from the debug port returns to LOCKED (R587). -/
  | debugExit (val : Half)
  /-- CELL_SELECT: The CELL instruction selects the cell for debug access (R581). -/
  | cellSelect (c : Fin 64)
  /-- DEBUG_HALT: RUN halt stops the whole group of the selected cell at a bundle boundary (R238). -/
  | debugHalt
  /-- DEBUG_RESUME: RUN resume releases a halted group (R238). -/
  | debugResume
  /-- DEBUG_STEP: RUN step single-steps the whole group (R238). -/
  | debugStep
  /-- REG: The REG instruction reads or writes a register of a halted cell, applying writes to every member (R581). -/
  | reg (wr : Bool) (idx : BitVec 8) (val : Word)
  /-- MEM: The MEM instruction reads or writes a data word through the sluices (R581). -/
  | mem (wr : Bool) (addr : BitVec 36) (val : Word) (fl : Flips)
  /-- IO: The IO instruction reads or writes an I/O register through the sluices (R581). -/
  | io (wr : Bool) (addr : IoAddr) (v : IoHalf)
  /-- ISRAM: The ISRAM instruction reads or writes a word of a halted cell's local instruction SRAM (R581). -/
  | isram (wr : Bool) (idx : BitVec 14) (val : Word)
  /-- JUNCTION_SENSOR_READ: Every 1 ms the twenty junction sensors are read; a reading of 105 °C or more begins a furrow's throttling and sets THERM, and a reading of 115 °C or more asserts FS179 (R317). -/
  | junctionSensorRead (idx : Fin 20) (temp : BitVec 9)
  /-- AUTH_LOCKOUT_END: When the 2^AFAIL-second AUTH lockout after a failed authentication runs out, LOCKT reaches zero and AUTH commands are accepted again (R582). -/
  | authLockoutEnd
  /-- FUSE_PROGRAMMING: Programming the maker root key hash into the fuses through the TAP in the FACTORY state provisions the device and ends the FACTORY state (R580). -/
  | fuseProgramming (hash : BitVec 256)
deriving DecidableEq, Repr

end Sys2Proof
end

