-- ==== Sys2Proof/Decode.lean ====
section
/-! DEFINITION. The commands that a word spells by the opcode table's bits. The table gives no row any bits, so no word spells a
command; the words of a cell's ops (R354) are read by `Machine.opOfWord`. -/

namespace Sys2Proof

/-- The command that a word of `nbits` bits spells: none, as the table gives its rows no bits. -/
def decodeTableWord (_nbits _w : Nat) : Option Instr := none

end Sys2Proof
end

