-- ==== Sys2Proof/Machine/Bits.lean ====
section
/-! DEFINITION. Bit fields of a word, and the 48.24 arithmetic of R11. -/

namespace Sys2Proof.Machine

/-- A field's place, [hi:lo]. -/
structure Span where
  hi : Nat
  lo : Nat
deriving DecidableEq, Repr

/-- The number of bits of a field. -/
def Span.width (f : Span) : Nat := f.hi + 1 - f.lo

/-- The bits of a field, as a word. -/
def Span.mask (f : Span) : Word := ((BitVec.allOnes 72) >>> (72 - f.width)) <<< f.lo

/-- The value of a field of `w`. -/
def Span.get (f : Span) (w : Word) : Nat := (w.toNat >>> f.lo) % 2 ^ f.width

/-- `w` with a field set to `v`, taken modulo the field's size. -/
def Span.put (f : Span) (w : Word) (v : Nat) : Word :=
  (w &&& ~~~ f.mask) ||| ((BitVec.ofNat 72 v <<< f.lo) &&& f.mask)

/-- Bit `i` of `n`. -/
def bit (n i : Nat) : Bool := n.testBit i

/-- 1 for true, 0 for false. -/
def b2n (b : Bool) : Nat := if b then 1 else 0

/-- `n` with bit `i` set to `b`. -/
def setBit (n i : Nat) (b : Bool) : Nat :=
  if n.testBit i = b then n else if b then n + 2 ^ i else n - 2 ^ i

/-- The lower of `n` and `m - 1` counts: a counter that saturates at `m`. -/
def satAdd (m n k : Nat) : Nat := min m (n + k)

/-- A word read as a two's-complement number (R11). -/
def sgn (w : Word) : Int := w.toInt

/-- An integer modulo 2^72 as a word (R11). -/
def ofInt (i : Int) : Word := BitVec.ofInt 72 i

/-- The sign of a direction: true counts down. -/
def dirOf (down : Bool) : Int := if down then -1 else 1

/-- Division toward minus infinity of an integer by a positive number (DESIGN CHOICE, log 11). -/
def floorDiv (a : Int) (b : Nat) : Int := a.fdiv b

/-- The low 36 bits of a word. -/
def loHalf (w : Word) : Half := w.extractLsb' 0 36
/-- The high 36 bits of a word. -/
def hiHalf (w : Word) : Half := w.extractLsb' 36 36
/-- A word from its halves (R10). -/
def joinHalves (hi lo : Half) : Word := hi ++ lo
/-- A half as the low half of a word. -/
def ofHalf (h : Half) : Word := h.zeroExtend 72

/-- The crossing test of R64 and R93, modulo 2^72. -/
def crosses (down : Bool) (old new v : Word) : Bool :=
  if down then decide (0 < (old - v).toNat ∧ (old - v).toNat ≤ (old - new).toNat)
  else decide (0 < (v - old).toNat ∧ (v - old).toNat ≤ (new - old).toNat)

/-- `v` lies within `one` of `c`, either way, modulo 2^72 (R96). -/
def nearTo (one : Nat) (c v : Word) : Bool :=
  decide ((v - c).toNat ≤ one ∨ (c - v).toNat ≤ one)

/-- The lowest set bit below `n` of a mask, if any. -/
def lowestBit (m : Nat) : Nat → Option Nat
  | 0 => none
  | n + 1 => match lowestBit m n with
    | some i => some i
    | none => if m.testBit n then some n else none

/-- The number of set bits of `m` below `n`. -/
def popCount (m : Nat) : Nat → Nat
  | 0 => 0
  | n + 1 => popCount m n + b2n (m.testBit n)

/-- The numbers below `n` whose bit of `m` is set, ascending. -/
def bitsOf (m : Nat) (n : Nat) : List Nat := (List.range n).filter (fun i => m.testBit i)

end Sys2Proof.Machine
end

