-- ==== Sys2Proof/Machine/Flags.lean ====
section
/-! DEFINITION. The flags of ST (R332) and the arithmetic that sets them (R378, R386). -/

namespace Sys2Proof.Machine

/-- The flags: carry, overflow, sticky overflow, sticky divide by zero. -/
structure Flags where
  c  : Bool := false
  v  : Bool := false
  sv : Bool := false
  dz : Bool := false
deriving DecidableEq, Repr

/-- The flags of a status word. -/
def flagsOf (st : Word) : Flags := ⟨st.getLsbD 3, st.getLsbD 2, st.getLsbD 1, st.getLsbD 0⟩

/-- The flags as bits [3:0]. -/
def Flags.bits (f : Flags) : Nat := 8 * b2n f.c + 4 * b2n f.v + 2 * b2n f.sv + b2n f.dz

/-- A status word with its flags replaced. -/
def putFlags (st : Word) (f : Flags) : Word := (⟨3, 0⟩ : Span).put st f.bits

/-- The largest and the smallest signed word. -/
def maxS : Int := 2 ^ 71 - 1
def minS : Int := -(2 ^ 71)

/-- An integer lies outside the signed words. -/
def outS (i : Int) : Bool := decide (i < minS ∨ maxS < i)

/-- The nearer bound of an integer outside the signed words (R378, R386). -/
def clampS (i : Int) : Word := if i < minS then ofInt minS else if maxS < i then ofInt maxS else ofInt i

/-- Flags after a signed result `i`: V when it overflows, SV sticky. -/
def Flags.passes (f : Flags) (i : Int) : Flags := { f with v := outS i, sv := f.sv || outS i }

/-- ADDF and ADC (R378): sum and flags, `cin` 0 or 1. -/
def addFlags (f : Flags) (a b : Word) (cin : Nat) : Word × Flags :=
  (BitVec.ofNat 72 (a.toNat + b.toNat + cin),
    { (f.passes (sgn a + sgn b + cin)) with c := decide (2 ^ 72 ≤ a.toNat + b.toNat + cin) })

/-- SUBF and SBC (R378): difference and flags, with C the borrow. -/
def subFlags (f : Flags) (a b : Word) (cin : Nat) : Word × Flags :=
  (ofInt (sgn a - sgn b - cin), { (f.passes (sgn a - sgn b - cin)) with c := decide (a.toNat < b.toNat + cin) })

/-- ADDS (R378). -/
def addSat (f : Flags) (a b : Word) : Word × Flags := (clampS (sgn a + sgn b), f.passes (sgn a + sgn b))

/-- SUBS (R378). -/
def subSat (f : Flags) (a b : Word) : Word × Flags := (clampS (sgn a - sgn b), f.passes (sgn a - sgn b))

end Sys2Proof.Machine
end

