-- ==== Sys2Proof/Machine/OpData.lean ====
section
/-! DEFINITION. The ops of a cell as plain data (R354, R372, and the opcode maps of R377-R409), and what a cell holds of
ops that have issued and not yet taken their whole effect. -/

namespace Sys2Proof.Machine

/-- ALU functions (R377). -/
inductive Alu where
  | add | sub | addf | subf | adc | sbc | adds | subs | and | or | xor | andn | shl | shr | sar | rol
  | min | max | minu | maxu | clz | popc | abs
deriving DecidableEq, Repr

/-- A-slot ops with an immediate (R377). -/
inductive AluI where
  | addi | andi | ori | xori | shli | shri | sari | roli
deriving DecidableEq, Repr

/-- Comparisons (R377, R381). -/
inductive Cmp where
  | eq | ne | lt | ge | ltu | geu | tst
deriving DecidableEq, Repr

/-- Part and lane functions (R380). -/
inductive Part where
  | extb | extbs | insb | extq | extqs | insq | exth | exths | insh | beqm | bswap | ladd | lsub
deriving DecidableEq, Repr

/-- Predicate functions (R381). -/
inductive PredFn where
  | pand | por | pxor | pandn | pnot
deriving DecidableEq, Repr

/-- Multiply functions (R382). -/
inductive Mul where
  | muls | mulu | macs | macu | msus | mull
deriving DecidableEq, Repr

/-- Product register moves (R383). -/
inductive PMov where
  | mfph | mfpl | mtph | mtpl | mfpx | mfpxr
deriving DecidableEq, Repr

/-- Long ops (R385). -/
inductive Long where
  | xmul | xmult | div | divu | rem | remu | divq | divt | divut | remt | remut | divqt | sqrtu | sqrtq
deriving DecidableEq, Repr

/-- How much of a word an access reads or writes, with its index (R389, R390). -/
inductive Wid where
  | word | half (k : Nat) | quarter (k : Nat) | octet (k : Nat)
deriving DecidableEq, Repr

/-- Block ops (R392). -/
inductive Blk where
  | bmov | bmovd | bfill | crcb | cmpb
deriving DecidableEq, Repr

/-- Transaction ops (R409). -/
inductive TxFn where
  | tbegin | tsel | tsw | ttot | tpar | tsnap | tapp | tfrm | tcommit | tabort
deriving DecidableEq, Repr

/-- The operation of an op. -/
inductive OpK where
  | alu (f : Alu) | aluI (f : AluI) | cmp (f : Cmp) | cmpI (f : Cmp) | part (f : Part) | predf (f : PredFn)
  | mff | mtf
  | mul (f : Mul) | pmov (f : PMov) | long (f : Long) | limm
  /-- width class and sign extension; the part index is in the immediate -/
  | ld (wid : Wid) (sgn : Bool) | st (wid : Wid) | ldx | stx
  | blk (f : Blk) | dcinv | dcinva
  | br | call | jr | callr | ret | retx | loop | sysc | mfs | mts | ioIn | ioOut | ist | isync | fence
  | tlbi (kind : Nat) | sev | wfe | waitc | brk | tx (f : TxFn)
  | reserved
deriving DecidableEq, Repr

/-- An op: its operation, slot, predicate, and operand fields as the op word holds them. `imm` is IMM14, FUNC's index or
shift, the branch offset, the loop offset, the fence mask or LIMM's V with its MODE in `s1`. -/
structure Op where
  k    : OpK
  slot : Nat
  pred : Nat := 0
  d    : Nat := 0
  s1   : Nat := 0
  s2   : Nat := 0
  imm  : Nat := 0
  /-- bits of an OUT's value and its check bits that flip on the I/O ditch (R35, R479) -/
  flip : BitVec 43 := 0#43
deriving DecidableEq, Repr

/-- A change of a register file that comes due. -/
inductive Eff where
  | g (r : Nat) (v : Word)
  | f (r : Nat) (b : Bool)
  /-- F1-F7 from bits [7:1] -/
  | fAll (m : Nat)
  | p (r : Nat) (v : BitVec 144)
  /-- an accumulation, which reads the register when it takes effect (R383) -/
  | pAdd (r : Nat) (v : BitVec 144)
  | pHi (r : Nat) (v : Word)
  | pLo (r : Nat) (v : Word)
deriving DecidableEq, Repr

/-- An effect visible from bundle `at'` on, by an op of a slot (R357, R411). -/
structure Due where
  at'  : Nat
  slot : Nat
  eff  : Eff
deriving DecidableEq, Repr

/-- An entry of the attribute cache (R424). -/
structure AttrE where
  base : Nat
  k    : Nat
  c    : Bool
  wa   : Bool
  ord  : Nat
deriving DecidableEq, Repr

/-- A load or IN on its way (R412, R422, R425). -/
structure LoadE where
  /-- physical word address, or I/O address -/
  addr  : Nat
  io    : Bool
  wid   : Wid
  sgn   : Bool
  d     : Nat
  /-- the bundle that sees the result, the number of the op's bundle, and the entry depth at issue (R435) -/
  due   : Nat
  bun   : Nat
  depth : Nat
  /-- privilege of the access -/
  pl    : Nat := 0
  /-- the response's word where it is settled at issue: forwarded, a cache hit, or an I/O register's value -/
  known : Option Word := none
  /-- sent to its target, with its number in flight; the sluice refused it; an I/O error -/
  sent  : Bool := false
  fly   : Option Nat := none
  bad   : Bool := false
  /-- the word comes with the poison flag (R478) -/
  poison : Bool := false
  /-- attributes under which it issued: ORD, and cacheable; strong accesses have ORD 2 (R426) -/
  ord   : Nat := 0
  cache : Bool := false
  /-- the attributes that its response brings -/
  attr  : Option AttrE := none
  seq   : Nat
deriving DecidableEq, Repr

/-- A store in the store buffer (R422). -/
structure StoreE where
  addr  : Nat
  wid   : Wid
  val   : Word
  bun   : Nat
  depth : Nat
  /-- privilege of the access -/
  pl    : Nat := 0
  ord   : Nat := 0
  /-- it issued under C and WA, so that a miss allocates the line (R417, R424) -/
  cache : Bool := false
  sent  : Bool := false
  fly   : Option Nat := none
  /-- cause of its error, 0 none -/
  err   : Nat := 0
  /-- the attributes that its response brings -/
  attr  : Option AttrE := none
  seq   : Nat
deriving DecidableEq, Repr

/-- A long op in flight (R387). -/
structure LongE where
  f     : Long
  d     : Nat
  a     : BitVec 144
  b     : Word
  bun   : Nat
  depth : Nat
  seq   : Nat
deriving DecidableEq, Repr

/-- A completion cause that waits to be raised (R435). -/
structure HeldC where
  cause : Nat
  addr  : Nat
  w     : Bool
  io    : Bool
  bun   : Nat
  depth : Nat
  seq   : Nat
deriving DecidableEq, Repr

/-- An IST that has not reached the array (R421): index in the local instruction SRAM, op, and the bundle after whose
fetch it is written. -/
structure IstE where
  addr : Nat
  op   : Half
  at'  : Nat
deriving DecidableEq, Repr

/-- A hardware loop level (R342). -/
structure Loop where
  start : Nat := 0
  fin   : Nat := 0
  count : Nat := 0
deriving DecidableEq, Repr

/-- A branch whose delay bundle is next (R358): its bundle, its target if taken, the status word a RETX restores, with its
RESUME, and what it does to the return stack as the delay bundle completes: true a push, false a pop. -/
structure Delay where
  at'  : Nat
  tgt  : Option Nat
  retx : Option (Word × Bool) := none
  call : Option Bool := none
deriving DecidableEq, Repr

/-- A TLB entry (R466). -/
structure TlbE where
  v    : Bool := false
  part : Nat := 0
  ins  : Bool := false
  s2   : Bool := false
  pn   : Nat := 0
  oa   : Nat := 0
  r    : Bool := false
  w    : Bool := false
  x    : Bool := false
  u    : Bool := false
deriving DecidableEq, Repr

/-- A translation walk (R461): the access it serves, the stage-1 walk under way (level, table), the stage-2 walk under way
(level, table, input address, and whether it translates a stage-1 table address), and the address of the read. -/
structure Walk where
  /-- 0 read, 1 write, 2 fetch, 3 DCINV -/
  acc : Nat
  va  : Nat
  s1  : Option (Nat × Nat) := none
  s2  : Option (Nat × Nat × Nat × Bool) := none
  rd  : Nat := 0
  fly : Option Nat := none
  attr : Option AttrE := none
deriving DecidableEq, Repr

/-- A fetch of a line of eight words: its first word, its number in flight, and the attributes that its response brings (R418, R424). -/
structure FetchE where
  addr : Nat
  fly  : Nat
  attr : Option AttrE := none
deriving DecidableEq, Repr

/-- A line of the data cache or of the wide-line buffer: first word address, its eight words, and which of them carry the poison flag
(R478). -/
structure Line where
  addr   : Nat
  words  : List Word
  poison : Nat := 0
deriving DecidableEq, Repr

/-- The loop buffer (R351, R420): the level that it serves and its body, the bundles taken from it, whether the body qualifies, and whether its
first iteration has ended. -/
structure LoopBuf where
  lvl   : Nat
  start : Nat
  fin   : Nat
  held  : List Nat := []
  fits  : Bool := true
  full  : Bool := false
deriving DecidableEq, Repr

/-- An entry of the branch-target buffer (R419). -/
structure BtbE where
  tag : Nat
  tgt : Nat
  cnt : Nat
deriving DecidableEq, Repr

/-- A block op between word steps (R392): its register numbers and their values as the op has them, its op address, its
bundle's address, number and length, the branch that the bundle held, LEN as the bundle had it, and the level that a SYSC
of the bundle enters. -/
structure BlkE where
  f    : Blk
  d    : Nat
  s1   : Nat
  s2   : Nat
  vd   : Word
  v1   : Word
  v2   : Word
  at'  : Nat
  b    : Nat
  bun  : Nat
  len  : Nat
  dly  : Option Delay
  lend : Bool
  trap : Option Nat
deriving DecidableEq, Repr

/-- What a cell waits for (R364, R365). -/
inductive CellWait where
  | none
  | wfe
  /-- WAITC: bundle address and length, domain, CONF, down, threshold, and LEN as the bundle had it -/
  | waitc (at' len dom : Nat) (conf down lend : Bool) (v : Word)
deriving DecidableEq, Repr

/-- An event entry whose first handler bundle has not issued (R446, R447): event, priority, and ST before the entry. -/
structure EntryE where
  ev : Nat
  st : Word
deriving DecidableEq, Repr

end Sys2Proof.Machine
end

