-- ==== Sys2Proof/Config.lean ====
section
/-! DEFINITION. The values the spec leaves open: opaque constants, so that nothing can be proved of what they give. -/

namespace Sys2Proof

/-- A value the spec leaves open, by its number in the state's count of free values (log 26, 38, 71, 72, 104). -/
opaque Config.freeWord : Nat → Word

/-- RATE where the intervals that form it span no time, by INC and the number of intervals, and negative when counting down (R52; log 168). -/
opaque Config.zeroSpanRate : Word → Nat → Bool → Word

/-- A word of a memory whose contents the spec leaves open, by the number of the event that left them so (log 5, 91, 129, 148). -/
opaque Config.lostWord : Nat → Nat → Word

/-- What an RSA private key makes of a number: key octets, number (RFC 8017, RSADP and RSASP1; log 32). -/
opaque Config.rsaPrivate : List Nat → Nat → Nat

/-- The modulus octets of an RSA key pair (log 32). -/
opaque Config.rsaModulus : List Nat → List Nat

/-- Octet `k` of the random octets of event `id` (R560, R573; log 33). -/
opaque Config.randomOctet : Nat → Nat → Nat

/-- Word `k` of the device's identity certificate, where R579 does not give it (log 107). -/
opaque Config.idCertWord : Nat → Word

/-- Huathazan's JEP106 code in the TAP's identification register (R581; log 106). -/
opaque Config.jep106 : BitVec 11

/-- The boundary register of the TAP (R581), whose cells the spec does not list (log 106). -/
opaque Config.boundary : Nat → Nat

end Sys2Proof
end

