-- ==== Sys2Proof/Machine/CheckCode.lean ====
section
/-! DEFINITION. The check codes: the (80,72) code of every word (R37, R477) and the (43,36) code of an I/O transfer (R479). -/

namespace Sys2Proof.Machine

/-- The values of `n` bits that have weight `k`, ascending. -/
def ofWeight (n k : Nat) : List Nat := (List.range (2 ^ n)).filter (fun v => decide (popCount v n = k))

/-- The columns of the data bits, bit 0 first: H0 to H71, and those of the I/O code. -/
def wordCols : List Nat := ofWeight 8 3 ++ (ofWeight 8 5).take 16
def ioCols : List Nat := ofWeight 7 3 ++ [0x1F]

/-- The check bits of data `v`: the exclusive OR of the columns of its set bits. -/
def checkBits (cols : List Nat) (v : Nat) : Nat := cols.zipIdx.foldl (fun c p => if v.testBit p.2 then c ^^^ p.1 else c) 0

/-- What a check finds: the data, corrected where one bit was wrong; 0 no error, 1 a corrected one, 2 an uncorrectable one, whose data
stay as found. -/
def checked (cols : List Nat) (k v c : Nat) : Nat × Nat :=
  let s := checkBits cols v ^^^ c
  if s = 0 then (v, 0)
  else match cols.findIdx? (fun h => decide (h = s)) with
    | some i => (setBit v i (!v.testBit i), 1)
    | none => if (List.range k).any (fun j => decide (2 ^ j = s)) then (v, 1) else (v, 2)

/-- A word with its check bits in bits [79:72], as memories and the ditch hold it (R477). -/
def encodeWord (w : Word) : BitVec 80 := BitVec.ofNat 8 (checkBits wordCols w.toNat) ++ w

/-- The bits in which the complement of a code word's 80 bits differs from a code word (R276). -/
def complementFlips : BitVec 80 := encodeWord (BitVec.allOnes 72) ^^^ BitVec.allOnes 80

/-- The check of 80 bits. -/
def checkWord (v : BitVec 80) : Word × Nat :=
  let r := checked wordCols 8 (v.extractLsb' 0 72).toNat (v.extractLsb' 72 8).toNat
  (BitVec.ofNat 72 r.1, r.2)

/-- A value with its check bits in bits [42:36], as the I/O ditch carries it (R479). -/
def encodeIo (v : Half) : BitVec 43 := BitVec.ofNat 7 (checkBits ioCols v.toNat) ++ v

/-- The check of an I/O transfer. -/
def checkIo (v : BitVec 43) : Half × Nat :=
  let r := checked ioCols 7 (v.extractLsb' 0 36).toNat (v.extractLsb' 36 7).toNat
  (BitVec.ofNat 36 r.1, r.2)

/-- What the sink finds of a word of which the bits `f` have flipped since it was encoded. -/
def flippedWord (w : Word) (f : BitVec 80) : Word × Nat := if f = 0 then (w, 0) else checkWord (encodeWord w ^^^ f)

/-- What the sink finds of an I/O transfer of which the bits `f` have flipped on the way. -/
def flippedIo (v : Half) (f : BitVec 43) : Half × Nat := if f = 0 then (v, 0) else checkIo (encodeIo v ^^^ f)

end Sys2Proof.Machine
end

