-- ==== Sys2Proof/Machine/Crypto.lean ====
section
/-! DEFINITION. The algorithms that R6 names by their standards, over lists of octets: SHA-256 (FIPS 180-4), AES and its modes
(FIPS 197, SP 800-38A, 38B, 38D), key wrap (RFC 3394), RSASSA-PSS and RSAES-OAEP (RFC 8017), MACsec's cipher (IEEE 802.1AE).
PRESUMED: the standards are not part of the spec. What an RSA private key does stays a constant of Config. -/

namespace Sys2Proof.Machine

/-- The number that octets spell, most significant first. -/
def octNat (l : List Nat) : Nat := l.foldl (fun a o => a * 256 + o % 256) 0

/-- `n` octets of a number, most significant first. -/
def natOct (n v : Nat) : List Nat := (List.range n).map (fun k => v / 256 ^ (n - 1 - k) % 256)

/-- Octet-wise exclusive OR. -/
def xorOct (a b : List Nat) : List Nat := List.zipWith (· ^^^ ·) a b

/-- The first `n` pieces of `k` octets of a list. -/
def pieces (k : Nat) : Nat → List Nat → List (List Nat)
  | 0, _ => []
  | n + 1, l => l.take k :: pieces k n (l.drop k)

/-! ### SHA-256 -/

/-- The largest number below `r + 2 ^ n` whose `e`-th power is at most `x`, from `r` on. -/
def rootFrom (e x : Nat) : Nat → Nat → Nat
  | 0, r => r
  | n + 1, r => rootFrom e x n (if (r + 2 ^ n) ^ e ≤ x then r + 2 ^ n else r)

/-- The first 32 bits of the fraction of the `e`-th root of `p`, for a root below 32. -/
def rootFraction (e p : Nat) : BitVec 32 := BitVec.ofNat 32 (rootFrom e (p <<< (32 * e)) 37 0)

/-- The primes below 312, of which there are 64. -/
def shaPrimes : List Nat :=
  (List.range 312).filter (fun p => decide (2 ≤ p) && ((List.range 18).drop 2).all (fun k => decide (p = k ∨ p % k ≠ 0)))

/-- Half of the working variables: a to d, or e to h. -/
structure ShaHalf where
  x0 : BitVec 32
  x1 : BitVec 32
  x2 : BitVec 32
  x3 : BitVec 32
deriving DecidableEq, Repr

/-- A value goes in at the front and the last one drops out. -/
def ShaHalf.push (q : ShaHalf) (v : BitVec 32) : ShaHalf := ⟨v, q.x0, q.x1, q.x2⟩

/-- Sum word by word. -/
def ShaHalf.plus (q r : ShaHalf) : ShaHalf := ⟨q.x0 + r.x0, q.x1 + r.x1, q.x2 + r.x2, q.x3 + r.x3⟩

/-- The hash before the first block: square roots of the first eight primes. -/
def shaStart : ShaHalf × ShaHalf :=
  let r := fun k => rootFraction 2 (shaPrimes.getD k 0)
  (⟨r 0, r 1, r 2, r 3⟩, ⟨r 4, r 5, r 6, r 7⟩)

/-- The exclusive or of three rotations to the right, the last of which drops what it turns out where `shift` is set. -/
def shaSigma (shift : Bool) (i j k : Nat) (v : BitVec 32) : BitVec 32 :=
  v.rotateRight i ^^^ v.rotateRight j ^^^ if shift then v >>> k else v.rotateRight k

/-- The message schedule as a window of sixteen words: the oldest leaves and its successor enters. -/
def shaSlide (w : List (BitVec 32)) : List (BitVec 32) :=
  w.drop 1 ++ [shaSigma true 17 19 10 (w.getD 14 0) + w.getD 9 0 + shaSigma true 7 18 3 (w.getD 1 0) + w.getD 0 0]

/-- What the second half and the schedule feed into a round. -/
def ShaHalf.feed (q : ShaHalf) (k w : BitVec 32) : BitVec 32 :=
  k + w + q.x3 + shaSigma false 6 11 25 q.x0 + (q.x2 ^^^ (q.x0 &&& (q.x1 ^^^ q.x2)))

/-- What the first half adds: its turned word and the majority of three. -/
def ShaHalf.stir (q : ShaHalf) : BitVec 32 := shaSigma false 2 13 22 q.x0 + ((q.x0 &&& (q.x1 ||| q.x2)) ||| (q.x1 &&& q.x2))

/-- The rounds for the primes given, the window before the first of them. -/
def shaRounds : List Nat → List (BitVec 32) → ShaHalf × ShaHalf → ShaHalf × ShaHalf
  | [], _, v => v
  | p :: l, w, v =>
    let t := v.2.feed (rootFraction 3 p) (w.getD 0 0)
    shaRounds l (shaSlide w) (v.1.push (t + v.1.stir), v.2.push (v.1.x3 + t))

/-- The hash after one block of 64 octets. -/
def shaBlock (v : ShaHalf × ShaHalf) (b : List Nat) : ShaHalf × ShaHalf :=
  let u := shaRounds shaPrimes ((pieces 4 16 b).map (fun o => BitVec.ofNat 32 (octNat o))) v
  (v.1.plus u.1, v.2.plus u.2)

/-- The octets that fill a message of `n` octets up to whole blocks. -/
def shaPad (n : Nat) : List Nat := 0x80 :: (List.replicate ((119 - n % 64) % 64) 0 ++ natOct 8 (8 * n))

/-- SHA-256 of an octet string (PRESUMED, log 31). -/
def sha256 (l : List Nat) : BitVec 256 :=
  let m := l ++ shaPad l.length
  let v := (pieces 64 (m.length / 64) m).foldl shaBlock shaStart
  ((v.1.x0 ++ v.1.x1) ++ (v.1.x2 ++ v.1.x3)) ++ ((v.2.x0 ++ v.2.x1) ++ (v.2.x2 ++ v.2.x3))

/-- The octets of a 256-bit value, most significant first. -/
def octets256 (h : BitVec 256) : List Nat := (List.range 32).map (fun k => (h.toNat >>> (248 - 8 * k)) % 256)

/-! ### AES -/

/-- Multiplication by x in GF(2^8). -/
def xtime (a : Nat) : Nat := if a < 128 then 2 * a else (2 * a) ^^^ 0x11B

/-- Multiplication in GF(2^8), by the low `n` bits of `b`. -/
def gmulBits : Nat → Nat → Nat → Nat
  | 0, _, _ => 0
  | n + 1, a, b => (if b % 2 = 1 then a else 0) ^^^ gmulBits n (xtime a) (b / 2)
def gmul (a b : Nat) : Nat := gmulBits 8 a b

/-- The inverse in GF(2^8), 0 of 0: the 254th power. -/
def ginv (a : Nat) : Nat :=
  let a2 := gmul a a
  let a3 := gmul a2 a
  let a6 := gmul a3 a3
  let a12 := gmul a6 a6
  let a15 := gmul a12 a3
  let a30 := gmul a15 a15
  let a60 := gmul a30 a30
  let a120 := gmul a60 a60
  let a126 := gmul a120 a6
  let a127 := gmul a126 a
  gmul a127 a127

/-- An octet rotated left. -/
def rotl8 (n x : Nat) : Nat := (x <<< n ||| x >>> (8 - n)) % 256

/-- The S-box and its inverse. -/
def sbox (x : Nat) : Nat :=
  let b := ginv (x % 256)
  b ^^^ rotl8 1 b ^^^ rotl8 2 b ^^^ rotl8 3 b ^^^ rotl8 4 b ^^^ 0x63
def sboxInv (y : Nat) : Nat :=
  let y := y % 256
  ginv (rotl8 1 y ^^^ rotl8 3 y ^^^ rotl8 6 y ^^^ 5)

/-- The key schedule's words of four octets, the newest first: `n` more, with `i` words made and `nk` words of key. -/
def aesExpand (nk : Nat) : Nat → Nat → Nat → List (List Nat) → List (List Nat)
  | 0, _, _, w => w
  | n + 1, i, rcon, w =>
    let t := w.getD 0 []
    let t1 := if i % nk = 0 then xorOct ((t.drop 1 ++ t.take 1).map sbox) [rcon, 0, 0, 0]
      else if nk = 8 ∧ i % nk = 4 then t.map sbox else t
    aesExpand nk n (i + 1) (if i % nk = 0 then xtime rcon else rcon) (xorOct (w.getD (nk - 1) []) t1 :: w)

/-- The round keys of a key of 16 or 32 octets. -/
def aesKeys (key : List Nat) : List (List Nat) :=
  let nk := if key.length ≤ 16 then 4 else 8
  let w := (aesExpand nk (4 * (nk + 7) - nk) nk 1 (pieces 4 nk key).reverse).reverse
  (List.range (nk + 7)).map (fun r => ((w.drop (4 * r)).take 4).flatten)

/-- Row r of the state moves r places; `back` undoes it. -/
def shiftRows (back : Bool) (s : List Nat) : List Nat :=
  (List.range 16).map (fun k =>
    let r := k % 4
    let c := k / 4
    s.getD (4 * ((if back then c + 4 - r else c + r) % 4) + r) 0)

/-- Each column times the matrix whose first row is `m`. -/
def mixColumns (m : List Nat) (s : List Nat) : List Nat :=
  (List.range 16).map (fun k =>
    let c := k / 4
    let r := k % 4
    (List.range 4).foldl (fun a j => a ^^^ gmul (s.getD (4 * c + j) 0) (m.getD ((j + 4 - r) % 4) 0)) 0)

/-- One block encrypted. -/
def aesBlock (key : List Nat) (b : List Nat) : List Nat :=
  match aesKeys key with
  | [] => b
  | k0 :: ks =>
    let s := (ks.dropLast).foldl (fun s k => xorOct (mixColumns [2, 3, 1, 1] (shiftRows false (s.map sbox))) k) (xorOct b k0)
    xorOct (shiftRows false (s.map sbox)) (ks.getLastD [])

/-- One block decrypted. -/
def aesUnblock (key : List Nat) (b : List Nat) : List Nat :=
  match (aesKeys key).reverse with
  | [] => b
  | k0 :: ks =>
    let s := (ks.dropLast).foldl (fun s k => mixColumns [14, 11, 13, 9] (xorOct ((shiftRows true s).map sboxInv) k)) (xorOct b k0)
    xorOct ((shiftRows true s).map sboxInv) (ks.getLastD [])

/-- Pieces of 16 octets, the last one perhaps short. -/
def blocks (l : List Nat) : List (List Nat) := pieces 16 ((l.length + 15) / 16) l

/-- CBC: encryption and decryption. -/
def cbcEnc (key : List Nat) : List Nat → List (List Nat) → List Nat
  | _, [] => []
  | iv, b :: bs => let c := aesBlock key (xorOct b iv); c ++ cbcEnc key c bs
def cbcDec (key : List Nat) : List Nat → List (List Nat) → List Nat
  | _, [] => []
  | iv, b :: bs => xorOct (aesUnblock key b) iv ++ cbcDec key b bs

/-- The counter after `c`: its low `n` octets count. -/
def incr (n : Nat) (c : List Nat) : List Nat := c.take (16 - n) ++ natOct n (octNat (c.drop (16 - n)) + 1)

/-- CTR from counter block `c`, of which the low `n` octets count (PRESUMED, log 34). -/
def ctr (key : List Nat) (n : Nat) : List Nat → List (List Nat) → List Nat
  | _, [] => []
  | c, b :: bs => xorOct b (aesBlock key c) ++ ctr key n (incr n c) bs

/-- Multiplication in GF(2^128), bit 0 leftmost. -/
def gmul128 (x : Nat) : Nat → Nat → Nat → Nat
  | 0, _, z => z
  | n + 1, v, z =>
    gmul128 x n (if v % 2 = 1 then v / 2 ^^^ 0xE1 * 2 ^ 120 else v / 2) (if x.testBit n then z ^^^ v else z)

/-- GHASH under `h` of padded octets. -/
def ghash (h : Nat) (l : List Nat) : Nat :=
  (blocks l).foldl (fun y b => gmul128 (y ^^^ octNat b) 128 h 0) 0

/-- Zeros up to a whole block. -/
def pad16 (l : List Nat) : List Nat := l ++ List.replicate ((16 - l.length % 16) % 16) 0

/-- The GCM tag of ciphertext `c` with a 12-octet IV. -/
def gcmTag (key iv aad c : List Nat) : List Nat :=
  let h := octNat (aesBlock key (List.replicate 16 0))
  xorOct (natOct 16 (ghash h (pad16 aad ++ pad16 c ++ natOct 8 (8 * aad.length) ++ natOct 8 (8 * c.length))))
    (aesBlock key (iv ++ [0, 0, 0, 1]))

/-- The ciphertext or plaintext of GCM. -/
def gcmCtr (key iv l : List Nat) : List Nat := ctr key 4 (iv ++ [0, 0, 0, 2]) (blocks l)

/-- GCM decryption of ciphertext and tag. -/
def gcmOpen (key iv aad l : List Nat) : Option (List Nat) :=
  let c := l.take (l.length - 16)
  if gcmTag key iv aad c = l.drop (l.length - 16) then some (gcmCtr key iv c) else none

/-- AES in a mode of R573 (0 ECB, 1 CBC, 2 CTR, 3 GCM): none where the GCM tag fails. The counter of CTR counts in all its 16
octets. -/
def aesMode (enc : Bool) (mode : Nat) (key iv aad l : List Nat) : Option (List Nat) :=
  match mode with
  | 0 => some ((blocks l).flatMap (if enc then aesBlock key else aesUnblock key))
  | 1 => some (if enc then cbcEnc key iv (blocks l) else cbcDec key iv (blocks l))
  | 2 => some (ctr key 16 iv (blocks l))
  | _ => if enc then (let c := gcmCtr key iv l; some (c ++ gcmTag key iv aad c)) else gcmOpen key iv aad l

/-- Doubling in GF(2^128) for the CMAC subkeys. -/
def dbl128 (x : Nat) : Nat := if x < 2 ^ 127 then 2 * x else (2 * x) % 2 ^ 128 ^^^ 0x87

/-- AES-CMAC. -/
def cmac (key l : List Nat) : List Nat :=
  let k1 := dbl128 (octNat (aesBlock key (List.replicate 16 0)))
  let full := l.length ≠ 0 ∧ l.length % 16 = 0
  let bs := if l.length = 0 then [[]] else blocks l
  let last := bs.getLastD []
  let lastB := if full then xorOct last (natOct 16 k1) else xorOct (pad16 (last ++ [0x80])) (natOct 16 (dbl128 k1))
  (bs.dropLast ++ [lastB]).foldl (fun c b => aesBlock key (xorOct c b)) (List.replicate 16 0)

/-! ### Key wrap -/

/-- One pass over the blocks of 8 octets, from step `t`. -/
def wrapPass (key : List Nat) : Nat → List Nat → List (List Nat) → List Nat × List (List Nat)
  | _, a, [] => (a, [])
  | t, a, r :: rs =>
    let b := aesBlock key (a ++ r)
    let q := wrapPass key (t + 1) (xorOct (b.take 8) (natOct 8 t)) rs
    (q.1, b.drop 8 :: q.2)

/-- `n` passes. -/
def wrapPasses (key : List Nat) : Nat → Nat → List Nat × List (List Nat) → List Nat × List (List Nat)
  | 0, _, x => x
  | n + 1, t, x => wrapPasses key n (t + x.2.length) (wrapPass key t x.1 x.2)

/-- RFC 3394 wrap of whole blocks of 8 octets. -/
def keyWrap (key l : List Nat) : List Nat :=
  let x := wrapPasses key 6 1 (List.replicate 8 0xA6, pieces 8 (l.length / 8) l)
  x.1 ++ x.2.flatten

/-- One pass back, over the blocks in falling order, from step `t`. -/
def unwrapPass (key : List Nat) : Nat → List Nat → List (List Nat) → List Nat × List (List Nat)
  | _, a, [] => (a, [])
  | t, a, r :: rs =>
    let b := aesUnblock key (xorOct a (natOct 8 t) ++ r)
    let q := unwrapPass key (t - 1) (b.take 8) rs
    (q.1, b.drop 8 :: q.2)

/-- `n` passes back. -/
def unwrapPasses (key : List Nat) : Nat → Nat → List Nat × List (List Nat) → List Nat × List (List Nat)
  | 0, _, x => x
  | n + 1, t, x => unwrapPasses key n (t - x.2.length) (unwrapPass key t x.1 x.2)

/-- RFC 3394 unwrap: none where the check fails. -/
def keyUnwrap (key l : List Nat) : Option (List Nat) :=
  let rs := (pieces 8 (l.length / 8 - 1) (l.drop 8)).reverse
  let x := unwrapPasses key 6 (6 * rs.length) (l.take 8, rs)
  if x.1 = List.replicate 8 0xA6 then some x.2.reverse.flatten else none

/-! ### RSA-3072 -/

/-- `x` to the power of the low `n` bits of `e`, modulo `m`. -/
def powMod (m : Nat) : Nat → Nat → Nat → Nat
  | 0, _, _ => 1 % m
  | n + 1, x, e => (if e % 2 = 1 then x else 1) * powMod m n (x * x % m) (e / 2) % m

/-- MGF1 with SHA-256: `n` octets. -/
def mgf1 (seed : List Nat) (n : Nat) : List Nat :=
  ((List.range ((n + 31) / 32)).flatMap (fun k => octets256 (sha256 (seed ++ natOct 4 k)))).take n

/-- The hash that binds a digest and a salt (RFC 8017, 9.1). -/
def pssHash (dig salt : List Nat) : List Nat := octets256 (sha256 (List.replicate 8 0 ++ dig ++ salt))

/-- EMSA-PSS encoding of a digest for a 3,072-bit modulus, with a 32-octet salt. -/
def pssEncode (dig salt : List Nat) : List Nat :=
  let h := pssHash dig salt
  let db := List.replicate 318 0 ++ 1 :: salt
  let m := xorOct db (mgf1 h 351)
  (m.take 1).map (· % 128) ++ m.drop 1 ++ h ++ [0xBC]

/-- RSASSA-PSS verification of R535: modulus octets, octets of the message's digest, signature octets. -/
def rsaVerify (modulus dig sig : List Nat) : Bool :=
  let n := octNat modulus
  let v := octNat sig
  let em := natOct 384 (powMod n 17 v 65537)
  let h := (em.drop 351).take 32
  let m := xorOct (em.take 351) (mgf1 h 351)
  let db := (m.take 1).map (· % 128) ++ m.drop 1
  decide (v < n) && decide (em.getD 0 0 < 128) && decide (em.getD 383 0 = 0xBC) &&
    decide (db.take 319 = List.replicate 318 0 ++ [1]) && decide (h = pssHash dig (db.drop 319))

/-- The RSASSA-PSS signature by a private key: the salt is drawn as random octets of event `id`. -/
def rsaSign (id : Nat) (key dig : List Nat) : List Nat :=
  let salt := (List.range 32).map (fun k => Config.randomOctet id k % 256)
  natOct 384 (Config.rsaPrivate key (octNat (pssEncode dig salt)))

/-- What follows the zeros and the mark of an OAEP data block. -/
def oaepMessage : List Nat → Option (List Nat)
  | [] => none
  | b :: l => if b = 0 then oaepMessage l else if b = 1 then some l else none

/-- RSAES-OAEP decryption with an empty label: none where the padding fails. -/
def oaepOpen (key l : List Nat) : Option (List Nat) :=
  let em := natOct 384 (Config.rsaPrivate key (octNat l))
  let db0 := em.drop 33
  let seed := xorOct ((em.drop 1).take 32) (mgf1 db0 32)
  let db := xorOct db0 (mgf1 seed 351)
  if em.getD 0 0 = 0 ∧ db.take 32 = octets256 (sha256 []) ∧ octNat l < octNat (Config.rsaModulus key) then oaepMessage (db.drop 32)
  else none

/-! ### MACsec -/

/-- A frame with an explicit SCI, validated and decrypted (IEEE 802.1AE): addresses, SecTAG of 16 octets, secure data, ICV. A
frame that is only authenticated carries its data in clear. The SecTAG and the ICV are gone from what comes out. -/
def macsecOpen (key f : List Nat) : Option (List Nat) :=
  let tci := f.getD 14 0
  let sl := f.getD 15 0 % 64
  let n := if sl = 0 then f.length - 44 else sl
  let iv := (f.drop 20).take 8 ++ (f.drop 16).take 4
  let data := (f.drop 28).take n
  let icv := (f.drop (28 + n)).take 16
  if f.length < 44 ∨ tci.testBit 5 = false then none
  else if tci.testBit 3 then
    (gcmOpen key iv (f.take 28) (data ++ icv)).map (fun p => f.take 12 ++ p)
  else if tci.testBit 2 then none
  else if gcmTag key iv (f.take 28 ++ data) [] = icv then some (f.take 12 ++ data) else none

end Sys2Proof.Machine
end

