-- ==== Sys2Proof/Machine/Regs.lean ====
section
/-! DEFINITION. The I/O register map: the address of every register, the place of every field, and for each
register its fields with their access codes (R12) and reset values (the register tables of spec/; img fields as R16).
A register banked per cell, per sluice region or per key slot has the key 2^24 * (bank + 1) + its I/O address. -/

namespace Sys2Proof.Machine

/-- The access codes of R12. -/
inductive Acc where
  | ro | rw | wo | w1c | rc | rwl | tx
deriving DecidableEq, Repr

/-- One field of a register table: its bits, its access code and its reset value. -/
structure Fld where
  span : Span
  acc  : Acc
  rst  : Nat
deriving DecidableEq, Repr

/-- A register: 72 bits wide or not (R10), and its assigned fields. -/
structure RegDesc where
  wide   : Bool
  fields : List Fld
deriving DecidableEq, Repr

/-- An unassigned address of a block (R15). -/
def RegDesc.none : RegDesc := ⟨false, []⟩

/-- Address of ADCTL (R73). -/
def adCtl (n : Nat) : Nat := 0x020000 + 0x40 * n
def AdCtl.EN : Span := ⟨35, 35⟩
def AdCtl.INTERP : Span := ⟨34, 34⟩
def AdCtl.NINT : Span := ⟨33, 28⟩
def AdCtl.STALLT : Span := ⟨27, 16⟩
def AdCtl.MINW : Span := ⟨15, 8⟩
def AdCtl.SIE : Span := ⟨7, 0⟩
def AdCtl.desc : RegDesc := ⟨false, [⟨AdCtl.EN, .rw, 0⟩,
  ⟨AdCtl.INTERP, .rw, 0⟩,
  ⟨AdCtl.NINT, .rw, 7⟩,
  ⟨AdCtl.STALLT, .rw, 0x64⟩,
  ⟨AdCtl.MINW, .rw, 0xA⟩,
  ⟨AdCtl.SIE, .rw, 0⟩]⟩

/-- Address of ADSRC (R74). -/
def adSrc (n : Nat) : Nat := 0x020000 + 0x40 * n + 0x01
def AdSrc.TYPE : Span := ⟨35, 32⟩
def AdSrc.PAP : Span := ⟨31, 27⟩
def AdSrc.PAT : Span := ⟨26, 25⟩
def AdSrc.PBP : Span := ⟨24, 20⟩
def AdSrc.PBT : Span := ⟨19, 18⟩
def AdSrc.DSRC : Span := ⟨17, 13⟩
def AdSrc.EDGES : Span := ⟨12, 11⟩
def AdSrc.MPH : Span := ⟨10, 9⟩
def AdSrc.MBW : Span := ⟨8, 7⟩
def AdSrc.TPORT : Span := ⟨6, 6⟩
def AdSrc.REVM : Span := ⟨5, 5⟩
def AdSrc.desc : RegDesc := ⟨false, [⟨AdSrc.TYPE, .rwl, 0⟩,
  ⟨AdSrc.PAP, .rwl, 0⟩,
  ⟨AdSrc.PAT, .rwl, 0⟩,
  ⟨AdSrc.PBP, .rwl, 0⟩,
  ⟨AdSrc.PBT, .rwl, 0⟩,
  ⟨AdSrc.DSRC, .rwl, 0⟩,
  ⟨AdSrc.EDGES, .rwl, 0⟩,
  ⟨AdSrc.MPH, .rwl, 0⟩,
  ⟨AdSrc.MBW, .rwl, 1⟩,
  ⟨AdSrc.TPORT, .rwl, 0⟩,
  ⟨AdSrc.REVM, .rwl, 0⟩]⟩

/-- Address of ADSTAT (R75). -/
def adStat (n : Nat) : Nat := 0x020000 + 0x40 * n + 0x02
def AdStat.RATEV : Span := ⟨35, 35⟩
def AdStat.DIR : Span := ⟨34, 34⟩
def AdStat.STALL : Span := ⟨33, 33⟩
def AdStat.LOCK : Span := ⟨32, 32⟩
def AdStat.HOLD : Span := ⟨31, 31⟩
def AdStat.CHLA : Span := ⟨30, 30⟩
def AdStat.CHLB : Span := ⟨29, 29⟩
def AdStat.PEND : Span := ⟨28, 28⟩
def AdStat.CAUSE : Span := ⟨23, 16⟩
def AdStat.desc : RegDesc := ⟨false, [⟨AdStat.RATEV, .ro, 0⟩,
  ⟨AdStat.DIR, .ro, 0⟩,
  ⟨AdStat.STALL, .ro, 0⟩,
  ⟨AdStat.LOCK, .ro, 0⟩,
  ⟨AdStat.HOLD, .ro, 0⟩,
  ⟨AdStat.CHLA, .ro, 0⟩,
  ⟨AdStat.CHLB, .ro, 0⟩,
  ⟨AdStat.PEND, .ro, 0⟩,
  ⟨AdStat.CAUSE, .w1c, 0⟩]⟩

/-- Address of ADERR (R76). -/
def adErr (n : Nat) : Nat := 0x020000 + 0x40 * n + 0x03
def AdErr.SEQ : Span := ⟨35, 27⟩
def AdErr.PH : Span := ⟨26, 18⟩
def AdErr.GL : Span := ⟨17, 9⟩
def AdErr.WERR : Span := ⟨8, 0⟩
def AdErr.desc : RegDesc := ⟨false, [⟨AdErr.SEQ, .rc, 0⟩,
  ⟨AdErr.PH, .rc, 0⟩,
  ⟨AdErr.GL, .rc, 0⟩,
  ⟨AdErr.WERR, .ro, 0⟩]⟩

/-- Address of ADLIVE (R77). -/
def adLive (n : Nat) : Nat := 0x020000 + 0x40 * n + 0x04
def AdLive.LIVE : Span := ⟨71, 0⟩
def AdLive.desc : RegDesc := ⟨true, [⟨AdLive.LIVE, .ro, 0⟩]⟩

/-- Address of ADCONF (R77). -/
def adConf (n : Nat) : Nat := 0x020000 + 0x40 * n + 0x06
def AdConf.CONF : Span := ⟨71, 0⟩
def AdConf.desc : RegDesc := ⟨true, [⟨AdConf.CONF, .ro, 0⟩]⟩

/-- Address of ADRATE (R77). -/
def adRate (n : Nat) : Nat := 0x020000 + 0x40 * n + 0x08
def AdRate.RATE : Span := ⟨71, 0⟩
def AdRate.desc : RegDesc := ⟨true, [⟨AdRate.RATE, .ro, 0⟩]⟩

/-- Address of ADINC (R78). -/
def adInc (n : Nat) : Nat := 0x020000 + 0x40 * n + 0x0A
def AdInc.INC : Span := ⟨71, 0⟩
def AdInc.desc : RegDesc := ⟨true, [⟨AdInc.INC, .rwl, 0x1000000⟩]⟩

/-- Address of ADEDIF (R79). -/
def adEdif (n : Nat) : Nat := 0x020000 + 0x40 * n + 0x0C
def AdEdif.EDIF : Span := ⟨71, 0⟩
def AdEdif.desc : RegDesc := ⟨true, [⟨AdEdif.EDIF, .ro, 0⟩]⟩

/-- Address of ADSLST (R80). -/
def adSlst (n : Nat) : Nat := 0x020000 + 0x40 * n + 0x0E
def AdSlst.EDV : Span := ⟨27, 27⟩
def AdSlst.EDSLOT : Span := ⟨26, 24⟩
def AdSlst.MATCH : Span := ⟨23, 16⟩
def AdSlst.EARLY : Span := ⟨15, 8⟩
def AdSlst.NEAR : Span := ⟨7, 0⟩
def AdSlst.desc : RegDesc := ⟨false, [⟨AdSlst.EDV, .w1c, 0⟩,
  ⟨AdSlst.EDSLOT, .ro, 0⟩,
  ⟨AdSlst.MATCH, .w1c, 0⟩,
  ⟨AdSlst.EARLY, .w1c, 0⟩,
  ⟨AdSlst.NEAR, .w1c, 0⟩]⟩

/-- Address of ADCMD (R81). -/
def adCmd (n : Nat) : Nat := 0x020000 + 0x40 * n + 0x0F
def AdCmd.SNAP : Span := ⟨3, 3⟩
def AdCmd.ZERO : Span := ⟨2, 2⟩
def AdCmd.CLRREV : Span := ⟨1, 1⟩
def AdCmd.desc : RegDesc := ⟨false, [⟨AdCmd.SNAP, .wo, 0⟩,
  ⟨AdCmd.ZERO, .wo, 0⟩,
  ⟨AdCmd.CLRREV, .wo, 0⟩]⟩

/-- Address of ADCHK (R82). -/
def adChk (n : Nat) : Nat := 0x020000 + 0x40 * n + 0x10
def AdChk.ERRLIM : Span := ⟨35, 28⟩
def AdChk.WIN : Span := ⟨27, 24⟩
def AdChk.LOSSN : Span := ⟨23, 16⟩
def AdChk.PHMIN : Span := ⟨15, 8⟩
def AdChk.desc : RegDesc := ⟨false, [⟨AdChk.ERRLIM, .rwl, 4⟩,
  ⟨AdChk.WIN, .rwl, 4⟩,
  ⟨AdChk.LOSSN, .rwl, 0x40⟩,
  ⟨AdChk.PHMIN, .rwl, 0x10⟩]⟩

/-- Address of ADSNL (R83). -/
def adSnl (n : Nat) : Nat := 0x020000 + 0x40 * n + 0x12
def AdSnl.SNL : Span := ⟨71, 0⟩
def AdSnl.desc : RegDesc := ⟨true, [⟨AdSnl.SNL, .ro, 0⟩]⟩

/-- Address of ADSNC (R83). -/
def adSnc (n : Nat) : Nat := 0x020000 + 0x40 * n + 0x14
def AdSnc.SNC : Span := ⟨71, 0⟩
def AdSnc.desc : RegDesc := ⟨true, [⟨AdSnc.SNC, .ro, 0⟩]⟩

/-- Address of ADREVA (R83). -/
def adReva (n : Nat) : Nat := 0x020000 + 0x40 * n + 0x16
def AdReva.REVA : Span := ⟨71, 0⟩
def AdReva.desc : RegDesc := ⟨true, [⟨AdReva.REVA, .ro, 0⟩]⟩

/-- Address of ADSLOTVAL (R84). -/
def adSlotVal (n s : Nat) : Nat := 0x020000 + 0x40 * n + 0x20 + 4 * s
def AdSlotVal.VAL : Span := ⟨71, 0⟩
def AdSlotVal.desc : RegDesc := ⟨true, [⟨AdSlotVal.VAL, .rw, 0⟩]⟩

/-- Address of ADSLOTCTL (R84). -/
def adSlotCtl (n s : Nat) : Nat := 0x020000 + 0x40 * n + 0x22 + 4 * s
def AdSlotCtl.ARM : Span := ⟨35, 35⟩
def AdSlotCtl.ONESHOT : Span := ⟨34, 34⟩
def AdSlotCtl.BASIS : Span := ⟨33, 33⟩
def AdSlotCtl.IE : Span := ⟨32, 32⟩
def AdSlotCtl.ACT : Span := ⟨31, 29⟩
def AdSlotCtl.TGT : Span := ⟨28, 24⟩
def AdSlotCtl.TERM : Span := ⟨23, 22⟩
def AdSlotCtl.LEAD : Span := ⟨18, 0⟩
def AdSlotCtl.desc : RegDesc := ⟨false, [⟨AdSlotCtl.ARM, .rw, 0⟩,
  ⟨AdSlotCtl.ONESHOT, .rw, 0⟩,
  ⟨AdSlotCtl.BASIS, .rw, 0⟩,
  ⟨AdSlotCtl.IE, .rw, 0⟩,
  ⟨AdSlotCtl.ACT, .rw, 0⟩,
  ⟨AdSlotCtl.TGT, .rw, 0⟩,
  ⟨AdSlotCtl.TERM, .rw, 0⟩,
  ⟨AdSlotCtl.LEAD, .rw, 0⟩]⟩

/-- Address of ADLOCK (R85). -/
def adLock : Nat := 0x020800
def AdLock.LK : Span := ⟨31, 0⟩
def AdLock.desc : RegDesc := ⟨false, [⟨AdLock.LK, .ro, 0⟩]⟩

/-- Address of TMCTL (R106). -/
def tmCtl (n : Nat) : Nat := 0x030000 + 0x10 * n + 0x0
def TmCtl.RUN : Span := ⟨35, 35⟩
def TmCtl.MODE : Span := ⟨34, 33⟩
def TmCtl.CE0 : Span := ⟨32, 32⟩
def TmCtl.CE1 : Span := ⟨31, 31⟩
def TmCtl.IEZ : Span := ⟨30, 30⟩
def TmCtl.IE0 : Span := ⟨29, 29⟩
def TmCtl.IE1 : Span := ⟨28, 28⟩
def TmCtl.IEN : Span := ⟨27, 27⟩
def TmCtl.PSC : Span := ⟨15, 0⟩
def TmCtl.desc : RegDesc := ⟨false, [⟨TmCtl.RUN, .tx, 0⟩,
  ⟨TmCtl.MODE, .rw, 0⟩,
  ⟨TmCtl.CE0, .rw, 0⟩,
  ⟨TmCtl.CE1, .rw, 0⟩,
  ⟨TmCtl.IEZ, .rw, 0⟩,
  ⟨TmCtl.IE0, .rw, 0⟩,
  ⟨TmCtl.IE1, .rw, 0⟩,
  ⟨TmCtl.IEN, .rw, 0⟩,
  ⟨TmCtl.PSC, .rw, 0⟩]⟩

/-- Address of TMTRG (R107). -/
def tmTrg (n : Nat) : Nat := 0x030000 + 0x10 * n + 0x1
def TmTrg.GATE : Span := ⟨35, 27⟩
def TmTrg.RST : Span := ⟨26, 18⟩
def TmTrg.CLK : Span := ⟨17, 9⟩
def TmTrg.STRT : Span := ⟨8, 0⟩
def TmTrg.desc : RegDesc := ⟨false, [⟨TmTrg.GATE, .rw, 0⟩,
  ⟨TmTrg.RST, .rw, 0⟩,
  ⟨TmTrg.CLK, .rw, 0⟩,
  ⟨TmTrg.STRT, .rw, 0⟩]⟩

/-- Address of TMPIN (R108). -/
def tmPin (n : Nat) : Nat := 0x030000 + 0x10 * n + 0x2
def TmPin.DRV : Span := ⟨35, 35⟩
def TmPin.ACT0 : Span := ⟨34, 32⟩
def TmPin.ACT1 : Span := ⟨31, 29⟩
def TmPin.ACTZ : Span := ⟨28, 26⟩
def TmPin.PORT : Span := ⟨25, 21⟩
def TmPin.TERM : Span := ⟨20, 19⟩
def TmPin.desc : RegDesc := ⟨false, [⟨TmPin.DRV, .rw, 0⟩,
  ⟨TmPin.ACT0, .rw, 0⟩,
  ⟨TmPin.ACT1, .rw, 0⟩,
  ⟨TmPin.ACTZ, .rw, 0⟩,
  ⟨TmPin.PORT, .rw, 0⟩,
  ⟨TmPin.TERM, .rw, 3⟩]⟩

/-- Address of TMSTAT (R109). -/
def tmStat (n : Nat) : Nat := 0x030000 + 0x10 * n + 0x3
def TmStat.WIN : Span := ⟨7, 7⟩
def TmStat.CNTG : Span := ⟨6, 6⟩
def TmStat.GATE : Span := ⟨5, 5⟩
def TmStat.NEAR1 : Span := ⟨4, 4⟩
def TmStat.NEAR0 : Span := ⟨3, 3⟩
def TmStat.M1 : Span := ⟨2, 2⟩
def TmStat.M0 : Span := ⟨1, 1⟩
def TmStat.Z : Span := ⟨0, 0⟩
def TmStat.desc : RegDesc := ⟨false, [⟨TmStat.WIN, .ro, 0⟩,
  ⟨TmStat.CNTG, .ro, 0⟩,
  ⟨TmStat.GATE, .ro, 1⟩,
  ⟨TmStat.NEAR1, .w1c, 0⟩,
  ⟨TmStat.NEAR0, .w1c, 0⟩,
  ⟨TmStat.M1, .w1c, 0⟩,
  ⟨TmStat.M0, .w1c, 0⟩,
  ⟨TmStat.Z, .w1c, 0⟩]⟩

/-- Address of TMCMD (R110). -/
def tmCmd (n : Nat) : Nat := 0x030000 + 0x10 * n + 0x4
def TmCmd.RELOADNOW : Span := ⟨0, 0⟩
def TmCmd.desc : RegDesc := ⟨false, [⟨TmCmd.RELOADNOW, .wo, 0⟩]⟩

/-- Address of TMCNT (R111). -/
def tmCnt (n : Nat) : Nat := 0x030000 + 0x10 * n + 0x6
def TmCnt.CNT : Span := ⟨71, 0⟩
def TmCnt.desc : RegDesc := ⟨true, [⟨TmCnt.CNT, .rw, 0⟩]⟩

/-- Address of TMRLD (R111). -/
def tmRld (n : Nat) : Nat := 0x030000 + 0x10 * n + 0x8
def TmRld.RLD : Span := ⟨71, 0⟩
def TmRld.desc : RegDesc := ⟨true, [⟨TmRld.RLD, .tx, 0⟩]⟩

/-- Address of TMCMP0 (R111). -/
def tmCmp0 (n : Nat) : Nat := 0x030000 + 0x10 * n + 0xA
def TmCmp0.CMP0 : Span := ⟨71, 0⟩
def TmCmp0.desc : RegDesc := ⟨true, [⟨TmCmp0.CMP0, .tx, 0⟩]⟩

/-- Address of TMCMP1 (R111). -/
def tmCmp1 (n : Nat) : Nat := 0x030000 + 0x10 * n + 0xC
def TmCmp1.CMP1 : Span := ⟨71, 0⟩
def TmCmp1.desc : RegDesc := ⟨true, [⟨TmCmp1.CMP1, .tx, 0⟩]⟩

/-- Address of TMGO (R112). -/
def tmGo (k : Nat) : Nat := 0x030400 + k
def TmGo.GO : Span := ⟨31, 0⟩
def TmGo.desc : RegDesc := ⟨false, [⟨TmGo.GO, .wo, 0⟩]⟩

/-- Address of FPCFG (R148). -/
def fpCfg (n : Nat) : Nat := 0x040000 + 0x100 * n + 0x00
def FpCfg.MODE : Span := ⟨35, 32⟩
def FpCfg.EX : Span := ⟨31, 31⟩
def FpCfg.DIR : Span := ⟨30, 28⟩
def FpCfg.FILT : Span := ⟨27, 20⟩
def FpCfg.THR : Span := ⟨19, 12⟩
def FpCfg.RTDT : Span := ⟨11, 10⟩
def FpCfg.desc : RegDesc := ⟨false, [⟨FpCfg.MODE, .rwl, 0⟩,
  ⟨FpCfg.EX, .rwl, 0⟩,
  ⟨FpCfg.DIR, .rw, 0⟩,
  ⟨FpCfg.FILT, .rw, 4⟩,
  ⟨FpCfg.THR, .rw, 0x32⟩,
  ⟨FpCfg.RTDT, .rw, 0⟩]⟩

/-- Address of FPLIM (R149). -/
def fpLim (n : Nat) : Nat := 0x040000 + 0x100 * n + 0x01
def FpLim.UO : Span := ⟨35, 27⟩
def FpLim.IO : Span := ⟨26, 20⟩
def FpLim.PO : Span := ⟨19, 12⟩
def FpLim.desc : RegDesc := ⟨false, [⟨FpLim.UO, .rwl, 0⟩,
  ⟨FpLim.IO, .rwl, 0⟩,
  ⟨FpLim.PO, .rwl, 0⟩]⟩

/-- Address of FPDRV (R150). -/
def fpDrv (n : Nat) : Nat := 0x040000 + 0x100 * n + 0x02
def FpDrv.HIT : Span := ⟨35, 29⟩
def FpDrv.HOLD : Span := ⟨28, 22⟩
def FpDrv.HITT : Span := ⟨21, 12⟩
def FpDrv.desc : RegDesc := ⟨false, [⟨FpDrv.HIT, .rw, 0⟩,
  ⟨FpDrv.HOLD, .rw, 0⟩,
  ⟨FpDrv.HITT, .rw, 0⟩]⟩

/-- Address of FPOUT (R151). -/
def fpOut (n : Nat) : Nat := 0x040000 + 0x100 * n + 0x03
def FpOut.LVL : Span := ⟨35, 33⟩
def FpOut.AOUT : Span := ⟨32, 18⟩
def FpOut.desc : RegDesc := ⟨false, [⟨FpOut.LVL, .tx, 0⟩,
  ⟨FpOut.AOUT, .tx, 0⟩]⟩

/-- Address of FPIN (R152). -/
def fpIn (n : Nat) : Nat := 0x040000 + 0x100 * n + 0x04
def FpIn.LVL : Span := ⟨35, 33⟩
def FpIn.RV : Span := ⟨32, 32⟩
def FpIn.LINE : Span := ⟨31, 30⟩
def FpIn.desc : RegDesc := ⟨false, [⟨FpIn.LVL, .ro, 0⟩,
  ⟨FpIn.RV, .ro, 0⟩,
  ⟨FpIn.LINE, .ro, 0⟩]⟩

/-- Address of FPRES (R153). -/
def fpRes (n : Nat) : Nat := 0x040000 + 0x100 * n + 0x05
def FpRes.RES : Span := ⟨35, 0⟩
def FpRes.desc : RegDesc := ⟨false, [⟨FpRes.RES, .ro, 0⟩]⟩

/-- Address of FPSTAT (R154). -/
def fpStat (n : Nat) : Nat := 0x040000 + 0x100 * n + 0x06
def FpStat.STATE : Span := ⟨35, 34⟩
def FpStat.REF : Span := ⟨33, 30⟩
def FpStat.RCNT : Span := ⟨29, 26⟩
def FpStat.CHK : Span := ⟨25, 25⟩
def FpStat.CAUSE : Span := ⟨15, 8⟩
def FpStat.SIE : Span := ⟨7, 0⟩
def FpStat.desc : RegDesc := ⟨false, [⟨FpStat.STATE, .ro, 0⟩,
  ⟨FpStat.REF, .ro, 0⟩,
  ⟨FpStat.RCNT, .ro, 0⟩,
  ⟨FpStat.CHK, .ro, 0⟩,
  ⟨FpStat.CAUSE, .w1c, 0⟩,
  ⟨FpStat.SIE, .rw, 0⟩]⟩

/-- Address of FPCMD (R155). -/
def fpCmd (n : Nat) : Nat := 0x040000 + 0x100 * n + 0x07
def FpCmd.EN : Span := ⟨3, 3⟩
def FpCmd.DIS : Span := ⟨2, 2⟩
def FpCmd.RESTORE : Span := ⟨1, 1⟩
def FpCmd.ISOL : Span := ⟨0, 0⟩
def FpCmd.desc : RegDesc := ⟨false, [⟨FpCmd.EN, .wo, 0⟩,
  ⟨FpCmd.DIS, .wo, 0⟩,
  ⟨FpCmd.RESTORE, .wo, 0⟩,
  ⟨FpCmd.ISOL, .wo, 0⟩]⟩

/-- Address of FPENV (R156). -/
def fpEnv (n : Nat) : Nat := 0x040000 + 0x100 * n + 0x08
def FpEnv.QMAX : Span := ⟨35, 20⟩
def FpEnv.QWIN : Span := ⟨19, 10⟩
def FpEnv.ESMAX : Span := ⟨9, 0⟩
def FpEnv.desc : RegDesc := ⟨false, [⟨FpEnv.QMAX, .rwl, 0⟩,
  ⟨FpEnv.QWIN, .rwl, 0⟩,
  ⟨FpEnv.ESMAX, .rwl, 0⟩]⟩

/-- Address of FPWIRE (R157). -/
def fpWire (n : Nat) : Nat := 0x040000 + 0x100 * n + 0x09
def FpWire.CNF : Span := ⟨35, 20⟩
def FpWire.RS : Span := ⟨19, 6⟩
def FpWire.desc : RegDesc := ⟨false, [⟨FpWire.CNF, .rwl, 0⟩,
  ⟨FpWire.RS, .rwl, 0⟩]⟩

/-- Address of FPFLT (R158). -/
def fpFlt (n : Nat) : Nat := 0x040000 + 0x100 * n + 0x0A
def FpFlt.AUTOR : Span := ⟨35, 35⟩
def FpFlt.RTN : Span := ⟨34, 31⟩
def FpFlt.RDLY : Span := ⟨30, 23⟩
def FpFlt.RWIN : Span := ⟨22, 13⟩
def FpFlt.SAFEL : Span := ⟨12, 10⟩
def FpFlt.SAFEA : Span := ⟨9, 8⟩
def FpFlt.desc : RegDesc := ⟨false, [⟨FpFlt.AUTOR, .rw, 1⟩,
  ⟨FpFlt.RTN, .rw, 3⟩,
  ⟨FpFlt.RDLY, .rw, 0xA⟩,
  ⟨FpFlt.RWIN, .rw, 0x3C⟩,
  ⟨FpFlt.SAFEL, .rwl, 0⟩,
  ⟨FpFlt.SAFEA, .rwl, 0⟩]⟩

/-- Address of FPUART (R159). -/
def fpUart (n : Nat) : Nat := 0x040000 + 0x100 * n + 0x0B
def FpUart.UEN : Span := ⟨35, 35⟩
def FpUart.PAR : Span := ⟨34, 33⟩
def FpUart.STOP2 : Span := ⟨32, 32⟩
def FpUart.DIV : Span := ⟨31, 16⟩
def FpUart.RXIE : Span := ⟨15, 15⟩
def FpUart.TXIE : Span := ⟨14, 14⟩
def FpUart.desc : RegDesc := ⟨false, [⟨FpUart.UEN, .rw, 0⟩,
  ⟨FpUart.PAR, .rw, 0⟩,
  ⟨FpUart.STOP2, .rw, 0⟩,
  ⟨FpUart.DIV, .rw, 0x28B0⟩,
  ⟨FpUart.RXIE, .rw, 0⟩,
  ⟨FpUart.TXIE, .rw, 0⟩]⟩

/-- Address of FPDATA (R160). -/
def fpData (n : Nat) : Nat := 0x040000 + 0x100 * n + 0x0C
def FpData.TXV : Span := ⟨35, 35⟩
def FpData.TXD : Span := ⟨34, 27⟩
def FpData.TXLVL : Span := ⟨26, 21⟩
def FpData.RXLVL : Span := ⟨20, 16⟩
def FpData.OVR : Span := ⟨11, 11⟩
def FpData.PERR : Span := ⟨10, 10⟩
def FpData.RXV : Span := ⟨9, 9⟩
def FpData.RXD : Span := ⟨7, 0⟩
def FpData.desc : RegDesc := ⟨false, [⟨FpData.TXV, .wo, 0⟩,
  ⟨FpData.TXD, .wo, 0⟩,
  ⟨FpData.TXLVL, .ro, 0⟩,
  ⟨FpData.RXLVL, .ro, 0⟩,
  ⟨FpData.OVR, .rc, 0⟩,
  ⟨FpData.PERR, .rc, 0⟩,
  ⟨FpData.RXV, .rc, 0⟩,
  ⟨FpData.RXD, .rc, 0⟩]⟩

/-- Address of FPEJ (R161). -/
def fpEj (n : Nat) : Nat := 0x040000 + 0x100 * n + 0x0E
def FpEj.EJ : Span := ⟨71, 0⟩
def FpEj.desc : RegDesc := ⟨true, [⟨FpEj.EJ, .ro, 0⟩]⟩

/-- Address of FPSEQC (R162). -/
def fpSeqc (n : Nat) : Nat := 0x040000 + 0x100 * n + 0x10
def FpSeqc.RUN : Span := ⟨35, 35⟩
def FpSeqc.TSH : Span := ⟨34, 31⟩
def FpSeqc.ENTRY : Span := ⟨30, 25⟩
def FpSeqc.desc : RegDesc := ⟨false, [⟨FpSeqc.RUN, .rw, 0⟩,
  ⟨FpSeqc.TSH, .rw, 0⟩,
  ⟨FpSeqc.ENTRY, .rw, 0⟩]⟩

/-- Address of FPSEQS (R162). -/
def fpSeqs (n : Nat) : Nat := 0x040000 + 0x100 * n + 0x11
def FpSeqs.PC : Span := ⟨35, 30⟩
def FpSeqs.Z : Span := ⟨29, 29⟩
def FpSeqs.N : Span := ⟨28, 28⟩
def FpSeqs.T : Span := ⟨27, 27⟩
def FpSeqs.HLT : Span := ⟨26, 26⟩
def FpSeqs.ILL : Span := ⟨25, 25⟩
def FpSeqs.CODE : Span := ⟨24, 17⟩
def FpSeqs.desc : RegDesc := ⟨false, [⟨FpSeqs.PC, .ro, 0⟩,
  ⟨FpSeqs.Z, .ro, 0⟩,
  ⟨FpSeqs.N, .ro, 0⟩,
  ⟨FpSeqs.T, .ro, 0⟩,
  ⟨FpSeqs.HLT, .ro, 1⟩,
  ⟨FpSeqs.ILL, .w1c, 0⟩,
  ⟨FpSeqs.CODE, .ro, 0⟩]⟩

/-- Address of FPMBX (R162). -/
def fpMbx (n : Nat) : Nat := 0x040000 + 0x100 * n + 0x12
def FpMbx.SIN : Span := ⟨35, 18⟩
def FpMbx.SOUT : Span := ⟨17, 0⟩
def FpMbx.desc : RegDesc := ⟨false, [⟨FpMbx.SIN, .rw, 0⟩,
  ⟨FpMbx.SOUT, .ro, 0⟩]⟩

/-- Address of FPSQ (R163). -/
def fpSq (n k : Nat) : Nat := 0x040000 + 0x100 * n + 0x18 + k
def FpSq.Q : Span := ⟨17, 0⟩
def FpSq.desc : RegDesc := ⟨false, [⟨FpSq.Q, .rw, 0⟩]⟩

/-- Address of FPPRG (R163). -/
def fpPrg (n k : Nat) : Nat := 0x040000 + 0x100 * n + 0x40 + k
def FpPrg.INS : Span := ⟨15, 0⟩
def FpPrg.desc : RegDesc := ⟨false, [⟨FpPrg.INS, .rwl, 0⟩]⟩

/-- Address of CHCTL (R164). -/
def chCtl (n : Nat) : Nat := 0x044000 + 0x10 * n
def ChCtl.EN : Span := ⟨35, 35⟩
def ChCtl.AUTOEND : Span := ⟨34, 34⟩
def ChCtl.ILKE : Span := ⟨33, 33⟩
def ChCtl.ILKP : Span := ⟨32, 28⟩
def ChCtl.ILKT : Span := ⟨27, 26⟩
def ChCtl.ILKL : Span := ⟨25, 25⟩
def ChCtl.MDOM : Span := ⟨24, 20⟩
def ChCtl.SIE : Span := ⟨7, 0⟩
def ChCtl.desc : RegDesc := ⟨false, [⟨ChCtl.EN, .rw, 0⟩,
  ⟨ChCtl.AUTOEND, .rw, 0⟩,
  ⟨ChCtl.ILKE, .rwl, 0⟩,
  ⟨ChCtl.ILKP, .rwl, 0⟩,
  ⟨ChCtl.ILKT, .rwl, 0⟩,
  ⟨ChCtl.ILKL, .rwl, 0⟩,
  ⟨ChCtl.MDOM, .rwl, 0⟩,
  ⟨ChCtl.SIE, .rw, 0⟩]⟩

/-- Address of CHPORTS (R165). -/
def chPorts (n : Nat) : Nat := 0x044000 + 0x10 * n + 1
def ChPorts.PM : Span := ⟨31, 0⟩
def ChPorts.desc : RegDesc := ⟨false, [⟨ChPorts.PM, .rwl, 0⟩]⟩

/-- Address of CHSTAT (R166). -/
def chStat (n : Nat) : Nat := 0x044000 + 0x10 * n + 2
def ChStat.STATE : Span := ⟨35, 33⟩
def ChStat.RPORT : Span := ⟨32, 28⟩
def ChStat.RPV : Span := ⟨27, 27⟩
def ChStat.RDOM : Span := ⟨26, 26⟩
def ChStat.CAUSE : Span := ⟨7, 0⟩
def ChStat.desc : RegDesc := ⟨false, [⟨ChStat.STATE, .ro, 7⟩,
  ⟨ChStat.RPORT, .ro, 0⟩,
  ⟨ChStat.RPV, .ro, 0⟩,
  ⟨ChStat.RDOM, .ro, 0⟩,
  ⟨ChStat.CAUSE, .w1c, 0⟩]⟩

/-- Address of CHCMD (R167). -/
def chCmd (n : Nat) : Nat := 0x044000 + 0x10 * n + 3
def ChCmd.CMD : Span := ⟨3, 0⟩
def ChCmd.desc : RegDesc := ⟨false, [⟨ChCmd.CMD, .tx, 0⟩]⟩

/-- Address of CHRET (R167). -/
def chRet (n : Nat) : Nat := 0x044000 + 0x10 * n + 4
def ChRet.CLR : Span := ⟨0, 0⟩
def ChRet.desc : RegDesc := ⟨false, [⟨ChRet.CLR, .wo, 0⟩]⟩

/-- Address of FPRAIL (R168). -/
def fpRail : Nat := 0x046000 + 0
def FpRail.USED : Span := ⟨35, 24⟩
def FpRail.LOAD : Span := ⟨23, 12⟩
def FpRail.desc : RegDesc := ⟨false, [⟨FpRail.USED, .ro, 0⟩,
  ⟨FpRail.LOAD, .ro, 0⟩]⟩

/-- Address of FPLOCK (R168). -/
def fpLock : Nat := 0x046000 + 1
def FpLock.LK : Span := ⟨31, 0⟩
def FpLock.desc : RegDesc := ⟨false, [⟨FpLock.LK, .ro, 0⟩]⟩

/-- Address of CHLOCK (R168). -/
def chLock : Nat := 0x046000 + 2
def ChLock.LK : Span := ⟨15, 0⟩
def ChLock.desc : RegDesc := ⟨false, [⟨ChLock.LK, .ro, 0⟩]⟩

/-- Address of TXSTAT (R198). -/
def txStat (n : Nat) : Nat := 0x050000 + 8 * n
def TxStat.STATE : Span := ⟨35, 33⟩
def TxStat.RES : Span := ⟨32, 31⟩
def TxStat.ABC : Span := ⟨30, 26⟩
def TxStat.IE : Span := ⟨25, 25⟩
def TxStat.LATE : Span := ⟨24, 24⟩
def TxStat.TNEG : Span := ⟨23, 23⟩
def TxStat.PART : Span := ⟨22, 17⟩
def TxStat.CELL : Span := ⟨16, 11⟩
def TxStat.desc : RegDesc := ⟨false, [⟨TxStat.STATE, .ro, 0⟩,
  ⟨TxStat.RES, .ro, 0⟩,
  ⟨TxStat.ABC, .ro, 0⟩,
  ⟨TxStat.IE, .ro, 0⟩,
  ⟨TxStat.LATE, .ro, 0⟩,
  ⟨TxStat.TNEG, .ro, 0⟩,
  ⟨TxStat.PART, .ro, 0⟩,
  ⟨TxStat.CELL, .ro, 0⟩]⟩

/-- Address of TXITEMS (R199). -/
def txItems (n : Nat) : Nat := 0x050000 + 8 * n + 1
def TxItems.NW : Span := ⟨35, 29⟩
def TxItems.NREC : Span := ⟨28, 25⟩
def TxItems.RWORDS : Span := ⟨24, 15⟩
def TxItems.NFRM : Span := ⟨14, 12⟩
def TxItems.NSNAP : Span := ⟨11, 7⟩
def TxItems.desc : RegDesc := ⟨false, [⟨TxItems.NW, .ro, 0⟩,
  ⟨TxItems.NREC, .ro, 0⟩,
  ⟨TxItems.RWORDS, .ro, 0⟩,
  ⟨TxItems.NFRM, .ro, 0⟩,
  ⟨TxItems.NSNAP, .ro, 0⟩]⟩

/-- Address of TXRES (R200). -/
def txRes (n : Nat) : Nat := 0x050000 + 8 * n + 2
def TxRes.RES : Span := ⟨35, 16⟩
def TxRes.desc : RegDesc := ⟨false, [⟨TxRes.RES, .ro, 0⟩]⟩

/-- Address of TXPREP (R200). -/
def txPrep (n : Nat) : Nat := 0x050000 + 8 * n + 3
def TxPrep.PREP : Span := ⟨35, 0⟩
def TxPrep.desc : RegDesc := ⟨false, [⟨TxPrep.PREP, .ro, 0⟩]⟩

/-- Address of TXMARK (R200). -/
def txMark (n : Nat) : Nat := 0x050000 + 8 * n + 4
def TxMark.MARK : Span := ⟨35, 0⟩
def TxMark.desc : RegDesc := ⟨false, [⟨TxMark.MARK, .ro, 0⟩]⟩

/-- Address of TXOWN (R201). -/
def txOwn (n : Nat) : Nat := 0x050100 + n
def TxOwn.V : Span := ⟨35, 35⟩
def TxOwn.PART : Span := ⟨34, 29⟩
def TxOwn.desc : RegDesc := ⟨false, [⟨TxOwn.V, .ro, 0⟩,
  ⟨TxOwn.PART, .ro, 0⟩]⟩

/-- Address of TXCFG (R202). -/
def txCfg : Nat := 0x050200 + 0
def TxCfg.TPORT : Span := ⟨35, 35⟩
def TxCfg.CIE : Span := ⟨34, 34⟩
def TxCfg.desc : RegDesc := ⟨false, [⟨TxCfg.TPORT, .rw, 0⟩,
  ⟨TxCfg.CIE, .rw, 0⟩]⟩

/-- Address of TXCAUSE (R202). -/
def txCause : Nat := 0x050200 + 1
def TxCause.STRAY : Span := ⟨7, 7⟩
def TxCause.LATE : Span := ⟨6, 6⟩
def TxCause.TNEG : Span := ⟨5, 5⟩
def TxCause.TXN : Span := ⟨4, 0⟩
def TxCause.desc : RegDesc := ⟨false, [⟨TxCause.STRAY, .w1c, 0⟩,
  ⟨TxCause.LATE, .w1c, 0⟩,
  ⟨TxCause.TNEG, .w1c, 0⟩,
  ⟨TxCause.TXN, .ro, 0⟩]⟩

/-- Address of TXSTRAY (R202). -/
def txStray : Nat := 0x050200 + 2
def TxStray.CNT : Span := ⟨35, 27⟩
def TxStray.TXN : Span := ⟨26, 22⟩
def TxStray.desc : RegDesc := ⟨false, [⟨TxStray.CNT, .rc, 0⟩,
  ⟨TxStray.TXN, .ro, 0⟩]⟩

/-- Address of TXCMD (R202). -/
def txCmd : Nat := 0x050200 + 3
def TxCmd.KILL : Span := ⟨35, 35⟩
def TxCmd.TXN : Span := ⟨34, 30⟩
def TxCmd.desc : RegDesc := ⟨false, [⟨TxCmd.KILL, .wo, 0⟩,
  ⟨TxCmd.TXN, .wo, 0⟩]⟩

/-- Address of RSJHEAD (R203). -/
def rsJhead : Nat := 0x060000 + 0
def RsJhead.HEAD : Span := ⟨35, 0⟩
def RsJhead.desc : RegDesc := ⟨false, [⟨RsJhead.HEAD, .ro, 0⟩]⟩

/-- Address of RSJTAIL (R203). -/
def rsJtail : Nat := 0x060000 + 1
def RsJtail.TAIL : Span := ⟨35, 0⟩
def RsJtail.desc : RegDesc := ⟨false, [⟨RsJtail.TAIL, .rw, 0⟩]⟩

/-- Address of RSJLIM (R203). -/
def rsJlim : Nat := 0x060000 + 2
def RsJlim.LIM : Span := ⟨35, 0⟩
def RsJlim.desc : RegDesc := ⟨false, [⟨RsJlim.LIM, .ro, 0⟩]⟩

/-- Address of RSJCFG (R204). -/
def rsJcfg : Nat := 0x060003
def RsJcfg.HWM : Span := ⟨35, 20⟩
def RsJcfg.HIE : Span := ⟨19, 19⟩
def RsJcfg.EIE : Span := ⟨18, 18⟩
def RsJcfg.desc : RegDesc := ⟨false, [⟨RsJcfg.HWM, .rw, 0x40⟩,
  ⟨RsJcfg.HIE, .rw, 0⟩,
  ⟨RsJcfg.EIE, .rw, 0⟩]⟩

/-- Address of RSSTAT (R204). -/
def rsStat : Nat := 0x060004
def RsStat.RDY : Span := ⟨35, 35⟩
def RsStat.CAUSE : Span := ⟨7, 4⟩
def RsStat.desc : RegDesc := ⟨false, [⟨RsStat.RDY, .ro, 0⟩,
  ⟨RsStat.CAUSE, .w1c, 0⟩]⟩

/-- Address of RSSEQ (R205). -/
def rsSeq : Nat := 0x060006
def RsSeq.SEQ : Span := ⟨47, 0⟩
def RsSeq.desc : RegDesc := ⟨true, [⟨RsSeq.SEQ, .ro, 0⟩]⟩

/-- Address of RSBOOT (R205). -/
def rsBoot : Nat := 0x060000 + 8
def RsBoot.BOOT : Span := ⟨31, 0⟩
def RsBoot.desc : RegDesc := ⟨false, [⟨RsBoot.BOOT, .ro, 0⟩]⟩

/-- Address of RSREPL (R205). -/
def rsRepl : Nat := 0x060000 + 9
def RsRepl.NCOMP : Span := ⟨35, 24⟩
def RsRepl.NDISC : Span := ⟨23, 12⟩
def RsRepl.NTORN : Span := ⟨11, 0⟩
def RsRepl.desc : RegDesc := ⟨false, [⟨RsRepl.NCOMP, .ro, 0⟩,
  ⟨RsRepl.NDISC, .ro, 0⟩,
  ⟨RsRepl.NTORN, .ro, 0⟩]⟩

/-- Address of RSWERR (R205). -/
def rsWerr : Nat := 0x060000 + 10
def RsWerr.CNT : Span := ⟨35, 27⟩
def RsWerr.desc : RegDesc := ⟨false, [⟨RsWerr.CNT, .rc, 0⟩]⟩

/-- Address of FUMODE (R243). -/
def fuMode (f : Nat) : Nat := 0x080000 + 0x20 * f
def FuMode.ROLE0 : Span := ⟨35, 33⟩
def FuMode.GRP0 : Span := ⟨32, 31⟩
def FuMode.ROLE1 : Span := ⟨30, 28⟩
def FuMode.GRP1 : Span := ⟨27, 26⟩
def FuMode.ROLE2 : Span := ⟨25, 23⟩
def FuMode.GRP2 : Span := ⟨22, 21⟩
def FuMode.ROLE3 : Span := ⟨20, 18⟩
def FuMode.GRP3 : Span := ⟨17, 16⟩
def FuMode.NAME : Span := ⟨15, 12⟩
def FuMode.desc : RegDesc := ⟨false, [⟨FuMode.ROLE0, .ro, 3⟩,
  ⟨FuMode.GRP0, .ro, 0⟩,
  ⟨FuMode.ROLE1, .ro, 3⟩,
  ⟨FuMode.GRP1, .ro, 0⟩,
  ⟨FuMode.ROLE2, .ro, 3⟩,
  ⟨FuMode.GRP2, .ro, 0⟩,
  ⟨FuMode.ROLE3, .ro, 3⟩,
  ⟨FuMode.GRP3, .ro, 0⟩,
  ⟨FuMode.NAME, .ro, 4⟩]⟩

/-- Address of FUCMD (R244). -/
def fuCmd (f : Nat) : Nat := 0x080000 + 0x20 * f + 1
def FuCmd.CMD : Span := ⟨35, 32⟩
def FuCmd.SRC : Span := ⟨31, 30⟩
def FuCmd.TGT : Span := ⟨29, 26⟩
def FuCmd.NROLE : Span := ⟨25, 24⟩
def FuCmd.desc : RegDesc := ⟨false, [⟨FuCmd.CMD, .wo, 0⟩,
  ⟨FuCmd.SRC, .wo, 0⟩,
  ⟨FuCmd.TGT, .wo, 0⟩,
  ⟨FuCmd.NROLE, .wo, 0⟩]⟩

/-- Address of FUSTAT (R245). -/
def fuStat (f : Nat) : Nat := 0x080000 + 0x20 * f + 2
def FuStat.BUSY : Span := ⟨35, 35⟩
def FuStat.RSLT : Span := ⟨34, 31⟩
def FuStat.LAST : Span := ⟨30, 28⟩
def FuStat.OUT : Span := ⟨27, 24⟩
def FuStat.ARB : Span := ⟨23, 23⟩
def FuStat.CAUSE : Span := ⟨19, 12⟩
def FuStat.desc : RegDesc := ⟨false, [⟨FuStat.BUSY, .ro, 0⟩,
  ⟨FuStat.RSLT, .ro, 0⟩,
  ⟨FuStat.LAST, .ro, 0⟩,
  ⟨FuStat.OUT, .ro, 0⟩,
  ⟨FuStat.ARB, .ro, 0⟩,
  ⟨FuStat.CAUSE, .w1c, 0⟩]⟩

/-- Address of FUPOL (R246). -/
def fuPol (f : Nat) : Nat := 0x080000 + 0x20 * f + 3
def FuPol.BLAME : Span := ⟨35, 35⟩
def FuPol.TAKE : Span := ⟨34, 34⟩
def FuPol.RESUME : Span := ⟨33, 33⟩
def FuPol.AUTOJ : Span := ⟨32, 32⟩
def FuPol.LKMODE : Span := ⟨31, 31⟩
def FuPol.desc : RegDesc := ⟨false, [⟨FuPol.BLAME, .rwl, 0⟩,
  ⟨FuPol.TAKE, .rwl, 0⟩,
  ⟨FuPol.RESUME, .rwl, 0⟩,
  ⟨FuPol.AUTOJ, .rwl, 0⟩,
  ⟨FuPol.LKMODE, .rwl, 0⟩]⟩

/-- Address of FUMMR (R247). -/
def fuMmr (f : Nat) : Nat := 0x080000 + 0x20 * f + 4
def FuMmr.PORT : Span := ⟨35, 33⟩
def FuMmr.CELLS : Span := ⟨32, 29⟩
def FuMmr.GRP : Span := ⟨28, 27⟩
def FuMmr.V : Span := ⟨26, 26⟩
def FuMmr.BIT : Span := ⟨25, 18⟩
def FuMmr.NDIFF : Span := ⟨17, 10⟩
def FuMmr.desc : RegDesc := ⟨false, [⟨FuMmr.PORT, .ro, 0⟩,
  ⟨FuMmr.CELLS, .ro, 0⟩,
  ⟨FuMmr.GRP, .ro, 0⟩,
  ⟨FuMmr.V, .w1c, 0⟩,
  ⟨FuMmr.BIT, .ro, 0⟩,
  ⟨FuMmr.NDIFF, .ro, 0⟩]⟩

/-- Address of FUMMPC (R247). -/
def fuMmpc (f : Nat) : Nat := 0x080000 + 0x20 * f + 5
def FuMmpc.PC : Span := ⟨35, 0⟩
def FuMmpc.desc : RegDesc := ⟨false, [⟨FuMmpc.PC, .ro, 0⟩]⟩

/-- Address of FUCNT (R248). -/
def fuCnt (f : Nat) : Nat := 0x080000 + 0x20 * f + 6
def FuCnt.MMC : Span := ⟨35, 24⟩
def FuCnt.RSC : Span := ⟨23, 12⟩
def FuCnt.ARC : Span := ⟨11, 0⟩
def FuCnt.desc : RegDesc := ⟨false, [⟨FuCnt.MMC, .rc, 0⟩,
  ⟨FuCnt.RSC, .rc, 0⟩,
  ⟨FuCnt.ARC, .rc, 0⟩]⟩

/-- Address of FURET (R249). -/
def fuRet (f : Nat) : Nat := 0x080000 + 0x20 * f + 7
def FuRet.CLR : Span := ⟨35, 35⟩
def FuRet.CLRM : Span := ⟨34, 31⟩
def FuRet.RET : Span := ⟨3, 0⟩
def FuRet.desc : RegDesc := ⟨false, [⟨FuRet.CLR, .wo, 0⟩,
  ⟨FuRet.CLRM, .wo, 0⟩,
  ⟨FuRet.RET, .ro, 0⟩]⟩

/-- Address of FUCLK (R250). -/
def fuClk (f : Nat) : Nat := 0x080000 + 0x20 * f + 8
def FuClk.FREQ : Span := ⟨35, 32⟩
def FuClk.CUR : Span := ⟨31, 28⟩
def FuClk.RELOCK : Span := ⟨27, 27⟩
def FuClk.desc : RegDesc := ⟨false, [⟨FuClk.FREQ, .rw, 0xA⟩,
  ⟨FuClk.CUR, .ro, 0xA⟩,
  ⟨FuClk.RELOCK, .ro, 0⟩]⟩

/-- Address of FUCTEST (R251). -/
def fuCtest (f : Nat) : Nat := 0x080000 + 0x20 * f + 9
def FuCtest.GO : Span := ⟨35, 35⟩
def FuCtest.PORT : Span := ⟨34, 32⟩
def FuCtest.BIT : Span := ⟨31, 22⟩
def FuCtest.GRP : Span := ⟨21, 20⟩
def FuCtest.OK : Span := ⟨19, 19⟩
def FuCtest.DONE : Span := ⟨18, 18⟩
def FuCtest.desc : RegDesc := ⟨false, [⟨FuCtest.GO, .wo, 0⟩,
  ⟨FuCtest.PORT, .rw, 0⟩,
  ⟨FuCtest.BIT, .rw, 0⟩,
  ⟨FuCtest.GRP, .rw, 0⟩,
  ⟨FuCtest.OK, .ro, 0⟩,
  ⟨FuCtest.DONE, .ro, 1⟩]⟩

/-- Address of FURLOCK (R252). -/
def furLock : Nat := 0x080400
def FurLock.LK : Span := ⟨15, 0⟩
def FurLock.desc : RegDesc := ⟨false, [⟨FurLock.LK, .ro, 0⟩]⟩

/-- Address of FCCTL (R287). -/
def fcCtl : Nat := 0x090000
def FcCtl.SAFEEN : Span := ⟨35, 35⟩
def FcCtl.FEEDP : Span := ⟨34, 29⟩
def FcCtl.IEN : Span := ⟨28, 28⟩
def FcCtl.IEC : Span := ⟨27, 27⟩
def FcCtl.IER : Span := ⟨26, 26⟩
def FcCtl.IECF : Span := ⟨25, 25⟩
def FcCtl.IEFR : Span := ⟨24, 24⟩
def FcCtl.IEW : Span := ⟨23, 23⟩
def FcCtl.IEFF : Span := ⟨22, 22⟩
def FcCtl.IES : Span := ⟨21, 21⟩
def FcCtl.desc : RegDesc := ⟨false, [⟨FcCtl.SAFEEN, .rw, 0⟩,
  ⟨FcCtl.FEEDP, .rwl, 0⟩,
  ⟨FcCtl.IEN, .rw, 0⟩,
  ⟨FcCtl.IEC, .rw, 0⟩,
  ⟨FcCtl.IER, .rw, 0⟩,
  ⟨FcCtl.IECF, .rw, 0⟩,
  ⟨FcCtl.IEFR, .rw, 0⟩,
  ⟨FcCtl.IEW, .rw, 0⟩,
  ⟨FcCtl.IEFF, .rw, 0⟩,
  ⟨FcCtl.IES, .rw, 0⟩]⟩

/-- Address of FCSTAT (R288). -/
def fcStat : Nat := 0x090001
def FcStat.FSTATE : Span := ⟨35, 35⟩
def FcStat.LATCH : Span := ⟨34, 34⟩
def FcStat.CF : Span := ⟨33, 33⟩
def FcStat.FRST : Span := ⟨32, 32⟩
def FcStat.SAFEA : Span := ⟨31, 31⟩
def FcStat.SAFEB : Span := ⟨30, 30⟩
def FcStat.ALIVE : Span := ⟨29, 29⟩
def FcStat.NFLT : Span := ⟨28, 28⟩
def FcStat.FEEDV : Span := ⟨27, 27⟩
def FcStat.NEXTK : Span := ⟨26, 26⟩
def FcStat.PROM : Span := ⟨25, 25⟩
def FcStat.QREM : Span := ⟨24, 15⟩
def FcStat.desc : RegDesc := ⟨false, [⟨FcStat.FSTATE, .ro, 0⟩,
  ⟨FcStat.LATCH, .ro, 0⟩,
  ⟨FcStat.CF, .w1c, 0⟩,
  ⟨FcStat.FRST, .w1c, 0⟩,
  ⟨FcStat.SAFEA, .ro, 0⟩,
  ⟨FcStat.SAFEB, .ro, 0⟩,
  ⟨FcStat.ALIVE, .ro, 0⟩,
  ⟨FcStat.NFLT, .ro, 1⟩,
  ⟨FcStat.FEEDV, .ro, 0⟩,
  ⟨FcStat.NEXTK, .ro, 0⟩,
  ⟨FcStat.PROM, .w1c, 0⟩,
  ⟨FcStat.QREM, .ro, 0⟩]⟩

/-- Address of FCREC (R289). -/
def fcRec : Nat := 0x090002
def FcRec.AUTO : Span := ⟨35, 35⟩
def FcRec.QUIET : Span := ⟨34, 25⟩
def FcRec.LIMIT : Span := ⟨24, 21⟩
def FcRec.WIN : Span := ⟨20, 7⟩
def FcRec.CNT : Span := ⟨6, 3⟩
def FcRec.ICLR : Span := ⟨2, 2⟩
def FcRec.desc : RegDesc := ⟨false, [⟨FcRec.AUTO, .rwl, 0⟩,
  ⟨FcRec.QUIET, .rwl, 0⟩,
  ⟨FcRec.LIMIT, .rwl, 0⟩,
  ⟨FcRec.WIN, .rwl, 0⟩,
  ⟨FcRec.CNT, .ro, 0⟩,
  ⟨FcRec.ICLR, .wo, 0⟩]⟩

/-- Address of FCFEED (R290). -/
def fcFeed : Nat := 0x090003
def FcFeed.KEY : Span := ⟨7, 0⟩
def FcFeed.desc : RegDesc := ⟨false, [⟨FcFeed.KEY, .wo, 0⟩]⟩

/-- Address of FCFWIN (R290). -/
def fcFwin : Nat := 0x090004
def FcFwin.WMIN : Span := ⟨35, 24⟩
def FcFwin.WMAX : Span := ⟨23, 12⟩
def FcFwin.desc : RegDesc := ⟨false, [⟨FcFwin.WMIN, .rwl, 0⟩,
  ⟨FcFwin.WMAX, .rwl, 0⟩]⟩

/-- Address of FCFIRST (R291). -/
def fcFirst : Nat := 0x090005
def FcFirst.V : Span := ⟨35, 35⟩
def FcFirst.SRC : Span := ⟨34, 27⟩
def FcFirst.UNIT : Span := ⟨26, 21⟩
def FcFirst.CLS : Span := ⟨20, 18⟩
def FcFirst.OSC : Span := ⟨17, 17⟩
def FcFirst.desc : RegDesc := ⟨false, [⟨FcFirst.V, .w1c, 0⟩,
  ⟨FcFirst.SRC, .ro, 0⟩,
  ⟨FcFirst.UNIT, .ro, 0⟩,
  ⟨FcFirst.CLS, .ro, 0⟩,
  ⟨FcFirst.OSC, .ro, 0⟩]⟩

/-- Address of FCTIME (R291). -/
def fcTime : Nat := 0x090006
def FcTime.TIME : Span := ⟨71, 0⟩
def FcTime.desc : RegDesc := ⟨true, [⟨FcTime.TIME, .ro, 0⟩]⟩

/-- Address of FCSWF (R292). -/
def fcSwf : Nat := 0x090008
def FcSwf.DEV : Span := ⟨35, 35⟩
def FcSwf.CH : Span := ⟨34, 34⟩
def FcSwf.CHM : Span := ⟨15, 0⟩
def FcSwf.desc : RegDesc := ⟨false, [⟨FcSwf.DEV, .wo, 0⟩,
  ⟨FcSwf.CH, .wo, 0⟩,
  ⟨FcSwf.CHM, .wo, 0⟩]⟩

/-- Address of FCLOCK (R292). -/
def fcLock : Nat := 0x090009
def FcLock.LK : Span := ⟨0, 0⟩
def FcLock.desc : RegDesc := ⟨false, [⟨FcLock.LK, .ro, 0⟩]⟩

/-- Address of FCFURCH (R292). -/
def fcFurch (f : Nat) : Nat := 0x090010 + f
def FcFurch.CHM : Span := ⟨15, 0⟩
def FcFurch.desc : RegDesc := ⟨false, [⟨FcFurch.CHM, .rwl, 0⟩]⟩

/-- Address of FCCLS (R293). -/
def fcCls (k : Nat) : Nat := 0x090040 + k
def FcCls.CLS : Span := ⟨35, 0⟩
def FcCls.desc : RegDesc := ⟨false, [⟨FcCls.CLS, .rwl, 0⟩]⟩

/-- Address of FCACT (R293). -/
def fcAct (k : Nat) : Nat := 0x090060 + k
def FcAct.ACT : Span := ⟨31, 0⟩
def FcAct.desc : RegDesc := ⟨false, [⟨FcAct.ACT, .ro, 0⟩]⟩

/-- Address of FCPEND (R293). -/
def fcPend (k : Nat) : Nat := 0x090068 + k
def FcPend.PEND : Span := ⟨31, 0⟩
def FcPend.desc : RegDesc := ⟨false, [⟨FcPend.PEND, .w1c, 0⟩]⟩

/-- Address of FCCNT (R293). -/
def fcCnt (k : Nat) : Nat := 0x090080 + k
def FcCnt.CNT : Span := ⟨35, 0⟩
def FcCnt.desc : RegDesc := ⟨false, [⟨FcCnt.CNT, .rc, 0⟩]⟩

/-- Address of BCTL (R295). -/
def bCtl : Nat := 0x0F0000 + 0
def BCtl.GO : Span := ⟨35, 35⟩
def BCtl.TGT : Span := ⟨34, 32⟩
def BCtl.ALG : Span := ⟨31, 30⟩
def BCtl.BG : Span := ⟨29, 28⟩
def BCtl.UNIT : Span := ⟨27, 22⟩
def BCtl.K : Span := ⟨21, 17⟩
def BCtl.IE : Span := ⟨16, 16⟩
def BCtl.DRAMS : Span := ⟨15, 15⟩
def BCtl.desc : RegDesc := ⟨false, [⟨BCtl.GO, .wo, 0⟩,
  ⟨BCtl.TGT, .rw, 0⟩,
  ⟨BCtl.ALG, .rw, 0⟩,
  ⟨BCtl.BG, .rw, 0⟩,
  ⟨BCtl.UNIT, .rw, 0⟩,
  ⟨BCtl.K, .rw, 3⟩,
  ⟨BCtl.IE, .rw, 0⟩,
  ⟨BCtl.DRAMS, .ro, 0⟩]⟩

/-- Address of BSTAT (R295). -/
def bStat : Nat := 0x0F0000 + 1
def BStat.BUSY : Span := ⟨35, 35⟩
def BStat.RES : Span := ⟨34, 32⟩
def BStat.FCNT : Span := ⟨31, 23⟩
def BStat.desc : RegDesc := ⟨false, [⟨BStat.BUSY, .ro, 0⟩,
  ⟨BStat.RES, .ro, 0⟩,
  ⟨BStat.FCNT, .rc, 0⟩]⟩

/-- Address of BFADR (R295). -/
def bFadr : Nat := 0x0F0000 + 2
def BFadr.ADR : Span := ⟨35, 0⟩
def BFadr.desc : RegDesc := ⟨false, [⟨BFadr.ADR, .ro, 0⟩]⟩

/-- Address of BFINFO (R295). -/
def bFinfo : Nat := 0x0F0000 + 3
def BFinfo.ELEM : Span := ⟨35, 32⟩
def BFinfo.OP : Span := ⟨31, 29⟩
def BFinfo.BIT : Span := ⟨28, 22⟩
def BFinfo.ISRAM : Span := ⟨21, 21⟩
def BFinfo.V : Span := ⟨20, 20⟩
def BFinfo.desc : RegDesc := ⟨false, [⟨BFinfo.ELEM, .ro, 0⟩,
  ⟨BFinfo.OP, .ro, 0⟩,
  ⟨BFinfo.BIT, .ro, 0⟩,
  ⟨BFinfo.ISRAM, .ro, 0⟩,
  ⟨BFinfo.V, .w1c, 0⟩]⟩

/-- Address of BPAT (R295). -/
def bPat : Nat := 0x0F0000 + 4
def BPat.PAT : Span := ⟨71, 0⟩
def BPat.desc : RegDesc := ⟨true, [⟨BPat.PAT, .rw, 0⟩]⟩

/-- Address of BROT (R295). -/
def bRot : Nat := 0x0F0000 + 6
def BRot.EN : Span := ⟨35, 35⟩
def BRot.PER : Span := ⟨34, 23⟩
def BRot.NEXT : Span := ⟨22, 19⟩
def BRot.NTEST : Span := ⟨18, 10⟩
def BRot.desc : RegDesc := ⟨false, [⟨BRot.EN, .rwl, 0⟩,
  ⟨BRot.PER, .rwl, 0⟩,
  ⟨BRot.NEXT, .ro, 0⟩,
  ⟨BRot.NTEST, .rc, 0⟩]⟩

/-- Address of BSCRUB (R295). -/
def bScrub : Nat := 0x0F0000 + 7
def BScrub.EN : Span := ⟨35, 35⟩
def BScrub.PASSH : Span := ⟨34, 27⟩
def BScrub.CORR : Span := ⟨26, 18⟩
def BScrub.UNC : Span := ⟨17, 9⟩
def BScrub.desc : RegDesc := ⟨false, [⟨BScrub.EN, .rwl, 0⟩,
  ⟨BScrub.PASSH, .rwl, 0⟩,
  ⟨BScrub.CORR, .rc, 0⟩,
  ⟨BScrub.UNC, .rc, 0⟩]⟩

/-- Address of BDRAM (R295). -/
def bDram : Nat := 0x0F0000 + 8
def BDram.BASE : Span := ⟨35, 0⟩
def BDram.desc : RegDesc := ⟨false, [⟨BDram.BASE, .rw, 0x100000000⟩]⟩

/-- Address of BPRG (R295). -/
def bPrg (k : Nat) : Nat := 0x0F0010 + k
def BPrg.ORD : Span := ⟨35, 34⟩
def BPrg.NOPS : Span := ⟨33, 31⟩
def BPrg.OPS : Span := ⟨30, 19⟩
def BPrg.LAST : Span := ⟨18, 18⟩
def BPrg.desc : RegDesc := ⟨false, [⟨BPrg.ORD, .rw, 0⟩,
  ⟨BPrg.NOPS, .rw, 0⟩,
  ⟨BPrg.OPS, .rw, 0⟩,
  ⟨BPrg.LAST, .rw, 0⟩]⟩

/-- Address of DRCTL (R320). -/
def drCtl : Nat := 0x070000
def DrCtl.IE : Span := ⟨35, 28⟩
def DrCtl.REMEAS : Span := ⟨27, 27⟩
def DrCtl.desc : RegDesc := ⟨false, [⟨DrCtl.IE, .rw, 0⟩,
  ⟨DrCtl.REMEAS, .wo, 0⟩]⟩

/-- Address of DRSTAT (R320). -/
def drStat : Nat := 0x070000 + 1
def DrStat.SHED : Span := ⟨35, 35⟩
def DrStat.READY : Span := ⟨34, 34⟩
def DrStat.BANKREF : Span := ⟨33, 33⟩
def DrStat.BREF : Span := ⟨32, 30⟩
def DrStat.DLOST : Span := ⟨29, 29⟩
def DrStat.CHG : Span := ⟨28, 28⟩
def DrStat.CAUSE : Span := ⟨27, 20⟩
def DrStat.desc : RegDesc := ⟨false, [⟨DrStat.SHED, .ro, 0⟩,
  ⟨DrStat.READY, .ro, 0⟩,
  ⟨DrStat.BANKREF, .ro, 0⟩,
  ⟨DrStat.BREF, .ro, 0⟩,
  ⟨DrStat.DLOST, .w1c, 0⟩,
  ⟨DrStat.CHG, .ro, 0⟩,
  ⟨DrStat.CAUSE, .w1c, 0⟩]⟩

/-- Address of DRWEIR (R321). -/
def drWeir : Nat := 0x070000 + 2
def DrWeir.WARN : Span := ⟨35, 26⟩
def DrWeir.desc : RegDesc := ⟨false, [⟨DrWeir.WARN, .rwl, 0x57⟩]⟩

/-- Address of DRBANK (R321). -/
def drBank : Nat := 0x070000 + 3
def DrBank.EMAX : Span := ⟨35, 24⟩
def DrBank.VSET : Span := ⟨23, 11⟩
def DrBank.ICH : Span := ⟨10, 3⟩
def DrBank.desc : RegDesc := ⟨false, [⟨DrBank.EMAX, .rwl, 0x32⟩,
  ⟨DrBank.VSET, .rwl, 0x7D0⟩,
  ⟨DrBank.ICH, .rwl, 0x14⟩]⟩

/-- Address of DRBSTAT (R321). -/
def drBstat : Nat := 0x070000 + 4
def DrBstat.CAP : Span := ⟨35, 16⟩
def DrBstat.VCHG : Span := ⟨15, 3⟩
def DrBstat.desc : RegDesc := ⟨false, [⟨DrBstat.CAP, .ro, 0⟩,
  ⟨DrBstat.VCHG, .ro, 0⟩]⟩

/-- Address of DRMEAS (R322). -/
def drMeas : Nat := 0x070000 + 5
def DrMeas.VIN : Span := ⟨35, 18⟩
def DrMeas.HOLD : Span := ⟨17, 0⟩
def DrMeas.desc : RegDesc := ⟨false, [⟨DrMeas.VIN, .ro, 0⟩,
  ⟨DrMeas.HOLD, .ro, 0⟩]⟩

/-- Address of DRPWR (R322). -/
def drPwr : Nat := 0x070000 + 6
def DrPwr.PIN : Span := ⟨35, 18⟩
def DrPwr.IIN : Span := ⟨17, 0⟩
def DrPwr.desc : RegDesc := ⟨false, [⟨DrPwr.PIN, .ro, 0⟩,
  ⟨DrPwr.IIN, .ro, 0⟩]⟩

/-- Address of DRCOSTA (R323). -/
def drCostA : Nat := 0x070000 + 7
def DrCostA.CBASE : Span := ⟨35, 18⟩
def DrCostA.COUT : Span := ⟨17, 0⟩
def DrCostA.desc : RegDesc := ⟨false, [⟨DrCostA.CBASE, .rwl, 0x5DC⟩,
  ⟨DrCostA.COUT, .rwl, 0xC8⟩]⟩

/-- Address of DRCOSTB (R323). -/
def drCostB : Nat := 0x070000 + 8
def DrCostB.CWORD : Span := ⟨35, 18⟩
def DrCostB.CFRM : Span := ⟨17, 0⟩
def DrCostB.desc : RegDesc := ⟨false, [⟨DrCostB.CWORD, .rwl, 5⟩,
  ⟨DrCostB.CFRM, .rwl, 0x64⟩]⟩

/-- Address of DRCOSTC (R323). -/
def drCostC : Nat := 0x070000 + 9
def DrCostC.ESYS : Span := ⟨35, 18⟩
def DrCostC.ETA : Span := ⟨17, 11⟩
def DrCostC.MARG : Span := ⟨10, 5⟩
def DrCostC.LOWB : Span := ⟨4, 0⟩
def DrCostC.desc : RegDesc := ⟨false, [⟨DrCostC.ESYS, .rwl, 0x2710⟩,
  ⟨DrCostC.ETA, .rwl, 0x55⟩,
  ⟨DrCostC.MARG, .rwl, 0xA⟩,
  ⟨DrCostC.LOWB, .rwl, 0⟩]⟩

/-- Address of DRSHED (R324). -/
def drShed : Nat := 0x070000 + 0xA
def DrShed.STEP : Span := ⟨35, 32⟩
def DrShed.RUN : Span := ⟨31, 31⟩
def DrShed.END : Span := ⟨30, 30⟩
def DrShed.OVRN : Span := ⟨29, 29⟩
def DrShed.TW : Span := ⟨28, 12⟩
def DrShed.desc : RegDesc := ⟨false, [⟨DrShed.STEP, .ro, 0⟩,
  ⟨DrShed.RUN, .ro, 0⟩,
  ⟨DrShed.END, .ro, 0⟩,
  ⟨DrShed.OVRN, .w1c, 0⟩,
  ⟨DrShed.TW, .ro, 0⟩]⟩

/-- Address of DRLOCK (R324). -/
def drLock : Nat := 0x070000 + 0xB
def DrLock.LK : Span := ⟨0, 0⟩
def DrLock.desc : RegDesc := ⟨false, [⟨DrLock.LK, .ro, 0⟩]⟩

/-- Address of DRUSE (R325). -/
def drUse : Nat := 0x070000 + 0xC
def DrUse.E : Span := ⟨71, 0⟩
def DrUse.desc : RegDesc := ⟨true, [⟨DrUse.E, .ro, 0⟩]⟩

/-- Address of DROBL (R325). -/
def drObl : Nat := 0x070000 + 0xE
def DrObl.E : Span := ⟨71, 0⟩
def DrObl.desc : RegDesc := ⟨true, [⟨DrObl.E, .ro, 0⟩]⟩

/-- Address of DRRESV (R325). -/
def drResv : Nat := 0x070000 + 0x10
def DrResv.E : Span := ⟨71, 0⟩
def DrResv.desc : RegDesc := ⟨true, [⟨DrResv.E, .ro, 0⟩]⟩

/-- Address of DRAVL (R325). -/
def drAvl : Nat := 0x070000 + 0x12
def DrAvl.E : Span := ⟨71, 0⟩
def DrAvl.desc : RegDesc := ⟨true, [⟨DrAvl.E, .ro, 0⟩]⟩

/-- Address of DRSP (R326). -/
def drSp (k : Nat) : Nat := 0x070000 + 0x20 + k
def DrSp.OP : Span := ⟨35, 32⟩
def DrSp.WAIT : Span := ⟨31, 24⟩
def DrSp.EJ : Span := ⟨23, 16⟩
def DrSp.ARG : Span := ⟨15, 0⟩
def DrSp.desc : RegDesc := ⟨false, [⟨DrSp.OP, .rwl, 0⟩,
  ⟨DrSp.WAIT, .rwl, 0⟩,
  ⟨DrSp.EJ, .rwl, 0⟩,
  ⟨DrSp.ARG, .rwl, 0⟩]⟩

/-- Address of DRTEMP (R326). -/
def drTemp (k : Nat) : Nat := 0x070000 + 0x30 + k
def DrTemp.T : Span := ⟨35, 0⟩
def DrTemp.desc : RegDesc := ⟨false, [⟨DrTemp.T, .ro, 0⟩]⟩

/-- Address of DRTHR (R326). -/
def drThr : Nat := 0x070000 + 0x35
def DrThr.THF : Span := ⟨35, 20⟩
def DrThr.TMAX : Span := ⟨19, 11⟩
def DrThr.desc : RegDesc := ⟨false, [⟨DrThr.THF, .ro, 0⟩,
  ⟨DrThr.TMAX, .ro, 0⟩]⟩

/-- Address of DRACT (R299). -/
def drAct (k : Nat) : Nat := 0x070000 + 0x38 + 2 * k
def DrAct.CNT : Span := ⟨71, 0⟩
def DrAct.desc : RegDesc := ⟨true, [⟨DrAct.CNT, .ro, 0⟩]⟩

/-- Address of CLCFG (R371). -/
def clCfg (c : Nat) : Nat := 0x1000000 * (c + 1) + 0
def ClCfg.LBEN : Span := ⟨35, 35⟩
def ClCfg.BTBEN : Span := ⟨34, 34⟩
def ClCfg.PFEN : Span := ⟨33, 33⟩
def ClCfg.DCEN : Span := ⟨32, 32⟩
def ClCfg.desc : RegDesc := ⟨false, [⟨ClCfg.LBEN, .rw, 1⟩,
  ⟨ClCfg.BTBEN, .rw, 1⟩,
  ⟨ClCfg.PFEN, .rw, 1⟩,
  ⟨ClCfg.DCEN, .rw, 1⟩]⟩

/-- Address of CLEVT (R371). -/
def clEvt (c : Nat) : Nat := 0x1000000 * (c + 1) + 1
def ClEvt.LATCH : Span := ⟨35, 35⟩
def ClEvt.desc : RegDesc := ⟨false, [⟨ClEvt.LATCH, .w1c, 0⟩]⟩

/-- Address of CLCYC (R371). -/
def clCyc (c : Nat) : Nat := 0x1000000 * (c + 1) + 2
def ClCyc.CYC : Span := ⟨71, 0⟩
def ClCyc.desc : RegDesc := ⟨true, [⟨ClCyc.CYC, .ro, 0⟩]⟩

/-- Address of CLBUN (R371). -/
def clBun (c : Nat) : Nat := 0x1000000 * (c + 1) + 4
def ClBun.BUN : Span := ⟨71, 0⟩
def ClBun.desc : RegDesc := ⟨true, [⟨ClBun.BUN, .ro, 0⟩]⟩

/-- Address of CLFRZ (R371). -/
def clFrz (c : Nat) : Nat := 0x1000000 * (c + 1) + 6
def ClFrz.FRZ : Span := ⟨35, 0⟩
def ClFrz.desc : RegDesc := ⟨false, [⟨ClFrz.FRZ, .rc, 0⟩]⟩

/-- Address of ECRT (R455). -/
def ecRt (e : Nat) : Nat := 0x010000 + e
def EcRt.EN : Span := ⟨35, 35⟩
def EcRt.PRI : Span := ⟨34, 31⟩
def EcRt.LVL : Span := ⟨30, 30⟩
def EcRt.MODE : Span := ⟨29, 29⟩
def EcRt.TGT : Span := ⟨28, 23⟩
def EcRt.desc : RegDesc := ⟨false, [⟨EcRt.EN, .rwl, 0⟩,
  ⟨EcRt.PRI, .rwl, 0⟩,
  ⟨EcRt.LVL, .rwl, 0⟩,
  ⟨EcRt.MODE, .rwl, 0⟩,
  ⟨EcRt.TGT, .rwl, 0⟩]⟩

/-- Address of ECDB (R455). -/
def ecDb : Nat := 0x010200
def EcDb.RING : Span := ⟨7, 0⟩
def EcDb.desc : RegDesc := ⟨false, [⟨EcDb.RING, .wo, 0⟩]⟩

/-- Address of ECLOCK (R455). -/
def ecLock : Nat := 0x010201
def EcLock.LK : Span := ⟨0, 0⟩
def EcLock.desc : RegDesc := ⟨false, [⟨EcLock.LK, .ro, 0⟩]⟩

/-- Address of ECRVEC (R455). -/
def ecRvec (p : Nat) : Nat := 0x010300 + p
def EcRvec.VEC : Span := ⟨35, 0⟩
def EcRvec.desc : RegDesc := ⟨false, [⟨EcRvec.VEC, .ro, 0⟩]⟩

/-- Address of ECPEND (R455). -/
def ecPend (c k : Nat) : Nat := 0x010400 + 8 * c + k
def EcPend.PEND : Span := ⟨31, 0⟩
def EcPend.desc : RegDesc := ⟨false, [⟨EcPend.PEND, .w1c, 0⟩]⟩

/-- Address of ECCST (R455). -/
def ecCst (c : Nat) : Nat := 0x010600 + c
def EcCst.CHK : Span := ⟨35, 35⟩
def EcCst.CAUSE : Span := ⟨34, 29⟩
def EcCst.desc : RegDesc := ⟨false, [⟨EcCst.CHK, .ro, 0⟩,
  ⟨EcCst.CAUSE, .ro, 0⟩]⟩

/-- Address of ECCUR (R455). -/
def ecCur (c : Nat) : Nat := 0x1000000 * (c + 1) + 0x010800 + 0
def EcCur.V : Span := ⟨35, 35⟩
def EcCur.EV : Span := ⟨34, 27⟩
def EcCur.PRI : Span := ⟨26, 23⟩
def EcCur.TKO : Span := ⟨22, 22⟩
def EcCur.desc : RegDesc := ⟨false, [⟨EcCur.V, .ro, 0⟩,
  ⟨EcCur.EV, .ro, 0⟩,
  ⟨EcCur.PRI, .ro, 0⟩,
  ⟨EcCur.TKO, .ro, 0⟩]⟩

/-- Address of ECFADR (R455). -/
def ecFadr (c : Nat) : Nat := 0x1000000 * (c + 1) + 0x010800 + 1
def EcFadr.ADR : Span := ⟨35, 0⟩
def EcFadr.desc : RegDesc := ⟨false, [⟨EcFadr.ADR, .ro, 0⟩]⟩

/-- Address of ECFINF (R455). -/
def ecFinf (c : Nat) : Nat := 0x1000000 * (c + 1) + 0x010800 + 2
def EcFinf.V : Span := ⟨35, 35⟩
def EcFinf.CAUSE : Span := ⟨34, 29⟩
def EcFinf.W : Span := ⟨28, 28⟩
def EcFinf.IO : Span := ⟨27, 27⟩
def EcFinf.HELDN : Span := ⟨26, 23⟩
def EcFinf.desc : RegDesc := ⟨false, [⟨EcFinf.V, .w1c, 0⟩,
  ⟨EcFinf.CAUSE, .ro, 0⟩,
  ⟨EcFinf.W, .ro, 0⟩,
  ⟨EcFinf.IO, .ro, 0⟩,
  ⟨EcFinf.HELDN, .ro, 0⟩]⟩

/-- Address of ECXCTL (R455). -/
def ecXctl (c : Nat) : Nat := 0x1000000 * (c + 1) + 0x010800 + 3
def EcXctl.DROP : Span := ⟨35, 35⟩
def EcXctl.desc : RegDesc := ⟨false, [⟨EcXctl.DROP, .wo, 0⟩]⟩

/-- Address of SLIDX (R499). -/
def slIdx (s : Nat) : Nat := 0x0A0000 + 8 * s
def SlIdx.IDX : Span := ⟨35, 33⟩
def SlIdx.REJIDX : Span := ⟨32, 30⟩
def SlIdx.REJ : Span := ⟨29, 27⟩
def SlIdx.DRAINED : Span := ⟨26, 26⟩
def SlIdx.INFL : Span := ⟨25, 16⟩
def SlIdx.desc : RegDesc := ⟨false, [⟨SlIdx.IDX, .rw, 0⟩,
  ⟨SlIdx.REJIDX, .ro, 0⟩,
  ⟨SlIdx.REJ, .ro, 0⟩,
  ⟨SlIdx.DRAINED, .ro, 1⟩,
  ⟨SlIdx.INFL, .ro, 0⟩]⟩

/-- Address of SLBASE (R499). -/
def slBase (s r : Nat) : Nat := 0x1000000 * (r + 1) + 0x0A0000 + 8 * s + 1
def SlBase.BASE : Span := ⟨35, 0⟩
def SlBase.desc : RegDesc := ⟨false, [⟨SlBase.BASE, .rw, 0⟩]⟩

/-- Address of SLPERM (R499). -/
def slPerm (s r : Nat) : Nat := 0x1000000 * (r + 1) + 0x0A0000 + 8 * s + 2
def SlPerm.RIGHTS : Span := ⟨35, 27⟩
def SlPerm.PGM : Span := ⟨26, 11⟩
def SlPerm.CELL : Span := ⟨10, 10⟩
def SlPerm.DMA : Span := ⟨9, 9⟩
def SlPerm.desc : RegDesc := ⟨false, [⟨SlPerm.RIGHTS, .rw, 0⟩,
  ⟨SlPerm.PGM, .rw, 0⟩,
  ⟨SlPerm.CELL, .rw, 0⟩,
  ⟨SlPerm.DMA, .rw, 0⟩]⟩

/-- Address of SLATTR (R499). -/
def slAttr (s r : Nat) : Nat := 0x1000000 * (r + 1) + 0x0A0000 + 8 * s + 3
def SlAttr.EN : Span := ⟨35, 35⟩
def SlAttr.K : Span := ⟨34, 29⟩
def SlAttr.C : Span := ⟨28, 28⟩
def SlAttr.WA : Span := ⟨27, 27⟩
def SlAttr.ORD : Span := ⟨26, 25⟩
def SlAttr.WALK : Span := ⟨24, 24⟩
def SlAttr.DBG : Span := ⟨23, 23⟩
def SlAttr.SEAL : Span := ⟨22, 22⟩
def SlAttr.LK : Span := ⟨21, 21⟩
def SlAttr.desc : RegDesc := ⟨false, [⟨SlAttr.EN, .rw, 0⟩,
  ⟨SlAttr.K, .rw, 0⟩,
  ⟨SlAttr.C, .rw, 0⟩,
  ⟨SlAttr.WA, .rw, 0⟩,
  ⟨SlAttr.ORD, .rw, 0⟩,
  ⟨SlAttr.WALK, .rw, 0⟩,
  ⟨SlAttr.DBG, .rw, 0⟩,
  ⟨SlAttr.SEAL, .rw, 0⟩,
  ⟨SlAttr.LK, .rw, 0⟩]⟩

/-- Address of SLVIOL (R499). -/
def slViol (s : Nat) : Nat := 0x0A0000 + 8 * s + 4
def SlViol.V : Span := ⟨35, 35⟩
def SlViol.KIND : Span := ⟨34, 31⟩
def SlViol.RGN : Span := ⟨30, 28⟩
def SlViol.CLASS : Span := ⟨27, 26⟩
def SlViol.PL : Span := ⟨25, 24⟩
def SlViol.ACC : Span := ⟨23, 22⟩
def SlViol.PART : Span := ⟨21, 16⟩
def SlViol.REQ : Span := ⟨15, 10⟩
def SlViol.CNT : Span := ⟨9, 0⟩
def SlViol.desc : RegDesc := ⟨false, [⟨SlViol.V, .w1c, 0⟩,
  ⟨SlViol.KIND, .ro, 0⟩,
  ⟨SlViol.RGN, .ro, 0⟩,
  ⟨SlViol.CLASS, .ro, 0⟩,
  ⟨SlViol.PL, .ro, 0⟩,
  ⟨SlViol.ACC, .ro, 0⟩,
  ⟨SlViol.PART, .ro, 0⟩,
  ⟨SlViol.REQ, .ro, 0⟩,
  ⟨SlViol.CNT, .ro, 0⟩]⟩

/-- Address of SLVADR (R499). -/
def slVadr (s : Nat) : Nat := 0x0A0000 + 8 * s + 5
def SlVadr.ADR : Span := ⟨35, 0⟩
def SlVadr.desc : RegDesc := ⟨false, [⟨SlVadr.ADR, .ro, 0⟩]⟩

/-- Address of SLGEV (R499). -/
def slGev : Nat := 0x0A0400
def SlGev.CAUSE : Span := ⟨35, 28⟩
def SlGev.IE : Span := ⟨27, 20⟩
def SlGev.desc : RegDesc := ⟨false, [⟨SlGev.CAUSE, .w1c, 0⟩,
  ⟨SlGev.IE, .rw, 0⟩]⟩

/-- Address of MSCRUB (R499). -/
def msCrub : Nat := 0x0A0500
def MsCrub.SPER : Span := ⟨35, 24⟩
def MsCrub.DPER : Span := ⟨23, 16⟩
def MsCrub.SEN : Span := ⟨15, 15⟩
def MsCrub.DEN : Span := ⟨14, 14⟩
def MsCrub.desc : RegDesc := ⟨false, [⟨MsCrub.SPER, .rw, 0xE⟩,
  ⟨MsCrub.DPER, .rw, 0x18⟩,
  ⟨MsCrub.SEN, .rw, 1⟩,
  ⟨MsCrub.DEN, .rw, 1⟩]⟩

/-- Address of MSCNT (R499). -/
def msCnt : Nat := 0x0A0501
def MsCnt.CORR : Span := ⟨35, 27⟩
def MsCnt.UNC : Span := ⟨26, 18⟩
def MsCnt.desc : RegDesc := ⟨false, [⟨MsCnt.CORR, .rc, 0⟩,
  ⟨MsCnt.UNC, .rc, 0⟩]⟩

/-- Address of ETCFG (R522). -/
def etCfg (p : Nat) : Nat := 0x0B0000 + 0x400 * p
def EtCfg.EN : Span := ⟨35, 35⟩
def EtCfg.LC : Span := ⟨34, 32⟩
def EtCfg.PRP : Span := ⟨31, 31⟩
def EtCfg.ANEG : Span := ⟨30, 30⟩
def EtCfg.LDD : Span := ⟨29, 29⟩
def EtCfg.SEV : Span := ⟨28, 26⟩
def EtCfg.desc : RegDesc := ⟨false, [⟨EtCfg.EN, .rw, 0⟩,
  ⟨EtCfg.LC, .rwl, 0⟩,
  ⟨EtCfg.PRP, .rwl, 0⟩,
  ⟨EtCfg.ANEG, .rwl, 0⟩,
  ⟨EtCfg.LDD, .rw, 0⟩,
  ⟨EtCfg.SEV, .rw, 0⟩]⟩

/-- Address of ETSTAT (R522). -/
def etStat (p : Nat) : Nat := 0x0B0000 + 0x400 * p + 1
def EtStat.LINK : Span := ⟨35, 35⟩
def EtStat.ANC : Span := ⟨34, 34⟩
def EtStat.TRERR : Span := ⟨33, 26⟩
def EtStat.RRERR : Span := ⟨25, 18⟩
def EtStat.CAUSE : Span := ⟨15, 8⟩
def EtStat.SIE : Span := ⟨7, 0⟩
def EtStat.desc : RegDesc := ⟨false, [⟨EtStat.LINK, .ro, 0⟩,
  ⟨EtStat.ANC, .ro, 0⟩,
  ⟨EtStat.TRERR, .ro, 0⟩,
  ⟨EtStat.RRERR, .ro, 0⟩,
  ⟨EtStat.CAUSE, .w1c, 0⟩,
  ⟨EtStat.SIE, .rw, 0⟩]⟩

/-- Address of ETCNT (R522). -/
def etCnt (p k : Nat) : Nat := 0x0B0000 + 0x400 * p + 8 + k
def EtCnt.CNT : Span := ⟨35, 0⟩
def EtCnt.desc : RegDesc := ⟨false, [⟨EtCnt.CNT, .rc, 0⟩]⟩

/-- Address of TRBASE (R523). -/
def trBase (p k : Nat) : Nat := 0x0B0000 + 0x400 * p + 0x40 + 8 * k + 0
def TrBase.BASE : Span := ⟨35, 0⟩
def TrBase.desc : RegDesc := ⟨false, [⟨TrBase.BASE, .rw, 0⟩]⟩

/-- Address of TRCFG (R523). -/
def trCfg (p k : Nat) : Nat := 0x0B0000 + 0x400 * p + 0x40 + 8 * k + 1
def TrCfg.EN : Span := ⟨35, 35⟩
def TrCfg.LOGN : Span := ⟨34, 31⟩
def TrCfg.OWNP : Span := ⟨30, 25⟩
def TrCfg.PL : Span := ⟨24, 23⟩
def TrCfg.RBUF : Span := ⟨22, 12⟩
def TrCfg.IE : Span := ⟨11, 11⟩
def TrCfg.HIE : Span := ⟨10, 10⟩
def TrCfg.desc : RegDesc := ⟨false, [⟨TrCfg.EN, .rw, 0⟩,
  ⟨TrCfg.LOGN, .rwl, 0⟩,
  ⟨TrCfg.OWNP, .rwl, 0⟩,
  ⟨TrCfg.PL, .rwl, 0⟩,
  ⟨TrCfg.RBUF, .rw, 0x400⟩,
  ⟨TrCfg.IE, .rw, 0⟩,
  ⟨TrCfg.HIE, .rw, 0⟩]⟩

/-- Address of TRHEAD (R523). -/
def trHead (p k : Nat) : Nat := 0x0B0000 + 0x400 * p + 0x40 + 8 * k + 2
def TrHead.HELD : Span := ⟨35, 35⟩
def TrHead.HEAD : Span := ⟨11, 0⟩
def TrHead.desc : RegDesc := ⟨false, [⟨TrHead.HELD, .ro, 0⟩,
  ⟨TrHead.HEAD, .ro, 0⟩]⟩

/-- Address of TRTAIL (R523). -/
def trTail (p k : Nat) : Nat := 0x0B0000 + 0x400 * p + 0x40 + 8 * k + 3
def TrTail.TAIL : Span := ⟨11, 0⟩
def TrTail.desc : RegDesc := ⟨false, [⟨TrTail.TAIL, .rw, 0⟩]⟩

/-- Address of TRCMD (R523). -/
def trCmd (p k : Nat) : Nat := 0x0B0000 + 0x400 * p + 0x40 + 8 * k + 4
def TrCmd.REL : Span := ⟨35, 35⟩
def TrCmd.CAN : Span := ⟨34, 34⟩
def TrCmd.desc : RegDesc := ⟨false, [⟨TrCmd.REL, .wo, 0⟩,
  ⟨TrCmd.CAN, .wo, 0⟩]⟩

/-- Address of RRBASE (R523). -/
def rrBase (p k : Nat) : Nat := 0x0B0000 + 0x400 * p + 0x80 + 8 * k + 0
def RrBase.BASE : Span := ⟨35, 0⟩
def RrBase.desc : RegDesc := ⟨false, [⟨RrBase.BASE, .rw, 0⟩]⟩

/-- Address of RRCFG (R523). -/
def rrCfg (p k : Nat) : Nat := 0x0B0000 + 0x400 * p + 0x80 + 8 * k + 1
def RrCfg.EN : Span := ⟨35, 35⟩
def RrCfg.LOGN : Span := ⟨34, 31⟩
def RrCfg.OWNP : Span := ⟨30, 25⟩
def RrCfg.PL : Span := ⟨24, 23⟩
def RrCfg.RBUF : Span := ⟨22, 12⟩
def RrCfg.IE : Span := ⟨11, 11⟩
def RrCfg.HIE : Span := ⟨10, 10⟩
def RrCfg.desc : RegDesc := ⟨false, [⟨RrCfg.EN, .rw, 0⟩,
  ⟨RrCfg.LOGN, .rwl, 0⟩,
  ⟨RrCfg.OWNP, .rwl, 0⟩,
  ⟨RrCfg.PL, .rwl, 0⟩,
  ⟨RrCfg.RBUF, .rw, 0x400⟩,
  ⟨RrCfg.IE, .rw, 0⟩,
  ⟨RrCfg.HIE, .rw, 0⟩]⟩

/-- Address of RRHEAD (R523). -/
def rrHead (p k : Nat) : Nat := 0x0B0000 + 0x400 * p + 0x80 + 8 * k + 2
def RrHead.HELD : Span := ⟨35, 35⟩
def RrHead.HEAD : Span := ⟨11, 0⟩
def RrHead.desc : RegDesc := ⟨false, [⟨RrHead.HELD, .ro, 0⟩,
  ⟨RrHead.HEAD, .ro, 0⟩]⟩

/-- Address of RRTAIL (R523). -/
def rrTail (p k : Nat) : Nat := 0x0B0000 + 0x400 * p + 0x80 + 8 * k + 3
def RrTail.TAIL : Span := ⟨11, 0⟩
def RrTail.desc : RegDesc := ⟨false, [⟨RrTail.TAIL, .rw, 0⟩]⟩

/-- Address of HGCTL (R524). -/
def hgCtl (p r : Nat) : Nat := 0x0B0000 + 0x400 * p + 0x100 + 4 * r
def HgCtl.EN : Span := ⟨35, 35⟩
def HgCtl.ACT : Span := ⟨34, 33⟩
def HgCtl.RING : Span := ⟨32, 30⟩
def HgCtl.CHAIN : Span := ⟨29, 29⟩
def HgCtl.SEC : Span := ⟨28, 28⟩
def HgCtl.OFFB : Span := ⟨27, 27⟩
def HgCtl.OFF : Span := ⟨26, 19⟩
def HgCtl.WID : Span := ⟨18, 17⟩
def HgCtl.desc : RegDesc := ⟨false, [⟨HgCtl.EN, .rwl, 0⟩,
  ⟨HgCtl.ACT, .rwl, 0⟩,
  ⟨HgCtl.RING, .rwl, 0⟩,
  ⟨HgCtl.CHAIN, .rwl, 0⟩,
  ⟨HgCtl.SEC, .rwl, 0⟩,
  ⟨HgCtl.OFFB, .rwl, 0⟩,
  ⟨HgCtl.OFF, .rwl, 0⟩,
  ⟨HgCtl.WID, .rwl, 0⟩]⟩

/-- Address of HGVAL (R524). -/
def hgVal (p r : Nat) : Nat := 0x0B0000 + 0x400 * p + 0x101 + 4 * r + 0
def HgVal.VAL : Span := ⟨31, 0⟩
def HgVal.desc : RegDesc := ⟨false, [⟨HgVal.VAL, .rwl, 0⟩]⟩

/-- Address of HGMSK (R524). -/
def hgMsk (p r : Nat) : Nat := 0x0B0000 + 0x400 * p + 0x101 + 4 * r + 1
def HgMsk.MSK : Span := ⟨31, 0⟩
def HgMsk.desc : RegDesc := ⟨false, [⟨HgMsk.MSK, .rwl, 0⟩]⟩

/-- Address of HGHIT (R524). -/
def hgHit (p r : Nat) : Nat := 0x0B0000 + 0x400 * p + 0x103 + 4 * r
def HgHit.HIT : Span := ⟨35, 0⟩
def HgHit.desc : RegDesc := ⟨false, [⟨HgHit.HIT, .rc, 0⟩]⟩

/-- Address of HGDEF (R524). -/
def hgDef (p : Nat) : Nat := 0x0B0000 + 0x400 * p + 0x180
def HgDef.ACC : Span := ⟨35, 35⟩
def HgDef.RING : Span := ⟨34, 32⟩
def HgDef.desc : RegDesc := ⟨false, [⟨HgDef.ACC, .rwl, 0⟩,
  ⟨HgDef.RING, .rwl, 0⟩]⟩

/-- Address of HGPOL (R524). -/
def hgPol (p : Nat) : Nat := 0x0B0000 + 0x400 * p + 0x181
def HgPol.RATE : Span := ⟨35, 20⟩
def HgPol.BURST : Span := ⟨19, 8⟩
def HgPol.desc : RegDesc := ⟨false, [⟨HgPol.RATE, .rwl, 0⟩,
  ⟨HgPol.BURST, .rwl, 0⟩]⟩

/-- Address of MSCFG (R524). -/
def msCfg (p : Nat) : Nat := 0x0B0000 + 0x400 * p + 0x200
def MsCfg.EN : Span := ⟨35, 35⟩
def MsCfg.VAL : Span := ⟨34, 33⟩
def MsCfg.RPE : Span := ⟨32, 32⟩
def MsCfg.RWIN : Span := ⟨31, 0⟩
def MsCfg.desc : RegDesc := ⟨false, [⟨MsCfg.EN, .rw, 0⟩,
  ⟨MsCfg.VAL, .rw, 2⟩,
  ⟨MsCfg.RPE, .rw, 1⟩,
  ⟨MsCfg.RWIN, .rw, 0⟩]⟩

/-- Address of MSTXSCI (R524). -/
def msTxsci (p : Nat) : Nat := 0x0B0000 + 0x400 * p + 0x202
def MsTxsci.SCI : Span := ⟨63, 0⟩
def MsTxsci.desc : RegDesc := ⟨true, [⟨MsTxsci.SCI, .rw, 0⟩]⟩

/-- Address of MSTXSA (R524). -/
def msTxsa (p : Nat) : Nat := 0x0B0000 + 0x400 * p + 0x204
def MsTxsa.V : Span := ⟨35, 35⟩
def MsTxsa.AN : Span := ⟨34, 33⟩
def MsTxsa.KSLOT : Span := ⟨32, 27⟩
def MsTxsa.desc : RegDesc := ⟨false, [⟨MsTxsa.V, .rw, 0⟩,
  ⟨MsTxsa.AN, .rw, 0⟩,
  ⟨MsTxsa.KSLOT, .rw, 0⟩]⟩

/-- Address of MSTXPN (R524). -/
def msTxpn (p : Nat) : Nat := 0x0B0000 + 0x400 * p + 0x205
def MsTxpn.PN : Span := ⟨31, 0⟩
def MsTxpn.desc : RegDesc := ⟨false, [⟨MsTxpn.PN, .ro, 0⟩]⟩

/-- Address of MSPNTH (R524). -/
def msPnth (p : Nat) : Nat := 0x0B0000 + 0x400 * p + 0x206
def MsPnth.TH : Span := ⟨31, 0⟩
def MsPnth.desc : RegDesc := ⟨false, [⟨MsPnth.TH, .rw, 0xC0000000⟩]⟩

/-- Address of MSRXSCI (R524). -/
def msRxsci (p c : Nat) : Nat := 0x0B0000 + 0x400 * p + 0x210 + 4 * c
def MsRxsci.V : Span := ⟨71, 71⟩
def MsRxsci.SCI : Span := ⟨63, 0⟩
def MsRxsci.desc : RegDesc := ⟨true, [⟨MsRxsci.V, .rw, 0⟩,
  ⟨MsRxsci.SCI, .rw, 0⟩]⟩

/-- Address of MSRXSA (R524). -/
def msRxsa (p c : Nat) : Nat := 0x0B0000 + 0x400 * p + 0x212 + 4 * c
def MsRxsa.SAS : Span := ⟨35, 8⟩
def MsRxsa.desc : RegDesc := ⟨false, [⟨MsRxsa.SAS, .rw, 0⟩]⟩

/-- Address of ETLOCK (R522). -/
def etLock : Nat := 0x0B0800
def EtLock.LK : Span := ⟨1, 0⟩
def EtLock.desc : RegDesc := ⟨false, [⟨EtLock.LK, .ro, 0⟩]⟩

/-- Address of PTCTL (R525). -/
def ptCtl (p : Nat) : Nat := 0x0C0000 + 0x20 * p + 0
def PtCtl.EN : Span := ⟨35, 35⟩
def PtCtl.SLV : Span := ⟨34, 34⟩
def PtCtl.LOCK : Span := ⟨33, 33⟩
def PtCtl.LKTO : Span := ⟨32, 24⟩
def PtCtl.TSIE : Span := ⟨23, 23⟩
def PtCtl.desc : RegDesc := ⟨false, [⟨PtCtl.EN, .rw, 0⟩,
  ⟨PtCtl.SLV, .rw, 0⟩,
  ⟨PtCtl.LOCK, .rw, 0⟩,
  ⟨PtCtl.LKTO, .rw, 0xA⟩,
  ⟨PtCtl.TSIE, .rw, 0⟩]⟩

/-- Address of PTSTAT (R525). -/
def ptStat (p : Nat) : Nat := 0x0C0000 + 0x20 * p + 1
def PtStat.CAUSE : Span := ⟨5, 3⟩
def PtStat.SIE : Span := ⟨2, 0⟩
def PtStat.desc : RegDesc := ⟨false, [⟨PtStat.CAUSE, .w1c, 0⟩,
  ⟨PtStat.SIE, .rw, 0⟩]⟩

/-- Address of PTADD (R525). -/
def ptAdd (p : Nat) : Nat := 0x0C0000 + 0x20 * p + 2
def PtAdd.ADD : Span := ⟨35, 0⟩
def PtAdd.desc : RegDesc := ⟨false, [⟨PtAdd.ADD, .rw, 0x400000000⟩]⟩

/-- Address of PTLAT (R525). -/
def ptLat (p : Nat) : Nat := 0x0C0000 + 0x20 * p + 3
def PtLat.ING : Span := ⟨35, 18⟩
def PtLat.EGR : Span := ⟨17, 0⟩
def PtLat.desc : RegDesc := ⟨false, [⟨PtLat.ING, .rw, 0⟩,
  ⟨PtLat.EGR, .rw, 0⟩]⟩

/-- Address of PTTIME (R525). -/
def ptTime (p : Nat) : Nat := 0x0C0000 + 0x20 * p + 4
def PtTime.SEC : Span := ⟨71, 30⟩
def PtTime.NS : Span := ⟨29, 0⟩
def PtTime.desc : RegDesc := ⟨true, [⟨PtTime.SEC, .ro, 0⟩,
  ⟨PtTime.NS, .ro, 0⟩]⟩

/-- Address of PTSTEP (R525). -/
def ptStep (p : Nat) : Nat := 0x0C0000 + 0x20 * p + 6
def PtStep.SEC : Span := ⟨71, 30⟩
def PtStep.NS : Span := ⟨29, 0⟩
def PtStep.desc : RegDesc := ⟨true, [⟨PtStep.SEC, .wo, 0⟩,
  ⟨PtStep.NS, .wo, 0⟩]⟩

/-- Address of BTSTAT (R555). -/
def btStat : Nat := 0x0E0000 + 0x00
def BtStat.SLOT : Span := ⟨35, 35⟩
def BtStat.STRAP : Span := ⟨34, 33⟩
def BtStat.EMODE : Span := ⟨32, 31⟩
def BtStat.NOIMG : Span := ⟨30, 30⟩
def BtStat.TRIAL : Span := ⟨29, 29⟩
def BtStat.TRIALX : Span := ⟨28, 28⟩
def BtStat.FALLB : Span := ⟨27, 27⟩
def BtStat.CSKEEP : Span := ⟨26, 26⟩
def BtStat.REJA : Span := ⟨25, 21⟩
def BtStat.REJB : Span := ⟨20, 16⟩
def BtStat.desc : RegDesc := ⟨false, [⟨BtStat.SLOT, .ro, 0⟩,
  ⟨BtStat.STRAP, .ro, 0⟩,
  ⟨BtStat.EMODE, .ro, 0⟩,
  ⟨BtStat.NOIMG, .ro, 0⟩,
  ⟨BtStat.TRIAL, .ro, 0⟩,
  ⟨BtStat.TRIALX, .ro, 0⟩,
  ⟨BtStat.FALLB, .ro, 0⟩,
  ⟨BtStat.CSKEEP, .ro, 0⟩,
  ⟨BtStat.REJA, .ro, 0⟩,
  ⟨BtStat.REJB, .ro, 0⟩]⟩

/-- Address of BTGEN (R555). -/
def btGen : Nat := 0x0E0000 + 0x01
def BtGen.GEN : Span := ⟨35, 0⟩
def BtGen.desc : RegDesc := ⟨false, [⟨BtGen.GEN, .ro, 0⟩]⟩

/-- Address of BTSVN (R555). -/
def btSvn : Nat := 0x0E0000 + 0x02
def BtSvn.SVN : Span := ⟨35, 30⟩
def BtSvn.MIN : Span := ⟨29, 24⟩
def BtSvn.desc : RegDesc := ⟨false, [⟨BtSvn.SVN, .ro, 0⟩,
  ⟨BtSvn.MIN, .ro, 0⟩]⟩

/-- Address of BTXCFG (R555). -/
def btXcfg : Nat := 0x0E0000 + 0x03
def BtXcfg.FMHZ : Span := ⟨35, 28⟩
def BtXcfg.DUMMY : Span := ⟨27, 23⟩
def BtXcfg.desc : RegDesc := ⟨false, [⟨BtXcfg.FMHZ, .ro, 0⟩,
  ⟨BtXcfg.DUMMY, .ro, 0⟩]⟩

/-- Address of BTDUR (R555). -/
def btDur : Nat := 0x0E0000 + 0x04
def BtDur.DUR : Span := ⟨35, 16⟩
def BtDur.desc : RegDesc := ⟨false, [⟨BtDur.DUR, .ro, 0⟩]⟩

/-- Address of BTCMD (R555). -/
def btCmd : Nat := 0x0E0000 + 0x08
def BtCmd.STAGE : Span := ⟨35, 35⟩
def BtCmd.CONFIRM : Span := ⟨34, 34⟩
def BtCmd.RESTART : Span := ⟨33, 33⟩
def BtCmd.ABORT : Span := ⟨32, 32⟩
def BtCmd.TRIALN : Span := ⟨31, 28⟩
def BtCmd.desc : RegDesc := ⟨false, [⟨BtCmd.STAGE, .wo, 0⟩,
  ⟨BtCmd.CONFIRM, .wo, 0⟩,
  ⟨BtCmd.RESTART, .wo, 0⟩,
  ⟨BtCmd.ABORT, .wo, 0⟩,
  ⟨BtCmd.TRIALN, .wo, 0⟩]⟩

/-- Address of BTUADR (R555). -/
def btUadr : Nat := 0x0E0000 + 0x09
def BtUadr.ADR : Span := ⟨35, 0⟩
def BtUadr.desc : RegDesc := ⟨false, [⟨BtUadr.ADR, .rw, 0x100000000⟩]⟩

/-- Address of BTULEN (R555). -/
def btUlen : Nat := 0x0E0000 + 0x0A
def BtUlen.IE : Span := ⟨35, 35⟩
def BtUlen.LEN : Span := ⟨27, 0⟩
def BtUlen.desc : RegDesc := ⟨false, [⟨BtUlen.IE, .rw, 0⟩,
  ⟨BtUlen.LEN, .rw, 0⟩]⟩

/-- Address of BTUSTAT (R555). -/
def btUstat : Nat := 0x0E0000 + 0x0B
def BtUstat.BUSY : Span := ⟨35, 35⟩
def BtUstat.PHASE : Span := ⟨34, 32⟩
def BtUstat.RES : Span := ⟨31, 30⟩
def BtUstat.REJ : Span := ⟨29, 25⟩
def BtUstat.PCT : Span := ⟨24, 18⟩
def BtUstat.desc : RegDesc := ⟨false, [⟨BtUstat.BUSY, .ro, 0⟩,
  ⟨BtUstat.PHASE, .ro, 0⟩,
  ⟨BtUstat.RES, .ro, 0⟩,
  ⟨BtUstat.REJ, .ro, 0⟩,
  ⟨BtUstat.PCT, .ro, 0⟩]⟩

/-- Address of IDCODE (R555). -/
def idCode : Nat := 0x0E0000 + 0x10
def IdCode.ORDER : Span := ⟨35, 32⟩
def IdCode.REV : Span := ⟨31, 24⟩
def IdCode.desc : RegDesc := ⟨false, [⟨IdCode.ORDER, .ro, 0⟩,
  ⟨IdCode.REV, .ro, 0⟩]⟩

/-- Address of IDSER (R555). -/
def idSer : Nat := 0x0E0000 + 0x12
def IdSer.SER : Span := ⟨71, 0⟩
def IdSer.desc : RegDesc := ⟨true, [⟨IdSer.SER, .ro, 0⟩]⟩

/-- Address of SCSTAT (R586). -/
def scStat : Nat := 0x0D0000
def ScStat.RDY : Span := ⟨35, 35⟩
def ScStat.PROV : Span := ⟨34, 34⟩
def ScStat.SEALED : Span := ⟨33, 33⟩
def ScStat.ZPEND : Span := ⟨32, 32⟩
def ScStat.NKEY : Span := ⟨31, 25⟩
def ScStat.CAUSE : Span := ⟨15, 8⟩
def ScStat.SIE : Span := ⟨7, 0⟩
def ScStat.desc : RegDesc := ⟨false, [⟨ScStat.RDY, .ro, 0⟩,
  ⟨ScStat.PROV, .ro, 0⟩,
  ⟨ScStat.SEALED, .ro, 0⟩,
  ⟨ScStat.ZPEND, .ro, 0⟩,
  ⟨ScStat.NKEY, .ro, 1⟩,
  ⟨ScStat.CAUSE, .w1c, 0⟩,
  ⟨ScStat.SIE, .rw, 0⟩]⟩

/-- Address of SCLOCK (R586). -/
def scLock : Nat := 0x0D0001
def ScLock.LK : Span := ⟨0, 0⟩
def ScLock.desc : RegDesc := ⟨false, [⟨ScLock.LK, .ro, 0⟩]⟩

/-- Address of SCTFLR (R586). -/
def scTflr : Nat := 0x0D0002
def ScTflr.SEC : Span := ⟨71, 30⟩
def ScTflr.desc : RegDesc := ⟨true, [⟨ScTflr.SEC, .ro, 0⟩]⟩

/-- Address of SCEVC (R586). -/
def scEvc (x : Nat) : Nat := 0x0D0004 + 2 * x
def ScEvc.CNT : Span := ⟨71, 0⟩
def ScEvc.desc : RegDesc := ⟨true, [⟨ScEvc.CNT, .ro, 0⟩]⟩

/-- Address of SJCTL (R586). -/
def sjCtl (c : Nat) : Nat := 0x1000000 * (c + 1) + 0x0D0010
def SjCtl.GO : Span := ⟨35, 35⟩
def SjCtl.OP : Span := ⟨34, 30⟩
def SjCtl.SLOT : Span := ⟨29, 24⟩
def SjCtl.SLOT2 : Span := ⟨23, 18⟩
def SjCtl.MODE : Span := ⟨17, 15⟩
def SjCtl.K128 : Span := ⟨14, 14⟩
def SjCtl.USE : Span := ⟨13, 6⟩
def SjCtl.PAY : Span := ⟨5, 5⟩
def SjCtl.desc : RegDesc := ⟨false, [⟨SjCtl.GO, .wo, 0⟩,
  ⟨SjCtl.OP, .rw, 0⟩,
  ⟨SjCtl.SLOT, .rw, 0⟩,
  ⟨SjCtl.SLOT2, .rw, 0⟩,
  ⟨SjCtl.MODE, .rw, 0⟩,
  ⟨SjCtl.K128, .rw, 0⟩,
  ⟨SjCtl.USE, .rw, 0⟩,
  ⟨SjCtl.PAY, .rw, 0⟩]⟩

/-- Address of SJSRC (R586). -/
def sjSrc (c : Nat) : Nat := 0x1000000 * (c + 1) + 0x0D0011 + 0
def SjSrc.ADR : Span := ⟨35, 0⟩
def SjSrc.desc : RegDesc := ⟨false, [⟨SjSrc.ADR, .rw, 0⟩]⟩

/-- Address of SJDST (R586). -/
def sjDst (c : Nat) : Nat := 0x1000000 * (c + 1) + 0x0D0011 + 1
def SjDst.ADR : Span := ⟨35, 0⟩
def SjDst.desc : RegDesc := ⟨false, [⟨SjDst.ADR, .rw, 0⟩]⟩

/-- Address of SJAUX (R586). -/
def sjAux (c : Nat) : Nat := 0x1000000 * (c + 1) + 0x0D0011 + 2
def SjAux.ADR : Span := ⟨35, 0⟩
def SjAux.desc : RegDesc := ⟨false, [⟨SjAux.ADR, .rw, 0⟩]⟩

/-- Address of SJLEN (R586). -/
def sjLen (c : Nat) : Nat := 0x1000000 * (c + 1) + 0x0D0014
def SjLen.LEN : Span := ⟨35, 18⟩
def SjLen.AADLEN : Span := ⟨17, 8⟩
def SjLen.desc : RegDesc := ⟨false, [⟨SjLen.LEN, .rw, 0⟩,
  ⟨SjLen.AADLEN, .rw, 0⟩]⟩

/-- Address of SJSTAT (R586). -/
def sjStat (c : Nat) : Nat := 0x1000000 * (c + 1) + 0x0D0015
def SjStat.BUSY : Span := ⟨35, 35⟩
def SjStat.RES : Span := ⟨34, 33⟩
def SjStat.ERR : Span := ⟨32, 29⟩
def SjStat.desc : RegDesc := ⟨false, [⟨SjStat.BUSY, .ro, 0⟩,
  ⟨SjStat.RES, .ro, 0⟩,
  ⟨SjStat.ERR, .ro, 0⟩]⟩

/-- Address of SKIDX (R586). -/
def skIdx : Nat := 0x0D0020
def SkIdx.IDX : Span := ⟨35, 30⟩
def SkIdx.desc : RegDesc := ⟨false, [⟨SkIdx.IDX, .rw, 0⟩]⟩

/-- Address of SKINFO (R586). -/
def skInfo (i : Nat) : Nat := 0x1000000 * (i + 1) + 0x0D0021
def SkInfo.TYPE : Span := ⟨35, 33⟩
def SkInfo.USE : Span := ⟨32, 25⟩
def SkInfo.OWNP : Span := ⟨24, 19⟩
def SkInfo.PAY : Span := ⟨18, 18⟩
def SkInfo.desc : RegDesc := ⟨false, [⟨SkInfo.TYPE, .ro, 0⟩,
  ⟨SkInfo.USE, .ro, 0⟩,
  ⟨SkInfo.OWNP, .ro, 0⟩,
  ⟨SkInfo.PAY, .ro, 0⟩]⟩

/-- Address of AUHEAD (R586). -/
def auHead : Nat := 0x0D0000 + 0x30
def AuHead.HEAD : Span := ⟨35, 0⟩
def AuHead.desc : RegDesc := ⟨false, [⟨AuHead.HEAD, .ro, 0x21040000⟩]⟩

/-- Address of AUEXP (R586). -/
def auExp : Nat := 0x0D0000 + 0x31
def AuExp.EXP : Span := ⟨35, 0⟩
def AuExp.desc : RegDesc := ⟨false, [⟨AuExp.EXP, .rw, 0x21040000⟩]⟩

/-- Address of AUCFG (R586). -/
def auCfg : Nat := 0x0D0000 + 0x32
def AuCfg.CPN : Span := ⟨35, 32⟩
def AuCfg.RSV : Span := ⟨31, 16⟩
def AuCfg.desc : RegDesc := ⟨false, [⟨AuCfg.CPN, .rwl, 0⟩,
  ⟨AuCfg.RSV, .rwl, 0⟩]⟩

/-- Address of AUSTAT (R586). -/
def auStat : Nat := 0x0D0000 + 0x33
def AuStat.FREE : Span := ⟨35, 20⟩
def AuStat.LOST : Span := ⟨19, 10⟩
def AuStat.desc : RegDesc := ⟨false, [⟨AuStat.FREE, .ro, 0xEAA9⟩,
  ⟨AuStat.LOST, .rc, 0⟩]⟩

/-- Address of AUSEQ (R586). -/
def auSeq : Nat := 0x0D0000 + 0x34
def AuSeq.SEQ : Span := ⟨47, 0⟩
def AuSeq.desc : RegDesc := ⟨true, [⟨AuSeq.SEQ, .ro, 0⟩]⟩

/-- Address of TPCFG (R586). -/
def tpCfg : Nat := 0x0D0000 + 0x40
def TpCfg.MEN : Span := ⟨35, 32⟩
def TpCfg.SEN : Span := ⟨31, 30⟩
def TpCfg.FILT : Span := ⟨29, 26⟩
def TpCfg.desc : RegDesc := ⟨false, [⟨TpCfg.MEN, .rwl, 0⟩,
  ⟨TpCfg.SEN, .rwl, 0⟩,
  ⟨TpCfg.FILT, .rwl, 0⟩]⟩

/-- Address of TPMESH (R586). -/
def tpMesh : Nat := 0x0D0000 + 0x41
def TpMesh.HI : Span := ⟨35, 18⟩
def TpMesh.LO : Span := ⟨17, 0⟩
def TpMesh.desc : RegDesc := ⟨false, [⟨TpMesh.HI, .rwl, 0⟩,
  ⟨TpMesh.LO, .rwl, 0⟩]⟩

/-- Address of TPSTAT (R586). -/
def tpStat : Nat := 0x0D0000 + 0x42
def TpStat.LATCH : Span := ⟨35, 35⟩
def TpStat.MESH : Span := ⟨34, 31⟩
def TpStat.SW : Span := ⟨30, 29⟩
def TpStat.ENV : Span := ⟨28, 28⟩
def TpStat.FSRC : Span := ⟨27, 25⟩
def TpStat.desc : RegDesc := ⟨false, [⟨TpStat.LATCH, .ro, 0⟩,
  ⟨TpStat.MESH, .ro, 0⟩,
  ⟨TpStat.SW, .ro, 0⟩,
  ⟨TpStat.ENV, .ro, 0⟩,
  ⟨TpStat.FSRC, .ro, 0⟩]⟩

/-- Address of TPCMD (R586). -/
def tpCmd : Nat := 0x0D0000 + 0x43
def TpCmd.CLR : Span := ⟨35, 35⟩
def TpCmd.desc : RegDesc := ⟨false, [⟨TpCmd.CLR, .wo, 0⟩]⟩

/-- Address of SCREV (R586). -/
def scRev (k : Nat) : Nat := 0x0D0080 + 2 * k
def ScRev.SER : Span := ⟨71, 8⟩
def ScRev.desc : RegDesc := ⟨true, [⟨ScRev.SER, .ro, 0⟩]⟩

/-- Address of SSCMD (R587). -/
def ssCmd : Nat := 0x0E0100 + 0
def SsCmd.OPEN : Span := ⟨35, 35⟩
def SsCmd.PROVE : Span := ⟨34, 34⟩
def SsCmd.CLOSE : Span := ⟨33, 33⟩
def SsCmd.SLOT : Span := ⟨32, 31⟩
def SsCmd.desc : RegDesc := ⟨false, [⟨SsCmd.OPEN, .wo, 0⟩,
  ⟨SsCmd.PROVE, .wo, 0⟩,
  ⟨SsCmd.CLOSE, .wo, 0⟩,
  ⟨SsCmd.SLOT, .wo, 0⟩]⟩

/-- Address of SSBUF (R587). -/
def ssBuf : Nat := 0x0E0100 + 1
def SsBuf.ADR : Span := ⟨35, 0⟩
def SsBuf.desc : RegDesc := ⟨false, [⟨SsBuf.ADR, .rw, 0⟩]⟩

/-- Address of SSLEN (R587). -/
def ssLen : Nat := 0x0E0100 + 2
def SsLen.LEN : Span := ⟨8, 0⟩
def SsLen.desc : RegDesc := ⟨false, [⟨SsLen.LEN, .rw, 0⟩]⟩

/-- Address of SSRES (R587). -/
def ssRes : Nat := 0x0E0100 + 3
def SsRes.BUSY : Span := ⟨35, 35⟩
def SsRes.RES : Span := ⟨34, 31⟩
def SsRes.SLOT : Span := ⟨30, 29⟩
def SsRes.desc : RegDesc := ⟨false, [⟨SsRes.BUSY, .ro, 0⟩,
  ⟨SsRes.RES, .ro, 0⟩,
  ⟨SsRes.SLOT, .ro, 0⟩]⟩

/-- Address of SSCFG (R587). -/
def ssCfg : Nat := 0x0E0100 + 4
def SsCfg.IDLE : Span := ⟨35, 24⟩
def SsCfg.CHTO : Span := ⟨23, 16⟩
def SsCfg.desc : RegDesc := ⟨false, [⟨SsCfg.IDLE, .rwl, 0⟩,
  ⟨SsCfg.CHTO, .rwl, 0⟩]⟩

/-- Address of SSCHAL (R587). -/
def ssChal (j : Nat) : Nat := 0x0E0108 + 2 * j
def SsChal.CHAL : Span := ⟨71, 0⟩
def SsChal.desc : RegDesc := ⟨true, [⟨SsChal.CHAL, .ro, 0⟩]⟩

/-- Address of SSKSTAT (R587). -/
def ssKstat (k : Nat) : Nat := 0x0E0110 + 4 * k
def SsKstat.STATE : Span := ⟨35, 34⟩
def SsKstat.ROLE : Span := ⟨33, 32⟩
def SsKstat.PART : Span := ⟨31, 26⟩
def SsKstat.RIGHTS : Span := ⟨25, 12⟩
def SsKstat.IDLE : Span := ⟨11, 0⟩
def SsKstat.desc : RegDesc := ⟨false, [⟨SsKstat.STATE, .ro, 0⟩,
  ⟨SsKstat.ROLE, .ro, 0⟩,
  ⟨SsKstat.PART, .ro, 0⟩,
  ⟨SsKstat.RIGHTS, .ro, 0⟩,
  ⟨SsKstat.IDLE, .ro, 0⟩]⟩

/-- Address of SSKSER (R587). -/
def ssKser (k : Nat) : Nat := 0x0E0112 + 4 * k
def SsKser.SER : Span := ⟨71, 8⟩
def SsKser.desc : RegDesc := ⟨true, [⟨SsKser.SER, .ro, 0⟩]⟩

/-- Address of DBSTAT (R587). -/
def dbStat : Nat := 0x110000
def DbStat.STATE : Span := ⟨35, 34⟩
def DbStat.AFAIL : Span := ⟨33, 30⟩
def DbStat.LOCKT : Span := ⟨29, 17⟩
def DbStat.DENY : Span := ⟨16, 16⟩
def DbStat.desc : RegDesc := ⟨false, [⟨DbStat.STATE, .ro, 0⟩,
  ⟨DbStat.AFAIL, .ro, 0⟩,
  ⟨DbStat.LOCKT, .ro, 0⟩,
  ⟨DbStat.DENY, .w1c, 0⟩]⟩

/-- Address of DBCTL (R587). -/
def dbCtl : Nat := 0x110001
def DbCtl.BRKH : Span := ⟨35, 35⟩
def DbCtl.EXIT : Span := ⟨34, 34⟩
def DbCtl.desc : RegDesc := ⟨false, [⟨DbCtl.BRKH, .rw, 0⟩,
  ⟨DbCtl.EXIT, .wo, 0⟩]⟩

/-- Address of DBSEALP (R587). -/
def dbSealp (i : Nat) : Nat := 0x110002 + i
def DbSealp.SP : Span := ⟨31, 0⟩
def DbSealp.desc : RegDesc := ⟨false, [⟨DbSealp.SP, .rwl, 0⟩]⟩

/-- Address of DBHLT (R587). -/
def dbHlt (i : Nat) : Nat := 0x110004 + i
def DbHlt.HLT : Span := ⟨31, 0⟩
def DbHlt.desc : RegDesc := ⟨false, [⟨DbHlt.HLT, .ro, 0⟩]⟩

end Sys2Proof.Machine
end

