-- ==== Sys2Proof/Machine/RegMap.lean ====
section
/-! DEFINITION. Which register stands at an I/O address (R15, R17, and the register maps of each chapter), its reset
value (R16) and the lock that governs its RWL fields (R12). -/

namespace Sys2Proof.Machine

/-- The registers of a domain, by offset (R72). -/
def descDomain (o : Nat) : RegDesc :=
  match o with
  | 0x00 => AdCtl.desc | 0x01 => AdSrc.desc | 0x02 => AdStat.desc | 0x03 => AdErr.desc
  | 0x04 => AdLive.desc | 0x06 => AdConf.desc | 0x08 => AdRate.desc | 0x0A => AdInc.desc
  | 0x0C => AdEdif.desc | 0x0E => AdSlst.desc | 0x0F => AdCmd.desc | 0x10 => AdChk.desc
  | 0x12 => AdSnl.desc | 0x14 => AdSnc.desc | 0x16 => AdReva.desc
  | o => if 0x20 ≤ o then (if o % 4 = 0 then AdSlotVal.desc else if o % 4 = 2 then AdSlotCtl.desc else RegDesc.none)
         else RegDesc.none

/-- The registers of a timer, by offset (R105). -/
def descTimer (o : Nat) : RegDesc :=
  match o with
  | 0x0 => TmCtl.desc | 0x1 => TmTrg.desc | 0x2 => TmPin.desc | 0x3 => TmStat.desc | 0x4 => TmCmd.desc
  | 0x6 => TmCnt.desc | 0x8 => TmRld.desc | 0xA => TmCmp0.desc | 0xC => TmCmp1.desc | _ => RegDesc.none

/-- The registers of a port, by offset (R146). -/
def descPort (o : Nat) : RegDesc :=
  match o with
  | 0x00 => FpCfg.desc | 0x01 => FpLim.desc | 0x02 => FpDrv.desc | 0x03 => FpOut.desc | 0x04 => FpIn.desc
  | 0x05 => FpRes.desc | 0x06 => FpStat.desc | 0x07 => FpCmd.desc | 0x08 => FpEnv.desc | 0x09 => FpWire.desc
  | 0x0A => FpFlt.desc | 0x0B => FpUart.desc | 0x0C => FpData.desc | 0x0E => FpEj.desc
  | 0x10 => FpSeqc.desc | 0x11 => FpSeqs.desc | 0x12 => FpMbx.desc
  | o => if 0x18 ≤ o ∧ o < 0x20 then FpSq.desc else if 0x40 ≤ o ∧ o < 0x80 then FpPrg.desc else RegDesc.none

/-- The registers of a channel, by offset (R146). -/
def descChannel (o : Nat) : RegDesc :=
  match o with
  | 0 => ChCtl.desc | 1 => ChPorts.desc | 2 => ChStat.desc | 3 => ChCmd.desc | 4 => ChRet.desc | _ => RegDesc.none

/-- Field ports and channels (R146). -/
def descField (a : Nat) : RegDesc :=
  if a < 0x2000 then descPort (a % 0x100)
  else if 0x4000 ≤ a ∧ a < 0x4100 then descChannel (a % 0x10)
  else match a with
  | 0x6000 => FpRail.desc | 0x6001 => FpLock.desc | 0x6002 => ChLock.desc | _ => RegDesc.none

/-- The TXU block (R197). -/
def descTxu (a : Nat) : RegDesc :=
  if a < 0x100 then
    match a % 8 with
    | 0 => TxStat.desc | 1 => TxItems.desc | 2 => TxRes.desc | 3 => TxPrep.desc | 4 => TxMark.desc | _ => RegDesc.none
  else if a < 0x120 then TxOwn.desc
  else match a with
  | 0x200 => TxCfg.desc | 0x201 => TxCause.desc | 0x202 => TxStray.desc | 0x203 => TxCmd.desc | _ => RegDesc.none

/-- The record store block (R197). -/
def descStore (a : Nat) : RegDesc :=
  match a with
  | 0 => RsJhead.desc | 1 => RsJtail.desc | 2 => RsJlim.desc | 3 => RsJcfg.desc | 4 => RsStat.desc
  | 6 => RsSeq.desc | 8 => RsBoot.desc | 9 => RsRepl.desc | 10 => RsWerr.desc | _ => RegDesc.none

/-- The ditch rider block (R319). -/
def descRider (a : Nat) : RegDesc :=
  match a with
  | 0x0 => DrCtl.desc | 0x1 => DrStat.desc | 0x2 => DrWeir.desc | 0x3 => DrBank.desc | 0x4 => DrBstat.desc
  | 0x5 => DrMeas.desc | 0x6 => DrPwr.desc | 0x7 => DrCostA.desc | 0x8 => DrCostB.desc | 0x9 => DrCostC.desc
  | 0xA => DrShed.desc | 0xB => DrLock.desc | 0xC => DrUse.desc | 0xE => DrObl.desc | 0x10 => DrResv.desc
  | 0x12 => DrAvl.desc | 0x35 => DrThr.desc | 0x38 => DrAct.desc | 0x3A => DrAct.desc | 0x3C => DrAct.desc
  | a => if 0x20 ≤ a ∧ a < 0x30 then DrSp.desc else if 0x30 ≤ a ∧ a < 0x35 then DrTemp.desc else RegDesc.none

/-- The registers of a furrow, by offset (R242). -/
def descFurrow (a : Nat) : RegDesc :=
  if a = 0x400 then FurLock.desc
  else if a < 0x200 then
    match a % 0x20 with
    | 0 => FuMode.desc | 1 => FuCmd.desc | 2 => FuStat.desc | 3 => FuPol.desc | 4 => FuMmr.desc | 5 => FuMmpc.desc
    | 6 => FuCnt.desc | 7 => FuRet.desc | 8 => FuClk.desc | 9 => FuCtest.desc | _ => RegDesc.none
  else RegDesc.none

/-- The fault collector block (R286). -/
def descFault (a : Nat) : RegDesc :=
  match a with
  | 0 => FcCtl.desc | 1 => FcStat.desc | 2 => FcRec.desc | 3 => FcFeed.desc | 4 => FcFwin.desc | 5 => FcFirst.desc
  | 6 => FcTime.desc | 8 => FcSwf.desc | 9 => FcLock.desc
  | a => if 0x10 ≤ a ∧ a < 0x20 then FcFurch.desc else if 0x40 ≤ a ∧ a < 0x50 then FcCls.desc
    else if 0x60 ≤ a ∧ a < 0x66 then FcAct.desc else if 0x68 ≤ a ∧ a < 0x6E then FcPend.desc
    else if 0x80 ≤ a ∧ a < 0xB0 then FcCnt.desc else RegDesc.none

/-- The BIST block (R294). -/
def descBist (a : Nat) : RegDesc :=
  match a with
  | 0 => BCtl.desc | 1 => BStat.desc | 2 => BFadr.desc | 3 => BFinfo.desc | 4 => BPat.desc | 6 => BRot.desc
  | 7 => BScrub.desc | 8 => BDram.desc
  | a => if 0x10 ≤ a ∧ a < 0x20 then BPrg.desc else RegDesc.none

/-- The cell-local block (R369). -/
def descCell (a : Nat) : RegDesc :=
  match a with
  | 0 => ClCfg.desc | 1 => ClEvt.desc | 2 => ClCyc.desc | 4 => ClBun.desc | 6 => ClFrz.desc | _ => RegDesc.none

/-- The event controller block (R454). -/
def descEvent (a : Nat) : RegDesc :=
  if a < 0x100 then EcRt.desc
  else if a = 0x200 then EcDb.desc else if a = 0x201 then EcLock.desc
  else if 0x300 ≤ a ∧ a < 0x340 then EcRvec.desc
  else if 0x400 ≤ a ∧ a < 0x600 then EcPend.desc
  else if 0x600 ≤ a ∧ a < 0x640 then EcCst.desc
  else match a with
  | 0x800 => EcCur.desc | 0x801 => EcFadr.desc | 0x802 => EcFinf.desc | 0x803 => EcXctl.desc | _ => RegDesc.none

/-- The sluice block (R498): 100 windows, of which the last holds the violation record only. -/
def descSluice (a : Nat) : RegDesc :=
  if a < 0x318 then
    match a % 8 with
    | 0 => SlIdx.desc | 1 => SlBase.desc | 2 => SlPerm.desc | 3 => SlAttr.desc | 4 => SlViol.desc | 5 => SlVadr.desc
    | _ => RegDesc.none
  else match a with
  | 0x31C => SlViol.desc | 0x31D => SlVadr.desc
  | 0x400 => SlGev.desc | 0x500 => MsCrub.desc | 0x501 => MsCnt.desc | _ => RegDesc.none

/-- The registers of an Ethernet port, by offset (R521). -/
def descEther (o : Nat) : RegDesc :=
  if o < 0x40 then
    match o with
    | 0 => EtCfg.desc | 1 => EtStat.desc
    | o => if 8 ≤ o ∧ o < 14 then EtCnt.desc else RegDesc.none
  else if o < 0x80 then
    match o % 8 with
    | 0 => TrBase.desc | 1 => TrCfg.desc | 2 => TrHead.desc | 3 => TrTail.desc | 4 => TrCmd.desc | _ => RegDesc.none
  else if o < 0xC0 then
    match o % 8 with
    | 0 => RrBase.desc | 1 => RrCfg.desc | 2 => RrHead.desc | 3 => RrTail.desc | _ => RegDesc.none
  else if 0x100 ≤ o ∧ o < 0x180 then
    match o % 4 with
    | 0 => HgCtl.desc | 1 => HgVal.desc | 2 => HgMsk.desc | _ => HgHit.desc
  else match o with
  | 0x180 => HgDef.desc | 0x181 => HgPol.desc | 0x200 => MsCfg.desc | 0x202 => MsTxsci.desc | 0x204 => MsTxsa.desc
  | 0x205 => MsTxpn.desc | 0x206 => MsPnth.desc
  | 0x210 => MsRxsci.desc | 0x214 => MsRxsci.desc | 0x218 => MsRxsci.desc | 0x21C => MsRxsci.desc
  | 0x212 => MsRxsa.desc | 0x216 => MsRxsa.desc | 0x21A => MsRxsa.desc | 0x21E => MsRxsa.desc
  | _ => RegDesc.none

/-- A PTP clock's registers, by offset (R521). -/
def descPtp (o : Nat) : RegDesc :=
  match o with
  | 0 => PtCtl.desc | 1 => PtStat.desc | 2 => PtAdd.desc | 3 => PtLat.desc | 4 => PtTime.desc | 6 => PtStep.desc
  | _ => RegDesc.none

/-- The security block (R585). -/
def descSecurity (a : Nat) : RegDesc :=
  match a with
  | 0x00 => ScStat.desc | 0x01 => ScLock.desc | 0x02 => ScTflr.desc
  | 0x04 => ScEvc.desc | 0x06 => ScEvc.desc | 0x08 => ScEvc.desc
  | 0x10 => SjCtl.desc | 0x11 => SjSrc.desc | 0x12 => SjDst.desc | 0x13 => SjAux.desc | 0x14 => SjLen.desc
  | 0x15 => SjStat.desc | 0x20 => SkIdx.desc | 0x21 => SkInfo.desc
  | 0x30 => AuHead.desc | 0x31 => AuExp.desc | 0x32 => AuCfg.desc | 0x33 => AuStat.desc | 0x34 => AuSeq.desc
  | 0x40 => TpCfg.desc | 0x41 => TpMesh.desc | 0x42 => TpStat.desc | 0x43 => TpCmd.desc
  | a => if 0x80 ≤ a ∧ a < 0xC0 ∧ a % 2 = 0 then ScRev.desc else RegDesc.none

/-- Boot, identity and sessions (R554, R585). -/
def descBoot (a : Nat) : RegDesc :=
  match a with
  | 0x00 => BtStat.desc | 0x01 => BtGen.desc | 0x02 => BtSvn.desc | 0x03 => BtXcfg.desc | 0x04 => BtDur.desc
  | 0x08 => BtCmd.desc | 0x09 => BtUadr.desc | 0x0A => BtUlen.desc | 0x0B => BtUstat.desc
  | 0x10 => IdCode.desc | 0x12 => IdSer.desc
  | 0x100 => SsCmd.desc | 0x101 => SsBuf.desc | 0x102 => SsLen.desc | 0x103 => SsRes.desc | 0x104 => SsCfg.desc
  | 0x108 => SsChal.desc | 0x10A => SsChal.desc | 0x10C => SsChal.desc | 0x10E => SsChal.desc
  | 0x110 => SsKstat.desc | 0x114 => SsKstat.desc | 0x118 => SsKstat.desc | 0x11C => SsKstat.desc
  | 0x112 => SsKser.desc | 0x116 => SsKser.desc | 0x11A => SsKser.desc | 0x11E => SsKser.desc
  | _ => RegDesc.none

/-- The debug block (R585). -/
def descDebug (a : Nat) : RegDesc :=
  match a with
  | 0 => DbStat.desc | 1 => DbCtl.desc | 2 => DbSealp.desc | 3 => DbSealp.desc | 4 => DbHlt.desc | 5 => DbHlt.desc
  | _ => RegDesc.none

/-- The register at I/O address `a`, or at a banked key (R17). -/
def regDesc (key : Nat) : RegDesc :=
  let a := key % 0x1000000
  let o := a % 0x10000
  match a / 0x10000 with
  | 0x00 => descCell o
  | 0x01 => descEvent o
  | 0x02 => if o < 0x800 then descDomain (o % 0x40) else if o = 0x800 then AdLock.desc else RegDesc.none
  | 0x03 => if o < 0x400 then descTimer (o % 0x10) else if o < 0x402 then TmGo.desc else RegDesc.none
  | 0x04 => descField o
  | 0x05 => descTxu o
  | 0x06 => descStore o
  | 0x07 => descRider o
  | 0x08 => descFurrow o
  | 0x09 => descFault o
  | 0x0A => descSluice o
  | 0x0B => if o < 0x800 then descEther (o % 0x400) else if o = 0x800 then EtLock.desc else RegDesc.none
  | 0x0C => if o < 0x40 then descPtp (o % 0x20) else RegDesc.none
  | 0x0D => descSecurity o
  | 0x0E => descBoot o
  | 0x0F => descBist o
  | 0x11 => descDebug o
  | _ => RegDesc.none

/-- Whether the address lies in a block (R17). -/
def inBlock (a : Nat) : Bool := decide (a < 0x120000 ∧ ¬(0x100000 ≤ a ∧ a < 0x110000))

/-- The default class of a fault source (R257): 0 NOTE, 1 CORR, 2 RECOV, 3 CHFAT, 4 DEVFAT. -/
def faultDefault (k : Nat) : Nat :=
  if k < 32 then 2 else if k < 144 then 3
  else ([2, 2, 2, 0, 3, 3, 2, 0, 4, 4, 4, 2, 3, 0, 4, 1, 2, 1, 2, 1, 2, 1, 4, 1, 4, 1, 2, 1, 2, 4, 3, 4, 2, 0, 0, 4, 2, 2,
    0, 4, 4, 2, 4, 2, 4, 4, 3, 4] : List Nat).getD (k - 144) 0

/-- The minimum class of a fault source (R257). -/
def faultMinimum (k : Nat) : Nat :=
  if k < 32 then 0 else if k < 144 then 3
  else ([2, 0, 2, 0, 3, 3, 2, 0, 4, 4, 3, 0, 3, 0, 4, 0, 2, 0, 2, 0, 2, 0, 4, 0, 4, 0, 2, 0, 2, 3, 3, 4, 2, 0, 0, 4, 0, 0,
    0, 4, 4, 2, 4, 2, 4, 4, 3, 4] : List Nat).getD (k - 144) 0

/-- FCCLSk before loading: the default class of each of its twelve sources (R16, R286). -/
def fcClsReset (k : Nat) : Word :=
  (List.range 12).foldl (fun w j => (⟨35 - 3 * j, 33 - 3 * j⟩ : Span).put w (faultDefault (12 * k + j))) 0

/-- The word that the reset values of a register's fields make (DESIGN CHOICE, log 3). -/
def RegDesc.reset (d : RegDesc) : Word := d.fields.foldl (fun w f => f.span.put w f.rst) 0

/-- What a register holds at device reset, before the image is loaded (R16). Slot 0 of the key store always holds the
identity key pair, with USE = SIGN (R572). -/
def regReset (key : Nat) : Word :=
  let a := key % 0x1000000
  if 0x090040 ≤ a ∧ a < 0x090050 then fcClsReset (a - 0x090040)
  else if key = skInfo 0 then SkInfo.USE.put (SkInfo.TYPE.put 0 3) 0x10
  else (regDesc key).reset

/-- The lock bit that governs the RWL fields of a register: the lock register's address and the bit (R72, R146,
R242, R286, R319, R454, R521, R585). The BIST block has no lock register (DESIGN CHOICE, log 29). -/
def regLock (key : Nat) : Option (Nat × Nat) :=
  let a := key % 0x1000000
  let o := a % 0x10000
  match a / 0x10000 with
  | 0x01 => some (ecLock, 0)
  | 0x02 => some (adLock, o / 0x40)
  | 0x04 => if o < 0x2000 then some (fpLock, o / 0x100) else some (chLock, (o - 0x4000) / 0x10)
  | 0x07 => some (drLock, 0)
  | 0x08 => some (furLock, o / 0x20)
  | 0x09 => some (fcLock, 0)
  | 0x0B => some (etLock, o / 0x400)
  | 0x0D => some (scLock, 0)
  | 0x0E => some (scLock, 0)
  | 0x11 => some (scLock, 0)
  | _ => none

/-- The I/O registers of units that the PK7264H lacks (R2): the pending events of cells 32-63, FP16-FP31, furrows 8-15 with
their words of FCFURCH, the sluice windows of their cells and SRAMs, Ethernet port 1 and its PTP registers. -/
def absentOnH (a : Nat) : Bool :=
  let o := a % 0x10000
  match a / 0x10000 with
  | 0x01 => decide (0x500 ≤ o ∧ o < 0x600) || decide (0x620 ≤ o ∧ o < 0x640)
  | 0x04 => decide (0x1000 ≤ o ∧ o < 0x2000)
  | 0x08 => decide (0x100 ≤ o ∧ o < 0x200)
  | 0x09 => decide (0x18 ≤ o ∧ o < 0x20)
  | 0x0A => decide (o < 0x318) && (decide (32 ≤ o / 8 ∧ o / 8 < 64) || decide (72 ≤ o / 8 ∧ o / 8 < 80))
  | 0x0B => decide (0x400 ≤ o ∧ o < 0x800)
  | 0x0C => decide (0x20 ≤ o ∧ o < 0x40)
  | _ => false

end Sys2Proof.Machine
end

