-- ==== Sys2Proof/Machine/State.lean ====
section
/-! DEFINITION. The state of the block as plain data: its registers, its memories, what every unit holds beside its registers,
and the queue of commands that wait; what stops a step; the state right after reset. -/

namespace Sys2Proof.Machine

/-- A change of a conditioned level, waiting for the domains to accept it (R62 order 1, R116). -/
structure Edge where
  port  : Nat
  term  : Nat
  lvl   : Bool
  /-- capture tick of the first sample at the new level -/
  stamp : Nat
  /-- capture tick at which the filter accepted it -/
  acc   : Nat
deriving DecidableEq, Repr

/-- What a domain holds beside its registers. -/
structure Dom where
  /-- channel of the last accepted edge: 0 A, 1 B, 2 none yet -/
  lastCh : Nat := 2
  /-- consecutive accepted edges on that channel -/
  run    : Nat := 0
  /-- the pending edge: its step (0 none), whether it is counted, its channel and its stamp -/
  pend   : Int := 0
  pendN  : Bool := false
  pendCh : Nat := 0
  pendT  : Nat := 0
  /-- stamp of the last accepted edge of each input -/
  accA   : Option Nat := none
  accB   : Option Nat := none
  /-- the record of each channel's conditioned level -/
  lvlA   : Bool := false
  lvlB   : Bool := false
  /-- ring T of R52, newest first, and the direction of the last counted edge (0 none) -/
  ring   : List Nat := []
  dir    : Int := 0
  tLast  : Nat := 0
  /-- counted edges in the present error window (R49) -/
  wEdges : Nat := 0
  /-- commands that have arrived for the next order 3 (R62) -/
  zero   : Bool := false
  clrrev : Bool := false
  snap   : Bool := false
  /-- bases of a derived domain (R54) -/
  bs     : Word := 0
  bd     : Word := 0
  /-- mains PLL: acquiring; good cycles; the estimated frequency as a step per port tick; the multiple of 2^48 of the last crossing, its
  port tick, and whether the PLL follows the crossings; the way run since the loss of lock (R57, R58, R609) -/
  acq    : Bool := false
  good   : Nat := 0
  mstep  : Nat := 0
  mcyc   : Word := 0
  crossAt : Nat := 0
  track  : Bool := false
  hold   : Nat := 0
  /-- port ticks since enable (R59) -/
  ticks  : Nat := 0
  /-- a step of the PTP clock to report, one that this port tick took (R60), and how often the integer part had passed 2^48 on the
  previous tick (R61) -/
  stepped : Bool := false
  stepNow : Bool := false
  laps   : Option Nat := none
  /-- a confirmed credit on the present port tick (R140, R142) -/
  credit : Bool := false
deriving DecidableEq, Repr

/-- A write to a comparator on its way (R64, R94): the value and the unit ticks left. -/
structure CmpWrite where
  val  : Word
  left : Nat
deriving DecidableEq, Repr

/-- The live comparator of one compare slot (R63-R69). -/
structure Slot where
  val   : Word := 0
  ctl   : Word := 0
  /-- values and controls written that have not arrived, oldest first, with the port ticks left (R64, R94) -/
  wVal  : List CmpWrite := []
  wCtl  : List CmpWrite := []
  /-- port tick on which a control last arrived (R66) -/
  ctlAt : Option Nat := none
  /-- kept basis (R65) and basis of the previous port tick (R64) -/
  kept  : Word := 0
  prev  : Word := 0
  /-- the next evaluation loads the kept basis -/
  load  : Bool := false
  /-- after a match fired through a lead: counting down at the match (R69) -/
  watch : Option Bool := none
  /-- an action due on the port tick after this one, and the control word that matched (R67) -/
  due   : Option Nat := none
  act   : Word := 0
deriving DecidableEq, Repr

/-- One operation on a port's commanded levels (R120). -/
inductive LvlOp where
  | set (t : Nat) | clear (t : Nat) | toggle (t : Nat)
  /-- the whole LVL field -/
  | all (v : Nat)
deriving DecidableEq, Repr

/-- What a timer holds beside its registers. -/
structure Tmr where
  /-- live compare values; compare writes on their way, oldest first, and those that transactions made on this base tick (R94) -/
  cmp0  : Word := 0
  cmp1  : Word := 0
  wr0   : List CmpWrite := []
  wr1   : List CmpWrite := []
  stg0  : List Word := []
  stg1  : List Word := []
  /-- the reload buffer, and a value written that has not reached it (R89) -/
  rld   : Word := 0
  rldW  : Option Word := none
  /-- count-clock events since the last unit tick or restart (R86) -/
  psc   : Nat := 0
  /-- the prescaler value in force, and one written for the end of the present cycle (R88) -/
  div   : Nat := 0
  /-- the trigger selections in force (R101) -/
  trg   : Word := 0
  /-- this base tick already had its count update; a load takes the place of the next one (R90); the prescaler restarted, and the timer
  has not yet counted for a base tick since (R88) -/
  done  : Bool := false
  ld    : Bool := false
  anew  : Bool := false
  /-- a clock-trigger event on this base tick (R101) -/
  clk   : Bool := false
  /-- RUN was written 0 on this base tick (R92 order 2) -/
  run0  : Bool := false
  /-- the decrement of this base tick made the count 0 (R87) -/
  zDue  : Bool := false
  /-- base tick, plus one, of the last Z, C0 and C1 (R102) -/
  zAt   : Nat := 0
  c0At  : Nat := 0
  c1At  : Nat := 0
  /-- levels published on the previous base tick (R102) -/
  pRun  : Bool := false
  pCntg : Bool := false
  pWin  : Bool := false
  /-- the pin actions of the last base tick, due on the next port tick, with their port (R104) -/
  pin   : List (Nat × LvlOp) := []
deriving DecidableEq, Repr

/-- What the sequencer of a port waits for (R134, R610). -/
inductive SeqWait where
  | none
  /-- WAIT until the port tick -/
  | until (tick : Nat)
  /-- WEDG on terminal `t`, edge `e`, with the reference level and the last port tick of the wait -/
  | edge (t e : Nat) (ref : Bool) (last : Option Nat)
deriving DecidableEq, Repr

/-- What a field port holds beside its registers. -/
structure Port where
  /-- LVL at the start of the port tick and the sources of this tick, in the order of R120 -/
  base   : Nat := 0
  acts   : List (Nat × LvlOp) := []
  /-- limits latched at the last enable or restore (R149): UO, IO, PO -/
  uo     : Nat := 0
  io     : Nat := 0
  po     : Nat := 0
  /-- what the network check in progress is for: 1 EN, 2 RESTORE, 3 automatic return (R128) -/
  chk    : Nat := 0
  /-- port tick at which an automatic return is due (R133) -/
  retry  : Option Nat := none
  /-- port tick of the last field fault (R133) -/
  fltAt  : Nat := 0
  /-- port tick at which the present charge window began (R129) -/
  qAt    : Nat := 0
  /-- transmit and receive FIFOs; an entry of the latter carries its error flag (R124) -/
  tx     : List Nat := []
  rx     : List (Nat × Bool) := []
  /-- the UART's driver is enabled -/
  drvOn  : Bool := false
  /-- coils in their hit phase and when each began (R119) -/
  hit    : Nat := 0
  hitA   : Nat := 0
  hitB   : Nat := 0
  /-- levels driven at the terminals as of the last port tick (0 where not driven), and the loop output in µA that a forcing holds (R121,
  R158) -/
  drv    : Nat := 0
  held   : Nat := 0
  /-- read-back levels of output terminals that the filter has not accepted: terminal, level, capture tick of the change (R116) -/
  back   : List (Nat × Bool × Nat) := []
  /-- port tick up to which FPnEJ holds the samples (R129) -/
  ejAt   : Nat := 0
  /-- conditioned levels published on the previous port tick (R134) -/
  pub    : Nat := 0
  /-- outputs of the sequencer that enter the next port tick (R134) -/
  out    : List LvlOp := []
  wait   : SeqWait := .none
  /-- the sequencer has run its instruction on this port tick; the slot that runs next; a halt is due at the end of the wait that runs
  (R134, R137) -/
  ran    : Bool := false
  slot   : Nat := 0
  stop   : Bool := false
  /-- first port tick of the present start (R134) -/
  t0     : Nat := 0
deriving DecidableEq, Repr

/-- What a channel holds beside its registers (R139, R141). -/
structure Chan where
  /-- STATE at the start of the port tick -/
  st0    : Nat := 7
  /-- rank of the event taken on this port tick: 0 none, 1 meter, 2 command, 3 SAFE, 4 retirement -/
  rank   : Nat := 0
  /-- causes that event set -/
  cau    : Nat := 0
  /-- EN at the start of the port tick -/
  en0    : Bool := false
  /-- forcing in effect at the terminals (R139) -/
  forced : Bool := false
deriving DecidableEq, Repr

/-- The HILAT of the debug port or the loader (R97). -/
structure Hilat where
  v    : Bool := false
  addr : Nat := 0
  data : Half := 0
deriving DecidableEq, Repr

/-- The holding register of one block for one requester (R98). -/
structure Hold where
  v    : Bool := false
  addr : Nat := 0
  data : Half := 0
deriving DecidableEq, Repr

/-- The answer to the last I/O access: its value and whether it completed with an I/O error. -/
structure Resp where
  val : Half := 0
  err : Bool := false
deriving DecidableEq, Repr

/-- An audit entry's fields as its event gives them; the security unit fills in the rest (R566, R568). -/
structure Audit where
  typ    : Nat
  part   : Nat := 0
  role   : Nat := 0
  serial : Nat := 0
  subj   : Nat := 0
  old    : Word := 0
  new    : Word := 0
deriving DecidableEq, Repr

/-- One staged item of a transaction (R172). -/
inductive TxItem where
  /-- TSW: I/O address, 72-bit register, value, and the mask of the TX fields -/
  | write (addr : Nat) (wide : Bool) (val mask : Word)
  /-- TTOT: totalizer and snapshot index -/
  | tot (t snap : Nat)
  /-- TPAR: word offset in the parameter area, value, and its audit entry -/
  | par (off : Nat) (val : Word) (audit : Audit)
  /-- TSNAP: kind (0 domain, 1 timer, 2 port energy) and unit -/
  | snap (kind unit : Nat)
  /-- TFRM: port, ring and descriptor -/
  | frame (port ring desc : Nat)
  /-- TAPP: record type and words -/
  | record (typ : Nat) (words : List Word)
deriving DecidableEq, Repr

/-- A TAPP copy in progress (R173, R481): buffer address, words, record type, and the privilege that the op issued with. -/
structure TappCopy where
  addr : Nat
  len  : Nat
  typ  : Nat
  pl   : Nat
deriving DecidableEq, Repr

/-- What a transaction holds beside its registers. -/
structure Txn where
  /-- lead cell, partition and privilege of the owner group -/
  owner  : Nat := 0
  part   : Nat := 0
  pl     : Nat := 0
  /-- staged items, oldest first -/
  items  : List TxItem := []
  copy   : Option TappCopy := none
  /-- TCOMMIT's mode and WTO (R178), and the port tick on which WAITING began -/
  mode   : Nat := 0
  wto    : Nat := 0
  waitAt : Nat := 0
  /-- a trigger is held (R179), or taken for the coming apply port tick -/
  trig   : Bool := false
  /-- the apply port tick may come: the PREP entry is durable -/
  ready  : Bool := false
  /-- SEQ, and header address and lap parity of the PREP, MARK and DONE entries once they have their place -/
  seq    : Nat := 0
  prep   : Option (Nat × Nat) := none
  mark   : Option (Nat × Nat) := none
  done   : Option (Nat × Nat) := none
  /-- the old totals read at stage 4 (R189), in item order, and the snapshots taken (R171) -/
  t0s    : List Word := []
  snaps  : List (Word × Word) := []
  /-- the words of the PREP and MARK entries -/
  prepWs : List Word := []
  markWs : List Word := []
  /-- the reservation granted, in 0.1 µJ (R187); port tick, plus one, of the last stray trigger (R179) -/
  cost   : Nat := 0
  strayAt : Nat := 0
deriving DecidableEq, Repr

/-- A system commit that waits to be carried out (R190): its word, the bits it sets or clears there, and its audit entry;
`set` tells a retirement, whose word is written before its entry, from a clearance; `half` that the first of the two writes is durable. -/
structure SysCommit where
  addr  : Nat
  val   : Word
  audit : Audit
  set   : Bool
  half  : Bool := false
deriving DecidableEq, Repr

/-- The journal beside its registers: the head's lap count, the words set aside (R191), the written and open PREP entries,
oldest first, as SEQ, header address and lap; the write count of each control block copy, and the copies on their way to the record store, by
base and words (R611). -/
structure Journal where
  lap    : Nat := 0
  aside  : Nat := 0
  opens  : List (Nat × Nat × Nat) := []
  wcount : Nat := 0
  wcount1 : Nat := 0
  copies : List (Nat × List Word) := []
deriving DecidableEq, Repr

/-- The ditch rider beside its registers. -/
structure Rider where
  /-- a bank is accepted (R302); a measurement runs, by the bleed or not (R300); the bank settings in effect, the charge current in mA, and a refusal
  found by the measurement (R321); the hold-up switch is closed (R304) -/
  bankOk : Bool := false
  meas   : Bool := false
  bleed  : Bool := false
  bank   : Word := 0
  ich    : Nat := 0
  late   : Bool := false
  /-- the decision on the bank waits for step 11 of a start (R321) -/
  wait   : Bool := false
  hold   : Bool := false
  /-- crystal lost: the time base is the fault collector's oscillator (R26) -/
  xtal   : Bool := false
  /-- port tick of WARN, or of the reset that followed it, and the port ticks that had passed since WARN by then -/
  warnAt : Nat := 0
  warned : Nat := 0
  /-- the step in wait and the values it took: number, OP, ARG, and EJ; none while no wait runs (R326) -/
  step   : Option (Nat × Nat × Nat) := none
  stepEj : Nat := 0
  /-- furrows reached by FOFF and CLKDN, ports by ETHOFF; DRAM: 0 on, 1 self-refresh, 2 off; the field rail off -/
  foff   : Nat := 0
  clkdn  : Nat := 0
  eth    : Nat := 0
  dram   : Nat := 0
  rail   : Bool := false
deriving DecidableEq, Repr

/-- The holder of a certificate chain (R558). -/
structure Holder where
  role    : Nat
  serial  : Nat
  rights  : Nat
  notAft  : Nat
  modulus : List Nat
deriving DecidableEq, Repr

/-- A security job from its GO on (R573): the cell, its registers as GO found them, the writer's privilege and partition, and
its error code once its work is done, 0 for none. -/
structure Job where
  cell  : Nat
  op    : Nat
  slot  : Nat
  slot2 : Nat
  mode  : Nat
  k128  : Bool
  use   : Nat
  pay   : Bool
  src   : Nat
  dst   : Nat
  aux   : Nat
  len   : Nat
  aad   : Nat
  pl    : Nat
  part  : Nat
  done  : Option Nat := none
deriving DecidableEq, Repr

/-- The debug TAP (R581, R582): instruction register, selected cell, data register, the chain and signature words shifted in,
the chain's holder, the challenge and the next word of it to read, and the port tick at which an AUTH lockout ends. -/
structure Tap where
  ir     : Nat := 0xFF
  sel    : Nat := 0
  dr     : Nat := 0
  chain  : List Word := []
  sig    : List Word := []
  holder : Option Holder := none
  chal   : List Nat := []
  next   : Nat := 0
  until' : Nat := 0
deriving DecidableEq, Repr

/-- The security unit beside its registers. -/
structure Sec where
  /-- chain value H, sealed digest SD and fused root key hash (R565, R570, R580); LRD and manifest digest of the loaded image -/
  chain  : BitVec 256 := 0
  sd     : BitVec 256 := 0
  root   : BitVec 256 := 0
  lrd    : BitVec 256 := 0
  digest : BitVec 256 := 0
  /-- octets of the key in each slot of the key store (R572), and how many serials are revoked -/
  keys   : Tab (List Nat) := []
  nrev   : Nat := 0
  /-- journal SEQ and entries appended of the latest transactions, newest first, at most 32 (R568) -/
  done   : List (Nat × Nat) := []
  /-- a checkpoint is due after the one that is being signed, whose words are these; checkpoints written (R571) -/
  ckDue  : Bool := false
  ckBusy : Option (List Word) := none
  ckN    : Nat := 0
  /-- a chain check in progress: session slot and chain; the challenges' and sessions' holders (R560) -/
  check  : Option (Nat × List Word) := none
  chal   : Tab (List Nat) := []
  holder : Tab (Option Holder) := []
  /-- port tick of the last session-gated action of each session slot, and at which its challenge expires (R561) -/
  acted  : Tab Nat := []
  chalEnd : Tab Nat := []
  jobs   : List Job := []
  tap    : Tap := {}
deriving DecidableEq, Repr

/-- One cell. The record of a group is its lead's. -/
structure Cell where
  /-- G1-G31, F1-F7 as a mask with bit k for Fk, P0-P3 (R327) -/
  g      : Tab Word := []
  f      : Nat := 0
  p      : Tab (BitVec 144) := []
  /-- op address of the bundle that runs next -/
  pc     : Nat := 0
  /-- special registers (R330, R471) -/
  st     : Word := 0x800000000
  epc    : Nat := 0
  estat  : Word := 0
  mepc   : Nat := 0
  mestat : Word := 0
  evb    : Nat := 0
  part   : Nat := 0
  pgrp   : Nat := 0
  hilat  : Hilat := {}
  rdepth : Nat := 0
  rtop   : Nat := 0
  rse    : Tab Nat := []
  loops  : Tab Loop := []
  trs1d  : Nat := 0
  trs1i  : Nat := 0
  trs2c  : Bool := false
  trs2d  : Nat := 0
  trs2i  : Nat := 0
  trfr   : Word := 0
  trfva  : Nat := 0
  trfia  : Nat := 0
  trfta  : Nat := 0
  tridx  : Nat := 0
  trnxt  : Nat := 0
  trcnt  : Word := 0
  /-- TXSTAT (R338): the current transaction, the last abort and the last result -/
  txCur  : Option Nat := none
  txAbc  : Nat := 0
  txAbn  : Nat := 0
  txErr  : Nat := 0
  /-- the ops of the bundle that the cell is taking in, whether it is whole, and what the caliper finds in its outputs -/
  bundle : List Op := []
  closed : Bool := false
  cal    : Caliper := .agree
  /-- bundles issued; entry depth (R435); accesses issued -/
  bun    : Nat := 0
  depth  : Nat := 0
  seq    : Nat := 0
  /-- results that come due, loads and INs, stores, long ops, ISTs and completion causes on their way -/
  due    : List Due := []
  loads  : List LoadE := []
  stores : List StoreE := []
  longs  : List LongE := []
  ists   : List IstE := []
  held   : List HeldC := []
  /-- writes of ST: the bundle from which each is in force, the bits that it replaces and their value (R332, R333) -/
  shadow : List (Nat × Word × Word) := []
  /-- the branch whose delay bundle is next; only the block op or WAITC of the next bundle runs (R395) -/
  delay  : Option Delay := none
  resume : Bool := false
  blk    : Option BlkE := none
  wait   : CellWait := .none
  walk   : Option Walk := none
  /-- a code line that fetch waits for, with its number in flight -/
  line   : Option FetchE := none
  /-- the next bundle is a vector's: ST before the entry and the entry's cause (R444); an event entry under way -/
  vec    : Option (Word × Nat) := none
  entry  : Option EntryE := none
  /-- buffers (R349, R351, R418, R419, R420, R424, R466) -/
  dc     : Tab Line := []
  dcNxt  : Tab Nat := []
  wl     : Tab Line := []
  wlNxt  : Nat := 0
  btb    : Tab BtbE := []
  lbuf   : Option LoopBuf := none
  attrs  : Tab AttrE := []
  attrNxt : Nat := 0
  tlb    : Tab TlbE := []
  /-- stopped by the caliper (R215), by a quiesce (R229), by debug (R238), by the shed plan (R312) -/
  frozen : Bool := false
  quiet  : Bool := false
  halted : Bool := false
  /-- one bundle runs although debug has halted the cell (R238) -/
  once   : Bool := false
  parked : Bool := false
  /-- the whole bundle waits for the conditions of its ops: a freeze (R413) -/
  stall  : Bool := false
deriving DecidableEq, Repr

/-- PL of ST (R332). -/
def Cell.pl (x : Cell) : Nat := x.st.toNat / 2 ^ 34 % 4

/-- A mismatch being settled (R215-R224): its cells' positions as a mask, the lead at the freeze, the group, op address and ST of the
bundle whose output mismatched, whether long ops were in flight, whether unwinding was abandoned and whether it has ended. -/
structure Mis where
  cells  : Nat
  lead   : Nat
  grp    : Nat
  pc     : Nat
  st     : Word
  impr   : Bool
  lost   : Bool := false
  done   : Bool := false
deriving DecidableEq, Repr

/-- A furrow command under way (R228-R234): CMD, source cell, target positions, NROLE; the copy of a JOIN has begun; what asked
for it: 0 FnCMD, 1 the re-pairing after a blame (R221), 2 AUTOJ (R225), 3 the taking of a SINGLE as arbiter (R219). -/
structure FurCmd where
  cmd   : Nat
  src   : Nat
  tgt   : Nat
  nrole : Nat := 0
  copy  : Bool := false
  auto  : Nat := 0
deriving DecidableEq, Repr

/-- One furrow, beside its registers. -/
structure Fur where
  /-- positions of the suspects of the arbitration that runs (R220) -/
  suspects : Nat := 0
  mis    : List Mis := []
  /-- the arbiter's position, and whether it was taken from a single (R219) -/
  arb    : Option (Nat × Bool) := none
  cmd    : Option FurCmd := none
  /-- minority members under test, each with the spare it runs with (R225) -/
  mins   : List (Nat × Option Nat) := []
  /-- a re-paired group that is to take the caliper exception (R223), a group that is to restart (R224), by their mismatch -/
  resume  : Option Mis := none
  restart : Option Mis := none
  /-- spares under the in-field test (R281) -/
  test   : Nat := 0
  /-- a clock code written, and cells that debug is to halt, during a hand-over (R236) -/
  clkW   : Option Nat := none
  haltW  : Nat := 0
  /-- the highest clock code that throttling permits (R318) -/
  thr    : Nat := 10
  /-- role, group and partition that the image gives each position (R209, R315), and positions whose SRAM failed BIST at this
  start (R279) -/
  img    : List (Nat × Nat × Nat) := []
  bad    : Nat := 0
  /-- a caliper test runs, of a group, a port and a bit of its vector (R241, R251) -/
  ctest  : Option (Nat × Nat × Nat) := none
  /-- a group that the furrow is to join a SPARE into (R225) -/
  autoj  : Option Nat := none
deriving DecidableEq, Repr

/-- The fault collector beside its registers: its time at the last reset, which its own clock keeps; its time of the last assertion or deassertion of a device-fatal source
(R268), of the last valid feed (R263), of the opening of the recovery window (R272); the feed warning was given; the channel
mask of FCSWF (R292); the SPLL has failed (R274). -/
structure Fc where
  base    : Nat := 0
  quietAt : Nat := 0
  feedAt  : Option Nat := none
  winAt   : Nat := 0
  warned  : Bool := false
  swf     : Nat := 0
  spll    : Bool := false
deriving DecidableEq, Repr

/-- What fills a range of memory: one word, a march's checkerboard or row stripe, either or its complement (R278), or words
that nothing fixes, as number `id` of the state's free values (R280, R281, R306, R311). -/
inductive Pat where
  | const (w : Word)
  | checker (inv : Bool)
  | stripe (inv : Bool)
  | lost (id : Nat)
deriving DecidableEq, Repr

/-- A range of memory whose unlisted words read as a pattern gives them, and the bits in which they differ from its code words. -/
structure Fill where
  lo   : Nat
  hi   : Nat
  pat  : Pat
  flip : BitVec 80 := 0
deriving DecidableEq, Repr

/-- The memories but the record store: word addresses of R28 (local data SRAMs at their alias), and the local instruction
SRAM of cell c at 2^36 + 0x4000 c. -/
structure Mem where
  cells : Tab Word := []
  /-- the xSPI memory: word n of slot A at n, of slot B at 2^24 + n; an unlisted word is erased (R532) -/
  nor   : Tab Word := []
  /-- newest first -/
  fills : List Fill := []
  /-- bits of a stored word and its check bits that have flipped since it was written, by the same addresses (R37, R38) -/
  flips : Tab (BitVec 80) := []
deriving DecidableEq, Repr

/-- A PRP copy accepted (R502): source address, sequence number, port tick. -/
structure Dup where
  src : Nat
  seq : Nat
  at' : Nat
deriving DecidableEq, Repr

/-- What an Ethernet port holds beside its registers. -/
structure Eth where
  /-- transmit rings whose frame at HEAD is ready for the wire, those whose frame the TXU released, and the ring whose frame
  is on the wire (R506, R507) -/
  ready  : Nat := 0
  freed  : Nat := 0
  wire   : Option Nat := none
  /-- the frames read into the transmit FIFO: ring, words, and how the reading ended as STS has it (R506, R511) -/
  fifo   : List (Nat × Nat × Nat) := []
  /-- PRP: next sequence number and the duplicate table, oldest first (R502) -/
  prpSeq : Nat := 0
  dups   : List Dup := []
  /-- tokens of the police bucket (R514) -/
  tokens : Nat := 0
  /-- per receive SC and AN, one above the highest packet number accepted (R516) -/
  rxPn   : Tab Nat := []
  /-- the transmit packet number has wrapped to 0 (R517) -/
  pnOut  : Bool := false
  /-- an offset to add to the PTP clock on its next tick (R518), and the port tick of the last write to PTpADD (R520) -/
  step   : Option Word := none
  addAt  : Nat := 0
deriving DecidableEq, Repr

/-- The BIST engine at work (R280): BCTL's target and unit, the range of words and the instruction SRAM's where it is a cell's local
SRAMs, the background and whether the last write is of it or of its complement, whether an ill-formed element ends the program, IE,
and what the march finds of its own: the first failure and the failing words. -/
structure Bist where
  tgt   : Nat
  unit  : Nat
  data  : Nat × Nat
  code  : Option (Nat × Nat)
  pat   : Pat
  last  : Option Bool
  bad   : Bool
  ie    : Bool
  fail  : Option BistFail
  count : Nat
deriving DecidableEq, Repr

/-- A staging in progress (R551): its buffer, the privilege and partition of the writer of STAGE, TRIALN, the phase in
progress, and whether ABORT, WARN or a lost session ends it at its next word. -/
structure Stage where
  adr    : Nat
  len    : Nat
  pl     : Nat
  part   : Nat
  trialn : Nat
  phase  : Nat := 1
  stop   : Bool := false
deriving DecidableEq, Repr

/-- The start (R526): power is on; nRESET is low; a reset waits for a MARK entry (R602); the step of the start that runs next,
13 once the application may run; the port tick at which the start began; the sampled straps; the slots still to be tried and
the one that is tried or loaded; the line code of Ethernet port 0 in the last loaded image; cell 0 runs the recovery monitor;
whether BIST has run at this start and what follows it - 0 the load, 1 and 2 image recovery by the straps or for want of an image, 3 the
factory test state - and the staging under way. -/
structure Boot where
  on      : Bool := true
  low     : Bool := false
  held    : Bool := false
  step    : Nat := 3
  t0      : Nat := 0
  strap   : Nat := 0
  cands   : List Nat := []
  slot    : Option Nat := none
  line    : Nat := 3
  monitor : Bool := false
  tested  : Bool := false
  fate    : Nat := 0
  stage   : Option Stage := none
deriving DecidableEq, Repr

/-- Everything but the memories and the queue. -/
structure Dev where
  io     : Tab Word := []
  tick   : Nat := 0
  fresh  : Nat := 0
  edges  : List Edge := []
  doms   : Tab Dom := []
  slots  : Tab Slot := []
  tmrs   : Tab Tmr := []
  ports  : Tab Port := []
  chans  : Tab Chan := []
  pulse  : Tab Nat := []
  level  : Tab Nat := []
  hilats : Tab Hilat := []
  holds  : Tab Hold := []
  resp   : Resp := {}
  cells  : Tab Cell := []
  furs   : Tab Fur := []
  ptpFrac : Tab Nat := []
  eths   : Tab Eth := []
  /-- partition group and EVB of each partition (R542) -/
  pgrp   : Tab Nat := []
  evbs   : Tab Nat := []
  /-- the open row, plus one, of each DRAM bank (R474, R475) -/
  rows   : Tab Nat := []
  /-- the port tick at which the last refresh of a DRAM bank ends (R475) -/
  refr   : Tab Nat := []
  /-- requests in flight at the sluices, as sluice and number; those noted at the last rule write; the next number (R495) -/
  infl   : List (Nat × Nat) := []
  noted  : List (Nat × Nat) := []
  reqId  : Nat := 0
  /-- record store words, by word address (R188) -/
  rs     : Tab Word := []
  /-- bits of a record store word and its check bits that have flipped since it was written (R37, R38) -/
  rsFlips : Tab (BitVec 80) := []
  txns   : Tab Txn := []
  jnl    : Journal := {}
  sysq   : List SysCommit := []
  rider  : Rider := {}
  sec    : Sec := {}
  fc     : Fc := {}
  bist   : Option Bist := none
  boot   : Boot := {}
  /-- the cells run application code: from the first application bundle to the next fault state, reset or start -/
  run    : Bool := false
deriving DecidableEq, Repr

/-- The machine: the commands that wait, the memories and everything else. -/
structure State where
  pending : List Instr := []
  mem     : Mem := {}
  dev     : Dev := {}
deriving DecidableEq, Repr

/-- What stops the machine. Nothing does: the spec answers every command with an effect on the state (an I/O error, an
exception of a cell, a fault source, a refused command that changes nothing), so no meaning faults. Safe. -/
inductive Fault : Type
deriving DecidableEq, Repr

/-- Why a command has no meaning. -/
inductive Refusal where
  /-- The dispatch arm of a command without a meaning. Raised by `exec` alone; safe, as the machine goes no further. -/
  | notModelled (mnemonic : String)
deriving DecidableEq, Repr

/-- The machine right after nRESET is released with power present, about to take step 3 of a start (R16, R526, R602): every
register at its reset value, which `regReset` gives for a register not listed; every SRAM and the DRAM without contents that
anything fixes (fills 0 to 2, whose words are free values); MRAM and xSPI memory blank; no cell running; no command waiting.
(DESIGN CHOICE, log 160). -/
def State.reset : State where
  mem := { fills := [⟨0x001000000, 0x0080FFFFF, .lost 0, 0⟩, ⟨0x1000000000, 0x10000FFFFF, .lost 1, 0⟩, ⟨0x100000000, 0x15FFFFFFF, .lost 2, 0⟩] }
  dev := { fresh := 3 }

end Sys2Proof.Machine
end

