-- ==== Sys2Proof/Machine/Tab.lean ====
section
/-! DEFINITION. Reading and writing a sparse table in its canonical form. -/

namespace Sys2Proof

/-- The value at key `k`, or `d` where the table lists none. -/
def Tab.get {α : Type} (d : α) : Tab α → Nat → α
  | [], _ => d
  | (j, v) :: t, k => if j = k then v else Tab.get d t k

/-- The entries below key `k`, and those above it. -/
def Tab.below {α : Type} (t : Tab α) (k : Nat) : Tab α := t.filter (fun e => decide (e.1 < k))
def Tab.beyond {α : Type} (t : Tab α) (k : Nat) : Tab α := t.filter (fun e => decide (k < e.1))

/-- Remove key `k`. -/
def Tab.erase {α : Type} (t : Tab α) (k : Nat) : Tab α := t.below k ++ t.beyond k

/-- Enter `v` at key `k`, keeping the keys rising. -/
def Tab.ins {α : Type} (t : Tab α) (k : Nat) (v : α) : Tab α := t.below k ++ (k, v) :: t.beyond k

/-- Write `v` at key `k`; writing the unlisted value removes the entry. -/
def Tab.set {α : Type} [DecidableEq α] (d : α) (t : Tab α) (k : Nat) (v : α) : Tab α :=
  if v = d then Tab.erase t k else Tab.ins t k v

/-- Every key of `t` is above `k`. -/
def Tab.above {α : Type} (k : Nat) : Tab α → Bool
  | [] => true
  | (j, _) :: t => decide (k < j) && Tab.above k t

/-- The keys rise strictly. -/
def Tab.sorted {α : Type} : Tab α → Bool
  | [] => true
  | (j, _) :: t => Tab.above j t && Tab.sorted t

/-- The canonical form for a table whose unlisted keys read `d`. -/
def Tab.wf {α : Type} [DecidableEq α] (d : α) (t : Tab α) : Bool :=
  Tab.sorted t && t.all (fun e => decide (e.2 ≠ d))

/-- The keys a table lists. -/
def Tab.keys {α : Type} (t : Tab α) : List Nat := t.map (fun e => e.1)

end Sys2Proof
end

