-- ==== Sys2Proof/Machine/Ops.lean ====
section
/-! DEFINITION. The named operations on the registers, the groups of a furrow, the events and the fault sources. -/

namespace Sys2Proof.Machine

/-! ### Registers -/

/-- The register with key `k`. -/
def Dev.rd (d : Dev) (k : Nat) : Word := Tab.get (regReset k) d.io k

/-- `d` with register `k` holding `w`. -/
def Dev.wr (d : Dev) (k : Nat) (w : Word) : Dev := { d with io := Tab.set (regReset k) d.io k w }

/-- A field of register `k`. -/
def Dev.fg (d : Dev) (k : Nat) (f : Span) : Nat := f.get (d.rd k)

/-- A one-bit field of register `k`. -/
def Dev.ff (d : Dev) (k : Nat) (f : Span) : Bool := decide (d.fg k f ≠ 0)

/-- `d` with a field of register `k` set. -/
def Dev.fp (d : Dev) (k : Nat) (f : Span) (v : Nat) : Dev := d.wr k (f.put (d.rd k) v)

/-- `d` with a one-bit field set to `b`. -/
def Dev.fb (d : Dev) (k : Nat) (f : Span) (b : Bool) : Dev := d.fp k f (b2n b)

/-- `d` with bit `i` of a latched field set. -/
def Dev.latch (d : Dev) (k : Nat) (f : Span) (i : Nat) : Dev := d.fp k f (d.fg k f ||| 2 ^ i)

/-- `d` with a counter field raised by one, saturating (R49, R275). -/
def Dev.count (d : Dev) (k : Nat) (f : Span) : Dev := d.fp k f (satAdd (2 ^ f.width - 1) (d.fg k f) 1)

/-- The part is a PK7264H (R1, R555) (DESIGN CHOICE, log 2). -/
def Dev.isH (d : Dev) : Bool := decide (d.fg idCode IdCode.ORDER = 1)

/-- Field port `p` is present (R1) (DESIGN CHOICE, log 7). -/
def Dev.portHere (d : Dev) (p : Nat) : Bool := decide (p < if d.isH then 16 else 32)
/-- Furrow `f` is present (R1). -/
def Dev.furHere (d : Dev) (f : Nat) : Bool := decide (f < if d.isH then 8 else 16)
/-- Cell `c` is present (R1). -/
def Dev.cellHere (d : Dev) (c : Nat) : Bool := d.furHere (c / 4)
/-- Ethernet port `p` is present (R1). -/
def Dev.ethHere (d : Dev) (p : Nat) : Bool := decide (p < if d.isH then 1 else 2)

/-! ### Units -/

def Dev.dom (d : Dev) (n : Nat) : Dom := Tab.get {} d.doms n
def Dev.putDom (d : Dev) (n : Nat) (x : Dom) : Dev := { d with doms := Tab.set {} d.doms n x }
def Dev.slot (d : Dev) (n s : Nat) : Slot := Tab.get {} d.slots (8 * n + s)
def Dev.putSlot (d : Dev) (n s : Nat) (x : Slot) : Dev := { d with slots := Tab.set {} d.slots (8 * n + s) x }
def Dev.tmr (d : Dev) (n : Nat) : Tmr := Tab.get {} d.tmrs n
def Dev.putTmr (d : Dev) (n : Nat) (x : Tmr) : Dev := { d with tmrs := Tab.set {} d.tmrs n x }
def Dev.port (d : Dev) (n : Nat) : Port := Tab.get {} d.ports n
def Dev.putPort (d : Dev) (n : Nat) (x : Port) : Dev := { d with ports := Tab.set {} d.ports n x }
def Dev.chan (d : Dev) (n : Nat) : Chan := Tab.get {} d.chans n
def Dev.putChan (d : Dev) (n : Nat) (x : Chan) : Dev := { d with chans := Tab.set {} d.chans n x }
def Dev.cell (d : Dev) (c : Nat) : Cell := Tab.get {} d.cells c
def Dev.putCell (d : Dev) (c : Nat) (x : Cell) : Dev := { d with cells := Tab.set {} d.cells c x }
def Dev.fur (d : Dev) (f : Nat) : Fur := Tab.get {} d.furs f
def Dev.putFur (d : Dev) (f : Nat) (x : Fur) : Dev := { d with furs := Tab.set {} d.furs f x }

def Dev.txn (d : Dev) (n : Nat) : Txn := Tab.get {} d.txns n
def Dev.putTxn (d : Dev) (n : Nat) (x : Txn) : Dev := { d with txns := Tab.set {} d.txns n x }

/-! ### Roles and groups (R206, R207) -/

/-- The role field of position `p` in FnMODE (R243). -/
def roleSpan (p : Nat) : Span := ⟨35 - 5 * p, 33 - 5 * p⟩
/-- The group field of position `p` in FnMODE (R243). -/
def grpSpan (p : Nat) : Span := ⟨32 - 5 * p, 31 - 5 * p⟩

/-- The role of cell `c` (R206): 0 SINGLE, 1 MEMBER, 2 SPARE, 3 STOPPED, 4 RETIRED, 5 TEST. -/
def Dev.role (d : Dev) (c : Nat) : Nat := d.fg (fuMode (c / 4)) (roleSpan (c % 4))
/-- The group number of cell `c`. -/
def Dev.grp (d : Dev) (c : Nat) : Nat := d.fg (fuMode (c / 4)) (grpSpan (c % 4))

/-- The roles and groups of a furrow, by position. -/
def Dev.pattern (d : Dev) (f : Nat) : List (Nat × Nat) :=
  ([0, 1, 2, 3] : List Nat).map (fun p => (d.role (4 * f + p), d.grp (4 * f + p)))

/-- The named mode of a pattern (R208). -/
def modeName (l : List (Nat × Nat)) : Nat :=
  if l = [(0, 0), (0, 0), (0, 0), (0, 0)] then 0
  else if l = [(1, 0), (1, 0), (1, 1), (1, 1)] then 1
  else if l = [(1, 0), (1, 0), (0, 0), (0, 0)] then 2
  else if l = [(1, 0), (1, 0), (1, 0), (2, 0)] then 3
  else 4

/-- Give cell `c` a role, and its group where it is a MEMBER; NAME follows (R208, R243). -/
def Dev.setRole (d : Dev) (c role grp : Nat) : Dev :=
  let f := c / 4
  let d1 := (d.fp (fuMode f) (roleSpan (c % 4)) role).fp (fuMode f) (grpSpan (c % 4)) (if role = 1 then grp else 0)
  d1.fp (fuMode f) FuMode.NAME (modeName (d1.pattern f))

/-- The members of group `g` of furrow `f`, ascending (R207). -/
def Dev.groupCells (d : Dev) (f g : Nat) : List Nat :=
  ([4 * f, 4 * f + 1, 4 * f + 2, 4 * f + 3] : List Nat).filter (fun c => decide (d.role c = 1 ∧ d.grp c = g))

/-- The cells that act with `c`: its group, or the suspects of an arbitration it is one of, or itself alone. -/
def Dev.mates (d : Dev) (c : Nat) : List Nat :=
  if d.role c = 1 then d.groupCells (c / 4) (d.grp c)
  else if d.role c = 5 ∧ (d.fur (c / 4)).suspects.testBit (c % 4) then
    (bitsOf (d.fur (c / 4)).suspects 4).map (fun p => 4 * (c / 4) + p)
  else [c]

/-- The lead of cell `c`: the lowest-numbered cell that acts with it (R207). -/
def Dev.lead (d : Dev) (c : Nat) : Nat := (d.mates c).headD c

/-- Cell `c` takes events: a single, a member, or a suspect whose events stay pending (R215, R449). -/
def Dev.takesEvents (d : Dev) (c : Nat) : Bool :=
  d.cellHere c && (decide (d.role c = 0 ∨ d.role c = 1) ||
    (decide (d.role c = 5) && (d.fur (c / 4)).suspects.testBit (c % 4)))

/-! ### Events (R449, R608) -/

/-- Cell `c` is a target of a JOIN under way: an event routed to it stays pending until the hand-over ends (R236). -/
def Dev.joining (d : Dev) (c : Nat) : Bool :=
  match (d.fur (c / 4)).cmd with
  | some q => decide (q.cmd = 2) && q.tgt.testBit (c % 4)
  | none => false

/-- The cells that event `e` reaches under its route. -/
def Dev.eventTargets (d : Dev) (e : Nat) : List Nat :=
  let t := d.fg (ecRt e) EcRt.TGT
  if d.ff (ecRt e) EcRt.EN then
    if d.ff (ecRt e) EcRt.MODE then
      (List.range 64).filter (fun c => d.takesEvents c && decide (d.lead c = c ∧ (d.cell c).part = t))
    else if d.takesEvents t || d.joining t then [d.lead t] else []
  else []

/-- Set the pending bit of event `e` in cell `c`. -/
def Dev.setPend (d : Dev) (e : Nat) (c : Nat) : Dev := d.latch (ecPend c (e / 32)) EcPend.PEND (e % 32)

/-- Event `e` is pending in cell `c`. -/
def Dev.isPend (d : Dev) (e c : Nat) : Bool := (d.fg (ecPend c (e / 32)) EcPend.PEND).testBit (e % 32)

/-- Raise event `e` in every target of its enabled route (R449) (DEDUCED, log 24). -/
def Dev.raise (d : Dev) (e : Nat) : Dev := (d.eventTargets e).foldl (fun d c => d.setPend e c) d

/-- Raise event `e` if `b`. -/
def Dev.raiseIf (d : Dev) (b : Bool) (e : Nat) : Dev := if b then d.raise e else d

/-- A latched field and its enables have a bit in common. -/
def Dev.anyOn (d : Dev) (k : Nat) (cause : Span) (k' : Nat) (en : Span) : Bool :=
  decide (d.fg k cause &&& d.fg k' en ≠ 0)

/-- The level of a timer's event (R106). -/
def Dev.timerLevel (d : Dev) (n : Nat) : Bool :=
  (d.ff (tmStat n) TmStat.Z && d.ff (tmCtl n) TmCtl.IEZ) ||
  (d.ff (tmStat n) TmStat.M0 && d.ff (tmCtl n) TmCtl.IE0) ||
  (d.ff (tmStat n) TmStat.M1 && d.ff (tmCtl n) TmCtl.IE1) ||
  ((d.ff (tmStat n) TmStat.NEAR0 || d.ff (tmStat n) TmStat.NEAR1) && d.ff (tmCtl n) TmCtl.IEN)

/-- The level of a port's event (R147, R159). -/
def Dev.portLevel (d : Dev) (n : Nat) : Bool :=
  d.anyOn (fpStat n) FpStat.CAUSE (fpStat n) FpStat.SIE ||
  (d.ff (fpUart n) FpUart.RXIE && decide ((d.port n).rx ≠ [])) ||
  (d.ff (fpUart n) FpUart.TXIE && decide ((d.port n).tx = []))

/-- Bit `i` of a latched field and of its enables are both set. -/
def Dev.bothBits (d : Dev) (k : Nat) (cause : Span) (k' : Nat) (en : Span) (i : Nat) : Bool :=
  (d.fg k cause).testBit i && (d.fg k' en).testBit i

/-- The level of a TXU event: a TXCAUSE bit with CIE, at the event of the transaction it names (R202). -/
def Dev.txuLevel (d : Dev) (g : Nat) : Bool :=
  (d.ff txCause TxCause.STRAY || d.ff txCause TxCause.LATE || d.ff txCause TxCause.TNEG) &&
  d.ff txCfg TxCfg.CIE && decide (d.fg txCause TxCause.TXN / 4 = g)

/-- The level of a ring event that an Ethernet port uses for its causes (R521, R522): event 8 p + SEV. -/
def Dev.ethLevel (d : Dev) (i : Nat) : Bool :=
  decide (d.fg (etCfg (i / 8)) EtCfg.SEV = i % 8) && d.anyOn (etStat (i / 8)) EtStat.CAUSE (etStat (i / 8)) EtStat.SIE

/-- The level of the record store's event (R204): CAUSE bits, counted from bit 4: 0 JFULL, 1 TORN, 2 WERR, 3 HWM. -/
def Dev.storeLevel (d : Dev) : Bool :=
  let c := d.fg rsStat RsStat.CAUSE
  (d.ff rsJcfg RsJcfg.HIE && (c.testBit 3 || c.testBit 0)) || (d.ff rsJcfg RsJcfg.EIE && (c.testBit 2 || c.testBit 1))

/-- The level of an event that is a level source (R608). -/
def Dev.levelOn (d : Dev) (e : Nat) : Bool :=
  if e < 32 then false
  else if e < 64 then d.anyOn (adStat (e - 32)) AdStat.CAUSE (adCtl (e - 32)) AdCtl.SIE
  else if e < 128 then d.timerLevel (e - 64)
  else if e < 160 then d.portLevel (e - 128)
  else if e < 176 then d.anyOn (chStat (e - 160)) ChStat.CAUSE (chCtl (e - 160)) ChCtl.SIE
  else if e < 184 then d.txuLevel (e - 176)
  else if e < 192 then d.bothBits drStat DrStat.CAUSE drCtl DrCtl.IE (e - 184)
  else if e < 208 then d.ethLevel (e - 192)
  else if e < 210 then d.anyOn (ptStat (e - 208)) PtStat.CAUSE (ptStat (e - 208)) PtStat.SIE
  else if e < 212 then false
  else if e < 220 then d.bothBits scStat ScStat.CAUSE scStat ScStat.SIE (e - 212)
  else if e < 228 then d.bothBits slGev SlGev.CAUSE slGev SlGev.IE (e - 220)
  else if e = 244 then d.storeLevel
  else false

/-- Raise event `e` while its level holds (R449, R608). -/
def Dev.relevel (d : Dev) (e : Nat) : Dev := d.raiseIf (d.levelOn e) e

/-- Clear the pending bit of event `e` in cell `c`; a level source that still holds raises again (R449). -/
def Dev.clearPend (d : Dev) (e c : Nat) : Dev :=
  let k := ecPend c (e / 32)
  (d.fp k EcPend.PEND (setBit (d.fg k EcPend.PEND) (e % 32) false)).relevel e

/-! ### Fault sources (R255) -/

/-- Units of source `k` whose level is active. -/
def Dev.srcLevel (d : Dev) (k : Nat) : Nat := Tab.get 0 d.level k
/-- Units of source `k` that have asserted since the collector last sampled it (R255). -/
def Dev.srcPulse (d : Dev) (k : Nat) : Nat := Tab.get 0 d.pulse k

/-- A pulse of unit `u` on source `k`. While the source is active it is no assertion, but for a unit that comes before the collector samples
the rise (R255, R257). -/
def Dev.pulseSrc (d : Dev) (k u : Nat) : Dev :=
  { d with pulse := if d.srcLevel k = 0 ∨ d.srcPulse k ≠ 0 then Tab.set 0 d.pulse k (d.srcPulse k ||| 2 ^ u) else d.pulse }

/-- Unit `u` of source `k` becomes active: the source's rising edge is held for the collector, with every unit that asserts
before the collector samples it (R255, R257). -/
def Dev.raiseSrc (d : Dev) (k u : Nat) : Dev :=
  if (d.srcLevel k).testBit u then d
  else { d.pulseSrc k u with level := Tab.set 0 d.level k (d.srcLevel k ||| 2 ^ u) }

/-- The class field of source `k` in its register (R286), and its effective class (R253). -/
def clsSpan (k : Nat) : Span := ⟨35 - 3 * (k % 12), 33 - 3 * (k % 12)⟩
def Dev.faultClass (d : Dev) (k : Nat) : Nat := d.fg (fcCls (k / 12)) (clsSpan k)

/-- The collector's own time, in port ticks (DESIGN CHOICE, log 76). -/
def Dev.fcNow (d : Dev) : Nat := d.fc.base + d.tick

/-- A device-fatal source has asserted or deasserted: the quiet timer starts afresh (R268). -/
def Dev.quietRestart (d : Dev) : Dev :=
  ({ d with fc := { d.fc with quietAt := d.fcNow } } : Dev).fp fcStat FcStat.QREM (min 600 (max 1 (d.fg fcRec FcRec.QUIET)))

/-- Unit `u` of source `k` becomes inactive; of a device-fatal source, it restarts the quiet timer (R268). -/
def Dev.dropSrc (d : Dev) (k u : Nat) : Dev :=
  if (d.srcLevel k).testBit u then
    let d1 : Dev := { d with level := Tab.set 0 d.level k (setBit (d.srcLevel k) u false) }
    if 4 ≤ d.faultClass k then d1.quietRestart else d1
  else d

/-! ### Writes on their way to a comparator (R64, R94) -/

/-- A write on its way after one more unit tick. -/
def CmpWrite.age (w : CmpWrite) : CmpWrite := { w with left := w.left - 1 }

/-- The writes that arrive now, and those still on their way. -/
def CmpWrite.here (l : List CmpWrite) : List CmpWrite := l.filter (fun w => decide (w.left ≤ 1))
def CmpWrite.rest (l : List CmpWrite) : List CmpWrite := l.filter (fun w => decide (1 < w.left))

/-! ### Free values -/

/-- The counter that makes each free value of a step a fresh one, advanced. -/
def Dev.next (d : Dev) : Dev := { d with fresh := d.fresh + 1 }

end Sys2Proof.Machine
end

