-- ==== Sys2Proof/Machine/Store.lean ====
section
/-! DEFINITION. The record store (R188-R194, R611): its words, the journal's pointers and entries, the CRC; and the audit
log (R566-R570), which only the security unit writes, with the sessions that gate what it records (R561, R562). -/

namespace Sys2Proof.Machine

/-! ### Words of the record store -/

/-- The bits of a record store word that have flipped since it was written. -/
def Dev.rsFlipped (d : Dev) (a : Nat) : BitVec 80 := Tab.get 0 d.rsFlips a

/-- A word of the record store, as its check leaves it (R38). A word never written reads zero (DESIGN CHOICE, log 4). -/
def Dev.rsRead (d : Dev) (a : Nat) : Word := (flippedWord (Tab.get 0 d.rs a) (d.rsFlipped a)).1

/-- Count words at the MRAM port for the record store (R299). -/
def Dev.rsCount (d : Dev) (n : Nat) : Dev := d.wr (drAct 1) (d.rd (drAct 1) + BitVec.ofNat 72 n)

/-- Write a word of the record store. -/
def Dev.rsWrite (d : Dev) (a : Nat) (w : Word) : Dev :=
  { d.rsCount 1 with rs := Tab.set 0 d.rs a w, rsFlips := Tab.erase d.rsFlips a }

/-- What the check of a record store word finds is reported (R38, R257). -/
def Dev.rsCheck (d : Dev) (a : Nat) : Dev :=
  match (flippedWord (Tab.get 0 d.rs a) (d.rsFlipped a)).2 with
  | 0 => d
  | 1 => d.pulseSrc 167 0
  | _ => d.pulseSrc 168 0

/-- A unit reads `n` words of the record store from `a` on: they are counted and checked (R38, R299). -/
def Dev.rsUsed (d : Dev) (a n : Nat) : Dev := (List.range n).foldl (fun d k => d.rsCheck (a + k)) (d.rsCount n)

/-- First word of the journal's area, and its length: 3 Mi-words (R188). -/
def jBase : Nat := 0x021100000
def jSize : Nat := 0x300000

/-- The journal address `n` words after `a`, wrapping (R191). -/
def jAdd (a n : Nat) : Nat := jBase + (a - jBase + n) % jSize

/-- Write an entry's words from `a` on, wrapping (R191). -/
def Dev.jWrite (d : Dev) (a : Nat) : List Word → Dev
  | [] => d
  | w :: ws => (d.rsWrite a w).jWrite (jAdd a 1) ws

/-- Free words of the journal: (tail - head - 1) modulo 3 Mi, less what is set aside (R191). -/
def Dev.jFree (d : Dev) : Nat :=
  let t := d.fg rsJtail RsJtail.TAIL - jBase
  let h := d.fg rsJhead RsJhead.HEAD - jBase
  (t + jSize - h - 1) % jSize - d.jnl.aside

/-- HWM is set while the free space is below the mark (R204). -/
def Dev.jMark (d : Dev) : Dev :=
  if d.jFree < d.fg rsJcfg RsJcfg.HWM * 1024 then (d.latch rsStat RsStat.CAUSE 3).relevel 244 else d

/-- Give an entry of `n` words its place at the head: its address and lap parity, and the head moved (R191). -/
def Dev.jAlloc (d : Dev) (n : Nat) : (Nat × Nat) × Dev :=
  let h := d.fg rsJhead RsJhead.HEAD
  let wraps := decide (jSize ≤ h - jBase + n)
  let d1 := d.fp rsJhead RsJhead.HEAD (jAdd h n)
  ((h, d.jnl.lap % 2), { d1 with jnl := { d1.jnl with lap := d1.jnl.lap + b2n wraps } }.jMark)

/-- The done limit: the oldest PREP entry without DONE or DISCARD, or the head (R191). -/
def Dev.doneLimit (d : Dev) : Dev :=
  match d.jnl.opens with
  | (_, a, _) :: _ => d.fp rsJlim RsJlim.LIM a
  | [] => d.fp rsJlim RsJlim.LIM (d.fg rsJhead RsJhead.HEAD)

/-! ### CRC-32 (R194) -/

/-- The octets of a word in lane order (R8). -/
def laneOctets (w : Word) : List Nat := (List.range 9).map (fun k => (w.toNat >>> (64 - 8 * k)) % 256)

/-- One bit of the reflected IEEE 802.3 CRC. -/
def crcBit (c : Nat) : Nat := if c % 2 = 1 then (c / 2) ^^^ 0xEDB88320 else c / 2

/-- One octet into the CRC. -/
def crcOctet (c b : Nat) : Nat :=
  crcBit (crcBit (crcBit (crcBit (crcBit (crcBit (crcBit (crcBit (c ^^^ b))))))))

/-- The CRC-32 of words taken as nine octets each in lane order. -/
def crc32 (ws : List Word) : Nat :=
  (ws.foldl (fun c w => (laneOctets w).foldl crcOctet c) 0xFFFFFFFF) ^^^ 0xFFFFFFFF

/-- A word from fields given as (value, low bit). -/
def fields (l : List (Nat × Nat)) : Word := BitVec.ofNat 72 (l.foldl (fun a p => a + p.1 * 2 ^ p.2) 0)

/-- An entry closed by its trailer (R192, R193). -/
def withTrailer (ws : List Word) : List Word := ws ++ [fields [(0xF, 68), (crc32 ws, 32)]]

/-! ### Times (R59, R194) -/

/-- The commit time in 48.24 µs and TLOC: the PTP clock of TXCFG.TPORT when it is locked, otherwise local time (DESIGN CHOICE, log 166). -/
def Dev.commitTime (d : Dev) : Word × Bool :=
  let p := d.fg txCfg TxCfg.TPORT
  if d.ff (ptCtl p) PtCtl.LOCK then
    let t := d.rd (ptTime p)
    let ns := PtTime.NS.get t
    (BitVec.ofNat 72 (((PtTime.SEC.get t * 1000000 + ns / 1000) % 2 ^ 48) * 2 ^ 24 + (ns % 1000) * 2 ^ 24 / 1000), false)
  else (BitVec.ofNat 72 (d.tick * 2 ^ 24 / 100), true)

/-- The boot count (R194). -/
def Dev.bootCount (d : Dev) : Nat := d.fg rsBoot RsBoot.BOOT

/-! ### Sessions (R561, R562) -/

/-- Rights bits of R556. -/
def rightPOPAR : Nat := 0
def rightPIPAR : Nat := 1
def rightPMPAR : Nat := 2
def rightRETCLR : Nat := 3
def rightFLTCLR : Nat := 4
def rightUPDATE : Nat := 5
def rightKEYLOAD : Nat := 6
def rightTAMPCLR : Nat := 7
def rightDBGI : Nat := 8
def rightDBGM : Nat := 9
def rightRESEAL : Nat := 10
def rightREVOKE : Nat := 11
def rightISSUE : Nat := 12
def rightIMGSIGN : Nat := 13

/-- The open session slot of partition `p`, if any (R561). -/
def Dev.sessionOf (d : Dev) (p : Nat) : Option Nat :=
  (List.range 4).find? (fun k => decide (d.fg (ssKstat k) SsKstat.STATE = 2 ∧ d.fg (ssKstat k) SsKstat.PART = p))

/-- Partition `p` holds an open session whose rights include `r` (R562). -/
def Dev.hasRight (d : Dev) (p r : Nat) : Bool :=
  match d.sessionOf p with
  | some k => (d.fg (ssKstat k) SsKstat.RIGHTS).testBit r
  | none => false

/-- Partition `p` holds an installer session with right `r`: ROLE installer or maker (R562). -/
def Dev.installer (d : Dev) (p r : Nat) : Bool :=
  match d.sessionOf p with
  | some k => (d.fg (ssKstat k) SsKstat.RIGHTS).testBit r &&
      decide (d.fg (ssKstat k) SsKstat.ROLE = 1 ∨ d.fg (ssKstat k) SsKstat.ROLE = 2)
  | none => false

/-- A session-gated action of partition `p`: its session's idle time starts afresh (R561). -/
def Dev.sessionActs (d : Dev) (p : Nat) : Dev :=
  match d.sessionOf p with
  | some k => { d with sec := { d.sec with acted := Tab.set 0 d.sec.acted k d.tick } }
  | none => d

/-- ROLE and SERIAL that an entry of partition `p` carries: those of its session's holder, else the device's. -/
def Dev.actor (d : Dev) (p : Nat) : Nat × Nat :=
  match d.sessionOf p with
  | some k => (d.fg (ssKstat k) SsKstat.ROLE, d.fg (ssKser k) SsKser.SER)
  | none => (3, 0)

/-! ### The audit log (R566-R571) -/

/-- The audit log's first word and its entries. -/
def auBase : Nat := 0x021040000
def auSlots : Nat := 60074

/-- The class an entry type counts in: 0 M, 1 I, 2 O, 3 none (R567). -/
def auditClass (t : Nat) : Nat :=
  match t with
  | 0x20 => 0 | 0x21 => 1 | 0x22 => 2 | 0x31 => 1 | 0x33 => 1 | 0x34 => 1 | 0x41 => 0 | 0x50 => 0 | 0x51 => 0 | _ => 3

/-- FREE of R569. -/
def Dev.auFree (d : Dev) : Nat :=
  let e := (d.fg auExp AuExp.EXP - auBase) / 12
  let h := (d.fg auHead AuHead.HEAD - auBase) / 12
  (e + 2 * auSlots - h - 1) % auSlots

/-- Entries promised to transactions that have staged a TPAR and not yet reached a result (R569). -/
def Dev.auPromised (d : Dev) : Nat :=
  d.txns.foldl (fun a e => a + (e.2.items.filter (fun i => match i with | .par _ _ _ => true | _ => false)).length) 0

/-- There is room for an entry that a session gates (R569) (DEDUCED, log 95). -/
def Dev.auRoom (d : Dev) : Bool :=
  decide ((d.fg auCfg AuCfg.RSV : Int) ≤ (d.auFree : Int) - (d.auPromised : Int) - 1)

/-- AUSTAT.FREE follows; AUDLOW when FREE falls to twice the reserve (R569). -/
def Dev.auSync (d : Dev) (fell : Bool) : Dev :=
  let d1 := d.fp auStat AuStat.FREE d.auFree
  if fell && decide (d1.auFree = 2 * d1.fg auCfg AuCfg.RSV) then (d1.latch scStat ScStat.CAUSE 5).relevel 217 else d1

/-- The time floor follows the locked clock (R559). -/
def Dev.floorRefresh (d : Dev) : Dev :=
  let p := d.fg txCfg TxCfg.TPORT
  let s := d.fg (ptTime p) PtTime.SEC
  if d.ff (ptCtl p) PtCtl.LOCK && decide (d.fg scTflr ScTflr.SEC < s) then d.fp scTflr ScTflr.SEC s else d

/-- Octets packed into words in lane order, unused lanes zero (R8). -/
def packOctets (l : List Nat) : Nat → List Word
  | 0 => []
  | n + 1 => BitVec.ofNat 72 (((l.take 9) ++ List.replicate (9 - (l.take 9).length) 0).foldl (fun a o => a * 256 + o % 256) 0)
      :: packOctets (l.drop 9) n

/-- Signing and verifying a message by R535. -/
def pssSign (id : Nat) (key msg : List Nat) : List Nat := rsaSign id key (octets256 (sha256 msg))
def pssVerify (modulus msg sig : List Nat) : Bool := rsaVerify modulus (octets256 (sha256 msg)) sig

/-- The words of a checkpoint record (R571) as the log stands now; the signature is by the key of slot 0. -/
def Dev.checkpoint (d : Dev) : List Word :=
  let t := d.commitTime
  let body : List Word :=
    [fields [(0xC0, 64), ((d.fg auSeq AuSeq.SEQ + 2 ^ 48 - 1) % 2 ^ 48, 0)], t.1,
      fields [(d.bootCount, 40), (b2n t.2, 39)]] ++ packOctets (octets256 d.sec.chain) 4 ++
    [d.rd (scEvc 0), d.rd (scEvc 1), d.rd (scEvc 2), fields [(d.fg scStat ScStat.SEALED, 71)]] ++ packOctets (octets256 d.sec.sd) 4 ++ [0]
  body ++ packOctets (pssSign d.fresh (Tab.get [] d.sec.keys 0) (body.flatMap laneOctets)) 43 ++ List.replicate 5 0

/-- A checkpoint falls due: it is taken now, or after the one being signed (R571) (DEDUCED, log 102). -/
def Dev.checkpointDue (d : Dev) : Dev :=
  match d.sec.ckBusy with
  | some _ => { d with sec := { d.sec with ckDue := true } }
  | none => { d with fresh := d.fresh + 1, sec := { d.sec with ckDue := false, ckBusy := some d.checkpoint } }

/-- Append one entry (R568, R570). With no room left it is counted and not written (R569). -/
def Dev.auditOne (d : Dev) (e : Audit) (jseq : Nat) : Dev :=
  if d.auFree = 0 then d.count auStat AuStat.LOST
  else
    let cls := auditClass e.typ
    let seq := d.fg auSeq AuSeq.SEQ
    let t := d.commitTime
    let cnt : Word := if cls < 3 then d.rd (scEvc cls) + 1 else 0
    let body : List Word :=
      [ fields [(e.typ, 64), (cls, 62), (e.part % 64, 56), (e.role % 4, 54), (seq, 0)], t.1,
        fields [(d.bootCount, 40), (b2n t.2, 39)], fields [(e.serial % 2 ^ 64, 8)], cnt,
        fields [(e.subj % 2 ^ 24, 48), (jseq, 0)], e.old, e.new ]
    let h := sha256 (octets256 d.sec.chain ++ body.flatMap laneOctets)
    let a := auBase + 12 * (seq % auSlots)
    let d1 := (body ++ packOctets (octets256 h) 4).zipIdx.foldl (fun d p => d.rsWrite (a + p.2) p.1) d
    let d2 := if cls < 3 then d1.wr (scEvc cls) cnt else d1
    let seq' := seq + 1
    let d3 := (d2.fp auSeq AuSeq.SEQ seq').fp auHead AuHead.HEAD (auBase + 12 * (seq' % auSlots))
    let cpn := min 14 (max 8 (d.fg auCfg AuCfg.CPN))
    let d3 : Dev := { d3 with sec := { d3.sec with chain := h } }
    let d4 := if seq' % 2 ^ cpn = 0 then d3.checkpointDue else d3
    (if t.2 then d4 else d4.floorRefresh).auSync true

/-- The first 8 octets of a digest in lanes 0-7 (R567). -/
def digest8 (h : BitVec 256) : Word := fields [(h.toNat >>> 192, 8)]

/-- A break of the seal, with its cause: 0 class M, 1 debug, 2 image (R565, R567). -/
def Dev.sealBreak (d : Dev) (cause : Nat) : Dev :=
  if d.ff scStat ScStat.SEALED then
    let sd := digest8 d.sec.sd
    let d1 := d.fp scStat ScStat.SEALED 0
    let d2 := d1.auditOne { typ := 0x50, role := 3, subj := cause, old := sd, new := if cause = 2 then digest8 d.sec.lrd else sd } 0
    (d2.latch scStat ScStat.CAUSE 4).relevel 216
  else d

/-- Append an entry; a class M parameter entry breaks the seal (R565, R568). -/
def Dev.audit (d : Dev) (e : Audit) (jseq : Nat := 0) : Dev :=
  let d1 := d.auditOne e jseq
  if e.typ = 0x20 then d1.sealBreak 0 else d1

end Sys2Proof.Machine
end

