-- ==== Sys2Proof/Machine/Operands.lean ====
section
/-! DEFINITION. Operand forms (R372, R373, R390) and what each op of the A and M slots computes (R377-R387), as functions
of the operand values. -/

namespace Sys2Proof.Machine

/-! ### Operand forms -/

/-- The signed value of the low `n` bits of `v`. -/
def sxNat (n v : Nat) : Int := if v % 2 ^ n < 2 ^ (n - 1) then ((v % 2 ^ n : Nat) : Int) else ((v % 2 ^ n : Nat) : Int) - 2 ^ n

/-- sx(imm) of IMM14 as a word. -/
def sxImm (imm : Nat) : Word := ofInt (sxNat 14 imm)

/-- A data or op address: a register's low 36 bits plus a signed offset, modulo 2^36 (R373). -/
def addr36 (g : Word) (off : Int) : Nat := (((g.toNat % 2 ^ 36 : Nat) : Int) + off).emod (2 ^ 36) |>.toNat

/-- An I/O address (R373). -/
def addr24 (g : Word) (imm : Nat) : Nat := (((g.toNat % 2 ^ 24 : Nat) : Int) + sxNat 14 imm).emod (2 ^ 24) |>.toNat

/-- The op address `n` ops after `a`. -/
def opAdd (a n : Nat) : Nat := (a + n) % 2 ^ 36

/-- The width of an access with its index from a part op's immediate, and its word offset (R390). -/
def Wid.withK (w : Wid) (imm : Nat) : Wid :=
  match w with
  | .word => .word | .half _ => .half (imm % 16) | .quarter _ => .quarter (imm % 16) | .octet _ => .octet (imm % 16)

/-- The index lies in the range of the width (R390). -/
def Wid.valid : Wid → Bool
  | .word => true | .half k => decide (k < 2) | .quarter k => decide (k < 4) | .octet k => decide (k < 9)

/-- Width in bits, and the place of its lowest bit (R7, R8). -/
def Wid.bits : Wid → Nat
  | .word => 72 | .half _ => 36 | .quarter _ => 18 | .octet _ => 8
def Wid.low : Wid → Nat
  | .word => 0 | .half k => 36 - 36 * k | .quarter k => 54 - 18 * k | .octet k => 64 - 8 * k

/-- The part of a word that an access of a width reads, extended. -/
def Wid.extract (w : Wid) (sgnd : Bool) (x : Word) : Word :=
  let v := (x.toNat >>> w.low) % 2 ^ w.bits
  if sgnd then ofInt (sxNat w.bits v) else BitVec.ofNat 72 v

/-- A word with the part of a width replaced by the low bits of `v` (R39). -/
def Wid.insert (w : Wid) (x v : Word) : Word := (⟨w.low + w.bits - 1, w.low⟩ : Span).put x v.toNat

/-- Two accesses to one word overlap in a bit (R422). -/
def Wid.overlaps (a b : Wid) : Bool := decide (a.low < b.low + b.bits ∧ b.low < a.low + a.bits)

/-! ### A slot (R377-R381) -/

/-- Shifts, where a count of 72 or more gives zero or copies of the sign (R379). -/
def shlW (a : Word) (n : Nat) : Word := a <<< n
def shrW (a : Word) (n : Nat) : Word := a >>> n
def sarW (a : Word) (n : Nat) : Word := a.sshiftRight n
/-- Rotation left by `n` modulo 72. -/
def rolW (a : Word) (n : Nat) : Word := a.rotateLeft (n % 72)
/-- Leading zero bits. -/
def clzW (a : Word) : Nat := 72 - (if a.toNat = 0 then 0 else Nat.log2 a.toNat + 1)
/-- One bits. -/
def popW (a : Word) : Nat := popCount a.toNat 72

/-- What an ALU function writes, and the flags it leaves (R377, R378). -/
def Alu.eval (f : Alu) (fl : Flags) (a b : Word) : Word × Flags :=
  match f with
  | .add => (a + b, fl)
  | .sub => (a - b, fl)
  | .addf => addFlags fl a b 0
  | .subf => subFlags fl a b 0
  | .adc => addFlags fl a b (b2n fl.c)
  | .sbc => subFlags fl a b (b2n fl.c)
  | .adds => addSat fl a b
  | .subs => subSat fl a b
  | .and => (a &&& b, fl)
  | .or => (a ||| b, fl)
  | .xor => (a ^^^ b, fl)
  | .andn => (a &&& ~~~ b, fl)
  | .shl => (shlW a (b.toNat % 128), fl)
  | .shr => (shrW a (b.toNat % 128), fl)
  | .sar => (sarW a (b.toNat % 128), fl)
  | .rol => (rolW a (b.toNat % 128), fl)
  | .min => (if sgn a ≤ sgn b then a else b, fl)
  | .max => (if sgn a ≤ sgn b then b else a, fl)
  | .minu => (if a.toNat ≤ b.toNat then a else b, fl)
  | .maxu => (if a.toNat ≤ b.toNat then b else a, fl)
  | .clz => (BitVec.ofNat 72 (clzW a), fl)
  | .popc => (BitVec.ofNat 72 (popW a), fl)
  | .abs => (if sgn a < 0 then 0 - a else a, fl)

/-- What an immediate op of the A slot writes (R377). -/
def AluI.eval (f : AluI) (a : Word) (imm : Nat) : Word :=
  match f with
  | .addi => a + sxImm imm
  | .andi => a &&& BitVec.ofNat 72 (imm % 2 ^ 14)
  | .ori => a ||| BitVec.ofNat 72 (imm % 2 ^ 14)
  | .xori => a ^^^ BitVec.ofNat 72 (imm % 2 ^ 14)
  | .shli => shlW a (imm % 128)
  | .shri => shrW a (imm % 128)
  | .sari => sarW a (imm % 128)
  | .roli => rolW a (imm % 128)

/-- A comparison of two words (R381). -/
def Cmp.eval (f : Cmp) (a b : Word) : Bool :=
  match f with
  | .eq => decide (a = b)
  | .ne => decide (a ≠ b)
  | .lt => decide (sgn a < sgn b)
  | .ge => decide (sgn b ≤ sgn a)
  | .ltu => decide (a.toNat < b.toNat)
  | .geu => decide (b.toNat ≤ a.toNat)
  | .tst => decide (a &&& b ≠ 0)

/-- The immediate of a comparison: sign-extended for EQ, NE, LT and GE, zero-extended for LTU and GEU (R377). -/
def Cmp.imm (f : Cmp) (imm : Nat) : Word :=
  match f with
  | .ltu => BitVec.ofNat 72 (imm % 2 ^ 14)
  | .geu => BitVec.ofNat 72 (imm % 2 ^ 14)
  | _ => sxImm imm

/-- A word built lane by lane (R8). -/
def lanes (f : Nat → Nat) : Word :=
  BitVec.ofNat 72 ((List.range 9).foldl (fun a k => a * 256 + f k % 256) 0)

/-- Lane `k` of a word. -/
def lane (x : Word) (k : Nat) : Nat := (x.toNat >>> (64 - 8 * k)) % 256

/-- The number of values of the index of a part function; 1 where it has none (R380). -/
def Part.ks : Part → Nat
  | .extb => 9 | .extbs => 9 | .insb => 9 | .extq => 4 | .extqs => 4 | .insq => 4
  | .exth => 2 | .exths => 2 | .insh => 2 | .beqm => 1 | .bswap => 1 | .ladd => 1 | .lsub => 1

/-- What a part function writes (R380). -/
def Part.eval (f : Part) (k : Nat) (a b : Word) : Word :=
  match f with
  | .extb => (Wid.octet k).extract false a
  | .extbs => (Wid.octet k).extract true a
  | .insb => (Wid.octet k).insert b a
  | .extq => (Wid.quarter k).extract false a
  | .extqs => (Wid.quarter k).extract true a
  | .insq => (Wid.quarter k).insert b a
  | .exth => (Wid.half k).extract false a
  | .exths => (Wid.half k).extract true a
  | .insh => (Wid.half k).insert b a
  | .beqm => BitVec.ofNat 72 ((List.range 9).foldl (fun m j => m + b2n (decide (lane a j = lane b j)) * 2 ^ j) 0)
  | .bswap => lanes (fun j => lane a (8 - j))
  | .ladd => lanes (fun j => lane a j + lane b j)
  | .lsub => lanes (fun j => lane a j + 256 - lane b j)

/-- What a predicate function writes (R381). -/
def PredFn.eval (f : PredFn) (a b : Bool) : Bool :=
  match f with
  | .pand => a && b
  | .por => a || b
  | .pxor => Bool.xor a b
  | .pandn => a && !b
  | .pnot => !a

/-! ### M slot (R382-R384) -/

/-- The signed and the unsigned product of two words, modulo 2^144. -/
def prodS (a b : Word) : BitVec 144 := BitVec.ofInt 144 (sgn a * sgn b)
def prodU (a b : Word) : BitVec 144 := BitVec.ofNat 144 (a.toNat * b.toNat)

/-- What a multiply op changes (R382): product register `d`, or for MULL a general register. -/
def Mul.eff (f : Mul) (d : Nat) (a b : Word) : Eff :=
  match f with
  | .muls => .p (d % 4) (prodS a b)
  | .mulu => .p (d % 4) (prodU a b)
  | .macs => .pAdd (d % 4) (prodS a b)
  | .macu => .pAdd (d % 4) (prodU a b)
  | .msus => .pAdd (d % 4) (0 - prodS a b)
  | .mull => .g d (a * b)

/-- Bits [n + 71 : n] of a product register, with copies of bit 143 above it (R384). -/
def bitsFrom (p : BitVec 144) (n : Nat) : Word := BitVec.ofInt 72 (p.toInt / 2 ^ n)

/-- Bits [n + 71 : n] of the register plus half a unit, rounding a half step up (R384). -/
def bitsFromR (p : BitVec 144) (n : Nat) : Word := BitVec.ofInt 72 ((p.toInt + 2 ^ (n - 1)) / 2 ^ n)

/-- What a product register move changes (R383): `pv` is the register that s1 names, `g` the value of s1. -/
def PMov.eff (f : PMov) (d n : Nat) (pv : BitVec 144) (g : Word) : Eff :=
  match f with
  | .mfph => .g d (pv.extractLsb' 72 72)
  | .mfpl => .g d (pv.extractLsb' 0 72)
  | .mtph => .pHi (d % 4) g
  | .mtpl => .pLo (d % 4) g
  | .mfpx => .g d (bitsFrom pv n)
  | .mfpxr => .g d (bitsFromR pv n)

/-- The constant that LIMM builds from V and MODE (R356); `old` is the destination's present value. -/
def limmVal (mode v : Nat) (old : Word) : Word :=
  match mode with
  | 0 => ofInt (sxNat 52 v)
  | 1 => BitVec.ofNat 72 (v % 2 ^ 52)
  | 2 => BitVec.ofNat 72 (v % 2 ^ 52 * 2 ^ 20)
  | _ => BitVec.ofNat 72 (v % 2 ^ 52 * 2 ^ 20 + old.toNat % 2 ^ 20)

/-! ### Long ops (R385, R386) -/

/-- What a long op leaves when it completes: its value, DZ and SV to set, and its exception, 0 for none. -/
structure LongR where
  eff : Eff
  dz  : Bool := false
  sv  : Bool := false
  exc : Nat := 0
deriving DecidableEq, Repr

/-- The integer square root, bit by bit from bit `n - 1`. -/
def isqrt (x : Nat) : Nat → Nat → Nat
  | 0, r => r
  | n + 1, r => if (r + 2 ^ n) * (r + 2 ^ n) ≤ x then isqrt x n (r + 2 ^ n) else isqrt x n r

/-- The signed quotient of `a` by `b`, truncated, by the rules of R386 for a zero divisor and for saturation. -/
def quotW (a b : Int) : Word := if b = 0 then ofInt (if 0 ≤ a then maxS else minS) else clampS (a.tdiv b)

/-- A signed quotient with the flags of R386. -/
def quotS (d : Nat) (a b : Int) : LongR := ⟨.g d (quotW a b), decide (b = 0), decide (b ≠ 0) && outS (a.tdiv b), 0⟩

/-- DIV. -/
def longDIV (d : Nat) (a b : Word) : LongR := quotS d (sgn a) (sgn b)
/-- DIVU. -/
def longDIVU (d : Nat) (a b : Word) : LongR :=
  if b = 0 then ⟨.g d (BitVec.allOnes 72), true, false, 0⟩ else ⟨.g d (BitVec.ofNat 72 (a.toNat / b.toNat)), false, false, 0⟩
/-- REM: s1 less the product of what DIV gives and s2, which is s1 for a zero divisor (R385, R386). -/
def longREM (d : Nat) (a b : Word) : LongR := ⟨.g d (a - quotW (sgn a) (sgn b) * b), decide (b = 0), false, 0⟩
/-- REMU (DEDUCED, log 59). -/
def longREMU (d : Nat) (a b : Word) : LongR :=
  if b = 0 then ⟨.g d a, true, false, 0⟩ else ⟨.g d (BitVec.ofNat 72 (a.toNat % b.toNat)), false, false, 0⟩
/-- DIVQ. -/
def longDIVQ (d : Nat) (a b : Word) : LongR := quotS d (sgn a * 2 ^ 24) (sgn b)

/-- The trapping form of a divide: the divide exception where s2 is zero, with DZ set (R386, R431). -/
def trapDiv (b : Word) (r : LongR) : LongR := if b = 0 then { r with exc := 0x0D } else r

/-- XMUL: the signed product of a product register and a word (R385). -/
def longXMUL (d : Nat) (a : BitVec 144) (b : Word) : LongR := ⟨.p (d % 4) (BitVec.ofInt 144 (a.toInt * sgn b)), false, false, 0⟩

/-- XMULT: as XMUL, with the overflow exception. -/
def longXMULT (d : Nat) (a : BitVec 144) (b : Word) : LongR :=
  let x := a.toInt * sgn b
  if x < -(2 ^ 143) ∨ 2 ^ 143 - 1 < x then { longXMUL d a b with exc := 0x0E } else longXMUL d a b

/-- SQRTU and SQRTQ. -/
def longSQRTU (d : Nat) (a : Word) : LongR := ⟨.g d (BitVec.ofNat 72 (isqrt a.toNat 36 0)), false, false, 0⟩
def longSQRTQ (d : Nat) (a : Word) : LongR := ⟨.g d (BitVec.ofNat 72 (isqrt (a.toNat * 2 ^ 24) 48 0)), false, false, 0⟩

/-- What a long op leaves: `a` holds s1 in its low 72 bits, or the product register for XMUL. -/
def Long.run (f : Long) (d : Nat) (a : BitVec 144) (b : Word) : LongR :=
  let x : Word := a.extractLsb' 0 72
  match f with
  | .xmul => longXMUL d a b
  | .xmult => longXMULT d a b
  | .div => longDIV d x b
  | .divu => longDIVU d x b
  | .rem => longREM d x b
  | .remu => longREMU d x b
  | .divq => longDIVQ d x b
  | .divt => trapDiv b (longDIV d x b)
  | .divut => trapDiv b (longDIVU d x b)
  | .remt => trapDiv b (longREM d x b)
  | .remut => trapDiv b (longREMU d x b)
  | .divqt => trapDiv b (longDIVQ d x b)
  | .sqrtu => longSQRTU d x
  | .sqrtq => longSQRTQ d x

/-! ### CRCB (R396) -/

/-- One word into the reflected CRC-32 register, nine octets in lane order. -/
def crcWord (c : Nat) (w : Word) : Nat := (laneOctets w).foldl crcOctet (c % 2 ^ 32)

end Sys2Proof.Machine
end

