-- ==== Sys2Proof/Machine/Energy.lean ====
section
/-! DEFINITION. The ditch rider's joule accounts (R307-R310). -/

namespace Sys2Proof.Machine

/-- 0.1 µJ units as 48.24 µJ. -/
def tenthUJ (n : Nat) : Nat := n * 2 ^ 24 / 10

/-- The efficiency, in per cent (R323). -/
def Dev.eta (d : Dev) : Nat := min 100 (max 50 (d.fg drCostC DrCostC.ETA))

/-- Usable energy E_U in 48.24 µJ (R307): C_L = 0.95 C_m, V_L = 0.99 HOLD; C_m in µF, HOLD in mV. -/
def Dev.usable (d : Dev) : Nat :=
  let h := d.fg drMeas DrMeas.HOLD
  let v2 := 9801 * h * h
  let floor2 := 36000000 * 10000
  if !d.rider.bankOk || decide (v2 ≤ floor2) then 0
  else d.eta * 95 * d.fg drBstat DrBstat.CAP * (v2 - floor2) * 2 ^ 24 / (200 * 100 * 1000000 * 10000)

/-- A step that ends the plan: END, or a reserved operation (R311). -/
def endsPlan (op : Nat) : Bool := decide (op = 0 ∨ 13 ≤ op)

/-- Plan energy from step `k` on: EJ of the steps before the first END, in 10 mJ; `fuel` steps remain. -/
def Dev.planFrom (d : Dev) (k : Nat) : Nat → Nat
  | 0 => 0
  | fuel + 1 =>
    if endsPlan (d.fg (drSp k) DrSp.OP) then 0 else d.fg (drSp k) DrSp.EJ + d.planFrom (k + 1) fuel

/-- E_PLAN in 48.24 µJ. -/
def Dev.planEnergy (d : Dev) : Nat := d.planFrom 0 16 * 10000 * 2 ^ 24

/-- E_SYS in 48.24 µJ. -/
def Dev.sysEnergy (d : Dev) : Nat := tenthUJ (d.fg drCostC DrCostC.ESYS)

/-- The reservations held, in 0.1 µJ. -/
def Dev.reserved (d : Dev) : Nat := (List.range 32).foldl (fun a n => a + (d.txn n).cost) 0

/-- The threshold of the LOW cause in 48.24 µJ (R309, R323). -/
def Dev.lowLimit (d : Dev) : Int :=
  let b := d.fg drCostC DrCostC.LOWB
  if b = 0 then 0 else ((2 ^ b * 2 ^ 24 : Nat) : Int)

/-- The margin in 48.24 µJ. -/
def Dev.margin (d : Dev) : Nat := d.usable * min 50 (d.fg drCostC DrCostC.MARG) / 100

/-- Recompute the accounts and the LOW cause (R307, R309). -/
def Dev.accounts (d : Dev) : Dev :=
  let u := d.usable
  let res := tenthUJ d.reserved
  let obl := d.planEnergy + d.sysEnergy + d.margin + res
  let avl : Int := (u : Int) - (obl : Int)
  let d1 := (((d.wr drUse (BitVec.ofNat 72 u)).wr drObl (BitVec.ofNat 72 obl)).wr drResv (BitVec.ofNat 72 res)).wr drAvl (ofInt avl)
  if avl < 0 ∨ avl < d.lowLimit then (d1.latch drStat DrStat.CAUSE 3).relevel 187 else d1

end Sys2Proof.Machine
end

