-- ==== Sys2Proof/Machine/Memory.lean ====
section
/-! DEFINITION. The data space (R28, R29, R473): what an unlisted word reads as, reads and writes that keep the canonical
form, which target an address reaches, and the check code of a word on its way (R37-R39, R477, R478). Which bits flip, in a memory
or on the way, are operands of the commands that move words. -/

namespace Sys2Proof.Machine

/-- A word of a pattern at address `a`, where it is known: the checkerboard goes by the parity of the address, the stripe by
the parity of the DRAM row (R278, R474). -/
def Pat.at? (p : Pat) (a : Nat) : Option Word :=
  match p with
  | .const w => some w
  | .checker inv => some (if decide (a % 2 = 0) != inv then 0x555555555555555555 else 0xAAAAAAAAAAAAAAAAAA)
  | .stripe inv => some (if decide ((a - 0x100000000) / 8192 % 2 = 0) != inv then 0 else BitVec.allOnes 72)
  | .lost _ => none

/-- A word of a pattern. -/
def Pat.word (p : Pat) (a : Nat) : Word :=
  match p with
  | .lost id => Config.lostWord id a
  | p => (p.at? a).getD 0

/-- The newest fill that covers an address. -/
def Mem.cover (m : Mem) (a : Nat) : Option Fill := m.fills.find? (fun f => decide (f.lo ≤ a ∧ a ≤ f.hi))

/-- What an unlisted address reads as: the newest fill that covers it, else zero. -/
def Mem.rest (m : Mem) (a : Nat) : Word :=
  match m.cover a with
  | some f => f.pat.word a
  | none => 0

/-- The bits that have flipped in a word that no entry names. -/
def Mem.restFlip (m : Mem) (a : Nat) : BitVec 80 :=
  match m.cover a with
  | some f => f.flip
  | none => 0

/-- The bits that have flipped in a word. -/
def Mem.flipped (m : Mem) (a : Nat) : BitVec 80 := Tab.get (m.restFlip a) m.flips a

/-- The value of an unlisted address, where it is known. -/
def Mem.known (m : Mem) (a : Nat) : Option Word :=
  match m.cover a with
  | some f => f.pat.at? a
  | none => some 0

/-- A word of memory (DESIGN CHOICE, log 35). -/
def Mem.rd (m : Mem) (a : Nat) : Word := Tab.get (m.rest a) m.cells a

/-- Write a word: writing what the unlisted address is known to read as removes the entry. -/
def Mem.wr (m : Mem) (a : Nat) (w : Word) : Mem :=
  { m with cells := if m.known a = some w then Tab.erase m.cells a else Tab.ins m.cells a w, flips := Tab.set (m.restFlip a) m.flips a 0 }

/-- Fill a range with a pattern, whose words differ from its code words in the bits `flip`. -/
def Mem.fill (m : Mem) (lo hi : Nat) (p : Pat) (flip : BitVec 80 := 0) : Mem :=
  { m with cells := m.cells.filter (fun e => decide (e.1 < lo ∨ hi < e.1)), fills := ⟨lo, hi, p, flip⟩ :: m.fills,
           flips := m.flips.filter (fun e => decide (e.1 < lo ∨ hi < e.1)) }

/-- The canonical form: keys rise, and no entry, of a word or of its flipped bits, equals what its address is known to hold unlisted; in the xSPI
memory that is the erased word. -/
def Mem.wf (m : Mem) : Bool :=
  Tab.sorted m.cells && m.cells.all (fun e => decide (m.known e.1 ≠ some e.2)) && Tab.wf (BitVec.allOnes 72) m.nor &&
    Tab.sorted m.flips && m.flips.all (fun e => decide (e.2 ≠ m.restFlip e.1))

/-! ### The map (R28, R31) -/

/-- First word of the local data SRAM of cell `c` at its alias, and of its local instruction SRAM. -/
def aliasOf (c : Nat) : Nat := 0x008000000 + 0x4000 * c
def isramOf (c : Nat) : Nat := 0x1000000000 + 0x4000 * c
/-- First word of a furrow SRAM. -/
def fsramOf (f : Nat) : Nat := 0x001000000 + 0x40000 * f
def codeBase : Nat := 0x020000000
def recBase : Nat := 0x021000000
def dramBase : Nat := 0x100000000

/-- Words of DRAM (R28). -/
def Dev.dramSize (d : Dev) : Nat := if d.isH then 0x30000000 else 0x60000000

/-- A target of the data space. -/
inductive Target where
  | localData (c : Nat)
  | furrow (f : Nat)
  | code
  | record
  | dram
deriving DecidableEq, Repr

/-- The target that a physical data address reaches; none where no present unit claims it (R490). -/
def Dev.targetOf (d : Dev) (a : Nat) : Option Target :=
  if 0x001000000 ≤ a ∧ a < 0x001400000 then
    (if d.furHere ((a - 0x001000000) / 0x40000) then some (.furrow ((a - 0x001000000) / 0x40000)) else none)
  else if 0x008000000 ≤ a ∧ a < 0x008100000 then
    (if d.cellHere ((a - 0x008000000) / 0x4000) then some (.localData ((a - 0x008000000) / 0x4000)) else none)
  else if 0x020000000 ≤ a ∧ a < 0x020800000 then some .code
  else if 0x021000000 ≤ a ∧ a < 0x021400000 then some .record
  else if dramBase ≤ a ∧ a < dramBase + d.dramSize then some .dram
  else none

/-- The sluice in front of a target (R497). -/
def Target.sluice : Target → Nat
  | .localData c => c
  | .furrow f => 64 + f
  | .code => 80
  | .record => 81
  | .dram => 82

/-- Read a word that a target holds. -/
def State.rdWord (s : State) (a : Nat) : Word :=
  if 0x021000000 ≤ a ∧ a < 0x021400000 then s.dev.rsRead a
  else match s.dev.targetOf a with
  | some (.localData c) => s.mem.rd (aliasOf (s.dev.lead c) + a % 0x4000)
  | _ => s.mem.rd a

/-- The machine with another device part. -/
def State.onDev (s : State) (d : Dev) : State := { s with dev := d }

/-- Count `n` words at the port of a target (R299). -/
def Dev.countTarget (d : Dev) (t : Target) (n : Nat) : Dev :=
  match t with
  | .code => d.wr (drAct 0) (d.rd (drAct 0) + BitVec.ofNat 72 n)
  | .record => d.wr (drAct 1) (d.rd (drAct 1) + BitVec.ofNat 72 n)
  | .dram => d.wr (drAct 2) (d.rd (drAct 2) + BitVec.ofNat 72 n)
  | _ => d

/-- The number of a DRAM bank: channel and bank in the channel of word `a` (R474). -/
def bankOf (a : Nat) : Nat := (a - dramBase) / 128 % 4 * 16 + (a - dramBase) / 512 % 16

/-- Refresh of a bank: for 180 ns its accesses wait; the banks of a channel take turns (R475) (DESIGN CHOICE, log 105). -/
def Dev.refreshBank (d : Dev) (b : Nat) : Dev :=
  if (List.range 16).any (fun k => decide (d.tick < Tab.get 0 d.refr (b / 16 * 16 + k))) then d
  else { d with refr := Tab.set 0 d.refr b (d.tick + 18) }

/-- A bank idle for 1 µs closes its row (R475). -/
def Dev.closeRow (d : Dev) (b : Nat) : Dev := { d with rows := Tab.set 0 d.rows b 0 }

/-- An access to the word at `a` waits for the refresh of its bank (R475). -/
def Dev.refreshing (d : Dev) (a : Nat) : Bool := decide (d.targetOf a = some .dram ∧ d.tick < Tab.get 0 d.refr (bankOf a))

/-- A DRAM access to `n` words from `a` on leaves the rows that it touches open, each in its bank (R474, R475). -/
def Dev.openRow (d : Dev) (a n : Nat) : Dev :=
  { d with rows := (List.range ((a + n - 1) / 128 + 1 - a / 128)).foldl (fun t k =>
      let b := a / 128 * 128 + 128 * k
      Tab.set 0 t (bankOf b) ((b - dramBase) / 8192 + 1)) d.rows }

/-- An access to `n` words from `a` on at a target's port. -/
def Dev.portAccess (d : Dev) (t : Target) (a n : Nat) : Dev :=
  match t with
  | .dram => (d.countTarget t n).openRow a n
  | _ => d.countTarget t n

/-- Write a word; a write through the alias reaches every member of the cell's group (R29). The record store is written only
by its own writers (R483). -/
def State.wrWord (s : State) (a : Nat) (w : Word) : State :=
  match s.dev.targetOf a with
  | some (.localData c) => { s with mem := (s.dev.mates c).foldl (fun m k => m.wr (aliasOf k + a % 0x4000) w) s.mem }
  | some .record => s
  | some _ => { s with mem := s.mem.wr a w }
  | none => s

/-- The words of a buffer. -/
def State.rdWords (s : State) (a : Nat) (n : Nat) : List Word := (List.range n).map (fun k => s.rdWord (a + k))

/-- Write words from `a` on. -/
def State.wrWords (s : State) (a : Nat) : List Word → State
  | [] => s
  | w :: ws => (s.wrWord a w).wrWords (a + 1) ws

/-! ### Words on their way (R37-R39, R478) -/

/-- Ditch ports, in the order of R32 (DEDUCED, log 183). -/
def dpMRAM : Nat := 20
def dpETH : Nat := 21
def dpTXU : Nat := 22
def dpSEC : Nat := 23
def dpDEBUG : Nat := 25

/-- The ditch port of the target of `a`. -/
def Dev.portOf (d : Dev) (a : Nat) : Nat :=
  match d.targetOf a with
  | some (.localData c) => c / 4
  | some (.furrow f) => f
  | some .dram => 16 + (a - dramBase) / 128 % 4
  | _ => dpMRAM

/-- The correctable source of a target's memory, which the uncorrectable one follows, and its unit (R257). -/
def Dev.memSource (d : Dev) (a : Nat) : Nat × Nat :=
  if isramOf 0 ≤ a ∧ a < isramOf 64 then (159, (a - isramOf 0) / 0x4000)
  else match d.targetOf a with
  | some (.localData c) => (159, c)
  | some (.furrow f) => (161, f)
  | some .dram => (163, (a - dramBase) / 128 % 4)
  | some .code => (165, 0)
  | some .record => (167, 0)
  | none => (169, 0)

/-- Report what a check found: 0 nothing, 1 a corrected error, of source `k`, 2 an uncorrectable one, of the source after it. -/
def Dev.found (d : Dev) (e k u : Nat) : Dev :=
  match e with
  | 0 => d
  | 1 => d.pulseSrc k u
  | _ => d.pulseSrc (k + 1) u

/-- Where the word that address `a` reaches is held: a group's local data SRAM is its lead's (R29). -/
def Dev.homeOf (d : Dev) (a : Nat) : Nat :=
  match d.targetOf a with
  | some (.localData c) => aliasOf (d.lead c) + a % 0x4000
  | _ => a

/-- The bits that have flipped in the word at `a`. -/
def State.flipsAt (s : State) (a : Nat) : BitVec 80 :=
  if recBase ≤ a ∧ a < recBase + 0x400000 then s.dev.rsFlipped a else s.mem.flipped (s.dev.homeOf a)

/-- The bits `f` of the word at `a` flip where it is stored. -/
def State.strike (s : State) (a : Nat) (f : BitVec 80) : State :=
  if f = 0 then s
  else if recBase ≤ a ∧ a < recBase + 0x400000 then
    { s with dev := { s.dev with rsFlips := Tab.set 0 s.dev.rsFlips a (s.dev.rsFlipped a ^^^ f) } }
  else { s with mem := { s.mem with flips := Tab.set (s.mem.restFlip (s.dev.homeOf a)) s.mem.flips (s.dev.homeOf a) (s.flipsAt a ^^^ f) } }

/-- Read the word at `a` as its memory gives it: the check at its source corrects one bit and marks two as poison (R38). The word,
whether it is poisoned, and the machine. -/
def State.memWord (s : State) (a : Nat) : Word × Bool × State :=
  let r := flippedWord (if recBase ≤ a ∧ a < recBase + 0x400000 then Tab.get 0 s.dev.rs a else s.rdWord a) (s.flipsAt a)
  let q := s.dev.memSource a
  (r.1, decide (r.2 = 2), { s with dev := s.dev.found r.2 q.1 q.2 })

/-- The word at `a` reaches its requester at ditch port `p`, none where it stays off the ditch, while the bits `f` of it flip on the way
(R38, R478): a poisoned word is not judged again. -/
def State.takeWord (s : State) (a : Nat) (p : Option Nat) (f : BitVec 80) : Word × Bool × State :=
  let r := s.memWord a
  match p with
  | none => r
  | some q =>
    if r.2.1 then r
    else
      let e := flippedWord r.1 f
      (e.1, decide (e.2 = 2), { r.2.2 with dev := r.2.2.dev.found e.2 169 q })

/-- The flips of a command fall on word `k` of its access. -/
def flipOn (f : Flips) (b : BitVec 80) (k : Nat) : BitVec 80 := if k = f.word then b else 0

/-- `n` words from `a` on reach the requester at port `p`: the words, those that are poisoned, as a mask, and the machine. -/
def State.takeWords (s : State) (a n : Nat) (p : Option Nat) (f : Flips) : List Word × Nat × State :=
  (List.range n).foldl (fun r k =>
    let q := (r.2.2.strike (a + k) (flipOn f f.mem k)).takeWord (a + k) p (flipOn f f.path k)
    (r.1 ++ [q.1], if q.2.1 then r.2.1 + 2 ^ k else r.2.1, q.2.2)) ([], 0, s)

/-- Octets in lane order from `a` on (R503). -/
def State.rdOctets (s : State) (a len : Nat) : List Nat :=
  ((s.rdWords a ((len + 8) / 9)).flatMap laneOctets).take len

end Sys2Proof.Machine
end

