-- ==== Sys2Proof/Machine/Sluice.lean ====
section
/-! DEFINITION. Sluice gates (R481-R499): the fixed rules, the region check, the violation record, the editing of rules, and
the requests in flight. -/

namespace Sys2Proof.Machine

/-- Requester classes (R481). -/
def clsCELL : Nat := 0
def clsDMA : Nat := 1
def clsDEBUG : Nat := 2
def clsSYSTEM : Nat := 3

/-- Access kinds: as SLVIOL.ACC, with a code prefetch beside them. -/
inductive Kind where
  | read | write | fetch | walk | prefetch
deriving DecidableEq, Repr

/-- ACC of SLVIOL (R499). -/
def Kind.acc : Kind → Nat
  | .read => 0 | .write => 1 | .fetch => 2 | .walk => 3 | .prefetch => 2

/-- A request at a sluice (R481): `part'` marks a store of less than a word, `req` the lead cell or DMA engine. -/
structure Req where
  cls  : Nat
  pl   : Nat := 0
  pg   : Nat := 0
  part : Nat := 0
  req  : Nat := 0
  kind : Kind
  addr : Nat
  n    : Nat := 1
  part' : Bool := false
deriving DecidableEq, Repr

/-- The attributes that a permitted access returns (R487). -/
structure Attr where
  base : Nat
  k    : Nat
  c    : Bool
  wa   : Bool
  ord  : Nat
deriving DecidableEq, Repr

/-- The answer of a sluice. -/
inductive Gate where
  | permit (a : Attr)
  | decline
  /-- kind and region of SLVIOL -/
  | refuse (kind rgn : Nat)
deriving DecidableEq, Repr

/-! ### Kinds of refusal (R499) -/
def vNOREG : Nat := 1
def vSTRADDLE : Nat := 2
def vCLASS : Nat := 3
def vRIGHTS : Nat := 4
def vGROUP : Nat := 5
def vFIXED : Nat := 6
def vSEAL : Nat := 7
def vUNMAPPED : Nat := 8
def vOVERLAP : Nat := 9

/-! ### Regions -/

/-- K of a region's attribute word. -/
def regK (w : Word) : Nat := SlAttr.K.get w

/-- ORD, of which 3 acts as 2 (R499). -/
def regOrd (w : Word) : Nat := min 2 (SlAttr.ORD.get w)

/-- Region `r` of sluice `s` is enabled and contains address `a`. -/
def Dev.regionHas (d : Dev) (s r a : Nat) : Bool :=
  let w := d.rd (slAttr s r)
  let b := d.fg (slBase s r) SlBase.BASE
  decide (SlAttr.EN.get w ≠ 0) && decide (b ≤ a ∧ a < b + 2 ^ regK w)

/-- The enabled regions of sluice `s` that contain `a`, ascending. -/
def Dev.regionsAt (d : Dev) (s a : Nat) : List Nat := (List.range 8).filter (fun r => d.regionHas s r a)

/-- The right for a privilege level and a kind: bits from bit 8 of RIGHTS down RU, WU, XU, RS, WS, XS, RM, WM, XM. -/
def rightBit (pl : Nat) (i : Nat) : Nat := 8 - 3 * min 2 pl - i

/-- The rights a request needs: X for a fetch or prefetch, R for reads and walks, W for writes, R and W for part stores. -/
def Req.allowed (r : Req) (rights : Nat) : Bool :=
  match r.kind with
  | .read => rights.testBit (rightBit r.pl 0)
  | .walk => rights.testBit (rightBit r.pl 0)
  | .write => rights.testBit (rightBit r.pl 1) && (!r.part' || rights.testBit (rightBit r.pl 0))
  | .fetch => rights.testBit (rightBit r.pl 2)
  | .prefetch => rights.testBit (rightBit r.pl 2)

/-- The class bit of a region: CELL and DMA in SLPERM, DBG in SLATTR (R499). -/
def classBit (cls : Nat) (perm attr : Word) : Bool :=
  match cls with
  | 0 => decide (SlPerm.CELL.get perm ≠ 0)
  | 1 => decide (SlPerm.DMA.get perm ≠ 0)
  | 2 => decide (SlAttr.DBG.get attr ≠ 0)
  | _ => true

/-- The debug state is the maker's (R582). -/
def Dev.makerDebug (d : Dev) : Bool := decide (d.fg dbStat DbStat.STATE = 2)

/-- The fixed rules refuse a request at sluice `s` (R483); system-class requests are checked where they are made. -/
def Req.fixed (r : Req) (s : Nat) : Bool :=
  decide (r.kind = .write) && decide (r.cls ≠ clsSYSTEM) && decide (s = 80 ∨ s = 81)

/-- The decision of sluice `s` on a request (R484, R486, R487). In the factory debug state every access passes (R580). -/
def Dev.gate (d : Dev) (s : Nat) (r : Req) : Gate :=
  if r.cls = clsSYSTEM then .permit ⟨0, 36, false, false, 2⟩
  else if r.fixed s then .refuse vFIXED 0
  else if r.cls = clsDEBUG ∧ d.fg dbStat DbStat.STATE = 3 then .permit ⟨0, 36, false, false, 2⟩
  else
    match d.regionsAt s r.addr with
    | [] => .refuse vNOREG 0
    | g :: more =>
      let attr := d.rd (slAttr s g)
      let perm := d.rd (slPerm s g)
      let base := d.fg (slBase s g) SlBase.BASE
      if more ≠ [] then .refuse vOVERLAP g
      else if base + 2 ^ regK attr < r.addr + r.n then .refuse vSTRADDLE g
      else if r.kind = .walk ∧ (SlAttr.WALK.get attr = 0 ∨ regOrd attr = 2) then .decline
      else if !classBit r.cls perm attr then .refuse vCLASS g
      else if r.cls ≠ clsDEBUG ∧ ¬ (SlPerm.PGM.get perm).testBit r.pg then .refuse vGROUP g
      else if r.cls = clsDEBUG ∧ SlAttr.SEAL.get attr ≠ 0 ∧ ¬ d.makerDebug then .refuse vSEAL g
      else if !r.allowed (SlPerm.RIGHTS.get perm) then .refuse vRIGHTS g
      else
        let c := decide (SlAttr.C.get attr ≠ 0 ∧ regOrd attr ≠ 2 ∧ 80 ≤ s ∧ s ≤ 82)
        .permit ⟨base, regK attr, c, c && decide (SlAttr.WA.get attr ≠ 0), regOrd attr⟩

/-! ### The violation record (R490, R491) -/

/-- The group of a sluice (R497). -/
def slGroup (s : Nat) : Nat :=
  if s < 32 then 0 else if s < 64 then 1 else if s < 80 then 2 else if s < 82 then 3 else if s = 82 then 4
  else if s < 91 then 5 else if s < 99 then 6 else 7

/-- Record a refusal of sluice `s`, and assert FS180 with its group as unit (R491). -/
def Dev.violate (d : Dev) (s : Nat) (r : Req) (kind rgn : Nat) : Dev :=
  let g := slGroup s
  let d1 :=
    if d.ff (slViol s) SlViol.V then d.count (slViol s) SlViol.CNT
    else
      let rg := if kind = vNOREG ∨ kind = vFIXED ∨ kind = vUNMAPPED then 0 else rgn
      let w := fields [(1, 35), (kind, 31), (rg, 28), (r.cls, 26), (r.pl % 4, 24), (r.kind.acc, 22), (r.part, 16), (r.req % 64, 10)]
      ((d.wr (slViol s) w).fp (slVadr s) SlVadr.ADR r.addr).latch slGev SlGev.CAUSE g |>.relevel (220 + g)
  d1.pulseSrc 180 g

/-- A recorded refusal: nothing is recorded of a declined walk or prefetch (R489, R490). -/
def Dev.refused (d : Dev) (s : Nat) (r : Req) (kind rgn : Nat) : Dev :=
  if r.kind = .prefetch then d
  else if r.kind = .walk ∧ kind = vUNMAPPED then d
  else d.violate s r kind rgn

/-- A request for physical data address `r.addr`: the target's sluice decides, and a refusal is recorded (R484, R489). -/
def Dev.ask (d : Dev) (r : Req) : Gate × Dev :=
  match d.targetOf r.addr with
  | none => (if r.kind = .walk ∨ r.kind = .prefetch then .decline else .refuse vUNMAPPED 0, d.refused 99 r vUNMAPPED 0)
  | some t =>
    match d.gate t.sluice r with
    | .permit a => (.permit a, d)
    | .decline => (.decline, d)
    | .refuse k g => (if r.kind = .prefetch then .decline else .refuse k g, d.refused t.sluice r k g)

/-- The sluice of an I/O block (R497); the cell-local block has none. -/
def ioSluice (a : Nat) : Option Nat :=
  let b := a / 0x10000
  if 1 ≤ b ∧ b ≤ 15 then some (82 + b) else if b = 17 then some 98 else none

/-- A request for an I/O register: outside every block it is unmapped (R15, R490). -/
def Dev.askIo (d : Dev) (r : Req) : Bool × Dev :=
  if !inBlock r.addr then (false, d.refused 99 r vUNMAPPED 0)
  else match ioSluice r.addr with
  | none => (true, d)
  | some s =>
    match d.gate s r with
    | .permit _ => (true, d)
    | .decline => (false, d)
    | .refuse k g => (false, d.refused s r k g)

/-! ### Requests in flight (R495) -/

/-- A request accepted by sluice `s`: its number, and the machine with it in flight (DESIGN CHOICE, log 58). -/
def Dev.fly (d : Dev) (s : Nat) : Nat × Dev :=
  (d.reqId, { d with reqId := d.reqId + 1, infl := d.infl ++ [(s, d.reqId)] })

/-- The sluice that a request for the word at `a` passes. -/
def Dev.sluiceOf (d : Dev) (a : Nat) : Nat := ((d.targetOf a).map Target.sluice).getD 99

/-- A request has completed. -/
def Dev.land (d : Dev) (id : Nat) : Dev :=
  { d with infl := d.infl.filter (fun e => decide (e.2 ≠ id)), noted := d.noted.filter (fun e => decide (e.2 ≠ id)) }

/-- A rule write at sluice `s` notes what is in flight (R495). -/
def Dev.noteFlight (d : Dev) (s : Nat) : Dev :=
  { d.fp (slIdx s) SlIdx.DRAINED 0 with
    noted := d.noted.filter (fun e => decide (e.1 ≠ s)) ++ d.infl.filter (fun e => decide (e.1 = s)) }

/-- Every noted request of sluice `s` has completed (R495). -/
def Dev.drained (d : Dev) (s : Nat) : Dev :=
  if d.noted.any (fun e => decide (e.1 = s)) then d else d.fp (slIdx s) SlIdx.DRAINED 1

/-- INFL (R495). -/
def Dev.inflight (d : Dev) (s : Nat) : Nat := min 1023 ((d.infl.filter (fun e => decide (e.1 = s))).length)

/-! ### Editing the rules (R492-R494, R496, R497) -/

/-- The range in which a region of sluice `s` must lie: first address and size. -/
def Dev.slRange (d : Dev) (s : Nat) : Nat × Nat :=
  if s < 64 then (aliasOf s, 0x4000)
  else if s < 80 then (fsramOf (s - 64), 0x40000)
  else if s = 80 then (codeBase, 0x800000)
  else if s = 81 then (recBase, 0x400000)
  else if s = 82 then (dramBase, d.dramSize)
  else if s = 98 then (0x110000, 0x10000)
  else ((s - 82) * 0x10000, 0x10000)

/-- The first failing reason of an enable, 0 where none fails (R493). -/
def Dev.enableReason (d : Dev) (s r : Nat) (attr : Word) : Nat :=
  let b := d.fg (slBase s r) SlBase.BASE
  let k := regK attr
  let rg := d.slRange s
  let beyond := (List.range 8).any (fun q =>
    decide (q ≠ r) && d.ff (slAttr s q) SlAttr.EN &&
      decide (b < d.fg (slBase s q) SlBase.BASE + 2 ^ regK (d.rd (slAttr s q)) ∧ d.fg (slBase s q) SlBase.BASE < b + 2 ^ k))
  if b % 2 ^ k ≠ 0 then 1
  else if beyond then 2
  else if k < 3 ∨ (if s < 83 then 36 else 16) < k then 3
  else if b < rg.1 ∨ rg.1 + rg.2 < b + 2 ^ k then 4
  else 0

/-- The local sluices that a window write reaches: those of every member of the cell's group (R496). -/
def Dev.slPeers (d : Dev) (s : Nat) : List Nat := if s < 64 then d.mates s else [s]

/-- A locked region (R494). -/
def Dev.slLocked (d : Dev) (s r : Nat) : Bool := d.ff (slAttr s r) SlAttr.LK

/-- A write of SLBASE or SLPERM; none where it is refused (R493, R494). -/
def Dev.slWrite (d : Dev) (s : Nat) (key : Nat → Nat → Nat) (isBase : Bool) (v : Word) : Option Dev :=
  let r := d.fg (slIdx s) SlIdx.IDX
  let w := if isBase then v &&& SlBase.BASE.mask else v &&& (SlPerm.RIGHTS.mask ||| SlPerm.PGM.mask ||| SlPerm.CELL.mask ||| SlPerm.DMA.mask)
  if d.slLocked s r then none
  else if isBase && d.ff (slAttr s r) SlAttr.EN && decide (w ≠ d.rd (key s r)) then none
  else some ((d.slPeers s).foldl (fun d q => (d.wr (key q r) w).noteFlight q) d)

/-- A write of SLATTR (R493, R494): a rejected enable leaves EN at 0 and loads REJ and REJIDX. -/
def Dev.slAttrWrite (d : Dev) (s : Nat) (v : Word) : Option Dev :=
  let r := d.fg (slIdx s) SlIdx.IDX
  let old := d.rd (slAttr s r)
  if d.slLocked s r then none
  else if SlAttr.EN.get old ≠ 0 ∧ regK v ≠ regK old then none
  else
    let v := v &&& 0xFFFE00000
    let bad := if SlAttr.EN.get v ≠ 0 ∧ SlAttr.EN.get old = 0 then d.enableReason s r v else 0
    let w := if bad = 0 then v else SlAttr.EN.put v 0
    let d1 := (d.slPeers s).foldl (fun d q => (d.wr (slAttr q r) w).noteFlight q) d
    if bad = 0 then some d1
    else
      let d2 := (d1.fp (slIdx s) SlIdx.REJ bad).fp (slIdx s) SlIdx.REJIDX r
      some ((d2.latch slGev SlGev.CAUSE (slGroup s)).relevel (220 + slGroup s))

/-! ### Accesses of DMA engines and of the security unit (R481, R489, R510) -/

/-- The ditch port of a DMA engine: an Ethernet port's, or the security unit's. -/
def dmaPort (engine : Nat) : Nat := if engine < 2 then dpETH else dpSEC

/-- A read of `n` words in the DMA class: the words and whether one of them is poisoned, none where a sluice refuses it
(DESIGN CHOICE, log 49, DESIGN CHOICE, log 94). -/
def State.dmaRead (s : State) (f : Flips) (pl part engine a n : Nat) : Option (List Word × Bool) × State :=
  let pg := Tab.get 0 s.dev.pgrp part
  match s.dev.ask { cls := clsDMA, pl := pl, pg := pg, part := part, req := engine, kind := .read, addr := a, n := n } with
  | (.permit _, d) =>
    let d1 := match d.targetOf a with | some t => d.portAccess t a n | none => d
    let r := ({ s with dev := d1 } : State).takeWords a n (some (dmaPort engine)) f
    (some (r.1, decide (r.2.1 ≠ 0)), r.2.2)
  | (_, d) => (none, { s with dev := d })

/-- A write of words in the DMA class: false where a sluice refuses it. -/
def State.dmaWrite (s : State) (pl part engine a : Nat) (ws : List Word) : Bool × State :=
  let pg := Tab.get 0 s.dev.pgrp part
  match s.dev.ask { cls := clsDMA, pl := pl, pg := pg, part := part, req := engine, kind := .write, addr := a, n := ws.length } with
  | (.permit _, d) =>
    let d1 := match d.targetOf a with | some t => d.portAccess t a ws.length | none => d
    (true, ({ s with dev := d1 } : State).wrWords a ws)
  | (_, d) => (false, { s with dev := d })

end Sys2Proof.Machine
end

