-- ==== Sys2Proof/Machine/Timers.lean ====
section
/-! DEFINITION. Interval timers (03): counting, the compare rule, the trigger matrix and the pin actions. The commands
of one base tick come before the DOMAIN_PORT_TICK that ends it (R24). -/

namespace Sys2Proof.Machine

/-- RUN of timer `n`. -/
def Dev.tmRun (d : Dev) (n : Nat) : Bool := d.ff (tmCtl n) TmCtl.RUN

/-- The timer counts: RUN is 1 and its gate is open (R86) (DEDUCED, log 27). -/
def Dev.counting (d : Dev) (n : Nat) : Bool := d.tmRun n && d.ff (tmStat n) TmStat.GATE

/-- STAT.CNTG follows RUN and the gate (R86, R109). -/
def Dev.syncCntg (d : Dev) (n : Nat) : Dev := d.fb (tmStat n) TmStat.CNTG (d.counting n)

/-- One trigger function of TMnTRG: enabled, master and code (R101). -/
structure Trig where
  en     : Bool
  master : Nat
  code   : Nat
deriving DecidableEq, Repr

/-- A trigger function of timer `n` as the selections in force have it (R101, R107). -/
def Dev.trig (d : Dev) (n : Nat) (f : Span) : Trig :=
  let v := f.get (d.tmr n).trg
  ⟨v.testBit 8, v / 4 % 64, v % 4⟩

/-- The selected event of a trigger was published on the previous base tick (R101, R102). -/
def Dev.trigFired (d : Dev) (t : Trig) : Bool :=
  let m := d.tmr t.master
  let now := d.tick
  t.en && decide (1 ≤ now) &&
    (match t.code with
     | 0 => decide (m.zAt = now)
     | 1 => decide (m.c0At = now)
     | 2 => decide (m.c1At = now)
     | _ => decide (m.zAt = now ∨ m.c0At = now ∨ m.c1At = now))

/-- The gate level selected by TMnTRG.GATE, from the levels published on the previous base tick (R101, R109). -/
def Dev.gateLevel (d : Dev) (n : Nat) : Bool :=
  let t := d.trig n TmTrg.GATE
  let m := d.tmr t.master
  !t.en || (match t.code with | 0 => m.pRun | 1 => m.pCntg | 2 => m.pWin | _ => !m.pWin)

/-- Restart the prescaler: the first unit tick falls PSC + 1 count-clock events after the first base tick on which the timer counts (R88)
(DEDUCED, log 171). -/
def Dev.restartPsc (d : Dev) (n : Nat) : Dev :=
  d.putTmr n { d.tmr n with psc := 0, anew := true, div := d.fg (tmCtl n) TmCtl.PSC }

/-- Set RUN: counting resumes from TMnCNT and the prescaler restarts; no effect if RUN is 1 (R88, R101). -/
def Dev.setRun (d : Dev) (n : Nat) : Dev :=
  if d.tmRun n then d
  else ((d.fp (tmCtl n) TmCtl.RUN 1).restartPsc n).syncCntg n

/-- RUN goes to 0: WIN clears (R102). A RUN that is 0 already changes nothing. -/
def Dev.clearRun (d : Dev) (n : Nat) : Dev :=
  if d.tmRun n then ((d.fp (tmCtl n) TmCtl.RUN 0).fp (tmStat n) TmStat.WIN 0).syncCntg n else d

/-- A compare match is latched, published and given to the pin (R92 order 6, R102). -/
def Dev.matchCmp (d : Dev) (n : Nat) (k : Nat) : Dev :=
  let x := d.tmr n
  let x1 : Tmr := if k = 0 then { x with c0At := d.tick + 1 } else { x with c1At := d.tick + 1 }
  (d.fp (tmStat n) (if k = 0 then TmStat.M0 else TmStat.M1) 1).putTmr n x1

/-- Evaluate the live compares against an update of the count (R93) and WIN after it (R102). -/
def Dev.evalCmps (d : Dev) (n : Nat) (old new : Word) : Dev :=
  let x := d.tmr n
  let m0 := d.ff (tmCtl n) TmCtl.CE0 && crosses true old new x.cmp0
  let m1 := d.ff (tmCtl n) TmCtl.CE1 && crosses true old new x.cmp1
  let d1 := if m0 then d.matchCmp n 0 else d
  let d2 := if m1 then d1.matchCmp n 1 else d1
  let d3 := if m0 then d2.fp (tmStat n) TmStat.WIN 1 else d2
  let d4 := if m1 then d3.fp (tmStat n) TmStat.WIN 0 else d3
  d4.relevel (64 + n)

/-- The value a load takes: RELOAD, of which 0 acts as 1 in the periodic and one-shot modes (R87). -/
def Dev.reloadValue (d : Dev) (n : Nat) : Word :=
  let r := (d.tmr n).rld
  if r = 0 ∧ d.fg (tmCtl n) TmCtl.MODE ≤ 1 then 1 else r

/-- RELOADNOW or a reset trigger: the prescaler restarts, and a load takes the place of the next count update (R90). -/
def Dev.reloadNow (d : Dev) (n : Nat) : Dev :=
  let d1 := d.restartPsc n
  d1.putTmr n { d1.tmr n with ld := true }

/-- The prescaler in force divides its last count-clock event (R86, R88). -/
def Dev.pscExpired (d : Dev) (n : Nat) : Bool :=
  let x := d.tmr n
  let t := d.trig n TmTrg.CLK
  decide (x.div ≤ x.psc) && !x.anew && (!t.en || x.clk)

/-- A written reload value reaches the buffer (R89). -/
def Dev.reloadArrive (d : Dev) (n : Nat) : Dev :=
  let x := d.tmr n
  match x.rldW with
  | some v => d.putTmr n { x with rld := v, rldW := none }
  | none => d

/-- Order 2 of a base tick: the reload buffer and the trigger selections as last written; a gate that no selection works is open (R89, R92,
R101, R109). -/
def Dev.timerWrites (d : Dev) (n : Nat) : Dev :=
  let d1 := d.reloadArrive n
  let d2 := d1.putTmr n { d1.tmr n with trg := d1.rd (tmTrg n) }
  if (d2.trig n TmTrg.GATE).en then d2 else (d2.fb (tmStat n) TmStat.GATE true).syncCntg n

/-- One compare write replaces the live value; NEAR is judged against the count before the tick's update, and a compare that is not
enabled sets none (R93, R94, R96). -/
def Dev.cmpTake (d : Dev) (n k : Nat) (v : Word) : Dev :=
  let x := d.tmr n
  let d1 := d.putTmr n (if k = 0 then { x with cmp0 := v } else { x with cmp1 := v })
  if nearTo 1 (d.rd (tmCnt n)) v && d.ff (tmCtl n) (if k = 0 then TmCtl.CE0 else TmCtl.CE1)
  then d1.fp (tmStat n) (if k = 0 then TmStat.NEAR0 else TmStat.NEAR1) 1 else d1

/-- The writes of compare `k` that arrive with the coming unit tick (R94). -/
def Dev.cmpArrive (d : Dev) (n k : Nat) : Dev :=
  let x := d.tmr n
  let ws := if k = 0 then x.wr0 else x.wr1
  if CmpWrite.here ws = [] then d
  else
    let d1 := (CmpWrite.here ws).foldl (fun d w => d.cmpTake n k w.val) d
    let y := d1.tmr n
    (d1.putTmr n (if k = 0 then { y with wr0 := CmpWrite.rest ws } else { y with wr1 := CmpWrite.rest ws })).relevel (64 + n)

/-- Order 4 of a unit tick: the writes that arrive replace the live compares, and every other is one unit tick nearer (R92, R94). -/
def Dev.cmpTick (d : Dev) (n : Nat) : Dev :=
  let d1 := (d.cmpArrive n 0).cmpArrive n 1
  let x := d1.tmr n
  d1.putTmr n { x with wr0 := x.wr0.map CmpWrite.age, wr1 := x.wr1.map CmpWrite.age }

/-- Orders 3 to 6 of a unit tick: the count takes `new`, compare writes arrive, and the live compares judge the update from `old` (R92). -/
def Dev.countUpdate (d : Dev) (n : Nat) (old new : Word) : Dev :=
  ((d.cmpTick n).wr (tmCnt n) new).evalCmps n old new

/-- A load of RELOAD, evaluated as an update from one above it (R90, R93). -/
def Dev.loadTimer (d : Dev) (n : Nat) : Dev := d.countUpdate n (d.reloadValue n + 1) (d.reloadValue n)

/-- A unit tick: the load that RELOADNOW or a reset trigger asked for, or, where the prescaler expires, a load, a decrement or a wrap; at
most one on a base tick (R86, R87, R90, R92, R93). -/
def Dev.unitTick (d0 : Dev) (n : Nat) : Dev :=
  let d := d0.timerWrites n
  let x := d.tmr n
  if x.done then d
  else if x.ld then (d.putTmr n { x with ld := false, done := true }).loadTimer n
  else if d.counting n && d.pscExpired n then
    let c := d.rd (tmCnt n)
    let d1 := d.putTmr n { x with psc := 0, done := true, div := d.fg (tmCtl n) TmCtl.PSC, zDue := decide (c = 1) }
    if c = 0 ∧ d.fg (tmCtl n) TmCtl.MODE ≤ 1 then d1.loadTimer n else d1.countUpdate n c (c - 1)
  else d

/-- The decrement that made the count 0: Z, and RUN clears in one-shot mode (R87). -/
def Dev.timerZero (d : Dev) (n : Nat) : Dev :=
  let x := d.tmr n
  if x.zDue then
    let d1 := (d.putTmr n { x with zDue := false, zAt := d.tick + 1 }).fp (tmStat n) TmStat.Z 1
    let d2 := if d1.fg (tmCtl n) TmCtl.MODE = 1 then d1.clearRun n else d1
    d2.relevel (64 + n)
  else d

/-- A compare write begins its way to the live comparator (R94) (DEDUCED, log 28). -/
def Dev.cmpWrite (d : Dev) (n k : Nat) (v : Word) : Dev :=
  let x := d.tmr n
  d.putTmr n (if k = 0 then { x with wr0 := x.wr0 ++ [⟨v, 2⟩] } else { x with wr1 := x.wr1 ++ [⟨v, 2⟩] })

/-- A staged compare write, complete with the present base tick (R94). -/
def Dev.cmpStaged (d : Dev) (n k : Nat) (v : Word) : Dev :=
  let x := d.tmr n
  d.putTmr n (if k = 0 then { x with stg0 := x.stg0 ++ [v] } else { x with stg1 := x.stg1 ++ [v] })

/-- A start trigger: sets RUN unless a write of 0 prevails on this tick (R92, R101). -/
def Dev.strtTrigger (d : Dev) (n : Nat) : Dev :=
  if d.trigFired (d.trig n TmTrg.STRT) && !(d.tmr n).run0 then d.setRun n else d

/-- A reset trigger (R90, R101). -/
def Dev.rstTrigger (d : Dev) (n : Nat) : Dev :=
  if d.trigFired (d.trig n TmTrg.RST) then d.reloadNow n else d

/-- A change of the selected master level opens or closes the gate (R101). -/
def Dev.gateTrigger (d : Dev) (n : Nat) : Dev :=
  (d.fb (tmStat n) TmStat.GATE (d.gateLevel n)).syncCntg n

/-- A clock trigger is one count-clock event (R101). -/
def Dev.clkTrigger (d : Dev) (n : Nat) : Dev :=
  if d.trigFired (d.trig n TmTrg.CLK) then d.putTmr n { d.tmr n with clk := true } else d

/-- The operations that timer `n`'s events of the present base tick have on its terminal: ACTZ, then ACT0, then ACT1, or the level of WIN
with DRV = 1, under the settings of this tick (R104). -/
def Dev.timerPinOps (d : Dev) (n : Nat) : List (Nat × LvlOp) :=
  let x := d.tmr n
  let t := d.fg (tmPin n) TmPin.TERM
  let op := fun (code : Nat) => match code with
    | 1 => [LvlOp.set t] | 2 => [LvlOp.clear t] | 3 => [LvlOp.toggle t] | _ => []
  let ops : List LvlOp :=
    if t = 3 then []
    else if d.ff (tmPin n) TmPin.DRV then (if d.ff (tmStat n) TmStat.WIN then [LvlOp.set t] else [LvlOp.clear t])
    else
      (if x.zAt = d.tick + 1 then op (d.fg (tmPin n) TmPin.ACTZ) else []) ++
      (if x.c0At = d.tick + 1 then op (d.fg (tmPin n) TmPin.ACT0) else []) ++
      (if x.c1At = d.tick + 1 then op (d.fg (tmPin n) TmPin.ACT1) else [])
  ops.map (fun o => (d.fg (tmPin n) TmPin.PORT, o))

/-- What a base tick without a count update still does: the writes that have arrived, a load that is due, Z of a count that became 0, and, while
the timer does not count, compare writes as on a unit tick (R89, R90, R92, R94). -/
def Dev.timerRest (d : Dev) (n : Nat) : Dev :=
  let d1 := d.timerWrites n
  let d2 := if (d1.tmr n).ld then d1.unitTick n else d1
  let d3 := if (d2.tmr n).done || d2.counting n then d2 else d2.cmpTick n
  d3.timerZero n

/-- The end of a base tick for timer `n`: the prescaler counts, the levels are published, the pin actions wait for the next port tick (R86,
R94, R102, R104). -/
def Dev.endTimer (d0 : Dev) (n : Nat) : Dev :=
  let d := d0.timerRest n
  let x := d.tmr n
  let cnt := d.counting n
  let ev := !(d.trig n TmTrg.CLK).en || x.clk
  d.putTmr n { x with
    psc := if cnt && ev && !x.done && !x.anew then x.psc + 1 else x.psc, done := false, anew := x.anew && !cnt, clk := false, run0 := false,
    wr0 := x.wr0 ++ x.stg0.map (fun v => ⟨v, 2⟩), wr1 := x.wr1 ++ x.stg1.map (fun v => ⟨v, 2⟩), stg0 := [], stg1 := [],
    pRun := d.tmRun n, pCntg := cnt, pWin := d.ff (tmStat n) TmStat.WIN, pin := d.timerPinOps n }

/-- The timers that hold anything, or that have been written. -/
def Dev.liveTimers (d : Dev) : List Nat :=
  (List.range 64).filter (fun n => decide (d.tmr n ≠ {}) || d.tmRun n || d.ff (tmPin n) TmPin.DRV || decide (d.rd (tmTrg n) ≠ 0))

/-- The end of a base tick (R92). -/
def Dev.endTimers (d : Dev) : Dev := d.liveTimers.foldl (fun d n => d.endTimer n) d

end Sys2Proof.Machine
end

