-- ==== Sys2Proof/Machine/TxuCore.lean ====
section
/-! DEFINITION. The transaction unit's bookkeeping (R169-R187): states, claims, staging, aborts, triggers. A group's
transactions belong to its lead; `c` is always the lead of the issuing group (R172, R184). -/

namespace Sys2Proof.Machine

/-! ### Abort and refusal codes (R183) -/
def abcUSER : Nat := 1
def abcCONFLICT : Nat := 2
def abcLIMIT : Nat := 3
def abcNOTX : Nat := 4
def abcITEM : Nat := 5
def abcDATAERR : Nat := 6
def abcCALIPER : Nat := 7
def abcOWNER : Nat := 8
def abcENERGY : Nat := 9
def abcJFULL : Nat := 10
def abcRSERR : Nat := 11
def abcRIGHTS : Nat := 12
def abcRETIRE : Nat := 13
def abcTIMEOUT : Nat := 14
def abcSHED : Nat := 15
def abcKILL : Nat := 16
def errBUSY : Nat := 1
def errNOTOWN : Nat := 2
def errNOCUR : Nat := 3
def errSTATE : Nat := 4

/-- STATE of transaction `n`: 0 FREE, 1 OPEN, 2 PREPARING, 3 WAITING, 4 COMMITTING. -/
def Dev.txState (d : Dev) (n : Nat) : Nat := d.fg (txStat n) TxStat.STATE

/-- The transaction has started TCOMMIT with mode 1 and still prepares. -/
def Dev.txPrep1 (d : Dev) (n : Nat) : Bool := decide (d.txState n = 2 ∧ (d.txn n).mode = 1)

/-! ### Lengths and cost (R187) -/

/-- Staged writes of R174: TSW, TTOT and TPAR. -/
def TxItem.isWrite : TxItem → Bool
  | .write _ _ _ _ => true
  | .tot _ _ => true
  | .par _ _ _ => true
  | _ => false
def TxItem.isTot : TxItem → Bool
  | .tot _ _ => true
  | _ => false
def TxItem.isPar : TxItem → Bool
  | .par _ _ _ => true
  | _ => false
def TxItem.isSnap : TxItem → Bool
  | .snap _ _ => true
  | _ => false
def TxItem.isFrame : TxItem → Bool
  | .frame _ _ _ => true
  | _ => false
/-- Words of a record append. -/
def TxItem.recWords : TxItem → Option Nat
  | .record _ ws => some ws.length
  | _ => none

/-- The number of items of a kind. -/
def countItems (p : TxItem → Bool) (l : List TxItem) : Nat := (l.filter p).length

/-- Σ(1 + RLEN). -/
def recordWords (l : List TxItem) : Nat := l.foldl (fun a i => match i.recWords with | some n => a + 1 + n | none => a) 0

/-- w_prep. -/
def wPrep (l : List TxItem) : Nat :=
  5 + 2 * countItems TxItem.isWrite l + countItems TxItem.isSnap l + countItems TxItem.isFrame l +
    recordWords l + 12 * countItems TxItem.isPar l
/-- w_mark. -/
def wMark (l : List TxItem) : Nat := 4 + 2 * countItems TxItem.isSnap l
/-- w_home. -/
def wHome (l : List TxItem) : Nat := 2 * countItems TxItem.isTot l + 13 * countItems TxItem.isPar l

/-- The reservation in 0.1 µJ (R187, R310). -/
def Dev.txCost (d : Dev) (l : List TxItem) : Nat :=
  d.fg drCostA DrCostA.CBASE + d.fg drCostA DrCostA.COUT * countItems TxItem.isWrite l +
  d.fg drCostB DrCostB.CWORD * (wPrep l + wMark l + wHome l + 1) + d.fg drCostB DrCostB.CFRM * countItems TxItem.isFrame l

/-! ### Claims (R181, R182) -/

/-- The item claims the same thing as `i`. -/
def TxItem.clashes (i j : TxItem) : Bool :=
  match i, j with
  | .write a _ _ _, .write b _ _ _ => decide (a = b)
  | .tot a _, .tot b _ => decide (a = b)
  | .par a _ _, .par b _ _ => decide (a = b)
  | .frame p r x, .frame q s y => decide (p = q ∧ r = s ∧ x = y)
  | _, _ => false

/-- Another transaction than `n` holds a claim that `i` names. -/
def Dev.claimedByOther (d : Dev) (n : Nat) (i : TxItem) : Bool :=
  d.txns.any (fun e => decide (e.1 ≠ n) && e.2.items.any (fun j => j.clashes i))

/-- The fields of the register at `a` that a transaction claims. -/
def Dev.claimedMask (d : Dev) (a : Nat) : Word :=
  d.txns.foldl (fun m e => e.2.items.foldl (fun m i => match i with | .write b _ _ k => if b = a then m ||| k else m | _ => m) m) 0

/-- A frame descriptor is claimed. -/
def Dev.frameClaimed (d : Dev) (p r x : Nat) : Bool :=
  d.txns.any (fun e => e.2.items.any (fun j => j.clashes (.frame p r x)))

/-! ### Results -/

/-- The event of transaction `n` at its end (R180). -/
def Dev.txEvent (d : Dev) (n : Nat) : Dev := d.raiseIf (d.ff (txStat n) TxStat.IE) (176 + n / 4)

/-- The DISCARD entry of a PREP entry that exists (R183, R192) (DEDUCED, log 39). -/
def Dev.txDiscard (d : Dev) (n : Nat) : Dev :=
  let x := d.txn n
  match x.prep with
  | none => d
  | some (a, lap) =>
    let d0 := if x.ready then d else d.jWrite a x.prepWs
    let d1 : Dev := { d0 with jnl := { d0.jnl with aside := d0.jnl.aside - (wMark x.items + 1) } }
    let r := d1.jAlloc 1
    let d2 := r.2.rsWrite r.1.1 (fields [(4, 68), (1, 56), (n, 51), (r.1.2, 48), (x.seq, 0)])
    ({ d2 with jnl := { d2.jnl with opens := d2.jnl.opens.filter (fun e => decide (e ≠ (x.seq, a, lap))) } }).doneLimit

/-- Abort transaction `n` with a code (R183): only a transaction that is OPEN, PREPARING or WAITING. -/
def Dev.txAbort (d : Dev) (n code : Nat) : Dev :=
  if d.txState n = 0 ∨ 4 ≤ d.txState n then d
  else
    let o := d.fg (txStat n) TxStat.CELL
    let d1 := d.txDiscard n
    let d2 := ((d1.fp (txStat n) TxStat.STATE 0).fp (txStat n) TxStat.RES 2).fp (txStat n) TxStat.ABC code
    let d3 := (d2.fp (txRes n) TxRes.RES 0).putTxn n { strayAt := (d.txn n).strayAt }
    ((d3.putCell o { d3.cell o with txAbc := code, txAbn := n }).accounts).txEvent n

/-- Abort every transaction that `p` selects. -/
def Dev.txAbortAll (d : Dev) (p : Nat → Bool) (code : Nat) : Dev :=
  (List.range 32).foldl (fun d n => if p n then d.txAbort n code else d) d

/-- Abort the transactions of a group (R184): those whose owner is the cell `c`. -/
def Dev.txAbortOwner (d : Dev) (c code : Nat) : Dev :=
  d.txAbortAll (fun n => decide (d.fg (txStat n) TxStat.CELL = c)) code

/-- Abort what waits for a trigger (R186, R313). -/
def Dev.txAbortWaiting (d : Dev) : Dev :=
  d.txAbortAll (fun n => decide (d.txState n = 3) || d.txPrep1 n) abcSHED

/-! ### Transaction ops (R172-R178) -/

/-- Refuse an op: TXSTAT.ERR of the group (R172). -/
def Dev.txRefuse (d : Dev) (c e : Nat) : Dev := d.putCell c { d.cell c with txErr := e }

/-- Run an op on the group's current transaction if the state permits it (R172): one that another group owns by now is not the group's. An accepted
op sets ERR to NONE. -/
def Dev.txOp (d : Dev) (c : Nat) (states : List Nat) (f : Dev → Nat → Dev) : Dev :=
  match (d.cell c).txCur with
  | none => d.txRefuse c errNOCUR
  | some n =>
    if d.txState n ≠ 0 ∧ (d.txn n).owner ≠ c then d.txRefuse c errNOTOWN
    else if d.fg (txStat n) TxStat.CELL = c ∧ (d.txn n).owner = c ∧ states.contains (d.txState n) then f (d.txRefuse c 0) n
    else d.txRefuse c errSTATE

/-- Number `n` may be used by partition `p` (R172, R201). -/
def Dev.txAllowed (d : Dev) (n p : Nat) : Bool :=
  d.ff (txOwn n) TxOwn.V && decide (d.fg (txOwn n) TxOwn.PART = p)

/-- TBEGIN: [4:0] number, [5] IE. A number in use by another group answers NOTOWN (DESIGN CHOICE, log 178). -/
def Dev.txBegin (d : Dev) (c v : Nat) : Dev :=
  let n := v % 32
  let p := (d.cell c).part
  if !d.txAllowed n p then d.txRefuse c errNOTOWN
  else if d.txState n ≠ 0 then
    d.txRefuse c (if d.fg (txStat n) TxStat.CELL = c then errBUSY else errNOTOWN)
  else
    let st := fields [(1, 33), (v / 32 % 2, 25), (p, 17), (c, 11)]
    let d1 := ((((d.wr (txStat n) st).wr (txItems n) 0).wr (txRes n) 0).wr (txPrep n) 0).wr (txMark n) 0
    let d2 := d1.putTxn n { owner := c, part := p, pl := (d.cell c).pl, strayAt := (d.txn n).strayAt }
    d2.putCell c { d2.cell c with txCur := some n, txErr := 0 }

/-- TSEL: [4:0] number. -/
def Dev.txSel (d : Dev) (c v : Nat) : Dev :=
  let n := v % 32
  if !d.txAllowed n (d.cell c).part then d.txRefuse c errNOTOWN
  else if d.txState n = 0 then d.txRefuse c errSTATE
  else if (d.txn n).owner ≠ c then d.txRefuse c errNOTOWN
  else d.putCell c { d.cell c with txCur := some n, txErr := 0 }

/-- Add an item and count it in TXnITEMS (R199). -/
def Dev.txStage (d : Dev) (n : Nat) (i : TxItem) : Dev :=
  let x := d.txn n
  let l := x.items ++ [i]
  let recs := l.filterMap TxItem.recWords
  (d.putTxn n { x with items := l }).wr (txItems n)
    (fields [(countItems TxItem.isWrite l, 29), (recs.length, 25), (recs.sum, 15), (countItems TxItem.isFrame l, 12),
      (countItems TxItem.isSnap l, 7)])

/-- Stage a write of R174 after the conflict and limit checks. -/
def Dev.txStageWrite (d : Dev) (n : Nat) (i : TxItem) : Dev :=
  if d.claimedByOther n i then d.txAbort n abcCONFLICT
  else if 64 ≤ countItems TxItem.isWrite (d.txn n).items then d.txAbort n abcLIMIT
  else d.txStage n i

/-- The mask of the TX fields of a register. -/
def RegDesc.txMask (r : RegDesc) : Word :=
  r.fields.foldl (fun m f => if f.acc = .tx then m ||| f.span.mask else m) 0

/-- The requests that a group makes at the sluices (R481): privilege and group of its lead. -/
def Dev.cellReq (d : Dev) (c : Nat) (k : Kind) (a n : Nat) : Req :=
  let x := d.cell c
  { cls := clsCELL, pl := x.pl, pg := x.pgrp, part := x.part, req := c, kind := k, addr := a, n := n }

/-- TSW: I/O address and value (R175), checked at the sluice of the block it names (R488). A second TSW to a staged address
replaces its value (R174). -/
def Dev.txSw (d : Dev) (c : Nat) (ga gv : Word) : Dev :=
  d.txOp c [1] fun d n =>
    let a := ga.toNat % 2 ^ 24
    let r := regDesc a
    let m := r.txMask
    if m = 0 ∨ (d.isH && absentOnH a) then d.txAbort n abcNOTX
    else
      let v : Word := if r.wide then gv else gv &&& 0xFFFFFFFFF
      let i : TxItem := .write a r.wide v m
      let q := d.askIo (d.cellReq c .write a 1)
      let d := q.2
      if !q.1 then d.txAbort n abcITEM
      else if (d.txn n).items.any (fun j => j.clashes i) then
        d.putTxn n { d.txn n with items := (d.txn n).items.map (fun j => if j.clashes i then i else j) }
      else d.txStageWrite n i

/-- The staged snapshots of a transaction, in index order. -/
def Dev.txSnaps (d : Dev) (n : Nat) : List (Nat × Nat) :=
  (d.txn n).items.filterMap (fun i => match i with | .snap k u => some (k, u) | _ => none)

/-- TTOT: [7:0] totalizer, [11:8] snapshot index, which must name a staged domain snapshot (R177). -/
def Dev.txTot (d : Dev) (c : Nat) (gs : Word) : Dev :=
  d.txOp c [1] fun d n =>
    let t := gs.toNat % 256
    let k := gs.toNat / 256 % 16
    match (d.txSnaps n)[k]? with
    | some (0, _) => d.txStageWrite n (.tot t k)
    | _ => d.txAbort n abcITEM

/-- The right that a parameter word's class needs (R556, R562): class M PMPAR, I PIPAR, O POPAR. -/
def parRight (off : Nat) : Nat := match off / 0x10000 with | 0 => rightPMPAR | 1 => rightPIPAR | _ => rightPOPAR

/-- First word of the parameter area (R188). -/
def parBase : Nat := 0x021010000

/-- TPAR: [17:0] parameter word, value (R177, R190, R563, R569). -/
def Dev.txPar (d : Dev) (c : Nat) (ga gv : Word) : Dev :=
  d.txOp c [1] fun d n =>
    let off := ga.toNat % 2 ^ 18
    let p := (d.txn n).part
    if 0x30000 ≤ off then d.txAbort n abcITEM
    else if 0x1FFE0 ≤ off ∧ off < 0x20000 then d.txAbort n abcRIGHTS
    else if !(d.hasRight p (parRight off) && d.auRoom) then d.txAbort n abcRIGHTS
    else
      let a := d.actor p
      let e : Audit := { typ := 0x20 + off / 0x10000, part := p, role := a.1, serial := a.2, subj := off, old := d.rsRead (parBase + off), new := gv }
      ((d.rsUsed (parBase + off) 1).sessionActs p).txStageWrite n (.par off gv e)

/-- TSNAP: [7:6] kind, [5:0] unit; a kind or unit that does not exist is malformed (DEDUCED, log 40). -/
def Dev.txSnap (d : Dev) (c : Nat) (gs : Word) : Dev :=
  d.txOp c [1] fun d n =>
    let k := gs.toNat / 64 % 4
    let u := gs.toNat % 64
    let ok := match k with | 0 => decide (u < 32) | 1 => true | 2 => d.portHere u | _ => false
    if !ok then d.txAbort n abcITEM
    else if 16 ≤ countItems TxItem.isSnap (d.txn n).items then d.txAbort n abcLIMIT
    else d.txStage n (.snap k u)

/-- TAPP begins to copy a buffer; the group's issue stays frozen until the last word is copied (R173). Where `paged` tells that a page translates
the buffer, one that leaves its page is malformed (R176) (DEDUCED, log 179). -/
def Dev.txApp (d : Dev) (c : Nat) (ga gs : Word) (paged : Bool) : Dev :=
  d.txOp c [1] fun d n =>
    let len := gs.toNat % 1024
    let recs := (d.txn n).items.filterMap TxItem.recWords
    if len = 0 ∨ 8 ≤ recs.length ∨ 512 < recs.sum + len then d.txAbort n abcLIMIT
    else if paged ∧ 4096 < ga.toNat % 4096 + len then d.txAbort n abcITEM
    else d.putTxn n { d.txn n with copy := some ⟨ga.toNat % 2 ^ 36, len, gs.toNat / 1024 % 65536, (d.cell c).pl⟩ }

/-- The end of a TAPP copy: `words` is none where the sluice refused the read; `bad` tells a poisoned word (R176). -/
def Dev.txAppEnd (d : Dev) (n : Nat) (words : Option (List Word)) (bad : Bool) : Dev :=
  match (d.txn n).copy with
  | none => d
  | some k =>
    match words with
    | none => d.txAbort n abcITEM
    | some ws =>
      if bad then d.txAbort n abcDATAERR
      else (d.putTxn n { d.txn n with copy := none }).txStage n (.record k.typ ws)

/-- A group's issue is frozen by its TAPP (R173). -/
def Dev.txCopying (d : Dev) (c : Nat) : Bool :=
  d.txns.any (fun e => decide (e.2.owner = c ∧ e.2.copy ≠ none))

/-- TFRM: [15:0] descriptor, [18:16] ring, [19] port; `held` tells whether it names a descriptor in the held state. -/
def Dev.txFrm (d : Dev) (c : Nat) (gs : Word) (held : Bool) : Dev :=
  d.txOp c [1] fun d n =>
    let i : TxItem := .frame (gs.toNat / 2 ^ 19 % 2) (gs.toNat / 2 ^ 16 % 8) (gs.toNat % 65536)
    if !held then d.txAbort n abcITEM
    else if d.claimedByOther n i then d.txAbort n abcCONFLICT
    else if 4 ≤ countItems TxItem.isFrame (d.txn n).items then d.txAbort n abcLIMIT
    else d.txStage n i

/-- TCOMMIT: [1:0] mode, [21:2] WTO in ms (R178). The modes 2 and 3 are not assigned: the op is malformed. -/
def Dev.txCommit (d : Dev) (c : Nat) (gs : Word) : Dev :=
  d.txOp c [1] fun d n =>
    let m := gs.toNat % 4
    if 2 ≤ m then d.txAbort n abcITEM
    else (d.fp (txStat n) TxStat.STATE 2).putTxn n { d.txn n with mode := m, wto := gs.toNat / 4 % 2 ^ 20 }

/-- TABORT (R172, R183). -/
def Dev.txUser (d : Dev) (c : Nat) : Dev := d.txOp c [1, 2, 3] fun d n => d.txAbort n abcUSER

/-! ### Reservation and PREP (R169, R187, R191, R308) -/

/-- The rider may grant (R308). -/
def Dev.mayGrant (d : Dev) (e : Nat) : Bool :=
  d.ff drStat DrStat.READY && !(d.ff drStat DrStat.SHED) && !d.rider.meas && decide (((tenthUJ e : Nat) : Int) ≤ sgn (d.rd drAvl))

/-- One staged item's words in the PREP entry (R193). -/
def Dev.itemWords (d : Dev) (i : TxItem) (k : Nat) : List Word :=
  match i with
  | .write a w v m =>
    if w then [fields [(8, 68), (a, 44), (1, 43), (v.toNat % 2 ^ 36, 0)], fields [(v.toNat / 2 ^ 36, 36)]]
    else [fields [(8, 68), (a, 44), (v.toNat % 2 ^ 36, 0)], fields [(m.toNat % 2 ^ 36, 0)]]
  | .tot t s => [fields [(9, 68), (t, 60), (s, 56)], d.rsRead (0x021001000 + 2 * t)]
  | .par o v e =>
    [fields [(0xA, 68), (o, 50)], v,
      fields [(e.typ, 64), (auditClass e.typ, 62), (e.part % 64, 56), (e.role % 4, 54)], 0, 0,
      fields [(e.serial % 2 ^ 64, 8)], 0, fields [(e.subj % 2 ^ 24, 48)], e.old, e.new, 0, 0, 0, 0]
  | .snap kd u => [fields [(0xB, 68), (k, 64), (kd, 62), (u, 56)]]
  | .frame p r x => [fields [(0xC, 68), (p, 67), (r, 64), (x, 48)]]
  | .record t ws => fields [(0xD, 68), (ws.length, 56), (t, 40)] :: ws

/-- The words of all items; `k` counts snapshots. -/
def Dev.itemsWords (d : Dev) : List TxItem → Nat → List Word
  | [], _ => []
  | i :: l, k => d.itemWords i k ++ d.itemsWords l (k + b2n i.isSnap)

/-- Stages 1 to 3 and the start of stage 4: the reservation, then the PREP entry's place and SEQ (R169, R191, R194). A field of 20 bits shows the low
bits of a larger reservation (DESIGN CHOICE, log 181). -/
def Dev.txGrant (d : Dev) (n : Nat) : Dev :=
  let x := d.txn n
  if d.txState n ≠ 2 ∨ x.prep ≠ none then d
  else
    let e := d.txCost x.items
    if !d.mayGrant e then ((d.latch drStat DrStat.CAUSE 6).relevel 190).txAbort n abcENERGY
    else
      let x : Txn := { x with cost := e }
      let d1 := ((d.fp (txRes n) TxRes.RES e).putTxn n x).accounts
      let wp := wPrep x.items
      let wm := wMark x.items
      if d1.jFree < wp + wm + 1 then ((d1.latch rsStat RsStat.CAUSE 0).relevel 244).txAbort n abcJFULL
      else
        let seq := d1.fg rsSeq RsSeq.SEQ
        let d2 := d1.fp rsSeq RsSeq.SEQ (seq + 1)
        let d3 : Dev := { d2 with jnl := { d2.jnl with aside := d2.jnl.aside + wm + 1 } }
        let r := d3.jAlloc wp
        let hdr : List Word :=
          [ fields [(1, 68), (wp, 56), (n, 51), (r.1.2, 48), (seq, 0)],
            fields [(x.part, 66), (x.owner, 60), (countItems TxItem.isWrite x.items, 53),
              ((x.items.filterMap TxItem.recWords).length, 49), (countItems TxItem.isFrame x.items, 46),
              (countItems TxItem.isSnap x.items, 41)],
            fields [(x.mode, 70), (x.wto, 50)], fields [(e % 2 ^ 20, 52)] ]
        let ws := withTrailer (hdr ++ r.2.itemsWords x.items 0)
        let t0s := x.items.filterMap (fun i => match i with | .tot t _ => some (r.2.rsRead (0x021001000 + 2 * t)) | _ => none)
        let r2 := x.items.foldl (fun (d : Dev) i => match i with | .tot t _ => d.rsUsed (0x021001000 + 2 * t) 1 | _ => d) r.2
        let d4 := r2.putTxn n { x with seq := seq, prep := some r.1, prepWs := ws, t0s := t0s }
        ({ d4 with jnl := { d4.jnl with opens := d4.jnl.opens ++ [(seq, r.1)] } }).doneLimit

/-- The PREP entry is durable, or its write failed (R169, R171, R178, R183): mode 0 and a held trigger apply on the next
port tick, mode 1 waits (DEDUCED, log 37). -/
def Dev.txPrepDurable (d : Dev) (n : Nat) (ok : Bool) : Dev :=
  let x := d.txn n
  match x.prep with
  | none => d
  | some (a, _) =>
    if d.txState n ≠ 2 ∨ x.ready then d
    else if ok then
      let d1 := (d.jWrite a x.prepWs).wr (txPrep n) (BitVec.ofNat 72 a)
      let x1 : Txn := { x with ready := true }
      if x.mode = 0 then d1.putTxn n x1
      else if x.trig then d1.putTxn n x1
      else (d1.fp (txStat n) TxStat.STATE 3).putTxn n { x1 with waitAt := d1.tick }
    else
      let d1 := ((d.latch rsStat RsStat.CAUSE 2).count rsWerr RsWerr.CNT).relevel 244
      d1.txAbort n abcRSERR

/-! ### Triggers (R179) -/

/-- Note a cause of TXCAUSE (R202). -/
def Dev.txCauseSet (d : Dev) (f : Span) (n : Nat) : Dev :=
  ((d.fp txCause f 1).fp txCause TxCause.TXN n).relevel (176 + n / 4)

/-- A commit trigger for transaction `n`; two stray ones of one port tick count once. -/
def Dev.txTrigger (d : Dev) (n : Nat) : Dev :=
  let x := d.txn n
  if d.txState n = 3 then d.putTxn n { x with trig := true }
  else if d.txPrep1 n then
    (d.fp (txStat n) TxStat.LATE 1).putTxn n { x with trig := true } |>.txCauseSet TxCause.LATE n
  else if x.strayAt = d.tick + 1 then d
  else
    (((d.putTxn n { x with strayAt := d.tick + 1 }).count txStray TxStray.CNT).fp txStray TxStray.TXN n).txCauseSet TxCause.STRAY n

/-- WTO milliseconds have passed in WAITING (R178). -/
def Dev.txTimeout (d : Dev) (n : Nat) : Dev :=
  let x := d.txn n
  if d.txState n = 3 ∧ x.wto ≠ 0 ∧ x.waitAt + x.wto * 100000 ≤ d.tick ∧ !x.trig then d.txAbort n abcTIMEOUT else d

end Sys2Proof.Machine
end

