-- ==== Sys2Proof/Machine/CellCore.lean ====
section
/-! DEFINITION. A cell between its ops: register files, results that come due, entry of exceptions and events, the end of a
bundle, completion causes, restarts (R327-R365, R431-R453). `c` is always a lead (R237). -/

namespace Sys2Proof.Machine

/-! ### Register files (R327, R328) -/

/-- A general register; G0 reads as zero. -/
def Cell.rg (x : Cell) (r : Nat) : Word := if r = 0 then 0 else Tab.get 0 x.g r

/-- A general register written; G0 discards. -/
def Cell.wg (x : Cell) (r : Nat) (v : Word) : Cell := if r = 0 then x else { x with g := Tab.set 0 x.g r v }

/-- A predicate, by bits [2:0] of its field; F0 reads as true. -/
def Cell.rf (x : Cell) (k : Nat) : Bool := if k % 8 = 0 then true else x.f.testBit (k % 8)

/-- A predicate written; F0 discards. -/
def Cell.wf (x : Cell) (k : Nat) (b : Bool) : Cell := if k % 8 = 0 then x else { x with f := setBit x.f (k % 8) b }

/-- A product register. -/
def Cell.rp (x : Cell) (k : Nat) : BitVec 144 := Tab.get 0 x.p (k % 4)
def Cell.wp (x : Cell) (k : Nat) (v : BitVec 144) : Cell := { x with p := Tab.set 0 x.p (k % 4) v }

/-- MFF's value (R328). -/
def Cell.mff (x : Cell) : Word := BitVec.ofNat 72 (x.f / 2 % 128 * 2 + 1)

/-- Take an effect. -/
def Cell.take (x : Cell) (e : Eff) : Cell :=
  match e with
  | .g r v => x.wg r v
  | .f r b => x.wf r b
  | .fAll m => { x with f := m % 256 / 2 * 2 }
  | .p r v => x.wp r v
  | .pAdd r v => x.wp r (x.rp r + v)
  | .pHi r v => x.wp r (v ++ (x.rp r).extractLsb' 0 72)
  | .pLo r v => x.wp r ((x.rp r).extractLsb' 72 72 ++ v)

/-- The product register an effect writes. -/
def Eff.preg : Eff → Option Nat
  | .p r _ => some (r % 4)
  | .pAdd r _ => some (r % 4)
  | .pHi r _ => some (r % 4)
  | .pLo r _ => some (r % 4)
  | _ => none

/-- The bundle from which an effect of latency `n` is visible: multiply ops and MTP to one product register take effect in
issue order (R383, R411). -/
def Cell.dueAt (x : Cell) (e : Eff) (n : Nat) : Nat :=
  match e.preg with
  | none => x.bun + n
  | some r => x.due.foldl (fun m q => if q.eff.preg = some r then max m q.at' else m) (x.bun + n)

/-- Schedule an effect of an op of the bundle that issues now (DEDUCED, log 67). -/
def Cell.later (x : Cell) (slot n : Nat) (e : Eff) : Cell :=
  { x with due := x.due ++ [⟨x.dueAt e n, slot, e⟩] }

/-- The effects visible from the bundle that runs next: in one cycle the later slot prevails (R357). -/
def Cell.settle (x : Cell) : Cell :=
  let now := x.due.filter (fun q => decide (q.at' ≤ x.bun))
  let y : Cell := { x with due := x.due.filter (fun q => decide (x.bun < q.at')) }
  ([0, 1, 2, 3] : List Nat).foldl (fun y k => (now.filter (fun q => decide (q.slot = k))).foldl (fun y q => y.take q.eff) y) y

/-- ST after writes, oldest first: each replaces its own bits (R332, R333). -/
def stAfter (st : Word) (l : List (Nat × Word × Word)) : Word := l.foldl (fun st q => (st &&& ~~~ q.2.1) ||| (q.2.2 &&& q.2.1)) st

/-- A written ST whose second shadow bundle is past comes into force (R333). -/
def Cell.shadows (x : Cell) : Cell :=
  match x.shadow.filter (fun q => decide (q.1 ≤ x.bun)) with
  | [] => x
  | l => { x with st := stAfter x.st l, shadow := x.shadow.filter (fun q => decide (x.bun < q.1)) }

/-! ### Fields of ST (R332) -/
def stIE : Span := ⟨33, 33⟩
def stIPL : Span := ⟨32, 29⟩
def stTE : Span := ⟨28, 28⟩
def stRSW : Span := ⟨27, 27⟩
def stLEN : Span := ⟨26, 26⟩
def stPL : Span := ⟨35, 34⟩
/-- The assigned bits of ST. -/
def stMask : Word := 0xFFC00000F

def Cell.ie (x : Cell) : Bool := decide (stIE.get x.st ≠ 0)
def Cell.ipl (x : Cell) : Nat := stIPL.get x.st
def Cell.te (x : Cell) : Bool := decide (stTE.get x.st ≠ 0)
def Cell.rsw (x : Cell) : Bool := decide (stRSW.get x.st ≠ 0)
def Cell.len (x : Cell) : Bool := decide (stLEN.get x.st ≠ 0)

/-- A value written to ST over `old`: PL 3 leaves PL (R332). -/
def stWritten (old v : Word) : Word :=
  let w := v &&& stMask
  if stPL.get w = 3 then stPL.put w (stPL.get old) else w

/-! ### Hardware loops and the end of a bundle (R358-R360) -/

def Cell.loop (x : Cell) (k : Nat) : Loop := Tab.get {} x.loops k
def Cell.putLoop (x : Cell) (k : Nat) (l : Loop) : Cell := { x with loops := Tab.set {} x.loops k l }

/-- The highest active level whose last bundle is at `b` (R360). -/
def Cell.loopEnds (x : Cell) (b : Nat) : Option Nat :=
  ([2, 1, 0] : List Nat).find? (fun k => decide ((x.loop k).count ≠ 0 ∧ (x.loop k).fin = b))

/-- The innermost active level. -/
def Cell.inner (x : Cell) : Option Nat := ([2, 1, 0] : List Nat).find? (fun k => decide ((x.loop k).count ≠ 0))

/-- The loop buffer is that of level `k` as it stands. -/
def LoopBuf.isOf (q : LoopBuf) (k : Nat) (l : Loop) : Bool := decide (q.lvl = k ∧ q.start = l.start ∧ q.fin = l.fin)

/-- The loop buffer takes the bundle at `b` in the first iteration of the innermost active level; a body of more than 32 bundles, or with a taken
branch, does not qualify (R351, R420). -/
def Cell.buffer (x : Cell) (on : Bool) (b : Nat) (taken : Bool) : Cell :=
  match x.inner with
  | some k =>
    let l := x.loop k
    if on && x.len && decide (l.start ≤ b ∧ b ≤ l.fin) then
      let q := match x.lbuf with
        | some q => if q.isOf k l then q else { lvl := k, start := l.start, fin := l.fin }
        | none => { lvl := k, start := l.start, fin := l.fin }
      let room := q.full || q.held.contains b || decide (q.held.length < 32)
      let r : LoopBuf := { q with fits := q.fits && room && !taken, full := q.full || decide (b = l.fin ∧ 2 ≤ l.count) }
      { x with lbuf := some (if q.full || q.held.contains b || !room then r else { r with held := q.held ++ [b] }) }
    else x
  | none => { x with lbuf := none }

/-! ### Return stack (R339, R340) -/

/-- Push a return address; the entry that a pop takes; pop it. -/
def Cell.push (x : Cell) (a : Nat) : Cell :=
  { x with rse := Tab.set 0 x.rse x.rtop a, rtop := (x.rtop + 1) % 16, rdepth := min (x.rdepth + 1) 16 }
def Cell.top (x : Cell) : Nat := Tab.get 0 x.rse ((x.rtop + 15) % 16)
def Cell.pop (x : Cell) : Cell := { x with rtop := (x.rtop + 15) % 16, rdepth := x.rdepth - 1 }

/-- A CALL pushes, a RET pops, as its delay bundle completes: a fault there runs the branch again (R358, R438). -/
def Cell.stack (x : Cell) (q : Delay) (fall : Nat) : Cell :=
  match q.call with | some true => x.push fall | some false => x.pop | none => x

/-- ST as RETX restores it: a level is never raised by RETX (R367), and PL 3 is no level (DEDUCED, log 132). -/
def stRestored (old v : Word) : Word :=
  let w := v &&& stMask
  if stPL.get old < stPL.get w then stPL.put w (stPL.get old) else w

/-- The loop test after the bundle at `b`, which `fall` follows; `lend` is LEN as it stood for the bundle: the cell, and the bundle that runs next
(R360). -/
def Cell.loopNext (x : Cell) (b fall : Nat) (lend : Bool) : Cell × Nat :=
  match (if lend then x.loopEnds b else none) with
  | some k =>
    let l := x.loop k
    if 2 ≤ l.count then (x.putLoop k { l with count := l.count - 1 }, l.start) else (x.putLoop k { l with count := 0 }, fall)
  | none => (x, fall)

/-- The bundle at `b` of `len` op words completes; `dly` is the branch it holds (R358, R360). A return ends the shadows of every MTS to ST that its own
bundle does not hold or follow (R333). -/
def Cell.advance (x : Cell) (b len : Nat) (dly : Option Delay) (lend : Bool) : Cell :=
  let fall := opAdd b len
  match x.delay with
  | some q =>
    let y : Cell := { x.stack q fall with delay := none, pc := q.tgt.getD fall }
    match q.retx with
    | some (st, rs) => { y with st := stRestored x.st st, resume := rs, depth := x.depth - 1,
                                  shadow := x.shadow.filter (fun e => decide (x.bun < e.1)) }
    | none => y
  | none =>
    let r := x.loopNext b fall lend
    match dly with
    | some q => { r.1 with delay := some q, pc := r.2 }
    | none => { r.1 with pc := r.2 }

/-! ### Causes (R431) -/
def cBUNDLE : Nat := 0x01
def cOP : Nat := 0x02
def cPRIV : Nat := 0x03
def cFETCH : Nat := 0x04
def cIACC : Nat := 0x05
def cTFETCH : Nat := 0x06
def cTDATA : Nat := 0x07
def cDACC : Nat := 0x08
def cDERR : Nat := 0x09
def cIO : Nat := 0x0A
def cRSOV : Nat := 0x0B
def cRSUN : Nat := 0x0C
def cDIV : Nat := 0x0D
def cOVF : Nat := 0x0E
def cBRK : Nat := 0x0F
def cSYSC : Nat := 0x10
def cVEC : Nat := 0x18
def cCALIPER : Nat := 0x20
def cCALRST : Nat := 0x21
def cSUPRST : Nat := 0x22
def cSTART : Nat := 0x23
def cEVENT : Nat := 0x3F

/-- The record of a cause that has an address (R432, R455). -/
def Dev.recordFault (d : Dev) (c cause addr : Nat) (w io : Bool) : Dev :=
  let k := ecFinf c
  ((((d.wr (ecFadr c) (BitVec.ofNat 72 addr)).fp k EcFinf.V 1).fp k EcFinf.CAUSE cause).fb k EcFinf.W w).fb k EcFinf.IO io

/-! ### Entry (R438, R441, R443) -/

/-- An entry's particulars. -/
structure Entry where
  lvl   : Nat
  cause : Nat
  epc   : Nat
  dslot : Bool := false
  resume : Bool := false
  imprecise : Bool := false
  /-- event and priority of an event entry -/
  ev    : Option (Nat × Nat) := none
deriving DecidableEq, Repr

/-- ESTAT as an entry writes it (R334) (DEDUCED, log 68). -/
def estatWord (e : Entry) (shadow : Bool) (st : Word) : Word :=
  BitVec.ofNat 72 (e.cause * 2 ^ 64 + b2n e.dslot * 2 ^ 63 + b2n e.resume * 2 ^ 62 + b2n e.imprecise * 2 ^ 61 + b2n shadow * 2 ^ 60)
    ||| (st &&& 0xFFFFFFFFF)

/-- ST after an entry (R441). -/
def stEntered (e : Entry) (st : Word) : Word :=
  let s1 := stLEN.put (stIE.put (stPL.put st e.lvl) 0) 0
  let s2 := match e.ev with | some (_, p) => stIPL.put s1 p | none => s1
  if e.lvl = 2 then stTE.put s2 0 else s2

/-- The vector of an entry (R443). -/
def Entry.vector (e : Entry) (evb : Nat) : Nat :=
  opAdd (evb * 1024) (match e.ev with
    | some (n, _) => 0x400 + 4 * n
    | none => if e.lvl = 2 then 0x100 + 4 * e.cause else 4 * e.cause)

/-- A cell stops what it was taking in: no op of the bundle takes effect. A line it has asked for still comes. -/
def Cell.flush (x : Cell) : Cell :=
  { x with
      bundle := [], closed := false, cal := .agree, delay := none, resume := false, wait := .none, walk := none,
      blk := none, stall := false, entry := none, once := false }

/-- Enter an exception or event (R441): the one operation that saves, changes ST and goes to the vector (DEDUCED, log 146). -/
def Cell.enter (x : Cell) (e : Entry) : Cell :=
  let saved := stAfter x.st x.shadow
  let w := estatWord e (decide (x.shadow ≠ [])) saved
  let y : Cell := { x.flush with
    st := stEntered e x.st, shadow := [], pc := e.vector x.evb, depth := x.depth + 1, vec := some (x.st, e.cause),
    entry := e.ev.map (fun q => ⟨q.1, x.st⟩) }
  if e.lvl = 2 then { y with mepc := e.epc, mestat := w } else { y with epc := e.epc, estat := w }

/-- The level that a fault, trap or completion cause enters (R433). -/
def Cell.entryLevel (x : Cell) : Nat := if x.pl = 2 then 2 else 1

/-- Enter a fault of the bundle at the pc: in a delay bundle the branch is named (R438). -/
def Cell.fault (x : Cell) (cause : Nat) : Cell :=
  match x.delay with
  | some q => x.enter { lvl := x.entryLevel, cause := cause, epc := q.at', dslot := true }
  | none => x.enter { lvl := x.entryLevel, cause := cause, epc := x.pc, resume := x.resume }

/-- A fetch or translation fault on a vector (R444): cause 0x18 at M, or checkstop where the vector was an M vector. -/
def Dev.vectorFault (d : Dev) (c : Nat) (st : Word) (cause : Nat) : Dev :=
  let x := d.cell c
  if x.pl = 2 then
    ((d.mates c).foldl (fun d k => (d.fp (ecCst k) EcCst.CHK 1).fp (ecCst k) EcCst.CAUSE cause) d).putCell c x.flush
  else
    let y := x.enter { lvl := 2, cause := cVEC, epc := x.pc }
    d.putCell c { y with mestat := estatWord { lvl := 2, cause := cVEC, epc := x.pc } false st }

/-- A fault whose cause has an address: the record, then the entry (R432, R444). -/
def Dev.faultAt (d : Dev) (c cause addr : Nat) (w : Bool) : Dev :=
  let x := d.cell c
  let d1 := if cause = cFETCH ∨ cause = cIACC ∨ cause = cDACC ∨ cause = cDERR then d.recordFault c cause addr w false else d
  match x.vec with
  | some (st, old) => if cause = cFETCH ∨ cause = cTFETCH then d1.vectorFault c st old else d1.putCell c (x.fault cause)
  | none => d1.putCell c (x.fault cause)

/-! ### Completion causes (R432, R435-R437) -/

/-- HELDN follows. -/
def Dev.heldSync (d : Dev) (c : Nat) : Dev := d.fp (ecFinf c) EcFinf.HELDN (min 15 (d.cell c).held.length)

/-- Insert a cause in the issue order of its op. -/
def insHeld (h : HeldC) : List HeldC → List HeldC
  | [] => [h]
  | a :: l => if h.seq < a.seq then h :: a :: l else a :: insHeld h l

/-- A completion cause becomes due. -/
def Dev.hold (d : Dev) (c : Nat) (h : HeldC) : Dev :=
  let x := d.cell c
  (d.putCell c { x with held := insHeld h x.held }).heldSync c

/-- Discard every held cause (R436). -/
def Dev.dropHeld (d : Dev) (c : Nat) : Dev := (d.putCell c { d.cell c with held := [] }).heldSync c

/-- A load or IN whose nominal latency has passed without its response freezes issue (R412). -/
def Cell.late (x : Cell) : Bool := x.loads.any (fun l => decide (l.due ≤ x.bun))

/-- A quiesce has stopped issue: at a boundary outside a delay bundle, the shadow bundles of an MTS to ST and a walk (R229, R312, R468). -/
def Cell.quieted (x : Cell) : Bool := (x.quiet || x.parked) && decide (x.delay = none ∧ x.shadow = [] ∧ x.walk = none)

/-- The cell runs: clocked, not stopped by anything but its own program. -/
def Dev.running (d : Dev) (c : Nat) : Bool :=
  let x := d.cell c
  (d.run || d.boot.monitor) && d.cellHere c && decide (d.lead c = c) && decide (d.role c = 0 ∨ d.role c = 1) && !x.frozen && !x.quieted &&
    (!x.halted || x.once) && !d.rider.foff.testBit (c / 4) && !d.ff (ecCst c) EcCst.CHK && !d.ff (fuClk (c / 4)) FuClk.RELOCK

/-- The cell stands at a bundle boundary and is not frozen (R413, R435, R452). -/
def Dev.atBoundary (d : Dev) (c : Nat) : Bool :=
  let x := d.cell c
  d.running c && decide (x.delay = none) && decide (x.walk = none) && !x.stall && !x.late && !d.txCopying c

/-- The completion cause that the boundary raises, if any (R435) (DEDUCED, log 66). -/
def Cell.dueCause (x : Cell) : Option HeldC :=
  match x.held.find? (fun h => decide (h.depth = x.depth)) with
  | some h => if x.wait = .none ∧ x.blk = none then some h else none
  | none => none

/-- Raise a completion cause at the boundary; EPC names the bundle that would have issued next (R437). -/
def Dev.raiseCause (d : Dev) (c : Nat) : Dev :=
  let x := d.cell c
  match (if d.atBoundary c then x.dueCause else none) with
  | none => d
  | some h =>
    let d1 := if h.cause = cDACC ∨ h.cause = cDERR ∨ h.cause = cIO then d.recordFault c h.cause h.addr h.w h.io else d
    let y : Cell := { x with held := x.held.filter (fun q => decide (q.seq ≠ h.seq)) }
    (d1.putCell c (y.enter {
      lvl := x.entryLevel, cause := h.cause, epc := x.pc, resume := x.resume,
      imprecise := decide (h.bun + 1 < x.bun) })).heldSync c

/-! ### Events (R449-R452) -/

/-- The test of R451 under a status word: M events at U and S always, else IE and the priority. -/
def Dev.eventTest (d : Dev) (st : Word) (e : Nat) : Bool :=
  let pri := d.fg (ecRt e) EcRt.PRI
  let mlvl := d.ff (ecRt e) EcRt.LVL
  let beyond := decide (stIE.get st ≠ 0) && decide (stIPL.get st < pri)
  d.ff (ecRt e) EcRt.EN && decide (pri ≠ 0) &&
    (if stPL.get st = 2 then mlvl && beyond else mlvl || beyond)

/-- The events pending in cell `c`, ascending. -/
def Dev.pendings (d : Dev) (c : Nat) : List Nat :=
  ([0, 1, 2, 3, 4, 5, 6, 7] : List Nat).flatMap (fun k =>
    let w := d.fg (ecPend c k) EcPend.PEND
    if w = 0 then [] else (bitsOf w 32).map (fun b => 32 * k + b))

/-- The pending event with the highest priority, the lowest number first, among those that pass (R451). -/
def Dev.pick (d : Dev) (c : Nat) (st : Word) : Option Nat :=
  (d.pendings c).foldl (fun b e =>
    if d.eventTest st e then
      match b with
      | none => some e
      | some q => if d.fg (ecRt q) EcRt.PRI < d.fg (ecRt e) EcRt.PRI then some e else b
    else b) none

/-- The event that the boundary takes, if any. -/
def Dev.dueEvent (d : Dev) (c : Nat) : Option Nat :=
  if d.atBoundary c && decide ((d.cell c).entry = none) then d.pick c (d.cell c).st else none

/-- The window registers of an event entry (R455). -/
def Dev.noteEvent (d : Dev) (c e : Nat) (tko : Bool) : Dev :=
  d.wr (ecCur c) (fields [(1, 35), (e, 27), (d.fg (ecRt e) EcRt.PRI, 23), (b2n tko, 22)])

/-- Enter event `e` (R438, R441, R451): a block op or a WAITC is named with RESUME, and goes on after the return. -/
def Dev.enterEvent (d : Dev) (c e : Nat) : Dev :=
  let x := d.cell c
  let pri := d.fg (ecRt e) EcRt.PRI
  let lvl := if d.ff (ecRt e) EcRt.LVL then 2 else 1
  let at' := match x.blk with | some b => (b.at', true) | none => match x.wait with | .waitc a _ _ _ _ _ _ => (a, true) | _ => (x.pc, x.resume)
  (d.putCell c (x.enter { lvl := lvl, cause := cEVENT, epc := at'.1, resume := at'.2, ev := some (e, pri) })).noteEvent c e false

/-- A boundary at which an event may be taken takes it; a due completion cause comes first (R435, R451). -/
def Dev.takeEvent (d : Dev) (c : Nat) : Dev :=
  if (d.cell c).dueCause ≠ none then d
  else match d.dueEvent c with
  | some e => d.enterEvent c e
  | none => d

/-- A higher event takes over an event entry whose first handler bundle has not issued (R447) (DEDUCED, log 64). -/
def Dev.takeover (d : Dev) (c : Nat) : Dev :=
  let x := d.cell c
  match x.entry with
  | none => d
  | some n =>
    match d.pick c n.st with
    | none => d
    | some e =>
      if d.running c ∧ d.fg (ecRt n.ev) EcRt.PRI < d.fg (ecRt e) EcRt.PRI then
        let pri := d.fg (ecRt e) EcRt.PRI
        let lvl := if d.ff (ecRt e) EcRt.LVL then 2 else 1
        let y : Cell := if lvl = stPL.get x.st then { x with st := stIPL.put x.st pri }
          else if lvl = 2 then { x with st := stTE.put (stIPL.put (stPL.put x.st 2) pri) 0, mepc := x.epc, mestat := x.estat }
          else { x with st := stTE.put (stIPL.put (stPL.put x.st 1) pri) (stTE.get n.st), epc := x.mepc, estat := x.mestat }
        (d.putCell c { y with
          entry := some ⟨e, n.st⟩, pc := opAdd (x.evb * 1024) (0x400 + 4 * e) }).noteEvent c e true
      else d

/-- The event of an entry is acknowledged: its pending bit clears (R446) (DEDUCED, log 69). -/
def Dev.acknowledge (d : Dev) (c : Nat) : Dev :=
  match (d.cell c).entry with
  | some n => (d.clearPend n.ev c).putCell c { d.cell c with entry := none }
  | none => d

/-! ### The event latch (R363, R364) -/

def Dev.latched (d : Dev) (c : Nat) : Bool := d.ff (clEvt c) ClEvt.LATCH

/-- Set the latch of a cell's whole group. -/
def Dev.setLatch (d : Dev) (c : Nat) : Dev := d.fp (clEvt (d.lead c)) ClEvt.LATCH 1

/-- SEV (R363): the cell or group named by [5:0] if it runs the issuer's partition, or all of that partition with [6]. -/
def Dev.sev (d : Dev) (c : Nat) (v : Word) : Dev :=
  let p := (d.cell c).part
  let reach := fun k => d.cellHere k && decide (d.role k = 0 ∨ d.role k = 1) && decide ((d.cell (d.lead k)).part = p)
  if v.toNat / 64 % 2 = 1 then ((List.range 64).filter reach).foldl (fun d k => d.setLatch k) d
  else if reach (v.toNat % 64) then d.setLatch (v.toNat % 64) else d

/-- An event that wakes a WFE: one that would pass if IE were 1 (R364) (DEDUCED, log 154). -/
def Dev.wakes (d : Dev) (c : Nat) : Bool := (d.pick c (stIE.put (d.cell c).st 1)) ≠ none

/-- A waiting WFE goes on (R364). -/
def Dev.wakeWfe (d : Dev) (c : Nat) : Dev :=
  let x := d.cell c
  if x.wait = .wfe ∧ d.running c then
    if d.latched c then (d.fp (clEvt c) ClEvt.LATCH 0).putCell c { x with wait := .none }
    else if d.wakes c then d.putCell c { x with wait := .none }
    else d
  else d

/-- A threshold is reached (R70). -/
def reached (down : Bool) (value v : Word) : Bool := if down then decide (sgn (value - v) ≤ 0) else decide (0 ≤ sgn (value - v))

/-- The reading that a WAITC tests. -/
def Dev.waitReading (d : Dev) (dom : Nat) (conf : Bool) : Word := if conf then d.rd (adConf dom) else d.rd (adLive dom)

/-- A bundle of the cell has completed (R370). -/
def Dev.countBundle (d : Dev) (c : Nat) : Dev := d.wr (clBun c) (d.rd (clBun c) + 1)

/-- A waiting WAITC whose threshold the published reading has reached completes, and its bundle with it (R70, R71). -/
def Dev.waitcDone (d : Dev) (c : Nat) : Dev :=
  let x := d.cell c
  match x.wait with
  | .waitc b len dom conf down lend v =>
    if d.running c && reached down (d.waitReading dom conf) v then
      let y : Cell := { x with wait := .none }
      if x.blk = none then (d.putCell c (y.advance b len none lend)).countBundle c else d.putCell c y
    else d
  | _ => d

/-! ### Debug halts (R238, R584) -/

/-- The group halts for debug at its present boundary: no op of the bundle that it was taking in acts. -/
def Dev.haltGroup (d : Dev) (c : Nat) : Dev :=
  let d1 := d.putCell c { d.cell c with halted := true, bundle := [], closed := false, cal := .agree, stall := false }
  (d1.mates c).foldl (fun d k => d.latch (dbHlt (k / 32)) DbHlt.HLT (k % 32)) d1

/-- The group is released. -/
def Dev.releaseGroup (d : Dev) (c : Nat) : Dev :=
  let d1 := d.putCell c { d.cell c with halted := false, once := false }
  (d1.mates c).foldl (fun d k => d.fp (dbHlt (k / 32)) DbHlt.HLT (setBit (d.fg (dbHlt (k / 32)) DbHlt.HLT) (k % 32) false)) d1

/-! ### Restarts and copies -/

/-- Clear a cell's pending events. -/
def Dev.clearPends (d : Dev) (c : Nat) : Dev := (List.range 8).foldl (fun d k => d.wr (ecPend c k) 0) d

/-- Cell `c` becomes a SPARE, which belongs to no partition: number 64 (R206, R234). -/
def Dev.spareCell (d : Dev) (c : Nat) : Dev :=
  let d1 := (d.setRole c 2 0).clearPends c
  d1.putCell c { d1.cell c with part := 64, pgrp := 0 }

/-- The requests of a cell that are in flight (R495). -/
def Cell.flights (x : Cell) : List Nat :=
  x.loads.filterMap LoadE.fly ++ x.stores.filterMap StoreE.fly ++ (x.walk.bind Walk.fly).toList ++ (x.line.map FetchE.fly).toList

/-- Requests that their cell no longer waits for leave the count. -/
def Dev.landAll (d : Dev) (ids : List Nat) : Dev := ids.foldl (fun d i => d.land i) d

/-- Every register at its reset value but EVB, the identity, and what is in flight nowhere (R445) (DESIGN CHOICE, log 159). -/
def Cell.cleared (x : Cell) : Cell := { evb := x.evb, part := x.part, pgrp := x.pgrp, txAbc := 0 }

/-- A restart enters M at the partition's restart vector (R445). -/
def Dev.restart (d : Dev) (c cause mepc : Nat) (st : Word) (keep : Bool) : Dev :=
  let x := d.cell c
  let y : Cell := if keep then { x.flush with shadow := [], held := [], due := [], loads := [], stores := [], longs := [], ists := [], tlb := [], line := none } else x.cleared
  let z : Cell := { y with
    st := 0x800000000, pc := d.fg (ecRvec x.part) EcRvec.VEC, mepc := mepc, depth := 0, held := [],
    mestat := estatWord { lvl := 2, cause := cause, epc := mepc } false st, frozen := false, quiet := false, parked := false }
  let d1 := (((d.landAll x.flights).putCell c z).heldSync c).wr (ecCur c) 0
  (d1.mates c).foldl (fun d k => d.wr (ecCst k) 0) d1

/-- Every buffer of a cell is emptied (R232, R350). -/
def Cell.emptyBuffers (x : Cell) : Cell :=
  { x with dc := [], dcNxt := [], wl := [], wlNxt := 0, btb := [], lbuf := none, attrs := [], attrNxt := 0, tlb := [], trnxt := 0 }

/-- The wide-line and loop buffers are emptied (R404). -/
def Cell.isync (x : Cell) : Cell := { x with wl := [], lbuf := none }

end Sys2Proof.Machine
end

