-- ==== Sys2Proof/Machine/Domains.lean ====
section
/-! DEFINITION. Angle domains (02): edges, confirmation, rates, readings, derived, mains and time domains, and the
index plate. A working copy of one domain is read from the registers, worked on, and written back. -/

namespace Sys2Proof.Machine

/-- A working copy of one domain: its registers and its internal state. -/
structure DomW where
  ctl  : Word
  src  : Word
  chk  : Word
  inc  : Word
  stat : Word
  err  : Word
  conf : Word
  live : Word
  rate : Word
  reva : Word
  st   : Dom
deriving DecidableEq, Repr

/-- Read domain `n` into a working copy. -/
def Dev.loadDom (d : Dev) (n : Nat) : DomW :=
  ⟨d.rd (adCtl n), d.rd (adSrc n), d.rd (adChk n), d.rd (adInc n), d.rd (adStat n), d.rd (adErr n),
    d.rd (adConf n), d.rd (adLive n), d.rd (adRate n), d.rd (adReva n), d.dom n⟩

/-- Write a working copy back. -/
def Dev.storeDom (d : Dev) (n : Nat) (w : DomW) : Dev :=
  (((((((d.wr (adStat n) w.stat).wr (adErr n) w.err).wr (adConf n) w.conf).wr (adLive n) w.live).wr
    (adRate n) w.rate).wr (adReva n) w.reva).wr (adCtl n) w.ctl).putDom n w.st

/-- The end of the present port tick in capture ticks of 2 ns (R24). -/
def Dev.now (d : Dev) : Nat := 5 * d.tick + 5

/-! ### Cause bits of ADnSTAT, in the order of ADnCTL.SIE (R73) -/
def causeWRAP : Nat := 0
def causeEARLY : Nat := 1
def causeSTEP : Nat := 2
def causeINTEG : Nat := 3
def causeCHL : Nat := 4
def causeLOCK : Nat := 5
def causeREV : Nat := 6
def causeSTALL : Nat := 7

namespace DomW

def type (w : DomW) : Nat := AdSrc.TYPE.get w.src
def en (w : DomW) : Bool := decide (AdCtl.EN.get w.ctl ≠ 0)
def ratev (w : DomW) : Bool := decide (AdStat.RATEV.get w.stat ≠ 0)
def down (w : DomW) : Bool := decide (AdStat.DIR.get w.stat ≠ 0)
def stalled (w : DomW) : Bool := decide (AdStat.STALL.get w.stat ≠ 0)
def revm (w : DomW) : Bool := decide (AdSrc.REVM.get w.src ≠ 0)
/-- A channel is lost: the readings are frozen (R50). -/
def frozen (w : DomW) : Bool := decide (AdStat.CHLA.get w.stat ≠ 0 ∨ AdStat.CHLB.get w.stat ≠ 0)
def setStat (w : DomW) (f : Span) (v : Nat) : DomW := { w with stat := f.put w.stat v }
def cause (w : DomW) (i : Nat) : DomW := w.setStat AdStat.CAUSE (AdStat.CAUSE.get w.stat ||| 2 ^ i)
def countErr (w : DomW) (f : Span) : DomW :=
  { w with err := f.put w.err (satAdd 511 (f.get w.err) 1) }

/-- LOSSN, of which 0 acts as 1 (R82). -/
def lossn (w : DomW) : Nat := max 1 (AdChk.LOSSN.get w.chk)
/-- MINW, of which values below 10 act as 10 (R44). -/
def minw (w : DomW) : Nat := max 10 (AdCtl.MINW.get w.ctl)
/-- STALLT in capture ticks; 0 acts as 1 ms (R53). -/
def stallTicks (w : DomW) : Nat := max 1 (AdCtl.STALLT.get w.ctl) * 500000
/-- Rate intervals n = NINT + 1, of which NINT 0 acts as 1 (R52, R73). -/
def intervals (w : DomW) : Nat := max 1 (AdCtl.NINT.get w.ctl) + 1
/-- The counted edges of one error window (R82). -/
def window (w : DomW) : Nat := 64 * 2 ^ min 10 (AdChk.WIN.get w.chk)
/-- How many accepted edges make a counted-edge interval (R52). -/
def edgeDiv (w : DomW) : Nat :=
  if w.type = 1 then (match AdSrc.EDGES.get w.src with | 0 => 4 | 1 => 2 | _ => 1) else 1
/-- |RATE|. -/
def absRate (w : DomW) : Nat := (sgn w.rate).natAbs

/-- The credit procedure: `dn` is the sign of the step (R45, R46). -/
def creditStep (w : DomW) (dn : Bool) : DomW :=
  let w1 := if dn then w.cause causeREV else w
  let w2 : DomW := { w1 with st := { w1.st with credit := true } }
  if w.revm then
    if dn then { w2 with reva := w2.reva + w2.inc }
    else if 0 < sgn w2.reva then { w2 with reva := w2.reva - w2.inc }
    else { w2 with conf := w2.conf + w2.inc }
  else if dn then { w2 with conf := w2.conf - w2.inc, reva := w2.reva + w2.inc }
  else { w2 with conf := w2.conf + w2.inc }

/-- The credit that the pending edge would give if it were confirmed (R47). -/
def pendCredit (w : DomW) : Word :=
  if w.st.pend = 0 ∨ ¬ w.st.pendN then 0
  else
    let v := w.creditStep (decide (w.st.pend < 0))
    v.conf - w.conf

/-- The confirmed reading plus the pending credit (R47). -/
def base (w : DomW) : Word := w.conf + w.pendCredit

/-- Position in the Gray sequence 00, 10, 11, 01 of the levels A, B (R45). -/
def gray (a b : Bool) : Nat :=
  match a, b with | false, false => 0 | true, false => 1 | true, true => 2 | false, true => 3

/-- Whether the boundary between Gray positions `p` and `q` is counted under EDGES (R45). -/
def countedBoundary (w : DomW) (p q : Nat) : Bool :=
  match AdSrc.EDGES.get w.src with
  | 0 => decide (p + q = 1)
  | 1 => decide (p + q = 1 ∨ p + q = 5)
  | _ => true

/-- DIR follows the direction of the counted edges; with REVM = 1 it stays 0 (R46). A change of DIR sets LIVE to
its computed value (R47). -/
def setDir (w : DomW) (dn : Bool) : DomW :=
  let n := dn && !w.revm
  if n = w.down then w
  else
    let v := w.setStat AdStat.DIR (b2n n)
    { v with live := v.base }

/-- The rate estimate at a counted accepted edge at stamp `t` (R52); over no time its value is free (DESIGN CHOICE, log 168). -/
def rateEdge (w : DomW) (dn : Bool) (t : Nat) : DomW :=
  let s := dirOf dn
  let fresh := decide (w.st.dir ≠ 0 ∧ w.st.dir ≠ s)
  let w1 : DomW := if fresh then { w.setStat AdStat.RATEV 0 with rate := 0, st := { w.st with ring := [] } } else w
  let ring := (t :: w1.st.ring).take 65
  let m := min (ring.length - 1) w1.intervals
  let span := t - ring.getD m t
  let r : Word := if m = 0 then w1.rate
    else if span = 0 then Config.zeroSpanRate w1.inc m dn
    else ofInt (s * ((m * w1.inc.toNat * 500000000 / span : Nat) : Int))
  let w2 : DomW := { w1 with rate := r, st := { w1.st with ring := ring, dir := s, tLast := t, wEdges := w1.st.wEdges + 1 } }
  let w3 := if 2 ≤ m then w2.setStat AdStat.RATEV 1 else w2
  (w3.setStat AdStat.STALL 0).setDir dn

/-- Whether `dt` capture ticks are less than `num / den` of the accepted-edge interval (R48, R49, R52). -/
def belowInterval (w : DomW) (dt num den : Nat) : Bool :=
  decide (w.absRate ≠ 0 ∧ dt * den * w.absRate * w.edgeDiv < num * w.inc.toNat * 500000000)

/-- The phase check of R49 at an edge of channel `x` at stamp `t`. -/
def phaseCheck (w : DomW) (x : Nat) (t : Nat) : DomW :=
  match (if x = 0 then w.st.accB else w.st.accA) with
  | some u => if w.ratev && w.belowInterval (t - u) (AdChk.PHMIN.get w.chk) 256 then w.countErr AdErr.PH else w
  | none => w

/-- A type 1 edge accepted on channel `x` (0 A, 1 B) at stamp `t`, with the levels before it (R45, R49) (DEDUCED, log 12). -/
def quadEdge (w : DomW) (x t : Nat) (p q : Nat) : DomW :=
  let w0 := w.phaseCheck x t
  let run := if w0.st.lastCh = x then w0.st.run + 1 else 1
  let w1 : DomW := { w0 with st := { w0.st with run := run, lastCh := x } }
  let step : Int := if q = (p + 1) % 4 then 1 else -1
  let cnt := w1.countedBoundary p q
  if w1.st.pend ≠ 0 ∧ w1.st.pendCh = x then
    let w2 : DomW := { w1 with st := { w1.st with pend := 0 } }
    if w2.ratev then (w2.countErr AdErr.SEQ).countErr AdErr.WERR else w2
  else
    let w2 := if w1.st.pend ≠ 0 ∧ w1.st.pendN then w1.creditStep (decide (w1.st.pend < 0)) else w1
    let w3 : DomW := { w2 with st := { w2.st with pend := step, pendN := cnt, pendCh := x, pendT := t } }
    if cnt then w3.rateEdge (decide (step < 0)) t else w3

/-- An edge of types 2, 3 and 4: confirmed at acceptance (R45). -/
def singleEdge (w : DomW) (t : Nat) : DomW :=
  let dn := decide (w.type = 3) && w.st.lvlB
  (w.rateEdge dn t).creditStep dn

/-- Discard an edge as a glitch (R44, R48, R49). -/
def glitch (w : DomW) : DomW :=
  let v := w.countErr AdErr.GL
  if w.type = 1 then v.countErr AdErr.WERR else v

/-- The edge comes less than MINW after the previous accepted edge of its input (R44). -/
def tooSoon (w : DomW) (x t : Nat) : Bool :=
  match (if x = 0 then w.st.accA else w.st.accB) with
  | some u => decide (t - u < w.minw)
  | none => false

/-- Enter the level of channel `x` in the domain's record, whatever becomes of the edge (R44). -/
def record (w : DomW) (x : Nat) (l : Bool) : DomW :=
  if x = 0 then { w with st := { w.st with lvlA := l } } else { w with st := { w.st with lvlB := l } }

/-- Note an accepted edge of input `x`. -/
def accept (w : DomW) (x t : Nat) : DomW :=
  if x = 0 then { w with st := { w.st with accA := some t } } else { w with st := { w.st with accB := some t } }

/-- One change of the conditioned level of channel `x` to `l`, stamped `t` (R44, R45, R48). -/
def edge (w : DomW) (x : Nat) (l : Bool) (t : Nat) : DomW :=
  let p := gray w.st.lvlA w.st.lvlB
  let w1 := w.record x l
  let q := gray w1.st.lvlA w1.st.lvlB
  if p = q then w
  else match w.type with
  | 1 => if w.tooSoon x t then w1.glitch else (w1.quadEdge x t p q).accept x t
  | 2 => if x = 0 ∧ l then (if w.tooSoon 0 t then w1.glitch else (w1.singleEdge t).accept 0 t) else w1
  | 3 => if x = 0 ∧ l then (if w.tooSoon 0 t then w1.glitch else (w1.singleEdge t).accept 0 t) else w1
  | 4 =>
    if x = 0 ∧ l then
      if w.tooSoon 0 t || (match w.st.accA with
          | some u => w.ratev && w.belowInterval (t - u) 1 4
          | none => false) then w1.glitch
      else (w1.singleEdge t).accept 0 t
    else w1
  | _ => w

/-- The terminal of channel A and, where the type has one, of channel B. -/
def channelOf (w : DomW) (port term : Nat) : Option Nat :=
  let a := decide (port = AdSrc.PAP.get w.src ∧ term = AdSrc.PAT.get w.src)
  let b := decide (port = AdSrc.PBP.get w.src ∧ term = AdSrc.PBT.get w.src)
  if a then some 0 else if b && decide (w.type = 1 ∨ w.type = 3) then some 1 else none

/-- Order 1: the due edges that concern this domain. -/
def takeEdges (w : DomW) (es : List Edge) : DomW :=
  es.foldl (fun w e =>
    match w.channelOf e.port e.term with
    | some x => if w.frozen then w.record x e.lvl else w.edge x e.lvl e.stamp
    | none => w) w

/-- `new` replaces `old` unless it lies against DIR (R47) (DEDUCED, log 13). -/
def ratchet (w : DomW) (old new : Word) : Word :=
  let ahead := if w.down then sgn (old - new) else sgn (new - old)
  if 0 ≤ ahead then new else old

/-- The effective rate of R53's pseudocode at `age` capture ticks, 48.24 counts per second. -/
def effRate (w : DomW) (age : Nat) : Nat :=
  if age = 0 then w.absRate else min w.absRate (w.inc.toNat * 500000000 / age)

/-- Order 2 for types 1-4: the live reading (R47, R53). -/
def interpolate (w : DomW) (now : Nat) : DomW :=
  let age := now - w.st.tLast
  let frac : Nat :=
    if w.ratev && decide (AdCtl.INTERP.get w.ctl ≠ 0) then
      min (min (w.absRate * age / 500000000) w.inc.toNat) (w.inc.toNat - 1)
    else 0
  let v := if sgn w.rate < 0 then w.base - BitVec.ofNat 72 frac else w.base + BitVec.ofNat 72 frac
  { w with live := w.ratchet w.live v }

/-- A reading passes the boundary between the largest positive and the most negative value (R61). -/
def wrapped (old new : Word) : Bool :=
  decide ((old.toNat + 2 ^ 71) % 2 ^ 72 < 2 ^ 70 ∧ 3 * 2 ^ 70 ≤ (new.toNat + 2 ^ 71) % 2 ^ 72) ||
  decide ((new.toNat + 2 ^ 71) % 2 ^ 72 < 2 ^ 70 ∧ 3 * 2 ^ 70 ≤ (old.toNat + 2 ^ 71) % 2 ^ 72)

/-- Types 1-4 on one port tick, orders 1 and 2. -/
def tickCounted (w : DomW) (es : List Edge) (now : Nat) : DomW :=
  let w1 := w.takeEdges es
  let w2 := if w1.frozen then w1 else w1.interpolate now
  let w3 := if wrapped w.conf w2.conf || wrapped w.live w2.live then w2.cause causeWRAP else w2
  w3.setStat AdStat.PEND (b2n (decide (w3.st.pend ≠ 0)))

/-- The domain is in lock, or in HOLD (R58). -/
def locked (w : DomW) : Bool := decide (AdStat.LOCK.get w.stat ≠ 0)
def holding (w : DomW) : Bool := decide (AdStat.HOLD.get w.stat ≠ 0)

/-- The phase error of the PLL in lock: half a degree of a cycle of 2^48 (R58). -/
def halfDegree : Nat := 2 ^ 48 / 720

/-- How far the value of a type 5 domain moves on one port tick: in HOLD at the last locked frequency, until crossings return; else by `free`,
a value that the spec leaves open, in lock never past the next crossing by more than the phase error (R57, R58, R609). -/
def mainsMove (w : DomW) (free : Nat) : Nat :=
  if w.holding && !w.st.track then w.st.mstep
  else if w.locked then
    let ahead := sgn (w.live - w.st.mcyc)
    min free ((2 ^ 48 + halfDegree : Int) - ahead).toNat
  else free

/-- Type 5 on one port tick: the PLL's value moves forward, or is held while the domain acquires (R57, R58, R609). -/
def tickMains (w : DomW) (free : Nat) : DomW :=
  if w.st.acq then { w with rate := 0 }
  else
    let m := w.mainsMove (free % 2 ^ 48 + 1)
    let v := w.live + BitVec.ofNat 72 m
    let w1 : DomW := { w with live := v, conf := v, rate := BitVec.ofNat 72 (w.st.mstep * 100000000),
                              st := { w.st with hold := if w.holding then w.st.hold + m else 0 } }
    if v.toNat < w.live.toNat then w1.cause causeWRAP else w1

/-- LOCK of a time domain, with its change noted (R59, R73). -/
def setLock (w : DomW) (l : Bool) : DomW :=
  let w1 := if decide (AdStat.LOCK.get w.stat ≠ 0) = l then w else w.cause causeLOCK
  (w1.setStat AdStat.LOCK (b2n l)).setStat AdStat.RATEV (b2n l)

/-- Type 6 on one port tick: the PTP clock's time, its lock and its increment (R59-R61). -/
def tickPtp (w : DomW) (sec ns : Nat) (lock : Bool) (add : Nat) : DomW :=
  let us := sec * 1000000 + ns / 1000
  let v := BitVec.ofNat 72 (us % 2 ^ 48 * 2 ^ 24 + (ns % 1000) * 2 ^ 24 / 1000)
  let laps := us / 2 ^ 48
  let w1 : DomW := { w with live := v, conf := v, rate := BitVec.ofNat 72 (add * 1000000 / 2 ^ 10) }
  let w2 := if w.st.stepped then w1.cause causeSTEP else w1
  let w3 := if decide (w.st.laps.getD laps < laps) then w2.cause causeWRAP else w2
  let w4 := w3.setLock lock
  { w4 with st := { w4.st with stepped := false, stepNow := w.st.stepped, laps := some laps } }

/-- Type 7 on one port tick: port ticks since enable; LOCK changes to 1 on the first (R59, R73) (DESIGN CHOICE, log 14, log 169). -/
def tickLocal (w : DomW) : DomW :=
  let t := w.st.ticks + 1
  let v := BitVec.ofNat 72 (t * 2 ^ 24 / 100)
  let w1 : DomW := { w with live := v, conf := v, rate := BitVec.ofNat 72 (1000000 * 2 ^ 24), st := { w.st with ticks := t } }
  (if wrapped w.live v then w1.cause causeWRAP else w1).setLock true

/-- A reading scaled by an unsigned 24.48 factor, floored at 2^-24 (R54). -/
def scaled (v : Word) (s : Word) : Word := ofInt (floorDiv (sgn v * (s.toNat : Int)) (2 ^ 48))

/-- Type 8 on one port tick: computed from its source (R54). A source that is disabled holds it (R55) (DEDUCED, log 15). -/
def tickDerived (w : DomW) (s : DomW) : DomW :=
  if s.en then
    let c := w.st.bd + scaled (s.conf - w.st.bs) w.inc
    let l := w.st.bd + scaled (s.live - w.st.bs) w.inc
    let w1 : DomW := { w with conf := c, live := l, rate := scaled s.rate w.inc, st := { w.st with credit := s.st.credit } }
    let w2 := if wrapped w.conf c || wrapped w.live l then w1.cause causeWRAP else w1
    let w3 := (w2.setStat AdStat.DIR (AdStat.DIR.get s.stat)).setStat AdStat.RATEV (AdStat.RATEV.get s.stat)
    let w4 := if s.stalled && !w3.stalled then w3.cause causeSTALL else w3
    let w5 := if AdStat.LOCK.get s.stat ≠ AdStat.LOCK.get w4.stat then w4.cause causeLOCK else w4
    (w5.setStat AdStat.STALL (AdStat.STALL.get s.stat)).setStat AdStat.LOCK (AdStat.LOCK.get s.stat)
  else w

end DomW

/-! ### Commands at order 3 (R56, R62, R81) -/

/-- The enabled domains derived from domain `n`. -/
def Dev.derivedFrom (d : Dev) (n : Nat) : List Nat :=
  (List.range 32).filter (fun m => decide (d.fg (adSrc m) AdSrc.TYPE = 8 ∧ d.fg (adSrc m) AdSrc.DSRC = n))

/-- ZERO on domain `n` (R56). -/
def Dev.zeroDomain (d : Dev) (n : Nat) : Dev :=
  let w := d.loadDom n
  let t := w.type
  if 1 ≤ t ∧ t ≤ 4 then
    let d1 := d.storeDom n { w with conf := 0, live := w.live - w.conf }
    (d1.derivedFrom n).foldl (fun d m =>
      let x := d.loadDom m
      d.putDom m { x.st with bd := x.conf, bs := 0 }) d1
  else if t = 5 then
    let v := BitVec.ofNat 72 (w.live.toNat % 2 ^ 48)
    d.storeDom n { w with live := v, conf := v, st := { w.st with mcyc := w.st.mcyc - (w.live - v) } }
  else if t = 8 then
    let s := d.loadDom (AdSrc.DSRC.get w.src)
    let l := DomW.scaled (s.live - s.conf) w.inc
    d.storeDom n { w with conf := 0, live := l, st := { w.st with bd := 0, bs := s.conf } }
  else d

/-- The commands that have arrived at domain `n`: ZERO, then CLRREV, then SNAP (DESIGN CHOICE, log 10). -/
def Dev.domCommands (d : Dev) (n : Nat) : Dev :=
  let x := d.dom n
  let d1 := if x.zero then d.zeroDomain n else d
  let d2 := if x.clrrev then d1.wr (adReva n) 0 else d1
  let d3 := if x.snap then (d2.wr (adSnl n) (d2.rd (adLive n))).wr (adSnc n) (d2.rd (adConf n)) else d2
  d3.putDom n { d3.dom n with zero := false, clrrev := false, snap := false }

/-! ### The index plate (R63-R69) -/

/-- The effective rate that domain `n` projects with: types 1-4 their own, type 8 the source's scaled, others RATE. -/
def Dev.projRate (d : Dev) (n : Nat) : Nat :=
  let w := d.loadDom n
  if w.type = 8 then
    let s := d.loadDom (AdSrc.DSRC.get w.src)
    let r := if 1 ≤ s.type ∧ s.type ≤ 4 then s.effRate (d.now - s.st.tLast) else s.absRate
    r * w.inc.toNat / 2 ^ 48
  else if 1 ≤ w.type ∧ w.type ≤ 4 then w.effRate (d.now - w.st.tLast)
  else w.absRate

/-- The basis value of a slot with control word `ctl`; the projection goes the way of the rate (R63). -/
def Dev.basis (d : Dev) (n : Nat) (ctl : Word) : Word :=
  let lead := AdSlotCtl.LEAD.get ctl
  if AdSlotCtl.BASIS.get ctl ≠ 0 then d.rd (adConf n)
  else if lead = 0 ∨ ¬ d.ff (adStat n) AdStat.RATEV then d.rd (adLive n)
  else
    let p := BitVec.ofNat 72 (d.projRate n * lead / 1000000)
    if sgn (d.rd (adRate n)) < 0 then d.rd (adLive n) - p else d.rd (adLive n) + p

/-- A match of slot `s` of domain `n`: ONESHOT clears ARM, but a control that arrived on this port tick, or is on its way, ends as written
(R66, R67, R69). -/
def Dev.slotMatch (d : Dev) (n s : Nat) (x : Slot) : Dev :=
  let dn := d.ff (adStat n) AdStat.DIR
  let reached := if dn then decide (sgn (d.rd (adLive n) - x.val) ≤ 0) else decide (0 ≤ sgn (d.rd (adLive n) - x.val))
  let led := decide (AdSlotCtl.BASIS.get x.ctl = 0 ∧ 0 < AdSlotCtl.LEAD.get x.ctl) && d.ff (adStat n) AdStat.RATEV && !reached
  let one := decide (AdSlotCtl.ONESHOT.get x.ctl ≠ 0 ∧ x.ctlAt ≠ some d.tick)
  let x1 : Slot := { x with due := some d.tick, act := x.ctl, watch := if led then some dn else x.watch,
                            ctl := if one then AdSlotCtl.ARM.put x.ctl 0 else x.ctl }
  let d1 := (d.latch (adSlst n) AdSlst.MATCH s).putSlot n s x1
  let d2 := if one && x.wCtl.isEmpty then d1.fp (adSlotCtl n s) AdSlotCtl.ARM 0 else d1
  d2.raiseIf (decide (AdSlotCtl.IE.get x.ctl ≠ 0)) n

/-- Order 5 for slot `s`: the basis of this tick, the crossing test, and the kept value, which a backward step of the PTP clock alone takes back
(R60, R63-R65). -/
def Dev.slotEval (d : Dev) (n s : Nat) : Dev :=
  let x := d.slot n s
  let dn := d.ff (adStat n) AdStat.DIR
  let raw := d.basis n x.ctl
  let behind := if dn then decide (0 < sgn (raw - x.kept)) else decide (sgn (raw - x.kept) < 0)
  let back := (d.dom n).stepNow && decide (d.fg (adSrc n) AdSrc.TYPE = 6)
  if AdSlotCtl.ARM.get x.ctl = 0 then d.putSlot n s { x with prev := raw }
  else if x.load || (back && behind) then d.putSlot n s { x with prev := raw, kept := raw, load := false }
  else
    let new := if behind then x.kept else raw
    let hit := crosses dn x.kept new x.val
    let x1 : Slot := { x with prev := raw, kept := new }
    if hit then d.slotMatch n s x1 else d.putSlot n s x1

/-- The watch of a match fired through a lead: EARLY when the domain stalls or reverses first (R69). -/
def Dev.earlyCheck (d : Dev) (n s : Nat) : Dev :=
  let x := d.slot n s
  match x.watch with
  | none => d
  | some dn =>
    let diff := if dn then d.rd (adLive n) - x.val else x.val - d.rd (adLive n)
    if sgn diff ≤ 0 then d.putSlot n s { x with watch := none }
    else if d.ff (adStat n) AdStat.STALL || (d.ff (adStat n) AdStat.DIR != dn) then
      let d1 := (d.latch (adSlst n) AdSlst.EARLY s).wr (adEdif n) diff
      let d2 := (d1.fp (adSlst n) AdSlst.EDSLOT s).fp (adSlst n) AdSlst.EDV 1
      (d2.latch (adStat n) AdStat.CAUSE causeEARLY).putSlot n s { x with watch := none }
    else d

/-- A change of DIR loads the kept basis of every slot (R65) (DEDUCED, log 163). -/
def Dev.reloadKept (d : Dev) (n : Nat) : Dev :=
  (List.range 8).foldl (fun d s => d.putSlot n s { d.slot n s with load := true }) d

/-- The slots of domain `n` on one port tick. -/
def Dev.domSlots (d : Dev) (n : Nat) : Dev :=
  (List.range 8).foldl (fun d s => (d.slotEval n s).earlyCheck n s) d

/-- One port tick brings every slot write on its way nearer (R64). -/
def Dev.slotWritesAge (d : Dev) : Dev :=
  { d with slots := d.slots.map (fun e => (e.1, { e.2 with wVal := e.2.wVal.map CmpWrite.age, wCtl := e.2.wCtl.map CmpWrite.age })) }

/-- A slot write reaches the live comparator (R64, R65, R69): value and control as written; NEAR is judged against the
basis of the previous port tick. -/
def Dev.slotArrive (d : Dev) (n s : Nat) : Dev :=
  let x := d.slot n s
  let v := (CmpWrite.here x.wVal).getLast?
  let c := (CmpWrite.here x.wCtl).getLast?
  if v.isSome || c.isSome then
    let val := (v.map CmpWrite.val).getD x.val
    let ctl := (c.map CmpWrite.val).getD x.ctl
    let arm := decide (AdSlotCtl.ARM.get ctl ≠ 0)
    let was := decide (AdSlotCtl.ARM.get x.ctl ≠ 0)
    let one := max 1 ((sgn (d.rd (adRate n))).natAbs / 100000000)
    let x1 : Slot := { x with val := val, ctl := ctl, wVal := CmpWrite.rest x.wVal, wCtl := CmpWrite.rest x.wCtl,
                              ctlAt := if c.isSome then some d.tick else x.ctlAt, load := x.load || (arm && !was), watch := none }
    let d1 := d.putSlot n s x1
    if arm && nearTo one x.prev val then d1.latch (adSlst n) AdSlst.NEAR s else d1
  else d

/-! ### One domain on one port tick -/

/-- The PTP clock's lock, increment and time as a type 6 domain takes them (R59). -/
def Dev.ptpOf (d : Dev) (w : DomW) : DomW :=
  let p := AdSrc.TPORT.get w.src
  let t := d.rd (ptTime p)
  w.tickPtp (PtTime.SEC.get t) (PtTime.NS.get t) (d.ff (ptCtl p) PtCtl.LOCK) (d.fg (ptAdd p) PtAdd.ADD)

/-- Orders 1 and 2 of a domain that is not derived. -/
def Dev.tickBasic (d : Dev) (es : List Edge) (n : Nat) : Dev :=
  let w := d.loadDom n
  if w.en then
    let w0 : DomW := { w with st := { w.st with credit := false } }
    match w.type with
    | 0 => d
    | 5 => (d.storeDom n (w0.tickMains (Config.freeWord d.fresh).toNat)).next
    | 6 => d.storeDom n (d.ptpOf w0)
    | 7 => d.storeDom n w0.tickLocal
    | 8 => d
    | t => if t < 5 then d.storeDom n (w0.tickCounted es d.now) else d
  else d

/-- Order 2 of a derived domain. -/
def Dev.tickDerived (d : Dev) (n : Nat) : Dev :=
  let w := d.loadDom n
  if w.en && decide (w.type = 8) then
    d.storeDom n ({ w with st := { w.st with credit := false } }.tickDerived (d.loadDom (AdSrc.DSRC.get w.src)))
  else d

/-- Orders 3 to 6 of an enabled domain; `was` is DIR before the tick. -/
def Dev.tickPlate (d : Dev) (was : Bool) (n : Nat) : Dev :=
  if d.ff (adCtl n) AdCtl.EN then
    let d1 := d.domCommands n
    let d2 := if d1.ff (adStat n) AdStat.DIR = was then d1 else d1.reloadKept n
    (d2.domSlots n).relevel (32 + n)
  else d.putDom n { d.dom n with zero := false, clrrev := false, snap := false, credit := false }

/-- The work of every domain on one port tick (R62), on the edges accepted at least 20 ns before it. -/
def Dev.tickDomains (d : Dev) : Dev :=
  let due := d.edges.filter (fun e => decide (e.acc + 10 ≤ d.now))
  let rest := d.edges.filter (fun e => decide (¬ e.acc + 10 ≤ d.now))
  let was := (List.range 32).map (fun n => d.ff (adStat n) AdStat.DIR)
  let d1 := (List.range 32).foldl (fun d n => d.tickBasic due n) { d with edges := rest }
  let d2 := (List.range 32).foldl (fun d n => d.tickDerived n) d1
  let d3 := (List.range 32).foldl (fun d n => d.tickPlate (was.getD n false) n) d2
  d3.slotWritesAge

/-! ### Events of a domain -/

/-- The reading of a conditioned level: bit `t` of FPnIN.LVL (DESIGN CHOICE, log 21). -/
def Dev.levelAt (d : Dev) (p t : Nat) : Bool := (d.fg (fpIn p) FpIn.LVL).testBit t && decide (t < 3)

/-- Losing a channel: the domain freezes and its source becomes active (R49, R50) (DEDUCED, log 17, DEDUCED, log 18). -/
def Dev.channelLost (d : Dev) (n : Nat) : Dev :=
  let w := d.loadDom n
  if w.en && decide (w.type = 1) && decide (w.lossn ≤ w.st.run) && !w.frozen then
    let f := if w.st.lastCh = 0 then AdStat.CHLB else AdStat.CHLA
    let w1 := (((w.setStat f 1).setStat AdStat.STALL 1).cause causeSTALL).cause causeCHL
    ((d.storeDom n w1).relevel (32 + n)).raiseSrc (64 + n) n
  else d

/-- WERR above ERRLIM sets INTEG and its source (R49, R50). -/
def Dev.integrityFault (d : Dev) (n : Nat) : Dev :=
  let w := d.loadDom n
  if w.en && decide (w.type = 1) && decide (AdChk.ERRLIM.get w.chk < AdErr.WERR.get w.err) then
    ((d.storeDom n (w.cause causeINTEG)).relevel (32 + n)).raiseSrc (96 + n) n
  else d

/-- The end of an error window starts a new one (R49). -/
def Dev.errorWindowEnd (d : Dev) (n : Nat) : Dev :=
  let w := d.loadDom n
  if w.window ≤ w.st.wEdges then
    d.storeDom n { w with err := AdErr.WERR.put w.err 0, st := { w.st with wEdges := 0 } }
  else d

/-- No counted edge for STALLT ms: STALL sets and the estimate is cleared (R53). Answers whether STALL set now (DEDUCED, log 19). -/
def Dev.stallDomain (d : Dev) (n : Nat) : Dev × Bool :=
  let w := d.loadDom n
  if w.en && decide (1 ≤ w.type ∧ w.type ≤ 4) && decide (w.stallTicks ≤ d.now - w.st.tLast) &&
      (!w.stalled || w.ratev || decide (w.rate ≠ 0 ∨ w.st.ring ≠ [])) then
    let w0 := (w.setStat AdStat.STALL 1).setStat AdStat.RATEV 0
    let w1 := if w.stalled then w0 else w0.cause causeSTALL
    let d1 := d.storeDom n { w1 with rate := 0, st := { w1.st with ring := [] } }
    ((((List.range 8).foldl (fun d s => d.earlyCheck n s) d1)).relevel (32 + n), !w.stalled)
  else (d, false)

/-- EN going from 0 to 1 (R50, R52, R54, R59, R73): STALL stays until the next accepted counted edge, and STALL and HOLD of a mains domain
until its first crossing (R53, R609); DIR is 0 again (DEDUCED, log 16; DESIGN CHOICE, log 170). -/
def Dev.enableDomain (d : Dev) (n : Nat) : Dev :=
  let w := d.loadDom n
  let was := w.frozen
  let s := d.loadDom (AdSrc.DSRC.get w.src)
  let keep := (if 1 ≤ w.type ∧ w.type ≤ 5 then [AdStat.STALL] else []) ++ (if w.type = 5 then [AdStat.HOLD] else [])
  let stat := ([AdStat.RATEV, AdStat.DIR, AdStat.CHLA, AdStat.CHLB, AdStat.PEND, AdStat.STALL, AdStat.HOLD, AdStat.LOCK].filter
    (fun f => !keep.contains f)).foldl (fun x f => f.put x 0) w.stat
  let st : Dom := { w.st with
    lastCh := 2, run := 0, pend := 0, accA := none, accB := none, ring := [], dir := 0, tLast := d.now,
    lvlA := d.levelAt (AdSrc.PAP.get w.src) (AdSrc.PAT.get w.src),
    lvlB := d.levelAt (AdSrc.PBP.get w.src) (AdSrc.PBT.get w.src),
    bs := s.conf, bd := w.conf, acq := decide (w.type = 5), good := 0, mstep := 0, track := false, ticks := 0, stepped := false,
    stepNow := false, laps := none }
  let d1 := d.storeDom n { w with stat := stat, rate := 0, ctl := AdCtl.EN.put w.ctl 1, st := st }
  if was then d1.dropSrc (64 + n) n else d1

/-- EN going from 1 to 0: the readings hold, a pending edge is discarded (R73). -/
def Dev.disableDomain (d : Dev) (n : Nat) : Dev :=
  let w := d.loadDom n
  d.storeDom n { w with ctl := AdCtl.EN.put w.ctl 0, stat := AdStat.PEND.put w.stat 0,
                        st := { w.st with pend := 0, credit := false } }

/-- The first crossing of an acquisition: the value steps to the next multiple of 2^48, which a wrap may bring to 0 (R61, R609). -/
def DomW.acquire (w : DomW) : DomW :=
  let v := BitVec.ofNat 72 ((w.live.toNat + 2 ^ 48 - 1) / 2 ^ 48 * 2 ^ 48)
  let w1 := if v = w.live then w else w.cause causeSTEP
  let w2 := if v.toNat < w.live.toNat then w1.cause causeWRAP else w1
  let w3 := (w2.setStat AdStat.STALL 0).setStat AdStat.HOLD 0
  { w3 with live := v, conf := v, st := { w3.st with acq := false, good := 0, mcyc := v, hold := 0 } }

/-- A later crossing: it lies at a multiple of 2^48, from which the value, which never moves back, differs by the phase error, in lock half a
degree at most, at a good crossing less than two; where it differs by more the crossing is no good one (R57, R58). `free` is what the spec
leaves open. -/
def DomW.follow (w : DomW) (good : Bool) (free : Nat) : DomW :=
  let c : Word := if w.locked then w.st.mcyc + BitVec.ofNat 72 (2 ^ 48) else BitVec.ofNat 72 ((w.live.toNat + 2 ^ 47) / 2 ^ 48 * 2 ^ 48)
  let e := if w.locked then DomW.halfDegree else 4 * DomW.halfDegree - 1
  let t := c - BitVec.ofNat 72 e + BitVec.ofNat 72 (free % (2 * e + 1))
  let v := if (w.locked || good) && decide (0 ≤ sgn (t - w.live)) then t else w.live
  let ok := good && decide ((sgn (v - c)).natAbs ≤ e)
  let w1 := if v.toNat < w.live.toNat then w.cause causeWRAP else w
  { w1 with live := v, conf := v,
            st := { w1.st with mcyc := c, good := if ok then w.st.good + 1 else 0, hold := w.st.hold + (v - w.live).toNat } }

/-- A positive-going zero crossing of voltage `ph`, which domain `n` tracks where MPH names it; `good`: its phase error was below 2 degrees
(R57, R58, R609). The frequency estimate and the value within its bounds are free (DESIGN CHOICE, log 26). -/
def Dev.mainsCrossing (d : Dev) (n ph : Nat) (good : Bool) : Dev :=
  let w := d.loadDom n
  if w.en && decide (w.type = 5 ∧ AdSrc.MPH.get w.src = ph) then
    let w1 := if w.st.acq then w.acquire else w.follow good (Config.freeWord (d.fresh + 1)).toNat
    let w2 : DomW := { w1 with st := { w1.st with
      mstep := (Config.freeWord d.fresh).toNat % 2 ^ 32, crossAt := d.tick, track := true } }
    (d.storeDom n w2).next.next.relevel (32 + n)
  else d

/-- Eight good cycles set LOCK and end HOLD (R58, R609). -/
def Dev.mainsLock (d : Dev) (n : Nat) : Dev :=
  let w := d.loadDom n
  if w.en && decide (w.type = 5) && decide (8 ≤ w.st.good) && !w.st.acq then
    (d.storeDom n ((w.setLock true).setStat AdStat.HOLD 0)).relevel (32 + n)
  else d

/-- What ends the lock (R58): 0 no crossing for 40 ms, 1 the frequency estimate leaves 45 to 65 Hz, 2 the amplitude is too low, which the
converter alone knows. -/
def Dev.lockLost (d : Dev) (w : DomW) (why : Nat) : Bool :=
  match why with
  | 0 => decide (w.st.crossAt + 4000000 ≤ d.tick)
  | 1 => decide (w.st.mstep * 100000000 < 45 * 2 ^ 48 ∨ 65 * 2 ^ 48 < w.st.mstep * 100000000)
  | _ => true

/-- Loss of lock starts HOLD at the last locked frequency (R58). -/
def Dev.mainsLockLoss (d : Dev) (n why : Nat) : Dev :=
  let w := d.loadDom n
  if w.en && decide (w.type = 5) && w.locked && d.lockLost w why then
    let w1 := (w.setLock false).setStat AdStat.HOLD 1
    (d.storeDom n { w1 with st := { w1.st with good := 0, track := false, hold := 0 } }).relevel (32 + n)
  else d

/-- Eight cycles after lock loss the domain stops with STALL and acquires again (R58). -/
def Dev.holdEnd (d : Dev) (n : Nat) : Dev :=
  let w := d.loadDom n
  if w.en && decide (w.type = 5) && w.holding && !w.st.acq && decide (8 * 2 ^ 48 ≤ w.st.hold) then
    let w1 := (w.setStat AdStat.STALL 1).cause causeSTALL
    (d.storeDom n { w1 with st := { w1.st with acq := true } }).relevel (32 + n)
  else d

/-- Enter a conditioned level that the filter accepted at capture tick `acc`, FILT capture ticks after the first sample of it (R116). -/
def Dev.newLevel (d : Dev) (p t : Nat) (l : Bool) (acc : Nat) : Dev :=
  if d.portHere p && (d.levelAt p t != l) then
    let d1 := d.fp (fpIn p) FpIn.LVL (setBit (d.fg (fpIn p) FpIn.LVL) t l)
    { d1 with edges := d1.edges ++ [⟨p, t, l, acc - d.fg (fpCfg p) FpCfg.FILT, acc⟩] }
  else d

end Sys2Proof.Machine
end

