-- ==== Sys2Proof/Machine/Ethernet.lean ====
section
/-! DEFINITION. Ethernet ports and PTP clocks (R500-R525): rings and descriptors, held frames, the receive path, MACsec,
PRP, and the clocks. -/

namespace Sys2Proof.Machine

/-! ### Bits of ETpSTAT.CAUSE (R522) and of PTpSTAT.CAUSE (R525) -/
def ecLINK : Nat := 7
def ecNOBUF : Nat := 6
def ecRXERR : Nat := 5
def ecRINGERR : Nat := 4
def ecSECFAIL : Nat := 3
def ecPNTH : Nat := 2
def ecHGPOL : Nat := 1
def pcLOCK : Nat := 2
def pcSTEP : Nat := 1
def pcCLAMP : Nat := 0

def Dev.eth (d : Dev) (p : Nat) : Eth := Tab.get {} d.eths p
def Dev.putEth (d : Dev) (p : Nat) (x : Eth) : Dev := { d with eths := Tab.set {} d.eths p x }

/-- The event of ring `k` of port `p`. -/
def ringEvent (p k : Nat) : Nat := 192 + 8 * p + k

/-- Note a cause of port `p` (R521). -/
def Dev.ethCause (d : Dev) (p i : Nat) : Dev :=
  (d.latch (etStat p) EtStat.CAUSE i).relevel (ringEvent p (d.fg (etCfg p) EtCfg.SEV))

/-- PRP runs (R5, R502). -/
def Dev.prp (d : Dev) : Bool := !d.isH && d.ff (etCfg 0) EtCfg.PRP

/-! ### Rings (R504, R506) -/

/-- LOGN, of which values outside 3-12 act as the nearer bound (R523). -/
def logn (cfg : Word) : Nat := min 12 (max 3 (TrCfg.LOGN.get cfg))

/-- The DMA privilege of a ring, of which 3 acts as 2. -/
def ringPl (cfg : Word) : Nat := min 2 (TrCfg.PL.get cfg)

/-- Address of the descriptor `i` of a ring. -/
def descAddr (base cfg : Word) (i : Nat) : Nat :=
  let b := TrBase.BASE.get base
  b - b % 2 ^ (logn cfg + 1) + 2 * (i % 2 ^ logn cfg)

/-- HEAD of the transmit and of the receive ring. -/
def Dev.txHead (d : Dev) (p k : Nat) : Nat := d.fg (trHead p k) TrHead.HEAD
def Dev.rxHead (d : Dev) (p k : Nat) : Nat := d.fg (rrHead p k) RrHead.HEAD

/-- Move HEAD on by one. -/
def Dev.txAdvance (d : Dev) (p k : Nat) : Dev :=
  d.fp (trHead p k) TrHead.HEAD ((d.txHead p k + 1) % 2 ^ logn (d.rd (trCfg p k)))
def Dev.rxAdvance (d : Dev) (p k : Nat) : Dev :=
  d.fp (rrHead p k) RrHead.HEAD ((d.rxHead p k + 1) % 2 ^ logn (d.rd (rrCfg p k)))

/-- Stop a transmit ring on a descriptor fault (R506). -/
def Dev.txStop (d : Dev) (p k : Nat) : Dev :=
  (d.fp (etStat p) EtStat.TRERR (setBit (d.fg (etStat p) EtStat.TRERR) k true)).ethCause p ecRINGERR
/-- Stop a receive ring on a descriptor fault (R509). -/
def Dev.rxStop (d : Dev) (p k : Nat) : Dev :=
  (d.fp (etStat p) EtStat.RRERR (setBit (d.fg (etStat p) EtStat.RRERR) k true)).ethCause p ecRINGERR

/-- A field of a descriptor word. -/
def dW0 (st sts : Nat) (old : Word) : Word :=
  (⟨66, 63⟩ : Span).put ((⟨71, 70⟩ : Span).put old st) sts

/-- The time of PTP clock `p`, in ns. -/
def Dev.ptpNs (d : Dev) (p : Nat) : Nat := d.fg (ptTime p) PtTime.SEC * 1000000000 + d.fg (ptTime p) PtTime.NS

/-- A time stamp word from ns. -/
def stampWord (ns : Nat) : Word := fields [(ns / 1000000000 % 2 ^ 42, 30), (ns % 1000000000, 0)]

/-- ETHOFF has powered port `p` down (R507). -/
def Dev.ethOff (d : Dev) (p : Nat) : Bool := d.rider.eth.testBit p

/-- The link of a powered port is up; under PRP, that of either LAN (R507). -/
def Dev.linkUp (d : Dev) (p : Nat) : Bool :=
  let up := fun (q : Nat) => d.ff (etStat q) EtStat.LINK && !d.ethOff q
  up p || (d.prp && up 1)

/-- The device is in the fault state (R266). -/
def Dev.inFault (d : Dev) : Bool := d.ff fcStat FcStat.FSTATE

/-- End the frame at HEAD of a transmit ring: W1 where a stamp is due, then W0 with ST = DONE, and HEAD moves on (R505, R506). -/
def State.txEnd (s : State) (p k sts : Nat) (stamp : Option Word) : State :=
  let cfg := s.dev.rd (trCfg p k)
  let a := descAddr (s.dev.rd (trBase p k)) cfg (s.dev.txHead p k)
  let w0 := s.rdWord a
  let pl := ringPl cfg
  let own := TrCfg.OWNP.get cfg
  let r1 := match stamp with | some t => s.dmaWrite pl own p (a + 1) [t] | none => (true, s)
  let r2 := r1.2.dmaWrite pl own p a [dW0 3 sts w0]
  let d := r2.2.dev
  let x := d.eth p
  let d1 := d.putEth p { x with ready := setBit x.ready k false, freed := setBit x.freed k false, fifo := x.fifo.filter (fun e => decide (e.1 ≠ k)),
                                wire := if x.wire = some k then none else x.wire }
  if r1.1 && r2.1 then
    let d2 := (d1.fp (trHead p k) TrHead.HELD 0).txAdvance p k
    let d3 := d2.raiseIf (TrCfg.IE.get cfg ≠ 0) (ringEvent p k)
    let d4 := d3.raiseIf (stamp.isSome && d3.ff (ptCtl p) PtCtl.TSIE) (210 + p)
    { r2.2 with dev := if sts = 0 then d4.count (etCnt p 3) EtCnt.CNT else d4 }
  else { r2.2 with dev := d1.txStop p k }

/-- The key of a slot that MACsec may use (R517, R572). -/
def Dev.msecKey (d : Dev) (slot : Nat) : Option (List Nat) :=
  if d.fg (skInfo slot) SkInfo.TYPE ≠ 0 ∧ (d.fg (skInfo slot) SkInfo.USE).testBit 0 then some (Tab.get [] d.sec.keys slot) else none

/-- A protected frame has a valid transmit SA and a packet number (R517). -/
def Dev.txSaOk (d : Dev) (p : Nat) : Bool :=
  d.ff (msTxsa p) MsTxsa.V && (d.msecKey (d.fg (msTxsa p) MsTxsa.KSLOT)).isSome && !(d.eth p).pnOut

/-- Take the next packet number; PNTH when it passes the threshold (R517). -/
def Dev.takePn (d : Dev) (p : Nat) : Dev :=
  let n := d.fg (msTxpn p) MsTxpn.PN + 1
  let d1 := d.fp (msTxpn p) MsTxpn.PN n
  let d2 := if n = 2 ^ 32 then d1.putEth p { d1.eth p with pnOut := true } else d1
  if n = d.fg (msPnth p) MsPnth.TH + 1 then d2.ethCause p ecPNTH else d2

/-- The highest-numbered ring of a mask. -/
def topRing (m : Nat) : Option Nat := ([7, 6, 5, 4, 3, 2, 1, 0] : List Nat).find? (fun k => m.testBit k)

/-- Put the next frame on a free wire (R506, R507): the highest-numbered ready ring; `fuel` frames may end at the wire stage. -/
def State.ethPick (s : State) (p : Nat) : Nat → State
  | 0 => s
  | fuel + 1 =>
    let x := s.dev.eth p
    let m := if s.dev.inFault then x.ready &&& x.freed else x.ready
    match x.wire, topRing m with
    | none, some k =>
      if s.dev.linkUp p then
        let w0 := s.rdWord (descAddr (s.dev.rd (trBase p k)) (s.dev.rd (trCfg p k)) (s.dev.txHead p k))
        if s.dev.ff (msCfg p) MsCfg.EN && w0.toNat.testBit 67 then
          (if s.dev.txSaOk p then
            { s with dev := (s.dev.takePn p).putEth p { (s.dev.takePn p).eth p with wire := some k } }
          else (s.txEnd p k 6 none).ethPick p fuel)
        else { s with dev := s.dev.putEth p { x with wire := some k } }
      else if s.dev.ff (etCfg p) EtCfg.LDD then (s.txEnd p k 5 none).ethPick p fuel
      else s
    | _, _ => s

/-- Words of the frame of a descriptor (R503). -/
def frameWords (w0 : Word) : Nat := ((⟨49, 36⟩ : Span).get w0 + 8) / 9

/-- The FIFO of 2 Ki-words has room for the frame of a descriptor (R506). -/
def Dev.fifoRoom (d : Dev) (p : Nat) (w0 : Word) : Bool :=
  decide ((d.eth p).fifo.foldl (fun n e => n + e.2.1) 0 + frameWords w0 ≤ 2048)

/-- Read the frame of ring `k` into the FIFO, the bits `fl` of it in error: it stands there with the STS that its reading gives (R506). -/
def State.txRead (s : State) (p k : Nat) (w0 : Word) (fl : Flips) : State :=
  let len := (⟨49, 36⟩ : Span).get w0
  let cfg := s.dev.rd (trCfg p k)
  let r := if len = 0 ∨ 9216 < len then (4, s)
    else
      let q := s.dmaRead fl (ringPl cfg) (TrCfg.OWNP.get cfg) p ((⟨35, 0⟩ : Span).get w0) (frameWords w0)
      (match q.1 with | none => 3 | some t => if t.2 then 2 else 0, q.2)
  let x := r.2.dev.eth p
  r.2.onDev (r.2.dev.putEth p { x with
    fifo := x.fifo.filter (fun e => decide (e.1 ≠ k)) ++ [(k, if r.1 = 0 then frameWords w0 else 0, r.1)] })

/-- The frame of ring `k` stands in the FIFO: its STS. -/
def Dev.fifoSts (d : Dev) (p k : Nat) : Option Nat := (((d.eth p).fifo.find? (fun e => decide (e.1 = k))).map Prod.snd).map Prod.snd

/-- The frame that ring `k` has in the FIFO is ready for the wire, or ends with its error (R506). -/
def State.txReady (s : State) (p k : Nat) (freed : Bool) : State :=
  match s.dev.fifoSts p k with
  | some 0 =>
    let x := s.dev.eth p
    (s.onDev (s.dev.putEth p { x with ready := setBit x.ready k true, freed := setBit x.freed k freed })).ethPick p 8
  | some sts => s.txEnd p k sts none
  | none => s

/-- A transmit ring reads the descriptor at HEAD (R506, R511); `desc` and `buf` are the bit errors of its own and its
buffer's transfer. A frame that is not held waits for room in the FIFO, and its descriptor is read again (DEDUCED, log 189). -/
def State.descRead (s : State) (p k : Nat) (desc buf : Flips) : State :=
  let d := s.dev
  let cfg := d.rd (trCfg p k)
  let go := d.ethHere p && d.ff (etCfg p) EtCfg.EN && decide (TrCfg.EN.get cfg ≠ 0) && !(d.fg (etStat p) EtStat.TRERR).testBit k &&
    !d.ff (trHead p k) TrHead.HELD && !(d.eth p).ready.testBit k && decide (d.txHead p k ≠ d.fg (trTail p k) TrTail.TAIL) &&
    (!d.ethOff p || d.ff (etCfg p) EtCfg.LDD) && !(d.prp && decide (p = 1))
  if !go then s
  else
    let a := descAddr (d.rd (trBase p k)) cfg (d.txHead p k)
    let r := s.dmaRead desc (ringPl cfg) (TrCfg.OWNP.get cfg) p a 2
    match r.1 with
    | none => { r.2 with dev := r.2.dev.txStop p k }
    | some (ws, bad) =>
      let w0 := ws.headD 0
      if bad || decide ((⟨71, 70⟩ : Span).get w0 ≠ 1) then { r.2 with dev := r.2.dev.txStop p k }
      else if w0.toNat.testBit 69 then
        let q := r.2.dmaWrite (ringPl cfg) (TrCfg.OWNP.get cfg) p a [(⟨71, 70⟩ : Span).put w0 2]
        if q.1 then
          let s1 := q.2.onDev ((q.2.dev.fp (trHead p k) TrHead.HELD 1).raiseIf (TrCfg.HIE.get cfg ≠ 0) (ringEvent p k))
          if s1.dev.fifoRoom p w0 then s1.txRead p k w0 buf else s1
        else { q.2 with dev := q.2.dev.txStop p k }
      else if r.2.dev.fifoRoom p w0 then (r.2.txRead p k w0 buf).txReady p k false
      else r.2

/-- The frame on the wire ends; its start-of-frame delimiter passed `back` ns before (R506, R519). Under PRP it carries the
node's next sequence number (DEDUCED, log 54). -/
def State.frameSent (s : State) (p back : Nat) : State :=
  match (s.dev.eth p).wire with
  | none => s
  | some k =>
    let w0 := s.rdWord (descAddr (s.dev.rd (trBase p k)) (s.dev.rd (trCfg p k)) (s.dev.txHead p k))
    let t := s.dev.ptpNs p - back + s.dev.fg (ptLat p) PtLat.EGR / 10
    let d := s.dev.putEth p { s.dev.eth p with prpSeq := if s.dev.prp then ((s.dev.eth p).prpSeq + 1) % 65536 else (s.dev.eth p).prpSeq }
    (({ s with dev := d } : State).txEnd p k 0 (if w0.toNat.testBit 68 then some (stampWord t) else none)).ethPick p 8

/-- The held descriptor of a ring is claimed (R512). -/
def Dev.heldClaimed (d : Dev) (claimed : Nat → Nat → Nat → Bool) (p k : Nat) : Bool :=
  d.ff (trHead p k) TrHead.HELD && claimed p k (d.txHead p k)

/-- Release the held descriptor of a ring, whose frame is read now where the FIFO had no room for it (R511, R512). -/
def State.release (s : State) (p k : Nat) (byTxu : Bool) : State :=
  if s.dev.ff (trHead p k) TrHead.HELD then
    let w0 := s.rdWord (descAddr (s.dev.rd (trBase p k)) (s.dev.rd (trCfg p k)) (s.dev.txHead p k))
    let s1 := s.onDev (s.dev.fp (trHead p k) TrHead.HELD 0)
    (if (s1.dev.fifoSts p k).isSome then s1 else s1.txRead p k w0 {}).txReady p k byTxu
  else s

/-- Cancel the held descriptor of a ring (R512). -/
def State.cancel (s : State) (p k : Nat) : State :=
  if s.dev.ff (trHead p k) TrHead.HELD then s.txEnd p k 1 none else s

/-- Descriptor `x` of ring `k` of port `p` is in the held state (R511). -/
def Dev.isHeld (d : Dev) (p k x : Nat) : Bool :=
  d.ethHere p && d.ff (trHead p k) TrHead.HELD && decide (d.txHead p k = x)

/-- EN of a ring goes from 0 to 1: its error bit clears (R523). -/
def Dev.ringStart (d : Dev) (p k : Nat) (tx : Bool) : Dev :=
  if tx then d.fp (etStat p) EtStat.TRERR (setBit (d.fg (etStat p) EtStat.TRERR) k false)
  else d.fp (etStat p) EtStat.RRERR (setBit (d.fg (etStat p) EtStat.RRERR) k false)

/-! ### The receive path (R508) -/

/-- A number from octets `i` to `i + n - 1`, most significant first. -/
def octNum (f : List Nat) (i n : Nat) : Nat := ((f.drop i).take n).foldl (fun a o => a * 256 + o % 256) 0

/-- Offset of the EtherType that follows up to two VLAN tags (R513). -/
def typeOff (f : List Nat) : Nat :=
  let tag := fun i => decide (octNum f i 2 = 0x8100 ∨ octNum f i 2 = 0x88A8)
  if tag 12 then (if tag 16 then 20 else 16) else 12

/-- Rule `r` of the headgate matches a frame by itself (R513) (DEDUCED, log 50). -/
def Dev.ruleHits (d : Dev) (p r : Nat) (f : List Nat) (sec : Bool) : Bool :=
  let c := d.rd (hgCtl p r)
  let w := match HgCtl.WID.get c with | 0 => 1 | 1 => 2 | _ => 4
  let off := HgCtl.OFF.get c + (if HgCtl.OFFB.get c = 0 then 0 else typeOff f)
  decide (HgCtl.EN.get c ≠ 0) && decide (off + w ≤ f.length ∧ off + w ≤ 256) && (decide (HgCtl.SEC.get c = 0) || sec) &&
    decide (octNum f off w &&& d.fg (hgMsk p r) HgMsk.MSK = d.fg (hgVal p r) HgVal.VAL &&& d.fg (hgMsk p r) HgMsk.MSK)

/-- What the headgate decides: drop, or a ring with the rule and whether the default decided. -/
structure Verdict where
  ring : Option Nat
  rule : Nat := 0
  dflt : Bool := false
deriving DecidableEq, Repr

/-- Walk the rules from `r` on; `prev` tells that the chain so far matches (R514); `fuel` rules remain. A disabled rule
is no part of a chain. -/
def Dev.headgate (d : Dev) (p : Nat) (f : List Nat) (sec : Bool) (r : Nat) (prev : Bool) : Nat → Verdict × Dev
  | 0 => (if d.ff (hgDef p) HgDef.ACC then ⟨some (d.fg (hgDef p) HgDef.RING), 0, true⟩ else ⟨none, 0, true⟩, d)
  | fuel + 1 =>
    let c := d.rd (hgCtl p r)
    let hit := prev && d.ruleHits p r f sec
    let chain := decide (HgCtl.EN.get c ≠ 0 ∧ HgCtl.CHAIN.get c ≠ 0 ∧ r ≠ 31)
    if chain then d.headgate p f sec (r + 1) hit fuel
    else if hit then
      let d1 := d.count (hgHit p r) HgHit.HIT
      match HgCtl.ACT.get c with
      | 0 => (⟨none, r, false⟩, d1)
      | 1 => (⟨some (HgCtl.RING.get c), r, false⟩, d1)
      | 2 =>
        let x := d1.eth p
        if x.tokens = 0 then (⟨none, r, false⟩, d1.ethCause p ecHGPOL)
        else (⟨some (HgCtl.RING.get c), r, false⟩, d1.putEth p { x with tokens := x.tokens - 1 })
      | _ => d1.headgate p f sec (r + 1) true fuel
    else d.headgate p f sec (r + 1) true fuel

/-- What MACsec makes of a frame: none where it is discarded, else the frame and whether it was validated (R516) (DEDUCED, log 51). -/
def Dev.macsec (d : Dev) (p : Nat) (f : List Nat) : Option (List Nat × Bool) × Dev :=
  let val := min 2 (d.fg (msCfg p) MsCfg.VAL)
  let fail := fun (d : Dev) =>
    if val = 2 then (none, (d.count (etCnt p 4) EtCnt.CNT).ethCause p ecSECFAIL) else (some (f, false), d)
  if !d.ff (msCfg p) MsCfg.EN || decide (val = 0) then (some (f, false), d)
  else if octNum f 12 2 ≠ 0x88E5 then fail d
  else
    let an := octNum f 14 1 % 4
    let pn := octNum f 16 4
    let sci := octNum f 20 8
    match (List.range 4).find? (fun c => d.ff (msRxsci p c) MsRxsci.V && decide (d.fg (msRxsci p c) MsRxsci.SCI = sci)) with
    | none => fail d
    | some c =>
      let sa := (d.rd (msRxsa p c)).toNat / 2 ^ (29 - 7 * an) % 128
      match (if sa / 64 = 1 then d.msecKey (sa % 64) else none) with
      | none => fail d
      | some key =>
        let x := d.eth p
        let next := Tab.get 0 x.rxPn (4 * c + an)
        match macsecOpen key f with
        | none => fail d
        | some g =>
          if d.ff (msCfg p) MsCfg.RPE && decide (pn + d.fg (msCfg p) MsCfg.RWIN < next) then fail d
          else (some (g, true), d.putEth p { x with rxPn := Tab.set 0 x.rxPn (4 * c + an) (max next (pn + 1)) })

/-- The PRP trailer of a frame: its sequence number (R502). -/
def prpTrailer (f : List Nat) : Option Nat :=
  let n := f.length
  if 6 ≤ n ∧ octNum f (n - 2) 2 = 0x88FB then some (octNum f (n - 6) 2) else none

/-- PRP duplicate discard: whether the frame goes on (R502). -/
def Dev.prpTake (d : Dev) (f : List Nat) : Bool × Dev :=
  match prpTrailer f with
  | none => (true, d)
  | some q =>
    if octNum f (typeOff f) 2 = 0x88F7 then (true, d)
    else
      let src := octNum f 6 6
      let x := d.eth 0
      let live := x.dups.filter (fun e => decide (d.tick < e.at' + 40000000))
      if live.any (fun e => decide (e.src = src ∧ e.seq = q)) then (false, (d.putEth 0 { x with dups := live }).count (etCnt 0 5) EtCnt.CNT)
      else (true, d.putEth 0 { x with dups := (if 512 ≤ live.length then live.drop 1 else live) ++ [⟨src, q, d.tick⟩] })

/-- Store a frame in the descriptor at HEAD of receive ring `k` (R508, R509) (DESIGN CHOICE, log 53). -/
def State.rxStore (s : State) (p k : Nat) (f : List Nat) (v : Verdict) (flags : List (Nat × Nat)) (stamp : Word) (desc : Flips) : State :=
  let d := s.dev
  let cfg := d.rd (rrCfg p k)
  let drop := fun (d : Dev) => d.count (etCnt p 2) EtCnt.CNT
  if (d.fg (etStat p) EtStat.RRERR).testBit k then { s with dev := drop d }
  else if RrCfg.EN.get cfg = 0 ∨ d.rxHead p k = d.fg (rrTail p k) RrTail.TAIL then { s with dev := (drop d).ethCause p ecNOBUF }
  else
    let a := descAddr (d.rd (rrBase p k)) cfg (d.rxHead p k)
    let pl := ringPl cfg
    let own := RrCfg.OWNP.get cfg
    let r := s.dmaRead desc pl own p a 2
    match r.1 with
    | none => { r.2 with dev := (drop r.2.dev).rxStop p k }
    | some (ws, bad) =>
      let w0 := ws.headD 0
      if bad || decide ((⟨71, 70⟩ : Span).get w0 ≠ 1) then { r.2 with dev := (drop r.2.dev).rxStop p k }
      else
        let cap := max 1 (min 1024 (RrCfg.RBUF.get cfg))
        let body := packOctets f ((f.length + 8) / 9)
        let q := r.2.dmaWrite pl own p ((⟨35, 0⟩ : Span).get w0) (body.take cap)
        let sts := if !q.1 then 2 else if cap < body.length then 1 else 0
        let q1 := q.2.dmaWrite pl own p (a + 1) [stamp]
        let w := fields ([(3, 70), (sts, 63), (v.rule, 58), (b2n v.dflt, 57), (f.length, 36), ((⟨35, 0⟩ : Span).get w0, 0)] ++ flags)
        let q2 := if q1.1 then q1.2.dmaWrite pl own p a [w] else q1
        if q2.1 then
          let d1 := (q2.2.dev.rxAdvance p k).count (etCnt p 0) EtCnt.CNT
          { q2.2 with dev := d1.raiseIf (RrCfg.IE.get cfg ≠ 0) (ringEvent p k) }
        else { q2.2 with dev := (drop q2.2.dev).rxStop p k }

/-- A frame of octets `f`, without its FCS, comes in on port `p` (R508); `fcs` tells a good FCS, `back` how many ns ago its
first octet passed, `desc` the bit errors of its descriptor's read (DEDUCED, log 48, DESIGN CHOICE, log 161). -/
def State.frameReceived (s : State) (p : Nat) (f : List Nat) (fcs : Bool) (back : Nat) (desc : Flips) : State :=
  if !s.dev.ethHere p then s
  else
  let q := if s.dev.prp then 0 else p
  if !s.dev.ff (etCfg q) EtCfg.EN || s.dev.ethOff p then s
  else if !fcs || decide (f.length < 60 ∨ 9216 < f.length) || decide (octNum f 12 2 = 0x8808) then
    { s with dev := (s.dev.count (etCnt p 1) EtCnt.CNT).ethCause q ecRXERR }
  else
    let t := if s.dev.prp then s.dev.prpTake f else (true, s.dev)
    if !t.1 then { s with dev := t.2 }
    else
      -- a PRP trailer stands outside the frame that MACsec secured (R516)
      let cut := if s.dev.prp && (prpTrailer f).isSome then 6 else 0
      let m := t.2.macsec q (f.take (f.length - cut))
      match m.1 with
      | none => { s with dev := m.2 }
      | some (g0, sec) =>
        let g := g0 ++ f.drop (f.length - cut)
        let h := m.2.headgate q g sec 0 true 32
        match h.1.ring with
        | none => { s with dev := h.2 }
        | some k =>
          let stamp := stampWord (h.2.ptpNs p - back - h.2.fg (ptLat p) PtLat.ING / 10)
          let fl := [(b2n sec, 69), (b2n (s.dev.prp && (prpTrailer f).isSome), 68), (b2n (s.dev.prp && decide (p = 1)), 67)]
          ({ s with dev := h.2 } : State).rxStore q k g h.1 fl stamp desc

/-- One millisecond of the police bucket (R514). -/
def Dev.bucketRefill (d : Dev) (p : Nat) : Dev :=
  d.putEth p { d.eth p with tokens := min (d.fg (hgPol p) HgPol.BURST) ((d.eth p).tokens + d.fg (hgPol p) HgPol.RATE) }

/-- A link goes up or down (R507, R522) (DEDUCED, log 156). -/
def State.linkChange (s : State) (p : Nat) (up anc : Bool) : State :=
  let d1 := (s.dev.fb (etStat p) EtStat.LINK up).fb (etStat p) EtStat.ANC anc
  let d2 := if s.dev.ff (etStat p) EtStat.LINK = up then d1 else d1.ethCause p ecLINK
  ({ s with dev := d2 } : State).ethPick (if d2.prp then 0 else p) 8

/-- A write of MSpTXSA (R517): V = 1 sets the next PN to 1. -/
def Dev.txSaWrite (d : Dev) (p : Nat) (v : Word) : Dev :=
  let d1 := d.wr (msTxsa p) (v &&& (MsTxsa.V.mask ||| MsTxsa.AN.mask ||| MsTxsa.KSLOT.mask))
  if MsTxsa.V.get v = 0 then d1 else (d1.fp (msTxpn p) MsTxpn.PN 1).putEth p { d1.eth p with pnOut := false }

/-! ### PTP clocks (R518, R520) -/

/-- Set PTpCTL.LOCK; a change is a cause (R525). -/
def Dev.ptpLock (d : Dev) (p : Nat) (l : Bool) : Dev :=
  if d.ff (ptCtl p) PtCtl.LOCK = l then d
  else ((d.fb (ptCtl p) PtCtl.LOCK l).latch (ptStat p) PtStat.CAUSE pcLOCK).relevel (208 + p)

/-- A write to PTpADD (R518, R520): a value outside 3.996-4.004 ns stores the nearer bound, sets CLAMP and clears LOCK. -/
def Dev.ptpAddWrite (d : Dev) (p v : Nat) : Dev :=
  let lo := 17162689315
  let hi := 17197049053
  let d1 := (d.fp (ptAdd p) PtAdd.ADD (min hi (max lo v))).putEth p { d.eth p with addAt := d.tick }
  if v < lo ∨ hi < v then ((d1.latch (ptStat p) PtStat.CAUSE pcCLAMP).relevel (208 + p)).ptpLock p false else d1

/-- A low-half write of PTpSTEP: the offset waits for the next PTP tick (R518). -/
def Dev.ptpStepWrite (d : Dev) (p : Nat) (v : Word) : Dev := d.putEth p { d.eth p with step := some v }

/-- The signed offset of PTpSTEP in ns (R525). -/
def stepNs (v : Word) : Int :=
  (v.extractLsb' 30 42).toInt * 1000000000 + ((min 999999999 (v.toNat % 2 ^ 30) : Nat) : Int)

/-- Port 1's clock follows port 0's (R518). -/
def Dev.ptpSlave (d : Dev) (p : Nat) : Bool := decide (p = 1) && (d.prp || d.ff (ptCtl 1) PtCtl.SLV)

/-- Set clock `p` to `x` units of 2^-32 ns; its seconds are 42 bits. -/
def Dev.ptpSet (d : Dev) (p : Nat) (x : Int) : Dev :=
  let ns := ((x.fdiv (2 ^ 32)).emod (2 ^ 42 * 1000000000)).toNat
  { d.wr (ptTime p) (stampWord ns) with ptpFrac := Tab.set 0 d.ptpFrac p ((x.fmod (2 ^ 32)).toNat) }

/-- Clock `p` in units of 2^-32 ns. -/
def Dev.ptpUnits (d : Dev) (p : Nat) : Int := ((d.ptpNs p * 2 ^ 32 + Tab.get 0 d.ptpFrac p : Nat) : Int)

/-- A pending step takes effect (R518, R520): the clock moves, STEP is set, LOCK clears, and the domains it feeds see it. -/
def Dev.ptpStepNow (d : Dev) (p : Nat) : Dev :=
  match (d.eth p).step with
  | none => d
  | some v =>
    let d1 := (d.putEth p { d.eth p with step := none }).ptpSet p (d.ptpUnits p + stepNs v * 2 ^ 32)
    let d2 := ((d1.latch (ptStat p) PtStat.CAUSE pcSTEP).relevel (208 + p)).ptpLock p false
    (List.range 32).foldl (fun d n =>
      let w := d.loadDom n
      let t := AdSrc.TPORT.get w.src
      if w.type = 6 ∧ (t = p ∨ (p = 0 ∧ d.ptpSlave t)) then d.putDom n { w.st with stepped := true } else d) d2

/-- `n` PTP ticks of clock `p` (R518). A step waits for no EN (DEDUCED, log 190). -/
def Dev.ptpTicks (d : Dev) (p n : Nat) : Dev :=
  if decide (0 < n) && !d.ptpSlave p then
    let d1 := d.ptpStepNow p
    if d.ff (ptCtl p) PtCtl.EN then d1.ptpSet p (d1.ptpUnits p + ((n * d1.fg (ptAdd p) PtAdd.ADD : Nat) : Int)) else d1
  else d

/-- Port 1's clock takes port 0's value where it follows it. -/
def Dev.ptpFollow (d : Dev) : Dev :=
  if d.ptpSlave 1 then { d.wr (ptTime 1) (d.rd (ptTime 0)) with ptpFrac := Tab.set 0 d.ptpFrac 1 (Tab.get 0 d.ptpFrac 0) } else d

/-- LKTO seconds without a write to PTpADD (R520). -/
def Dev.ptpTimeout (d : Dev) (p : Nat) : Dev :=
  if (d.eth p).addAt + max 1 (d.fg (ptCtl p) PtCtl.LKTO) * 100000000 ≤ d.tick then d.ptpLock p false else d

end Sys2Proof.Machine
end

