-- ==== Sys2Proof/Machine/Channels.lean ====
section
/-! DEFINITION. Delivery channels (R138-R145): the state machine, with the order of R141 among the events of one port
tick. A lower event of the same tick is undone when a higher one comes, and dropped when it comes after it. -/

namespace Sys2Proof.Machine

/-! ### Bits of CHnSTAT.CAUSE (R166) and states (R139) -/
def causeFLOW : Nat := 7
def causeEND : Nat := 6
def causeSAFE : Nat := 5
def causeRETIRE : Nat := 4
def causeUFLOW : Nat := 3
def causeBADCMD : Nat := 2
def causeILK : Nat := 1
def causeCLOSED : Nat := 0

/-- STATE of channel `n`: 0 IDLE, 1 AUTHORISED, 2 FLOWING, 3 ENDING, 4 SAFE, 5 RETIRED, 7 DISABLED. -/
def Dev.chState (d : Dev) (n : Nat) : Nat := d.fg (chStat n) ChStat.STATE

/-- A forcing state (R139). -/
def forcingState (s : Nat) : Bool := decide (s = 0 ∨ s = 3 ∨ s = 4 ∨ s = 5)

/-- Take channel `n` to state `s` with the causes `cs`, as an event of rank `r`. -/
def Dev.chTake (d : Dev) (n r s : Nat) (cs : List Nat) : Dev :=
  let m := cs.foldl (fun a i => a ||| 2 ^ i) 0
  let x := d.chan n
  let d1 := (d.fp (chStat n) ChStat.STATE s).fp (chStat n) ChStat.CAUSE (d.fg (chStat n) ChStat.CAUSE ||| m)
  (d1.putChan n { x with rank := r, cau := m - (m &&& d.fg (chStat n) ChStat.CAUSE) }).relevel (160 + n)

/-- Undo a lower event of this port tick (R141): state, causes and EN as the tick found them. -/
def Dev.chUndo (d : Dev) (n : Nat) : Dev :=
  let x := d.chan n
  if x.rank = 0 then d
  else
    let c := d.fg (chStat n) ChStat.CAUSE
    let d1 := (d.fp (chStat n) ChStat.STATE x.st0).fp (chStat n) ChStat.CAUSE (c - (c &&& x.cau))
    (d1.fb (chCtl n) ChCtl.EN x.en0).putChan n { x with rank := 0, cau := 0 }

/-- An event of rank `r`: dropped after a higher one, else judged by `f` from the state the tick began in. -/
def Dev.chEvent (d : Dev) (n r : Nat) (f : Dev → Option Dev) : Dev :=
  if r < (d.chan n).rank then d
  else match f (d.chUndo n) with
    | some d1 => d1
    | none => d

/-- The interlock of channel `n` is active, by FPnIN.LVL as it stands (R140, R164) (DEDUCED, log 174). -/
def Dev.interlocked (d : Dev) (n : Nat) : Bool :=
  let t := d.fg (chCtl n) ChCtl.ILKT
  d.ff (chCtl n) ChCtl.ILKE && decide (t < 3) && d.portHere (d.fg (chCtl n) ChCtl.ILKP) &&
    (d.levelAt (d.fg (chCtl n) ChCtl.ILKP) t == d.ff (chCtl n) ChCtl.ILKL)

/-- A state from which a channel enters SAFE (R140). -/
def mayEnterSafe (s : Nat) : Bool := decide (s ≤ 3)

/-- Entry to SAFE: the command, the interlock, or a channel-fatal fault (R140). -/
def Dev.chSafe (d : Dev) (n : Nat) (ilk : Bool) : Dev :=
  let cs := if ilk then [causeSAFE, causeILK] else [causeSAFE]
  d.chEvent n 3 fun d =>
    if mayEnterSafe (d.chState n) then some (d.chTake n 3 4 cs) else none

/-- A channel command that the present state does not list (R140). -/
def Dev.chBad (d : Dev) (n : Nat) : Dev := (d.latch (chStat n) ChStat.CAUSE causeBADCMD).relevel (160 + n)

/-- The interlock is sampled: it takes the channel to SAFE, and refuses a CLEAR of the same tick (R140). -/
def Dev.chInterlock (d : Dev) (n : Nat) : Dev :=
  if d.interlocked n then
    (if (d.chan n).rank = 2 ∧ (d.chan n).st0 = 4 ∧ d.chState n = 0 then (d.chUndo n).chBad n else d.chSafe n true)
  else d

/-- The interlocks on a port tick whose levels are published (R140). -/
def Dev.chInterlocks (d : Dev) : Dev := (List.range 16).foldl (fun d n => d.chInterlock n) d

/-- The state and causes that a command gives, where the present state lists it (R140). -/
def Dev.chNext (d : Dev) (n code : Nat) : Option (Nat × List Nat) :=
  match code, d.chState n with
  | 1, 0 => some (1, [])
  | 2, 1 => some (0, [])
  | 3, 1 => some (3, [])
  | 3, 2 => some (3, [])
  | 4, 3 => some (0, [causeCLOSED])
  | 6, 4 => if d.interlocked n then none else some (0, [])
  | _, _ => none

/-- A value of CHnCMD acted on (R140, R141, R167): 0 and 7 to 15 do nothing; one that the state the tick began in does not list is ignored, with BADCMD.
Of two commands of one tick the later counts (DESIGN CHOICE, log 175). -/
def Dev.chCommand (d : Dev) (n code : Nat) : Dev :=
  if code = 0 ∨ 7 ≤ code then d
  else if code = 5 then
    (if mayEnterSafe (d.chan n).st0 ∨ 3 < (d.chan n).rank then d.chSafe n false else d.chBad n)
  else
    match (d.chUndo n).chNext n code with
    | some (s, cs) => d.chEvent n 2 fun d => some (d.chTake n 2 s cs)
    | none => d.chBad n

/-- Move `n` to FLOWING or ENDING by the meter domain (R140). -/
def Dev.chMeter (d : Dev) (n : Nat) (s' s c : Nat) : Dev :=
  d.chEvent n 1 fun d => if d.chState n = s' then some (d.chTake n 1 s [c]) else none

/-- The channels whose meter domain is `m` and that are enabled. -/
def Dev.channelsOf (d : Dev) (m : Nat) : List Nat :=
  (List.range 16).filter (fun n => decide (d.chState n ≠ 7 ∧ d.fg (chCtl n) ChCtl.MDOM = m))

/-- MDOM sets STALL: FLOWING with AUTOEND goes to ENDING (R140). -/
def Dev.autoEnd (d : Dev) (m : Nat) : Dev :=
  (d.channelsOf m).foldl (fun d n => if d.ff (chCtl n) ChCtl.AUTOEND then d.chMeter n 2 3 causeEND else d) d

/-- A confirmed credit on the channel's domain, at the end of a port tick (R140-R142). -/
def Dev.chCredit (d : Dev) (n : Nat) : Dev :=
  let d1 := d.chMeter n 1 2 causeFLOW
  let s := d1.chState n
  if s = 0 ∨ s = 4 ∨ s = 5 then ((d1.latch (chStat n) ChStat.CAUSE causeUFLOW).relevel (160 + n)).pulseSrc (128 + n) n
  else d1

/-- Channels on a port tick whose domains have done their work: flow and unauthorised flow. -/
def Dev.chFlow (d : Dev) : Dev :=
  (List.range 16).foldl (fun d n =>
    if decide (d.chState n ≠ 7) && (d.dom (d.fg (chCtl n) ChCtl.MDOM)).credit then d.chCredit n else d) d

/-- The end of a port tick: forcing follows the state from the next tick (R139). -/
def Dev.chTickEnd (d : Dev) : Dev :=
  (List.range 16).foldl (fun d n =>
    d.putChan n { st0 := d.chState n, rank := 0, cau := 0, en0 := d.ff (chCtl n) ChCtl.EN, forced := forcingState (d.chState n) }) d

/-! ### Retirement (R143-R145, R190) -/

/-- The address of a channel's latch word (R190). -/
def latchWord (n : Nat) : Nat := 0x02102FFF0 + n

/-- The retirement latch of channel `n`. -/
def Dev.retireLatch (d : Dev) (n : Nat) : Bool := (d.rsRead (latchWord n)).toNat.testBit 0

/-- A transaction stages a write to FPnOUT of a bound port or to CHnCMD of the channel (R144). -/
def Dev.stagesFor (d : Dev) (ch : Nat) (x : Txn) : Bool :=
  x.items.any (fun i => match i with
    | .write a _ _ _ => decide (a = chCmd ch) ||
        (List.range 32).any (fun p => (d.fg (chPorts ch) ChPorts.PM).testBit p && decide (a = fpOut p))
    | _ => false)

/-- Queue a system commit (R190). -/
def Dev.sysCommit (d : Dev) (c : SysCommit) : Dev := { d with sysq := d.sysq ++ [c] }

/-- Retirement of channel `n`, by a port or by the loss of its domain's channel (R140, R144, R145). A second cause on the
same tick is noted too. -/
def Dev.chRetire (d : Dev) (n : Nat) (port : Option Nat) : Dev :=
  let x := d.chan n
  let note := fun (d : Dev) (fresh : Bool) =>
    match port with
    | some p =>
      let p' := if !fresh && d.ff (chStat n) ChStat.RPV then min p (d.fg (chStat n) ChStat.RPORT) else p
      ((d.fp (chStat n) ChStat.RPORT p').fp (chStat n) ChStat.RPV 1).fp (chStat n) ChStat.RDOM
        (if fresh then 0 else d.fg (chStat n) ChStat.RDOM)
    | none => (d.fp (chStat n) ChStat.RDOM 1).fp (chStat n) ChStat.RPV (if fresh then 0 else d.fg (chStat n) ChStat.RPV)
  if x.rank = 4 then note d false
  else
    let d0 := d.chUndo n
    if d0.chState n = 5 ∨ d0.chState n = 7 then d
    else
      let d1 := note (d0.chTake n 4 5 [causeRETIRE]) true
      let d2 := d1.txAbortAll (fun t => d1.stagesFor n (d1.txn t)) abcRETIRE
      d2.sysCommit { addr := latchWord n, val := 1, audit := { typ := 0x30, role := 3, subj := n, new := 1 }, set := true }

/-- The channel whose ports include `p`. -/
def Dev.channelOfPort (d : Dev) (p : Nat) : Option Nat :=
  (List.range 16).find? (fun n => (d.fg (chPorts n) ChPorts.PM).testBit p)

/-- The channels whose MDOM is domain `m` or one derived from it (R145, R256). -/
def Dev.channelsOn (d : Dev) (m : Nat) : List Nat :=
  (List.range 16).filter (fun n =>
    let k := d.fg (chCtl n) ChCtl.MDOM
    decide (k = m) || decide (d.fg (adSrc k) AdSrc.TYPE = 8 ∧ d.fg (adSrc k) AdSrc.DSRC = m))

/-- The enabled ones among them, on which the pulser sources of domain `m` act (R145). -/
def Dev.channelsUnder (d : Dev) (m : Nat) : List Nat := (d.channelsOn m).filter (fun n => decide (d.chState n ≠ 7))

/-- Loss of a channel of domain `m` (R50, R145). -/
def Dev.domainLost (d : Dev) (m : Nat) : Dev :=
  let d1 := d.channelLost m
  if (d.loadDom m).frozen || !(d1.loadDom m).frozen then d1
  else (d1.channelsUnder m).foldl (fun d n => d.chRetire n none) d1

/-- The pulser integrity source of domain `m` takes its channels to SAFE (R50, R145). -/
def Dev.domainIntegrity (d : Dev) (m : Nat) : Dev :=
  let d1 := d.integrityFault m
  if (d.srcLevel (96 + m)).testBit m || !(d1.srcLevel (96 + m)).testBit m then d1
  else (d1.channelsUnder m).foldl (fun d n => d.chSafe n false) d1

/-! ### EN and the retirement clear (R138, R140, R143) -/

/-- EN goes from 0 to 1: refused (none) while another enabled channel has the same MDOM (R138). It acts as a command does (R140, R141). -/
def Dev.chEnable (d : Dev) (n : Nat) : Option Dev :=
  let m := d.fg (chCtl n) ChCtl.MDOM
  if (List.range 16).any (fun k => decide (k ≠ n) && d.ff (chCtl k) ChCtl.EN && decide (d.fg (chCtl k) ChCtl.MDOM = m)) then none
  else some (d.chEvent n 2 fun d =>
    if d.ff (chCtl n) ChCtl.EN then some d
    else some (((d.rsUsed (latchWord n) 1).fp (chCtl n) ChCtl.EN 1).chTake n 2 (if d.retireLatch n then 5 else 0) []))

/-- EN goes from 1 to 0: accepted in IDLE and SAFE only, and dropped where an event above the commands came on the same tick (R140, R141). -/
def Dev.chDisable (d : Dev) (n : Nat) : Option Dev :=
  let s := (d.chUndo n).chState n
  if s = 0 ∨ s = 4 then
    some (d.chEvent n 2 fun d => if d.ff (chCtl n) ChCtl.EN then some ((d.fp (chCtl n) ChCtl.EN 0).chTake n 2 7 []) else some d)
  else none

/-- CHnRET.CLR from partition `part` (R143, R190, R562, R569): none where it is refused. The clearance is a system commit,
whose entry is durable before it takes effect (R568). -/
def Dev.chRetClear (d : Dev) (n part : Nat) : Option Dev :=
  if d.installer part rightRETCLR && d.auRoom then
    let a := d.actor part
    let d1 := d.sessionActs part
    some (if d.retireLatch n || decide (d.chState n = 5) then d1.sysCommit
      { addr := latchWord n, val := 1, audit := { typ := 0x31, part := part, role := a.1, serial := a.2, subj := n }, set := false }
      else d1)
  else none

/-- A clearance has taken effect: a RETIRED channel goes to IDLE (R140). -/
def Dev.chCleared (d : Dev) (n : Nat) : Dev := if d.chState n = 5 then d.chTake n 2 0 [] else d

end Sys2Proof.Machine
end

