-- ==== Sys2Proof/Machine/Ports.lean ====
section
/-! DEFINITION. Field ports (R113-R133): commanded levels, states, checks, field faults and retry, the analog modes and
the UART. -/

namespace Sys2Proof.Machine

/-! ### Bits of FPnSTAT.CAUSE (R154) and states (R131) -/
def causeOPEN : Nat := 7
def causeSHORT : Nat := 6
def causeLIMIT : Nat := 5
def causeENV : Nat := 4
def causeRAIL : Nat := 3
def causeSFLT : Nat := 2
def causeLOOP : Nat := 1
def causeSEV : Nat := 0

/-- STATE of port `p`: 0 OFF, 1 ACTIVE, 2 ISOLATED, 3 FAILED. -/
def Dev.fpState (d : Dev) (p : Nat) : Nat := d.fg (fpStat p) FpStat.STATE
def Dev.fpMode (d : Dev) (p : Nat) : Nat := d.fg (fpCfg p) FpCfg.MODE
def Dev.active (d : Dev) (p : Nat) : Bool := d.portHere p && decide (d.fpState p = 1)

/-- The output terminals of a port (R113), bit 0 for A. -/
def Dev.outMask (d : Dev) (p : Nat) : Nat :=
  match d.fpMode p with | 3 => 3 | 8 => d.fg (fpCfg p) FpCfg.DIR | _ => 0

/-! ### Commanded levels (R120) -/

/-- One operation on the three levels. -/
def LvlOp.run (l : Nat) : LvlOp → Nat
  | .set t => setBit l (t % 3) true
  | .clear t => setBit l (t % 3) false
  | .toggle t => setBit l (t % 3) (!(l.testBit (t % 3)))
  | .all v => v % 8

/-- The operation of a timer or a slot names an output terminal (R68, R104). -/
def LvlOp.reaches (m : Nat) : LvlOp → Bool
  | .set t => m.testBit t
  | .clear t => m.testBit t
  | .toggle t => m.testBit t
  | .all _ => true

/-- Insert an operation behind those of the same or an earlier source. -/
def insertAct (k : Nat) (o : LvlOp) : List (Nat × LvlOp) → List (Nat × LvlOp)
  | [] => [(k, o)]
  | (j, p) :: l => if k < j then (k, o) :: (j, p) :: l else (j, p) :: insertAct k o l

/-- FPnOUT.LVL as the sources of this port tick leave it (DESIGN CHOICE, log 36). -/
def Dev.combine (d : Dev) (p : Nat) : Dev :=
  let x := d.port p
  d.fp (fpOut p) FpOut.LVL (x.acts.foldl (fun l a => a.2.run l) x.base)

/-- A source of order `k` acts on the levels of port `p` on this port tick: 0 the sequencer, 1 a direct write, 2 + n timer
n, 100 + 8 n + s slot s of domain n, 1000 a staged write. Timers and slots leave a terminal alone that is no output; the sequencer and the writes set
LVL of any (R68, R104, R134) (DEDUCED, log 173). -/
def Dev.lvlAct (d : Dev) (p k : Nat) (o : LvlOp) : Dev :=
  if d.portHere p && (decide (k < 2) || o.reaches (d.outMask p)) then
    (d.putPort p { d.port p with acts := insertAct k o (d.port p).acts }).combine p
  else d

/-- A direct write of FPnOUT (R120, R151). -/
def Dev.outWrite (d : Dev) (p : Nat) (v : Word) (k : Nat) : Dev :=
  (d.fp (fpOut p) FpOut.AOUT (FpOut.AOUT.get v)).lvlAct p k (.all (FpOut.LVL.get v))

/-- The channel that binds port `p` forces it on this port tick (R121). -/
def Dev.portForced (d : Dev) (p : Nat) : Bool :=
  match d.channelOfPort p with
  | some n => (d.chan n).forced
  | none => false

/-- The outputs of port `p` are forced: by its channel, or in the fault state (R121, R266). -/
def Dev.forcedNow (d : Dev) (p : Nat) : Bool := d.portForced p || d.ff fcStat FcStat.FSTATE

/-- The field rail is up: its converter regulates, and the shed plan has not put it out (R257, R266, R311). -/
def Dev.railUp (d : Dev) : Bool := !(d.srcLevel 175).testBit 3 && !d.rider.rail

/-- The levels driven at the output terminals; without the field rail none is (R121, R266). -/
def Dev.driven (d : Dev) (p : Nat) : Nat :=
  if d.active p && d.railUp then
    (if d.forcedNow p then d.fg (fpFlt p) FpFlt.SAFEL else d.fg (fpOut p) FpOut.LVL) &&& d.outMask p
  else 0

/-- The loop output in µA; a forcing that holds AOUT keeps the output it found (R119, R121, R158). -/
def Dev.loopOut (d : Dev) (p : Nat) : Nat :=
  if d.active p && d.railUp && decide (d.fpMode p = 6) then
    if d.forcedNow p then (match d.fg (fpFlt p) FpFlt.SAFEA with | 0 => 0 | 1 => 3600 | 2 => 21000 | _ => (d.port p).held)
    else min 22000 (d.fg (fpOut p) FpOut.AOUT)
  else 0

/-- The current a coil is regulated at, in mA (R119). -/
def Dev.coilSetpoint (d : Dev) (p t : Nat) : Nat :=
  if d.active p && decide (d.fpMode p = 3 ∧ t < 2) && (d.port p).drv.testBit t then
    min (d.port p).io (if (d.port p).hit.testBit t then d.fg (fpDrv p) FpDrv.HIT else d.fg (fpDrv p) FpDrv.HOLD)
  else 0

/-- A wait for an edge keeps the level that the sequencer read on this tick (R610). -/
def SeqWait.tick (w : SeqWait) (pub : Nat) : SeqWait :=
  match w with
  | .edge t e _ l => .edge t e (pub.testBit t) l
  | w => w

/-- The conditioned level of a terminal changes: an input's, or an output's as it is read back; `sub` is the capture tick of the port tick on
which the filter accepted it (R116). -/
def Dev.levelChange (d : Dev) (p t : Nat) (l : Bool) (sub : Nat) : Dev :=
  (d.putPort p { d.port p with back := (d.port p).back.filter (fun b => decide (b.1 ≠ t)) }).newLevel p t l (5 * d.tick + 1 + sub)

/-- An output terminal whose driven level changes on this port tick to that of `v`: its read-back level follows where the filter has accepted it
(R116) (DEDUCED, log 20). -/
def Dev.readBack (d : Dev) (p v : Nat) : Dev :=
  let x := d.port p
  let turned := (bitsOf (if d.active p then d.outMask p else 0) 3).filter (fun t => v.testBit t != x.drv.testBit t)
  let back := x.back.filter (fun b => !turned.contains b.1) ++ turned.map (fun t => (t, v.testBit t, 5 * d.tick + 1))
  let filt := d.fg (fpCfg p) FpCfg.FILT
  let here := back.filter (fun b => decide (b.2.2 + filt ≤ d.now))
  here.foldl (fun d b => d.newLevel p b.1 b.2.1 (b.2.2 + filt))
    (d.putPort p { x with back := back.filter (fun b => decide (d.now < b.2.2 + filt)) })

/-- The end of a port tick for port `p`: the terminals take their levels and are read back, hit phases begin, the levels are
published, and the sequencer's outputs enter the next tick (R116, R119-R121, R134). -/
def Dev.portTickEnd (d : Dev) (p : Nat) : Dev :=
  let v := d.driven p
  let d := d.readBack p v
  let x := d.port p
  let rise := fun t => decide (d.fpMode p = 3) && v.testBit t && !(x.drv.testBit t)
  let hit := setBit (setBit (x.hit &&& v) 0 ((x.hit &&& v).testBit 0 || rise 0)) 1 ((x.hit &&& v).testBit 1 || rise 1)
  let x1 : Port := { x with
    drv := v, hit := hit, hitA := if rise 0 then d.tick else x.hitA, hitB := if rise 1 then d.tick else x.hitB,
    held := if d.forcedNow p then x.held else min 22000 (d.fg (fpOut p) FpOut.AOUT),
    base := d.fg (fpOut p) FpOut.LVL, acts := x.out.map (fun o => (0, o)), out := [],
    wait := x.wait.tick x.pub,
    pub := d.fg (fpIn p) FpIn.LVL, ran := false }
  (d.putPort p x1).combine p

/-- The terminals of port `p` take their levels at once. -/
def Dev.driveNow (d : Dev) (p : Nat) : Dev :=
  let v := d.driven p
  let d1 := d.readBack p v
  d1.putPort p { d1.port p with drv := v, hit := (d1.port p).hit &&& v }

/-- FSTOP acts on every ACTIVE port, without waiting for a port tick (R266). -/
def Dev.fstop (d : Dev) : Dev := (List.range 32).foldl (fun d p => if d.active p then d.driveNow p else d) d

/-- The ports at the end of a port tick. -/
def Dev.portsTickEnd (d : Dev) : Dev :=
  (List.range 32).foldl (fun d p => if d.portHere p then d.portTickEnd p else d) d

/-! ### Field rail (R126) -/

/-- The PO that port `p` reserves: while ACTIVE or ISOLATED, or while its network check runs. -/
def Dev.reservedPo (d : Dev) (p : Nat) : Nat :=
  if d.fpState p = 1 ∨ d.fpState p = 2 ∨ d.ff (fpStat p) FpStat.CHK then (d.port p).po else 0

/-- The reserved PO of every port but `q`. -/
def Dev.railOthers (d : Dev) (q : Nat) : Nat :=
  (List.range 32).foldl (fun a p => if p = q then a else a + d.reservedPo p) 0

/-- FPRAIL.USED follows. -/
def Dev.syncRail (d : Dev) : Dev := d.fp fpRail FpRail.USED (d.railOthers 32)

/-! ### The sequencer's start and halt (R134, R137) -/

/-- A fresh start: the instruction at ENTRY runs on the coming port tick, or on the one after it where the sequencer has already run. -/
def Dev.seqStart (d : Dev) (p : Nat) : Dev :=
  let s := d.rd (fpSeqs p)
  let s1 := FpSeqs.HLT.put (FpSeqs.T.put (FpSeqs.N.put (FpSeqs.Z.put s 0) 0) 0) 0
  (d.wr (fpSeqs p) s1).putPort p { d.port p with
    wait := .none, stop := false, slot := d.fg (fpSeqc p) FpSeqc.ENTRY, t0 := if (d.port p).ran then d.tick + 1 else d.tick }

/-- Halt, keeping RUN. -/
def Dev.seqHalt (d : Dev) (p : Nat) : Dev :=
  (d.fp (fpSeqs p) FpSeqs.HLT 1).putPort p { d.port p with wait := .none, stop := false }

/-- Halt at the end of the present instruction: a wait runs to its end first (R134, R137). -/
def Dev.seqStop (d : Dev) (p : Nat) : Dev :=
  if d.ff (fpSeqs p) FpSeqs.HLT ∨ (d.port p).wait = .none then d.seqHalt p else d.putPort p { d.port p with stop := true }

/-! ### The UART's driver (R124) -/

/-- The UART of port `p` may drive and receive. -/
def Dev.uartOn (d : Dev) (p : Nat) : Bool := d.active p && decide (d.fpMode p = 7) && d.ff (fpUart p) FpUart.UEN

/-- The driver is enabled while the UART has an octet to send. -/
def Dev.syncUart (d : Dev) (p : Nat) : Dev := d.putPort p { d.port p with drvOn := d.uartOn p && decide ((d.port p).tx ≠ []) }

/-! ### Delivered energy (R129) -/

/-- The samples that FPnEJ does not hold yet enter it: a free amount, which the power limiter bounds by Po for the time since (R125, R129)
(DESIGN CHOICE, log 44). -/
def Dev.ejSample (d : Dev) (p : Nat) : Dev :=
  if d.active p then
    let x := d.port p
    let most := x.po * (d.tick - x.ejAt) * 2 ^ 24 / 10000
    ((d.wr (fpEj p) (d.rd (fpEj p) + BitVec.ofNat 72 ((Config.freeWord d.fresh).toNat % (most + 1)))).putPort p { x with ejAt := d.tick }).next
  else d

/-! ### States, checks and faults (R128-R133) -/

/-- The settings checks, in order; 0 where all pass (R131). `uo` and `po` are the limits that the port would run with. -/
def Dev.enableRef (d : Dev) (p uo po : Nat) : Nat :=
  let m := d.fpMode p
  if m = 0 ∨ 9 ≤ m then 5
  else if d.ff (fpCfg p) FpCfg.EX && decide (m = 7 ∨ (m = 8 ∧ d.fg (fpCfg p) FpCfg.DIR ≠ 0)) then 3
  else if 2400 < d.railOthers p + po then 1
  else if d.fg (fpEnv p) FpEnv.ESMAX * 2000000 < (d.fg (fpWire p) FpWire.CNF + 47) * uo * uo then 2
  else 0

/-- Latch the limits, each at most its maximum (R125, R149) (DEDUCED, log 43). -/
def Dev.latchLimits (d : Dev) (p : Nat) : Dev :=
  d.putPort p { d.port p with uo := min 280 (d.fg (fpLim p) FpLim.UO), io := min 110 (d.fg (fpLim p) FpLim.IO), po := min 130 (d.fg (fpLim p) FpLim.PO) }

/-- Entry to ACTIVE: windows begin, the sequencer starts if RUN is 1, octets that wait are sent (R124, R129, R137). -/
def Dev.enterActive (d : Dev) (p : Nat) : Dev :=
  let d1 := (d.fp (fpStat p) FpStat.STATE 1).fp (fpStat p) FpStat.CHK 0
  let d2 := (d1.putPort p { d1.port p with chk := 0, retry := none, qAt := d1.tick, ejAt := d1.tick, hit := 0 }).syncUart p
  let d3 := (if d2.ff (fpSeqc p) FpSeqc.RUN then d2.seqStart p else d2).syncRail
  if d3.ff fcStat FcStat.FSTATE then d3.driveNow p else d3

/-- A port leaves ACTIVE: its terminals float at once, its sequencer halts at the end of the present instruction, its readings end, and the
samples of the window that is cut short enter FPnEJ (R121, R129, R137, R152). -/
def Dev.leaveActive (d : Dev) (p s : Nat) : Dev :=
  let d1 := if d.fpState p = 1 then (d.ejSample p).seqStop p else d
  let d2 := (((d1.fp (fpStat p) FpStat.STATE s).fp (fpStat p) FpStat.CHK 0).fp (fpIn p) FpIn.RV 0).fp (fpIn p) FpIn.LINE 0
  (d2.putPort p { d2.port p with drv := 0, hit := 0, out := [], back := [], chk := 0, drvOn := false }).syncRail

/-- The permanent field-fault source, and with it the port's channel (R133, R145). -/
def Dev.permanentFault (d : Dev) (p : Nat) : Dev :=
  let d1 := (d.leaveActive p 3).raiseSrc (32 + p) p
  match d1.channelOfPort p with
  | some n => d1.chRetire n (some p)
  | none => d1

/-- A field fault of an ACTIVE port (R132, R133); `now` makes it permanent at once. -/
def Dev.fieldFault (d : Dev) (p c : Nat) (now : Bool) : Dev :=
  if d.active p then
    let n := satAdd 15 (d.fg (fpStat p) FpStat.RCNT) 1
    let d1 := ((d.latch (fpStat p) FpStat.CAUSE c).relevel (128 + p)).fp (fpStat p) FpStat.RCNT n
    let d2 := d1.putPort p { d1.port p with fltAt := d1.tick }
    if !now && d2.ff (fpFlt p) FpFlt.AUTOR && decide (n ≤ d2.fg (fpFlt p) FpFlt.RTN) then
      let d3 := (d2.leaveActive p 2).pulseSrc p p
      d3.putPort p { d3.port p with retry := some (d3.tick + max 1 (d3.fg (fpFlt p) FpFlt.RDLY) * 1000000) }
    else d2.permanentFault p
  else d

/-- The permanent source is active while the port is FAILED. -/
def Dev.dropPermanent (d : Dev) (p : Nat) : Dev := if d.fpState p = 3 then d else d.dropSrc (32 + p) p

/-- RESTORE moves the port to ACTIVE and clears RCNT (R131) (DEDUCED, log 172). -/
def Dev.restored (d : Dev) (p : Nat) : Dev := (d.fp (fpStat p) FpStat.RCNT 0).enterActive p

/-- EN or RESTORE from a state that admits it (R128, R131): an I/O error where a settings check fails. -/
def Dev.portEnable (d : Dev) (p : Nat) (restore : Bool) : Dev × Bool :=
  let d1 := d.latchLimits p
  let x := d1.port p
  let r := d1.enableRef p x.uo x.po
  if r ≠ 0 then (d.fp (fpStat p) FpStat.REF r, true)
  else
    let d2 : Dev := { d1 with rider := { d1.rider with rail := false } }
    if d2.ff (fpCfg p) FpCfg.EX then
      (((d2.fp (fpStat p) FpStat.CHK 1).putPort p { d2.port p with chk := if restore then 2 else 1 }).syncRail, false)
    else ((if restore then d2.restored p else d2.enterActive p).dropPermanent p, false)

/-- EN (R131). -/
def Dev.portEN (d : Dev) (p : Nat) : Dev × Bool :=
  if d.fpState p = 0 ∧ ¬ d.ff (fpStat p) FpStat.CHK then d.portEnable p false else (d, false)

/-- RESTORE (R131). -/
def Dev.portRESTORE (d : Dev) (p : Nat) : Dev × Bool :=
  if (d.fpState p = 2 ∨ d.fpState p = 3) ∧ ¬ d.ff (fpStat p) FpStat.CHK then d.portEnable p true else (d, false)

/-- DIS (R128, R131). -/
def Dev.portDIS (d : Dev) (p : Nat) : Dev :=
  let d1 := d.leaveActive p 0
  (d1.putPort p { d1.port p with retry := none }).dropPermanent p

/-- ISOL (R128, R131). -/
def Dev.portISOL (d : Dev) (p : Nat) : Dev :=
  if d.fpState p = 1 ∧ ¬ d.ff (fpStat p) FpStat.CHK then d.leaveActive p 2 else d

/-- The safe values that an automatic return sets in LVL (R133). -/
def Dev.safeLevels (d : Dev) (p : Nat) : Dev :=
  let m := d.outMask p
  let v := (d.fg (fpOut p) FpOut.LVL - (d.fg (fpOut p) FpOut.LVL &&& m)) ||| (d.fg (fpFlt p) FpFlt.SAFEL &&& m)
  (d.fp (fpOut p) FpOut.LVL v).putPort p { d.port p with base := v, acts := [] }

/-- An automatic return enters ACTIVE. -/
def Dev.returnActive (d : Dev) (p : Nat) : Dev := (d.safeLevels p).enterActive p

/-- The delay of an automatic return has passed (R133): the checks of R131, and for an Ex port the network check. -/
def Dev.portRetry (d : Dev) (p : Nat) : Dev :=
  let x := d.port p
  match x.retry with
  | none => d
  | some t =>
    if d.fpState p ≠ 2 ∨ d.tick < t ∨ d.ff (fpStat p) FpStat.CHK then d
    else
      let d1 := d.putPort p { x with retry := none }
      let r := d1.enableRef p x.uo x.po
      if r ≠ 0 then (d1.fp (fpStat p) FpStat.REF r).permanentFault p
      else if d1.ff (fpCfg p) FpCfg.EX then (d1.fp (fpStat p) FpStat.CHK 1).putPort p { d1.port p with chk := 3 }
      else d1.returnActive p

/-- The network check ends with a series resistance of `r` Ω (R128, R133). -/
def Dev.networkEnd (d : Dev) (p r : Nat) : Dev :=
  if d.ff (fpStat p) FpStat.CHK then
    let k := (d.port p).chk
    let w := d.fg (fpWire p) FpWire.RS
    let d1 := (d.fp (fpStat p) FpStat.CHK 0).putPort p { d.port p with chk := 0 }
    if 9 * w ≤ 10 * r ∧ 10 * r ≤ 11 * w then
      (match k with
       | 3 => d1.returnActive p
       | 2 => (d1.restored p).dropPermanent p
       | _ => (d1.enterActive p).dropPermanent p)
    else
      let d2 := d1.fp (fpStat p) FpStat.REF 4
      if k = 3 then d2.permanentFault p else d2.syncRail
  else d

/-- OPEN (R132). -/
def Dev.openFault (d : Dev) (p : Nat) : Dev :=
  if [1, 3, 4, 6].contains (d.fpMode p) then d.fieldFault p causeOPEN false else d

/-- SHORT (R128, R132). -/
def Dev.shortFault (d : Dev) (p : Nat) : Dev :=
  if [1, 3, 4].contains (d.fpMode p) || d.ff (fpCfg p) FpCfg.EX then d.fieldFault p causeSHORT false else d

/-- LOOP (R123, R132). -/
def Dev.loopFault (d : Dev) (p : Nat) : Dev :=
  if d.fpMode p = 5 ∨ d.fpMode p = 6 then d.fieldFault p causeLOOP false else d

/-- A sample at `u` mV: an envelope exit where the stored energy is above ESMAX (R129). -/
def Dev.envExit (d : Dev) (p u : Nat) : Dev :=
  if d.fg (fpEnv p) FpEnv.ESMAX * 20000000000 < (d.fg (fpWire p) FpWire.CNF + 47) * u * u then d.fieldFault p causeENV false else d

/-- The end of a charge window, QWIN ms after its begin: `q` µC sourced in it, and `ej` delivered, in 48.24 µJ, that FPnEJ does not hold yet
(R129, R156) (DESIGN CHOICE, log 44). -/
def Dev.windowEnd (d : Dev) (p q : Nat) (ej : Word) : Dev :=
  if d.active p && decide ((d.port p).qAt + max 1 (d.fg (fpEnv p) FpEnv.QWIN) * 100000 ≤ d.tick) then
    let d1 := (d.wr (fpEj p) (d.rd (fpEj p) + ej)).putPort p { d.port p with qAt := d.tick, ejAt := d.tick }
    if d1.fg (fpEnv p) FpEnv.QMAX < q then d1.fieldFault p causeENV false else d1
  else d

/-- RWIN seconds without a fault (R133). -/
def Dev.rcntClear (d : Dev) (p : Nat) : Dev :=
  if (d.port p).fltAt + max 1 (d.fg (fpFlt p) FpFlt.RWIN) * 100000000 ≤ d.tick then d.fp (fpStat p) FpStat.RCNT 0 else d

/-- HITT ms of hit phase have passed for coil `t` (R119). -/
def Dev.hitEnd (d : Dev) (p t : Nat) : Dev :=
  let x := d.port p
  let at' := if t = 0 then x.hitA else x.hitB
  if x.hit.testBit t && decide (t < 2) && decide (at' + d.fg (fpDrv p) FpDrv.HITT * 100000 ≤ d.tick) then
    d.putPort p { x with hit := setBit x.hit t false }
  else d

/-! ### Measurements (R122, R123, R152, R153) -/

/-- Load FPnRES and its validity. -/
def Dev.setRes (d : Dev) (p : Nat) (r : Half) (line : Nat) : Dev :=
  ((d.wr (fpRes p) (ofHalf r)).fp (fpIn p) FpIn.RV 1).fp (fpIn p) FpIn.LINE line

/-- The end of an RTD conversion: R in units of 2^-16 Ω (R122). -/
def Dev.rtdEnd (d : Dev) (p : Nat) (r : Half) : Dev :=
  if d.active p && decide (d.fpMode p = 4) then
    if 4000 * 65536 < r.toInt then (d.setRes p r 1).fieldFault p causeOPEN false
    else if r.toInt < 10 * 65536 then (d.setRes p r 2).fieldFault p causeSHORT false
    else d.setRes p r 0
  else d

/-- LINE at a current reading `i`: in mode 1 the higher code of sensor A and of sensor B, whose code is `b`; in mode 3 `b`, the coils' state; a
loop's current out of range, or read back more than 0.2 mA away (R117, R123, R132, R152). -/
def Dev.lineState (d : Dev) (p : Nat) (i : Int) (b : Nat) : Nat :=
  match d.fpMode p with
  | 1 => max b (if 6 * 65536 < i then 2 else if 100 * i < 15 * 65536 then 1 else 0)
  | 3 => b
  | m =>
    if 10 * i < 36 * 65536 ∨ 21 * 65536 < i then 3
    else if m = 6 ∧ 200 * 65536 < (1000 * i - (d.loopOut p : Int) * 65536).natAbs then 1 else 0

/-- A current reading, in units of 2^-16 mA: modes 5 and 6 every 1 ms, modes 1 and 3 as sampled (R123, R153) (DEDUCED, log 30). -/
def Dev.loopReading (d : Dev) (p : Nat) (i : Half) (b : Nat) : Dev :=
  let m := d.fpMode p
  if d.active p && decide (m = 1 ∨ m = 3 ∨ m = 5 ∨ m = 6) then d.setRes p i (d.lineState p i.toInt b) else d

/-! ### The UART (R124, R160) -/

/-- Push an octet into the transmit FIFO (R124). -/
def Dev.txvPush (d : Dev) (p o : Nat) : Dev :=
  let x := d.port p
  if 16 ≤ x.tx.length then d.fp (fpData p) FpData.OVR 1
  else (d.putPort p { x with tx := x.tx ++ [o % 256] }).syncUart p

/-- An octet's last stop bit, and one bit time after it (R124) (DEDUCED, log 45). -/
def Dev.uartSent (d : Dev) (p : Nat) : Dev :=
  let x := d.port p
  if d.uartOn p && decide (x.tx ≠ []) then
    ((d.putPort p { x with tx := x.tx.drop 1 }).syncUart p).relevel (128 + p)
  else d

/-- An octet arrives; `err` tells a parity or framing error (R124, R160). -/
def Dev.uartGot (d : Dev) (p o : Nat) (err : Bool) : Dev :=
  let x := d.port p
  if d.uartOn p && !x.drvOn then
    if 16 ≤ x.rx.length then d.fp (fpData p) FpData.OVR 1
    else (d.putPort p { x with rx := x.rx ++ [(o % 256, err)] }).relevel (128 + p)
  else d

/-- What a read of FPnDATA returns (R160). -/
def Dev.fpDataValue (d : Dev) (p : Nat) : Word :=
  let x := d.port p
  let hd := x.rx.headD (0, false)
  fields [(x.tx.length, 21), (x.rx.length, 16), (d.fg (fpData p) FpData.OVR, 11), (b2n hd.2, 10), (b2n (decide (x.rx ≠ [])), 9), (hd.1, 0)]

/-- The effect of a read of FPnDATA: the octet leaves the FIFO, OVR clears. -/
def Dev.fpDataTake (d : Dev) (p : Nat) : Dev :=
  ((d.fp (fpData p) FpData.OVR 0).putPort p { d.port p with rx := (d.port p).rx.drop 1 }).relevel (128 + p)

/-! ### Actions of timers and slots on terminals (R67, R104) -/

/-- The pin actions of timer `n` that its last base tick left (R104). -/
def Dev.pinAction (d : Dev) (n : Nat) : Dev :=
  let d1 := (d.tmr n).pin.foldl (fun d o => d.lvlAct o.1 (2 + n) o.2) d
  d1.putTmr n { d1.tmr n with pin := [] }

/-- The action of slot `s` of domain `n` on the port tick after its match (R67, R68, R179). -/
def Dev.slotAction (d : Dev) (n s : Nat) : Dev :=
  let x := d.slot n s
  match x.due with
  | none => d
  | some t =>
    if d.tick = t then d
    else
      let d1 := d.putSlot n s { x with due := none }
      let tgt := AdSlotCtl.TGT.get x.act
      let o := fun (f : Nat → LvlOp) => d1.lvlAct tgt (100 + 8 * n + s) (f (AdSlotCtl.TERM.get x.act))
      match AdSlotCtl.ACT.get x.act with
      | 1 => o .set
      | 2 => o .clear
      | 3 => o .toggle
      | 4 => d1.txTrigger (tgt % 32)
      | _ => d1

end Sys2Proof.Machine
end

