-- ==== Sys2Proof/Machine/Sequencer.lean ====
section
/-! DEFINITION. The port sequencer (R134-R137, R610): one instruction per port tick, decoded from the slot at SEQS.PC. -/

namespace Sys2Proof.Machine

/-- The ALU functions of the sequencer (R134). -/
inductive SeqAlu where
  | mov | add | sub | and | or | xor | shl | shr | cmp
deriving DecidableEq, Repr

/-- An instruction of the sequencer (R134). -/
inductive SeqIns where
  | halt
  | ldi (d v : Nat)
  | ldh (d v : Nat)
  | alu (f : SeqAlu) (d s : Nat)
  | addi (d v : Nat)
  | inp (d src : Nat)
  | out (s dst : Nat)
  | sett (t : Nat) (v : Bool)
  | wait (n : Nat)
  | wedg (t e q : Nat)
  | br (c slot : Nat)
  | djnz (q slot : Nat)
  | evt (code : Nat)
  | flt (k : Nat)
  | illegal
deriving DecidableEq, Repr

/-- The function field of an ALU instruction. -/
def seqAlu (f : Nat) : Option SeqAlu :=
  match f with
  | 0 => some .mov | 1 => some .add | 2 => some .sub | 3 => some .and | 4 => some .or | 5 => some .xor
  | 6 => some .shl | 7 => some .shr | 8 => some .cmp | _ => none

/-- Decode a 16-bit instruction (R134, R135). -/
def seqDecode (w : Nat) : SeqIns :=
  let a := w / 512 % 8
  let im := w % 512
  match w / 4096 % 16 with
  | 0x0 => if w % 4096 = 0 then .halt else .illegal
  | 0x1 => .ldi a im
  | 0x2 => .ldh a im
  | 0x3 => match seqAlu (w % 64) with | some f => .alu f a (w / 64 % 8) | none => .illegal
  | 0x4 => .addi a im
  | 0x5 => if im < 8 then .inp a im else .illegal
  | 0x6 => if im < 5 then .out a im else .illegal
  | 0x7 => if w / 1024 % 4 < 3 ∧ im = 0 then .sett (w / 1024 % 4) (w.testBit 9) else .illegal
  | 0x8 => .wait (w % 4096)
  | 0x9 => if w / 1024 % 4 < 3 ∧ w / 256 % 4 < 3 ∧ w % 32 = 0 then .wedg (w / 1024 % 4) (w / 256 % 4) (w / 32 % 8) else .illegal
  | 0xA => if a < 7 ∧ w / 64 % 8 = 0 then .br a (w % 64) else .illegal
  | 0xB => if w / 64 % 8 = 0 then .djnz a (w % 64) else .illegal
  | 0xC => if w / 256 % 16 = 0 then .evt (w % 256) else .illegal
  | 0xD => if w / 2 % 2048 = 0 then .flt (w % 2) else .illegal
  | _ => .illegal

/-- The slot that runs next, the instruction there, and SEQS.PC, the slot of the present or last one (R162). -/
def Dev.seqSlot (d : Dev) (p : Nat) : Nat := (d.port p).slot
def Dev.seqIns (d : Dev) (p : Nat) : SeqIns := seqDecode (d.fg (fpPrg p (d.seqSlot p)) FpPrg.INS)
def Dev.seqPc (d : Dev) (p : Nat) : Nat := d.fg (fpSeqs p) FpSeqs.PC

/-- A Q register. -/
def Dev.seqQ (d : Dev) (p k : Nat) : Nat := d.fg (fpSq p k) FpSq.Q
def Dev.seqSetQ (d : Dev) (p k v : Nat) : Dev := d.fp (fpSq p k) FpSq.Q v

/-- The sequencer may run an instruction on this port tick. -/
def Dev.seqReady (d : Dev) (p : Nat) : Bool :=
  d.active p && !d.ff (fpSeqs p) FpSeqs.HLT && !(d.port p).ran && decide ((d.port p).wait = .none)

/-- The sequencer has done its work of this port tick. -/
def Dev.seqRan (d : Dev) (p : Nat) : Dev := d.putPort p { d.port p with ran := true }

/-- Halt as on an illegal instruction (R135, R137). -/
def Dev.seqIllegal (d : Dev) (p : Nat) : Dev :=
  let d1 := ((d.fp (fpSeqs p) FpSeqs.ILL 1).seqHalt p).fp (fpSeqc p) FpSeqc.RUN 0
  ((d1.latch (fpStat p) FpStat.CAUSE causeSEV).relevel (128 + p)).seqRan p

/-- Go on at a slot. -/
def Dev.seqGo (d : Dev) (p slot : Nat) : Dev := d.putPort p { d.port p with slot := slot, ran := true }

/-- Go on at the next slot; past slot 63 the sequencer halts as on an illegal instruction (R135). -/
def Dev.seqNext (d : Dev) (p : Nat) : Dev :=
  if d.seqPc p = 63 then d.seqIllegal p else d.seqGo p (d.seqPc p + 1)

/-- Z and N from a result (R134). -/
def Dev.seqFlags (d : Dev) (p v : Nat) : Dev :=
  (d.fb (fpSeqs p) FpSeqs.Z (decide (v % 2 ^ 18 = 0))).fb (fpSeqs p) FpSeqs.N (v.testBit 17)

/-- The result of an ALU function, modulo 2^18. -/
def SeqAlu.eval (f : SeqAlu) (a b : Nat) : Nat :=
  (match f with
   | .mov => b | .add => a + b | .sub => a + 2 ^ 18 - b | .and => a &&& b | .or => a ||| b | .xor => a ^^^ b
   | .shl => 2 * b | .shr => b / 2 | .cmp => a + 2 ^ 18 - b) % 2 ^ 18

/-- Run one instruction if it stands at the next slot and the sequencer is ready; PC shows its slot. -/
def Dev.seqStep (d : Dev) (p : Nat) (f : Dev → SeqIns → Option Dev) : Dev :=
  if d.seqReady p then (f (d.fp (fpSeqs p) FpSeqs.PC (d.seqSlot p)) (d.seqIns p)).getD d else d

/-- LDI. -/
def Dev.seqLdi (d : Dev) (p : Nat) : Dev :=
  d.seqStep p fun d i => match i with | .ldi a v => some ((d.seqSetQ p a v).seqNext p) | _ => none

/-- LDH. -/
def Dev.seqLdh (d : Dev) (p : Nat) : Dev :=
  d.seqStep p fun d i => match i with
    | .ldh a v => some ((d.seqSetQ p a (v * 512 + d.seqQ p a % 512)).seqNext p)
    | _ => none

/-- An ALU instruction with function `f`; CMP writes no register. -/
def Dev.seqAluOp (d : Dev) (f : SeqAlu) (p : Nat) : Dev :=
  d.seqStep p fun d i => match i with
    | .alu g a b =>
      if g = f then
        let v := f.eval (d.seqQ p a) (d.seqQ p b)
        let d1 := if f = .cmp then d else d.seqSetQ p a v
        some ((d1.seqFlags p v).seqNext p)
      else none
    | _ => none

/-- ADDI. -/
def Dev.seqAddi (d : Dev) (p : Nat) : Dev :=
  d.seqStep p fun d i => match i with
    | .addi a v =>
      let r := (d.seqQ p a + (if v < 256 then v else v + 2 ^ 18 - 512)) % 2 ^ 18
      some (((d.seqSetQ p a r).seqFlags p r).seqNext p)
    | _ => none

/-- What IN reads (R134). -/
def Dev.seqSource (d : Dev) (p src : Nat) : Nat :=
  let pub := (d.port p).pub
  match src with
  | 3 => pub % 8
  | 4 => d.fg (fpRes p) FpRes.RES / 2 ^ 18
  | 5 => d.fg (fpRes p) FpRes.RES % 2 ^ 18
  | 6 => d.fg (fpMbx p) FpMbx.SIN
  | 7 => (d.tick - (d.port p).t0) % 2 ^ 18
  | t => b2n (pub.testBit t)

/-- IN. -/
def Dev.seqIn (d : Dev) (p : Nat) : Dev :=
  d.seqStep p fun d i => match i with
    | .inp a s => let v := d.seqSource p s; some (((d.seqSetQ p a v).seqFlags p v).seqNext p)
    | _ => none

/-- Queue an output for the next port tick (R134). -/
def Dev.seqDrive (d : Dev) (p : Nat) (o : LvlOp) : Dev := d.putPort p { d.port p with out := (d.port p).out ++ [o] }

/-- OUT. -/
def Dev.seqOut (d : Dev) (p : Nat) : Dev :=
  d.seqStep p fun d i => match i with
    | .out s dst =>
      let v := d.seqQ p s
      let d1 := match dst with
        | 4 => d.fp (fpMbx p) FpMbx.SOUT v
        | 3 => d.seqDrive p (.all (v % 8))
        | t => d.seqDrive p (if v % 2 = 1 then .set t else .clear t)
      some (d1.seqNext p)
    | _ => none

/-- SETT. -/
def Dev.seqSett (d : Dev) (p : Nat) : Dev :=
  d.seqStep p fun d i => match i with
    | .sett t v => some ((d.seqDrive p (if v then .set t else .clear t)).seqNext p)
    | _ => none

/-- The wait unit in port ticks (R134). -/
def Dev.seqUnit (d : Dev) (p : Nat) : Nat := 2 ^ d.fg (fpSeqc p) FpSeqc.TSH

/-- WAIT begins. -/
def Dev.seqWait (d : Dev) (p : Nat) : Dev :=
  d.seqStep p fun d i => match i with
    | .wait n => some (d.putPort p { d.port p with wait := .until (d.tick + (n + 1) * d.seqUnit p), ran := true })
    | _ => none

/-- A wait is over: the program goes on, or takes the halt that was asked for while it ran (R134, R137). -/
def Dev.seqOver (d : Dev) (p : Nat) : Dev :=
  if (d.port p).stop then d.seqHalt p else (d.putPort p { d.port p with wait := .none }).seqNext p

/-- A wait goes on while the port is ACTIVE, or to the halt at its end. -/
def Dev.seqWaits (d : Dev) (p : Nat) : Bool := (d.active p || (d.port p).stop) && !(d.port p).ran

/-- The slot after the present one is next on this very tick. -/
def Dev.seqResume (d : Dev) (p : Nat) : Dev :=
  let d1 := d.seqOver p
  if d1.ff (fpSeqs p) FpSeqs.HLT then d1 else d1.putPort p { d1.port p with ran := false }

/-- WAIT ends and the next instruction runs. -/
def Dev.seqWaitEnd (d : Dev) (p : Nat) : Dev :=
  match (d.port p).wait with
  | .until t => if d.seqWaits p && decide (t ≤ d.tick) then d.seqResume p else d
  | _ => d

/-- WEDG begins (R610) (DEDUCED, log 46). -/
def Dev.seqWedg (d : Dev) (p : Nat) : Dev :=
  d.seqStep p fun d i => match i with
    | .wedg t e q =>
      let n := d.seqQ p q
      let l := if n = 0 then none else some (d.tick + n * d.seqUnit p)
      some (d.putPort p { d.port p with wait := .edge t e ((d.port p).pub.testBit t) l, ran := true })
    | _ => none

/-- The levels read on this tick and the one before show the selected edge (R610). -/
def edgeShown (e : Nat) (old new : Bool) : Bool :=
  match e with | 0 => !old && new | 1 => old && !new | _ => old != new

/-- The edge of a WEDG is seen (R610). -/
def Dev.seqEdge (d : Dev) (p : Nat) : Dev :=
  let x := d.port p
  match x.wait with
  | .edge t e r _ =>
    if d.seqWaits p && edgeShown e r (x.pub.testBit t) then (d.fp (fpSeqs p) FpSeqs.T 0).seqOver p else d
  | _ => d

/-- The time of a WEDG has passed without an edge (R610). -/
def Dev.seqEdgeTimeout (d : Dev) (p : Nat) : Dev :=
  let x := d.port p
  match x.wait with
  | .edge t e r (some l) =>
    if d.seqWaits p && decide (l ≤ d.tick) && !edgeShown e r (x.pub.testBit t) then (d.fp (fpSeqs p) FpSeqs.T 1).seqOver p else d
  | _ => d

/-- The condition of BR. -/
def Dev.seqCond (d : Dev) (p c : Nat) : Bool :=
  let z := d.ff (fpSeqs p) FpSeqs.Z
  let n := d.ff (fpSeqs p) FpSeqs.N
  let t := d.ff (fpSeqs p) FpSeqs.T
  match c with | 0 => true | 1 => z | 2 => !z | 3 => n | 4 => !n | 5 => t | _ => !t

/-- BR. -/
def Dev.seqBr (d : Dev) (p : Nat) : Dev :=
  d.seqStep p fun d i => match i with
    | .br c s => some (if d.seqCond p c then d.seqGo p s else d.seqNext p)
    | _ => none

/-- DJNZ. -/
def Dev.seqDjnz (d : Dev) (p : Nat) : Dev :=
  d.seqStep p fun d i => match i with
    | .djnz q s =>
      let v := (d.seqQ p q + 2 ^ 18 - 1) % 2 ^ 18
      let d1 := d.seqSetQ p q v
      some (if v = 0 then d1.seqNext p else d1.seqGo p s)
    | _ => none

/-- EVT. -/
def Dev.seqEvt (d : Dev) (p : Nat) : Dev :=
  d.seqStep p fun d i => match i with
    | .evt c => some ((((d.fp (fpSeqs p) FpSeqs.CODE c).latch (fpStat p) FpStat.CAUSE causeSEV).relevel (128 + p)).seqNext p)
    | _ => none

/-- FLT: a field fault with cause SFLT (R132, R133). -/
def Dev.seqFlt (d : Dev) (p : Nat) : Dev :=
  d.seqStep p fun d i => match i with
    | .flt k => some ((d.seqRan p).fieldFault p causeSFLT (decide (k = 1)))
    | _ => none

/-- HALT (R137). -/
def Dev.seqHaltIns (d : Dev) (p : Nat) : Dev :=
  d.seqStep p fun d i => match i with
    | .halt =>
      let d1 := ((d.seqHalt p).fp (fpSeqc p) FpSeqc.RUN 0).seqRan p
      some ((d1.latch (fpStat p) FpStat.CAUSE causeSEV).relevel (128 + p))
    | _ => none

/-- An illegal instruction (R135). -/
def Dev.seqBad (d : Dev) (p : Nat) : Dev :=
  d.seqStep p fun d i => match i with | .illegal => some (d.seqIllegal p) | _ => none

/-- A write of FPnSEQC (R134, R136, R137, R162): RUN set on a halted sequencer of an ACTIVE port starts it; RUN cleared
halts it after the present instruction, which RUN set again meanwhile does not undo (DESIGN CHOICE, log 177). -/
def Dev.seqControl (d : Dev) (p : Nat) (v : Word) : Dev :=
  let m := FpSeqc.RUN.mask ||| FpSeqc.TSH.mask ||| FpSeqc.ENTRY.mask
  let d1 := d.wr (fpSeqc p) (v &&& m)
  if FpSeqc.RUN.get v = 0 then d1.seqStop p
  else if d1.active p && d1.ff (fpSeqs p) FpSeqs.HLT then d1.seqStart p
  else d1

end Sys2Proof.Machine
end

