-- ==== Sys2Proof/Machine/Txu.lean ====
section
/-! DEFINITION. The transaction unit from the apply port tick on (R169-R171, R178-R196, R203, R611): staged writes take
effect, MARK, home writes, DONE, system commits, the journal's tail and replay. -/

namespace Sys2Proof.Machine

/-! ### The apply port tick (R171, R179) -/

/-- A staged write takes effect (R120 source 5, R167, R171): timer fields, output levels and channel commands. -/
def Dev.applyWrite (d : Dev) (a : Nat) (v : Word) : Dev :=
  let o := a % 0x10000
  if a / 0x10000 = 3 then
    let n := o / 0x10
    if o % 0x10 = 0 then (if TmCtl.RUN.get v ≠ 0 then d.setRun n else d.clearRun n)
    else if o % 0x10 = 8 then (d.wr (tmRld n) v).putTmr n { (d.tmr n) with rld := v, rldW := none }
    else if o % 0x10 = 0xA then (d.wr (tmCmp0 n) v).cmpStaged n 0 v
    else if o % 0x10 = 0xC then (d.wr (tmCmp1 n) v).cmpStaged n 1 v
    else d
  else if a / 0x10000 = 4 then
    if o < 0x2000 then (if o % 0x100 = 3 then d.outWrite (o / 0x100) v 1000 else d)
    else if 0x4000 ≤ o ∧ o < 0x4100 ∧ o % 0x10 = 3 then
      (d.wr a (ChCmd.CMD.put 0 (ChCmd.CMD.get v))).chCommand ((o - 0x4000) / 0x10) (ChCmd.CMD.get v)
    else d
  else d

/-- Transaction `n` takes effect on the coming port tick (R171, R178, R179). -/
def Dev.txApplies (d : Dev) (n : Nat) : Bool :=
  let x := d.txn n
  decide (d.txState n = 2) && x.ready && (decide (x.mode = 0) || x.trig) || decide (d.txState n = 3) && x.trig

/-- Apply one transaction: it is committed from here on (R170). -/
def Dev.txApply (d : Dev) (n : Nat) : Dev :=
  let x := d.txn n
  x.items.foldl (fun d i => match i with | .write a _ v _ => d.applyWrite a v | _ => d) (d.fp (txStat n) TxStat.STATE 4)

/-- The apply port tick: every transaction that reaches stage 5 on it, in ascending number (R179). -/
def Dev.applyTick (d : Dev) : Dev :=
  ((List.range 32).filter (fun n => d.txApplies n)).foldl (fun d n => d.txApply n) d

/-- One snapshot of R171: CONF and LIVE of a domain, a timer's count, or a port's FPnEJ (DEDUCED, log 47). -/
def Dev.snapshot (d : Dev) (k u : Nat) : Word × Word :=
  match k with
  | 0 => (d.rd (adConf u), d.rd (adLive u))
  | 1 => (d.rd (tmCnt u), 0)
  | _ => (d.rd (fpEj u), 0)

/-- The integer part of a CONF reading, and whether it was below zero (R189). -/
def totAdd (conf : Word) : Nat × Bool :=
  let q := floorDiv (sgn conf) (2 ^ 24)
  (q.toNat, decide (q < 0))

/-- The totalizer adds of a transaction, in item order: totalizer, T0 and the CONF it adds (R189). -/
def Txn.totals (x : Txn) : List (Nat × Word × Word) :=
  ((x.items.filterMap (fun i => match i with | .tot t s => some (t, s) | _ => none)).zip x.t0s).map
    (fun p => (p.1.1, p.2, (x.snaps.getD p.1.2 (0, 0)).1))

/-- Take the snapshots and give the MARK entry its place (R171, R191, R193). -/
def Dev.txMark' (d : Dev) (n : Nat) : Dev :=
  let x := d.txn n
  let d := (d.txSnaps n).foldl (fun d p => if p.1 = 2 then d.ejSample p.2 else d) d
  let snaps := (d.txSnaps n).map (fun p => d.snapshot p.1 p.2)
  let x1 : Txn := { x with snaps := snaps }
  let tneg := x1.totals.any (fun t => (totAdd t.2.2).2)
  let wm := wMark x.items
  let d1 : Dev := { d with jnl := { d.jnl with aside := d.jnl.aside - wm } }
  let r := d1.jAlloc wm
  let t := d.commitTime
  let w0 := fields [(2, 68), (wm, 56), (n, 51), (d.fg (txStat n) TxStat.LATE, 50), (b2n tneg, 49), (r.1.2, 48), (x.seq, 0)]
  let ws := withTrailer ([w0, t.1, fields [(d.bootCount, 40), (b2n t.2, 39)]] ++ snaps.flatMap (fun p => [p.1, p.2]))
  let d2 := (r.2.fb (txStat n) TxStat.TNEG tneg).putTxn n { x1 with mark := some r.1, markWs := ws }
  if tneg then d2.txCauseSet TxCause.TNEG n else d2

/-- The snapshots of every transaction that applied on this port tick. -/
def Dev.applyEnd (d : Dev) : Dev :=
  ((List.range 32).filter (fun n => decide (d.txState n = 4 ∧ (d.txn n).mark = none))).foldl (fun d n => d.txMark' n) d

/-! ### Stage 6 (R169, R189) -/

/-- Add to a totalizer, and note the SEQ (R189). -/
def Dev.homeTotal (d : Dev) (seq t : Nat) (t0 conf : Word) : Dev :=
  (d.rsWrite (0x021001000 + 2 * t) (t0 + BitVec.ofNat 72 (totAdd conf).1)).rsWrite (0x021001001 + 2 * t) (fields [(seq, 24)])

/-- The audit entries already appended of the transaction with SEQ `seq` (R568). -/
def Dev.auDone (d : Dev) (seq : Nat) : Nat :=
  match d.sec.done.find? (fun e => decide (e.1 = seq)) with
  | some e => e.2
  | none => 0

/-- Hand the entries of one transaction to the security unit in PREP order: those already appended are skipped (R568). -/
def Dev.auditAll (d : Dev) (seq : Nat) (es : List Audit) : Dev :=
  if es = [] then d
  else
    let d1 := (es.drop (d.auDone seq)).foldl (fun d e => d.audit e seq) d
    { d1 with sec := { d1.sec with done := ((seq, es.length) :: d1.sec.done.filter (fun e => decide (e.1 ≠ seq))).take 32 } }

/-- The parameter words a transaction stages. -/
def Txn.params (x : Txn) : List (Nat × Word × Audit) :=
  x.items.filterMap (fun i => match i with | .par o v e => some (o, v, e) | _ => none)

/-- The home writes: totalizers, parameter words and their audit entries. -/
def Dev.homeWrites (d : Dev) (seq : Nat) (tots : List (Nat × Word × Word)) (pars : List (Nat × Word × Audit)) : Dev :=
  let d1 := tots.foldl (fun d t => d.homeTotal seq t.1 t.2.1 t.2.2) d
  let d2 := pars.foldl (fun d p => d.rsWrite (parBase + p.1) p.2.1) d1
  d2.auditAll seq (pars.map (fun p => p.2.2))

/-- The frames a transaction releases. -/
def Txn.frames (x : Txn) : List (Nat × Nat) :=
  x.items.filterMap (fun i => match i with | .frame p r _ => some (p, r) | _ => none)

/-- The MARK entry is durable (R169): frames released, home writes carried out, and the DONE entry given its place. -/
def State.markDurable (s : State) (n : Nat) : State :=
  let x := s.dev.txn n
  match x.mark, x.done with
  | some (a, _), none =>
    if s.dev.txState n ≠ 4 then s
    else
      let d1 := (s.dev.jWrite a x.markWs).wr (txMark n) (BitVec.ofNat 72 a)
      let s1 := x.frames.foldl (fun s p => s.release p.1 p.2 true) ({ s with dev := d1 } : State)
      let d2 := s1.dev.homeWrites x.seq x.totals x.params
      let d3 : Dev := { d2 with jnl := { d2.jnl with aside := d2.jnl.aside - 1 } }
      let r := d3.jAlloc 1
      { s1 with dev := r.2.putTxn n { x with done := some r.1 } }
  | _, _ => s

/-- The DONE entry is durable (R180, R181): the transaction reaches its result. -/
def Dev.doneDurable (d : Dev) (n : Nat) : Dev :=
  let x := d.txn n
  match x.done, x.prep with
  | some (a, lap), some p =>
    if d.txState n ≠ 4 then d
    else
      let d1 := d.rsWrite a (fields [(3, 68), (1, 56), (n, 51), (lap, 48), (x.seq, 0)])
      let d2 : Dev := { d1 with jnl := { d1.jnl with opens := d1.jnl.opens.filter (fun e => decide (e ≠ (x.seq, p))) } }
      let d3 := ((d2.doneLimit.fp (txStat n) TxStat.STATE 0).fp (txStat n) TxStat.RES 1).fp (txStat n) TxStat.ABC 0
      (((d3.fp (txRes n) TxRes.RES 0).putTxn n { strayAt := x.strayAt }).accounts).txEvent n
  | _, _ => d

/-! ### System commits (R190, R222) -/

/-- First of the furrow retirement words (R222). -/
def furWord (f : Nat) : Nat := 0x02102FFE0 + f

/-- What a system commit changes besides its word: a cleared channel latch frees the channel (R140), a furrow's word shows
in FnRET and a cleared cell returns as STOPPED (R222, R249) (DEDUCED, log 41). -/
def Dev.sysEffect (d : Dev) (q : SysCommit) : Dev :=
  if latchWord 0 ≤ q.addr then (if q.set then d else d.chCleared (q.addr - latchWord 0))
  else
    let f := q.addr - furWord 0
    let d1 := d.fp (fuRet f) FuRet.RET (d.rsRead q.addr).toNat
    if q.set then d1
    else ([0, 1, 2, 3] : List Nat).foldl (fun d p =>
      if q.val.toNat.testBit p && decide (d.role (4 * f + p) = 4) then d.setRole (4 * f + p) 3 0 else d) d1

/-- A system commit's home word, with what else it changes. -/
def Dev.sysWord (d : Dev) (q : SysCommit) : Dev :=
  let w := d.rsRead q.addr
  ((d.rsUsed q.addr 1).rsWrite q.addr (if q.set then w ||| q.val else w &&& ~~~ q.val)).sysEffect q

/-- The next of the two writes of the oldest system commit becomes durable: a retirement's word comes before its entry, a clearance's after it
(R190) (DESIGN CHOICE, log 180). -/
def Dev.sysRun (d : Dev) : Dev :=
  match d.sysq with
  | [] => d
  | q :: l =>
    let d1 : Dev := { d with sysq := if q.half then l else { q with half := true } :: l }
    if q.set = q.half then d1.audit q.audit else d1.sysWord q

/-! ### The control block and the tail (R203, R611) -/

/-- The words of a control block copy. -/
def Dev.controlWords (d : Dev) (count : Nat) : List Word :=
  let h := match d.jnl.opens with | (q, _, lap) :: _ => (q, lap) | [] => (d.fg rsSeq RsSeq.SEQ, d.jnl.lap)
  withTrailer [fields [(0xE, 68), (count % 2 ^ 48, 0)], fields [(d.fg rsJtail RsJtail.TAIL, 0)],
    fields [(d.fg rsJlim RsJlim.LIM, 0)], fields [(h.1, 24), (h.2 % 2, 0)], fields [(d.bootCount, 40)], 0, 0]

/-- The bases of the two copies. -/
def copyBase (k : Nat) : Nat := if k = 0 then 0x021000000 else 0x021000800

/-- Words from an address of the control block on become durable. -/
def Dev.rsBlock (d : Dev) (b : Nat) (ws : List Word) : Dev := ws.zipIdx.foldl (fun d p => d.rsWrite (b + p.2) p.1) d

/-- A rewrite of both copies begins, copy 0 first, each with a write count one above that of the copy it replaces (R611). -/
def Dev.writeControl (d : Dev) : Dev :=
  let j := d.jnl
  { d with jnl := { j with wcount := j.wcount + 1, wcount1 := j.wcount1 + 1,
                           copies := j.copies ++ [(copyBase 0, d.controlWords (j.wcount + 1)), (copyBase 1, d.controlWords (j.wcount1 + 1))] } }

/-- A copy on its way becomes durable, and the next one follows it: one on a port tick (R611) (DESIGN CHOICE, log 182). -/
def Dev.controlStep (d : Dev) : Dev :=
  match d.jnl.copies with
  | [] => d
  | (b, ws) :: l => ({ d with jnl := { d.jnl with copies := l } } : Dev).rsBlock b ws

/-- The length of the entry whose header is at `a`, 0 where none is. -/
def Dev.entryLen (d : Dev) (a : Nat) : Nat :=
  let w := (d.rsRead a).toNat
  let t := w / 2 ^ 68
  if t = 1 ∨ t = 2 then w / 2 ^ 56 % 4096 else if t = 3 ∨ t = 4 then 1 else 0

/-- Entry `v` is met on the way from `a` to the limit. -/
def Dev.headerAt (d : Dev) (v lim : Nat) : Nat → Nat → Bool
  | 0, _ => false
  | n + 1, a =>
    if a = v then true
    else if a = lim ∨ d.entryLen a = 0 then false
    else d.headerAt v lim n (jAdd a (d.entryLen a))

/-- `n` words of the journal from `a` on are read: they are counted and checked (R38, R299). -/
def Dev.jUsed (d : Dev) (a n : Nat) : Dev := (List.range n).foldl (fun d k => d.rsUsed (jAdd a k) 1) d

/-- A write of RSJTAIL (R203): none where it is ignored. -/
def Dev.tailWrite (d : Dev) (v : Nat) : Option Dev :=
  if d.headerAt v (d.fg rsJlim RsJlim.LIM) jSize (d.fg rsJtail RsJtail.TAIL) then
    some (((d.jUsed v 1).fp rsJtail RsJtail.TAIL v).writeControl)
  else none

/-! ### Replay (R195, R196) -/

/-- The words of an entry, wrapping. -/
def Dev.entryWords (d : Dev) (a n : Nat) : List Word := (List.range n).map (fun k => d.rsRead (jAdd a k))

/-- An entry of more than one word has a sound trailer (R194). -/
def Dev.trailerOk (d : Dev) (a n : Nat) : Bool :=
  let ws := d.entryWords a n
  decide (1 < n ∧ ws.getLast? = some (fields [(0xF, 68), (crc32 (ws.take (n - 1)), 32)]))

/-- A control block copy whose tag and trailer check: its write count. -/
def Dev.copyCount (d : Dev) (b : Nat) : Option Nat :=
  let ws := (List.range 8).map (fun k => d.rsRead (b + k))
  let w := (ws.getD 0 0).toNat
  if w / 2 ^ 68 = 0xE ∧ ws.getD 7 0 = fields [(0xF, 68), (crc32 (ws.take 7), 32)] then some (w % 2 ^ 48) else none

/-- The copy that a start uses (R611). -/
def Dev.controlCopy (d : Dev) : Option (Nat × Nat) :=
  match d.copyCount (copyBase 0), d.copyCount (copyBase 1) with
  | some a, some b => if a < b then some (copyBase 1, b) else some (copyBase 0, a)
  | some a, none => some (copyBase 0, a)
  | none, some b => some (copyBase 1, b)
  | none, none => none

/-- What the walk has met: PREP entries (SEQ, address, lap), SEQs of MARK entries with their addresses, SEQs ended by DONE or
DISCARD, and the SEQ of a MARK entry whose check failed. -/
structure Met where
  preps : List (Nat × Nat × Nat) := []
  marks : List (Nat × Nat) := []
  ended : List Nat := []
  torn  : Option Nat := none
deriving DecidableEq, Repr

/-- The walk from `a` with lap parity `lap` (R195): what it met, and the head with its lap parity. -/
def Dev.walk (d : Dev) (lseq tail : Nat) : Nat → Bool → Nat → Nat → Met → Met × Nat × Nat
  | 0, _, a, lap, m => (m, a, lap)
  | n + 1, moved, a, lap, m =>
    let w := (d.rsRead a).toNat
    let t := w / 2 ^ 68
    let len := d.entryLen a
    let seq := w % 2 ^ 48
    let last := m.preps.getLast?.map Prod.fst
    let here := decide (1 ≤ t ∧ t ≤ 4 ∧ w / 2 ^ 48 % 2 = lap ∧ 0 < len) &&
      (if t = 1 then decide (seq = match last with | some q => q + 1 | none => lseq)
       else match last with | some q => decide (seq ≤ q) | none => decide (seq < lseq))
    if (moved && decide (a = tail)) || !here then (m, a, lap)
    else if decide (t ≤ 2) && !d.trailerOk a len then (if t = 2 then { m with torn := some seq } else m, a, lap)
    else
      let m1 : Met :=
        if t = 1 then { m with preps := m.preps ++ [(seq, a, lap)] }
        else if t = 2 then { m with marks := m.marks ++ [(seq, a)] }
        else { m with ended := m.ended ++ [seq] }
      let lap1 := if jSize ≤ a - jBase + len then 1 - lap else lap
      d.walk lseq tail n true (jAdd a len) lap1 m1

/-- The items of a PREP entry, by its words after the header: totalizer adds (snapshot index and T0), parameter words with
their audit entries, and whether it has frames. -/
def prepItems : Nat → List Word → List (Nat × Nat × Word) × List (Nat × Word × Audit) × Bool
  | 0, _ => ([], [], false)
  | n + 1, ws =>
    let w := (ws.headD 0).toNat
    let t := w / 2 ^ 68
    if t = 8 then prepItems n (ws.drop 2)
    else if t = 9 then
      let r := prepItems n (ws.drop 2)
      ((w / 2 ^ 60 % 256, w / 2 ^ 56 % 16, ws.getD 1 0) :: r.1, r.2)
    else if t = 0xA then
      let r := prepItems n (ws.drop 14)
      let e := ws.drop 2
      let e0 := (e.getD 0 0).toNat
      (r.1, (w / 2 ^ 50 % 2 ^ 18, ws.getD 1 0,
        { typ := e0 / 2 ^ 64, part := e0 / 2 ^ 56 % 64, role := e0 / 2 ^ 54 % 4, serial := (e.getD 3 0).toNat / 2 ^ 8,
          subj := (e.getD 5 0).toNat / 2 ^ 48, old := e.getD 6 0, new := e.getD 7 0 }) :: r.2.1, r.2.2)
    else if t = 0xB then prepItems n (ws.drop 1)
    else if t = 0xC then let r := prepItems n (ws.drop 1); (r.1, r.2.1, true)
    else if t = 0xD then prepItems n (ws.drop (1 + w / 2 ^ 56 % 4096))
    else ([], [], false)

/-- The closing entry of a replayed PREP entry: DONE (3) or DISCARD (4), with REPL and FNR (R193). -/
def Dev.replayEnd (d : Dev) (seq txn tag : Nat) (fnr : Bool) : Dev :=
  let r := d.jAlloc 1
  r.2.rsWrite r.1.1 (fields [(tag, 68), (1, 56), (txn, 51), (1, 50), (b2n fnr, 49), (r.1.2, 48), (seq, 0)])

/-- Complete or discard one PREP entry by its MARK entry (R195, R196). -/
def Dev.replayOne (d : Dev) (m : Met) (seq a : Nat) : Dev :=
  let len := d.entryLen a
  let ws := d.entryWords a len
  let txn := (ws.headD 0).toNat / 2 ^ 51 % 32
  let d := d.jUsed a len
  match m.marks.find? (fun e => decide (e.1 = seq)) with
  | some (_, b) =>
    let it := prepItems len (ws.drop 4)
    let tots := it.1.map (fun t => (t.1, t.2.2, d.rsRead (jAdd b (3 + 2 * t.2.1))))
    (((it.1.foldl (fun d t => d.jUsed (jAdd b (3 + 2 * t.2.1)) 1) d).homeWrites seq tots it.2.1).replayEnd seq txn 3 it.2.2).count rsRepl RsRepl.NCOMP
  | none =>
    let d1 := (d.replayEnd seq txn 4 false).count rsRepl RsRepl.NDISC
    if m.torn = some seq then
      (((d1.count rsRepl RsRepl.NTORN).latch rsStat RsStat.CAUSE 1).relevel 244).pulseSrc 168 0
    else d1

/-- Both control block copies are read (R611). -/
def Dev.copiesUsed (d : Dev) : Dev := (d.rsUsed (copyBase 0) 8).rsUsed (copyBase 1) 8

/-- Replay at start (R195, R196, R611): without a sound control block copy it does not run. -/
def Dev.replay (d : Dev) : Dev :=
  let d := d.copiesUsed
  match d.controlCopy with
  | none => d.raiseSrc 168 0
  | some (b, n) =>
    let tail := (d.rsRead (b + 1)).toNat % 2 ^ 36
    let lim := (d.rsRead (b + 2)).toNat % 2 ^ 36
    let w3 := (d.rsRead (b + 3)).toNat
    let lseq := w3 / 2 ^ 24
    let r := d.walk lseq tail jSize false lim (w3 % 2) {}
    let m := r.1
    let next := match m.preps.getLast? with | some q => q.1 + 1 | none => lseq
    let d0 := d.jUsed lim ((r.2.1 + jSize - lim) % jSize + 1)
    let d1 := ((((d0.fp rsJtail RsJtail.TAIL tail).fp rsJhead RsJhead.HEAD r.2.1).fp rsSeq RsSeq.SEQ next).fp rsBoot RsBoot.BOOT
      ((d.rsRead (b + 4)).toNat / 2 ^ 40 + 1)).wr rsRepl 0
    let d2 : Dev := { d1 with jnl := { lap := r.2.2, wcount := (d.copyCount (copyBase 0)).getD n, wcount1 := (d.copyCount (copyBase 1)).getD n } }
    let todo := m.preps.filter (fun e => !m.ended.contains e.1)
    let d3 := todo.foldl (fun d e => d.replayOne m e.1 e.2.1) d2
    ((d3.fp rsJlim RsJlim.LIM (d3.fg rsJhead RsJhead.HEAD)).writeControl).fp rsStat RsStat.RDY 1

end Sys2Proof.Machine
end

