-- ==== Sys2Proof/Machine/Faults.lean ====
section
/-! DEFINITION. The fault collector (R253-R275, R292) and the fault sources of check-code errors (R38, R257). -/

namespace Sys2Proof.Machine

/-! ### Classes and counters (R253, R254, R275, R286) -/

/-- The counter field of source `k` in its register. -/
def cntSpan (k : Nat) : Span := ⟨35 - 9 * (k % 4), 27 - 9 * (k % 4)⟩

/-- A class field as a write leaves it (R254). -/
def clsWritten (k old new : Nat) : Nat := if 5 ≤ new then old else max (faultMinimum k) new

/-- A write of FCCLSj. -/
def Dev.clsWrite (d : Dev) (j : Nat) (v : Word) : Dev :=
  (List.range 12).foldl (fun d i =>
    let k := 12 * j + i
    d.fp (fcCls j) (clsSpan k) (clsWritten k (d.faultClass k) ((clsSpan k).get v))) d

/-- Raise event EV228 + i if its enable in FCCTL is set. -/
def Dev.fcEvent (d : Dev) (i : Nat) : Dev := d.raiseIf ((d.rd fcCtl).getLsbD (28 - i)) (228 + i)

/-! ### The safety balls (R260, R262) -/

/-- SAFEA, ALIVE and NFLT follow their conditions. -/
def Dev.syncBalls (d : Dev) : Dev :=
  let f := d.ff fcStat FcStat.FSTATE
  let fv := d.ff fcStat FcStat.FEEDV
  let d1 := d.fb fcStat FcStat.SAFEA (d.ff fcCtl FcCtl.SAFEEN && fv && !f)
  let d2 := d1.fb fcStat FcStat.ALIVE (fv && !f)
  d2.fb fcStat FcStat.NFLT (!d.run || f || d.ff fcStat FcStat.LATCH || d.ff fcStat FcStat.CF)

/-- Active levels of sources 32j to 32j + 31; a pulse is active until the collector has sampled it (R255). -/
def Dev.actBits (d : Dev) (j : Nat) : Nat :=
  (List.range 32).foldl (fun m b => if d.srcLevel (32 * j + b) ≠ 0 ∨ d.srcPulse (32 * j + b) ≠ 0 then m + 2 ^ b else m) 0

/-! ### The fault state (R266, R267) -/

/-- The TXU aborts every transaction that has not applied (R267). -/
def Dev.abortOpen (d : Dev) : Dev := d.txAbortAll (fun _ => true) abcOWNER

/-- Hand-overs and arbitrations end without result, and a spare test is abandoned (R267, R282). -/
def Dev.endHandovers (d : Dev) : Dev :=
  (List.range 16).foldl (fun d f =>
    let x := d.fur f
    let d1 := bitsOf x.test 4 |>.foldl (fun d p => d.spareCell (4 * f + p)) d
    let d2 := if x.test = 0 then d1 else (d1.fp bStat BStat.RES 3).fp bStat BStat.BUSY 0
    d2.putFur f { clkW := x.clkW, thr := x.thr, img := x.img, bad := x.bad }) d

/-- Entry to the fault state: every cell stops, and FSTOP reaches the terminals without waiting for a port tick. -/
def Dev.enterFaultState (d : Dev) : Dev :=
  let d1 := ((d.fp fcStat FcStat.FSTATE 1).fp fcCtl FcCtl.SAFEEN 0).fp fcStat FcStat.SAFEB 0
  let d2 := (List.range 16).foldl (fun d n => if d.chState n = 7 then d else d.chSafe n false) d1
  let d3 : Dev := { d2 with run := false, boot := { d2.boot with monitor := false } }
  (d3.abortOpen.endHandovers.fstop).syncBalls

/-! ### Reactions (R253, R256) -/

/-- The channels on which a channel-fatal assertion of source `k`, unit `u`, acts; none for a port or domain that maps to no
channel. One that is DISABLED or RETIRED is mapped, and left alone (R256). -/
def Dev.mapped (d : Dev) (k u : Nat) : Option (List Nat) :=
  if k < 64 then (d.channelOfPort (k % 32)).map (fun n => [n])
  else if k < 128 then (match d.channelsOn (k % 32) with | [] => none | l => some l)
  else if k < 144 then some [k - 128]
  else if (144 ≤ k ∧ k < 152) ∨ k = 156 ∨ k = 161 ∨ k = 162 then some (bitsOf (d.fg (fcFurch u) FcFurch.CHM) 16)
  else if k = 190 then some (bitsOf d.fc.swf 16)
  else some (List.range 16)

/-- The reaction of a class to an assertion of source `k`, unit `u`. -/
def Dev.react (d : Dev) (k u cls : Nat) : Dev :=
  match cls with
  | 0 => d.fcEvent 0
  | 1 => d.fcEvent 1
  | 2 => d.fcEvent 2
  | 3 =>
    match d.mapped k u with
    | none => d.fcEvent 2
    | some l => ((l.foldl (fun d n => d.chSafe n false) d).fp fcStat FcStat.CF 1).syncBalls.fcEvent 3
  | _ => d.enterFaultState.quietRestart

/-- The first-fault record (R274) (DEDUCED, log 77). -/
def Dev.firstFault (d : Dev) (k u cls : Nat) : Dev :=
  if d.ff fcFirst FcFirst.V then d
  else
    let t : Word := if d.fc.spll then BitVec.ofNat 72 (d.tick * 10 / 25) else BitVec.ofNat 72 (d.tick * 2 ^ 24 / 100)
    ((d.wr fcFirst (fields [(1, 35), (k, 27), (u, 21), (cls, 18), (b2n d.fc.spll, 17)])).wr fcTime t).fcEvent 6

/-- An assertion of source `k` is latched and counted (R255, R275). -/
def Dev.noteFault (d : Dev) (k : Nat) : Dev :=
  let d1 := d.latch (fcPend (k / 32)) FcPend.PEND (k % 32)
  let c := d1.fg (fcCnt (k / 4)) (cntSpan k)
  let d2 := d1.fp (fcCnt (k / 4)) (cntSpan k) (min 511 (c + 1))
  if c = 510 then d2.fcEvent 7 else d2

/-- The assertion of source `k` that is coming saturates its counter. -/
def Dev.fills (d : Dev) (k : Nat) : Bool := decide (d.fg (fcCnt (k / 4)) (cntSpan k) = 510)

/-- Of the sources `ks`, those that have asserted since the collector's last cycle, ascending: each with the lowest unit that asserted, its class,
and whether its counter is about to saturate (R255, R257). -/
def Dev.asserted (d : Dev) (ks : List Nat) : List (Nat × Nat × Nat × Bool) :=
  ((List.range 192).filter ks.contains).filterMap (fun k =>
    (lowestBit (d.srcPulse k) 64).map (fun u => (k, u, d.faultClass k, d.fills k)))

/-- The collector samples the sources `ks` on one cycle (R253, R255, R259, R274, R275): each assertion is latched and counted; the record takes the
source of the highest class, the lowest of them by number, and the reaction is that of the highest class. A correctable source whose counter
saturates asserts further at class RECOV. -/
def Dev.collect (d : Dev) (ks : List Nat) : Dev :=
  let l := d.asserted ks
  let top : Nat := l.foldl (fun m (q : Nat × Nat × Nat × Bool) => max m q.2.2.1) 0
  let high := l.filter (fun (q : Nat × Nat × Nat × Bool) => decide (q.2.2.1 = top))
  let d1 := l.foldl (fun (d : Dev) (q : Nat × Nat × Nat × Bool) => ({ d with pulse := Tab.set 0 d.pulse q.1 0 } : Dev).noteFault q.1) d
  let d2 := match high with | q :: _ => d1.firstFault q.1 q.2.1 top | [] => d1
  let d3 := high.foldl (fun (d : Dev) (q : Nat × Nat × Nat × Bool) => d.react q.1 q.2.1 top) d2
  (l.filter (fun (q : Nat × Nat × Nat × Bool) => q.2.2.2 && decide (q.2.2.1 = 1))).foldl (fun (d : Dev) (q : Nat × Nat × Nat × Bool) => (d.fp fcStat FcStat.PROM 1).react q.1 q.2.1 2) d3

/-- Clock `k` of R25 fails, as unit `u` of source FS152 + k: the crystal, SPLL, DPLL, EPLL, a furrow's FPLL, a port's lane PLL. -/
def Dev.clockFault (d : Dev) (k u : Nat) : Dev :=
  let here := if k = 4 then d.furHere u else if k = 5 then d.ethHere u else decide (u = 0)
  if here then
    ({ d with fc := { d.fc with spll := d.fc.spll || decide (k = 1) } } : Dev).raiseSrc (152 + k) u
  else d

/-- The unit of a source is one that the order code has (R257): a field port, a furrow or its ditch port, an Ethernet port, a
cell. -/
def Dev.unitHere (d : Dev) (k u : Nat) : Bool :=
  if k < 64 then d.portHere (k % 32)
  else if (144 ≤ k ∧ k ≤ 151) ∨ k = 156 ∨ k = 161 ∨ k = 162 then d.furHere u
  else if k = 157 then d.ethHere u
  else if k = 159 ∨ k = 160 ∨ k = 185 ∨ k = 187 then d.cellHere u
  else if (k = 169 ∨ k = 170 ∨ k = 186) ∧ u < 16 then d.furHere u
  else true

/-- A source asserts (R255): `ext` is a unit whose level rises from outside what the model holds, `same` are the sources sampled on the same cycle
(DEDUCED, log 23). -/
def Dev.faultAssert (d : Dev) (k : Nat) (ext : Option Nat) (same : List Nat) : Dev :=
  let d1 := match ext with
    | some u => if !d.unitHere k u then d else if k = 153 then d.clockFault 1 u else d.raiseSrc k u
    | none => d
  d1.collect (k :: same)

/-- A unit of a source becomes inactive. -/
def Dev.faultDeassert (d : Dev) (k u : Nat) : Dev := d.dropSrc k u

/-! ### Recovery (R268-R273) -/

/-- Count a recovery: true where it goes ahead; at the limit the fault state is latched (R271, R272) (DEDUCED, log 42). -/
def Dev.recover (d : Dev) : Bool × Dev :=
  let c := d.fg fcRec FcRec.CNT
  let d1 := d.fp fcRec FcRec.CNT (c + 1)
  let d2 : Dev := if c = 0 then { d1 with fc := { d1.fc with winAt := d1.fcNow } } else d1
  if c + 1 < max 1 (d.fg fcRec FcRec.LIMIT) then (true, d2)
  else
    let d3 := if d2.inFault then d2 else d2.enterFaultState
    (false, (d3.fp fcStat FcStat.LATCH 1).syncBalls)

/-- No source of effective class DEVFAT is active. -/
def Dev.noneFatal (d : Dev) : Bool := d.level.all (fun e => decide (e.2 = 0 ∨ d.faultClass e.1 < 4))

/-- QREM in 0.1 s (DESIGN CHOICE, log 25). -/
def Dev.quietLeft (d : Dev) : Nat :=
  let q := min 600 (max 1 (d.fg fcRec FcRec.QUIET))
  q - (d.fcNow - d.fc.quietAt) / 10000000

/-- The conditions of R268 but AUTO. -/
def Dev.quietOver (d : Dev) : Bool :=
  d.inFault && !d.ff fcStat FcStat.LATCH && d.noneFatal && decide (d.quietLeft = 0)

/-- The recovery window ends: CNT returns to 0 (R272). -/
def Dev.windowOver (d : Dev) : Dev :=
  let w := min 10080 (max 1 (d.fg fcRec FcRec.WIN))
  if d.fg fcRec FcRec.CNT ≠ 0 ∧ d.fc.winAt + w * 6000000000 ≤ d.fcNow then d.fp fcRec FcRec.CNT 0 else d

/-- FCREC.ICLR from partition `part` (R273, R562): none where it is refused. -/
def Dev.iclr (d : Dev) (part : Nat) : Option Dev :=
  if d.installer part rightFLTCLR && d.auRoom then
    let a := d.actor part
    let d1 := (d.sessionActs part).audit { typ := 0x34, part := part, role := a.1, serial := a.2 }
    some ((d1.fp fcRec FcRec.CNT 0).fp fcStat FcStat.LATCH 0).syncBalls
  else none

/-- A write of 1 to FCSTAT.CF (R262). -/
def Dev.cfClear (d : Dev) : Dev :=
  if d.level.any (fun e => decide (e.2 ≠ 0 ∧ d.faultClass e.1 = 3)) then d else (d.fp fcStat FcStat.CF 0).syncBalls

/-! ### The alive feed (R263, R264) -/

/-- A violation of the alive feed. -/
def Dev.feedBad (d : Dev) : Dev :=
  let d1 := ((d.fp fcStat FcStat.FEEDV 0).fp fcStat FcStat.NEXTK 0).pulseSrc 184 0
  ({ d1 with fc := { d1.fc with feedAt := none, warned := false } } : Dev).syncBalls

/-- A write of FCFEED from partition `part` at privilege `pl`: none where it is ignored. -/
def Dev.feed (d : Dev) (part pl key : Nat) : Option Dev :=
  if pl ≠ 2 ∨ part ≠ d.fg fcCtl FcCtl.FEEDP then none
  else
    let want := if d.ff fcStat FcStat.NEXTK then 0xA5 else 0x5A
    let inTime := match d.fc.feedAt with
      | none => true
      | some t => decide (t + d.fg fcFwin FcFwin.WMIN * 100000 ≤ d.fcNow ∧ d.fcNow ≤ t + max 1 (d.fg fcFwin FcFwin.WMAX) * 100000)
    if decide (key = want) && inTime then
      let d1 := (d.fp fcStat FcStat.FEEDV 1).fb fcStat FcStat.NEXTK (!d.ff fcStat FcStat.NEXTK)
      let d2 := if d.inFault then d1 else d1.fb fcStat FcStat.SAFEB (!d.ff fcStat FcStat.SAFEB)
      some ({ d2 with fc := { d2.fc with feedAt := some d.fcNow, warned := false } } : Dev).syncBalls
    else some d.feedBad

/-- WMAX has passed since the last valid feed. -/
def Dev.feedTimeout (d : Dev) : Dev :=
  match d.fc.feedAt with
  | some t => if t + max 1 (d.fg fcFwin FcFwin.WMAX) * 100000 < d.fcNow then d.feedBad else d
  | none => d

/-- Three quarters of WMAX have passed since the last valid feed. -/
def Dev.feedWarning (d : Dev) : Dev :=
  match d.fc.feedAt with
  | some t =>
    if !d.fc.warned ∧ t + max 1 (d.fg fcFwin FcFwin.WMAX) * 75000 ≤ d.fcNow then
      ({ d with fc := { d.fc with warned := true } } : Dev).fcEvent 5
    else d
  | none => d

/-! ### Software and self-check sources (R258, R260, R261, R292) -/

/-- FCSWF.DEV and FCSWF.CH. -/
def Dev.swfDev (d : Dev) : Dev := d.pulseSrc 191 0
def Dev.swfCh (d : Dev) (m : Nat) : Dev := ({ d with fc := { d.fc with swf := m } } : Dev).pulseSrc 190 0

/-- A safety ball differs from its commanded level for 8 cycles; nFAULT counts only while it is commanded low. -/
def Dev.ballFault (d : Dev) (u : Nat) : Dev :=
  if u = 3 ∧ !d.ff fcStat FcStat.NFLT then d else d.pulseSrc 188 u

/-- The FSTOP pulse test. -/
def Dev.fstopTest (d : Dev) (ok : Bool) : Dev := if ok then d else d.pulseSrc 189 0

end Sys2Proof.Machine
end

