-- ==== Sys2Proof/Machine/Furrows.lean ====
section
/-! DEFINITION. Furrows: changes of lead, mismatches and their outcome, hand-overs, retirement, the cell clock and the caliper
test (R206-R252). A group's record, its banked registers, its holding registers and its transactions are those of its lead. -/

namespace Sys2Proof.Machine

/-! ### Causes, roles and leads -/

/-- Set CAUSE bit `i` of furrow `f`, which is also a fault source (R242, R257) (DEDUCED, log 78). -/
def Dev.furCause (d : Dev) (f i : Nat) : Dev := (d.latch (fuStat f) FuStat.CAUSE i).pulseSrc (151 - i) f

/-- A furrow retires a cell: its clock stops and the retirement word follows by a system commit (R222). -/
def Dev.retireCell (d : Dev) (c : Nat) (blame : Bool) : Dev :=
  let d1 := (d.setRole c 4 0).sysCommit
    { addr := furWord (c / 4), val := BitVec.ofNat 72 (2 ^ (c % 4)), audit := { typ := 0x32, role := 3, subj := c }, set := true }
  if blame then d1.furCause (c / 4) 5 else d1

/-- A command, an arbitration or a retirement is in progress (R228). -/
def Dev.furBusy (d : Dev) (f : Nat) : Bool :=
  let x := d.fur f
  decide (x.cmd ≠ none ∨ x.mis ≠ [] ∨ x.arb ≠ none ∨ x.mins ≠ [] ∨ x.resume ≠ none ∨ x.restart ≠ none) ||
    d.sysq.any (fun q => q.set && decide (q.addr = furWord f))

/-- Empty the holding registers of cell `c` in every block. -/
def Dev.dropHolds (d : Dev) (c : Nat) : Dev := { d with holds := d.holds.filter (fun e => decide (e.1 % 256 ≠ c)) }

/-- Move the high halves held for cell `a` to cell `b` (R235). -/
def Dev.moveHolds (d : Dev) (a b : Nat) : Dev :=
  let d1 := d.dropHolds b
  (d1.holds.filter (fun e => decide (e.1 % 256 = a))).foldl
    (fun d e => { d with holds := Tab.set {} d.holds (e.1 / 256 * 256 + b) e.2 }) (d1.dropHolds a)

/-- The registers that each cell has of its own but for its pending events. -/
def banked (c : Nat) : List Nat := [clCfg c, clEvt c, clCyc c, clBun c, clFrz c, ecCur c, ecFadr c, ecFinf c, ecXctl c, ecCst c]

/-- Copy the banked registers and the record of cell `a` to cell `b`. -/
def Dev.copyCell (d : Dev) (a b : Nat) : Dev :=
  ((banked a).zip (banked b)).foldl (fun d k => d.wr k.2 (d.rd k.1)) (d.putCell b (d.cell a))

/-- Add events to those pending in cell `c`; `ws` are its eight words of them. -/
def Dev.addPends (d : Dev) (c : Nat) (ws : List Word) : Dev :=
  ws.zipIdx.foldl (fun d p => d.wr (ecPend c p.2) (d.rd (ecPend c p.2) ||| p.1)) d

/-- The events pending in a list of cells, as eight words. -/
def Dev.pendsOf (d : Dev) (cs : List Nat) : List Word :=
  (List.range 8).map (fun k => cs.foldl (fun w c => w ||| d.rd (ecPend c k)) 0)

/-- Event routes that name one of `cs` are pointed to cell `b` (DEDUCED, log 83). -/
def Dev.pointRoutes (d : Dev) (cs : List Nat) (b : Nat) : Dev :=
  (List.range 256).foldl (fun d e =>
    if d.ff (ecRt e) EcRt.MODE then d
    else if cs.contains (d.fg (ecRt e) EcRt.TGT) && decide (d.fg (ecRt e) EcRt.TGT ≠ b) && d.ff (ecRt e) EcRt.EN then
      d.fp (ecRt e) EcRt.TGT b else d) d

/-- A group's lead changes from `a` to `b`: the record, pending events, held halves and transactions follow (R230, R235). -/
def Dev.relead (d : Dev) (a b : Nat) : Dev :=
  if a = b then d
  else
    let d1 := (List.range 8).foldl (fun d k => d.wr (ecPend b k) (d.rd (ecPend a k))) (d.copyCell a b)
    let d2 := (d1.clearPends a).moveHolds a b
    (List.range 32).foldl (fun d n =>
      if d.txState n ≠ 0 ∧ (d.txn n).owner = a then
        (d.putTxn n { d.txn n with owner := b }).fp (txStat n) TxStat.CELL b
      else d) d2

/-- A cell is not in the middle of a bundle's ops any more (DESIGN CHOICE, log 55). -/
def Cell.fresh (x : Cell) : Cell := { x with bundle := [], closed := false, cal := .agree, quiet := false }

/-! ### The cell clock (R240, R250, R318) -/

/-- The clock code that FREQ, throttling and CLKDN leave. -/
def Dev.clockWanted (d : Dev) (f : Nat) : Nat :=
  min (min 10 (d.fg (fuClk f) FuClk.FREQ)) (min (d.fur f).thr (if d.rider.clkdn.testBit f then 0 else 10))

/-- The FPLL relocks; the cells stand still (R240). -/
def Dev.relock (d : Dev) (f : Nat) : Dev := d.fp (fuClk f) FuClk.RELOCK 1

/-- The FPLL has relocked. -/
def Dev.relockEnd (d : Dev) (f : Nat) : Dev :=
  if d.ff (fuClk f) FuClk.RELOCK then (d.fp (fuClk f) FuClk.CUR (d.clockWanted f)).fp (fuClk f) FuClk.RELOCK 0 else d

/-- The clock changes where what is wanted differs from what runs. -/
def Dev.reclock (d : Dev) (f : Nat) : Dev := if d.clockWanted f = d.fg (fuClk f) FuClk.CUR then d else d.relock f

/-- A write of FnCLK.FREQ; during a hand-over it waits (R236) (DEDUCED, log 84). -/
def Dev.clockWrite (d : Dev) (f v : Nat) : Dev :=
  if (d.fur f).cmd ≠ none ∨ (d.fur f).arb ≠ none then d.putFur f { d.fur f with clkW := some v }
  else (d.fp (fuClk f) FuClk.FREQ v).relock f

/-! ### The spare test (R281, R282) -/

/-- The engine abandons the spare test of furrow `f`: its spares return to SPARE. Their SRAMs lost their contents as the test began. -/
def Dev.abandonTest (d : Dev) (f : Nat) : Dev :=
  let x := d.fur f
  if x.test = 0 then d
  else
    let d1 := (bitsOf x.test 4).foldl (fun d p => d.spareCell (4 * f + p)) (d.putFur f { x with test := 0 })
    (d1.fp bStat BStat.RES 3).fp bStat BStat.BUSY 0

/-! ### Hand-overs: copies -/

/-- Copy both local SRAMs of cell `a` to cell `b` (R232). -/
def Mem.copyLocal (m : Mem) (a b : Nat) : Mem :=
  (List.range 0x4000).foldl (fun m k =>
    (m.wr (aliasOf b + k) (m.rd (aliasOf a + k))).wr (isramOf b + k) (m.rd (isramOf a + k))) m

/-- Copy the rules of the local sluice of cell `a` to that of cell `b` (R496). -/
def Dev.copyRules (d : Dev) (a b : Nat) : Dev :=
  (List.range 8).foldl (fun d r =>
    ((d.wr (slBase b r) (d.rd (slBase a r))).wr (slPerm b r) (d.rd (slPerm a r))).wr (slAttr b r) (d.rd (slAttr a r))) d

/-- JOIN's copy phases and its end: `cells` are the members so far, of group `g`, and `ts` the new ones, whose events held pending go to the lead
(R231, R232, R235, R236). -/
def State.joinCopy (s : State) (cells ts : List Nat) (g : Nat) : State :=
  let a := cells.foldl min 63
  let b := (cells ++ ts).foldl min 63
  let d := s.dev
  let held := d.pendsOf ts
  let d1 := ts.foldl (fun d t => ((d.dropHolds t).clearPends t).copyRules a t) d
  let d2 := (cells ++ ts).foldl (fun d c => d.setRole c 1 g) ((d1.relead a b).addPends b held)
  let d3 := d2.putCell b ((d2.cell b).emptyBuffers.fresh)
  { s with mem := ts.foldl (fun m t => m.copyLocal a t) s.mem, dev := d3 }

/-- The words of the local SRAMs of cell `c`. -/
@[irreducible] def localKeys (c : Nat) : List Nat := (List.range 0x4000).flatMap (fun k => [aliasOf c + k, isramOf c + k])

/-- The words of the local SRAMs of cell `c` in which bits may have flipped: those listed, and all of them where a test's pattern left its own. -/
def Mem.suspects (m : Mem) (c : Nat) : List Nat :=
  if m.fills.all (fun f => decide (f.flip = 0)) then (m.flips.map Prod.fst).filter (fun a =>
    decide ((aliasOf c ≤ a ∧ a < aliasOf c + 0x4000) ∨ (isramOf c ≤ a ∧ a < isramOf c + 0x4000)))
  else localKeys c

/-- The words of the local SRAMs of cell `c` that a JOIN copies are checked on the way: each error is reported, and one that cannot be corrected
fails the copy (R232, R233). -/
def State.copyChecked (s : State) (c : Nat) : Bool × State :=
  (s.mem.suspects c).foldl (fun r k =>
    let e := (flippedWord (s.mem.rd k) (s.mem.flipped k)).2
    (r.1 || decide (e = 2), { r.2 with dev := r.2.dev.found e 159 c })) (false, s)

/-! ### The end of a hand-over or an arbitration -/

/-- The furrow stands still for nothing. -/
def Dev.handsFree (d : Dev) (f : Nat) : Bool := decide ((d.fur f).cmd = none ∧ (d.fur f).arb = none)

/-- Cell `c` walks a translation table, which a halt lets end (R468). -/
def Dev.walking (d : Dev) (c : Nat) : Bool := (d.cell (d.lead c)).walk.isSome

/-- A clock code, or a halt, that waited takes effect (R236, R468). -/
def Dev.handEnd (d : Dev) (f : Nat) : Dev :=
  if d.handsFree f then
    let x := d.fur f
    let later := (bitsOf x.haltW 4).filter (fun p => d.walking (4 * f + p))
    let now := (bitsOf x.haltW 4).filter (fun p => decide (d.role (4 * f + p) = 0 ∨ d.role (4 * f + p) = 1) && !d.walking (4 * f + p))
    let d1 := now.foldl (fun d p =>
      (d.haltGroup (d.lead (4 * f + p))).raise 253) (d.putFur f { x with clkW := none, haltW := later.foldl (fun m p => m ||| 2 ^ p) 0 })
    match x.clkW with
    | some v => d1.clockWrite f v
    | none => d1
  else d

/-- A command ends with a result; OK also sets CMDDONE (R228, R245). -/
def Dev.cmdResult (d : Dev) (f code : Nat) : Dev :=
  let d1 := d.fp (fuStat f) FuStat.RSLT code
  if code = 0 then d1.furCause f 4 else d1

/-! ### Mismatch (R215-R218) -/

/-- The width of a compared vector (R213). -/
def portWidth (port : Nat) : Nat := ([48, 150, 72, 101, 160] : List Nat).getD port 0

/-- The bits of a vector that differ: none beyond its width. -/
def vectorBits (port diff : Nat) : Nat := diff % 2 ^ portWidth port

/-- The mismatch record, if it is free (R247): the lowest bit of `bits`, and how many they are. -/
def Dev.recordMismatch (d : Dev) (f port cells g bits pc : Nat) : Dev :=
  let d1 := d.count (fuCnt f) FuCnt.MMC
  let bit := (lowestBit bits 160).getD 0
  if d1.ff (fuMmr f) FuMmr.V then d1
  else (d1.wr (fuMmr f) (fields [(port, 33), (cells, 29), (g, 27), (1, 26), (bit, 18), (min 255 (popCount bits 160), 10)])).wr
    (fuMmpc f) (BitVec.ofNat 72 pc)

/-- The positions of a list of cells, as a mask. -/
def posMask (l : List Nat) : Nat := l.foldl (fun m c => m ||| 2 ^ (c % 4)) 0

/-- A mismatch ends a command whose source group it strikes; the re-pairing of a triple with it (R228, R236). -/
def Dev.endCommand (d : Dev) (f cells : Nat) : Dev :=
  match (d.fur f).cmd with
  | some q =>
    if cells.testBit (q.src % 4) ∨ (q.cmd = 3 ∧ cells &&& q.tgt ≠ 0) then
      let d1 := d.putFur f { d.fur f with cmd := none }
      if q.auto = 0 then d1.cmdResult f 7 else d1
    else d
  | none => d

/-- The group of lead `c` mismatches in the bundle at its pc: every member freezes (R215). -/
def Dev.mismatch (d : Dev) (c port bits : Nat) : Dev :=
  let f := c / 4
  let cells := posMask (d.mates c)
  let x := d.cell c
  let m : Mis := { cells := cells, lead := c, grp := d.grp c, pc := x.pc, st := x.st, impr := decide (x.longs ≠ []) }
  let d1 := (d.txAbortOwner c abcCALIPER).furCause f 7
  let d2 := (d1.recordMismatch f port cells (d.grp c) bits x.pc).endCommand f cells
  let d3 := (d2.putFur f { d2.fur f with mis := (d2.fur f).mis ++ [m] }).landAll ((x.walk.bind Walk.fly).toList ++ (x.line.map FetchE.fly).toList)
  d3.putCell c { (d3.cell c).fresh with frozen := true, stall := false, walk := none, line := none, entry := none, wait := .none, blk := none }

/-- The two comparators disagree (R214). -/
def Dev.comparatorFault (d : Dev) (f : Nat) : Dev := d.furCause f 2

/-- One member of a triple is outvoted (R217): it goes to TEST, with the lowest SPARE beside it (R225), and the other two go
on as a pair. A command whose source the triple is ends with it (R236). No arbiter is part of that outcome (R245). -/
def Dev.minority (d : Dev) (c pos port bits : Nat) : Dev :=
  let f := c / 4
  let k := 4 * f + pos
  let g := d.grp c
  let rest := (d.mates c).filter (fun j => decide (j ≠ k))
  let cells := posMask (d.mates c)
  let d0 := ((d.recordMismatch f port (2 ^ pos) g bits (d.cell c).pc).furCause f 6).endCommand f cells
  let d1 := if (d.fur f).cmd = (d0.fur f).cmd then d0 else d0.putCell c { d0.cell c with quiet := false }
  let d2 := d1.relead c (rest.headD c)
  let d3 := (d2.setRole k 5 0).pointRoutes [k] (rest.headD c)
  let sp := ([0, 1, 2, 3] : List Nat).find? (fun p => decide (d3.role (4 * f + p) = 2))
  let d4 := match sp with | some p => d3.setRole (4 * f + p) 5 0 | none => d3
  let d5 := d4.putFur f { d4.fur f with mins := (d4.fur f).mins ++ [(pos, sp)] }
  ((d5.fp (fuStat f) FuStat.OUT 4).fp (fuStat f) FuStat.ARB 0).count (fuCnt f) FuCnt.ARC

/-- What the caliper finds in what the group of lead `c` sends, before any of it is released (R213-R217): the lead that goes on, none
where the group freezes. Bits beyond a port's vector are none, and a single compares nothing. -/
def Dev.judged (d : Dev) (c : Nat) (cal : Caliper) : Option Nat × Dev :=
  if d.role c ≠ 1 then (some c, d)
  else match cal with
  | .agree => (some c, d)
  | .differ port diff =>
    let b := vectorBits port.val diff.toNat
    if b = 0 then (some c, d) else (none, d.mismatch c port.val b)
  | .comparators port diff => (none, (d.comparatorFault (c / 4)).mismatch c port.val (vectorBits port.val diff.toNat))
  | .minority pos port diff =>
    let k := 4 * (c / 4) + pos.val
    let b := vectorBits port.val diff.toNat
    if (d.mates c).length = 3 ∧ (d.mates c).contains k ∧ b ≠ 0 then
      (some (((d.mates c).filter (fun j => decide (j ≠ k))).headD c), d.minority c pos.val port.val b)
    else (some c, d)

/-- Go on with what the group of lead `c` sends, where the caliper lets it; the outputs of a bundle are judged as it issues (DEDUCED, log 193). -/
def State.ifJudged (s : State) (c : Nat) (cal : Caliper) (k : State → Nat → State) : State :=
  match s.dev.judged c cal with
  | (some c', d) => k { s with dev := d } c'
  | (none, d) => { s with dev := d }

/-! ### Arbitration (R219-R221, R224, R226) -/

/-- The group of a mismatch is to restart, with outcome `out` (R224). -/
def Dev.toRestart (d : Dev) (f : Nat) (m : Mis) (out : Nat) (arb : Bool) : Dev :=
  let d1 := ((bitsOf m.cells 4).foldl (fun d p => d.setRole (4 * f + p) 1 m.grp) d)
  ((d1.putFur f { d1.fur f with restart := some m }).fp (fuStat f) FuStat.OUT out).fb (fuStat f) FuStat.ARB arb

/-- The arbiter `p` and the suspects run the arbitration test (R220) (DEDUCED, log 73). -/
def Dev.startArbitration (d : Dev) (f : Nat) (m : Mis) (p : Nat) (taken : Bool) : Dev :=
  let d1 := ((bitsOf m.cells 4).foldl (fun d q => d.setRole (4 * f + q) 5 0) d).setRole (4 * f + p) 5 0
  (d1.putFur f { d1.fur f with arb := some (p, taken), suspects := m.cells }).count (fuCnt f) FuCnt.ARC

/-- The lowest position of furrow `f` with a role. -/
def Dev.lowestRole (d : Dev) (f r : Nat) : Option Nat := ([0, 1, 2, 3] : List Nat).find? (fun p => decide (d.role (4 * f + p) = r))

/-- The mismatch whose turn it is: unwound, the lowest group first (R219). -/
def Fur.turn (x : Fur) : Option Mis :=
  (x.mis.filter (fun m => m.done)).foldl (fun b m => match b with
    | none => some m
    | some q => if m.grp < q.grp then some m else b) none

/-- Settle the next mismatch, if the furrow is free for it (R218-R220, R236). -/
def Dev.serve (d : Dev) (f : Nat) : Dev :=
  let x := d.fur f
  if !d.handsFree f ∨ x.resume ≠ none ∨ x.restart ≠ none then d
  else match x.turn with
  | none => d
  | some m =>
    if popCount m.cells 4 = 3 then d.toRestart f m 6 false
    else if m.lost then d.toRestart f m 3 false
    else if !d.ff (fuPol f) FuPol.BLAME then d.toRestart f m 3 false
    else
      let d1 := d.abandonTest f
      match d1.lowestRole f 2 with
      | some p => d1.startArbitration f m p false
      | none =>
        match (if d1.ff (fuPol f) FuPol.TAKE then d1.lowestRole f 0 else none) with
        | some p =>
          let c := 4 * f + p
          (d1.putCell c { d1.cell c with quiet := true }).putFur f
            { d1.fur f with cmd := some { cmd := 3, src := p, tgt := 2 ^ p, auto := 3 } }
        | none => d1.toRestart f m 3 false

/-- The JOIN that AUTOJ asks for begins once the furrow is free for it (R225) (DEDUCED, log 82). -/
def Dev.autoJoin (d : Dev) (f : Nat) : Dev :=
  let x := d.fur f
  match x.autoj with
  | none => d
  | some g =>
    if !d.handsFree f ∨ x.resume ≠ none ∨ x.restart ≠ none ∨ x.mis ≠ [] then d
    else
      let d0 := d.putFur f { x with autoj := none }
      match d0.lowestRole f 2, d0.groupCells f g with
      | some t, [m, _] =>
        let d1 := d0.clearPends (4 * f + t)
        (d1.putCell m { d1.cell m with quiet := true }).putFur f
          { d1.fur f with cmd := some { cmd := 2, src := m % 4, tgt := 2 ^ t, auto := 2 } }
      | _, _ => d0

/-- What follows when a command, a test or a restart ends. -/
def Dev.furNext (d : Dev) (f : Nat) : Dev := ((d.serve f).autoJoin f).handEnd f

/-- Unwinding of the mismatch of cell `c` ends (R216); `lost` abandons what is outstanding (DEDUCED, log 74). -/
def Dev.unwindEnd (d : Dev) (c : Nat) (lost : Bool) : Dev :=
  let f := c / 4
  let x := d.fur f
  match x.mis.find? (fun m => m.cells.testBit (c % 4) && !m.done) with
  | none => d
  | some m =>
    let y := d.cell m.lead
    if !lost && (decide (y.loads ≠ [] ∨ y.stores ≠ []) || d.txCopying m.lead) then d
    else
      let ids := y.loads.filterMap LoadE.fly ++ y.stores.filterMap StoreE.fly
      let d1 := if lost then (ids.foldl (fun d i => d.land i) d).putCell m.lead { y with loads := [], stores := [] } else d
      let m' := { m with done := true, lost := lost }
      (d1.putFur f { d1.fur f with mis := (d1.fur f).mis.map (fun q => if q = m then m' else q) }).furNext f

/-- The cells that are left of a group that cannot be re-paired or made consistent (R226, R233). -/
def Dev.groupLost (d : Dev) (f : Nat) (m : Mis) (left : List Nat) : Dev :=
  let d1 := left.foldl (fun (d : Dev) c => (d.setRole c 3 0).putCell c { (d.cell c).fresh with frozen := false }) d
  let d2 := (d1.furCause f 3).fp (fuStat f) FuStat.OUT 5
  d2.putFur f { d2.fur f with mis := (d2.fur f).mis.filter (fun q => decide (q ≠ m)) }

/-- Give the arbiter back (R221). -/
def Dev.arbiterBack (d : Dev) (f p : Nat) (taken : Bool) : Dev :=
  if taken then d.setRole (4 * f + p) 3 0 else d.spareCell (4 * f + p)

/-- The arbitration test ends (R221, R222): with RESUME = 0, the group that restarts is the survivor's with the arbiter in place of the blamed cell
(DEDUCED, log 75). -/
def Dev.arbitrationEnd (d : Dev) (f : Nat) (v : ArbVerdict) : Dev :=
  let x := d.fur f
  match x.arb, x.turn with
  | some (a, taken), some m =>
    let d0 := d.putFur f { x with arb := none, suspects := 0 }
    let arbiterOut := fun (_ : Unit) => (((d0.retireCell (4 * f + a) true).toRestart f m 2 true).furNext f)
    match v with
    | .agree => (((d0.arbiterBack f a taken).toRestart f m 2 true).furNext f)
    | .noMajority => arbiterOut ()
    | .blamed p =>
      if p.val = a then arbiterOut ()
      else if !m.cells.testBit p.val then d
      else
        let bad := 4 * f + p.val
        let sur := ((bitsOf m.cells 4).map (fun q => 4 * f + q)).filter (fun c => decide (c ≠ bad)) |>.headD bad
        let d1 := (((d0.relead m.lead sur).retireCell bad true).pointRoutes [bad] sur).clearPends (4 * f + a)
        if d1.ff (fuPol f) FuPol.RESUME then
          let d2 := (d1.setRole sur 1 m.grp).putFur f
            { d1.fur f with cmd := some { cmd := 2, src := sur % 4, tgt := 2 ^ a, nrole := b2n taken, copy := true, auto := 1 } }
          (d2.fp (fuStat f) FuStat.OUT 1).fp (fuStat f) FuStat.ARB 1
        else
          let m' : Mis := { m with cells := posMask [sur, 4 * f + a], lead := sur }
          let d2 := d1.putFur f { d1.fur f with mis := (d1.fur f).mis.map (fun q => if q = m then m' else q) }
          (d2.toRestart f m' 2 true).furNext f
  | _, _ => d

/-- A group restarts (R224, R235, R271): counted first, and not carried out at the limit, which is recorded as FS144 at class DEVFAT. A copied word
that cannot be corrected, a fresh one by `bad`, fails its JOIN, and the group is lost (R233) (DEDUCED, log 75). -/
def State.groupRestart (s : State) (f : Nat) (bad : Bool) : State :=
  let d := s.dev
  match (d.fur f).restart with
  | none => s
  | some m =>
    let x := d.fur f
    let d0 := d.putFur f { x with restart := none, mis := x.mis.filter (fun q => decide (q ≠ m)) }
    let r := d0.recover
    if r.1 then
      let cells := (bitsOf m.cells 4).map (fun p => 4 * f + p)
      let others := cells.filter (fun c => decide (c ≠ m.lead))
      let q := ({ s with dev := r.2.count (fuCnt f) FuCnt.RSC } : State).copyChecked m.lead
      if bad || q.1 then
        let d1 := if bad then q.2.dev.pulseSrc 160 m.lead else q.2.dev
        { q.2 with dev := ((d1.furCause f 1).groupLost f m cells).furNext f }
      else
        let s1 := q.2.joinCopy [m.lead] others m.grp
        let b := cells.foldl min 63
        let d1 := cells.foldl (fun d c => d.dropHolds c) s1.dev
        let d2 := d1.restart b cCALRST (r.2.fg (fuMmpc f) FuMmpc.PC) m.st true
        { s1 with dev := d2.furNext f }
    else { s with dev := ((r.2.noteFault 144).firstFault 144 f 4).furNext f }

/-- A re-paired group takes the caliper exception (R223). -/
def Dev.groupResume (d : Dev) (f : Nat) : Dev :=
  match (d.fur f).resume with
  | none => d
  | some m =>
    let c := d.lead (4 * f + m.lead % 4)
    let d1 := d.putFur f { d.fur f with resume := none }
    let x := d1.cell c
    (d1.putCell c { x.enter { lvl := 2, cause := cCALIPER, epc := m.pc, imprecise := m.impr } with frozen := false }).furNext f

/-- The test of a minority member ends (R225). -/
def Dev.minorityEnd (d : Dev) (c : Nat) (fails : Bool) : Dev :=
  let f := c / 4
  let x := d.fur f
  match x.mins.find? (fun q => decide (q.1 = c % 4)) with
  | none => d
  | some (_, sp) =>
    let d0 := d.putFur f { x with mins := x.mins.filter (fun q => decide (q.1 ≠ c % 4)) }
    let d1 := if fails then d0.retireCell c true else d0.spareCell c
    let d2 := match sp with | some p => d1.spareCell (4 * f + p) | none => d1
    match (if d2.ff (fuPol f) FuPol.AUTOJ then d2.lowestRole f 1 else none) with
    | some p => (d2.putFur f { d2.fur f with autoj := some (d2.grp (4 * f + p)) }).furNext f
    | none => d2.furNext f

/-! ### Commands (R228-R234) -/

/-- The cells that positions name. -/
def posCells (f m : Nat) : List Nat := (bitsOf m 4).map (fun p => 4 * f + p)

/-- The result that refuses a command, if one does: the order BUSY, LOCKED, ARG, RIGHTS for the level, ROLE, RIGHTS for the
partition, SIZE is the model's (R228) (DEDUCED, log 79, DEDUCED, log 80, DEDUCED, log 81). -/
def Dev.cmdRefusal (d : Dev) (f cmd src tgt nrole : Nat) (part : Option Nat) (pl : Nat) : Option Nat :=
  let ts := posCells f tgt
  let s := 4 * f + src
  let mine := fun c => decide (part = some (d.cell (d.lead c)).part)
  if d.furBusy f then some 1
  else if d.ff (fuPol f) FuPol.LKMODE then some 8
  else if 6 ≤ cmd ∨ (cmd = 1 ∧ nrole = 3) then some 9
  else if pl ≠ 2 ∨ part = none then some 4
  else if ts = [] then some 2
  else match cmd with
  | 1 =>
    if d.role s ≠ 1 ∨ ts.any (fun c => !(d.mates s).contains c) then some 2
    else if !mine s then some 4
    else if ts.length = (d.mates s).length then some 3 else none
  | 2 =>
    if ¬(d.role s = 0 ∨ d.role s = 1) ∨ ts.any (fun c => decide (d.role c ≠ 2 ∧ d.role c ≠ 3)) then some 2
    else if !mine s then some 4
    else if 3 < (d.mates s).length + ts.length then some 3 else none
  | 3 =>
    if ts.any (fun c => decide (d.role c ≠ 0)) then some 2
    else if ts.all mine then none else some 4
  | 4 => if ts.any (fun c => decide (d.role c ≠ 3)) then some 2 else none
  | _ => if ts.any (fun c => decide (d.role c ≠ 2 ∧ d.role c ≠ 3)) then some 2 else none

/-- Ask cells to stop for a quiesce (R229). -/
def Dev.askQuiet (d : Dev) (cs : List Nat) (b : Bool) : Dev :=
  cs.foldl (fun d c => d.putCell (d.lead c) { d.cell (d.lead c) with quiet := b }) d

/-- A write of FnCMD with command `cmd` (R228): refused at once, or begun. SPARE and RETIRE need no quiesce. -/
def Dev.furCommand (d : Dev) (f cmd src tgt nrole : Nat) (part : Option Nat) (pl : Nat) : Dev :=
  if cmd = 0 then d
  else
    let d0 := d.fp (fuStat f) FuStat.LAST cmd
    let d1 := if (posCells f tgt).any (fun c => (d0.fur f).test.testBit (c % 4)) then d0.abandonTest f else d0
    match d1.cmdRefusal f cmd src tgt nrole part pl with
    | some r => d1.fp (fuStat f) FuStat.RSLT r
    | none =>
      let ts := posCells f tgt
      match cmd with
      | 4 => (ts.foldl (fun d c => d.spareCell c) d1).cmdResult f 0
      | 5 => (ts.foldl (fun d c => d.retireCell c false) d1).cmdResult f 0
      | _ =>
        let d2 := if cmd = 2 then ts.foldl (fun d c => d.clearPends c) d1 else d1
        (d2.askQuiet (if cmd = 3 then ts else [4 * f + src]) true).putFur f
          { d2.fur f with cmd := some { cmd := cmd, src := src, tgt := tgt, nrole := nrole } }

/-- A quiesced lead has nothing on its way (R229). -/
def Dev.drainedCell (d : Dev) (c : Nat) : Bool :=
  let x := d.cell c
  x.quieted && decide (x.loads = [] ∧ x.longs = [] ∧ x.stores = []) && !d.txCopying c

/-- The cells that a command quiesces. -/
def Dev.cmdCells (d : Dev) (f : Nat) (q : FurCmd) : List Nat :=
  if q.cmd = 3 then posCells f q.tgt else [d.lead (4 * f + q.src)]

/-- SPLIT at the end of its quiesce (R230). -/
def Dev.splitNow (d : Dev) (f : Nat) (q : FurCmd) : Dev :=
  let s := 4 * f + q.src
  let cells := d.mates s
  let lead := d.lead s
  let g := d.grp s
  let ts := posCells f q.tgt
  let rest := cells.filter (fun c => !ts.contains c)
  let b := rest.headD lead
  let d1 := (d.txAbortOwner lead abcOWNER).relead lead b
  let d2 := d1.pointRoutes cells b
  let own : Cell → Cell := fun x => { x.fresh with txCur := none, txAbc := 0, txAbn := 0, txErr := 0 }
  let d3 := ts.foldl (fun d t =>
    let d := (d.copyCell b t)
    let d := ((d.putCell t (own (d.cell t))).dropHolds t).clearPends t
    match q.nrole with | 0 => d.setRole t 0 0 | 1 => d.setRole t 3 0 | _ => d.spareCell t) d2
  let d4 := if rest.length = 1 then rest.foldl (fun d c => d.setRole c 0 0) d3 else rest.foldl (fun d c => d.setRole c 1 g) d3
  d4.putCell b (d4.cell b).fresh

/-- STOP at the end of its quiesce (R234, R183). -/
def Dev.stopNow (d : Dev) (ts : List Nat) : Dev :=
  ts.foldl (fun d c =>
    let d1 := (d.txAbortOwner c abcOWNER).setRole c 3 0
    d1.putCell c (d1.cell c).fresh) d

/-- Quiesce ends and the command proceeds (R229); `differ` are the bits of the event port in which SPLIT's last comparison finds the members to differ
(R230). -/
def Dev.quiesceEnd (d : Dev) (f differ : Nat) : Dev :=
  match (d.fur f).cmd with
  | none => d
  | some q =>
    if q.copy ∨ !(d.cmdCells f q).all (fun c => d.drainedCell c) then d
    else
      let free := d.putFur f { d.fur f with cmd := none }
      match q.cmd with
      | 1 =>
        if vectorBits 3 differ ≠ 0 then d.mismatch (d.lead (4 * f + q.src)) 3 (vectorBits 3 differ)
        else ((free.splitNow f q).cmdResult f 0).furNext f
      | 2 =>
        let l := d.lead (4 * f + q.src)
        let d1 := if q.auto = 0 ∨ q.auto = 2 then d.txAbortOwner l abcOWNER else d
        d1.putFur f { d1.fur f with cmd := some { q with copy := true } }
      | _ =>
        let d1 := free.stopNow (posCells f q.tgt)
        if q.auto = 3 then
          match (d1.fur f).turn with
          | some m => d1.startArbitration f m q.src true
          | none => d1
        else (d1.cmdResult f 0).furNext f

/-- Quiesce has not ended in 2,688 cycles (R229): the command fails with DRAIN; a SINGLE that was to be the arbiter goes on,
and the group restarts without one. -/
def Dev.quiesceTimeout (d : Dev) (f : Nat) : Dev :=
  match (d.fur f).cmd with
  | none => d
  | some q =>
    if q.copy then d
    else
      let d1 := (d.askQuiet (d.cmdCells f q) false).putFur f { d.fur f with cmd := none }
      match q.auto with
      | 0 => (d1.cmdResult f 5).furNext f
      | 3 => match (d1.fur f).turn with
        | some m => (d1.toRestart f m 3 false).furNext f
        | none => d1
      | _ => d1.furNext f

/-- The lowest group number that furrow `f` does not use. -/
def Dev.freeGroup (d : Dev) (f : Nat) : Nat :=
  (([0, 1, 2, 3] : List Nat).find? (fun g => decide (d.groupCells f g = []))).getD 3

/-- The JOIN copy phases end (R231-R233); `bad` tells that a copied word has met an uncorrectable error (DEDUCED, log 82). -/
def State.joinEnd (s : State) (f : Nat) (bad : Bool) : State :=
  let d := s.dev
  match (d.fur f).cmd with
  | none => s
  | some q =>
    if !q.copy then s
    else
      let src := 4 * f + q.src
      let l := d.lead src
      let ts := posCells f q.tgt
      let c := ({ s with dev := d.putFur f { d.fur f with cmd := none } } : State).copyChecked l
      if bad || c.1 then
        let d0 := if bad then c.2.dev.pulseSrc 160 l else c.2.dev
        let d1 := (d0.furCause f 1).askQuiet [src] false
        let d2 := match q.auto with
          | 0 => d1.cmdResult f 6
          | 1 => match (d1.fur f).turn with
            | some m => Dev.groupLost (ts.foldl (fun (d : Dev) t => d.arbiterBack f (t % 4) (decide (q.nrole = 1))) d1) f m [src]
            | none => d1
          | _ => d1
        { c.2 with dev := d2.furNext f }
      else
        let g := if d.role src = 1 then d.grp src else d.freeGroup f
        let s1 := c.2.joinCopy (d.mates src) ts g
        let d2 := match q.auto with
          | 0 => (s1.dev.cmdResult f 0).furNext f
          | 1 => match (s1.dev.fur f).turn with
            | some m => s1.dev.putFur f { s1.dev.fur f with
                resume := some { m with lead := s1.dev.lead src }, mis := (s1.dev.fur f).mis.filter (fun x => decide (x ≠ m)) }
            | none => s1.dev
          | _ => (s1.dev.furCause f 0).furNext f
        { s1 with dev := d2 }

/-! ### FnRET.CLR and the caliper test (R241, R249) -/

/-- FnRET.CLR from partition `part`: none where it is refused. One system commit for each cleared position (R190). -/
def Dev.cellRetClear (d : Dev) (f m part : Nat) : Option Dev :=
  if d.installer part rightRETCLR && d.auRoom then
    let a := d.actor part
    let w := d.fg (fuRet f) FuRet.RET
    some ((bitsOf (m &&& w) 4).foldl (fun d p => d.sysCommit
      { addr := furWord f, val := BitVec.ofNat 72 (2 ^ p),
        audit := { typ := 0x33, part := part, role := a.1, serial := a.2, subj := 4 * f + p }, set := false }) (d.sessionActs part))
  else none

/-- FnCTEST.GO (R241, R251): ignored while a test runs. The group, the port and the bit are those of the write; a bit beyond the vector acts as bit 0. -/
def Dev.ctestGo (d : Dev) (f : Nat) : Dev :=
  let port := d.fg (fuCtest f) FuCtest.PORT
  let bit := d.fg (fuCtest f) FuCtest.BIT
  if (d.fur f).ctest.isSome then d
  else (d.putFur f { d.fur f with ctest := some (d.fg (fuCtest f) FuCtest.GRP, port, if bit < portWidth port then bit else 0) }).fp
    (fuCtest f) FuCtest.DONE 0

/-- The caliper test ends: `a` and `b` are the bits of the altered vector in which each comparator detected a difference within 4 cycles (R241).
A group that compares nothing detects nothing. -/
def Dev.ctestEnd (d : Dev) (f a b : Nat) : Dev :=
  match (d.fur f).ctest with
  | some (g, _, bit) =>
    let ok := a.testBit bit && b.testBit bit && decide (2 ≤ (d.groupCells f g).length)
    let d1 := ((d.putFur f { d.fur f with ctest := none }).fp (fuCtest f) FuCtest.DONE 1).fb (fuCtest f) FuCtest.OK ok
    if ok then d1 else d1.furCause f 2
  | none => d

end Sys2Proof.Machine
end

