-- ==== Sys2Proof/Machine/Bist.lean ====
section
/-! DEFINITION. The BIST engine: marches, the spare test and the scrubs (R276-R283, R294, R295, R480). What a march finds of its own
writes and of the contents that it meets is computed; what it finds of an array's defects is an operand of the command that ends it. -/

namespace Sys2Proof.Machine

/-! ### March programs (R276-R278) -/

/-- One operation of an element: a write or a read, of the background or its complement. -/
structure MarchOp where
  write : Bool
  inv   : Bool
deriving DecidableEq, Repr

/-- One element: whether it descends, and its operations. -/
structure MarchElem where
  down : Bool
  ops  : List MarchOp
deriving DecidableEq, Repr

def opW0 : MarchOp := ⟨true, false⟩
def opW1 : MarchOp := ⟨true, true⟩
def opR0 : MarchOp := ⟨false, false⟩
def opR1 : MarchOp := ⟨false, true⟩

/-- March C− and MATS+, element by element. -/
def marchC : List MarchElem :=
  [⟨false, [opW0]⟩, ⟨false, [opR0, opW1]⟩, ⟨false, [opR1, opW0]⟩, ⟨true, [opR0, opW1]⟩, ⟨true, [opR1, opW0]⟩, ⟨false, [opR0]⟩]
def matsPlus : List MarchElem := [⟨false, [opW0]⟩, ⟨false, [opR0, opW1]⟩, ⟨true, [opR1, opW0]⟩]

/-- The operations of BPRGk, none where NOPS is 0 or 7. -/
def Dev.bprgOps (d : Dev) (k : Nat) : Option (List MarchOp) :=
  let n := d.fg (bPrg k) BPrg.NOPS
  if n = 0 ∨ n = 7 then none
  else some ((List.range n).map (fun j =>
    let o := (⟨30 - 2 * j, 29 - 2 * j⟩ : Span).get (d.rd (bPrg k))
    ⟨decide (2 ≤ o), decide (o % 2 = 1)⟩))

/-- A DRAM element holds at most one read followed by at most one write (R277). -/
def dramElement (l : List MarchOp) : Bool := decide (l.map (fun o => o.write) ∈ ([[false], [true], [false, true]] : List (List Bool)))

/-- The elements that run, and whether an ill-formed one ends the program (R276, R277). -/
def Dev.program (d : Dev) (dram : Bool) (k : Nat) : Nat → List MarchElem × Bool
  | 0 => ([], false)
  | fuel + 1 =>
    match d.bprgOps k with
    | none => ([], true)
    | some l =>
      let e : MarchElem := ⟨decide (d.fg (bPrg k) BPrg.ORD = 1), l⟩
      if dram && !dramElement l then ([], true)
      else if d.ff (bPrg k) BPrg.LAST then ([e], false)
      else
        let r := d.program dram (k + 1) fuel
        (e :: r.1, r.2)

/-- The march that BCTL selects. -/
def Dev.march (d : Dev) (dram : Bool) : List MarchElem × Bool :=
  match d.fg bCtl BCtl.ALG with
  | 1 => (matsPlus, false)
  | 2 => d.program dram 0 16
  | _ => (marchC, false)

/-- What a word holds after operations: the background or its complement, none where nothing has written it yet. -/
def heldAfter (held : Option Bool) (l : List MarchOp) : Option Bool :=
  l.foldl (fun h o => if o.write then some o.inv else h) held

/-- The background of BCTL.BG; rows of an SRAM are not described, so a stripe there is open, as words of number `id` (R278)
(DESIGN CHOICE, log 92). -/
def Dev.background (d : Dev) (dram : Bool) (id : Nat) : Pat :=
  match d.fg bCtl BCtl.BG with
  | 0 => .const 0
  | 1 => .checker false
  | 2 => if dram then .stripe false else .lost id
  | _ => .const (d.rd bPat)

/-- The complement of a background's data; of an open one, words of number `id`. -/
def Pat.inverse (p : Pat) (id : Nat) : Pat :=
  match p with
  | .const w => .const (~~~ w)
  | .checker inv => .checker (!inv)
  | .stripe inv => .stripe (!inv)
  | .lost _ => .lost id

/-! ### What a march finds in an array that keeps what is written (R276, R280) -/

/-- The 80 bits of a word as it is stored. -/
def Mem.raw (m : Mem) (a : Nat) : BitVec 80 := encodeWord (m.rd a) ^^^ m.flipped a

/-- The 80 bits of the background at `a`, or of its complement. -/
def Pat.raw (p : Pat) (a : Nat) (inv : Bool) : BitVec 80 :=
  if inv then ~~~ encodeWord (p.word a) else encodeWord (p.word a)

/-- The first of operations, numbered from `k` on, that reads at `a` what it does not expect, and the bits that differ. -/
def Mem.misread (m : Mem) (p : Pat) (a : Nat) : Option Bool → Nat → List MarchOp → Option (Nat × BitVec 80)
  | _, _, [] => none
  | held, k, o :: l =>
    if o.write then m.misread p a (some o.inv) (k + 1) l
    else
      let has := match held with | some v => p.raw a v | none => m.raw a
      if has = p.raw a o.inv then m.misread p a held (k + 1) l else some (k, has ^^^ p.raw a o.inv)

/-- An element's operations look at what a word held before the march. -/
def looks (held : Option Bool) (l : List MarchOp) : Bool :=
  decide (held = none) && (match l with | o :: _ => !o.write | [] => false)

/-- Words of the range `lo` to `hi`, in an element's order; its first alone where every word answers alike. -/
def marchOrder (e : MarchElem) (held : Option Bool) (lo hi : Nat) : List Nat :=
  let l := if looks held e.ops then (List.range (hi + 1 - lo)).map (fun k => lo + k)
    else if e.down then [hi] else [lo]
  if e.down then l.reverse else l

/-- The first failure of a range that an element finds: the address, the operation and the bits. -/
def Mem.elemFails (m : Mem) (p : Pat) (e : MarchElem) (held : Option Bool) (lo hi : Nat) : Option (Nat × Nat × BitVec 80) :=
  (marchOrder e held lo hi).findSome? (fun a => (m.misread p a held 0 e.ops).map (fun q => (a, q.1, q.2)))

/-- A first failure as it is recorded: `base` is the first word of a local SRAM, 0 elsewhere. -/
def failOf (e base : Nat) (isram : Bool) (q : Nat × Nat × BitVec 80) : BistFail :=
  { adr := Fin.ofNat 68719476736 (q.1 - base), elem := Fin.ofNat 16 e, op := Fin.ofNat 8 q.2.1,
    bit := Fin.ofNat 80 (((List.range 80).find? (fun i => q.2.2.getLsbD i)).getD 0), isram := isram }

/-- A target: its range, and the instruction SRAM's where it is a cell's local SRAMs, which run in parallel. -/
abbrev Arrays := (Nat × Nat) × Option (Nat × Nat)

/-- The failure that element number `n` finds first; of the two local SRAMs the data SRAM's at equal places. -/
def Mem.firstFail (m : Mem) (p : Pat) (t : Arrays) (n : Nat) (e : MarchElem) (held : Option Bool) : Option BistFail :=
  match t.2 with
  | none => (m.elemFails p e held t.1.1 t.1.2).map (failOf n 0 false)
  | some i =>
    match (m.elemFails p e held t.1.1 t.1.2).map (failOf n t.1.1 false), (m.elemFails p e held i.1 i.2).map (failOf n i.1 true) with
    | some f, some g => some (if (if e.down then decide (f.adr.val < g.adr.val) else decide (g.adr.val < f.adr.val)) then g else f)
    | some f, none => some f
    | none, r => r

/-- The first failure of a march from element number `n` on. -/
def Mem.marchFail (m : Mem) (p : Pat) (t : Arrays) : Nat → Option Bool → List MarchElem → Option BistFail
  | _, _, [] => none
  | n, held, e :: l =>
    match m.firstFail p t n e held with
    | some f => some f
    | none => m.marchFail p t (n + 1) (heldAfter held e.ops) l

/-- The word at `a` fails somewhere in a march. -/
def Mem.wordFails (m : Mem) (p : Pat) (a : Nat) (held : Option Bool) : List MarchElem → Bool
  | [] => false
  | e :: l => (m.misread p a held 0 e.ops).isSome || m.wordFails p a (heldAfter held e.ops) l

/-- The failing words of a range: all alike but where the march looks at what they held. -/
def Mem.failCount (m : Mem) (p : Pat) (l : List MarchElem) (r : Nat × Nat) : Nat :=
  match l with
  | [] => 0
  | e :: _ =>
    if looks none e.ops then ((List.range (r.2 + 1 - r.1)).filter (fun k => m.wordFails p (r.1 + k) none l)).length
    else if m.wordFails p r.1 none l then r.2 + 1 - r.1 else 0

/-! ### Fills -/

/-- Contents that nothing fixes from here on. -/
def State.lose (s : State) (lo hi : Nat) : State :=
  { s with mem := s.mem.fill lo hi (.lost s.dev.fresh), dev := s.dev.next }

/-- What a march leaves in a range: its last write, whose complement is that of all 80 bits; without one, contents that nothing fixes. -/
def State.leave (s : State) (r : Nat × Nat) (p : Pat) (last : Option Bool) : State :=
  match last with
  | none => s.lose r.1 r.2
  | some false => { s with mem := s.mem.fill r.1 r.2 p }
  | some true => { s with mem := s.mem.fill r.1 r.2 (p.inverse s.dev.fresh) complementFlips, dev := s.dev.next }

/-- Both local SRAMs of cell `c` lose their contents. -/
def State.loseLocal (s : State) (c : Nat) : State :=
  (s.lose (aliasOf c) (aliasOf c + 0x3FFF)).lose (isramOf c) (isramOf c + 0x3FFF)

/-! ### A march on command (R280) -/

/-- The arrays of BCTL's target where R280 permits it, with the requests made of the DRAM sluices. -/
def Dev.bistTarget (d : Dev) (part pl : Nat) : Option Arrays × Dev :=
  let u := d.fg bCtl BCtl.UNIT
  match d.fg bCtl BCtl.TGT with
  | 0 =>
    (if d.cellHere u && decide (d.role u = 2 ∨ d.role u = 3 ∨ d.role u = 4) then
      some ((aliasOf u, aliasOf u + 0x3FFF), some (isramOf u, isramOf u + 0x3FFF)) else none, d)
  | 1 =>
    (if d.furHere u && (posCells u 15).all (fun c => decide (d.role c ≠ 0 ∧ d.role c ≠ 1)) then
      some ((fsramOf u, fsramOf u + 0x3FFFF), none) else none, d)
  | 2 =>
    let k := max 3 (d.fg bCtl BCtl.K)
    let a := d.fg bDram BDram.BASE
    if a % 2 ^ k ≠ 0 ∨ a < dramBase ∨ dramBase + d.dramSize < a + 2 ^ k then (none, d)
    else
      let q := fun (kd : Kind) (d : Dev) => d.ask
        { cls := clsDMA, pl := pl, pg := Tab.get 0 d.pgrp part, part := part, req := 3, kind := kd, addr := a, n := 2 ^ k }
      match q .read d with
      | (.permit _, d1) =>
        match q .write d1 with
        | (.permit _, d2) => (some ((a, a + 2 ^ k - 1), none), d2)
        | (_, d2) => (none, d2)
      | (_, d1) => (none, d1)
  | _ => (none, d)

/-- The march that BCTL selects, on the arrays `t`: its result on contents as they stand. -/
def State.bistPlan (s : State) (t : Arrays) : Bist :=
  let d := s.dev
  let tgt := d.fg bCtl BCtl.TGT
  let m := d.march (decide (tgt = 2))
  let p := d.background (decide (tgt = 2)) d.fresh
  { tgt := tgt, unit := d.fg bCtl BCtl.UNIT, data := t.1, code := t.2, pat := p,
    last := m.1.foldl (fun h e => heldAfter h e.ops) none, bad := m.2, ie := d.ff bCtl BCtl.IE,
    fail := s.mem.marchFail p t 0 none m.1,
    count := s.mem.failCount p m.1 t.1 + (match t.2 with | some r => s.mem.failCount p m.1 r | none => 0) }

/-- A GO write of BCTL, of value `v`, by partition `part` at privilege `pl` (R280): a march begins and destroys its target; a refused one
sets RES to 4 and changes nothing. -/
def State.bistGo (s : State) (v : Word) (part pl : Nat) : State :=
  if s.dev.ff bStat BStat.BUSY then { s with dev := s.dev.fp bStat BStat.RES 4 }
  else match (s.dev.wr bCtl v).bistTarget part pl with
  | (none, d1) => { s with dev := (d1.wr bCtl (s.dev.rd bCtl)).fp bStat BStat.RES 4 }
  | (some t, d1) =>
    let b := ({ s with dev := d1 } : State).bistPlan t
    let d2 : Dev := { ((d1.fp bStat BStat.BUSY 1).fp bStat BStat.RES 0).next with bist := some b }
    let s1 := ({ s with dev := d2 } : State).lose t.1.1 t.1.2
    match t.2 with
    | some r => s1.lose r.1 r.2
    | none => s1

/-- Record a failure in BFADR and BFINFO (R280) (DEDUCED, log 93). -/
def Dev.bistRecord (d : Dev) (f : BistFail) : Dev :=
  if d.ff bFinfo BFinfo.V then d
  else (d.wr bFadr (BitVec.ofNat 72 f.adr.val)).wr bFinfo
    (fields [(f.elem.val, 32), (f.op.val, 29), (f.bit.val, 22), (b2n f.isram, 21), (1, 20)])

/-- Of a failure of the march's own and one of the array's, the one of the earlier element. -/
def firstOf (own defect : Option BistFail) : Option BistFail :=
  match own, defect with
  | some f, some g => some (if g.elem < f.elem then g else f)
  | some f, none => some f
  | none, r => r

/-- The march ends; defects of the array make `n` further words fail, the first of them `fail` (R279, R280) (DESIGN CHOICE, log 91). -/
def State.bistEnd (s : State) (n : Nat) (fail : Option BistFail) : State :=
  match s.dev.bist with
  | none => s
  | some b =>
    let s1 := s.leave b.data b.pat b.last
    let s2 := match b.code with | some r => s1.leave r b.pat b.last | none => s1
    let first := firstOf b.fail fail
    let d : Dev := { s2.dev.fp bStat BStat.BUSY 0 with bist := none }
    let d0 := d.fp bStat BStat.RES (if b.bad then 5 else if first.isSome then 2 else 1)
    let d1 := match first with
      | none => d0
      | some f =>
        let e := (d0.fp bStat BStat.FCNT (satAdd 511 (d.fg bStat BStat.FCNT) (b.count + n))).bistRecord f
        match b.tgt with
        | 0 => e.pulseSrc 185 b.unit
        | 1 => e.pulseSrc 186 b.unit
        | _ => e.pulseSrc 186 (16 + (f.adr.val - dramBase) / 128 % 4)
    { s2 with dev := (d1.raiseIf b.ie 245).raiseIf (b.ie && first.isSome) 246 }

/-! ### The spare test (R281) -/

/-- The next furrow with a SPARE, from BROT.NEXT on. -/
def Dev.spareFurrow (d : Dev) : Option Nat :=
  ((List.range 16).map (fun k => (d.fg bRot BRot.NEXT + k) % 16)).find? (fun f =>
    d.furHere f && (posCells f 15).any (fun c => decide (d.role c = 2)))

/-- The engine visits a furrow (R281): every SPARE of it goes to TEST, and its local SRAMs are undefined from here on. -/
def State.spareVisit (s : State) : State :=
  let d := s.dev
  if !d.ff bRot BRot.EN || d.ff bStat BStat.BUSY || d.inFault then s
  else match d.spareFurrow with
  | none => s
  | some f =>
    let ts := (posCells f 15).filter (fun c => decide (d.role c = 2))
    let d1 := ts.foldl (fun d c => d.setRole c 5 0) d
    let d2 := ((d1.putFur f { d1.fur f with test := posMask ts }).fp bRot BRot.NEXT (f + 1)).fp bStat BStat.BUSY 1
    ts.foldl (fun s c => s.loseLocal c) { s with dev := d2 }

/-- The test of spare `c` ends. -/
def Dev.spareEnd (d : Dev) (c : Nat) (pass : Bool) : Dev :=
  let f := c / 4
  let x := d.fur f
  if x.test.testBit (c % 4) then
    let d1 := d.putFur f { x with test := setBit x.test (c % 4) false }
    let d2 := if pass then d1.spareCell c else (d1.retireCell c false).pulseSrc 187 c
    let d3 := (d2.count bRot BRot.NTEST).fp bStat BStat.RES (if pass then 1 else 2)
    if (d3.fur f).test = 0 then d3.fp bStat BStat.BUSY 0 else d3
  else d

/-! ### Scrubs (R283, R480) -/

/-- A scrub reads the word at `a`, of which the bits `f` have flipped: what it finds, 0 nothing, 1 a corrected error, 2 an uncorrectable one.
A corrected word is written back unless another requester has written it since the read. -/
def State.scrubWord (s : State) (a : Nat) (f : BitVec 80) (taken : Bool) : Nat × State :=
  let s1 := s.strike a f
  let r := s1.memWord a
  let e := (flippedWord r.1 (s1.flipsAt a)).2
  (e, if e = 1 ∧ !taken then r.2.2.strike a (s1.flipsAt a) else r.2.2)

/-- The MRAM scrub reads the word at `a` (R283); in the record store its reads and writes are counted (R299). -/
def State.mramScrub (s : State) (a : Nat) (f : BitVec 80) (taken : Bool) : State :=
  let rec' := decide (recBase ≤ a ∧ a < recBase + 0x400000)
  if !s.dev.ff bScrub BScrub.EN || !(rec' || decide (codeBase ≤ a ∧ a < codeBase + 0x800000)) then s
  else
    let r := ({ s with dev := if rec' then s.dev.rsCount 1 else s.dev } : State).scrubWord a f taken
    match r.1 with
    | 0 => r.2
    | 1 => if taken then r.2 else
      r.2.onDev (if rec' then (r.2.dev.count bScrub BScrub.CORR).rsCount 1 else r.2.dev.count bScrub BScrub.CORR)
    | _ => r.2.onDev (r.2.dev.count bScrub BScrub.UNC)

/-- A patrol reads the word at `a`, a data address or a word of a local instruction SRAM (R480). -/
def State.patrol (s : State) (a : Nat) (f : BitVec 80) (taken : Bool) : State :=
  let d := s.dev
  let isr := decide (isramOf 0 ≤ a ∧ a < isramOf 64) && d.cellHere ((a - isramOf 0) / 0x4000)
  let tgt := d.targetOf a
  let sram := isr || (match tgt with | some (.localData _) => true | some (.furrow _) => true | _ => false)
  let dram := decide (tgt = some .dram)
  if !((sram && d.ff msCrub MsCrub.SEN) || (dram && d.ff msCrub MsCrub.DEN)) then s
  else
    let r := ({ s with dev := if dram then d.countTarget .dram 1 else d } : State).scrubWord a f taken
    match r.1 with
    | 0 => r.2
    | 1 => if taken then r.2 else
      r.2.onDev (if dram then (r.2.dev.count msCnt MsCnt.CORR).countTarget .dram 1 else r.2.dev.count msCnt MsCnt.CORR)
    | _ => r.2.onDev (r.2.dev.count msCnt MsCnt.UNC)

end Sys2Proof.Machine
end

