-- ==== Sys2Proof/Machine/Spr.lean ====
section
/-! DEFINITION. The special registers: who may read and write them, what they read as, what a write leaves (R330-R342, R471,
R472). `c` is always a lead. -/

namespace Sys2Proof.Machine

/-- Reserved indices (R330, R471). -/
def sprReserved (n : Nat) : Bool :=
  decide ((11 ≤ n ∧ n ≤ 15) ∨ n = 19 ∨ n = 23 ∨ (27 ≤ n ∧ n ≤ 31) ∨ 62 ≤ n)

/-- Registers that are read-only at every level, whose writes are discarded (R331). -/
def sprReadOnly (n : Nat) : Bool := decide (n = 6 ∨ n = 7 ∨ n = 9)

/-- The lowest level that may read special register `n` (R330, R471). -/
def sprReadLevel (n : Nat) : Nat :=
  if n = 1 ∨ n = 2 ∨ n = 5 ∨ n = 48 ∨ n = 49 ∨ n = 50 ∨ (53 ≤ n ∧ n ≤ 56) ∨ n = 60 ∨ n = 61 then 1
  else if n = 3 ∨ n = 4 ∨ n = 51 ∨ n = 52 ∨ (57 ≤ n ∧ n ≤ 59) then 2
  else 0

/-- The lowest level that may write it; 3 where none may (R330, R471). -/
def sprWriteLevel (n : Nat) : Nat :=
  if n = 1 ∨ n = 2 ∨ n = 48 ∨ n = 49 ∨ (53 ≤ n ∧ n ≤ 56) ∨ n = 61 then 1
  else if n = 3 ∨ n = 4 ∨ n = 5 ∨ (50 ≤ n ∧ n ≤ 52) ∨ n = 57 then 2
  else if 58 ≤ n ∧ n ≤ 60 then 3
  else 0

/-- An MFS raises the privilege exception (R331). -/
def sprReadDenied (pl n : Nat) : Bool := decide (pl < sprReadLevel n)

/-- An MTS of `v` raises the privilege exception (R331, R332): at S, a value for ST whose PL is 2 too (DEDUCED, log 149). -/
def sprWriteDenied (pl n : Nat) (v : Word) : Bool :=
  decide (pl < sprWriteLevel n) || decide (n = 0 ∧ pl = 1 ∧ stPL.get v = 2)

/-! ### Fields -/
def hlV : Span := ⟨71, 71⟩
def hlADDR : Span := ⟨59, 36⟩
def hlDATA : Span := ⟨35, 0⟩
def estatMask : Word := 0xFFF0000000 * 0x100000000 ||| 0xFFFFFFFFF
def trfrMask : Word := 0xFFFF00000

/-- TXSTAT (R338). -/
def Dev.txstat (d : Dev) (c : Nat) : Word :=
  let x := d.cell c
  let cur := match x.txCur with
    | some n => [(1, 35), (n, 30), (d.txState n, 27), (d.fg (txStat n) TxStat.RES, 25)]
    | none => []
  fields (cur ++ [(x.txAbc, 20), (x.txAbn, 15), (x.txErr, 12)])

/-- TRTAG and TRDAT of a TLB entry (R472). -/
def TlbE.tag (e : TlbE) : Word := fields [(b2n e.v, 35), (e.part, 29), (b2n e.ins, 28), (b2n e.s2, 27), (e.pn, 0)]
def TlbE.dat (e : TlbE) : Word := fields [(e.oa, 12), (b2n e.r, 11), (b2n e.w, 10), (b2n e.x, 9), (b2n e.u, 8)]

/-- TLB entry `k`. -/
def Cell.tlbAt (x : Cell) (k : Nat) : TlbE := Tab.get {} x.tlb k

/-- Special register `n` as MFS reads it. -/
def Dev.sprRead (d : Dev) (c n : Nat) : Word :=
  let x := d.cell c
  let w36 := fun (a : Nat) => BitVec.ofNat 72 (a % 2 ^ 36)
  match n with
  | 0 => x.st
  | 1 => w36 x.epc
  | 2 => x.estat
  | 3 => w36 x.mepc
  | 4 => x.mestat
  | 5 => BitVec.ofNat 72 (x.evb * 1024)
  | 6 => BitVec.ofNat 72 ((d.mates c).length * 64 + c)
  | 7 => BitVec.ofNat 72 (x.pgrp * 64 + x.part)
  | 8 => fields [(b2n x.hilat.v, 71), (x.hilat.addr, 36), (x.hilat.data.toNat, 0)]
  | 9 => d.txstat c
  | 10 => BitVec.ofNat 72 (x.rdepth * 16 + x.rtop)
  | 48 => BitVec.ofNat 72 (x.trs1d * 256)
  | 49 => BitVec.ofNat 72 (x.trs1i * 256)
  | 50 => fields [(b2n x.trs2c, 35)]
  | 51 => BitVec.ofNat 72 (x.trs2d * 256)
  | 52 => BitVec.ofNat 72 (x.trs2i * 256)
  | 53 => x.trfr
  | 54 => w36 x.trfva
  | 55 => w36 x.trfia
  | 56 => w36 x.trfta
  | 57 => BitVec.ofNat 72 x.tridx
  | 58 => (x.tlbAt x.tridx).tag
  | 59 => (x.tlbAt x.tridx).dat
  | 60 => BitVec.ofNat 72 x.trnxt
  | 61 => x.trcnt
  | n =>
    if 16 ≤ n ∧ n ≤ 18 then w36 (x.loop (n - 16)).start
    else if 20 ≤ n ∧ n ≤ 22 then w36 (x.loop (n - 20)).fin
    else if 24 ≤ n ∧ n ≤ 26 then w36 (x.loop (n - 24)).count
    else if 32 ≤ n ∧ n ≤ 47 then w36 (Tab.get 0 x.rse (n - 32))
    else 0

/-- What a write of `v` to special register `n` other than ST leaves. -/
def Cell.sprPut (x : Cell) (n : Nat) (v : Word) : Cell :=
  let a := v.toNat % 2 ^ 36
  match n with
  | 1 => { x with epc := a }
  | 2 => { x with estat := v &&& estatMask }
  | 3 => { x with mepc := a }
  | 4 => { x with mestat := v &&& estatMask }
  | 5 => { x with evb := a / 1024 }
  | 8 => { x with hilat := ⟨decide (hlV.get v ≠ 0), hlADDR.get v, loHalf v⟩ }
  | 10 => { x with rdepth := min 16 (v.toNat / 16 % 32), rtop := v.toNat % 16 }
  | 48 => { x with trs1d := a / 256 }
  | 49 => { x with trs1i := a / 256 }
  | 50 => { x with trs2c := v.getLsbD 35 }
  | 51 => { x with trs2d := a / 256 }
  | 52 => { x with trs2i := a / 256 }
  | 53 => { x with trfr := v &&& trfrMask }
  | 54 => { x with trfva := a }
  | 55 => { x with trfia := a }
  | 56 => { x with trfta := a }
  | 57 => { x with tridx := v.toNat % 64 }
  | 61 => { x with trcnt := v }
  | n =>
    if 16 ≤ n ∧ n ≤ 18 then x.putLoop (n - 16) { x.loop (n - 16) with start := a }
    else if 20 ≤ n ∧ n ≤ 22 then x.putLoop (n - 20) { x.loop (n - 20) with fin := a }
    else if 24 ≤ n ∧ n ≤ 26 then x.putLoop (n - 24) { x.loop (n - 24) with count := a }
    else if 32 ≤ n ∧ n ≤ 47 then { x with rse := Tab.set 0 x.rse (n - 32) a }
    else x

/-- What a write of ST replaces, and by what (R332): at U its flags alone, elsewhere all of it, but PL where the value names level 3. -/
def Cell.stNew (x : Cell) (v : Word) : Word × Word :=
  (if x.pl = 0 then 0xF else if stPL.get v = 3 then stPL.put stMask 0 else stMask, v)

/-- MTS by the bundle that issues (R333, R402): ST is in force from the third bundle after it. -/
def Cell.mts (x : Cell) (n : Nat) (v : Word) : Cell :=
  if n = 0 then { x with shadow := x.shadow ++ [(x.bun + 3, x.stNew v)] } else x.sprPut n v

/-- A special register written at once, ST included (R582). -/
def Cell.sprSet (x : Cell) (n : Nat) (v : Word) : Cell :=
  if n = 0 then { x with st := stWritten x.st v, shadow := [] } else x.sprPut n v

end Sys2Proof.Machine
end

