-- ==== Sys2Proof/Machine/CellMem.lean ====
section
/-! DEFINITION. A cell's accesses: buffers, attributes, the store buffer, translation and its walks, fetch (R343-R353,
R414-R430, R456-R469). `c` is always a lead. -/

namespace Sys2Proof.Machine

/-! ### Requests -/

/-- A word of the cell's data space as the sluices see it: the own local data SRAM is checked at its alias (R344, R496) (DEDUCED, log 138). -/
def busAddr (c a : Nat) : Nat := if a < 0x4000 then aliasOf c + a else a

/-- A data request of the cell at privilege `pl`. -/
def Dev.dataReq (d : Dev) (c pl : Nat) (k : Kind) (a : Nat) (part : Bool) : Req :=
  let x := d.cell c
  { cls := clsCELL, pl := pl, pg := x.pgrp, part := x.part, req := c, kind := k, addr := busAddr c a, part' := part }

/-- An answer's attributes, as the attribute cache keeps them (R424). -/
def Attr.entry (a : Attr) : AttrE := ⟨a.base, a.k, a.c, a.wa, a.ord⟩

/-- The entry of the attribute cache for a physical address. -/
def Cell.attrAt (x : Cell) (a : Nat) : Option AttrE :=
  (x.attrs.find? (fun e => decide (e.2.base ≤ a ∧ a < e.2.base + 2 ^ e.2.k))).map Prod.snd

/-- A response refreshes or creates the entry of its region (R424). -/
def Cell.learn (x : Cell) (a : Option AttrE) : Cell :=
  match a with
  | none => x
  | some e =>
    match x.attrs.find? (fun q => decide (q.2.base = e.base)) with
    | some q => { x with attrs := Tab.ins x.attrs q.1 e }
    | none => { x with attrs := Tab.ins x.attrs x.attrNxt e, attrNxt := (x.attrNxt + 1) % 16 }

/-- DCINVA and every TLBI clear the attribute cache (R424). -/
def Cell.forget (x : Cell) : Cell := { x with attrs := [], attrNxt := 0 }

/-- The nominal latency of a load by its region (R414); of an address that no target claims, the longest (DEDUCED, log 139). -/
def Dev.loadLatency (d : Dev) (c a : Nat) : Nat :=
  let two := if 1 < (d.mates c).length then 2 else 0
  if a < 0x4000 then 3
  else match d.targetOf a with
  | some (.furrow f) => (if f = c / 4 then 9 else 16) + two
  | some (.localData _) => 16 + two
  | some .code => 40 + two
  | some .record => 40 + two
  | _ => 110 + two

/-- The latency of an IN (R414). -/
def Dev.inLatency (d : Dev) (c : Nat) : Nat := if 1 < (d.mates c).length then 26 else 24

/-! ### Data cache (R349, R417) -/

def lineOf (a : Nat) : Nat := a / 8 * 8
def setOf (a : Nat) : Nat := a / 8 % 128

/-- The way that holds the line of an address. -/
def Cell.wayOf (x : Cell) (a : Nat) : Option Nat :=
  ([0, 1, 2, 3] : List Nat).find? (fun w => match (x.dc.find? (fun e => decide (e.1 = 4 * setOf a + w))) with
    | some e => decide (e.2.addr = lineOf a)
    | none => false)

def Cell.dcLine (x : Cell) (k : Nat) : Line := ((x.dc.find? (fun e => decide (e.1 = k))).map Prod.snd).getD ⟨0, [], 0⟩

/-- The word of a line at `a`, and whether it is poisoned (R478). -/
def Line.at' (l : Line) (a : Nat) : Word × Bool := (l.words.getD (a % 8) 0, l.poison.testBit (a % 8))

/-- The word at `a` where the data cache holds it, and whether it is poisoned. -/
def Cell.hit (x : Cell) (a : Nat) : Option (Word × Bool) :=
  (x.wayOf a).map (fun w => (x.dcLine (4 * setOf a + w)).at' a)

/-- Fill the line of `a`, in the way that its set's round robin names; `p` tells its poisoned words. -/
def Cell.fillLine (x : Cell) (a : Nat) (ws : List Word) (p : Nat) : Cell :=
  match x.wayOf a with
  | some w => { x with dc := Tab.ins x.dc (4 * setOf a + w) ⟨lineOf a, ws, p⟩ }
  | none =>
    let w := Tab.get 0 x.dcNxt (setOf a)
    { x with dc := Tab.ins x.dc (4 * setOf a + w) ⟨lineOf a, ws, p⟩, dcNxt := Tab.set 0 x.dcNxt (setOf a) ((w + 1) % 4) }

/-- A store puts its part into a held line (R349); a whole word is poisoned no longer (DEDUCED, log 140). -/
def Cell.updateLine (x : Cell) (a : Nat) (w : Wid) (v : Word) : Cell :=
  match x.wayOf a with
  | some k =>
    let l := x.dcLine (4 * setOf a + k)
    let p := if w = .word then setBit l.poison (a % 8) false else l.poison
    { x with dc := Tab.ins x.dc (4 * setOf a + k) ⟨l.addr, l.words.set (a % 8) (w.insert (l.at' a).1 v), p⟩ }
  | none => x

/-- DCINV drops the line that holds `a` (R391). -/
def Cell.dropLine (x : Cell) (a : Nat) : Cell :=
  match x.wayOf a with
  | some k => { x with dc := Tab.erase x.dc (4 * setOf a + k) }
  | none => x

/-- The data cache is enabled (R353). -/
def Dev.dcOn (d : Dev) (c : Nat) : Bool := d.ff (clCfg c) ClCfg.DCEN

/-! ### Store buffer (R422) -/

/-- The entries that overlap a part of the word at `a`, oldest first. -/
def Cell.overlaps (x : Cell) (a : Nat) (w : Wid) : List StoreE :=
  x.stores.filter (fun e => decide (e.addr = a) && e.wid.overlaps w)

/-- What the store buffer says of a load: nothing overlaps, a value is forwarded, or the load waits. -/
inductive Fwd where
  | free
  | value (w : Word)
  | wait
deriving DecidableEq, Repr

def Cell.forward (x : Cell) (a : Nat) (w : Wid) : Fwd :=
  match (x.overlaps a w).getLast? with
  | none => .free
  | some e => if e.wid = w then .value (w.insert 0 e.val) else .wait

/-- An access under strong ordering is not yet performed (R425). -/
def Cell.strongOut (x : Cell) : Bool := x.loads.any (fun l => decide (l.ord = 2)) || x.stores.any (fun e => decide (e.ord = 2))

/-- No data access and no IN is outstanding. -/
def Cell.noneOut (x : Cell) : Bool := decide (x.loads = [] ∧ x.stores = [])

/-- ORD under which an access to `a` issues, and whether it is cacheable (R344, R424, R426): 3 stands for the own local data SRAM, which
is in program order and needs no attributes. -/
def Dev.orderOf (d : Dev) (c a : Nat) : Nat × Bool :=
  if a < 0x4000 then (3, false)
  else match (d.cell c).attrAt a with
  | none => (2, false)
  | some e => (e.ord, e.c && decide (e.ord ≠ 2) && d.dcOn c)

/-- An access under `ord` may be sent after every outstanding one (R425). -/
def Cell.mayIssue (x : Cell) (ord : Nat) : Bool := if ord = 2 then x.noneOut else !x.strongOut

/-- Two accesses of a cell are performed in program order: to one word, or both ordered and at one target (R425). -/
def Dev.inOrder (d : Dev) (a b ordA ordB : Nat) : Bool :=
  decide (a = b) || (decide (ordA = 1 ∧ ordB = 1) && decide (d.targetOf a = d.targetOf b))

/-- An access leaves the furrow over the ditch: not one to the cell's own local data SRAM or its furrow's SRAM (R21) (DEDUCED, log 183). -/
def Dev.onDitch (d : Dev) (c a : Nat) : Bool := decide (0x4000 ≤ a ∧ d.targetOf a ≠ some (.furrow (c / 4)))

/-- The ditch port by which the word at `a` reaches the cell. -/
def Dev.cellPort (d : Dev) (c a : Nat) : Option Nat := if d.onDitch c a then some (c / 4) else none

/-- The requests of a cell that are on their way, with their numbers in flight; `reads` leaves out the stores, which their targets have performed. -/
def Cell.reads (x : Cell) : List (Nat × Nat) :=
  x.loads.filterMap (fun l => l.fly.map (fun i => (i, l.addr))) ++ x.walk.toList.filterMap (fun w => w.fly.map (fun i => (i, w.rd))) ++
    x.line.toList.map (fun q => (q.fly, q.addr))
def Cell.onWay (x : Cell) : List (Nat × Nat) := x.reads ++ x.stores.filterMap (fun e => e.fly.map (fun i => (i, e.addr)))

/-- Two accesses of the cell reach one port of the ditch. -/
def Dev.samePort (d : Dev) (c a b : Nat) : Bool := d.onDitch c a && d.onDitch c b && decide (d.portOf a = d.portOf b)

/-- None of the requests `l` to the port of `a` was issued before number `id`: requests of one pair are delivered, and answered, in their order
(R33). -/
def Dev.inTurn (d : Dev) (c a id : Nat) (l : List (Nat × Nat)) : Bool := !l.any (fun q => decide (q.1 < id) && d.samePort c q.2 a)

/-- No request of `l` is on its way to the port of `a`. -/
def Dev.clearTo (d : Dev) (c a : Nat) (l : List (Nat × Nat)) : Bool := !l.any (fun q => d.samePort c q.2 a)

/-- An earlier access that the load must follow has not been sent, or overlaps it in the store buffer: the load is not sent yet (R422, R425). -/
def Dev.loadWaits (d : Dev) (c : Nat) (l : LoadE) : Bool :=
  let x := d.cell c
  x.stores.any (fun e => decide (e.seq < l.seq) && ((decide (e.addr = l.addr) && e.wid.overlaps l.wid) || (!e.sent && d.inOrder e.addr l.addr e.ord l.ord))) ||
  x.loads.any (fun q => decide (q.seq < l.seq) && !q.io && !q.sent && decide (q.known = none) && d.inOrder q.addr l.addr q.ord l.ord)

/-- The load may take its value now: no earlier access that it must follow is outstanding. -/
def Dev.loadTurn (d : Dev) (c : Nat) (l : LoadE) : Bool :=
  let x := d.cell c
  !(x.loads.any (fun q => decide (q.seq < l.seq) && !q.io && decide (q.known = none) && d.inOrder q.addr l.addr q.ord l.ord)) &&
  !(x.stores.any (fun q => decide (q.seq < l.seq) && !q.sent && d.inOrder q.addr l.addr q.ord l.ord)) &&
  (match l.fly with | some i => d.inTurn c l.addr i x.onWay | none => true)

/-- The store may be sent now. -/
def Dev.storeTurn (d : Dev) (c : Nat) (e : StoreE) : Bool :=
  !((d.cell c).loads.any (fun q => decide (q.seq < e.seq) && !q.io && decide (q.known = none) && d.inOrder q.addr e.addr q.ord e.ord)) &&
  d.clearTo c e.addr (d.cell c).reads

/-- The furrow's clock stands still while its PLL relocks: responses wait at the furrow switch (R240). -/
def Dev.clockStopped (d : Dev) (c : Nat) : Bool := d.ff (fuClk (c / 4)) FuClk.RELOCK

/-- A DRAM access after DRAMOFF completes with a data error (R312). -/
def Dev.dramGone (d : Dev) (a : Nat) : Bool := decide (d.rider.dram ≠ 0 ∧ d.targetOf a = some .dram)

/-- The part `v` of a word arrives at the memory that is to hold it, while the bits `f` of it flip on the way: the part to be stored, none
where it cannot be corrected (R38). -/
def Dev.sinkWord (d : Dev) (a : Nat) (w : Wid) (v : Word) (f : BitVec 80) : Option Word × Dev :=
  if f = 0 then (some v, d)
  else
    let e := flippedWord (w.insert 0 v) f
    (if e.2 = 2 then none else some (w.extract false e.1), d.found e.2 169 (d.portOf a))

/-- Store a part of the word at `a` as its memory does (R38, R39): false where the part cannot be corrected, or where the word that it is to be
merged into is uncorrectable; nothing is stored then. -/
def State.storePart (s : State) (a : Nat) (w : Wid) (v : Word) (f : BitVec 80) : Bool × State :=
  match s.dev.sinkWord a w v f with
  | (none, d) => (false, s.onDev d)
  | (some v, d) =>
    if w = .word then (true, (s.onDev d).wrWord a v)
    else
      let r := (s.onDev d).memWord a
      if r.2.1 then (false, r.2.2) else (true, r.2.2.wrWord a (w.insert r.1 v))

/-- `n` words as the cell takes them from their target, or as its own local data SRAM gives them: with those that are poisoned (R38, R478). -/
def State.cellWords (s : State) (c a n : Nat) (fl : Flips) : List Word × Nat × State := s.takeWords (busAddr c a) n (s.dev.cellPort c a) fl

/-- An access to a target's port; an address that no target claims has none. -/
def Dev.touch (d : Dev) (a n : Nat) : Dev := match d.targetOf a with | some t => d.portAccess t a n | none => d

/-! ### Translation (R456-R463, R466) -/

/-- Stage 1 applies; stage 2 applies (R456). -/
def Cell.s1On (x : Cell) : Bool := x.te
def Cell.s2On (x : Cell) : Bool := x.trs2c && (decide (x.pl ≠ 2) || x.te)

/-- Bits of the offset within a page (R457). -/
def pageBits (ins : Bool) : Nat := if ins then 13 else 12

/-- Index of an address at a level (R457). -/
def tblIndex (ins : Bool) (lvl a : Nat) : Nat :=
  if ins then (if lvl = 0 then a / 2 ^ 29 % 128 else if lvl = 1 then a / 2 ^ 21 % 256 else a / 2 ^ 13 % 256)
  else (if lvl = 0 then a / 2 ^ 28 % 256 else if lvl = 1 then a / 2 ^ 20 % 256 else a / 2 ^ 12 % 256)

/-- The TLB entry that translates `a` (R466). -/
def Cell.tlbFind (x : Cell) (s2 ins : Bool) (a : Nat) : Option TlbE :=
  (x.tlb.find? (fun e => e.2.v && decide (e.2.part = x.part ∧ e.2.ins = ins ∧ e.2.s2 = s2 ∧ e.2.pn = a / 2 ^ pageBits ins))).map Prod.snd

/-- The output address of an entry (R457). -/
def TlbE.out (e : TlbE) (ins : Bool) (a : Nat) : Nat := e.oa * 4096 + a % 2 ^ pageBits ins

/-- The rights needed (R463): access 0 read, 1 write, 2 fetch, 3 DCINV. -/
def TlbE.grants (e : TlbE) (acc pl : Nat) : Bool :=
  match acc with
  | 0 => e.r && (e.s2 || decide (pl ≠ 0) || e.u)
  | 1 => e.w && (e.s2 || decide (pl ≠ 0) || e.u)
  | 2 => e.x && (e.s2 || decide (e.u = decide (pl = 0)))
  | _ => true

/-- What a translation fault loads into TRFR, TRFIA and TRFTA (R469): kinds 0 INVALID, 1 PERM, 2 SIZE, 3 WALKDEV, 4 WALKERR;
`s1lvl` for a stage-2 fault on the table address of that stage-1 level. -/
structure TrFault where
  stage : Nat
  lvl   : Nat
  kind  : Nat
  ia    : Nat := 0
  ta    : Nat := 0
  s1lvl : Option Nat := none
deriving DecidableEq, Repr

/-- The answer of a translation. -/
inductive Xl where
  | pa (a : Nat)
  | fault (f : TrFault)
  | walk (w : Walk)
deriving DecidableEq, Repr

/-- The root of a stage for a space. -/
def Cell.root1 (x : Cell) (ins : Bool) : Nat := (if ins then x.trs1i else x.trs1d) * 256
def Cell.root2 (x : Cell) (ins : Bool) : Nat := (if ins then x.trs2i else x.trs2d) * 256

/-- Translate `va` of the data or the instruction space for an access. -/
def Cell.translate (x : Cell) (ins : Bool) (acc va : Nat) : Xl :=
  if va < (if ins then 0x8000 else 0x4000) then .pa va
  else
    let second := fun (a : Nat) =>
      if x.s2On then
        match x.tlbFind true ins a with
        | none => Xl.walk { acc := acc, va := va, s2 := some (0, x.root2 ins, a, false) }
        | some e => if e.grants acc x.pl then .pa (e.out ins a) else .fault { stage := 2, lvl := 3, kind := 1, ia := a }
      else .pa a
    if x.s1On then
      match x.tlbFind false ins va with
      | none => .walk { acc := acc, va := va, s1 := some (0, x.root1 ins) }
      | some e => if e.grants acc x.pl then second (e.out ins va) else .fault { stage := 1, lvl := 3, kind := 1 }
    else second va

/-- The space of the walk's access. -/
def Walk.ins (w : Walk) : Bool := decide (w.acc = 2)

/-- A translation fault is recorded and entered (R463, R469): a fault of the bundle, or of the block op's step (R395). -/
def Dev.trFault (d : Dev) (c : Nat) (acc va : Nat) (f : TrFault) : Dev :=
  let x := d.cell c
  let w := fields [(1, 35), (f.stage, 33), (f.lvl, 31), (f.kind, 28), (b2n (decide (acc = 2)), 27), (acc, 25), (x.pl, 23),
    (b2n f.s1lvl.isSome, 22), (f.s1lvl.getD 0, 20)]
  let y : Cell := { x with walk := none, trfr := w, trfva := va, trfia := f.ia, trfta := f.ta }
  match x.blk with
  | some b => d.putCell c (y.enter { lvl := y.entryLevel, cause := cTDATA, epc := b.at', resume := true })
  | none => (d.putCell c y).faultAt c (if acc = 2 then cTFETCH else cTDATA) va false

/-- Count a walk, or a walk read (R472). -/
def Cell.countWalk (x : Cell) : Cell := { x with trcnt := (⟨71, 36⟩ : Span).put x.trcnt (x.trcnt.toNat / 2 ^ 36 + 1) }
/-- (DEDUCED, log 141). -/
def Cell.countRead (x : Cell) : Cell := { x with trcnt := (⟨35, 0⟩ : Span).put x.trcnt (x.trcnt.toNat + 1) }

/-- The stage and level of the table that a walk reads next, and its fault there. -/
def Walk.fault (w : Walk) (kind : Nat) : TrFault :=
  match w.s2 with
  | some (lvl, _, ia, nested) =>
    { stage := 2, lvl := lvl, kind := kind, ia := ia, ta := w.rd, s1lvl := if nested then w.s1.map Prod.fst else none }
  | none => { stage := 1, lvl := (w.s1.map Prod.fst).getD 0, kind := kind, ta := w.rd }

/-- Ask for the word at `w.rd` (R461, R462). A read that the store buffer forwards, or that waits for it, is not sent. -/
def Dev.walkSend (d : Dev) (c : Nat) (w : Walk) : Dev :=
  let x := d.cell c
  if w.rd < 0x4000 then d.trFault c w.acc w.va (w.fault 3)
  else if x.forward w.rd .word ≠ .free then d.putCell c { x with walk := some w }
  else
    let pl := if w.s2.isSome ∨ x.pl = 2 then 2 else 1
    match d.ask (d.dataReq c pl .walk w.rd false) with
    | (.decline, d1) => d1.trFault c w.acc w.va (w.fault 3)
    | (.refuse _ _, d1) => d1.trFault c w.acc w.va (w.fault 1)
    | (.permit a, d1) =>
      let q := (d1.touch w.rd 1).fly (d1.sluiceOf w.rd)
      q.2.putCell c { (q.2.cell c).countRead with walk := some { w with fly := some q.1, attr := some a.entry } }

/-- Go on with a walk: a stage-1 table address is translated by stage 2 where that applies (R460). -/
def Dev.walkOn (d : Dev) (c : Nat) (w : Walk) : Dev :=
  let x := d.cell c
  match w.s2 with
  | some (lvl, t, a, nested) => d.walkSend c { w with rd := t + tblIndex (w.ins && !nested) lvl a }
  | none =>
    match w.s1 with
    | none => d
    | some (lvl, t) =>
      let ea := t + tblIndex w.ins lvl w.va
      if x.s2On then
        match x.tlbFind true false ea with
        | some e =>
          if e.r then d.walkSend c { w with rd := e.out false ea }
          else d.trFault c w.acc w.va { stage := 2, lvl := 3, kind := 1, ia := ea, s1lvl := some lvl }
        | none =>
          let y := x.countWalk
          let w2 : Walk := { w with s2 := some (0, x.root2 false, ea, true) }
          (d.putCell c y).walkSend c { w2 with rd := x.root2 false + tblIndex false 0 ea }
      else d.walkSend c { w with rd := ea }

/-- A walk starts. -/
def Dev.walkStart (d : Dev) (c : Nat) (w : Walk) : Dev := (d.putCell c (d.cell c).countWalk).walkOn c w

/-- The TLB takes a page entry (R467). -/
def Cell.tlbFill (x : Cell) (s2 ins : Bool) (a : Nat) (e : Word) : Cell :=
  let t : TlbE := { v := true, part := x.part, ins := ins, s2 := s2, pn := a / 2 ^ pageBits ins, oa := e.toNat / 4096 % 2 ^ 24,
                    r := e.getLsbD 69, w := e.getLsbD 68, x := e.getLsbD 67, u := e.getLsbD 66 }
  { x with tlb := Tab.set {} x.tlb x.trnxt t, trnxt := (x.trnxt + 1) % 64 }

/-- A page entry fails a check of R460: an instruction page with bit 12, or an output in the own local ranges, where the output is
physical. -/
def badPage (ins phys : Bool) (e : Word) : Bool :=
  let a := e.toNat / 4096 % 2 ^ 24 * 4096
  (ins && decide (a / 4096 % 2 = 1)) || (phys && decide (a < (if ins then 0x8000 else 0x4000)))

/-- The table word `e` reaches the walk of cell `c`. -/
def Dev.walkTake (d : Dev) (c : Nat) (w : Walk) (e : Word) : Dev :=
  let x := d.cell c
  let typ := e.toNat / 2 ^ 70
  let next := e.toNat / 256 % 2 ^ 28 * 256
  let bad := fun k => d.trFault c w.acc w.va (w.fault k)
  let lvl := match w.s2 with | some (l, _, _, _) => l | none => (w.s1.map Prod.fst).getD 0
  if typ = 0 ∨ typ = 3 then bad 0
  else if typ ≠ (if lvl < 2 then 1 else 2) then bad 2
  else
    match w.s2 with
    | some (_, _, a, nested) =>
      if lvl < 2 then d.walkOn c { w with s2 := some (lvl + 1, next, a, nested), fly := none, attr := none }
      else
        let ins := w.ins && !nested
        if badPage ins true e then bad 2
        else
          let y := x.tlbFill true ins a e
          if nested then (d.putCell c y).walkOn c { w with s2 := none, fly := none, attr := none }
          else d.putCell c { y with walk := none }
    | none =>
      if lvl < 2 then d.walkOn c { w with s1 := some (lvl + 1, next), fly := none, attr := none }
      else if badPage w.ins (!x.s2On) e then bad 2
      else d.putCell c { x.tlbFill false w.ins w.va e with walk := none }

/-- A walk read comes back, or is sent once the store buffer lets it (R461, R462). -/
def State.walkReturn (s : State) (c : Nat) (fl : Flips) : State :=
  let d := s.dev
  let x := d.cell c
  match x.walk with
  | none => s
  | some w =>
    match w.fly with
    | some id =>
      if d.refreshing w.rd || !d.inTurn c w.rd id x.onWay then s else
      let r := s.cellWords c w.rd 1 fl
      let d1 := (r.2.2.dev.land id).putCell c (x.learn w.attr)
      if r.2.1 ≠ 0 ∨ d.dramGone w.rd then { r.2.2 with dev := d1.trFault c w.acc w.va (w.fault 4) }
      else { r.2.2 with dev := d1.walkTake c { w with fly := none } (r.1.headD 0) }
    | none =>
      match x.forward w.rd .word with
      | .value v => { s with dev := (d.putCell c x.countRead).walkTake c w v }
      | .wait => s
      | .free => { s with dev := d.walkSend c w }

/-! ### Fetch (R343, R347, R416, R418) -/

/-- Partition `p` is sealed (R31, R580). -/
def Dev.sealedPart (d : Dev) (p : Nat) : Bool := decide (p < 64) && (d.fg (dbSealp (p / 32)) DbSealp.SP).testBit (p % 32)

/-- The data word that holds op address `a` of partition `p` outside the own local instruction SRAM; none outside the ranges of R31, of which the DRAM
is one for a partition that is not sealed (DEDUCED, log 184). -/
def Dev.opWord (d : Dev) (p a : Nat) : Option Nat :=
  if 0x020000000 ≤ a ∧ a < 0x021000000 then some (codeBase + (a - 0x020000000) / 2)
  else if 0x100000000 ≤ a ∧ a < 0x100000000 + 2 * d.dramSize ∧ d.sealedPart p = false then some (dramBase + (a - 0x100000000) / 2)
  else none

/-- The line of the wide-line buffer that holds word `a`. -/
def Cell.wlLine (x : Cell) (a : Nat) : Option Line := (x.wl.find? (fun e => decide (e.2.addr = lineOf a))).map Prod.snd

/-- The wide-line buffer holds the line of word `a`. -/
def Cell.wlHolds (x : Cell) (a : Nat) : Bool := (x.wlLine a).isSome

/-- A line enters the wide-line buffer, round robin; `p` tells its poisoned words. -/
def Cell.wlFill (x : Cell) (a : Nat) (ws : List Word) (p : Nat) : Cell :=
  { x with wl := Tab.ins x.wl x.wlNxt ⟨lineOf a, ws, p⟩, wlNxt := (x.wlNxt + 1) % 4 }

/-- The answer of the fetch of one op word. -/
inductive Fch where
  | held
  /-- the machine waits for a walk or a line, or has taken a fault -/
  | busy (d : Dev)

/-- Fetch the op word at `a` for the bundle at the pc: its translation, its range, its line (R347, R463, R489). A poisoned word is a fetch fault of
the bundle (DEDUCED, log 70). -/
def Dev.fetchOp (d : Dev) (c a : Nat) : Fch :=
  let x := d.cell c
  match x.translate true 2 a with
  | .fault f => .busy (d.trFault c 2 a f)
  | .walk w => .busy (d.walkStart c w)
  | .pa p =>
    if p < 0x8000 then .held
    else
      match d.opWord x.part p with
      | none => .busy ((d.refused 99 { d.dataReq c x.pl .fetch 0 false with addr := p } vUNMAPPED 0).faultAt c cFETCH x.pc false)
      | some m =>
        match x.wlLine m with
        | some l => if (l.at' m).2 then .busy (d.faultAt c cFETCH a false) else .held
        | none =>
        if x.line.isSome then .busy d
        else
          match d.ask (d.dataReq c x.pl .fetch m false) with
          | (.permit t, d1) =>
            let q := (d1.touch (lineOf m) 8).fly (if m < recBase then 80 else 82)
            .busy (q.2.putCell c { q.2.cell c with line := some ⟨lineOf m, q.1, some t.entry⟩ })
          | (_, d1) => .busy (d1.faultAt c cFETCH a false)

/-- Fetch the op words of the bundle at the pc, in order; a bundle that runs past the end of the local instruction SRAM is refused
as a whole (R347). -/
def Dev.fetchAll (d : Dev) (c : Nat) : Nat → Nat → Fch
  | _, 0 => .held
  | a, n + 1 =>
    if (d.cell c).pc < 0x8000 ∧ 0x8000 ≤ a then .busy (d.faultAt c cFETCH (d.cell c).pc false)
    else match d.fetchOp c a with
    | .held => d.fetchAll c (opAdd a 1) n
    | r => r

/-- The loop buffer serves the bundle at the pc (R351, R420). -/
def Dev.fromLoop (d : Dev) (c : Nat) : Bool :=
  let x := d.cell c
  d.ff (clCfg c) ClCfg.LBEN && x.len && (match x.lbuf, x.inner with
    | some q, some k => q.full && q.fits && q.isOf k (x.loop k) && q.held.contains x.pc
    | _, _ => false)

/-- A line comes. -/
def State.lineReturn (s : State) (c : Nat) (fl : Flips) : State :=
  let d := s.dev
  let x := d.cell c
  match x.line with
  | none => s
  | some l =>
    let a := l.addr
    let y : Cell := { x.learn l.attr with line := none }
    if d.refreshing a || !d.inTurn c a l.fly x.onWay then s
    else if d.dramGone a then
      let d1 := (d.land l.fly).putCell c y
      if x.closed ∧ d.running c ∧ x.walk = none then { s with dev := d1.faultAt c cFETCH x.pc false } else { s with dev := d1 }
    else
      let r := s.cellWords c a 8 fl
      { r.2.2 with dev := (r.2.2.dev.land l.fly).putCell c (y.wlFill a r.1 r.2.1) }

/-- A code prefetch of the line after the one that the pc is in the second half of (R418, R465) (DESIGN CHOICE, log 143). -/
def State.prefetchLine (s : State) (c : Nat) (fl : Flips) : State :=
  let d := s.dev
  let x := d.cell c
  match (if d.running c && d.ff (clCfg c) ClCfg.PFEN then x.translate true 2 x.pc else .pa 0) with
  | .pa p =>
    match d.opWord x.part p with
    | none => s
    | some m =>
      if m % 8 < 4 then s
      else
        match x.translate true 2 (opAdd x.pc (16 - p % 16)) with
        | .pa p2 =>
          match d.opWord x.part p2 with
          | none => s
          | some n =>
            if x.wlHolds n || d.refreshing n || !d.clearTo c n x.onWay then s
            else match d.ask (d.dataReq c x.pl .prefetch n false) with
              | (.permit t, d0) =>
                let d1 := d0.putCell c ((d0.cell c).learn (some t.entry))
                if d1.dramGone n then { s with dev := d1.touch (lineOf n) 8 }
                else
                  let r := ({ s with dev := d1.touch (lineOf n) 8 } : State).cellWords c (lineOf n) 8 fl
                  { r.2.2 with dev := r.2.2.dev.putCell c ((r.2.2.dev.cell c).wlFill n r.1 r.2.1) }
              | _ => s
        | _ => s
  | _ => s

/-- CODE_PREFETCH: the I-port sends the request once the caliper has judged it (R213). -/
def State.prefetch (s : State) (c : Nat) (fl : Flips) (cal : Caliper) : State :=
  s.ifJudged c (if s.dev.running c then cal else .agree) (fun s c => s.prefetchLine c fl)

/-- A branch in wide-line code is recorded (R419) (PRESUMED, log 144). -/
def Cell.predict (x : Cell) (a : Nat) (tgt : Option Nat) : Cell :=
  if a < 0x8000 then x
  else
    let k := a / 2 % 64
    let old := (x.btb.find? (fun e => decide (e.1 = k ∧ e.2.tag = a))).map Prod.snd
    let n := (old.map BtbE.cnt).getD 1
    { x with btb := Tab.ins x.btb k ⟨a, tgt.getD ((old.map BtbE.tgt).getD 0), if tgt.isSome then min 3 (n + 1) else n - 1⟩ }

end Sys2Proof.Machine
end

