-- ==== Sys2Proof/Machine/Rider.lean ====
section
/-! DEFINITION. The ditch rider: the bank, WARN and the return, the shed plan and throttling (R296-R318). What its sensors
measure comes as operands; the accounts are in Energy. -/

namespace Sys2Proof.Machine

/-! ### Causes -/

/-- Set CAUSE bit `i` of DRSTAT (R319, R320). -/
def Dev.drCause (d : Dev) (i : Nat) : Dev := (d.latch drStat DrStat.CAUSE i).relevel (184 + i)

/-- READY and BANKREF take their values; BANK is set when either changes (R320). -/
def Dev.bankState (d : Dev) (ready refused : Bool) : Dev :=
  let was := (d.ff drStat DrStat.READY, d.ff drStat DrStat.BANKREF)
  let d1 := (d.fb drStat DrStat.READY ready).fb drStat DrStat.BANKREF refused
  if was = (ready, refused) then d1 else d1.drCause 4

/-! ### The bank (R300-R302, R321) -/

/-- E_MAX in mJ, VSET in 10 mV and ICH in mA of a DRBANK word, within their limits. -/
def bankEmax (w : Word) : Nat := min 4000 (max 50 (DrBank.EMAX.get w)) * 10
def bankIch (w : Word) : Nat := min 40 (max 5 (DrBank.ICH.get w)) * 10

/-- A measurement begins (R300): below 18.0 V the bank is charged, else bled. It uses the settings of DRBANK at this moment;
`wait` tells that of a start (DEDUCED, log 90). -/
def Dev.measure (d : Dev) (wait : Bool) : Dev :=
  let b := decide (18000 ≤ d.fg drMeas DrMeas.HOLD)
  ({ d with rider := { d.rider with meas := true, bleed := b, bank := d.rd drBank, ich := bankIch (d.rd drBank), late := false, wait := wait } } : Dev).fp drStat DrStat.CHG 1

/-- DRCTL.REMEAS (R300, R320): ignored while SHED is 1 (DEDUCED, log 89). -/
def Dev.remeas (d : Dev) : Dev := if d.ff drStat DrStat.SHED then d else d.measure false

/-- V_CHG in 10 mV for C_m in µF (R301): 2 E_MAX ÷ C_U in 10^-4 V^2 is E_MAX [mJ] × 2 × 10^9 ÷ (105 C_m [µF]) ÷ 10. A bank whose C_m is 0 has no bound
from E_MAX (DESIGN CHOICE, log 52). -/
def vCharge (w : Word) (cm : Nat) : Nat :=
  let v := min (DrBank.VSET.get w) 5700
  if cm = 0 then v else min v (isqrt (bankEmax w * 2000000000 / (105 * cm)) 32 0)

/-- The reason to refuse a bank, 0 none (R302): the measurement first, then C_m, VSET and V_CHG (DESIGN CHOICE, log 52). -/
def bankRefusal (w : Word) (cm : Nat) (late : Bool) : Nat :=
  if late then 3 else if cm < 100 then 1 else if DrBank.VSET.get w < 2000 then 5 else if vCharge w cm < 2000 then 2 else 0

/-- V_CHG and acceptance are decided (R301, R302, R321). -/
def Dev.bankDecide (d : Dev) (w : Word) : Dev :=
  let cm := d.fg drBstat DrBstat.CAP
  let r := bankRefusal w cm d.rider.late
  let v := vCharge w cm
  if r = 0 then
    let beyond := decide (v * 10 < d.fg drMeas DrMeas.HOLD)
    let d1 : Dev := { d with rider := { d.rider with bankOk := true } }
    let d2 := (((d1.fp drBstat DrBstat.VCHG v).fp drStat DrStat.BREF 0).fb drStat DrStat.CHG (!d1.rider.hold)).bankState (!beyond) false
    d2.accounts
  else
    let d1 : Dev := { d with rider := { d.rider with bankOk := false } }
    let d2 := (((d1.fp drBstat DrBstat.VCHG v).fp drStat DrStat.BREF r).fp drStat DrStat.CHG 0).bankState false true
    (d2.pulseSrc 176 0).accounts

/-- The measurement step ends after `t` µs (R300): C_m = I × t ÷ 2.0 V. At a start the decision waits (R321). -/
def Dev.measureEnd (d : Dev) (t : Nat) : Dev :=
  if d.rider.meas then
    let i := if d.rider.bleed then 200 else d.rider.ich
    let d1 : Dev := { d with rider := { d.rider with meas := false, late := decide (4000000 < t) } }
    let d2 := (d1.fp drBstat DrBstat.CAP (min (2 ^ 20 - 1) (i * t / 2000))).fp drStat DrStat.CHG 0
    if d2.rider.wait then d2 else d2.bankDecide d2.rider.bank
  else d

/-- The decision need wait no longer: it uses the settings `w` (R321). -/
def Dev.bankRelease (d : Dev) (w : Word) : Dev :=
  let d1 : Dev := { d with rider := { d.rider with wait := false, bank := w } }
  if d1.rider.meas then d1 else d1.bankDecide w

/-- The charger, or the bleed, reaches V_CHG (R301). -/
def Dev.chargeEnd (d : Dev) : Dev :=
  if d.rider.bankOk && d.ff drStat DrStat.CHG && !d.rider.meas then (d.fp drStat DrStat.CHG 0).bankState true false else d

/-- The charger keeps the bank within 0.20 V of V_CHG (R301): it begins again where the measured HOLD has fallen below that, but while the hold-up switch is
closed or nRESET is low (R602). -/
def Dev.recharge (d : Dev) : Dev :=
  if d.rider.bankOk && !d.rider.meas && !d.rider.hold && !d.boot.low && decide (d.fg drMeas DrMeas.HOLD + 200 < 10 * d.fg drBstat DrBstat.VCHG) then
    d.fp drStat DrStat.CHG 1
  else d

/-- A leak (R302): the bank stays in use. -/
def Dev.bankLeak (d : Dev) : Dev :=
  if d.rider.bankOk && !d.rider.hold then (d.fp drStat DrStat.BREF 4).pulseSrc 176 0 else d

/-! ### The shed plan (R311-R314, R326) -/

/-- The wait of step `k` begins with the values that the step holds now; after step 15 the plan ends (R311). -/
def Dev.planEnd (d : Dev) : Dev :=
  let d1 : Dev := { d with rider := { d.rider with step := none } }
  (((d1.fp drShed DrShed.RUN 0).fp drShed DrShed.END 1).drCause 7).txAbortWaiting

/-- (DESIGN CHOICE, log 87). -/
def Dev.planWait (d : Dev) (k : Nat) : Dev :=
  if 16 ≤ k then d.planEnd
  else ({ d with rider := { d.rider with step := some (k, d.fg (drSp k) DrSp.OP, d.fg (drSp k) DrSp.ARG),
                                           stepEj := d.fg (drSp k) DrSp.EJ } } : Dev).fp drShed DrShed.STEP k

/-- A step's action completes (R311): STEP is set, and the next step's wait begins (DEDUCED, log 22). -/
def Dev.stepDone (d : Dev) (k : Nat) : Dev := ((d.fp drShed DrShed.STEP k).drCause 2).planWait (k + 1)

/-- The wait of a step with operation `op` is over: `act` takes its number and ARG, none while it must wait on (DEDUCED, log 88). -/
def Dev.planStep (d : Dev) (op : Nat → Bool) (act : Dev → Nat → Option Dev) : Dev :=
  match d.rider.step with
  | some (k, o, arg) =>
    if op o then
      match act d arg with
      | some d1 => d1.stepDone k
      | none => d
    else d
  | none => d

/-- END, and the reserved operations (R311): the plan ends. -/
def Dev.planStop (d : Dev) : Dev :=
  match d.rider.step with
  | some (k, o, _) => if endsPlan o then ((d.fp drShed DrShed.STEP k).drCause 2).planEnd else d
  | none => d

/-- CHSAFE. -/
def Dev.shedChannels (d : Dev) (m : Nat) : Dev := (bitsOf m 16).foldl (fun d n => d.chSafe n false) d
/-- PORTOFFL, PORTOFFH and RAILOFF. -/
def Dev.shedPorts (d : Dev) (m base : Nat) : Dev := (bitsOf m 16).foldl (fun d p => d.portDIS (base + p)) d
def Dev.shedRail (d : Dev) : Dev :=
  let d1 := (List.range 32).foldl (fun d p => d.portDIS p) d
  { d1 with rider := { d1.rider with rail := true } }

/-- The furrows of a mask; none while one of them is in a hand-over or an arbitration (R236, R312). A spare test ends (R282).
(DESIGN CHOICE, log 86). -/
def Dev.shedFurrows (d : Dev) (m : Nat) (f : Dev → Nat → Dev) : Option Dev :=
  let fs := (bitsOf m 16).filter (fun f => d.furHere f)
  if fs.any (fun k => d.furBusy k) then none else some (fs.foldl (fun d k => f (d.abandonTest k) k) d)

/-- CLKDN. -/
def Dev.shedClock (d : Dev) (f : Nat) : Dev := ({ d with rider := { d.rider with clkdn := d.rider.clkdn ||| 2 ^ f } } : Dev).reclock f

/-- PARK: the cells are quiesced and their clocks gated, all state kept (DEDUCED, log 85). -/
def Dev.parkCells (d : Dev) (f : Nat) (b : Bool) : Dev :=
  (posCells f 15).foldl (fun d c => if d.lead c = c then d.putCell c { d.cell c with parked := b } else d) d

/-- FOFF on the registers' side: transactions abort with OWNER and the cells lose what they hold (R312). -/
def Dev.foffCells (d : Dev) (f : Nat) : Dev :=
  let d1 := (posCells f 15).foldl (fun d c =>
    let d1 := if d.lead c = c ∧ (d.role c = 0 ∨ d.role c = 1) then d.txAbortOwner c abcOWNER else d
    let x := d1.cell c
    (d1.putCell c { part := x.part, pgrp := x.pgrp, evb := x.evb }).dropHolds c) d
  { d1 with rider := { d1.rider with foff := d1.rider.foff ||| 2 ^ f } }

/-- FOFF: the furrow's SRAMs lose their contents. -/
def State.foff (s : State) (f : Nat) : State :=
  let s1 : State := { s with dev := s.dev.foffCells f }
  (posCells f 15).foldl (fun s c => s.loseLocal c) (s1.lose (fsramOf f) (fsramOf f + 0x3FFFF))

/-- DRAMOFF: a DRAM that is off stays off. -/
def Dev.shedDram (d : Dev) (arg : Nat) : Dev := { d with rider := { d.rider with dram := if arg % 2 = 1 then 2 else max 1 d.rider.dram } }

/-! ### WARN, the return and the accounts (R304, R313-R316) -/

/-- VIN below WARN (R304): the switch closes, shedding begins and step 0's wait starts. -/
def Dev.warn (d : Dev) : Dev :=
  if d.ff drStat DrStat.SHED then d
  else
    let g := d.boot.stage.map (fun (g : Stage) => { g with stop := true })
    let d1 : Dev := { d with rider := { d.rider with hold := true, warnAt := d.tick, warned := 0 }, boot := { d.boot with stage := g } }
    let d2 := ((d1.fp drStat DrStat.SHED 1).fp drStat DrStat.CHG 0).raiseSrc 177 0
    let d3 := (((d2.drCause 0).fp drShed DrShed.RUN 1).fp drShed DrShed.END 0).fp drShed DrShed.TW 0
    (d3.planWait 0).accounts

/-- The EJ of the steps that are left, in 48.24 µJ: the step in wait with the values that it took (R326), then those to the first END. -/
def Dev.stepsLeft (d : Dev) : Nat :=
  match d.rider.step with
  | some (k, o, _) => if endsPlan o then 0 else (d.rider.stepEj + d.planFrom (k + 1) (15 - k)) * 10000 * 2 ^ 24
  | none => 0

/-- The energy check during shedding (R313). -/
def Dev.overrun (d : Dev) : Dev :=
  if d.ff drStat DrStat.SHED && decide (d.usable < d.stepsLeft + tenthUJ d.reserved + d.sysEnergy) then
    ((d.fp drShed DrShed.OVRN 1).txAbortWaiting).accounts
  else d

/-- Milliseconds since WARN, over any reset (R324, R602) (DESIGN CHOICE, log 185). -/
def Dev.sinceWarn (d : Dev) : Nat := (d.tick - d.rider.warnAt + d.rider.warned) / 100000

/-- What the rider measures each millisecond (R298, R307): VIN and HOLD in mV, input power in 10 mW, current in mA. -/
def Dev.accountUpdate (d : Dev) (vin hold pin iin : Nat) : Dev :=
  let d1 := (d.wr drMeas (fields [(vin, 18), (hold, 0)])).wr drPwr (fields [(pin, 18), (iin, 0)])
  let d2 := if d1.ff drStat DrStat.SHED then
      d1.fp drShed DrShed.TW (min (2 ^ 17 - 1) d1.sinceWarn) else d1
  d2.recharge.accounts.overrun

/-! ### Image roles (R209, R542) -/

/-- The lowest position of a pattern that holds a SPARE and is not in `bad`. -/
def spareIn (l : List (Nat × Nat × Nat)) (bad : Nat) : Option Nat :=
  (List.range 4).find? (fun q => decide ((l.getD q (3, 0, 0)).1 = 2) && !bad.testBit q)

/-- Keep the positions of `bad` out of a pattern (R209): a spare takes a MEMBER's place, else the group comes up STOPPED. -/
def keepOut (bad : Nat) (l : List (Nat × Nat × Nat)) : Nat → List (Nat × Nat × Nat) × Bool
  | 0 => (l, false)
  | n + 1 =>
    let r := keepOut bad l n
    let e := r.1.getD n (3, 0, 0)
    if !bad.testBit n then r
    else if e.1 ≠ 1 then (r.1.set n (4, 0, 0), r.2)
    else match spareIn r.1 bad with
    | some q => ((r.1.set q (1, e.2.1, e.2.2)).set n (4, 0, 0), r.2)
    | none => ((r.1.map (fun x => if x.1 = 1 ∧ x.2.1 = e.2.1 then (3, 0, x.2.2) else x)).set n (4, 0, 0), true)

/-- Furrow `f` comes up in its image roles, with retired cells, and those that failed BIST at this start, kept out. A furrow
without a FURROW record comes up STOPPED. -/
def Dev.applyImage (d : Dev) (f : Nat) : Dev :=
  let bad := d.fg (fuRet f) FuRet.RET ||| (d.fur f).bad
  let l := if (d.fur f).img = [] then List.replicate 4 (3, 0, 0) else (d.fur f).img
  let r := keepOut bad l 4
  let d1 := (List.range 4).foldl (fun d p =>
    let e := r.1.getD p (3, 0, 0)
    let c := 4 * f + p
    (d.setRole c e.1 e.2.1).putCell c { d.cell c with part := e.2.2, pgrp := Tab.get 0 d.pgrp e.2.2, evb := Tab.get 0 d.evbs e.2.2 }) d
  if r.2 then d1.furCause f 3 else d1

/-- The cells of furrow `f` that run enter M at their restart vectors (R445). -/
def Dev.startCells (d : Dev) (f cause : Nat) : Dev :=
  (posCells f 15).foldl (fun d c =>
    if d.cellHere c ∧ (d.role c = 0 ∨ d.role c = 1) ∧ d.lead c = c then d.restart c cause 0 0 false else d) d

/-- The supply has returned (R314, R315): what the plan reached resumes. -/
def State.supplyReturn (s : State) : State :=
  let d := s.dev
  if !d.ff drStat DrStat.SHED then s
  else
    let r := d.rider
    let d1 : Dev := { d with rider := { r with step := none, hold := false, foff := 0, clkdn := 0, eth := 0, dram := 0 } }
    let d2 := ((d1.fp drStat DrStat.SHED 0).fp drShed DrShed.RUN 0).dropSrc 177 0
    let d3 := (d2.drCause 1).fb drStat DrStat.CHG (r.bankOk && !d.boot.low)
    let d4 := (List.range 16).foldl (fun d f => d.parkCells f false) d3
    let d5 := (bitsOf r.foff 16).foldl (fun d f => (d.applyImage f).startCells f cSUPRST) d4
    let d6 := (bitsOf r.clkdn 16).foldl (fun d f => d.reclock f) d5
    let d7 := if r.dram = 2 then d6.fp drStat DrStat.DLOST 1 else d6
    let s1 : State := { s with dev := d7.accounts }
    if r.dram = 2 then s1.lose dramBase (dramBase + d.dramSize - 1) else s1

/-! ### Thermal sensors and throttling (R317, R318) -/

/-- The place of sensor `i` in its register, and its signed reading. -/
def tempSpan (i : Nat) : Span := ⟨35 - 9 * (i % 4), 27 - 9 * (i % 4)⟩
def Dev.temp (d : Dev) (i : Nat) : Int := sxNat 9 ((tempSpan i).get (d.rd (drTemp (i / 4))))

/-- A sensor that affects furrow `f` satisfies `p`. -/
def Dev.anyTemp (d : Dev) (f : Nat) (p : Int → Bool) : Bool := ([f, 16, 17, 18, 19] : List Nat).any (fun i => p (d.temp i))

/-- Furrow `f` is throttled. -/
def Dev.throttled (d : Dev) (f : Nat) : Bool := (d.fg drThr DrThr.THF).testBit f

/-- A furrow is throttled while a sensor that affects it reads 105 °C or more; THERM, FS178 and FS179 follow. -/
def Dev.thermal (d : Dev) : Dev :=
  let d1 := (List.range 16).foldl (fun d f =>
    if !d.furHere f then d
    else
      let now := d.anyTemp f (fun t => decide (105 ≤ t))
      if now = d.throttled f then d
      else (d.fp drThr DrThr.THF (setBit (d.fg drThr DrThr.THF) f now)).drCause 5) d
  let d2 := if d1.fg drThr DrThr.THF ≠ 0 then d1.raiseSrc 178 0 else d1.faultDeassert 178 0
  if (List.range 20).any (fun i => decide (115 ≤ d2.temp i)) then d2.raiseSrc 179 0 else d2.faultDeassert 179 0

/-- Sensor `i` reads `t` °C (R317); an absent furrow has no sensor (R2). -/
def Dev.sensorRead (d : Dev) (i : Nat) (t : Int) : Dev :=
  if i < 16 ∧ ¬ d.furHere i then d else
  let d1 := d.fp (drTemp (i / 4)) (tempSpan i) (t.emod 512).toNat
  let m := (List.range 20).foldl (fun m k => max m (d1.temp k)) (d1.temp 0)
  (d1.fp drThr DrThr.TMAX (m.emod 512).toNat).thermal

/-- One step of throttling of furrow `f` (R318): a code down while it is throttled, a code up once every sensor that affects it reads below 100 °C. -/
def Dev.throttleStep (d : Dev) (f : Nat) : Dev :=
  let x := d.fur f
  let thr := if d.throttled f then min x.thr (d.fg (fuClk f) FuClk.FREQ) - 1
    else if d.anyTemp f (fun t => decide (100 ≤ t)) then x.thr else min 10 (x.thr + 1)
  (d.putFur f { x with thr := thr }).reclock f

/-- The crystal is lost (R25, R26). -/
def Dev.crystalLoss (d : Dev) : Dev := ({ d with rider := { d.rider with xtal := true } } : Dev).raiseSrc 152 0

end Sys2Proof.Machine
end

