-- ==== Sys2Proof/Machine/Security.lean ====
section
/-! DEFINITION. The security unit: certificate chains, sessions, the key store's zeroisation, tamper response, and the audit
log's exports (R556-R571, R576-R578). Random octets, and what the device's own private keys make, are constants of Config. -/

namespace Sys2Proof.Machine

/-- Set CAUSE bit `i` of SCSTAT (R585). -/
def Dev.scCause (d : Dev) (i : Nat) : Dev := (d.latch scStat ScStat.CAUSE i).relevel (212 + i)

/-- `n` fresh random octets (R560, R573) (DESIGN CHOICE, log 33). -/
def Dev.random (d : Dev) (n : Nat) : List Nat × Dev := ((List.range n).map (fun k => Config.randomOctet d.fresh k % 256), d.next)

/-- Octets of a list of words. -/
def wordOctets (l : List Word) : List Nat := l.flatMap laneOctets

/-- The 256-bit value that octets make. -/
def octets256of (l : List Nat) : BitVec 256 := BitVec.ofNat 256 (l.foldl (fun a o => a * 256 + o % 256) 0)

/-! ### Certificate chains (R557-R559) -/

/-- Codes of SSRES (R560). -/
def ssOK : Nat := 0
def ssFORMAT : Nat := 1
def ssROOT : Nat := 2
def ssCHAIN : Nat := 3
def ssEXPIRED : Nat := 4
def ssREVOKED : Nat := 5
def ssDEVICE : Nat := 6
def ssSIG : Nat := 7
def ssTIMEOUT : Nat := 8
def ssBUSY : Nat := 9
def ssACCESS : Nat := 10
def ssAUDIT : Nat := 11

/-- The rights that a role may hold (R556). -/
def roleRights (role : Nat) : Nat :=
  match role with
  | 0 => 0x0001
  | 1 => 0x11FB
  | 2 => 0x3FFF
  | _ => 0

/-- The fields of a certificate of 93 words (R557). -/
def certHolder (c : List Word) : Holder :=
  { role := (c.getD 0 0).toNat / 2 ^ 46 % 4, serial := (c.getD 1 0).toNat / 2 ^ 8, rights := (c.getD 5 0).toNat / 2 ^ 56,
    notAft := (c.getD 4 0).toNat / 2 ^ 30, modulus := (wordOctets ((c.drop 7).take 43)).take 384 }

/-- A serial is on the revocation list (R559). -/
def Dev.revoked (d : Dev) (serial : Nat) : Bool :=
  (List.range d.sec.nrev).any (fun k => decide (d.fg (scRev k) ScRev.SER = serial))

/-- A certificate's time bounds hold (R559). -/
def Dev.timely (d : Dev) (notBef notAft : Nat) : Bool :=
  let p := d.fg txCfg TxCfg.TPORT
  if d.ff (ptCtl p) PtCtl.LOCK then
    let t := d.fg (ptTime p) PtTime.SEC
    decide (notBef ≤ t ∧ t ≤ notAft)
  else decide (d.fg scTflr ScTflr.SEC ≤ notAft)

/-- What is wrong with one certificate under its issuer, 0 for nothing; `by'` is none for the root key (R558). The order of the
checks is the model's (DESIGN CHOICE, log 61). -/
def Dev.certFault (d : Dev) (c : List Word) (rootMod : List Nat) (by' : Option Holder) : Nat :=
  let h := certHolder c
  let w0 := (c.getD 0 0).toNat
  let issued := match by' with
    | none => decide (h.role = 2 ∧ (c.getD 2 0).toNat / 2 ^ 8 = 0)
    | some q => decide (h.role < q.role ∧ q.rights.testBit rightISSUE ∧ (c.getD 2 0).toNat / 2 ^ 8 = q.serial ∧
        h.rights &&& q.rights = h.rights)
  let key := match by' with | none => rootMod | some q => q.modulus
  if w0 / 2 ^ 56 ≠ 0x4352 ∨ w0 / 2 ^ 48 % 256 ≠ 1 then ssFORMAT
  else if !issued || decide (h.rights &&& roleRights h.role ≠ h.rights) then ssCHAIN
  else if !pssVerify key (wordOctets (c.take 50)) ((wordOctets ((c.drop 50).take 43)).take 384) then ssSIG
  else if (c.getD 6 0) ≠ 0 ∧ c.getD 6 0 ≠ d.rd idSer then ssDEVICE
  else if d.revoked h.serial then ssREVOKED
  else if !d.timely ((c.getD 3 0).toNat / 2 ^ 30) h.notAft then ssEXPIRED
  else 0

/-- Check the certificates of a chain in turn; `fuel` remain. -/
def Dev.certChain (d : Dev) (rootMod : List Nat) : List Word → Option Holder → Nat → Nat × Option Holder
  | _, h, 0 => (0, h)
  | ws, h, fuel + 1 =>
    let e := d.certFault (ws.take 93) rootMod h
    if e ≠ 0 then (e, none) else d.certChain rootMod (ws.drop 93) (some (certHolder (ws.take 93))) fuel

/-- Check a chain (R558): its code, and its holder where it is valid. -/
def Dev.chainCheck (d : Dev) (ws : List Word) : Nat × Option Holder :=
  let n := (ws.length - 43) / 93
  let rootMod := (wordOctets (ws.take 43)).take 384
  if ws.length ≠ 43 + 93 * n ∨ n = 0 ∨ 3 < n then (ssFORMAT, none)
  else if sha256 rootMod ≠ d.sec.root then (ssROOT, none)
  else d.certChain rootMod (ws.drop 43) none n

/-- The message that a holder signs (R560): challenge, IDSER and TARGET. -/
def Dev.proofMessage (d : Dev) (chal : List Nat) (target : Nat) : List Nat := chal ++ laneOctets (d.rd idSer) ++ [target % 256]

/-! ### Sessions (R560, R561) -/

/-- SSRES as a step leaves it. -/
def Dev.ssResult (d : Dev) (code slot : Nat) : Dev := d.wr ssRes (fields [(code, 31), (slot, 29)])

def Dev.ssState (d : Dev) (k : Nat) : Nat := d.fg (ssKstat k) SsKstat.STATE

/-- A buffer that the security unit reads for partition `part` at privilege `pl`, none where it is refused or arrives poisoned;
its engine number is the model's (DESIGN CHOICE, log 94). -/
def State.secRead (s : State) (pl part a n : Nat) : Option (List Word) × State :=
  match s.dmaRead {} pl part 2 a n with
  | (some (ws, false), s1) => (some ws, s1)
  | (_, s1) => (none, s1)

/-- SSCMD.OPEN by partition `part` at privilege `pl` (R560). -/
def State.ssOpen (s : State) (part pl k : Nat) : State :=
  let d := s.dev
  if d.sec.check ≠ none ∨ d.ssState k ≠ 0 ∨ (d.sessionOf part).isSome then { s with dev := d.ssResult ssBUSY k }
  else
    match s.secRead pl part (d.fg ssBuf SsBuf.ADR) (d.fg ssLen SsLen.LEN) with
    | (none, s1) => { s1 with dev := s1.dev.ssResult ssACCESS k }
    | (some ws, s1) =>
      let d1 := s1.dev.wr ssRes (fields [(1, 35), (k, 29)])
      { s1 with dev := { d1 with sec := { d1.sec with check := some (k, ws) } } }

/-- The life of a challenge issued now, in port ticks; 0 acts as 1 second (R561, R587). -/
def Dev.chalLife (d : Dev) : Nat := max 1 (d.fg ssCfg SsCfg.CHTO) * 100000000

/-- The chain check ends (R558, R560). -/
def Dev.chainEnd (d : Dev) : Dev :=
  match d.sec.check with
  | none => d
  | some (k, ws) =>
    let d0 : Dev := { d with sec := { d.sec with check := none } }
    match d0.chainCheck ws with
    | (0, some h) =>
      let r := d0.random 32
      let w := packOctets r.1 4
      let d1 := w.zipIdx.foldl (fun d p => d.wr (ssChal p.2) p.1) r.2
      let d2 : Dev := { d1 with sec := { d1.sec with
        chal := Tab.set [] d1.sec.chal k r.1, holder := Tab.set none d1.sec.holder k (some h),
        chalEnd := Tab.set 0 d1.sec.chalEnd k (d1.tick + d1.chalLife) } }
      (d2.fp (ssKstat k) SsKstat.STATE 1).ssResult ssOK k
    | (e, _) => d0.ssResult e k

/-- Session slot `k` is free again. -/
def Dev.ssFree (d : Dev) (k : Nat) : Dev :=
  let d1 := (d.wr (ssKstat k) 0).wr (ssKser k) 0
  { d1 with sec := { d1.sec with
    chal := Tab.set [] d1.sec.chal k [], holder := Tab.set none d1.sec.holder k none, acted := Tab.set 0 d1.sec.acted k 0 } }

/-- Authentication has failed: the entry of R567. -/
def Dev.authFailed (d : Dev) (subj : Nat) : Dev := d.audit { typ := 0x12, role := 3, subj := subj }

/-- A PROVE fails with code `e`: its slot is free again, and the failure is appended (R560). -/
def Dev.proveFails (d : Dev) (k e : Nat) : Dev := ((d.ssFree k).authFailed e).ssResult e k

/-- SSCMD.PROVE by partition `part` at privilege `pl` (R560): only of a challenged slot (DEDUCED, log 96, DEDUCED, log 97). -/
def State.ssProve (s : State) (part pl k : Nat) : State :=
  let d := s.dev
  match Tab.get none d.sec.holder k with
  | none => s
  | some h =>
    if d.ssState k ≠ 1 then s
    else if (d.sessionOf part).isSome then { s with dev := d.proveFails k ssBUSY }
    else
      match s.secRead pl part (d.fg ssBuf SsBuf.ADR) 43 with
      | (none, s1) => { s1 with dev := s1.dev.proveFails k ssACCESS }
      | (some ws, s1) =>
        let d1 := s1.dev
        if !pssVerify h.modulus (d1.proofMessage (Tab.get [] d1.sec.chal k) part) ((wordOctets ws).take 384) then
          { s1 with dev := d1.proveFails k ssSIG }
        else if d1.auFree = 0 then { s1 with dev := d1.proveFails k ssAUDIT }
        else
          let d2 := d1.audit { typ := 0x10, part := part, role := h.role, serial := h.serial, subj := k }
          let d3 := (d2.wr (ssKstat k) (fields [(2, 34), (h.role, 32), (part, 26), (h.rights % 2 ^ 14, 12)])).wr (ssKser k)
            (fields [(h.serial, 8)])
          let d4 : Dev := { d3 with sec := { d3.sec with chal := Tab.set [] d3.sec.chal k [], acted := Tab.set 0 d3.sec.acted k d3.tick } }
          { s1 with dev := (d4.ssResult ssOK k).scCause 1 }

/-- A staging whose session is lost ends at its next word (R553). -/
def Dev.stageLost (d : Dev) (p : Nat) : Dev :=
  match d.boot.stage with
  | some g => if g.part = p then { d with boot := { d.boot with stage := some { g with stop := true } } } else d
  | none => d

/-- An open session ends: reason 0 CLOSE, 1 idle, 2 expiry, 3 tamper (R561, R567). -/
def Dev.ssEnd (d : Dev) (k reason : Nat) : Dev :=
  if d.ssState k ≠ 2 then d
  else
    let p := d.fg (ssKstat k) SsKstat.PART
    let a := (d.fg (ssKstat k) SsKstat.ROLE, d.fg (ssKser k) SsKser.SER)
    (((d.ssFree k).audit { typ := 0x11, part := p, role := a.1, serial := a.2, subj := k * 16 + reason }).stageLost p).scCause 1

/-- SSCMD.CLOSE from partition `part` (R561). -/
def Dev.ssClose (d : Dev) (part k : Nat) : Dev := if d.fg (ssKstat k) SsKstat.PART = part then d.ssEnd k 0 else d

/-- A challenge has stood for the CHTO seconds in force when it was issued (R561) (DEDUCED, log 98). -/
def Dev.chalTimeout (d : Dev) (k : Nat) : Dev :=
  if d.ssState k = 1 ∧ Tab.get 0 d.sec.chalEnd k ≤ d.tick then (d.ssFree k).ssResult ssTIMEOUT k else d

/-- The idle limit in port ticks; 0 acts as 1 minute (R587). -/
def Dev.idleLimit (d : Dev) : Nat := max 1 (d.fg ssCfg SsCfg.IDLE) * 6000000000

/-- The idle time of session `k`. -/
def Dev.idleTime (d : Dev) (k : Nat) : Nat := d.tick - Tab.get 0 d.sec.acted k

/-- IDLE minutes have passed without a session-gated action. -/
def Dev.idleEnd (d : Dev) (k : Nat) : Dev := if d.idleLimit ≤ d.idleTime k then d.ssEnd k 1 else d

/-- A written idle limit applies at once (R561). -/
def Dev.idleAll (d : Dev) : Dev := (List.range 4).foldl (fun d k => d.idleEnd k) d

/-- SSkSTAT.IDLE: minutes left. -/
def Dev.idleLeft (d : Dev) (k : Nat) : Nat :=
  if d.ssState k = 2 then (d.idleLimit - d.idleTime k + 5999999999) / 6000000000 else 0

/-- The holder's not-after is passed (R561). -/
def Dev.expireSession (d : Dev) (k : Nat) : Dev :=
  match Tab.get none d.sec.holder k with
  | some h => if d.timely 0 h.notAft then d else d.ssEnd k 2
  | none => d

/-! ### Keys (R572, R577, R583) -/

/-- NKEY follows the slots. -/
def Dev.keyCount (d : Dev) : Dev :=
  d.fp scStat ScStat.NKEY (((List.range 64).filter (fun k => decide (d.fg (skInfo k) SkInfo.TYPE ≠ 0))).length)

/-- A slot's key is zeroised. -/
def Dev.zeroise (d : Dev) (k : Nat) : Dev :=
  let d1 := d.wr (skInfo k) 0
  ({ d1 with sec := { d1.sec with keys := Tab.set [] d1.sec.keys k [] } } : Dev).keyCount

/-- Every slot with PAY is zeroised, between the setting and the clearing of ZPEND; ZERO is set. -/
def Dev.zeroisePay (d : Dev) : Dev × Nat :=
  let l := (List.range 64).filter (fun k => d.ff (skInfo k) SkInfo.PAY)
  (((l.foldl (fun d k => d.zeroise k) (d.fp scStat ScStat.ZPEND 1)).fp scStat ScStat.ZPEND 0).scCause 3, l.length)

/-- A debug state is left for LOCKED (R580, R582). -/
def Dev.debugLeave (d : Dev) : Dev :=
  let st := d.fg dbStat DbStat.STATE
  if st = 0 then d
  else ((d.fp dbStat DbStat.STATE 0).audit { typ := 0x71, role := 3, subj := st }).scCause 7

/-! ### Tamper (R576-R578) -/

/-- The enabled inputs of a mask: bits 0-3 mesh, 4-5 switch, 6 environment. -/
def Dev.tampered (d : Dev) (bad : Nat) : Nat := bad &&& (d.fg tpCfg TpCfg.MEN + 16 * d.fg tpCfg TpCfg.SEN + 64)

/-- The mask of the inputs that a sample shows bad (R576); the window of TPMESH includes its bounds (DEDUCED, log 99). -/
def Dev.tamperBad (d : Dev) (x : TamperIn) : Nat :=
  let lo := d.fg tpMesh TpMesh.LO
  let hi := d.fg tpMesh TpMesh.HI
  let out (k : Nat) : Bool := let m := (x.mesh.getD k 0).toNat; decide (m < lo ∨ hi < m)
  let hot := decide (d.temp 19 < -45 ∨ 125 < d.temp 19)
  (List.range 4).foldl (fun a k => a + b2n (out k) * 2 ^ k) 0 + x.sw.toNat * 16 + b2n (hot || x.rail) * 64

/-- TPSTAT shows the inputs that are bad now (DEDUCED, log 99). -/
def Dev.tamperInputs (d : Dev) (bad : Nat) : Dev :=
  let m := d.tampered bad
  ((d.fp tpStat TpStat.MESH m).fp tpStat TpStat.SW (m / 16)).fp tpStat TpStat.ENV (m / 64)

/-- A tamper response from source `src` (R577), in its order (DEDUCED, log 100). -/
def Dev.tamperResponse (d : Dev) (src : Nat) : Dev :=
  let z := d.zeroisePay
  let d1 := ((List.range 4).foldl (fun d k => d.ssEnd k 3) z.1).debugLeave
  let d2 := if d1.ff tpStat TpStat.LATCH then d1 else d1.fp tpStat TpStat.FSRC src
  let d3 := (d2.fp tpStat TpStat.LATCH 1).pulseSrc 181 0
  ((d3.audit { typ := 0x60, role := 3, subj := src }).audit { typ := 0x61, role := 3, subj := z.2 }).scCause 2

/-- `n` consecutive samples alike (R576): where they are FILT + 1 or more, the lowest of the enabled inputs that they show bad starts a
response. -/
def Dev.tamperSample (d : Dev) (x : TamperIn) (n : Nat) : Dev :=
  let bad := d.tamperBad x
  let d1 := d.tamperInputs bad
  match lowestBit (d.tampered bad) 7 with
  | none => d1
  | some i => if d.fg tpCfg TpCfg.FILT < n then d1.tamperResponse i else d1

/-- TPCMD.CLR from partition `part` with the inputs as `bad` (R578, R569): none where it is refused. -/
def Dev.tamperClear (d : Dev) (part bad : Nat) : Option Dev :=
  let d0 := d.tamperInputs bad
  if d.tampered bad = 0 && d.hasRight part rightTAMPCLR && decide (d.auFree ≠ 0) then
    let a := d.actor part
    let d1 := (d0.sessionActs part).audit { typ := 0x62, part := part, role := a.1, serial := a.2 }
    some (d1.fp tpStat TpStat.LATCH 0)
  else none

/-! ### Exports and checkpoints (R569, R571) -/

/-- A write of AUEXP: none where it names no entry between AUEXP and AUHEAD. -/
def Dev.exportWrite (d : Dev) (v : Nat) : Option Dev :=
  let e := (d.fg auExp AuExp.EXP - auBase) / 12
  let h := (d.fg auHead AuHead.HEAD - auBase) / 12
  let n := (v - auBase) / 12
  if v < auBase ∨ (v - auBase) % 12 ≠ 0 ∨ auSlots ≤ n then none
  else if (n + auSlots - e) % auSlots ≤ (h + auSlots - e) % auSlots then some ((d.fp auExp AuExp.EXP v).auSync false)
  else none

/-- A checkpoint record finishes signing and is written; the one that fell due meanwhile follows (R571). -/
def Dev.checkpointSigned (d : Dev) : Dev :=
  match d.sec.ckBusy with
  | none => d
  | some ws =>
    let a := 0x0210F0000 + 64 * (d.sec.ckN % 1024)
    let d1 := ws.zipIdx.foldl (fun d p => d.rsWrite (a + p.2) p.1) d
    let d2 : Dev := { d1 with sec := { d1.sec with ckBusy := none, ckN := d1.sec.ckN + 1 } }
    (if d2.sec.ckDue then d2.checkpointDue else d2).scCause 6

end Sys2Proof.Machine
end

