-- ==== Sys2Proof/Machine/Jobs.lean ====
section
/-! DEFINITION. The jobs of the security unit (R573-R575, R579): what each operation does with its buffers and slots, and the
end of a job. Each works on the oldest job, and its error code waits for the job's end. -/

namespace Sys2Proof.Machine

/-- ERR of SJSTAT (R574). -/
def sjOWNER : Nat := 1
def sjUSE : Nat := 2
def sjEMPTY : Nat := 3
def sjOCCUPIED : Nat := 4
def sjACCESS : Nat := 5
def sjLENGTH : Nat := 6
def sjVERIFY : Nat := 7
def sjRIGHTS : Nat := 8
def sjTAMPER : Nat := 9
def sjARG : Nat := 10

/-- USE bits of SKINFO (R586). -/
def useMSEC : Nat := 0
def useEXP : Nat := 1
def useWRAPK : Nat := 2
def useVERIFY : Nat := 3
def useSIGN : Nat := 4
def useMAC : Nat := 5
def useDEC : Nat := 6
def useENC : Nat := 7

/-- What a job's work comes to: its error code, 0 for none, and the machine. -/
abbrev Work := Nat × State

/-- SJCTL.GO of cell `c` (R573): the job takes its registers as they stand. -/
def Dev.jobStart (d : Dev) (c : Nat) (v : Word) : Dev :=
  let x := d.cell c
  let j : Job := { cell := c, op := SjCtl.OP.get v, slot := SjCtl.SLOT.get v, slot2 := SjCtl.SLOT2.get v,
                   mode := SjCtl.MODE.get v, k128 := decide (SjCtl.K128.get v ≠ 0), use := SjCtl.USE.get v,
                   pay := decide (SjCtl.PAY.get v ≠ 0), src := d.fg (sjSrc c) SjSrc.ADR, dst := d.fg (sjDst c) SjDst.ADR,
                   aux := d.fg (sjAux c) SjAux.ADR, len := d.fg (sjLen c) SjLen.LEN, aad := d.fg (sjLen c) SjLen.AADLEN,
                   pl := x.pl, part := x.part }
  { d.wr (sjStat c) (SjStat.BUSY.put 0 1) with sec := { d.sec with jobs := d.sec.jobs ++ [j] } }

/-- Read `n` octets of a buffer, its first word's transfer in error as `fl`, and go on with them; a refused or poisoned buffer
ends the job. -/
def State.jobIn (s : State) (j : Job) (fl : Flips) (a n : Nat) (k : State → List Nat → Work) : Work :=
  if n = 0 then k s []
  else match s.dmaRead fl j.pl j.part 2 a ((n + 8) / 9) with
  | (some (ws, false), s1) => k s1 ((wordOctets ws).take n)
  | (_, s1) => (sjACCESS, s1)

/-- Write `n` octets to DST. -/
def State.jobOut (s : State) (j : Job) (n : Nat) (l : List Nat) : Work :=
  if n = 0 then (0, s)
  else match s.dmaWrite j.pl j.part 2 j.dst (packOctets (l.take n) ((n + 8) / 9)) with
  | (true, s1) => (0, s1)
  | (false, s1) => (sjACCESS, s1)

/-- A failed signature or tag: DST is overwritten with zeros. -/
def State.jobFail (s : State) (j : Job) (n : Nat) : Work := (sjVERIFY, (s.jobOut j n []).2)

/-- What keeps a job from the key of a slot, 0 for nothing; a key of a type that the operation does not take lacks its use.
(DESIGN CHOICE, log 62). -/
def Dev.keyFault (d : Dev) (j : Job) (slot use : Nat) (types : List Nat) : Nat :=
  if slot = 0 then sjOWNER
  else if d.fg (skInfo slot) SkInfo.TYPE = 0 then sjEMPTY
  else if d.fg (skInfo slot) SkInfo.OWNP ≠ j.part then sjOWNER
  else if ¬ (d.fg (skInfo slot) SkInfo.USE).testBit use ∨ ¬ types.contains (d.fg (skInfo slot) SkInfo.TYPE) then sjUSE
  else 0

/-- What keeps a job from creating a key in its slot (R574); `kek` tells that a key-wrap key with PAY unwraps it. -/
def Dev.makeFault (d : Dev) (j : Job) (kek : Bool) : Nat :=
  if j.slot = 0 then sjOWNER
  else if d.fg (skInfo j.slot) SkInfo.TYPE ≠ 0 then
    (if d.fg (skInfo j.slot) SkInfo.OWNP ≠ j.part then sjOWNER else sjOCCUPIED)
  else if j.pay ∧ !kek ∧ !(d.hasRight j.part rightKEYLOAD && d.auRoom) then sjRIGHTS
  else if j.pay ∧ d.ff tpStat TpStat.LATCH then sjTAMPER
  else 0

def Dev.keyOf (d : Dev) (slot : Nat) : List Nat := Tab.get [] d.sec.keys slot

/-- Enter a key in the job's slot (R572), with its audit entry. -/
def Dev.makeKey (d : Dev) (j : Job) (typ : Nat) (key : List Nat) : Dev :=
  let a := d.actor j.part
  let d0 := if j.pay && d.hasRight j.part rightKEYLOAD then d.sessionActs j.part else d
  let d1 := d0.audit { typ := 0x80, part := j.part, role := a.1, serial := a.2, subj := j.slot }
  let d2 := d1.wr (skInfo j.slot) (fields [(typ, 33), (j.use, 25), (j.part, 19), (b2n j.pay, 18)])
  ({ d2 with sec := { d2.sec with keys := Tab.set [] d2.sec.keys j.slot key } } : Dev).keyCount

/-! ### The operations -/

/-- HASH. -/
def State.jobHash (s : State) (j : Job) (fl : Flips) : Work :=
  s.jobIn j fl j.src j.len fun s l => s.jobOut j 32 (octets256 (sha256 l))

/-- Octets of the IV of a mode: none for ECB, 12 for GCM, else one block (PRESUMED, log 63). -/
def ivLength (mode : Nat) : Nat := if mode = 0 then 0 else if mode = 3 then 12 else 16

/-- ENC and DEC. -/
def State.jobAes (s : State) (j : Job) (enc : Bool) (fl : Flips) : Work :=
  let e := s.dev.keyFault j j.slot (if enc then useENC else useDEC) [1, 2]
  let iv := ivLength j.mode
  let gcm := decide (j.mode = 3)
  let aad := if gcm then j.aad else 0
  let inN := if gcm && !enc then j.len + 16 else j.len
  let outN := if gcm && enc then j.len + 16 else j.len
  if 3 < j.mode then (sjARG, s)
  else if j.mode < 2 ∧ j.len % 16 ≠ 0 then (sjLENGTH, s)
  else if e ≠ 0 then (e, s)
  else s.jobIn j {} j.aux (iv + aad) fun s p => s.jobIn j fl j.src inN fun s l =>
    match aesMode enc j.mode (s.dev.keyOf j.slot) (p.take iv) (p.drop iv) l with
    | some r => s.jobOut j outN r
    | none => s.jobFail j outN

/-- CMAC. -/
def State.jobCmac (s : State) (j : Job) (fl : Flips) : Work :=
  let e := s.dev.keyFault j j.slot useMAC [1, 2]
  if e ≠ 0 then (e, s)
  else s.jobIn j fl j.src j.len fun s l => s.jobOut j 16 (cmac (s.dev.keyOf j.slot) l)

/-- A signature of 384 octets fills 43 words. -/
def sigOctets : Nat := 387

/-- SIGN. -/
def State.jobSign (s : State) (j : Job) (fl : Flips) : Work :=
  let e := s.dev.keyFault j j.slot useSIGN [3]
  if e ≠ 0 then (e, s)
  else s.jobIn j fl j.src 32 fun s l =>
    let sig := rsaSign s.dev.fresh (s.dev.keyOf j.slot) l
    ({ s with dev := s.dev.next } : State).jobOut j sigOctets (sig.take 384)

/-- The modulus that a slot's RSA key shows. -/
def Dev.modulusOf (d : Dev) (slot : Nat) : List Nat :=
  if d.fg (skInfo slot) SkInfo.TYPE = 4 then d.keyOf slot else Config.rsaModulus (d.keyOf slot)

/-- VERIFY: it has no output to overwrite. -/
def State.jobVerify (s : State) (j : Job) (fl : Flips) : Work :=
  let e := s.dev.keyFault j j.slot useVERIFY [3, 4]
  if e ≠ 0 then (e, s)
  else s.jobIn j fl j.src 384 fun s sig => s.jobIn j {} j.aux 32 fun s dig =>
    (if rsaVerify (s.dev.modulusOf j.slot) dig sig then 0 else sjVERIFY, s)

/-- DECRYPT. -/
def State.jobDecrypt (s : State) (j : Job) (fl : Flips) : Work :=
  let e := s.dev.keyFault j j.slot useDEC [3]
  if e ≠ 0 then (e, s)
  else s.jobIn j fl j.src 384 fun s l =>
    match oaepOpen (s.dev.keyOf j.slot) l with
    | some r => s.jobOut j r.length r
    | none => s.jobFail j 384

/-- RANDOM. -/
def State.jobRandom (s : State) (j : Job) : Work :=
  let r := s.dev.random j.len
  ({ s with dev := r.2 } : State).jobOut j j.len r.1

/-- GENAES and GENRSA. -/
def State.jobGenAes (s : State) (j : Job) : Work :=
  let e := s.dev.makeFault j false
  if e ≠ 0 then (e, s)
  else
    let r := s.dev.random (if j.k128 then 16 else 32)
    (0, { s with dev := r.2.makeKey j (if j.k128 then 1 else 2) r.1 })
def State.jobGenRsa (s : State) (j : Job) : Work :=
  let e := s.dev.makeFault j false
  if e ≠ 0 then (e, s)
  else
    let r := s.dev.random 384
    (0, { s with dev := r.2.makeKey j 3 r.1 })

/-- UNWRAP: LEN octets of a wrapped AES key at SRC. -/
def State.jobUnwrap (s : State) (j : Job) (fl : Flips) : Work :=
  let k := s.dev.keyFault j j.slot2 useWRAPK [1, 2]
  let e := s.dev.makeFault j (s.dev.ff (skInfo j.slot2) SkInfo.PAY)
  if j.len ≠ 24 ∧ j.len ≠ 40 then (sjLENGTH, s)
  else if k ≠ 0 then (k, s)
  else if e ≠ 0 then (e, s)
  else s.jobIn j fl j.src j.len fun s l =>
    match keyUnwrap (s.dev.keyOf j.slot2) l with
    | some r => (0, { s with dev := s.dev.makeKey j (if j.len = 24 then 1 else 2) r })
    | none => (sjVERIFY, s)

/-- WRAP of a slot with EXP to DST. -/
def State.jobWrap (s : State) (j : Job) : Work :=
  let k := s.dev.keyFault j j.slot2 useWRAPK [1, 2]
  let e := s.dev.keyFault j j.slot useEXP [1, 2]
  if k ≠ 0 then (k, s)
  else if e ≠ 0 then (e, s)
  else s.jobOut j (if s.dev.fg (skInfo j.slot) SkInfo.TYPE = 1 then 24 else 40)
    (keyWrap (s.dev.keyOf j.slot2) (s.dev.keyOf j.slot))

/-- PUBLOAD: a modulus of 43 words at SRC. -/
def State.jobPubLoad (s : State) (j : Job) (fl : Flips) : Work :=
  let e := s.dev.makeFault j false
  if e ≠ 0 then (e, s)
  else s.jobIn j fl j.src 384 fun s l => (0, { s with dev := s.dev.makeKey j 4 l })

/-- What keeps a job from a slot, whatever its use. -/
def Dev.slotFault (d : Dev) (j : Job) : Nat :=
  if j.slot = 0 then sjOWNER
  else if d.fg (skInfo j.slot) SkInfo.TYPE = 0 then sjEMPTY
  else if d.fg (skInfo j.slot) SkInfo.OWNP ≠ j.part then sjOWNER
  else 0

/-- PUBREAD. -/
def State.jobPubRead (s : State) (j : Job) : Work :=
  let e := s.dev.slotFault j
  if e ≠ 0 then (e, s)
  else if s.dev.fg (skInfo j.slot) SkInfo.TYPE < 3 then (sjUSE, s)
  else s.jobOut j sigOctets (s.dev.modulusOf j.slot)

/-- DELETE. -/
def State.jobDelete (s : State) (j : Job) : Work :=
  let e := s.dev.slotFault j
  let a := s.dev.actor j.part
  if e ≠ 0 then (e, s)
  else (0, { s with dev := (s.dev.audit { typ := 0x81, part := j.part, role := a.1, serial := a.2, subj := j.slot }).zeroise j.slot })

/-- Words T0 to T31 of a report for a nonce (R579). -/
def Dev.report (d : Dev) (nonce : List Nat) : List Word :=
  let t := d.commitTime
  [fields [(0xA7, 64), (1, 56)]] ++ packOctets nonce 4 ++
  [ d.rd idSer, joinHalves (loHalf (d.rd idCode)) (loHalf (d.rd btGen)),
    fields [(d.fg btSvn BtSvn.SVN, 66), (d.fg btSvn BtSvn.MIN, 60), (d.fg scStat ScStat.SEALED, 59), (d.fg dbStat DbStat.STATE, 57),
      (d.fg tpStat TpStat.LATCH, 56), (d.fg btStat BtStat.SLOT, 55), (d.fg btStat BtStat.TRIAL, 54), (d.bootCount, 0)] ] ++
  packOctets (octets256 d.sec.digest) 4 ++ packOctets (octets256 d.sec.lrd) 4 ++
  [d.rd (scEvc 0), d.rd (scEvc 1), d.rd (scEvc 2), fields [((d.fg auSeq AuSeq.SEQ + 2 ^ 48 - 1) % 2 ^ 48, 0)]] ++
  packOctets (octets256 d.sec.chain) 4 ++ [t.1, fields [(d.bootCount, 40), (b2n t.2, 39)]] ++ List.replicate 6 0

/-- ATTEST. -/
def State.jobAttest (s : State) (j : Job) (fl : Flips) : Work :=
  s.jobIn j fl j.src 32 fun s nonce =>
    let r := s.dev.report nonce
    let sig := pssSign s.dev.fresh (s.dev.keyOf 0) (wordOctets r)
    match ({ s with dev := s.dev.next } : State).dmaWrite j.pl j.part 2 j.dst (r ++ packOctets (sig.take 384) 43) with
    | (true, s1) => (0, s1)
    | (false, s1) => (sjACCESS, s1)

/-- The identity certificate (R557, R579), where R579 gives its words. -/
def Dev.idCert (d : Dev) : List Word :=
  (List.range 93).map (fun k =>
    if k = 0 then fields [(0x4352, 56), (1, 48), (3, 46)] else if k = 5 then 0 else if k = 6 then d.rd idSer
    else if 7 ≤ k ∧ k < 50 then (packOctets (d.modulusOf 0) 43).getD (k - 7) 0 else Config.idCertWord k)

/-- IDCERT. -/
def State.jobIdCert (s : State) (j : Job) : Work :=
  match s.dmaWrite j.pl j.part 2 j.dst s.dev.idCert with
  | (true, s1) => (0, s1)
  | (false, s1) => (sjACCESS, s1)

/-- CKPT. -/
def State.jobCheckpoint (s : State) : Work := (0, { s with dev := s.dev.checkpointDue })

/-- Partition `p` holds a maker session with right `r` (R562). -/
def Dev.maker (d : Dev) (p r : Nat) : Bool :=
  match d.sessionOf p with
  | some k => (d.fg (ssKstat k) SsKstat.RIGHTS).testBit r && decide (d.fg (ssKstat k) SsKstat.ROLE = 2)
  | none => false

/-- RESEAL (R565): the entry comes first, with the SD in force before it and the new one. -/
def State.jobReseal (s : State) (j : Job) : Work :=
  let d := s.dev
  if !d.maker j.part rightRESEAL || decide (d.auFree = 0) then (sjRIGHTS, s)
  else
    let a := d.actor j.part
    let d1 := (d.sessionActs j.part).audit
      { typ := 0x51, part := j.part, role := a.1, serial := a.2, old := digest8 d.sec.sd, new := digest8 d.sec.lrd }
    let d2 := d1.fp scStat ScStat.SEALED 1
    (0, { s with dev := { d2 with sec := { d2.sec with sd := d2.sec.lrd } } })

/-- A serial joins the revocation list; the oldest gives way when it is full (R559) (DEDUCED, log 101). -/
def Dev.revoke (d : Dev) (serial : Nat) : Dev :=
  let put (d : Dev) (k v : Nat) : Dev := d.fp (scRev k) ScRev.SER v
  if d.sec.nrev < 32 then
    let d1 := put d d.sec.nrev serial
    { d1 with sec := { d1.sec with nrev := d1.sec.nrev + 1 } }
  else put ((List.range 31).foldl (fun (d : Dev) k => put d k (d.fg (scRev (k + 1)) ScRev.SER)) d) 31 serial

/-- REVOKE. -/
def State.jobRevoke (s : State) (j : Job) (fl : Flips) : Work :=
  if !s.dev.maker j.part rightREVOKE || !s.dev.auRoom then (sjRIGHTS, s)
  else s.jobIn j fl j.src 9 fun s l =>
    (0, { s with dev := ((s.dev.sessionActs j.part).revoke ((l.take 8).foldl (fun a o => a * 256 + o % 256) 0)) })

/-! ### The course of a job (R573) -/

/-- The work of operation `op` is done on the oldest job, once (DEDUCED, log 108). -/
def State.jobWork (s : State) (op : Nat) (f : State → Job → Work) : State :=
  match s.dev.sec.jobs with
  | j :: js =>
    if j.op = op ∧ j.done = none then
      let r := f s j
      { r.2 with dev := { r.2.dev with sec := { r.2.dev.sec with jobs := { j with done := some r.1 } :: js } } }
    else s
  | [] => s

/-- The oldest job ends. WRAP and the reserved operations have no row of their own: their work is done here. -/
def State.jobEnd (s : State) : State :=
  let s0 := s.jobWork 0x0B State.jobWrap
  match s0.dev.sec.jobs with
  | [] => s0
  | j :: js =>
    let code := match j.done with
      | some e => some e
      | none => if 0x13 < j.op then some sjARG else none
    match code with
    | none => s0
    | some e =>
      let d1 := s0.dev.wr (sjStat j.cell) (fields [(if e = 0 then 1 else 2, 33), (e, 29)])
      { s0 with dev := ({ d1 with sec := { d1.sec with jobs := js } } : Dev).scCause 0 }

end Sys2Proof.Machine
end

