-- ==== Sys2Proof/Machine/OpWord.lean ====
section
/-! DEFINITION. The op word: its common fields (R354), the opcode map of each slot (R377-R409), and the operands that each
operation reads from its word (R372). -/

namespace Sys2Proof.Machine

/-- Bits [lo + n - 1 : lo] of an op word. -/
def opBits (w : Half) (lo n : Nat) : Nat := w.toNat / 2 ^ lo % 2 ^ n

/-- SLOT: 0 A, 1 M, 2 L, 3 X (R354). -/
def opSlot (w : Half) : Nat := opBits w 33 2

/-- STOP (R354): set in the last op of a bundle. -/
def opStop (w : Half) : Bool := decide (opBits w 35 1 = 1)

/-! ### The opcode maps -/

/-- FUNC of the ALU group (R377). -/
def aluOf : Nat → Option Alu
  | 0x00 => some .add | 0x01 => some .sub | 0x02 => some .addf | 0x03 => some .subf
  | 0x04 => some .adc | 0x05 => some .sbc | 0x06 => some .adds | 0x07 => some .subs
  | 0x08 => some .and | 0x09 => some .or | 0x0A => some .xor | 0x0B => some .andn
  | 0x10 => some .shl | 0x11 => some .shr | 0x12 => some .sar | 0x13 => some .rol
  | 0x18 => some .min | 0x19 => some .max | 0x1A => some .minu | 0x1B => some .maxu
  | 0x20 => some .clz | 0x21 => some .popc | 0x22 => some .abs
  | _ => none

/-- FUNC [8:4] of the PART group, and how many values its index has (R380). -/
def partOf : Nat → Option (Part × Nat)
  | 0x0 => some (.extb, 9) | 0x1 => some (.extbs, 9) | 0x2 => some (.insb, 9)
  | 0x3 => some (.extq, 4) | 0x4 => some (.extqs, 4) | 0x5 => some (.insq, 4)
  | 0x6 => some (.exth, 2) | 0x7 => some (.exths, 2) | 0x8 => some (.insh, 2)
  | 0x9 => some (.beqm, 1) | 0xA => some (.bswap, 1) | 0xB => some (.ladd, 1) | 0xC => some (.lsub, 1)
  | _ => none

/-- The comparisons in the order of their codes (R377, R381). -/
def cmpOf : Nat → Option Cmp
  | 0 => some .eq | 1 => some .ne | 2 => some .lt | 3 => some .ge | 4 => some .ltu | 5 => some .geu
  | _ => none

/-- FUNC of the PRED group (R381). -/
def predOf : Nat → Option OpK
  | 0x06 => some (.cmp .tst)
  | 0x10 => some (.predf .pand) | 0x11 => some (.predf .por) | 0x12 => some (.predf .pxor)
  | 0x13 => some (.predf .pandn) | 0x14 => some (.predf .pnot)
  | 0x18 => some .mff | 0x19 => some .mtf
  | n => (cmpOf n).map OpK.cmp

/-- The A slot (R377). -/
def opcA (opc fn : Nat) : Option OpK :=
  match opc with
  | 0x00 => (aluOf fn).map OpK.alu
  | 0x01 => (partOf (fn / 16)).bind fun q => if fn % 16 < q.2 then some (.part q.1) else none
  | 0x02 => predOf fn
  | 0x08 => some (.aluI .addi) | 0x09 => some (.aluI .andi) | 0x0A => some (.aluI .ori) | 0x0B => some (.aluI .xori)
  | 0x0C => some (.aluI .shli) | 0x0D => some (.aluI .shri) | 0x0E => some (.aluI .sari) | 0x0F => some (.aluI .roli)
  | n => if 0x10 ≤ n then (cmpOf (n - 0x10)).map OpK.cmpI else none

/-- FUNC of the MUL group (R382). -/
def mulOf : Nat → Option Mul
  | 0 => some .muls | 1 => some .mulu | 2 => some .macs | 3 => some .macu | 4 => some .msus | 8 => some .mull
  | _ => none

/-- FUNC of the PMOV group (R383). -/
def pmovOf (fn : Nat) : Option PMov :=
  match fn with
  | 0 => some .mfph | 1 => some .mfpl | 2 => some .mtph | 3 => some .mtpl
  | n => if 0x100 ≤ n ∧ n ≤ 0x148 then some .mfpx else if 0x181 ≤ n ∧ n ≤ 0x1C8 then some .mfpxr else none

/-- FUNC of the DIV group (R385). -/
def divOf : Nat → Option Long
  | 0x0 => some .div | 0x1 => some .divu | 0x2 => some .rem | 0x3 => some .remu | 0x4 => some .divq
  | 0x8 => some .divt | 0x9 => some .divut | 0xA => some .remt | 0xB => some .remut | 0xC => some .divqt
  | _ => none

/-- The M slot (R382, R385). -/
def opcM (opc fn : Nat) : Option OpK :=
  match opc, fn with
  | 0x00, n => (mulOf n).map OpK.mul
  | 0x01, n => (pmovOf n).map OpK.pmov
  | 0x02, 0 => some (.long .xmul)
  | 0x02, 1 => some (.long .xmult)
  | 0x03, n => (divOf n).map OpK.long
  | 0x04, 0 => some (.long .sqrtu)
  | 0x04, 1 => some (.long .sqrtq)
  | 0x3F, _ => some .limm
  | _, _ => none

/-- FUNC of the block group (R392). -/
def blkOf : Nat → Option Blk
  | 0 => some .bmov | 1 => some .bmovd | 2 => some .bfill | 4 => some .crcb | 6 => some .cmpb
  | _ => none

/-- The L slot (R389, R390). -/
def opcL (opc fn : Nat) : Option OpK :=
  match opc with
  | 0x00 => some (.ld .word false)
  | 0x01 => some (.ld (.half 0) false) | 0x02 => some (.ld (.half 0) true)
  | 0x03 => some (.ld (.quarter 0) false) | 0x04 => some (.ld (.quarter 0) true)
  | 0x05 => some (.ld (.octet 0) false) | 0x06 => some (.ld (.octet 0) true)
  | 0x08 => some (.st .word)
  | 0x09 => some (.st (.half 0)) | 0x0A => some (.st (.quarter 0)) | 0x0B => some (.st (.octet 0))
  | 0x0C => if fn < 4 then some .ldx else none
  | 0x0D => if fn < 4 then some .stx else none
  | 0x10 => (blkOf fn).map OpK.blk
  | 0x18 => if fn = 0 then some .dcinv else if fn = 1 then some .dcinva else none
  | _ => none

/-- The transaction ops by OPC − 0x20 (R409). -/
def txOf : Nat → Option TxFn
  | 0 => some .tbegin | 1 => some .tsel | 2 => some .tsw | 3 => some .ttot | 4 => some .tpar
  | 5 => some .tsnap | 6 => some .tapp | 7 => some .tfrm | 8 => some .tcommit | 9 => some .tabort
  | _ => none

/-- The X slot (R397, R406, R409). -/
def opcX (opc fn : Nat) : Option OpK :=
  match opc with
  | 0x00 => some .br | 0x01 => some .call | 0x02 => some .jr | 0x03 => some .callr
  | 0x04 => some .ret | 0x05 => some .retx | 0x06 => some .loop
  | 0x08 => some .sysc | 0x09 => some .mfs | 0x0A => some .mts
  | 0x0B => some .ioIn | 0x0C => some .ioOut | 0x0D => some .ist | 0x0E => some .isync | 0x0F => some .fence
  | 0x10 => if fn < 5 then some (.tlbi fn) else none
  | 0x11 => some .sev | 0x12 => some .wfe | 0x13 => some .waitc | 0x14 => some .brk
  | n => if 0x20 ≤ n then (txOf (n - 0x20)).map OpK.tx else none

/-- The operation that an op word names; none where its OPC or FUNC is reserved (R354, R368). -/
def opK (w : Half) : Option OpK :=
  let opc := opBits w 24 6
  let fn := opBits w 0 9
  match opSlot w with
  | 0 => opcA opc fn
  | 1 => opcM opc fn
  | 2 => opcL opc fn
  | _ => opcX opc fn

/-! ### The operands -/

/-- How many registers d, s1 and s2 of an operation choose among: 32 G registers, 8 predicates, 4 products, or 1 where the
field is no operand (R372). -/
def OpK.files : OpK → Nat × Nat × Nat
  | .alu f => (32, 32, if f = .clz ∨ f = .popc ∨ f = .abs then 1 else 32)
  | .part f => (32, 32, if f = .insb ∨ f = .insq ∨ f = .insh ∨ f = .beqm ∨ f = .ladd ∨ f = .lsub then 32 else 1)
  | .cmp _ => (8, 32, 32)
  | .cmpI _ => (8, 32, 1)
  | .predf f => (8, 8, if f = .pnot then 1 else 8)
  | .mff => (32, 1, 1)
  | .mtf => (1, 32, 1)
  | .mul f => (if f = .mull then 32 else 4, 32, 32)
  | .pmov f => if f = .mtph ∨ f = .mtpl then (4, 32, 1) else (32, 4, 1)
  | .long f => if f = .xmul ∨ f = .xmult then (4, 4, 32) else (32, 32, if f = .sqrtu ∨ f = .sqrtq then 1 else 32)
  | .ldx | .stx | .blk _ => (32, 32, 32)
  | .aluI _ | .ld _ _ | .st _ | .ioIn | .ioOut | .ist => (32, 32, 1)
  | .dcinv | .jr | .callr | .mts | .sev | .tlbi 0 => (1, 32, 1)
  | .mfs | .limm => (32, 1, 1)
  | .waitc | .tlbi 2 => (1, 32, 32)
  | .tlbi 3 => (1, 1, 32)
  | .tx f => (1, if f = .tabort then 1 else 32, if f = .tsw ∨ f = .tpar ∨ f = .tapp then 32 else 1)
  | .tlbi _ | .dcinva | .br | .call | .ret | .retx | .loop | .sysc | .isync | .fence | .wfe | .brk | .reserved => (1, 1, 1)

/-- The operand of an operation that names no register: an immediate, an index, an offset or a mask. -/
def OpK.immOf (k : OpK) (w : Half) : Nat :=
  match k with
  | .aluI _ | .cmpI _ | .ld _ _ | .st _ | .ioIn | .ioOut | .ist => opBits w 0 14
  | .part _ => opBits w 0 4
  | .pmov f => if f = .mfpx ∨ f = .mfpxr then opBits w 0 7 else 0
  | .mfs | .mts => opBits w 0 7
  | .ldx | .stx => opBits w 0 2
  | .br | .call => opBits w 0 24
  | .sysc => opBits w 0 1
  | .fence => opBits w 0 4
  | .waitc => opBits w 7 2
  | .loop => opBits w 0 17
  | _ => 0

/-- The op that an op word spells, with the payload word that follows a LIMM (R354-R356, R372, R399, R407); an op row brings it
already read (DESIGN CHOICE, log 162). -/
def opOfWord (w payload : Half) : Op :=
  match opK w with
  | none => { k := .reserved, slot := opSlot w, pred := opBits w 30 3 }
  | some .limm =>
    { k := .limm, slot := opSlot w, pred := opBits w 30 3, d := opBits w 19 5, s1 := opBits w 17 2, s2 := opBits w 35 1,
      imm := opBits w 0 17 * 2 ^ 35 + opBits payload 0 35 }
  | some .loop =>
    { k := .loop, slot := opSlot w, pred := opBits w 30 3, s1 := opBits w 17 5, s2 := opBits w 22 2, imm := OpK.loop.immOf w }
  | some k =>
    { k := k, slot := opSlot w, pred := opBits w 30 3, d := opBits w 19 5 % k.files.1, s1 := opBits w 14 5 % k.files.2.1,
      s2 := opBits w 9 5 % k.files.2.2, imm := k.immOf w }

/-- An op word that its slot's map lists (R368). -/
def definedOp (w : Half) : Bool := (opK w).isSome

/-- A LIMM, whose payload is the next op word (R356). -/
def isLimm (w : Half) : Bool := decide (opK w = some .limm)

/-- The bundle at the head of a run of op words: its ops up to the first STOP, which a LIMM carries in its payload (R355, R356).
The words end before a STOP: none. -/
def bundleOf : List Half → Option (List Op)
  | [] => none
  | w :: l =>
    if isLimm w then
      match l with
      | [] => none
      | p :: l' => if opStop w || opStop p then some [opOfWord w p] else (bundleOf l').map (opOfWord w p :: ·)
    else if opStop w then some [opOfWord w 0] else (bundleOf l).map (opOfWord w 0 :: ·)

end Sys2Proof.Machine
end

