-- ==== Sys2Proof/Machine/Image.lean ====
section
/-! DEFINITION. The Drail image: slots, manifest and the checks of R537 (R532-R540); what a reset leaves (R16, R269, R270,
R306, R526, R602); image recovery (R550); and the staging of an update (R551-R553). -/

namespace Sys2Proof.Machine

/-! ### The xSPI memory (R532) -/

/-- Word `n` of slot `s`; an erased word reads as all ones. -/
def Mem.slotWord (m : Mem) (s n : Nat) : Word := Tab.get (BitVec.allOnes 72) m.nor (s * 2 ^ 24 + n)

/-- Program a word: bits go from one to zero only. -/
def Mem.program (m : Mem) (s n : Nat) (w : Word) : Mem :=
  { m with nor := Tab.set (BitVec.allOnes 72) m.nor (s * 2 ^ 24 + n) (m.slotWord s n &&& w) }

/-- Erase words `lo` to `hi - 1` of slot `s`. -/
def Mem.eraseSlot (m : Mem) (s lo hi : Nat) : Mem :=
  { m with nor := m.nor.filter (fun e => decide (e.1 < s * 2 ^ 24 + lo ∨ s * 2 ^ 24 + hi ≤ e.1)) }

/-- Words that a slot holds. -/
def slotSize : Nat := 14913080

/-! ### Reasons (R537) -/
def rjREAD : Nat := 1
def rjEMPTY : Nat := 2
def rjMAGIC : Nat := 3
def rjHCRC : Nat := 4
def rjSIZE : Nat := 5
def rjEXPIRED : Nat := 6
/-- (DEDUCED, log 116). -/
def rjFORMAT : Nat := 7
def rjCERT : Nat := 8
def rjSIG : Nat := 9
def rjSVN : Nat := 10
def rjORDER : Nat := 11
def rjRANGE : Nat := 12
def rjHASH : Nat := 13
def rjRESV : Nat := 14
def rjREGADR : Nat := 15
def rjBIND : Nat := 16
def rjPATTERN : Nat := 17

/-! ### The header (R532, R533) -/

/-- The CRC of a header. -/
def headerCrc (f : Nat → Word) : Nat := crc32 [f 0, f 1, f 2, f 4, f 5, f 6]

/-- TLEN, GEN, TRIALN and BOOTBASE. -/
def hdTLEN (f : Nat → Word) : Nat := (f 2).toNat / 2 ^ 44
def hdGEN (f : Nat → Word) : Nat := (f 1).toNat / 2 ^ 36
def hdTRIALN (f : Nat → Word) : Nat := (f 1).toNat / 2 ^ 32 % 16
def hdBASE (f : Nat → Word) : Nat := (f 1).toNat % 2 ^ 32

/-- What is wrong with a header, 0 for nothing; a buffer's CRC is not checked, since H1 is ignored there (R551). -/
def headerReason (f : Nat → Word) (buffer : Bool) : Nat :=
  if f 0 = BitVec.allOnes 72 then rjEMPTY
  else if (f 0).toNat / 2 ^ 40 ≠ 0x504B3701 then rjMAGIC
  else if !buffer && decide ((f 7).toNat % 2 ^ 32 ≠ headerCrc f) then rjHCRC
  else if slotSize < hdTLEN f then rjSIZE
  else 0

/-- The slot is an unconfirmed trial (R533). -/
def unconfirmed (f : Nat → Word) : Bool := decide (hdTRIALN f ≠ 0 ∧ f 3 ≠ 0)

/-! ### The manifest (R534) -/

/-- A manifest record: its type, the 40 low bits of its header, the slot word of the header, and its payload. -/
structure Rec where
  typ : Nat
  hdr : Nat
  at' : Nat
  ws  : List Word
deriving DecidableEq, Repr

/-- The records from word `n` on, up to and with SIG; none where they are malformed. -/
def parseManifest (f : Nat → Word) (tlen : Nat) : Nat → Nat → Option (List Rec)
  | 0, _ => none
  | fuel + 1, n =>
    let w := (f n).toNat
    let t := w / 2 ^ 64
    let len := w / 2 ^ 40 % 2 ^ 24
    if tlen < n + 1 + len ∨ !([1, 2, 3, 4, 5, 6, 7, 8, 0xF] : List Nat).contains t then none
    else
      let r : Rec := ⟨t, w % 2 ^ 40, n, (List.range len).map (fun k => f (n + 1 + k))⟩
      if t = 0xF then some [r]
      else match parseManifest f tlen fuel (n + 1 + len) with
      | some l => some (r :: l)
      | none => none

/-- The records of an image. -/
def manifestOf (f : Nat → Word) : Option (List Rec) := parseManifest f (hdTLEN f) (hdTLEN f) 8

/-- The words of every record of a type, in record order. -/
def recWords (l : List Rec) (t : Nat) : List Word := (l.filter (fun r => decide (r.typ = t))).flatMap (fun r => r.ws)

/-- The first record of a type. -/
def recOf (l : List Rec) (t : Nat) : Option Rec := l.find? (fun r => decide (r.typ = t))

/-- IDENT's fields (R534). -/
def identHdr (l : List Rec) : Nat := match recOf l 1 with | some r => r.hdr | none => 0
def imgSVN (l : List Rec) : Nat := identHdr l / 2 ^ 32 % 64
def imgADVSVN (l : List Rec) : Bool := (identHdr l).testBit 31
def imgDRAMS (l : List Rec) : Bool := (identHdr l).testBit 30

/-- A section (R536). -/
structure Sect where
  dest : Nat
  code : Bool
  unit : Nat
  addr : Nat
  off  : Nat
  slen : Nat
  hash : List Word
deriving DecidableEq, Repr

def sectOf (r : Rec) : Sect :=
  let w1 := (r.ws.getD 1 0).toNat
  ⟨r.hdr / 2 ^ 36 % 16, r.hdr.testBit 35, r.hdr / 2 ^ 28 % 64, (r.ws.getD 0 0).toNat / 2 ^ 36, w1 / 2 ^ 44, w1 / 2 ^ 16 % 2 ^ 28,
    (r.ws.drop 2).take 4⟩

def sections (l : List Rec) : List Sect := (l.filter (fun r => decide (r.typ = 2))).map sectOf

/-- Role, group and partition that a FURROW record gives each position. -/
def furrowOf (r : Rec) : Nat × List (Nat × Nat × Nat) :=
  let w := (r.ws.getD 0 0).toNat
  (r.hdr / 2 ^ 36 % 16, ([0, 1, 2, 3] : List Nat).map (fun p =>
    let x := w / 2 ^ (61 - 11 * p) % 2 ^ 11
    (x / 256, x / 64 % 4, x % 64)))

def furrows (l : List Rec) : List (Nat × List (Nat × Nat × Nat)) := (l.filter (fun r => decide (r.typ = 3))).map furrowOf

/-- The pattern that the image gives furrow `f`: the last record prevails. -/
def patternOf (l : List Rec) (f : Nat) : List (Nat × Nat × Nat) :=
  match (furrows l).reverse.find? (fun e => decide (e.1 = f)) with
  | some e => e.2
  | none => []

/-- The members that cell `c` leads in the image, itself alone where it leads none; none for a follower. -/
def imageCells (l : List Rec) (c : Nat) : Option (List Nat) :=
  let pat := patternOf l (c / 4)
  let e := pat.getD (c % 4) (3, 0, 0)
  if e.1 ≠ 1 then some [c]
  else
    let ps := ([0, 1, 2, 3] : List Nat).filter (fun p => decide ((pat.getD p (3, 0, 0)).1 = 1 ∧ (pat.getD p (3, 0, 0)).2.1 = e.2.1))
    if ps.head? = some (c % 4) then some (ps.map (fun p => 4 * (c / 4) + p)) else none

/-! ### Reserved ops (R368, R538) -/

/-- A list of op words holds a reserved op; payloads are not checked. -/
def reservedOps : List Half → Bool → Bool
  | [], _ => false
  | _ :: l, true => reservedOps l false
  | w :: l, false => !definedOp w || reservedOps l (isLimm w)

/-! ### Registers that records name (R543, R548) -/

/-- The register to which an I/O address belongs: its even address where it is 72 bits wide; none where it is unassigned. -/
def regAt (a : Nat) : Option Nat :=
  if (regDesc a).fields ≠ [] then some a
  else if a % 2 = 1 ∧ (regDesc (a - 1)).wide then some (a - 1)
  else none

/-- The fields of the register at `r` that name a resource which the order code lacks, where it holds `v` (R3): the ports of a
domain's source, a slot's terminal action, a timer's pin and a channel's interlock and binding, the Ethernet port of a PTP clock,
the cell of an event route, the ports and furrows of a shed step's mask, the cell or furrow of a BIST. -/
def Dev.absentFields (d : Dev) (r : Nat) (v : Word) : List Span :=
  let o := r % 0x10000
  let port := fun (f : Span) => if d.portHere (f.get v) then [] else [f]
  let eth := fun (f : Span) => if d.ethHere (f.get v) then [] else [f]
  if !d.isH then []
  else match r / 0x10000 with
  | 0x01 => if o < 0x100 ∧ EcRt.MODE.get v = 0 ∧ ¬ d.cellHere (EcRt.TGT.get v) then [EcRt.TGT] else []
  | 0x02 =>
    if 0x800 ≤ o then []
    else if o % 0x40 = 1 then port AdSrc.PAP ++ port AdSrc.PBP ++ eth AdSrc.TPORT
    else if 0x20 ≤ o % 0x40 ∧ o % 4 = 2 ∧ 1 ≤ AdSlotCtl.ACT.get v ∧ AdSlotCtl.ACT.get v ≤ 3 then port AdSlotCtl.TGT
    else []
  | 0x03 => if o < 0x400 ∧ o % 0x10 = 2 then port TmPin.PORT else []
  | 0x04 =>
    if 0x4000 ≤ o ∧ o < 0x4100 then
      if o % 0x10 = 0 then port ChCtl.ILKP else if o % 0x10 = 1 ∧ 2 ^ 16 ≤ ChPorts.PM.get v then [ChPorts.PM] else []
    else []
  | 0x05 => if r = txCfg then eth TxCfg.TPORT else []
  | 0x07 =>
    let mask := fun (n : Nat) => if DrSp.ARG.get v < 2 ^ n then [] else [DrSp.ARG]
    if o < 0x20 ∨ 0x30 ≤ o then []
    else match DrSp.OP.get v with
    | 5 => mask 0
    | 7 => mask 8
    | 8 => mask 8
    | 9 => mask 8
    | 0xB => if DrSp.ARG.get v / 2 % 2 = 0 then [] else [DrSp.ARG]
    | _ => []
  | 0x0F =>
    let u := BCtl.UNIT.get v
    if o = 0 ∧ ((BCtl.TGT.get v = 0 ∧ ¬ d.cellHere u) ∨ (BCtl.TGT.get v = 1 ∧ ¬ d.furHere u)) then [BCtl.UNIT] else []
  | _ => []

/-- A register has a WO field. -/
def hasWO (r : Nat) : Bool := (regDesc r).fields.any (fun f => decide (f.acc = .wo))

/-- The lock registers (R16). -/
def lockRegs : List Nat := [adLock, fpLock, chLock, furLock, fcLock, drLock, ecLock, etLock, scLock]

/-- A REGS or LOCKS word: its address. -/
def regsAddr (w : Word) : Nat := w.toNat / 2 ^ 48

def regsBad (w : Word) : Bool :=
  match regAt (regsAddr w) with
  | some r => hasWO r || lockRegs.contains r
  | none => true
def locksBad (w : Word) : Bool :=
  match regAt (regsAddr w) with
  | some r => !lockRegs.contains r
  | none => true

/-- A binding (R546): parameter offset, register address, lowest bit, width and default. -/
structure Bind where
  off   : Nat
  addr  : Nat
  lsb   : Nat
  width : Nat
  dflt  : Word
deriving DecidableEq, Repr

def bindings : List Word → List Bind
  | a :: b :: l => ⟨a.toNat / 2 ^ 54, a.toNat / 2 ^ 30 % 2 ^ 24, a.toNat / 2 ^ 23 % 128, a.toNat / 2 ^ 16 % 128, b⟩ :: bindings l
  | _ => []

def Bind.bad (b : Bind) : Bool :=
  let r := regDesc b.addr
  r.fields.isEmpty || hasWO b.addr || decide (b.width = 0 ∨ 71 < b.width ∨ (if r.wide then 72 else 36) < b.lsb + b.width)

/-! ### The checks (R535-R537) -/

/-- A record's payload has the length of its type. -/
def Rec.formed (r : Rec) : Bool :=
  match r.typ with
  | 1 => decide (r.ws.length = 2)
  | 2 => decide (r.ws.length = 6 ∧ (sectOf r).dest ≤ 4)
  | 3 => decide (r.ws.length = 1)
  | 0xF => decide (r.ws.length = 43)
  | _ => true

/-- The message that SIG covers: word 8 up to the SIG record's header. -/
def signedWords (f : Nat → Word) (l : List Rec) : List Word :=
  let e := match recOf l 0xF with | some r => r.at' | none => 8
  (List.range (e - 7)).map (fun k => f (8 + k))

/-- The digest of a manifest. -/
def digestOf (f : Nat → Word) (l : List Rec) : BitVec 256 := sha256 (wordOctets (signedWords f l))

/-- CERT and SIG. -/
def Dev.signReason (d : Dev) (f : Nat → Word) (l : List Rec) : Nat :=
  match d.chainCheck (recWords l 8) with
  | (0, some h) =>
    if h.role ≠ 2 ∨ ¬ h.rights.testBit rightIMGSIGN then rjCERT
    else if pssVerify h.modulus (wordOctets (signedWords f l)) ((wordOctets (recWords l 0xF)).take 384) then 0 else rjSIG
  | _ => rjCERT

/-- What the REGS records and the first bindings leave in the register at `r`, each binding at its default (R546, R547). -/
def regsValue (l : List Rec) (bs : List Bind) (r : Nat) : Word :=
  let v := (recWords l 5).foldl (fun v w => if regsAddr w = r then ofHalf (loHalf w) else v) (regReset r)
  bs.foldl (fun v b => if b.addr = r then (⟨b.lsb + b.width - 1, b.lsb⟩ : Span).put v (b.dflt.toNat % 2 ^ b.width) else v) v

/-- A record names a unit, or a REGS value or the default of a binding selects one, that the order code lacks (R4). -/
def Dev.namesAbsent (d : Dev) (l : List Rec) : Bool :=
  (sections l).any (fun s => if s.dest = 1 ∨ s.dest = 2 then !d.cellHere s.unit else s.dest == 3 && !d.furHere s.unit) ||
  (furrows l).any (fun e => !d.furHere e.1) ||
  (recWords l 5).any (fun w => !(d.absentFields (regsAddr w) (ofHalf (loHalf w))).isEmpty) ||
  (d.isH && ((recWords l 5 ++ recWords l 7).any (fun w => absentOnH (regsAddr w)) ||
    (bindings (recWords l 6)).any (fun b => absentOnH b.addr || !(d.absentFields b.addr
      (regsValue l (bindings (recWords l 6)) b.addr)).isEmpty)))

/-- The first word of a section's destination, where the model keeps it, and its bounds there. -/
def Sect.base (s : Sect) : Nat :=
  if s.dest = 1 then isramOf s.unit + s.addr else if s.dest = 2 then aliasOf s.unit + s.addr else s.addr
def Dev.sectBounds (d : Dev) (s : Sect) : Nat × Nat :=
  match s.dest with
  | 0 => (codeBase, 0x0207FFFF0)
  | 1 => (isramOf s.unit, isramOf s.unit + 0x4000)
  | 2 => (aliasOf s.unit, aliasOf s.unit + 0x4000)
  | 3 => (fsramOf s.unit, fsramOf s.unit + 0x40000)
  | _ => (dramBase, dramBase + d.dramSize)

/-- Two sections share a word. -/
def Sect.meets (a b : Sect) : Bool := decide (a.base < b.base + b.slen ∧ b.base < a.base + a.slen)

/-- Some two of a list of sections share a word. -/
def overlapping : List Sect → Bool
  | [] => false
  | s :: l => l.any (fun t => s.meets t) || overlapping l

/-- RANGE. -/
def Dev.rangeBad (d : Dev) (l : List Rec) : Bool :=
  (sections l).any (fun s => decide (s.base < (d.sectBounds s).1 ∨ (d.sectBounds s).2 < s.base + s.slen) ||
    (decide (s.dest = 1 ∨ s.dest = 2) && (imageCells l s.unit).isNone)) || overlapping (sections l)

/-- The checks of the manifest, FORMAT to RANGE; `tlen` bounds what the image may hold. -/
def Dev.manifestReason (d : Dev) (f : Nat → Word) : Nat × List Rec :=
  match manifestOf f with
  | none => (rjFORMAT, [])
  | some l =>
    let bad := (recOf l 1).isNone || (recOf l 8).isNone || l.any (fun r => !r.formed) ||
      (sections l).any (fun s => decide (hdTLEN f < s.off + s.slen))
    let e := if bad then rjFORMAT else d.signReason f l
    if e ≠ 0 then (e, l)
    else if imgSVN l < d.fg btSvn BtSvn.MIN then (rjSVN, l)
    else if ¬ (identHdr l).testBit (if d.isH then 39 else 38) ∨ d.namesAbsent l then (rjORDER, l)
    else if d.rangeBad l then (rjRANGE, l)
    else (0, l)

/-- The words of a section, in the slot. -/
def Sect.words (s : Sect) (f : Nat → Word) : List Word := (List.range s.slen).map (fun k => f (s.off + k))

/-- A list of words has the hash that a section names. -/
def Sect.hashOk (s : Sect) (ws : List Word) : Bool := decide (packOctets (octets256 (sha256 (wordOctets ws))) 4 = s.hash)

/-- Op words of a list of words, high half first (R9). -/
def opWords (ws : List Word) : List Half := ws.flatMap (fun w => [hiHalf w, loHalf w])

/-- HASH and RESV. -/
def dataReason (f : Nat → Word) (l : List Rec) : Nat :=
  if (sections l).any (fun s => !s.hashOk (s.words f)) then rjHASH
  else if (sections l).any (fun s => s.code && reservedOps (opWords (s.words f)) false) then rjRESV
  else 0

/-- A FURROW record's pattern is one that R207 permits, with a PART record for each partition that runs (DEDUCED, log 117). -/
def patternOk (l : List Rec) (e : Nat × List (Nat × Nat × Nat)) : Bool :=
  let parts := (recWords l 4).map (fun w => w.toNat / 2 ^ 66)
  e.2.all (fun x => decide (x.1 ≤ 4) && (decide (1 < x.1) || parts.contains x.2.2)) &&
  e.2.all (fun x => decide (x.1 ≠ 1) ||
    (let g := e.2.filter (fun y => decide (y.1 = 1 ∧ y.2.1 = x.2.1))
     decide (2 ≤ g.length ∧ g.length ≤ 3) && g.all (fun y => decide (y.2.2 = x.2.2))))

/-- REGADR, BIND and PATTERN. -/
def recordReason (l : List Rec) : Nat :=
  if (recWords l 5).any regsBad || (recWords l 7).any locksBad then rjREGADR
  else if l.any (fun r => decide (r.typ = 6 ∧ r.ws.length % 2 = 1)) || (bindings (recWords l 6)).any Bind.bad then rjBIND
  else if (furrows l).any (fun e => !patternOk l e) then rjPATTERN
  else 0

/-! ### Reset (R16, R269, R270, R306, R526, R602) -/

/-- Registers that every reset keeps: the security unit's store and the fuses; the registers of the running ditch rider where power stays, of which a fault
restart keeps the accounts alone (R269, R602); and the fault collector's where it keeps them (DEDUCED, log 110). -/
def keptKey (power fault restart : Bool) (k : Nat) : Bool :=
  let a := k % 0x1000000
  decide (a = scTflr ∨ (scEvc 0 ≤ a ∧ a ≤ scEvc 2) ∨ a = 0x0D0021 ∨ a = auHead ∨ a = auExp ∨ a = auSeq ∨
    (scRev 0 ≤ a ∧ a < scRev 32) ∨ a = idCode ∨ a = idSer) ||
  (power && !restart && decide (a = drStat ∨ (drBstat ≤ a ∧ a ≤ drPwr) ∨ a = drShed ∨
    (drTemp 0 ≤ a ∧ a ≤ drThr))) ||
  (power && decide (a = drUse ∨ a = drObl ∨ a = drResv ∨ a = drAvl)) ||
  (fault && decide (0x090000 ≤ a ∧ a < 0x090100))

/-- The ditch rider as a reset leaves it while power stays: a fault restart ends a plan and what it reached (R269, R602) (DEDUCED, log 187). -/
def Dev.riderAfter (d : Dev) (restart : Bool) : Rider :=
  if restart then { bankOk := d.rider.bankOk, bank := d.rider.bank, ich := d.rider.ich, xtal := d.rider.xtal }
  else { d.rider with wait := false, meas := false, warned := d.tick - d.rider.warnAt + d.rider.warned, warnAt := 0 }

/-- The device as a reset leaves it: `power` tells that power has stayed, `fault` a fault restart or an nRESET in the fault
state, `restart` a fault restart. The start begins at step `step` (DEDUCED, log 109, DEDUCED, log 111). -/
def Dev.afterReset (d : Dev) (power fault restart : Bool) (step : Nat) : Dev :=
  let b : Boot := { step := step, strap := d.boot.strap, line := if power then d.boot.line else 3, on := d.boot.on, low := d.boot.low }
  let s : Sec := { chain := d.sec.chain, sd := d.sec.sd, root := d.sec.root, keys := d.sec.keys, nrev := d.sec.nrev, done := d.sec.done,
                   ckN := d.sec.ckN }
  let c : Fc := if fault then { d.fc with base := d.fcNow, spll := false }
    else if power then { base := d.fcNow, winAt := d.fc.winAt } else {}
  let n : Dev := { io := d.io.filter (fun e => keptKey power fault restart e.1), fresh := d.fresh, rs := d.rs,
                   rider := if power then d.riderAfter restart else {}, sec := s, fc := c, boot := b,
                   level := if power then d.level.filter (fun e => decide (144 ≤ e.1 ∧ ¬(restart = true ∧ (e.1 = 177 ∨ e.1 = 178)))) else [],
                   pulse := if fault then d.pulse.filter (fun e => decide (144 ≤ e.1)) else [] }
  let n1 := (((n.fp scStat ScStat.PROV (d.fg scStat ScStat.PROV)).fp scStat ScStat.SEALED (d.fg scStat ScStat.SEALED)).fp
    scStat ScStat.ZPEND (d.fg scStat ScStat.ZPEND)).fp scStat ScStat.NKEY (d.fg scStat ScStat.NKEY)
  let n2 := (((n1.fp auStat AuStat.FREE (d.fg auStat AuStat.FREE)).fp tpStat TpStat.LATCH (d.fg tpStat TpStat.LATCH)).fp
    tpStat TpStat.FSRC (d.fg tpStat TpStat.FSRC)).fp btSvn BtSvn.MIN (d.fg btSvn BtSvn.MIN)
  let n3 := if power ∧ ¬ fault then
      (n2.fp fcRec FcRec.CNT (d.fg fcRec FcRec.CNT)).fp fcStat FcStat.LATCH (d.fg fcStat FcStat.LATCH)
    else n2
  let n4 := if fault then n3 else (n3.fp fcStat FcStat.FEEDV 0).fp fcStat FcStat.NEXTK 0
  ((n4.fp fcCtl FcCtl.SAFEEN 0).fp fcStat FcStat.SAFEB 0).syncBalls

/-! ### Staging (R551-R553) -/

/-- A session that permits an update is open for partition `part`, and its entry has room. -/
def Dev.mayUpdate (d : Dev) (part : Nat) : Bool := d.installer part rightUPDATE && d.auRoom && d.boot.stage.isNone

/-- BTCMD.STAGE (R551): none where it is refused. -/
def Dev.stageStart (d : Dev) (part pl trialn : Nat) : Option Dev :=
  if d.mayUpdate part then
    let g : Stage := { adr := d.fg btUadr BtUadr.ADR, len := d.fg btUlen BtUlen.LEN, pl := pl, part := part, trialn := trialn }
    let d1 := (d.sessionActs part).wr btUstat (fields [(1, 35), (1, 32)])
    some { d1 with boot := { d1.boot with stage := some g } }
  else none

/-- A staging ends at its next word (R552, R553). -/
def Dev.stageStop (d : Dev) : Dev :=
  match d.boot.stage with
  | some g => { d with boot := { d.boot with stage := some { g with stop := true } } }
  | none => d

/-- BTCMD.CONFIRM (R552): none where it is refused. -/
def State.stageConfirm (s : State) (part : Nat) : Option State :=
  let d := s.dev
  match d.boot.slot with
  | some k =>
    if d.mayUpdate part && d.ff btStat BtStat.TRIAL then
      let a := d.actor part
      let svn := d.fg btSvn BtSvn.SVN
      let d1 := (d.sessionActs part).audit { typ := 0x41, part := part, role := a.1, serial := a.2, subj := svn, new := d.rd btGen }
      let adv := match manifestOf (s.mem.slotWord k) with | some l => imgADVSVN l | none => false
      let d2 := if adv then d1.fp btSvn BtSvn.MIN (max svn (d1.fg btSvn BtSvn.MIN)) else d1
      some { s with mem := s.mem.program k 3 0, dev := d2.fp btStat BtStat.TRIAL 0 }
    else none
  | none => none

/-- Staging ends with RES, REJ (R551, R567). -/
def Dev.stageEnd (d : Dev) (g : Stage) (res rej : Nat) : Dev :=
  let a := d.actor g.part
  let w := fields [(g.phase, 32), (res, 30), (rej, 25), (if res = 1 then 100 else 0, 18)]
  let d1 : Dev := { d.wr btUstat w with boot := { d.boot with stage := none } }
  (d1.audit { typ := 0x40, part := g.part, role := a.1, serial := a.2, subj := res,
              new := if res = 1 then d.rd btGen + 1 else 0 }).raiseIf (d.ff btUlen BtUlen.IE) 247

/-- Read `n` words of the buffer from its word `k` on; none where a sluice refuses one or one arrives poisoned. -/
def State.bufRead (s : State) (g : Stage) : Nat → Nat → Option (List Word) × State
  | _, 0 => (some [], s)
  | k, n + 1 =>
    match s.secRead g.pl g.part (g.adr + k) 1 with
    | (some [w], s1) =>
      match s1.bufRead g (k + 1) n with
      | (some ws, s2) => (some (w :: ws), s2)
      | (none, s2) => (none, s2)
    | (_, s1) => (none, s1)

/-- The slot that a staging writes: the one not loaded (DEDUCED, log 114). -/
def Dev.stageSlot (d : Dev) : Nat := match d.boot.slot with | some 0 => 1 | _ => 0

/-- H1 as phase 5 programs it (DEDUCED, log 113). -/
def Dev.stageH1 (d : Dev) (g : Stage) : Word := fields [(d.fg btGen BtGen.GEN + 1, 36), (g.trialn, 32), (d.bootCount + 1, 0)]

/-- What phase 3 programs, in its order: words 8 to TLEN - 1, then H0, H2 and H4 to H7, whose CRC goes with the H1 of phase 5. -/
def Dev.stagePlan (d : Dev) (g : Stage) (f : Nat → Word) : List (Nat × Word) :=
  let h (k : Nat) : Word := if k = 1 then d.stageH1 g else f k
  (List.range (hdTLEN f - 8)).map (fun k => (8 + k, f (8 + k))) ++ [(0, f 0), (2, f 2), (4, f 4), (5, f 5), (6, f 6),
    (7, fields [(headerCrc h, 0)])]

/-- The present phase ends (R551): `bad` tells a failure of the xSPI memory, or a poisoned buffer word, `n` the words done where
ABORT, WARN or a lost session ends staging in it (DESIGN CHOICE, log 115). -/
def State.stagePhase (s : State) (bad : Bool) (n : Nat) : State :=
  match s.dev.boot.stage with
  | none => s
  | some g =>
    let slot := s.dev.stageSlot
    let r := if g.phase = 1 ∨ g.phase = 3 ∨ g.phase = 4 then s.bufRead g 0 g.len else (some [], s)
    let s1 := r.2
    let d := s1.dev
    let ws := r.1.getD []
    let f : Nat → Word := fun k => ws.getD k 0
    let fail (s : State) (res rej : Nat) : State := { s with dev := s.dev.stageEnd g res rej }
    let on (s : State) : State :=
      { s with dev := { s.dev.fp btUstat BtUstat.PHASE (g.phase + 1) with boot := { s.dev.boot with stage := some { g with phase := g.phase + 1 } } } }
    if g.stop then
      let m := match g.phase with
        | 2 => s1.mem.eraseSlot slot 0 (min n slotSize)
        | 3 => ((d.stagePlan g f).take n).foldl (fun m p => m.program slot p.1 p.2) s1.mem
        | _ => s1.mem
      fail { s1 with mem := m } 3 0
    else if r.1.isNone then fail s1 2 rjREAD
    else if bad then fail s1 2 (if g.phase = 4 then rjHASH else rjREAD)
    else match g.phase with
    | 1 =>
      let h := headerReason f true
      let e := if h ≠ 0 then h else if g.len < hdTLEN f then rjSIZE else
        (let m := d.manifestReason f; if m.1 ≠ 0 then m.1 else dataReason f m.2)
      if e ≠ 0 then fail s1 2 e else on s1
    | 2 => on { s1 with mem := s1.mem.eraseSlot slot 0 slotSize }
    | 3 => on { s1 with mem := (d.stagePlan g f).foldl (fun m p => m.program slot p.1 p.2) s1.mem }
    | 4 => if (d.stagePlan g f).all (fun p => decide (s1.mem.slotWord slot p.1 = p.2)) then on s1 else fail s1 2 rjHASH
    | _ => fail { s1 with mem := s1.mem.program slot 1 (d.stageH1 g) } 1 0

/-- A staging that a reset or CUT meets ends with RES = 3 at its next word (R553), which nothing fixes within its phase (DESIGN CHOICE, log 115). -/
def State.stageCut (s : State) : State :=
  match s.dev.boot.stage with
  | none => s
  | some _ =>
    ({ s with dev := s.dev.stageStop.next } : State).stagePhase false (Config.freeWord s.dev.fresh).toNat

/-- Words of a journal entry on their way when a reset or CUT comes are torn: nothing fixes them (R195) (DESIGN CHOICE, log 38). -/
def Dev.tear (d : Dev) (a n : Nat) : Dev :=
  (List.range n).foldl (fun d k => d.next.rsWrite (jAdd a k) (Config.freeWord d.fresh)) d

/-- What is on its way to the record store when a reset or CUT comes: a PREP entry that is not durable is torn, and so is the first of the control
block copies; the MARK entry of a transaction past its apply port tick becomes durable, as its reservation guarantees (R170, R186, R195,
R611). -/
def Dev.tearAll (d : Dev) : Dev :=
  let d1 := match d.jnl.copies with
    | [] => d
    | (b, ws) :: _ => (List.range ws.length).foldl (fun d k => d.next.rsWrite (b + k) (Config.freeWord d.fresh)) d
  (List.range 32).foldl (fun d n =>
    let x := d.txn n
    match x.prep, x.mark with
    | some (a, _), none => if x.ready then d else d.tear a x.prepWs.length
    | _, some (a, _) => if x.done = none then d.jWrite a x.markWs else d
    | none, none => d) d1

/-- Every SRAM and the DRAM lose their contents; the code store and the xSPI memory keep theirs (DEDUCED, log 158). -/
def Mem.afterReset (m : Mem) (id size : Nat) : Mem :=
  { cells := m.cells.filter (fun e => decide (codeBase ≤ e.1 ∧ e.1 < codeBase + 0x800000 ∧ e.2 ≠ 0)), nor := m.nor,
    flips := m.flips.filter (fun e => decide (codeBase ≤ e.1 ∧ e.1 < codeBase + 0x800000 ∧ e.2 ≠ 0)),
    fills := [⟨0x001000000, 0x0080FFFFF, .lost id, 0⟩, ⟨isramOf 0, isramOf 64 - 1, .lost (id + 1), 0⟩,
      ⟨dramBase, dramBase + size - 1, .lost (id + 2), 0⟩] }

/-- A reset of everything but what it keeps. -/
def State.resetAll (s0 : State) (power fault restart : Bool) (step : Nat) : State :=
  let s := s0.stageCut
  let d := s.dev.tearAll
  { s with mem := s.mem.afterReset d.fresh d.dramSize, dev := { d with fresh := d.fresh + 3 }.afterReset power fault restart step }

/-- A reset that leads to a start at step 3; in the fault state it keeps FSTATE (R270). -/
def State.reset3 (s : State) : State := s.resetAll true s.dev.inFault false 3

/-- A fault restart goes ahead: FSTATE is left and FRST is set (R269). -/
def State.faultRestart (s : State) : State :=
  let s1 := s.resetAll true true true 3
  { s1 with dev := ((s1.dev.fp fcStat FcStat.FSTATE 0).fp fcStat FcStat.FRST 1).syncBalls }

/-- The quiet period is over: a recovery is counted, and the device restarts unless the limit is reached (R268, R269, R271). -/
def State.quietRestart (s : State) : State :=
  if s.dev.quietOver && s.dev.ff fcRec FcRec.AUTO then
    match s.dev.recover with
    | (true, d) => ({ s with dev := d } : State).faultRestart
    | (false, d) => { s with dev := d }
  else s

/-- FCREC.ICLR from partition `part` (R273): where the conditions of R268 but AUTO hold, the restart follows and is not
counted. None where it is refused. -/
def State.iclrWrite (s : State) (part : Nat) : Option State :=
  match s.dev.iclr part with
  | none => none
  | some d =>
    let s1 : State := { s with dev := d }
    some (if d.quietOver then s1.faultRestart else s1)

/-- A transaction past its apply port tick whose MARK entry is not durable holds a reset back (R602) (DESIGN CHOICE, log 165). -/
def Dev.markPending (d : Dev) : Bool := (List.range 32).any (fun n => decide (d.txState n = 4 ∧ (d.txn n).done = none))

/-- nRESET falls (R602): the bank charger stops and the device resets, once no MARK entry is pending. -/
def State.resetLow (s : State) : State :=
  let d := s.dev
  if !d.boot.on then s
  else if d.markPending then { s with dev := { d with boot := { d.boot with held := true } } }
  else
    let s1 := s.resetAll true d.inFault false 3
    let d1 := s1.dev.fp drStat DrStat.CHG 0
    let d2 : Dev := { d1 with boot := { d1.boot with low := true } }
    { s1 with dev := if d.inFault then (d2.fp fcStat FcStat.FRST 1).syncBalls else d2 }

/-- A reset that a MARK entry held back follows it. -/
def State.heldReset (s : State) : State := if s.dev.boot.held && !s.dev.markPending then s.resetLow else s

/-- nRESET rises: the straps are sampled and the start begins at step 3. -/
def Dev.resetHigh (d : Dev) (strap : Nat) : Dev :=
  if d.boot.on && d.boot.low then { d with boot := { d.boot with low := false, strap := strap, step := 3, t0 := d.tick } }
  else { d with boot := { d.boot with held := false } }

/-- CUT (R306): only the MRAM, the security unit's store and the fuses keep their contents. -/
def State.powerCut (s : State) : State :=
  if !s.dev.boot.on then s
  else
    let s1 := s.resetAll false false false 1
    { s1 with dev := { s1.dev with boot := { on := false, step := 1 } } }

/-! ### Image recovery (R550) -/

/-- Image recovery: cell 0 runs the recovery monitor as a single at M, from an op address that the spec does not give, with
Ethernet port 0 enabled; the bank is decided from the values of R16 (R321) (DEDUCED, log 103, DESIGN CHOICE, log 104). -/
def Dev.recovery (d : Dev) (noimg : Bool) : Dev :=
  let d1 := (d.fp btStat BtStat.EMODE 1).fb btStat BtStat.NOIMG noimg
  let d2 := ((d1.fp (etCfg 0) EtCfg.EN 1).fp (etCfg 0) EtCfg.LC d1.boot.line).setRole 0 0 0
  let d3 := d2.putCell 0 { d2.cell 0 with pc := (Config.freeWord d2.fresh).toNat % 2 ^ 36, st := 0x800000000 }
  ({ d3.next with boot := { d3.boot with step := 13, monitor := !d3.inFault, slot := none } } : Dev).bankRelease d3.rider.bank

/-- BTCMD.RESTART (R552): none where it is refused. -/
def State.restartCommand (s : State) (part : Nat) : Option State :=
  let d := s.dev
  if d.mayUpdate part then
    let a := d.actor part
    some ({ s with dev := (d.sessionActs part).audit { typ := 0x42, part := part, role := a.1, serial := a.2, new := d.rd btGen } } : State).reset3
  else none

end Sys2Proof.Machine
end

