-- ==== Sys2Proof/Machine/Io.lean ====
section
/-! DEFINITION. I/O accesses (R10-R18, R97, R98, R607): which register an access reaches, what a read answers and takes, what
each register's write does, and what answers an access that is refused. -/

namespace Sys2Proof.Machine

/-! ### Requesters (R97, R98, R481) -/

/-- The cell whose banked registers an access reaches: the lead of a cell's group, and for the debug port that of the cell that
CELL selected (DEDUCED, log 130). The image loader reaches a bank 64 that no cell has (DESIGN CHOICE, log 191). -/
def Dev.ioCell (d : Dev) : Requester → Nat
  | .cell c => d.lead c.val
  | .debug => d.lead d.sec.tap.sel
  | .loader => 64

/-- The requester's number among the holding registers of a block: 64 the debug port, 65 the image loader. -/
def Dev.ioSeat (d : Dev) : Requester → Nat
  | .cell c => d.lead c.val
  | .debug => 64
  | .loader => 65

/-- The requester's privilege: the debug port and the loader act at M. -/
def Dev.ioPl (d : Dev) : Requester → Nat
  | .cell c => (d.cell (d.lead c.val)).pl
  | _ => 2

/-- The requester's partition; 64 tells none (DEDUCED, log 119). -/
def Dev.ioPart (d : Dev) : Requester → Nat
  | .cell c => (d.cell (d.lead c.val)).part
  | _ => 64

/-- The request that an access makes at the sluices (R481). -/
def Dev.ioReq (d : Dev) (who : Requester) (k : Kind) (a : Nat) : Req :=
  match who with
  | .cell c => d.cellReq (d.lead c.val) k a 1
  | .debug => { cls := clsDEBUG, pl := 2, req := d.lead d.sec.tap.sel, kind := k, addr := a }
  | .loader => { cls := clsSYSTEM, pl := 2, kind := k, addr := a }

/-- The address of a register banked per cell (R18, R454, R573). -/
def perCell (r : Nat) : Bool :=
  decide (r < 0x10000 ∨ (0x010800 ≤ r ∧ r < 0x010804) ∨ (0x0D0010 ≤ r ∧ r < 0x0D0016))

/-- The key under which the register at `r` is held for an access of `who`: its bank, or the region or slot that a window
selects (R492, R573, R585). -/
def Dev.ioKey (d : Dev) (who : Requester) (r : Nat) : Nat :=
  if perCell r then 0x1000000 * (d.ioCell who + 1) + r
  else if 0x0A0000 ≤ r ∧ r < 0x0A0318 ∧ 1 ≤ r % 8 ∧ r % 8 ≤ 3 then
    let s := (r - 0x0A0000) / 8
    0x1000000 * (d.fg (slIdx s) SlIdx.IDX + 1) + r
  else if r = 0x0D0021 then skInfo (d.fg skIdx SkIdx.IDX)
  else r

/-! ### Field masks -/

/-- The bits of a register whose fields have an access code that `p` selects. -/
def RegDesc.mask (r : RegDesc) (p : Acc → Bool) : Word :=
  r.fields.foldl (fun w f => if p f.acc then w ||| f.span.mask else w) 0

/-- The lock over a register's RWL fields is set. -/
def Dev.regLocked (d : Dev) (r : Nat) : Bool :=
  match regLock r with
  | some (l, b) => (d.rd l).getLsbD b
  | none => false

/-- RO fields marked "img", which the loader writes (R543) (DEDUCED, log 121). -/
def imgRo (r : Nat) : Bool :=
  (0x050100 ≤ r && r < 0x050120) || (0x010300 ≤ r && r < 0x010340) ||
  (0x080000 ≤ r && r < 0x080200 && (r % 0x20 == 0 || r % 0x20 == 7)) ||
  [rsJhead, rsJlim, rsSeq, rsBoot, rsRepl, bCtl, btStat, btGen, btSvn, btXcfg, btDur].contains r || lockRegs.contains r

/-- A write sets the fields of this access code: `ro` tells whether it sets read-only ones too (R12, R16). -/
def Acc.sets (locked ro : Bool) : Acc → Bool
  | .rw => true
  | .tx => true
  | .rwl => !locked
  | .ro => ro
  | _ => false

/-- The value that a write of the bits `m` of `v` leaves in a register, special effects apart (R12, R607), and whether it would
change a locked field. -/
def Dev.merged (d : Dev) (who : Requester) (r key : Nat) (v m : Word) : Word × Bool :=
  let q := regDesc r
  let old := d.rd key
  let loader := decide (who = .loader)
  let locked := d.regLocked r && !loader
  let sets := m &&& q.mask (Acc.sets locked (loader && imgRo r))
  let clears := v &&& m &&& q.mask (fun a => a == .w1c)
  let kept := m &&& q.mask (fun a => a == .rwl)
  (((old &&& ~~~ sets) ||| (v &&& sets)) &&& ~~~ clears, locked && decide ((old ^^^ v) &&& kept ≠ 0))

/-- A written value with the fields that name absent resources at their present values (R3). -/
def Dev.keepAbsent (d : Dev) (r : Nat) (old new : Word) : Word :=
  (d.absentFields r new).foldl (fun w f => f.put w (f.get old)) new

/-- The level events that a register of a block feeds (R608). -/
def ioEvents (r : Nat) : List Nat :=
  let o := r % 0x10000
  match r / 0x10000 with
  | 0x02 => if o < 0x800 then [32 + o / 0x40] else []
  | 0x03 => if o < 0x400 then [64 + o / 0x10] else []
  | 0x04 => if o < 0x2000 then [128 + o / 0x100] else if 0x4000 ≤ o ∧ o < 0x4100 then [160 + (o - 0x4000) / 0x10] else []
  | 0x05 => (List.range 8).map (fun i => 176 + i)
  | 0x06 => [244]
  | 0x07 => (List.range 8).map (fun i => 184 + i)
  | 0x0A => (List.range 8).map (fun i => 220 + i)
  | 0x0B => if o < 0x800 then (List.range 8).map (fun i => 192 + 8 * (o / 0x400) + i) else []
  | 0x0C => [208 + o / 0x20]
  | 0x0D => (List.range 8).map (fun i => 212 + i)
  | _ => []

/-- Raise the level events of a register's block that hold. -/
def Dev.relevelAt (d : Dev) (r : Nat) : Dev := (ioEvents r).foldl (fun d e => d.relevel e) d

/-! ### Writes, block by block: whether the access completes with an I/O error, and the machine after it. `new` is the merged
value of the register, `v` the written bits. -/

/-- An access that may be refused. -/
def orRefused (d : Dev) : Option Dev → Bool × Dev
  | some d1 => (false, d1)
  | none => (true, d)

/-- Angle domains (R42, R55, R64, R69, R73-R83). While EN is 1 a write of ADnSRC or ADnINC is in error even where it would change nothing and the
register is locked too (R42, R607) (DESIGN CHOICE, log 192). -/
def Dev.wrDomain (d : Dev) (r : Nat) (new v : Word) : Bool × Dev :=
  let n := r % 0x10000 / 0x40
  let x := r % 0x40
  if 0x020800 ≤ r then (false, d.wr r new)
  else if x = 0 then
    let was := d.ff r AdCtl.EN
    let en := decide (AdCtl.EN.get new ≠ 0)
    let d1 := d.wr r (AdCtl.EN.put new (b2n was))
    if en && !was then
      let src := d.fg (adSrc n) AdSrc.DSRC
      if d.fg (adSrc n) AdSrc.TYPE = 8 ∧ d.fg (adSrc src) AdSrc.TYPE = 8 then (true, d1) else (false, d1.enableDomain n)
    else if !en && was then (false, d1.disableDomain n)
    else (false, d1)
  else if x = 1 then
    if d.ff (adCtl n) AdCtl.EN then (true, d)
    else (false, d.wr r (if 9 ≤ AdSrc.TYPE.get new then AdSrc.TYPE.put new (d.fg r AdSrc.TYPE) else new))
  else if x = 0xA then (if d.ff (adCtl n) AdCtl.EN then (true, d) else (false, d.wr r new))
  else if x = 0xF then
    if d.ff (adCtl n) AdCtl.EN then
      let y := d.dom n
      (false, d.putDom n { y with zero := y.zero || decide (AdCmd.ZERO.get v ≠ 0), clrrev := y.clrrev || decide (AdCmd.CLRREV.get v ≠ 0),
                                  snap := y.snap || decide (AdCmd.SNAP.get v ≠ 0) })
    else (false, d)
  else if 0x20 ≤ x ∧ x % 4 = 0 then
    let s := (x - 0x20) / 4
    (false, (d.wr r new).putSlot n s { d.slot n s with wVal := (d.slot n s).wVal ++ [⟨new, 2⟩] })
  else if 0x20 ≤ x ∧ x % 4 = 2 then
    let s := (x - 0x20) / 4
    let c := AdSlotCtl.LEAD.put new (min 500000 (AdSlotCtl.LEAD.get new))
    (false, (d.wr r c).putSlot n s { d.slot n s with wCtl := (d.slot n s).wCtl ++ [⟨c, 2⟩] })
  else if x = 2 ∧ ¬ (AdStat.CAUSE.get new).testBit causeINTEG then (false, (d.wr r new).dropSrc (96 + n) n)
  else (false, d.wr r new)

/-- RUN of a timer is claimed by a transaction (R103, R182) (DEDUCED, log 126). -/
def Dev.runClaimed (d : Dev) (n : Nat) : Bool := decide (d.claimedMask (tmCtl n) ≠ 0)

/-- Interval timers (R87-R94, R103). TMnRLD and the compares read as written before they arrive (DEDUCED, log 28). -/
def Dev.wrTimer (d : Dev) (r : Nat) (new v : Word) : Bool × Dev :=
  let o := r % 0x10000
  let n := o / 0x10
  if 0x400 ≤ o then
    let ts := (bitsOf (TmGo.GO.get v) 32).map (fun i => 32 * (o - 0x400) + i)
    if ts.any d.runClaimed then (true, d) else (false, ts.foldl (fun d t => d.setRun t) d)
  else match o % 0x10 with
  | 0x0 =>
    let was := d.tmRun n
    let new := if TmCtl.MODE.get new = 3 then TmCtl.MODE.put new (d.fg r TmCtl.MODE) else new
    if was && decide (TmCtl.MODE.get new ≠ d.fg r TmCtl.MODE) then (true, d)
    else
      let d1 := d.wr r (TmCtl.RUN.put new (b2n was))
      let d2 := if TmCtl.PSC.get new ≠ d.fg r TmCtl.PSC ∧ !d.counting n then d1.restartPsc n else d1
      if TmCtl.RUN.get new ≠ 0 then (false, d2.setRun n)
      else (false, (d2.clearRun n).putTmr n { (d2.clearRun n).tmr n with run0 := true })
  | 0x4 => (false, if TmCmd.RELOADNOW.get v ≠ 0 then d.reloadNow n else d)
  | 0x6 => if d.tmRun n then (true, d) else (false, d.wr r new)
  | 0x8 => (false, (d.wr r new).putTmr n { d.tmr n with rldW := some new })
  | 0xA => (false, (d.wr r new).cmpWrite n 0 new)
  | 0xC => (false, (d.wr r new).cmpWrite n 1 new)
  | _ => (false, d.wr r new)

/-- A port is bound by a channel other than `n` (R138). -/
def Dev.boundElsewhere (d : Dev) (n pm : Nat) : Bool :=
  (List.range 16).any (fun k => decide (k ≠ n) && decide (d.fg (chPorts k) ChPorts.PM &&& pm ≠ 0))

/-- Field ports (R114, R125, R131, R136, R155, R160, R162). -/
def Dev.wrPort (d : Dev) (r : Nat) (new v : Word) : Bool × Dev :=
  let p := r % 0x10000 / 0x100
  let x := r % 0x100
  match x with
  | 0x00 =>
    let w := if 9 ≤ FpCfg.MODE.get new then FpCfg.MODE.put new (d.fpMode p) else new
    if FpCfg.MODE.get w = d.fpMode p then (false, d.wr r w)
    else if d.fpState p ≠ 0 then (true, d) else (false, (d.wr r w).wr (fpRes p) 0)
  | 0x01 =>
    (false, d.wr r (FpLim.UO.put (FpLim.IO.put (FpLim.PO.put new (min 130 (FpLim.PO.get new))) (min 110 (FpLim.IO.get new)))
      (min 280 (FpLim.UO.get new))))
  | 0x03 => (false, d.outWrite p new 1)
  | 0x07 =>
    match v.toNat % 16 with
    | 8 => (d.portEN p).swap
    | 4 => (false, d.portDIS p)
    | 2 => (d.portRESTORE p).swap
    | 1 => (false, d.portISOL p)
    | 0 => (false, d)
    | _ => (true, d)
  | 0x0B => (false, (d.wr r new).syncUart p)
  | 0x0C => (false, if FpData.TXV.get v ≠ 0 then d.txvPush p (FpData.TXD.get v) else d)
  | 0x10 => (false, d.seqControl p new)
  | _ =>
    if (0x18 ≤ x ∧ x < 0x20) ∨ 0x40 ≤ x then
      if d.ff (fpSeqs p) FpSeqs.HLT then (false, d.wr r new) else (true, d)
    else (false, d.wr r new)

/-- The binding fields of CHnCTL (R138). -/
def chBinding : Word :=
  ChCtl.ILKE.mask ||| ChCtl.ILKP.mask ||| ChCtl.ILKT.mask ||| ChCtl.ILKL.mask ||| ChCtl.MDOM.mask

/-- Channels (R138, R140, R143, R167) (DEDUCED, log 125). -/
def Dev.wrChannel (d : Dev) (who : Requester) (r : Nat) (new v : Word) : Bool × Dev :=
  let n := (r % 0x10000 - 0x4000) / 0x10
  match r % 0x10 with
  | 0 =>
    let was := d.ff r ChCtl.EN
    let en := decide (ChCtl.EN.get new ≠ 0)
    if was && decide ((new ^^^ d.rd r) &&& chBinding ≠ 0) then (true, d)
    else
      let d1 := d.wr r (ChCtl.EN.put new (b2n was))
      if en && !was then orRefused d (d1.chEnable n)
      else if !en && was then orRefused d (d1.chDisable n)
      else (false, d1)
  | 1 => if d.ff (chCtl n) ChCtl.EN || d.boundElsewhere n (ChPorts.PM.get new) then (true, d) else (false, d.wr r new)
  | 3 => (false, (d.wr r new).chCommand n (ChCmd.CMD.get new))
  | 4 => if ChRet.CLR.get v ≠ 0 then orRefused d (d.chRetClear n (d.ioPart who)) else (false, d)
  | _ => (false, d.wr r new)

/-- The TXU (R202) and the record store (R203, R611). -/
def Dev.wrTxu (d : Dev) (r : Nat) (new v : Word) : Bool × Dev :=
  if r = txCmd then (false, if TxCmd.KILL.get v ≠ 0 then d.txAbort (TxCmd.TXN.get v) abcKILL else d)
  else if r = rsJtail then orRefused d (d.tailWrite (RsJtail.TAIL.get new))
  else if r = rsJcfg then (false, (d.wr r new).jMark)
  else (false, d.wr r new)

/-- The ditch rider (R300, R307, R320, R326). -/
def Dev.wrRider (d : Dev) (r : Nat) (new v : Word) : Bool × Dev :=
  let d1 := (d.wr r new).accounts
  (false, if r = drCtl ∧ DrCtl.REMEAS.get v ≠ 0 then d1.remeas else d1)

/-- Furrows (R228, R240, R241, R249). -/
def Dev.wrFurrow (d : Dev) (who : Requester) (r : Nat) (new v : Word) : Bool × Dev :=
  let f := r % 0x10000 / 0x20
  if r = furLock then (false, d.wr r new)
  else match r % 0x20 with
  | 1 =>
    let part := match who with | .cell _ => some (d.ioPart who) | _ => none
    (false, d.furCommand f (FuCmd.CMD.get v) (FuCmd.SRC.get v) (FuCmd.TGT.get v) (FuCmd.NROLE.get v) part (d.ioPl who))
  | 7 =>
    if FuRet.CLR.get v ≠ 0 then orRefused d (d.cellRetClear f (FuRet.CLRM.get v) (d.ioPart who)) else (false, d.wr r new)
  | 8 => (false, d.clockWrite f (FuClk.FREQ.get new))
  | 9 => (false, if FuCtest.GO.get v ≠ 0 then (d.wr r new).ctestGo f else d.wr r new)
  | _ => (false, d.wr r new)

/-- The fault collector but for FCREC (R254, R262, R263, R292). -/
def Dev.wrFault (d : Dev) (who : Requester) (r : Nat) (new v : Word) : Bool × Dev :=
  if r = fcCtl then (false, (d.wr r new).syncBalls)
  else if r = fcStat then
    let d1 := d.wr r (FcStat.CF.put new (d.fg r FcStat.CF))
    (false, if FcStat.CF.get v ≠ 0 then d1.cfClear else d1)
  else if r = fcFeed then orRefused d (d.feed (d.ioPart who) (d.ioPl who) (FcFeed.KEY.get v))
  else if r = fcSwf then
    if d.ioPl who < 2 then (true, d)
    else
      let d1 := if FcSwf.DEV.get v ≠ 0 then d.swfDev else d
      (false, if FcSwf.CH.get v ≠ 0 then d1.swfCh (FcSwf.CHM.get v) else d1)
  else if 0x090040 ≤ r ∧ r < 0x090050 then (false, d.clsWrite (r - 0x090040) new)
  else (false, d.wr r new)

/-- The sluice windows (R492-R495, R499). -/
def Dev.wrSluice (d : Dev) (who : Requester) (r : Nat) (new v : Word) : Bool × Dev :=
  let s := (r - 0x0A0000) / 8
  if r < 0x0A0320 then
    if d.ioPl who < 2 then (true, d)
    else match r % 8 with
    | 1 => orRefused d (d.slWrite s slBase true v)
    | 2 => orRefused d (d.slWrite s slPerm false v)
    | 3 => orRefused d (d.slAttrWrite s v)
    | 4 => (false, d.wr r (if SlViol.V.get v ≠ 0 then SlViol.CNT.put new 0 else new))
    | _ => (false, d.wr r new)
  else (false, d.wr r new)

/-- Ethernet but for the ring commands (R501, R502, R504, R512, R517, R522-R524) (DEDUCED, log 127). -/
def Dev.wrEther (d : Dev) (r : Nat) (new : Word) : Bool × Dev :=
  let o := r % 0x10000
  let p := o / 0x400
  let x := o % 0x400
  let k := x % 0x40 / 8
  if 0x800 ≤ o then (false, d.wr r new)
  else if x = 0 then
    let w := if 4 ≤ EtCfg.LC.get new then EtCfg.LC.put new (d.fg r EtCfg.LC) else new
    let w := if p = 1 || d.isH then EtCfg.PRP.put w (d.fg r EtCfg.PRP) else w
    if d.ff r EtCfg.EN ∧ (w ^^^ d.rd r) &&& (EtCfg.LC.mask ||| EtCfg.PRP.mask ||| EtCfg.ANEG.mask) ≠ 0 then (true, d)
    else (false, d.wr r w)
  else if 0x40 ≤ x ∧ x < 0xC0 then
    let tx := decide (x < 0x80)
    let cfg := if tx then trCfg p k else rrCfg p k
    let en := d.ff cfg TrCfg.EN
    if x % 8 = 0 then (if en then (true, d) else (false, d.wr r new))
    else if x % 8 = 1 then
      let on := decide (TrCfg.EN.get new ≠ 0)
      if en && decide (TrCfg.LOGN.get new ≠ d.fg cfg TrCfg.LOGN) then (true, d)
      else if en && !on && tx && d.heldClaimed d.frameClaimed p k then (true, d)
      else (false, if on && !en then (d.wr r new).ringStart p k tx else d.wr r new)
    else (false, d.wr r new)
  else if x = 0x202 then (false, d.wr r (new &&& ~~~ MsRxsci.V.mask))
  else if x = 0x204 then (false, d.txSaWrite p new)
  else (false, d.wr r new)

/-- PTP clocks (R518, R520). -/
def Dev.wrPtp (d : Dev) (r : Nat) (new v : Word) : Bool × Dev :=
  let p := r % 0x10000 / 0x20
  match r % 0x20 with
  | 0 => (false, (d.wr r (PtCtl.LOCK.put new (d.fg r PtCtl.LOCK))).ptpLock p (decide (PtCtl.LOCK.get new ≠ 0)))
  | 2 => (false, d.ptpAddWrite p (PtAdd.ADD.get new))
  | 6 => (false, d.ptpStepWrite p v)
  | _ => (false, d.wr r new)

/-- The inputs that TPSTAT shows bad. -/
def Dev.tamperNow (d : Dev) : Nat := d.fg tpStat TpStat.MESH + 16 * d.fg tpStat TpStat.SW + 64 * d.fg tpStat TpStat.ENV

/-- The security unit (R569, R573, R578) (DEDUCED, log 124). -/
def Dev.wrSecurity (d : Dev) (who : Requester) (r key : Nat) (new v : Word) : Bool × Dev :=
  if 0x0D0010 ≤ r ∧ r < 0x0D0016 then
    match who with
    | .cell _ =>
      if d.ioPl who = 0 then (true, d)
      else if r = 0x0D0010 ∧ SjCtl.GO.get v ≠ 0 then
        if d.ff (sjStat (d.ioCell who)) SjStat.BUSY then (true, d)
        else (false, (d.wr key new).jobStart (d.ioCell who) new)
      else (false, d.wr key new)
    | _ => (true, d)
  else if r = auExp then orRefused d (d.exportWrite (AuExp.EXP.get new))
  else if r = auCfg then (false, (d.wr r new).auSync false)
  else if r = tpCmd then
    if TpCmd.CLR.get v ≠ 0 then orRefused d (d.tamperClear (d.ioPart who) d.tamperNow) else (false, d)
  else (false, d.wr key new)

/-- The event controller and the cell-local block (R369, R436, R449, R453, R455). A level that holds raises its event under a new route at once
(DEDUCED, log 188). -/
def Dev.wrEvent (d : Dev) (who : Requester) (r key : Nat) (new v : Word) : Bool × Dev :=
  let low := decide (d.ioPl who = 0)
  if r < 0x10000 then (if low then (true, d) else (false, d.wr key new))
  else if r = ecDb then
    if low then (true, d) else (false, (bitsOf (EcDb.RING.get v) 8).foldl (fun d k => d.raise (236 + k)) d)
  else if 0x010400 ≤ r ∧ r < 0x010600 then
    let c := (r - 0x010400) / 8
    let k := (r - 0x010400) % 8
    (false, (bitsOf (EcPend.PEND.get v &&& d.fg r EcPend.PEND) 32).foldl (fun d b => d.clearPend (32 * k + b) c) d)
  else if r = 0x010803 then
    if low then (true, d)
    else (false, if EcXctl.DROP.get v ≠ 0 then d.dropHeld (d.ioCell who) else d)
  else if 0x010000 ≤ r ∧ r < 0x010100 then (false, (d.wr key new).relevel (r - 0x010000))
  else (false, d.wr key new)

/-- Debug registers (R582, R587): DBCTL takes writes from the debug port alone. The FACTORY state is not left by EXIT (R580). -/
def Dev.wrDebug (d : Dev) (who : Requester) (r : Nat) (new v : Word) : Bool × Dev :=
  if r = dbCtl then
    if who = .debug then
      let d1 := d.wr r new
      (false, if DbCtl.EXIT.get v ≠ 0 ∧ d.fg dbStat DbStat.STATE ≠ 3 then d1.debugLeave else d1)
    else (true, d)
  else (false, d.wr r new)

/-- The registers whose writes reach no memory. -/
def Dev.regWrite (d : Dev) (who : Requester) (r key : Nat) (new v : Word) : Bool × Dev :=
  match r / 0x10000 with
  | 0x00 => d.wrEvent who r key new v
  | 0x01 => d.wrEvent who r key new v
  | 0x02 => d.wrDomain r new v
  | 0x03 => d.wrTimer r new v
  | 0x04 =>
    let o := r % 0x10000
    if o < 0x2000 then d.wrPort r new v
    else if 0x4000 ≤ o ∧ o < 0x4100 then d.wrChannel who r new v
    else (false, d.wr r new)
  | 0x05 => d.wrTxu r new v
  | 0x06 => d.wrTxu r new v
  | 0x07 => d.wrRider r new v
  | 0x08 => d.wrFurrow who r new v
  | 0x09 => d.wrFault who r new v
  | 0x0A => d.wrSluice who r new v
  | 0x0B => d.wrEther r new
  | 0x0C => d.wrPtp r new v
  | 0x0D => d.wrSecurity who r key new v
  | 0x11 => d.wrDebug who r new v
  | _ => (false, d.wr key new)

/-! ### Writes that reach memory -/

/-- Answer of an operation that may be refused. -/
def orKept (s : State) : Option State → Bool × State
  | some s1 => (false, s1)
  | none => (true, s)

/-- A write of TRCMD (R512) (DEDUCED, log 120). -/
def State.wrRing (s : State) (r : Nat) (v : Word) : Bool × State :=
  let p := r % 0x10000 / 0x400
  let k := r % 0x40 / 8
  let rel := decide (TrCmd.REL.get v ≠ 0)
  let can := decide (TrCmd.CAN.get v ≠ 0)
  if !rel && !can then (false, s)
  else if !s.dev.ff (trHead p k) TrHead.HELD || s.dev.heldClaimed s.dev.frameClaimed p k then (true, s)
  else if can then (false, s.cancel p k)
  else (false, s.release p k false)

/-- A write of BTCMD (R551, R552) (DEDUCED, log 123). -/
def State.wrBoot (s : State) (who : Requester) (v : Word) : Bool × State :=
  let part := s.dev.ioPart who
  let pl := s.dev.ioPl who
  if BtCmd.STAGE.get v ≠ 0 then
    match s.dev.stageStart part pl (BtCmd.TRIALN.get v) with
    | some d => (false, { s with dev := d })
    | none => (true, s)
  else if BtCmd.CONFIRM.get v ≠ 0 then orKept s (s.stageConfirm part)
  else if BtCmd.RESTART.get v ≠ 0 then orKept s (s.restartCommand part)
  else if BtCmd.ABORT.get v ≠ 0 then
    if s.dev.hasRight part rightUPDATE then (false, { s with dev := (s.dev.sessionActs part).stageStop }) else (true, s)
  else (false, s)

/-- A write of SSCMD (R560, R561): refused from U, and from a requester that has no partition. -/
def State.wrSession (s : State) (who : Requester) (v : Word) : Bool × State :=
  let part := s.dev.ioPart who
  let pl := s.dev.ioPl who
  let k := SsCmd.SLOT.get v
  if pl = 0 ∨ part = 64 then (true, s)
  else if SsCmd.OPEN.get v ≠ 0 then (false, s.ssOpen part pl k)
  else if SsCmd.PROVE.get v ≠ 0 then (false, s.ssProve part pl k)
  else if SsCmd.CLOSE.get v ≠ 0 then (false, { s with dev := s.dev.ssClose part k })
  else (false, s)

/-- A write of the register at `r`. -/
def State.regWrite (s : State) (who : Requester) (r key : Nat) (new v : Word) : Bool × State :=
  if r = fcRec then
    let s1 : State := { s with dev := s.dev.wr r new }
    if FcRec.ICLR.get v ≠ 0 then
      match s1.iclrWrite (s.dev.ioPart who) with
      | some s2 => (false, s2)
      | none => (true, s1)
    else (false, s1)
  else if r = bCtl ∧ BCtl.GO.get v ≠ 0 then (false, s.bistGo new (s.dev.ioPart who) (s.dev.ioPl who))
  else if 0x0B0040 ≤ r ∧ r < 0x0B0800 ∧ 0x40 ≤ r % 0x400 ∧ r % 0x400 < 0x80 ∧ r % 8 = 4 then s.wrRing r v
  else if r = btCmd then s.wrBoot who v
  else if r = ssCmd then s.wrSession who v
  else if r = ssCfg then (false, { s with dev := (s.dev.wr r new).idleAll })
  else
    let a := s.dev.regWrite who r key new v
    (a.1, { s with dev := a.2 })

/-! ### Whole accesses -/

/-- The register that an access reaches: none at an unassigned address and in a unit that the order code lacks, where reads
give zero and writes are ignored (R2, R15). -/
def Dev.ioReg (d : Dev) (a : Nat) : Option Nat := if d.isH && absentOnH a then none else regAt a

/-- The holding register of a block for a requester (R98). -/
def Dev.holdOf (d : Dev) (who : Requester) (r : Nat) : Nat := r / 0x10000 * 256 + d.ioSeat who

/-- The commit of a write: claims, locks, then the register's own rules (R12, R98, R607). -/
def State.ioCommit (s : State) (who : Requester) (r : Nat) (v m : Word) : Bool × State :=
  let d := s.dev
  if s.dev.claimedMask r &&& m ≠ 0 ∧ who ≠ .loader then (true, s)
  else
    let key := d.ioKey who r
    let n := d.merged who r key v m
    let a := s.regWrite who r key (d.keepAbsent r (d.rd key) n.1) (v &&& m)
    (a.1 || n.2, { a.2 with dev := a.2.dev.relevelAt r })

/-- A write access of 36 bits: whether it completes with an I/O error, and the machine (DEDUCED, log 122). A write from U to the cell-local block is in error
at once, to a high half too (R369). -/
def State.ioWrite (s : State) (who : Requester) (a : Nat) (v : Half) : Bool × State :=
  match s.dev.askIo (s.dev.ioReq who .write a) with
  | (false, d) => (true, { s with dev := d })
  | (true, d) =>
    let s1 : State := { s with dev := d }
    match d.ioReg a with
    | none => (false, s1)
    | some r =>
      let h := d.holdOf who r
      if (regDesc r).wide then
        if a = r then
          let x := Tab.get {} d.holds h
          if x.v ∧ x.addr = r then
            ({ s1 with dev := { d with holds := Tab.set {} d.holds h {} } } : State).ioCommit who r (joinHalves x.data v) (BitVec.allOnes 72)
          else s1.ioCommit who r (ofHalf v) 0xFFFFFFFFF
        else if r < 0x10000 ∧ d.ioPl who = 0 then (true, s1)
        else (false, { s1 with dev := { d with holds := Tab.set {} d.holds h ⟨true, r, v⟩ } })
      else s1.ioCommit who r (ofHalf v) 0xFFFFFFFFF

/-- What a register shows: its stored value, and the fields that other state gives. WO fields read as zero.
(DESIGN CHOICE, log 71, DESIGN CHOICE, log 72). -/
def Dev.ioShown (d : Dev) (r key : Nat) : Word :=
  let w := d.rd key
  let o := r % 0x10000
  match r / 0x10000 with
  | 0x00 => if o = 2 ∨ o = 6 then (if o = 6 then ofHalf (loHalf (Config.freeWord d.fresh)) else Config.freeWord d.fresh) else w
  | 0x04 => if o < 0x2000 ∧ o % 0x100 = 0xC then d.fpDataValue (o / 0x100) else w
  | 0x08 => if o < 0x200 ∧ o % 0x20 = 2 then FuStat.BUSY.put w (b2n (d.furBusy (o / 0x20))) else w
  | 0x09 =>
    if r = fcStat then FcStat.QREM.put w (if d.inFault then d.quietLeft else 0)
    else if 0x60 ≤ o ∧ o < 0x66 then FcAct.ACT.put w (d.actBits (o - 0x60)) else w
  | 0x0A => if r < 0x0A0318 ∧ o % 8 = 0 then SlIdx.INFL.put w (d.inflight (o / 8)) else w
  | 0x0E =>
    if r = btUstat ∧ BtUstat.BUSY.get w ≠ 0 then BtUstat.PCT.put w ((Config.freeWord d.fresh).toNat % 101)
    else if 0x110 ≤ o ∧ o < 0x120 ∧ o % 4 = 0 then SsKstat.IDLE.put w (d.idleLeft ((o - 0x110) / 4))
    else w
  | 0x11 =>
    if r = dbStat then DbStat.LOCKT.put w ((d.sec.tap.until' + 99999999 - d.tick) / 100000000) else w
  | _ => if r % 0x1000000 = 0x0B0202 ∨ r % 0x1000000 = 0x0B0602 then w &&& ~~~ MsRxsci.V.mask else w

/-- A read of the register at `r` clears its RC fields (R13); a received octet leaves its FIFO (R160). -/
def Dev.ioTake (d : Dev) (r key : Nat) : Dev :=
  let o := r % 0x10000
  if r / 0x10000 = 4 ∧ o < 0x2000 ∧ o % 0x100 = 0xC then d.fpDataTake (o / 0x100)
  else if r = 2 ∨ r = 6 ∨ r = btUstat then d.next
  else d.wr key (d.rd key &&& ~~~ ((regDesc r).mask (fun a => a == .rc)))

/-- A read brings a measured quantity up to date: a port's delivered energy, the load of the field rail (R129, R168) (DESIGN CHOICE, log 176). -/
def Dev.ioSample (d : Dev) (r : Nat) : Dev :=
  let o := r % 0x10000
  if r = fpRail then (d.fp fpRail FpRail.LOAD ((Config.freeWord d.fresh).toNat % 4096)).next
  else if r / 0x10000 = 4 ∧ o < 0x2000 ∧ o % 0x100 = 0xE then d.ejSample (o / 0x100) else d

/-- The HILAT of a requester (R97). -/
def Dev.hilatOf (d : Dev) : Requester → Hilat
  | .cell c => (d.cell (d.lead c.val)).hilat
  | .debug => Tab.get {} d.hilats 0
  | .loader => Tab.get {} d.hilats 1

def Dev.putHilat (d : Dev) (who : Requester) (h : Hilat) : Dev :=
  match who with
  | .cell c => d.putCell (d.lead c.val) { d.cell (d.lead c.val) with hilat := h }
  | .debug => { d with hilats := Tab.set {} d.hilats 0 h }
  | .loader => { d with hilats := Tab.set {} d.hilats 1 h }

/-- A read access: the value, whether it completes with an I/O error, and the machine. -/
def Dev.ioRead (d : Dev) (who : Requester) (a : Nat) : Half × Bool × Dev :=
  match d.askIo (d.ioReq who .read a) with
  | (false, d1) => (0, true, d1)
  | (true, d1) =>
    match d1.ioReg a with
    | none => (0, false, d1)
    | some r =>
      let d1 := d1.ioSample r
      let key := d1.ioKey who r
      let w := d1.ioShown r key
      if (regDesc r).wide then
        if a = r then (loHalf w, false, (d1.ioTake r key).putHilat who ⟨true, r + 1, hiHalf w⟩)
        else
          let h := d1.hilatOf who
          if h.v ∧ h.addr = a then (h.data, false, d1.putHilat who { h with v := false })
          else (hiHalf w, false, if r = 2 then d1.next else d1)
      else (loHalf w, false, d1.ioTake r key)

/-- The access as a command: its answer is kept. -/
def State.writeAccess (s : State) (who : Requester) (a : Nat) (v : Half) : State :=
  let x := s.ioWrite who a v
  { x.2 with dev := { x.2.dev with resp := ⟨0, x.1⟩ } }

def State.readAccess (s : State) (who : Requester) (a : Nat) : State :=
  let x := s.dev.ioRead who a
  { s with dev := { x.2.2 with resp := ⟨x.1, x.2.1⟩ } }

end Sys2Proof.Machine
end

