-- ==== Sys2Proof/Machine/CellIssue.lean ====
section
/-! DEFINITION. A bundle from its ops to its issue: checks, faults, holds, effects, completion (R354-R360, R372-R409, R431-R438).
`c` is always a lead. -/

namespace Sys2Proof.Machine

/-! ### The bundle -/

/-- Op words that an op occupies: LIMM has a payload (R356). -/
def Op.words (o : Op) : Nat := match o.k with | .limm => 2 | _ => 1

/-- Op words of a bundle. -/
def opsLen (l : List Op) : Nat := l.foldl (fun n o => n + o.words) 0

/-- The ops of a bundle at `a`, each with its op address. -/
def placed (a : Nat) : List Op → List (Op × Nat)
  | [] => []
  | o :: l => (o, a) :: placed (opAdd a o.words) l

def Op.isBlk (o : Op) : Bool := match o.k with | .blk _ => true | _ => false
def Op.isWaitc (o : Op) : Bool := match o.k with | .waitc => true | _ => false
/-- A branch, CALL or RET of R398. -/
def Op.isBranch (o : Op) : Bool :=
  match o.k with | .br => true | .call => true | .jr => true | .callr => true | .ret => true | _ => false
/-- An op followed by a delay bundle (R358). -/
def Op.delays (o : Op) : Bool := o.isBranch || (match o.k with | .retx => true | _ => false)
/-- An op that no delay bundle may hold (R355). -/
def Op.undelayed (o : Op) : Bool :=
  o.delays || o.isBlk || (match o.k with | .loop => true | .wfe => true | .waitc => true | _ => false)

/-- Slots rise strictly. -/
def slotsRise : List Op → Bool
  | [] => true
  | [_] => true
  | a :: b :: l => decide (a.slot < b.slot) && slotsRise (b :: l)

/-- A bundle that breaks the format (R355): LIMM outside M, or with its own STOP bit, which `s2` holds. -/
def Cell.illegalBundle (x : Cell) : Bool :=
  !slotsRise x.bundle || decide (4 < x.bundle.length) ||
  x.bundle.any (fun o => decide (o.k = .limm) && decide (o.slot ≠ 1 ∨ o.s2 ≠ 0)) ||
  (decide (x.delay ≠ none) && x.bundle.any Op.undelayed) ||
  (x.len && decide (x.loopEnds x.pc ≠ none) && x.bundle.any Op.isBranch)

/-- The ops that act: their predicate is true; after a return with RESUME, the block op and the WAITC alone (R357, R395, R438). -/
def Cell.live (x : Cell) : List (Op × Nat) :=
  (placed x.pc x.bundle).filter (fun q => x.rf q.1.pred && (!x.resume || q.1.isBlk || q.1.isWaitc))

/-! ### Fault causes of the ops (R434) -/

/-- The registers that a block op updates (R393). -/
def blkRegs (f : Blk) (d s1 s2 : Nat) : List Nat :=
  match f with
  | .bfill => [d, s2]
  | .crcb => [d, s1, s2]
  | _ => [d, s1, s2]

/-- Distinct, and none of them G0. -/
def distinctRegs : List Nat → Bool
  | [] => true
  | r :: l => decide (r ≠ 0) && !l.contains r && distinctRegs l

/-- An invalid operand value (R390, R393, R399). -/
def Op.illegal (o : Op) : Bool :=
  match o.k with
  | .ld w _ => !(w.withK o.imm).valid
  | .st w => !(w.withK o.imm).valid
  | .blk f => !distinctRegs (blkRegs f o.d o.s1 o.s2)
  | .loop => decide (o.s2 = 3)
  | _ => false

/-- A privileged op at level `pl` (R331, R345, R366, R391, R400, R406). -/
def Op.denied (o : Op) (pl : Nat) (v1 : Word) : Bool :=
  match o.k with
  | .mfs => sprReadDenied pl (o.imm % 128)
  | .mts => sprWriteDenied pl (o.imm % 128) v1
  | .ist => decide (pl = 0)
  | .dcinva => decide (pl = 0)
  | .tlbi k => decide (pl < if k < 2 then 1 else 2)
  | .sysc => decide (pl = 0 ∧ o.imm % 2 = 1)
  | .retx => decide (pl = 0)
  | _ => false

/-- The address of IST (R404). -/
def istAddr (v1 : Word) (imm : Nat) : Nat := addr36 v1 (sxNat 14 imm)

/-- The first cause among those of the ops, with the address that it records (R434, items 2 to 7). -/
def Cell.opFault (x : Cell) : Option (Nat × Nat) :=
  let l := x.live.map Prod.fst
  let v1 := fun (o : Op) => x.rg o.s1
  if x.illegalBundle then some (cBUNDLE, 0)
  else if l.any Op.illegal then some (cOP, 0)
  else if l.any (fun o => o.denied x.pl (v1 o)) then some (cPRIV, 0)
  else if l.any (fun o => match o.k with
      | .call => x.rsw && decide (x.rdepth = 16)
      | .callr => x.rsw && decide (x.rdepth = 16)
      | _ => false) then some (cRSOV, 0)
  else if l.any (fun o => decide (o.k = .ret ∧ x.rdepth = 0)) then some (cRSUN, 0)
  else if l.any (fun o => decide (o.k = .brk)) then some (cBRK, 0)
  else match l.find? (fun o => decide (o.k = .ist) && decide (0x8000 ≤ istAddr (v1 o) o.imm)) with
    | some o => some (cIACC, istAddr (v1 o) o.imm)
    | none => none

/-- The debug state may halt, step and read the cells of partition `p` (R580). -/
def Dev.debugReaches (d : Dev) (p : Nat) : Bool :=
  let st := d.fg dbStat DbStat.STATE
  decide (st ≠ 0) && (decide (st ≠ 1) || !d.sealedPart p)

/-- A BRK halts the group instead of raising its exception (R408, R580, R584): in a debug state that may halt it, with BRKH (DEDUCED, log 145). -/
def Dev.brkHalts (d : Dev) (c : Nat) : Bool :=
  d.ff dbCtl DbCtl.BRKH && d.debugReaches (d.cell c).part

/-! ### Data addresses -/

/-- The data access of an op: 0 read, 1 write, 3 DCINV, and its address (R373, R389-R391, R176). -/
def Cell.dataOf (x : Cell) (o : Op) : Option (Nat × Nat) :=
  let g1 := x.rg o.s1
  let a := fun (w : Wid) => match w with | .word => addr36 g1 (sxNat 14 o.imm) | _ => addr36 g1 (sxNat 10 (o.imm / 16))
  let ax := (g1.toNat + (x.rg o.s2).toNat * 2 ^ (o.imm % 4)) % 2 ^ 36
  match o.k with
  | .ld w _ => some (0, a w)
  | .st w => some (1, a w)
  | .ldx => some (0, ax)
  | .stx => some (1, ax)
  | .dcinv => some (3, addr36 g1 0)
  | .tx .tapp => some (0, addr36 g1 0)
  | _ => none

/-- Translate the data addresses of the ops, the lower slot first: the physical address of each op, or what stops the bundle. -/
def Dev.dataAll (d : Dev) (c : Nat) : List (Op × Nat) → Except Dev (List (Op × Nat × Nat))
  | [] => .ok []
  | (o, at') :: l =>
    let x := d.cell c
    match x.dataOf o with
    | none =>
      match d.dataAll c l with
      | .ok r => .ok ((o, at', 0) :: r)
      | .error e => .error e
    | some (acc, va) =>
      match x.translate false acc va with
      | .fault f => .error (d.trFault c acc va f)
      | .walk w => .error (d.walkStart c w)
      | .pa p =>
        match d.dataAll c l with
        | .ok r => .ok ((o, at', p) :: r)
        | .error e => .error e

/-! ### Holds (R405, R413, R425, R426, R436) -/

/-- The conditions of a fence mask hold (R405). An OUT completes as it issues, and so does a transaction op but TAPP. -/
def Dev.fenced (d : Dev) (c mask : Nat) : Bool :=
  let x := d.cell c
  (!mask.testBit 0 || (decide (x.stores = []) && x.loads.all LoadE.io)) &&
  (!mask.testBit 1 || !(x.loads.any LoadE.io)) &&
  (!mask.testBit 2 || decide (x.longs = [])) &&
  (!mask.testBit 3 || !d.txCopying c)

/-- An op holds its bundle. -/
def Dev.opHolds (d : Dev) (c : Nat) (o : Op) (pa : Nat) : Bool :=
  let x := d.cell c
  let mem := !x.mayIssue (d.orderOf c pa).1
  match o.k with
  | .ld _ _ => mem
  | .ldx => mem
  | .st _ => mem || decide (8 ≤ x.stores.length)
  | .stx => mem || decide (8 ≤ x.stores.length)
  | .ioIn => x.strongOut || x.loads.any (fun l => l.io && !l.sent)
  | .ioOut => x.loads.any (fun l => l.io && !l.sent)
  | .fence => !d.fenced c o.imm
  | .retx => !d.fenced c 7
  | .mfs => decide (o.imm % 128 = 9) && d.txCopying c
  | _ => false

/-! ### Effects of the ops -/

/-- A load enters the load return buffer. -/
def Dev.addLoad (d : Dev) (c : Nat) (l : LoadE) : Dev :=
  let x := d.cell c
  d.putCell c { x with loads := x.loads ++ [l], seq := x.seq + 1 }

/-- Send a load to its target, where the sluice decides (R484, R489). -/
def Dev.sendLoad (d : Dev) (c : Nat) (l : LoadE) : LoadE × Dev :=
  match d.ask (d.dataReq c l.pl .read l.addr false) with
  | (.permit a, d1) =>
    let q := (d1.touch (if l.cache then lineOf l.addr else l.addr) (if l.cache then 8 else 1)).fly (d1.sluiceOf (busAddr c l.addr))
    ({ l with sent := true, fly := some q.1, attr := if l.addr < 0x4000 then none else some a.entry }, q.2)
  | (_, d1) => ({ l with sent := true, bad := true }, d1)

/-- A load issues (R412, R417, R422, R426). -/
def State.issueLoad (s : State) (c pa : Nat) (w : Wid) (sg : Bool) (dst : Nat) : State :=
  let d := s.dev
  let x := d.cell c
  let oc := d.orderOf c pa
  let l : LoadE := { addr := pa, io := false, wid := w, sgn := sg, d := dst, due := x.bun + (if oc.2 then 5 else d.loadLatency c pa),
                     bun := x.bun, depth := x.depth, pl := x.pl, ord := oc.1, cache := oc.2, seq := x.seq }
  let put := fun (d : Dev) (l : LoadE) => ({ s with dev := d.addLoad c l } : State)
  match x.forward pa w with
  | .value v => put d { l with known := some v, due := x.bun + 3, cache := false }
  | .wait => put d l
  | .free =>
    if pa < 0x4000 then
      match d.ask (d.dataReq c x.pl .read pa false) with
      | (.permit _, d1) =>
        let r := (s.onDev d1).memWord (busAddr c pa)
        r.2.2.onDev (r.2.2.dev.addLoad c { l with known := some r.1, poison := r.2.1, sent := true })
      | (_, d1) => put d1 { l with sent := true, bad := true }
    else
      match (if oc.2 then x.hit pa else none) with
      | some v => put d { l with known := some v.1, poison := v.2, sent := true, cache := false }
      | none => if d.loadWaits c l then put d l else let q := d.sendLoad c l; put q.2 q.1

/-- A store enters the store buffer (R422). -/
def Dev.issueStore (d : Dev) (c pa : Nat) (w : Wid) (v : Word) (bun : Nat) : Dev :=
  let x := d.cell c
  let oc := d.orderOf c pa
  d.putCell c { x with
    stores := x.stores ++ [{ addr := pa, wid := w, val := v, bun := bun, depth := x.depth, pl := x.pl, ord := oc.1,
                             cache := oc.2 && (match x.attrAt pa with | some e => e.wa | none => false), seq := x.seq }],
    seq := x.seq + 1 }

/-- An IN reaches its block, in the order of R36; one that follows a strong access of its own bundle waits for it (DEDUCED, log 136). -/
def Dev.issueIn (d : Dev) (c a dst : Nat) : Dev :=
  let x := d.cell c
  let l : LoadE := { addr := a, io := true, wid := .word, sgn := false, d := dst, due := x.bun + d.inLatency c,
                     bun := x.bun, depth := x.depth, seq := x.seq }
  if x.strongOut then d.addLoad c l
  else
    let r := d.ioRead (.cell (Fin.ofNat 64 c)) a
    r.2.2.addLoad c { l with known := some (ofHalf r.1), bad := r.2.1, sent := true }

/-- An OUT, of which the bits `f` flip on the I/O ditch, reaches its block; an I/O error, such as an uncorrectable transfer, is a completion cause
(R35, R403, R431, R479) (DEDUCED, log 153). -/
def State.issueOut (s : State) (c a : Nat) (v : Word) (f : BitVec 43) : State :=
  let x := s.dev.cell c
  let e := flippedIo (loHalf v) f
  let s1 : State := { s with dev := (s.dev.putCell c { x with seq := x.seq + 1 }).found e.2 171 0 }
  let r := if e.2 = 2 then (true, s1) else s1.ioWrite (.cell (Fin.ofNat 64 c)) a e.1
  if r.1 then { r.2 with dev := r.2.dev.hold c ⟨cIO, a, true, true, x.bun, x.depth, x.seq⟩ } else r.2

/-- A transaction op (R172, R409): `pa` is TAPP's buffer as the ditch reaches it. -/
def Dev.issueTx (d : Dev) (c : Nat) (f : TxFn) (v1 v2 : Word) (pa : Nat) : Dev :=
  match f with
  | .tbegin => d.txBegin c v1.toNat
  | .tsel => d.txSel c v1.toNat
  | .tsw => d.txSw c v1 v2
  | .ttot => d.txTot c v1
  | .tpar => d.txPar c v1 v2
  | .tsnap => d.txSnap c v1
  | .tapp => let x := d.cell c; d.txApp c (BitVec.ofNat 72 (busAddr c pa)) v2 (decide (0x4000 ≤ addr36 v1 0) && (x.s1On || x.s2On))
  | .tfrm => d.txFrm c v1 (d.isHeld (v1.toNat / 2 ^ 19 % 2) (v1.toNat / 2 ^ 16 % 8) (v1.toNat % 65536))
  | .tcommit => d.txCommit c v1
  | .tabort => d.txUser c

/-- The entries that a TLBI of a kind invalidates (R406) (DEDUCED, log 155). -/
def tlbiHits (kind part : Nat) (v1 v2 : Word) (e : TlbE) : Bool :=
  let a := v1.toNat % 2 ^ 36
  let p2 := v2.toNat % 64
  match kind with
  | 0 => !e.s2 && decide (e.part = part ∧ e.pn = a / 2 ^ pageBits e.ins)
  | 1 => !e.s2 && decide (e.part = part)
  | 2 => e.s2 && decide (e.part = p2 ∧ e.pn = a / 2 ^ pageBits e.ins)
  | 3 => decide (e.part = p2)
  | _ => true

/-- TLBI, which clears the attribute cache too (R406, R424). -/
def Cell.tlbi (x : Cell) (kind : Nat) (v1 v2 : Word) : Cell :=
  { x.forget with tlb := x.tlb.filter (fun e => !tlbiHits kind x.part v1 v2 e.2) }

/-- A reserved op (R368): any G, F or P register and the flags take values that nothing fixes (DESIGN CHOICE, log 148). -/
def Dev.issueReserved (d : Dev) (c : Nat) : Dev :=
  let x := d.cell c
  let w := fun (k : Nat) => Config.lostWord d.fresh k
  let y := (List.range 32).foldl (fun (y : Cell) r => y.wg r (w r)) x
  let z := (List.range 4).foldl (fun (y : Cell) r => y.wp r (w (32 + 2 * r) ++ w (33 + 2 * r))) y
  let f : Cell := { z with f := (w 40).toNat % 256 / 2 * 2, st := putFlags z.st (flagsOf (w 41)) }
  (d.putCell c f).next

/-- An effect of latency `n`. -/
def Dev.eff (d : Dev) (c slot n : Nat) (e : Eff) : Dev := d.putCell c ((d.cell c).later slot n e)

/-- The first operand of a long op: a product register for XMUL and XMULT (R385). -/
def Cell.longArg (x : Cell) (f : Long) (s1 : Nat) : BitVec 144 :=
  match f with | .xmul => x.rp s1 | .xmult => x.rp s1 | _ => (x.rg s1).zeroExtend 144

/-- A long op starts. -/
def Dev.issueLong (d : Dev) (c : Nat) (f : Long) (dst : Nat) (a : BitVec 144) (b : Word) : Dev :=
  let x := d.cell c
  d.putCell c { x with longs := x.longs ++ [⟨f, dst, a, b, x.bun, x.depth, x.seq⟩], seq := x.seq + 1 }

/-- The effect of one live op; `x` is the cell as the bundle found it, `pa` the op's physical data address (R357). Branches, SYSC,
LOOP's LEN and the start of a block op or a WAITC follow in `State.issue`. -/
def State.issueOp (s : State) (c : Nat) (x : Cell) (o : Op) (at' pa : Nat) : State :=
  let d := s.dev
  let v1 := x.rg o.s1
  let v2 := x.rg o.s2
  let dev := fun (d : Dev) => ({ s with dev := d } : State)
  let mod := fun (y : Cell) => ({ s with dev := d.putCell c y } : State)
  let y := d.cell c
  match o.k with
  | .alu f =>
    let r := f.eval (flagsOf x.st) v1 v2
    let z := y.later o.slot 1 (.g o.d r.1)
    mod (if r.2 = flagsOf x.st then z else { z with st := putFlags z.st r.2 })
  | .aluI f => dev (d.eff c o.slot 1 (.g o.d (f.eval v1 o.imm)))
  | .cmp f => dev (d.eff c o.slot 1 (.f o.d (f.eval v1 v2)))
  | .cmpI f => dev (d.eff c o.slot 1 (.f o.d (f.eval v1 (f.imm o.imm))))
  | .part f => dev (d.eff c o.slot 1 (.g o.d (f.eval o.imm v1 v2)))
  | .predf f => dev (d.eff c o.slot 1 (.f o.d (f.eval (x.rf o.s1) (x.rf o.s2))))
  | .mff => dev (d.eff c o.slot 1 (.g o.d x.mff))
  | .mtf => dev (d.eff c o.slot 1 (.fAll (v1.toNat % 256)))
  | .mul f => dev (d.eff c o.slot 4 (f.eff o.d v1 v2))
  | .pmov f => dev (d.eff c o.slot 1 (f.eff o.d o.imm (x.rp o.s1) v1))
  | .long f => dev (d.issueLong c f o.d (x.longArg f o.s1) v2)
  | .limm => dev (d.eff c o.slot 1 (.g o.d (limmVal o.s1 o.imm (x.rg o.d))))
  | .ld w sg => s.issueLoad c pa (w.withK o.imm) sg o.d
  | .ldx => s.issueLoad c pa .word false o.d
  | .st w => dev (d.issueStore c pa (w.withK o.imm) (x.rg o.d) x.bun)
  | .stx => dev (d.issueStore c pa .word (x.rg o.d) x.bun)
  | .dcinv => mod (y.dropLine pa)
  | .dcinva => mod { y.forget with dc := [], dcNxt := [] }
  | .loop =>
    let n := v1.toNat % 2 ^ 36
    mod { y.putLoop (o.s2 % 3) ⟨opAdd x.pc (opsLen x.bundle), opAdd at' o.imm, if n = 0 then 1 else n⟩ with lbuf := none }
  | .mfs => dev (d.eff c o.slot 1 (.g o.d ((d.putCell c x).sprRead c (o.imm % 128))))
  | .mts => mod (y.mts (o.imm % 128) v1)
  | .ioIn => dev (d.issueIn c (addr24 v1 o.imm) o.d)
  | .ist => mod { y with ists := y.ists ++ [⟨istAddr v1 o.imm, loHalf (x.rg o.d), x.bun + 3⟩] }
  | .isync => mod y.isync
  | .tlbi k => mod (y.tlbi k v1 v2)
  | .sev => dev (d.sev c v1)
  | .wfe => if d.latched c then dev (d.fp (clEvt c) ClEvt.LATCH 0) else mod { y with wait := .wfe }
  | .tx f => dev (d.issueTx c f v1 v2 pa)
  | .reserved => dev (d.issueReserved c)
  | .blk _ => s
  | .br => s
  | .call => s
  | .jr => s
  | .callr => s
  | .ret => s
  | .retx => s
  | .sysc => s
  | .ioOut => s.issueOut c (addr24 v1 o.imm) (x.rg o.d) o.flip
  | .fence => s
  | .waitc => s
  | .brk => s

/-! ### Flow of control (R339, R340, R358, R398, R401) -/

/-- The target of a live branch at `at'`, as the bundle found the cell. -/
def Cell.target (x : Cell) (o : Op) (at' : Nat) : Option Nat :=
  match o.k with
  | .br => some (addr36 (BitVec.ofNat 72 at') (sxNat 24 o.imm))
  | .call => some (addr36 (BitVec.ofNat 72 at') (sxNat 24 o.imm))
  | .jr => some ((x.rg o.s1).toNat % 2 ^ 36)
  | .callr => some ((x.rg o.s1).toNat % 2 ^ 36)
  | .ret => some x.top
  | .retx => some (if x.pl = 2 then x.mepc else x.epc)
  | _ => none

/-- The status word and RESUME that a live RETX restores. -/
def Cell.restores (x : Cell) (o : Op) : Option (Word × Bool) :=
  if o.k = .retx then
    let w := if x.pl = 2 then x.mestat else x.estat
    some (w &&& 0xFFFFFFFFF, w.getLsbD 62)
  else none

/-- What an op does to the return stack. -/
def Op.stackOp (o : Op) : Option Bool :=
  match o.k with | .call => some true | .callr => some true | .ret => some false | _ => none

/-- The branch of the bundle, taken where it is live; none under RESUME, when no op but the block op runs. -/
def Cell.delayOf (x : Cell) : Option Delay :=
  if x.resume then none
  else match (placed x.pc x.bundle).find? (fun q => q.1.delays) with
  | none => none
  | some (o, at') =>
    if x.rf o.pred then some { at' := x.pc, tgt := x.target o at', retx := x.restores o, call := o.stackOp }
    else some { at' := x.pc, tgt := none }

/-! ### Issue -/

/-- The level that a live SYSC of the bundle enters (R400). -/
def Cell.trapOf (x : Cell) : Option Nat :=
  (x.live.find? (fun q => decide (q.1.k = .sysc))).map (fun q => if q.1.imm % 2 = 1 then 2 else 1)

/-- The trap of a bundle that is complete: EPC names the bundle that runs next (R400, R438). -/
def Cell.trap (x : Cell) (t : Option Nat) : Cell :=
  match t with
  | some l => x.enter { lvl := l, cause := cSYSC, epc := x.pc, resume := x.resume }
  | none => x

/-- A live op of a kind, with its op address. -/
def Cell.liveOp (x : Cell) (p : Op → Bool) : Option (Op × Nat) := x.live.find? (fun q => p q.1)

/-- The block op of the bundle begins, unless its count is 0 (R392, R393) (DEDUCED, log 65). -/
def Cell.blockOf (x : Cell) (len : Nat) (dly : Option Delay) (trap : Option Nat) : Option BlkE :=
  match x.liveOp Op.isBlk with
  | some (o, at') =>
    match o.k with
    | .blk f =>
      if (x.rg o.s2).toNat % 2 ^ 36 = 0 then none
      else some { f := f, d := o.d, s1 := o.s1, s2 := o.s2, vd := x.rg o.d, v1 := x.rg o.s1, v2 := x.rg o.s2, at' := at', b := x.pc,
                  bun := x.bun, len := len, dly := dly, lend := x.len, trap := trap }
    | _ => none
  | none => none

/-- The WAITC of the bundle begins to wait, unless its threshold is reached (R70, R407): the threshold is s1, the domain s2, and the
immediate holds the reading and the sense. -/
def Dev.waitOf (d : Dev) (x : Cell) (len : Nat) : Option CellWait :=
  match x.liveOp Op.isWaitc with
  | some (o, _) =>
    let conf := o.imm.testBit 1
    let down := o.imm.testBit 0
    if reached down (d.waitReading o.s2 conf) (x.rg o.s1) then none else some (.waitc x.pc len o.s2 conf down x.len (x.rg o.s1))
  | none => none

/-- The bundle has issued: it leaves the cell; the loop buffer may take it (R351) (DEDUCED, log 131). -/
def Cell.closeBundle (y x : Cell) (lben : Bool) : Cell :=
  { y.buffer lben x.pc (match x.delayOf with | some q => q.tgt.isSome | none => false) with
    bun := x.bun + 1, bundle := [], closed := false, cal := .agree, stall := false, resume := false, vec := none, once := false }

/-- What a block op or a WAITC that begins leaves in the cell. -/
def Cell.begins (y : Cell) (blk : Option BlkE) (wait : Option CellWait) : Cell := { y with blk := blk, wait := wait.getD y.wait }

/-- A LOOP of the bundle sets LEN (R359). -/
def Cell.startLoop (y : Cell) (x : Cell) : Cell :=
  if (x.liveOp (fun o => decide (o.k = .loop))).isSome then { y with st := stLEN.put y.st 1 } else y

/-- The branch of the bundle is recorded at its op's address; a RETX is none (R419). -/
def Cell.predicted (y x : Cell) (dly : Option Delay) : Cell :=
  match dly, (placed x.pc x.bundle).find? (fun q => q.1.isBranch) with
  | some q, some o => y.predict o.2 q.tgt
  | _, _ => y

/-- The cell after the effects of its bundle's ops: `x` is the cell as the bundle found it, `y` as its ops left it (R357, R360). -/
def Cell.afterBundle (x y : Cell) (lben : Bool) (wait : Option CellWait) : Cell :=
  let len := opsLen x.bundle
  let dly := x.delayOf
  let blk := x.blockOf len dly x.trapOf
  let y1 := (y.predicted x dly).closeBundle x lben
  if blk = none ∧ wait = none then (((y1.advance x.pc len dly x.len).startLoop x).settle.shadows).trap x.trapOf
  else ((y1.begins blk wait).startLoop x).settle.shadows

/-- The bundle that has issued is not complete: its block op or its WAITC is under way (R370). -/
def Cell.unended (y : Cell) : Bool :=
  y.blk.isSome || (match y.wait with | .waitc _ _ _ _ _ _ _ => true | _ => false)

/-- The bundle at the pc issues: every live op acts, then control moves on (R357, R360). An OUT that stops the cells, by a restart or
the fault state, ends it. -/
def State.issue (s : State) (c : Nat) (ops : List (Op × Nat × Nat)) : State :=
  let x := s.dev.cell c
  let s1 := ops.foldl (fun (s : State) q => s.issueOp c x q.1 q.2.1 q.2.2) s
  if !(s1.dev.run || s1.dev.boot.monitor) then s1 else
  let y := x.afterBundle (s1.dev.cell c) (s1.dev.ff (clCfg c) ClCfg.LBEN) (s1.dev.waitOf x (opsLen x.bundle))
  let d1 := if y.unended then s1.dev.putCell c y else (s1.dev.putCell c y).countBundle c
  let d2 := if x.entry.isSome then (d1.putCell c { d1.cell c with entry := x.entry }).acknowledge c else d1
  { s1 with dev := d2 }

end Sys2Proof.Machine
end

