-- ==== Sys2Proof/Machine/CellRun.lean ====
section
/-! DEFINITION. The cells' commands: an op arrives, a held bundle issues, and what comes back to a cell - loads, stores, long ops,
ISTs, block-op steps, events (R354, R387, R392-R396, R412, R421, R422, R435, R451). -/

namespace Sys2Proof.Machine

/-- The whole bundle waits for the conditions of its ops, or no longer (R413). -/
def Cell.stalled (x : Cell) (b : Bool) : Cell := { x with stall := b }

/-- The caliper's finding on the bundle has been taken (R213). -/
def Cell.calTaken (x : Cell) : Cell := { x with cal := .agree }

/-- The cell takes in an op of its bundle; with STOP the bundle is whole (R354). -/
def Cell.takeIn (x : Cell) (o : Op) (stop : Bool) (cal : Caliper) : Cell :=
  let l := x.bundle ++ [o]
  { x with bundle := l, closed := stop || decide (5 ≤ l.length), cal := if cal = .agree then x.cal else cal }

/-- The bundle that the caliper has passed: fetch, checks, translation, holds, then issue (R413, R434). -/
def State.issueNext (s : State) (c : Nat) : State :=
  let d := s.dev
  let x := d.cell c
  match (if d.fromLoop c then Fch.held else d.fetchAll c x.pc (opsLen x.bundle)) with
  | .busy d1 => { s with dev := d1 }
  | .held =>
    match x.opFault with
    | some (cause, a) =>
      if cause = cBRK ∧ d.brkHalts c then { s with dev := (d.haltGroup c).raise 255 }
      else { s with dev := d.faultAt c cause a (decide (cause = cIACC)) }
    | none =>
      match d.dataAll c x.live with
      | .error d1 => { s with dev := d1 }
      | .ok ops =>
        if ops.any (fun q => d.opHolds c q.1 q.2.2) then { s with dev := d.putCell c (x.stalled true) }
        else
          let d1 := d.putCell c (x.stalled false)
          if d1.atBoundary c ∧ (x.dueCause ≠ none ∨ d1.dueEvent c ≠ none) then { s with dev := d1 }
          else ({ s with dev := d1 } : State).issue c ops

/-- The bundle at the boundary: what the caliper found in its outputs comes before any of them (R213), and a due event or completion cause
before the bundle (R435, R451). -/
def State.tryIssue (s : State) (c : Nat) : State :=
  let d := s.dev
  let x := d.cell c
  if !x.closed || !d.running c || decide (x.wait ≠ .none ∨ x.blk ≠ none ∨ x.walk ≠ none) || x.late || d.txCopying c then s
  else if !x.stall && decide (d.atBoundary c ∧ (x.dueCause ≠ none ∨ d.dueEvent c ≠ none)) then s
  else ({ s with dev := d.putCell c x.calTaken } : State).ifJudged c x.cal (fun s c => s.issueNext c)

/-- Something that a held bundle may wait for has happened. -/
def State.pump (s : State) (c : Nat) : State := if (s.dev.cell c).closed then s.tryIssue c else s

/-- The cells of furrow `f` go on. -/
def State.pumpFur (s : State) (f : Nat) : State :=
  ([4 * f, 4 * f + 1, 4 * f + 2, 4 * f + 3] : List Nat).foldl (fun s c => s.pump c) s

/-- An op reaches cell `c` in its bundle; with STOP, the bundle is whole. A cell that is not fetching turns it away (DESIGN CHOICE, log 60). -/
def State.opArrives (s : State) (c : Nat) (o : Op) (stop : Bool) (cal : Caliper) : State :=
  let d := s.dev
  let x := d.cell c
  if !d.running c || x.closed then s
  else ({ s with dev := d.putCell c (x.takeIn o stop cal) } : State).pump c

/-! ### What comes back (R412, R422, R387, R421) -/

/-- A load has its word, or its cause: it is written at its nominal latency, or at once where that has passed (R412, R432). -/
def State.loadEnd (s : State) (c : Nat) (l : LoadE) (w : Word) (cause : Nat) : State :=
  let d := s.dev
  let x := d.cell c
  let y : Cell := { x.learn l.attr with loads := x.loads.filter (fun q => decide (q.seq ≠ l.seq)) }
  let d1 := match l.fly with | some id => d.land id | none => d
  let v := if l.io then w else l.wid.extract l.sgn w
  if cause ≠ 0 then { s with dev := (d1.putCell c y).hold c ⟨cause, l.addr, false, l.io, l.bun, l.depth, l.seq⟩ }
  else if l.due ≤ y.bun then { s with dev := d1.putCell c (y.wg l.d v) }
  else { s with dev := d1.putCell c { y with due := y.due ++ [⟨l.due, if l.io then 3 else 2, .g l.d v⟩] } }

/-- The value of a load is taken at its target, and a line of it enters the data cache (R38, R417, R425) (DEDUCED, log 137). -/
def State.loadTake (s : State) (c : Nat) (l : LoadE) (fl : Flips) : State :=
  let d := s.dev
  if l.bad then s.loadEnd c l 0 cDACC
  else match l.known with
  | some w => if l.poison then s.loadEnd c l 0 cDERR else s.loadEnd c l w 0
  | none =>
    if !d.loadTurn c l then { s with dev := d.putCell c { d.cell c with
      loads := (d.cell c).loads.map (fun q => if q.seq = l.seq then l else q) } }
    else if d.dramGone l.addr then s.loadEnd c l 0 cDERR
    else
      let k := if l.cache then l.addr % 8 else 0
      let r := s.cellWords c (l.addr - k) (if l.cache then 8 else 1) fl
      let s1 : State := if l.cache then { r.2.2 with dev := r.2.2.dev.putCell c ((r.2.2.dev.cell c).fillLine l.addr r.1 r.2.1) } else r.2.2
      if r.2.1.testBit k then s1.loadEnd c l 0 cDERR else s1.loadEnd c l (r.1.getD k 0) 0

/-- An IN's value comes back, of which bits have flipped on the I/O ditch (R35, R479). -/
def State.inBack (s : State) (c : Nat) (l : LoadE) (v : Half) (bad : Bool) (f : BitVec 43) : State :=
  let e := flippedIo v f
  ({ s with dev := s.dev.found e.2 171 0 } : State).loadEnd c l (ofHalf e.1) (if bad || decide (e.2 = 2) then cIO else 0)

/-- LOAD_RETURN of the `i`th load or IN outstanding (R412); of an IN, the low bits of `fl` flip on the I/O ditch (DEDUCED, log 142). -/
def State.loadReturn (s : State) (c i : Nat) (fl : Flips) : State :=
  let d := s.dev
  let x := d.cell c
  match x.loads[i]? with
  | none => s
  | some l =>
    if d.clockStopped c then s
    else if l.io then
      match l.known with
      | some w => (s.inBack c l (loHalf w) l.bad (fl.path.extractLsb' 0 43)).pump c
      | none =>
        if x.loads.any (fun q => decide (q.seq < l.seq ∧ q.ord = 2)) || x.stores.any (fun e => decide (e.seq < l.seq ∧ e.ord = 2)) then s
        else
          let r := d.ioRead (.cell (Fin.ofNat 64 c)) l.addr
          (({ s with dev := r.2.2 } : State).inBack c l r.1 r.2.1 (fl.path.extractLsb' 0 43)).pump c
    else if l.known = none ∧ d.refreshing l.addr then s
    else if l.sent ∨ l.known ≠ none then (s.loadTake c l fl).pump c
    else if d.loadWaits c l then s
    else
      let q := d.sendLoad c l
      (({ s with dev := q.2 } : State).loadTake c q.1 fl).pump c

/-- Note the outcome of a store that was sent. -/
def Cell.storeSent (x : Cell) (e : StoreE) : Cell :=
  { x with stores := x.stores.map (fun q => if q.seq = e.seq then e else q) }

/-- A store that its sluice has permitted is performed: in memory, and in a line of the data cache (R349, R39, R417). -/
def State.storeIn (s : State) (c : Nat) (e : StoreE) (fl : Flips) : State :=
  let b := busAddr c e.addr
  let r := (s.strike b fl.mem).storePart b e.wid e.val (if (s.dev.cellPort c e.addr).isSome then fl.path else 0)
  if !r.1 then { r.2 with dev := r.2.dev.putCell c ((r.2.dev.cell c).storeSent { e with err := cDERR }) }
  else
    let y := (r.2.dev.cell c).storeSent e
    if (y.wayOf e.addr).isSome then { r.2 with dev := r.2.dev.putCell c (y.updateLine e.addr e.wid e.val) }
    else if e.cache then
      let q := r.2.cellWords c (lineOf e.addr) 8 {}
      { q.2.2 with dev := q.2.2.dev.putCell c (y.fillLine e.addr q.1 q.2.1) }
    else { r.2 with dev := r.2.dev.putCell c y }

/-- STORE_DRAIN: the oldest store goes to its target, where its sluice checks it and it is performed (R422). -/
def State.storeDrain (s : State) (c : Nat) (fl : Flips) : State :=
  let d := s.dev
  let x := d.cell c
  match x.stores.find? (fun e => !e.sent) with
  | none => s
  | some e =>
    if d.clockStopped c || !d.storeTurn c e || d.refreshing e.addr then s
    else
      match d.ask (d.dataReq c e.pl .write e.addr (decide (e.wid ≠ .word))) with
      | (.permit a, d1) =>
        let q := (d1.touch e.addr 1).fly (d1.sluiceOf (busAddr c e.addr))
        let e1 : StoreE := { e with sent := true, fly := some q.1, attr := if e.addr < 0x4000 then none else some a.entry }
        if d.dramGone e.addr then { s with dev := q.2.putCell c ((q.2.cell c).storeSent { e1 with err := cDERR }) }
        else ({ s with dev := q.2 } : State).storeIn c e1 fl
      | (_, d1) => { s with dev := d1.putCell c ((d1.cell c).storeSent { e with sent := true, err := cDACC }) }

/-- STORE_ACK of the `i`th store in the buffer: its entry is freed, its error held (R33, R422, R432). -/
def State.storeAck (s : State) (c i : Nat) : State :=
  let d := s.dev
  let x := d.cell c
  match x.stores[i]? with
  | none => s
  | some e =>
    if !e.sent || d.clockStopped c || (match e.fly with | some n => !d.inTurn c e.addr n x.onWay | none => false) then s
    else
      let y : Cell := { x.learn e.attr with stores := x.stores.filter (fun q => decide (q.seq ≠ e.seq)) }
      let d1 := (match e.fly with | some id => d.land id | none => d).putCell c y
      let d2 := if e.err = 0 then d1 else d1.hold c ⟨e.err, e.addr, true, false, e.bun, e.depth, e.seq⟩
      -- a walk read that waited for the store is sent now (R461)
      let d3 := match (d2.cell c).walk with
        | some w => if w.fly = none ∧ (d2.cell c).forward w.rd .word = .free then d2.walkSend c w else d2
        | none => d2
      ({ s with dev := d3 } : State).pump c

/-- Sticky flags of a completion are not lost in a shadow (R387) (DEDUCED, log 133). -/
def Cell.sticky (x : Cell) (r : LongR) : Cell :=
  let m : Word := BitVec.ofNat 72 (2 * b2n r.sv + b2n r.dz)
  { x with st := x.st ||| m, shadow := x.shadow.map (fun q => (q.1, q.2.1, q.2.2 ||| m)) }

/-- LONG_OP_COMPLETE of the `i`th long op in flight (R386-R388). -/
def State.longComplete (s : State) (c i : Nat) : State :=
  let d := s.dev
  let x := d.cell c
  match (if d.clockStopped c then none else x.longs[i]?) with
  | none => s
  | some l =>
    let r := l.f.run l.d l.a l.b
    let y : Cell := ({ x with longs := x.longs.filter (fun q => decide (q.seq ≠ l.seq)) } : Cell).sticky r
    if r.exc = 0 then ({ s with dev := d.putCell c (y.take r.eff) } : State).pump c
    else ({ s with dev := (d.putCell c y).hold c ⟨r.exc, 0, false, false, l.bun, l.depth, l.seq⟩ } : State).pump c

/-- IST_WRITE: the oldest queued IST reaches the array of every member, once the third bundle after it has been read (R421, R9). -/
def State.istWrite (s : State) (c : Nat) : State :=
  let x := s.dev.cell c
  match x.ists with
  | [] => s
  | i :: l =>
    if x.bun < i.at' ∨ s.dev.clockStopped c then s
    else
      let put := fun (m : Mem) (k : Nat) =>
        let a := isramOf k + i.addr / 2
        m.wr a ((Wid.half (i.addr % 2)).insert (m.rd a) (ofHalf i.op))
      { s with mem := (s.dev.mates c).foldl put s.mem, dev := s.dev.putCell c { x with ists := l } }

/-- WALK_READ_RETURN, then what waited for the walk: what the cell sends next, or the exception that it enters, passes the caliper first. -/
def State.walkBack (s : State) (c : Nat) (fl : Flips) (cal : Caliper) : State :=
  if s.dev.clockStopped c || decide ((s.dev.cell c).walk = none) then s
  else s.ifJudged c cal (fun s c =>
    let s1 := (s.walkReturn c fl).pump c
    if (s1.dev.cell c).walk = none then { s1 with dev := s1.dev.handEnd (c / 4) } else s1)

/-- FETCH_LINE_RETURN, then the bundle that waited for the line, with what the caliper finds in its outputs. -/
def State.lineBack (s : State) (c : Nat) (fl : Flips) (cal : Caliper) : State :=
  if s.dev.clockStopped c then s
  else
    let s1 := s.lineReturn c fl
    let x := s1.dev.cell c
    ({ s1 with dev := s1.dev.putCell c { x with cal := if cal = .agree ∨ !x.closed then x.cal else cal } } : State).pump c

/-! ### Block ops (R392-R396) -/

/-- A 36-bit result. -/
def w36 (n : Nat) : Word := BitVec.ofNat 72 (n % 2 ^ 36)

/-- A word step's access: the physical address, or what stops the step (R393, R395). -/
def Dev.stepAddr (d : Dev) (c acc va : Nat) : Except Dev Nat :=
  match (d.cell c).translate false acc va with
  | .fault f => .error (d.trFault c acc va f)
  | .walk w => .error (d.walkStart c w)
  | .pa p => .ok p

/-- A fault of a step: entered with RESUME (R395, R431) (DEDUCED, log 134). -/
def Dev.stepFault (d : Dev) (c cause addr : Nat) (w : Bool) : Dev :=
  let x := d.cell c
  match x.blk with
  | none => d
  | some b => (d.recordFault c cause addr w false).putCell c (x.enter { lvl := x.entryLevel, cause := cause, epc := b.at', resume := true })

/-- A step reads the word at `va` through the load path (R423): the word, or the machine that waits or has faulted. -/
def State.stepRead (s : State) (c va : Nat) (fl : Flips) : Except State (Word × State) :=
  let d := s.dev
  let x := d.cell c
  match d.stepAddr c 0 va with
  | .error d1 => .error { s with dev := d1 }
  | .ok p =>
    let oc := d.orderOf c p
    if !x.mayIssue oc.1 then .error s
    else match x.forward p .word with
    | .wait => .error s
    | .value v => .ok (v, s)
    | .free =>
      match (if oc.2 then x.hit p else none) with
      | some v => if v.2 then .error { s with dev := d.stepFault c cDERR va false } else .ok (v.1, s)
      | none =>
        let l : LoadE := { addr := p, io := false, wid := .word, sgn := false, d := 0, due := 0, bun := 0, depth := 0, ord := oc.1, seq := x.seq }
        if !d.loadTurn c l || !d.clearTo c p x.onWay || d.refreshing p then .error s
        else match d.ask (d.dataReq c x.pl .read p false) with
        | (.permit a, d1) =>
          let k := if oc.2 then p % 8 else 0
          let n := if oc.2 then 8 else 1
          let d2 := if p < 0x4000 then d1 else ((d1.touch (p - k) n).putCell c ((d1.cell c).learn (some a.entry)))
          if d.dramGone p then .error { s with dev := d2.stepFault c cDERR va false }
          else
            let r := ({ s with dev := d2 } : State).cellWords c (p - k) n fl
            let s1 : State := if oc.2 then { r.2.2 with dev := r.2.2.dev.putCell c ((r.2.2.dev.cell c).fillLine p r.1 r.2.1) } else r.2.2
            if r.2.1.testBit k then .error { s1 with dev := s1.dev.stepFault c cDERR va false } else .ok (r.1.getD k 0, s1)
        | (_, d1) => .error { s with dev := d1.stepFault c cDACC va false }

/-- A step stores a word through the store buffer, once its sluice permits it (R393, R423). -/
def State.stepWrite (s : State) (c va : Nat) (v : Word) (b : BlkE) : Except State State :=
  let d := s.dev
  let x := d.cell c
  match d.stepAddr c 1 va with
  | .error d1 => .error { s with dev := d1 }
  | .ok p =>
    if !x.mayIssue (d.orderOf c p).1 ∨ 8 ≤ x.stores.length then .error s
    else match d.ask (d.dataReq c x.pl .write p false) with
    | (.permit _, d1) => .ok { s with dev := d1.issueStore c p .word v b.bun }
    | (_, d1) => .error { s with dev := d1.stepFault c cDACC va true }

/-- The block op ends: its bundle completes, unless a WAITC of it still waits. -/
def State.blockEnd (s : State) (c : Nat) (b : BlkE) : State :=
  let x := s.dev.cell c
  let y : Cell := { x with blk := none }
  let d := match y.wait with
    | .waitc _ _ _ _ _ _ _ => s.dev.putCell c y
    | _ => (s.dev.putCell c ((y.advance b.b b.len b.dly b.lend).trap b.trap)).countBundle c
  ({ s with dev := d } : State).pump c

/-- A step completes: its registers hold the progress, and the op ends with its count (R392, R393). -/
def State.stepDone (s : State) (c : Nat) (b : BlkE) (nd n1 : Option Word) : State :=
  let x := s.dev.cell c
  let n2 := w36 (b.v2.toNat % 2 ^ 36 - 1)
  let put := fun (x : Cell) (r : Nat) (v : Option Word) => match v with | some w => x.wg r w | none => x
  let b1 : BlkE := { b with vd := nd.getD b.vd, v1 := n1.getD b.v1, v2 := n2 }
  let y : Cell := { (put (put x b.d nd) b.s1 n1).wg b.s2 n2 with blk := some b1 }
  let s1 : State := { s with dev := s.dev.putCell c y }
  if n2 = 0 then s1.blockEnd c b1 else s1

/-- One word step; `fl` are the bit errors of the word at s1, `flD` those of the word at d (R392-R396) (DEDUCED, log 135). -/
def State.blockWord (s : State) (c : Nat) (b : BlkE) (fl flD : Flips) : State :=
  let a := b.v1.toNat % 2 ^ 36
  let t := b.vd.toNat % 2 ^ 36
  let up := fun (n : Nat) => some (w36 (n + 1))
  let down := fun (n : Nat) => some (w36 (n + 2 ^ 36 - 1))
  let copy := fun (nd n1 : Option Word) => match s.stepRead c a fl with
    | .error s1 => s1
    | .ok (v, s1) => match s1.stepWrite c t v b with
      | .error s2 => s2
      | .ok s2 => s2.stepDone c b nd n1
  match b.f with
  | .bmov => copy (up t) (up a)
  | .bmovd => copy (down t) (down a)
  | .bfill => match s.stepWrite c t b.v1 b with
    | .error s1 => s1
    | .ok s1 => s1.stepDone c b (up t) none
  | .crcb => match s.stepRead c a fl with
    | .error s1 => s1
    | .ok (v, s1) => s1.stepDone c b (some (BitVec.ofNat 72 (crcWord b.vd.toNat v))) (up a)
  | .cmpb => match s.stepRead c t flD with
    | .error s1 => s1
    | .ok (v, s1) => match s1.stepRead c a fl with
      | .error s2 => s2
      | .ok (w, s2) => if v = w then s2.stepDone c b (up t) (up a) else s2.blockEnd c b

/-- BLOCK_WORD_STEP: the step's request passes the caliper first (R213). -/
def State.blockStep (s : State) (c : Nat) (fl flD : Flips) (cal : Caliper) : State :=
  let x := s.dev.cell c
  if x.blk = none ∨ !s.dev.running c ∨ x.walk ≠ none ∨ x.late ∨ x.wait = .wfe then s
  else s.ifJudged c cal (fun s c => match (s.dev.cell c).blk with | some b => s.blockWord c b fl flD | none => s)

/-! ### Events and waits (R70, R364, R435, R447, R451) -/

/-- COMPLETION_CAUSE: the boundary raises the completion cause that is due; the caliper compares the entry (R237). Where none is due, a held
bundle goes on. -/
def State.causeBoundary (s : State) (c : Nat) (cal : Caliper) : State :=
  s.ifJudged c (if s.dev.atBoundary c ∧ (s.dev.cell c).dueCause ≠ none then cal else .agree) (fun s c => ({ s with dev := s.dev.raiseCause c } : State).pump c)

/-- EVENT_ENTRY: the boundary takes the event that is due; the caliper compares the entry (R237). Where none is due, a held bundle goes on. -/
def State.eventBoundary (s : State) (c : Nat) (cal : Caliper) : State :=
  s.ifJudged c (if (s.dev.cell c).dueCause = none ∧ s.dev.dueEvent c ≠ none then cal else .agree)
    (fun s c => ({ s with dev := s.dev.takeEvent c } : State).pump c)

/-- TAKEOVER, which the caliper compares too (R237, R447). -/
def State.takeoverBoundary (s : State) (c : Nat) (cal : Caliper) : State :=
  s.ifJudged c (if s.dev.running c ∧ (s.dev.cell c).entry ≠ none then cal else .agree) (fun s c => { s with dev := s.dev.takeover c })

/-- WFE_WAKE. -/
def State.wake (s : State) (c : Nat) : State := ({ s with dev := s.dev.wakeWfe c } : State).pump c

/-- WAITC_COMPLETE. -/
def State.waitcEnd (s : State) (c : Nat) : State := ({ s with dev := s.dev.waitcDone c } : State).pump c

/-- TAPP_COPY_END: the TXU has copied the buffer of transaction `n`, once the owner's store buffer has drained (R173, R176, R427). -/
def State.tappEnd (s : State) (n : Nat) (fl : Flips) : State :=
  let d := s.dev
  let x := d.txn n
  match x.copy with
  | none => s
  | some k =>
    if (d.cell x.owner).stores ≠ [] then s
    else
      let r : Req := { cls := clsCELL, pl := k.pl, pg := (d.cell x.owner).pgrp, part := x.part, req := x.owner, kind := .read, addr := k.addr, n := k.len }
      let s1 : State := match d.ask r with
        | (.permit _, d1) =>
          if d.dramGone k.addr then { s with dev := (d1.touch k.addr k.len).txAppEnd n (some []) true }
          else
            let q := ({ s with dev := d1.touch k.addr k.len } : State).takeWords k.addr k.len (some dpTXU) fl
            { q.2.2 with dev := q.2.2.dev.txAppEnd n (some q.1) (decide (q.2.1 ≠ 0)) }
        | (_, d1) => { s with dev := d1.txAppEnd n none false }
      s1.pump x.owner

end Sys2Proof.Machine
end

