-- ==== Sys2Proof/Machine/Debug.lean ====
section
/-! DEFINITION. The debug TAP (R238, R580-R584, R587): what the present state permits, authentication, the accesses to cells,
memory and I/O. -/

namespace Sys2Proof.Machine

/-- The debug state: 0 LOCKED, 1 INSTALLER, 2 MAKER, 3 FACTORY. -/
def Dev.dbState (d : Dev) : Nat := d.fg dbStat DbStat.STATE

def Dev.putTap (d : Dev) (t : Tap) : Dev := { d with sec := { d.sec with tap := t } }

/-- An instruction is in the register, its data register holds `dr`. -/
def Dev.tapShows (d : Dev) (ir dr : Nat) : Dev := d.putTap { d.sec.tap with ir := ir, dr := dr }

/-- A denied instruction acts as BYPASS and sets DENY (R581). -/
def Dev.tapDenied (d : Dev) : Dev := (d.tapShows 0xFF 0).fp dbStat DbStat.DENY 1

/-- An instruction that the state must permit. -/
def Dev.tapIf (d : Dev) (ok : Bool) (f : Dev → Dev) : Dev := if ok then f d else d.tapDenied

/-- IDCODE's 32 bits. -/
def Dev.tapId (d : Dev) : Nat :=
  d.fg idCode IdCode.REV % 16 * 2 ^ 28 + 0x7264 * 2 ^ 12 + Config.jep106.toNat * 2 + 1

/-- The boundary register, whose cells the spec does not list (R581). -/
def Dev.tapBoundary (d : Dev) (ir : Nat) : Dev := (d.tapShows ir (Config.boundary d.fresh)).next

def Dev.tapExtest (d : Dev) : Dev := d.tapIf (decide (d.dbState = 3)) fun d => d.tapBoundary 0
def Dev.tapIdcode (d : Dev) : Dev := d.tapShows 1 d.tapId
def Dev.tapSample (d : Dev) : Dev := d.tapBoundary 2
def Dev.tapBypass (d : Dev) : Dev := d.tapShows 0xFF 0

/-! ### Authentication (R582, R583) -/

/-- AUTH is blocked after a failure (R582). -/
def Dev.authBlocked (d : Dev) : Bool := decide (d.tick < d.sec.tap.until')

/-- The seconds of the lockout after the `n`th failure. -/
def lockoutSeconds (n : Nat) : Nat := min 4096 (2 ^ n)

/-- A failure: it is counted, appended once in each lockout, raises EV254 and blocks AUTH (DEDUCED, log 150). -/
def Dev.tapFails (d : Dev) : Dev :=
  let d1 := (d.count dbStat DbStat.AFAIL).authFailed 0xFF
  (d1.putTap { d1.sec.tap with
    chain := [], sig := [], holder := none, chal := [],
    until' := d.tick + 100000000 * lockoutSeconds (d1.fg dbStat DbStat.AFAIL) }).raise 254

/-- An AUTH command, where AUTH is not blocked. -/
def Dev.tapAuth (d : Dev) (f : Dev → Dev) : Dev := if d.authBlocked then d else f (d.putTap { d.sec.tap with ir := 0x10 })

/-- Command 0: one word of the chain; command 2: one word of the signature. -/
def Dev.tapChainWord (d : Dev) (w : Word) : Dev := d.tapAuth fun d => d.putTap { d.sec.tap with chain := d.sec.tap.chain ++ [w] }
def Dev.tapSigWord (d : Dev) (w : Word) : Dev := d.tapAuth fun d => d.putTap { d.sec.tap with sig := d.sec.tap.sig ++ [w] }

/-- Command 1: the chain is checked; its holder needs DBGI or DBGM, and is challenged. -/
def Dev.tapChainEnd (d : Dev) : Dev :=
  d.tapAuth fun d =>
    match d.chainCheck d.sec.tap.chain with
    | (0, some h) =>
      if h.rights.testBit rightDBGI || h.rights.testBit rightDBGM then
        let r := d.random 32
        r.2.putTap { r.2.sec.tap with chain := [], holder := some h, chal := r.1, next := 0 }
      else d.tapFails
    | _ => d.tapFails

/-- Command 5: the next word of the challenge, over and over. -/
def Dev.tapChallenge (d : Dev) : Dev :=
  d.tapAuth fun d =>
    let t := d.sec.tap
    d.putTap { t with dr := ((packOctets t.chal 4).getD t.next 0).toNat, next := (t.next + 1) % 4 }

/-- The holder's signature names state `st` as its target. -/
def Dev.tapSigned (d : Dev) (h : Holder) (st : Nat) : Bool :=
  pssVerify h.modulus (d.proofMessage d.sec.tap.chal (0x80 + st)) ((wordOctets d.sec.tap.sig).take 384)

/-- A debug state is entered (R582, R583): in MAKER, the payment keys go and the seal breaks first. -/
def Dev.tapEnter (d : Dev) (h : Holder) (st : Nat) : Dev :=
  let d1 := (d.putTap { d.sec.tap with sig := [], holder := none, chal := [] }).fp dbStat DbStat.AFAIL 0
  let d2 := if st = 2 then d1.zeroisePay.1.sealBreak 1 else d1
  let d3 := (d2.fp dbStat DbStat.STATE st).audit { typ := 0x70, role := h.role, serial := h.serial, subj := st }
  ((d3.pulseSrc 182 0).scCause 7).raise 252

/-- Command 3: the signature is submitted (DEDUCED, log 151). -/
def Dev.tapSubmit (d : Dev) : Dev :=
  d.tapAuth fun d =>
    match d.sec.tap.holder with
    | none => d.tapFails
    | some h =>
      if h.rights.testBit rightDBGM && d.tapSigned h 2 then d.tapEnter h 2
      else if h.rights.testBit rightDBGI && d.tapSigned h 1 then d.tapEnter h 1
      else d.tapFails

/-- Command 4, TRST, and DBCTL.EXIT: back to LOCKED; FACTORY ends only when the hash is fused (R580) (DEDUCED, log 147). -/
def Dev.tapExit (d : Dev) : Dev := if d.dbState = 3 then d else d.debugLeave

/-- TRST also selects BYPASS. -/
def Dev.tapReset (d : Dev) : Dev := (d.tapExit).putTap { d.tapExit.sec.tap with ir := 0xFF, dr := 0, chain := [], sig := [], holder := none, chal := [] }

/-- The lockout runs out. -/
def Dev.lockoutEnd (d : Dev) : Dev := if d.authBlocked then d else d.putTap { d.sec.tap with until' := 0 }

/-- The maker root key hash is fused in FACTORY (R529, R580). -/
def Dev.fuse (d : Dev) (h : BitVec 256) : Dev :=
  d.tapIf (decide (d.dbState = 3)) fun d =>
    (({ d with sec := { d.sec with root := h } } : Dev).fp scStat ScStat.PROV 1).debugLeave

/-! ### Cells (R238, R581, R584) -/

/-- The selected cell, as the lead of its group. -/
def Dev.tapLead (d : Dev) : Nat := d.lead d.sec.tap.sel

/-- The state permits access to the selected cell (R580) (DEDUCED, log 152). -/
def Dev.tapMay (d : Dev) : Bool := d.debugReaches (d.cell d.tapLead).part

/-- CELL. -/
def Dev.tapSelect (d : Dev) (c : Nat) : Dev :=
  d.tapIf (decide (d.dbState ≠ 0)) fun d => d.putTap { d.sec.tap with ir := 0x11, dr := c, sel := c }

/-- RUN: the selected group, if software runs on it, or a suspect of an arbitration. -/
def Dev.tapRun (d : Dev) (n : Nat) (f : Dev → Nat → Dev) : Dev :=
  d.tapIf d.tapMay fun d =>
    let d1 := d.tapShows 0x12 n
    let c := d.sec.tap.sel
    if d.cellHere c ∧ (d.role c = 0 ∨ d.role c = 1 ∨ (d.fur (c / 4)).suspects.testBit (c % 4)) then f d1 d.tapLead else d1

/-- RUN halt; during a hand-over or an arbitration it waits, of a suspect too, and during a walk (R236, R468). -/
def Dev.tapHalt (d : Dev) : Dev :=
  d.tapRun 1 fun d c =>
    let f := c / 4
    if !d.handsFree f || d.walking c then d.putFur f { d.fur f with haltW := (d.fur f).haltW ||| 2 ^ (c % 4) }
    else if (d.cell c).halted then d else (d.haltGroup c).raise 253

/-- RUN resume, and what the group held back. -/
def State.tapResume (s : State) : State :=
  let c := s.dev.tapLead
  ({ s with dev := s.dev.tapRun 2 fun d c => if (d.cell c).halted then (d.releaseGroup c).raise 253 else d } : State).pump c

/-- RUN step: one bundle. -/
def Dev.tapStep (d : Dev) : Dev :=
  d.tapRun 3 fun d c => if (d.cell c).halted then d.putCell c { d.cell c with once := true } else d

/-- What REG reads (R329, R581). -/
def Dev.tapRead (d : Dev) (c i : Nat) : Word :=
  let x := d.cell c
  if i < 32 then x.rg i
  else if i = 32 then x.mff
  else if i < 41 then (x.rp ((i - 33) / 2)).extractLsb' (if (i - 33) % 2 = 0 then 72 else 0) 72
  else if 64 ≤ i ∧ i < 192 then d.sprRead c (i - 64)
  else 0

/-- What REG writes. -/
def Cell.tapWrite (x : Cell) (i : Nat) (v : Word) : Cell :=
  if i < 32 then x.wg i v
  else if i = 32 then x.take (.fAll (v.toNat % 256))
  else if i < 41 then x.take (if (i - 33) % 2 = 0 then .pHi ((i - 33) / 2) v else .pLo ((i - 33) / 2) v)
  else if 64 ≤ i ∧ i < 192 then x.sprSet (i - 64) v
  else x

/-- REG, of a halted group. -/
def Dev.tapReg (d : Dev) (wr : Bool) (i : Nat) (v : Word) : Dev :=
  d.tapIf d.tapMay fun d =>
    let c := d.tapLead
    if !(d.cell c).halted then d
    else
      let d1 := if wr then d.putCell c ((d.cell c).tapWrite i v) else d
      d1.tapShows 0x13 (b2n wr * 2 ^ 80 + i * 2 ^ 72 + (if wr then v else d.tapRead c i).toNat)

/-- MEM: one word through the sluices, as the debug class at M. -/
def State.tapMem (s : State) (wr : Bool) (a : Nat) (v : Word) (fl : Flips) : State :=
  let d := s.dev
  if d.dbState = 0 then { s with dev := d.tapDenied }
  else
    let shows := fun (s : State) (bad : Bool) (w : Word) =>
      ({ s with dev := s.dev.tapShows 0x14 (b2n wr * 2 ^ 109 + b2n bad * 2 ^ 108 + a * 2 ^ 72 + w.toNat) } : State)
    match d.ask { cls := clsDEBUG, pl := 2, req := d.tapLead, kind := if wr then .write else .read, addr := a } with
    | (.permit _, d1) =>
      let s1 : State := { s with dev := d1.touch a 1 }
      if d.dramGone a then shows s1 true 0
      else if wr then let r := (s1.strike a fl.mem).storePart a .word v fl.path; shows r.2 (!r.1) (if r.1 then v else 0)
      else
        let r := s1.takeWords a 1 (some dpDEBUG) fl
        shows r.2.2 (decide (r.2.1 ≠ 0)) (if r.2.1 ≠ 0 then 0 else r.1.headD 0)
    | (_, d1) => shows { s with dev := d1 } true 0

/-- IO: one register access of the debug port, of whose transfer the bits `f` flip on the I/O ditch (R35, R479). -/
def State.tapIo (s : State) (wr : Bool) (a : Nat) (v : Half) (f : BitVec 43) : State :=
  if s.dev.dbState = 0 then { s with dev := s.dev.tapDenied }
  else
    let r : Half × Bool × State :=
      if wr then
        let e := flippedIo v f
        let s1 : State := { s with dev := s.dev.found e.2 171 0 }
        if e.2 = 2 then (v, true, s1) else (let q := s1.ioWrite .debug a e.1; (v, q.1, q.2))
      else
        let q := s.dev.ioRead .debug a
        let e := flippedIo q.1 f
        (e.1, q.2.1 || decide (e.2 = 2), { s with dev := q.2.2.found e.2 171 0 })
    { r.2.2 with dev := r.2.2.dev.tapShows 0x15 (b2n wr * 2 ^ 61 + b2n r.2.1 * 2 ^ 60 + a * 2 ^ 36 + r.1.toNat) }

/-- ISRAM: one word of the local instruction SRAM of a halted group, written in every member. -/
def State.tapIsram (s : State) (wr : Bool) (i : Nat) (v : Word) : State :=
  let d := s.dev
  let c := d.tapLead
  if !d.tapMay then { s with dev := d.tapDenied }
  else if !(d.cell c).halted then s
  else
    let m := if wr then (d.mates c).foldl (fun m k => m.wr (isramOf k + i) v) s.mem else s.mem
    { s with mem := m, dev := d.tapShows 0x16 (b2n wr * 2 ^ 86 + i * 2 ^ 72 + (if wr then v else s.mem.rd (isramOf c + i)).toNat) }

end Sys2Proof.Machine
end

