-- ==== Sys2Proof/Machine/Start.lean ====
section
/-! DEFINITION. The steps of a start (R526-R529, R539-R550): each acts at its own place in the sequence and leads to the next. -/

namespace Sys2Proof.Machine

/-- The start stands at step `k`. -/
def Dev.atStep (d : Dev) (k : Nat) : Bool := d.boot.on && !d.boot.low && decide (d.boot.step = k)

/-- The start goes on at step `k`. -/
def Dev.toStep (d : Dev) (k : Nat) : Dev := { d with boot := { d.boot with step := k } }

/-- Step 1: VIN above the power-on weir for 1 ms (R304). -/
def Dev.weirOn (d : Dev) : Dev :=
  if !d.boot.on && decide (d.boot.step = 1) then { d with boot := { d.boot with on := true, step := 2, t0 := d.tick } } else d

/-- Step 2: the rails are in regulation, and the straps are sampled. -/
def Dev.railsUp (d : Dev) (strap : Nat) : Dev :=
  if d.atStep 2 then ({ d with boot := { d.boot with strap := strap } } : Dev).toStep 3 else d

/-- Step 3: the crystal runs, SPLL locks, the bank measurement begins; the retirement words are read (R16). -/
def Dev.spllUp (d : Dev) : Dev :=
  if d.atStep 3 then
    let d1 := ((List.range 16).filter (fun f => d.furHere f)).foldl
      (fun d f => (d.rsUsed (furWord f) 1).fp (fuRet f) FuRet.RET ((d.rsRead (furWord f)).toNat % 16)) d
    let d2 : Dev := { d1 with rider := { d1.rider with xtal := false } }
    (((d2.dropSrc 152 0).measure true).fp btStat BtStat.STRAP d.boot.strap).toStep 4
  else d

/-- Step 4: a pending zeroisation is completed, the enabled tamper inputs are sampled once, and RDY tells that the self-tests
passed (R577, R586) (DEDUCED, log 128). -/
def Dev.selfTests (d : Dev) (ok : Bool) (x : TamperIn) : Dev :=
  if d.atStep 4 then
    let d1 := if d.ff scStat ScStat.ZPEND then d.zeroisePay.1 else d
    let bad := d1.tamperBad x
    let d2 := d1.tamperInputs bad
    let d3 := if d2.tampered bad = 0 then d2 else d2.tamperResponse 7
    (d3.fb scStat ScStat.RDY ok).toStep 5
  else d

/-- Record the rejection reason of a slot. -/
def Dev.reject (d : Dev) (s r : Nat) : Dev := d.fp btStat (if s = 0 then BtStat.REJA else BtStat.REJB) r

/-- The boot count that this start carries (R194, R539) (DESIGN CHOICE, log 112). -/
def Dev.nextBoot (d : Dev) : Nat :=
  match d.controlCopy with
  | some (b, _) => (d.rsRead (b + 4)).toNat / 2 ^ 40 + 1
  | none => 1

/-- Step 5: xSPI, and the headers of both slots; the recovery and factory straps read neither. `errA`, `errB`: the slot's header
could not be read. -/
def State.xspiUp (s : State) (errA errB : Bool) (fmhz dummy : Nat) : State :=
  let d := s.dev
  if d.atStep 5 then
    let d1 := (d.fp btXcfg BtXcfg.FMHZ fmhz).fp btXcfg BtXcfg.DUMMY dummy
    if d.boot.strap ≠ 0 then { s with dev := d1.toStep 6 }
    else
      let d1 := d1.copiesUsed
      let why (k : Nat) : Nat :=
        let f := s.mem.slotWord k
        if (if k = 0 then errA else errB) then rjREAD
        else if headerReason f false ≠ 0 then headerReason f false
        else if unconfirmed f && decide (hdBASE f + hdTRIALN f ≤ d.nextBoot) then rjEXPIRED
        else 0
      let gen (k : Nat) : Nat := hdGEN (s.mem.slotWord k)
      let l := (if gen 0 < gen 1 then [1, 0] else [0, 1]).filter (fun k => decide (why k = 0))
      let d2 := (d1.reject 0 (why 0)).reject 1 (why 1)
      { s with dev := ({ d2 with boot := { d2.boot with cands := l } } : Dev).toStep 6 }
  else s

/-- A start that loads no image ends in image recovery, for the straps or for want of an image, or in the factory test state (R529, R539). -/
def Dev.leaveStart (d : Dev) : Dev :=
  match d.boot.fate with
  | 1 => d.recovery false
  | 2 => d.recovery true
  | _ => ((d.fp btStat BtStat.EMODE 2).fp dbStat DbStat.STATE 3).toStep 13

/-- A start that loads no image goes on to the end of its kind, by way of BIST where that has not run yet (R279) (DEDUCED, log 186). -/
def Dev.toFate (d : Dev) (k : Nat) : Dev :=
  let d1 : Dev := { d with boot := { d.boot with slot := none, fate := k } }
  if d.boot.tested then d1.leaveStart else d1.toStep 7

/-- Step 6: the next candidate's manifest, or image recovery, or the factory test state (R529, R539). `bad`: a read failed (DEDUCED, log 118). -/
def State.chooseSlot (s : State) (bad : Bool) : State :=
  let d := s.dev
  if d.atStep 6 then
    if d.boot.strap = 2 ∧ !d.ff scStat ScStat.PROV then
      { s with dev := d.toFate 3 }
    else if d.boot.strap ≠ 0 then { s with dev := d.toFate 1 }
    else match d.boot.cands with
    | [] => { s with dev := d.toFate 2 }
    | k :: rest =>
      let why := if bad then rjREAD else (d.manifestReason (s.mem.slotWord k)).1
      let d1 : Dev := { d with boot := { d.boot with cands := rest } }
      if why ≠ 0 then { s with dev := d1.reject k why }
      else { s with dev := ({ d1 with boot := { d1.boot with slot := some k } } : Dev).toStep 7 }
  else s

/-- The records of the slot under load. -/
def State.records (s : State) : List Rec :=
  match s.dev.boot.slot with
  | some k => (manifestOf (s.mem.slotWord k)).getD []
  | none => []

/-- Step 7: BIST (R279). Masks name the failing cells, furrow SRAMs and DRAM channels. Every word holds the last write of the
march, the solid-zero background; what a failing SRAM holds is open. -/
def State.startBist (s : State) (cells furs drams : Nat) : State :=
  if s.dev.atStep 7 then
    let all := imgDRAMS s.records
    let m1 := (s.mem.fill 0x001000000 0x0080FFFFF (.const 0)).fill (isramOf 0) (isramOf 64 - 1) (.const 0)
    let m2 := if all then m1.fill dramBase (dramBase + s.dev.dramSize - 1) (.const 0) else m1
    let d1 := ((List.range 16).filter (fun f => s.dev.furHere f)).foldl
      (fun d f => d.putFur f { d.fur f with bad := cells / 2 ^ (4 * f) % 16 }) s.dev
    let cs := (bitsOf cells 64).filter (fun c => s.dev.cellHere c)
    let fs := (bitsOf furs 16).filter (fun f => s.dev.furHere f)
    let d2 := cs.foldl (fun d c => d.pulseSrc 185 c) d1
    let d3 := fs.foldl (fun d f => d.pulseSrc 186 f) d2
    let d4 := if all then (bitsOf drams 4).foldl (fun d k => d.pulseSrc 186 (16 + k)) d3 else d3
    let d5 : Dev := { d4 with boot := { d4.boot with tested := true } }
    let s1 : State := { s with mem := m2, dev := if d5.boot.fate = 0 then d5.toStep 8 else d5.leaveStart }
    let s2 := cs.foldl (fun s c => s.loseLocal c) s1
    fs.foldl (fun s f => s.lose (fsramOf f) (fsramOf f + 0x3FFFF)) s2
  else s

/-- The load record (R545). -/
def loadRecord : Nat := 0x0207FFFF0

/-- A word of a section at its place, which may lie in a local instruction SRAM. -/
def State.putWord (s : State) (a : Nat) (w : Word) : State :=
  if isramOf 0 ≤ a ∧ a < isramOf 64 then { s with mem := s.mem.wr a w } else s.wrWord a w

/-- A section's words at its destination: into every member of a group for a lead's local SRAM (R536). Words written to the DRAM are counted (R299). -/
def State.putSection (s : State) (l : List Rec) (q : Sect) (ws : List Word) : State :=
  let bases := if q.dest = 1 then ((imageCells l q.unit).getD []).map (fun c => isramOf c + q.addr)
    else if q.dest = 2 then ((imageCells l q.unit).getD []).map (fun c => aliasOf c + q.addr)
    else [q.addr]
  let d := if s.dev.targetOf q.addr = some .dram ∧ q.dest ≠ 1 ∧ q.dest ≠ 2 then s.dev.countTarget .dram ws.length else s.dev
  bases.foldl (fun s b => ws.zipIdx.foldl (fun s p => s.putWord (b + p.2) p.1) s) (s.onDev d)

/-- The loader reads words of the code store: the words, whether none of them is uncorrectable, and the machine (R38, R299). -/
def State.codeRead (s : State) (a n : Nat) : List Word × Bool × State :=
  let r := s.takeWords a n none {}
  (r.1, decide (r.2.1 = 0), r.2.2.onDev (r.2.2.dev.countTarget .code n))

/-- The code store may be kept (R545): the load record is valid, its digest is the manifest's, and every code-store section
read back has its hash. -/
def State.keepsCode (s : State) (dig : BitVec 256) (l : List Rec) : Bool × State :=
  let r := s.codeRead loadRecord 5
  if r.2.1 && decide ((r.1.headD 0).toNat % 2 = 1 ∧ r.1.drop 1 = packOctets (octets256 dig) 4) then
    ((sections l).filter (fun q => decide (q.dest = 0))).foldl (fun b q =>
      if b.1 then let t := b.2.codeRead q.addr q.slen; (t.2.1 && q.hashOk t.1, t.2.2) else b) (true, r.2.2)
  else (false, r.2.2)

/-- The digest of the legally relevant code (R565). -/
def lrdOf (l : List Rec) : BitVec 256 :=
  sha256 (((sections l).filter (fun q => decide (q.dest = 0))).flatMap (fun q => (wordOctets q.hash).take 32))

/-- The sections up to and with the first whose hash fails. -/
def loadedUntil (f : Nat → Word) : List Sect → List Sect
  | [] => []
  | q :: l => if q.hashOk (q.words f) then q :: loadedUntil f l else [q]

/-- BTSTAT, BTGEN and BTSVN once slot `k` is loaded (R540, R555). -/
def State.loadedStatus (s : State) (k : Nat) (l : List Rec) (keep : Bool) : Dev :=
  let d := s.dev
  let f := s.mem.slotWord k
  let rej (j : Nat) : Nat := d.fg btStat (if j = 0 then BtStat.REJA else BtStat.REJB)
  let other := 1 - k
  let x := decide (rej other = rjEXPIRED)
  let fall := decide (hdGEN f < hdGEN (s.mem.slotWord other)) && decide (rjHCRC < rej other) && !x
  let d1 := (((d.fp btStat BtStat.SLOT k).fb btStat BtStat.TRIAL (unconfirmed f)).fb btStat BtStat.TRIALX x).fb btStat BtStat.FALLB fall
  ((d1.fb btStat BtStat.CSKEEP keep).fp btGen BtGen.GEN (hdGEN f)).fp btSvn BtSvn.SVN (imgSVN l)

/-- Step 8: sections are hashed and written, or the code store is kept; a failing check returns to step 6 (R541, R545). `bad`: a
read of the slot failed (DESIGN CHOICE, log 129). -/
def State.loadSections (s : State) (bad : Bool) : State :=
  match s.dev.atStep 8, s.dev.boot.slot with
  | true, some k =>
    let f := s.mem.slotWord k
    let l := s.records
    let dig := digestOf f l
    let (keep, s) := s.keepsCode dig l
    let todo := (sections l).filter (fun q => !(keep && decide (q.dest = 0)))
    let s0 : State := if keep then s else s.wrWord loadRecord (s.rdWord loadRecord &&& ~~~ 1)
    let back (s1 : State) (why : Nat) : State :=
      let d := s1.dev.reject k why
      { s1 with dev := ({ d with boot := { d.boot with slot := none } } : Dev).toStep 6 }
    if bad then back (todo.foldl (fun s q => s.lose q.base (q.base + q.slen - 1)) s0) rjREAD
    else
      let s1 := (loadedUntil f todo).foldl (fun s q => s.putSection l q (q.words f)) s0
      let data (q : Sect) : List Word := if keep ∧ q.dest = 0 then s.rdWords q.addr q.slen else q.words f
      let why := if todo.any (fun q => !q.hashOk (q.words f)) then rjHASH
        else if (sections l).any (fun q => q.code && reservedOps (opWords (data q)) false) then rjRESV
        else recordReason l
      if why ≠ 0 then back s1 why
      else
        let s2 := if keep then s1
          else s1.wrWords loadRecord (fields [(hdGEN f, 36), (1, 0)] :: packOctets (octets256 dig) 4)
        let d := s2.loadedStatus k l keep
        { s2 with dev := ({ d with sec := { d.sec with digest := dig, lrd := lrdOf l } } : Dev).toStep 9 }
  | _, _ => s

/-- One REGS or LOCKS entry (R543, R544). -/
def State.entryWrite (s : State) (w : Word) : State := (s.ioWrite .loader (regsAddr w) (loHalf w)).2

/-- A PART entry (R542). -/
def Dev.partEntry (d : Dev) (w : Word) : Dev :=
  let n := w.toNat
  let p := n / 2 ^ 66
  ({ d with pgrp := Tab.set 0 d.pgrp p (n / 2 ^ 62 % 16), evbs := Tab.set 0 d.evbs p (n / 2 ^ 36 % 2 ^ 26) } : Dev).fp
    (ecRvec p) EcRvec.VEC (n % 2 ^ 36)

/-- Step 9: FURROW, PART and REGS records. -/
def State.applyRecords (s : State) : State :=
  if s.dev.atStep 9 then
    let l := s.records
    let d1 := (recWords l 4).foldl (fun d w => d.partEntry w) s.dev
    let d2 := (furrows l).foldl (fun d e => d.putFur e.1 { d.fur e.1 with img := e.2 }) d1
    let d3 := ((List.range 16).filter (fun f => d2.furHere f)).foldl (fun d f => d.applyImage f) d2
    let s1 := (recWords l 5).foldl (fun s w => s.entryWrite w) { s with dev := d3.fb bCtl BCtl.DRAMS (imgDRAMS l) }
    { s1 with dev := ({ s1.dev with boot := { s1.dev.boot with line := s1.dev.fg (etCfg 0) EtCfg.LC } } : Dev).toStep 10 }
  else s

/-- Step 10: journal replay (R195). -/
def Dev.startReplay (d : Dev) : Dev := if d.atStep 10 then d.replay.toStep 11 else d

/-- One binding (R546, R547). -/
def State.bind (s : State) (b : Bind) : State :=
  let p := s.dev.rsRead (parBase + b.off)
  let s := s.onDev (s.dev.rsUsed (parBase + b.off) 1)
  let v := (if p.getLsbD 71 then p else b.dflt).toNat % 2 ^ b.width
  let q := regDesc b.addr
  let old := s.dev.rd b.addr &&& ~~~ q.mask (fun a => a == .w1c)
  let w := (⟨b.lsb + b.width - 1, b.lsb⟩ : Span).put old v
  let s1 := if q.wide then (s.ioWrite .loader (b.addr + 1) (hiHalf w)).2 else s
  (s1.ioWrite .loader b.addr (loHalf w)).2

/-- Step 11: bindings, then LOCKS; the bank decision uses the loaded DRBANK (R321), and a changed image breaks the seal (R565). -/
def State.applyBindings (s : State) : State :=
  if s.dev.atStep 11 then
    let l := s.records
    let s1 := (bindings (recWords l 6)).foldl (fun s b => s.bind b) s
    let s2 := (recWords l 7).foldl (fun s w => s.entryWrite w) s1
    let d1 := s2.dev.bankRelease (s2.dev.rd drBank)
    let d2 := if d1.sec.lrd = d1.sec.sd then d1 else d1.sealBreak 2
    { s2 with dev := d2.toStep 12 }
  else s

/-- Step 12: every running cell enters M with cause 0x23, and nFAULT is released (R260, R445); in the fault state no
application runs (R270). -/
def Dev.firstBundle (d : Dev) : Dev :=
  if d.atStep 12 then
    let d1 := (List.range 16).foldl (fun d f => d.startCells f cSTART) d
    let d2 : Dev := { d1 with run := !d1.inFault }
    let d3 := (d2.toStep 13).syncBalls.fp btDur BtDur.DUR (min (2 ^ 20 - 1) ((d.tick - d.boot.t0) / 1000))
    if d3.ff fcStat FcStat.FRST then d3.fcEvent 4 else d3
  else d

end Sys2Proof.Machine
end

