-- ==== Sys2Proof/Machine/Rows.lean ====
section
/-! DEFINITION. What the meanings of the commands share: when the device takes a command at all, the command that is a
register access, the command that is an op of a bundle, the port tick, and the few commands that several units share. -/

namespace Sys2Proof.Machine

/-! ### When a command reaches the device -/

/-- The device has power and is not held in reset (DESIGN CHOICE, log 6). -/
def Dev.alive (d : Dev) : Bool := d.boot.on && !d.boot.low

/-- An effect on the device part, while the device is alive. -/
def State.live (s : State) (f : Dev → Dev) : State := if s.dev.alive then s.onDev (f s.dev) else s

/-- An effect on the machine, while the device is alive. -/
def State.liveS (s : State) (f : State → State) : State := if s.dev.alive then f s else s

/-- Effects of the ditch rider and the weirs, which go on while nRESET is low (R602). -/
def State.powered (s : State) (f : Dev → Dev) : State := if s.dev.boot.on then s.onDev (f s.dev) else s
def State.poweredS (s : State) (f : State → State) : State := if s.dev.boot.on then f s else s

/-! ### Register accesses as commands -/

/-- A requester that may send an access: a cell that is present, the debug port in a debug state, the loader during a start
(R1, R526, R581) (DESIGN CHOICE, log 57). -/
def Dev.mayAsk (d : Dev) : Requester → Bool
  | .cell c => d.cellHere c.val
  | .debug => decide (d.dbState ≠ 0)
  | .loader => decide (d.boot.step < 13)

/-- A write of 36 bits at an I/O address (DEDUCED, log 56). -/
def State.rowWrite (s : State) (who : Requester) (a : Nat) (v : Half) : State :=
  if s.dev.alive && s.dev.mayAsk who then s.writeAccess who a v else s

/-- A read of 36 bits at an I/O address. -/
def State.rowRead (s : State) (who : Requester) (a : Nat) : State :=
  if s.dev.alive && s.dev.mayAsk who then s.readAccess who a else s

/-- A written value with one field given. -/
def withField (f : Span) (n : Nat) (v : Half) : Half := loHalf (f.put (ofHalf v) n)

/-! ### Ops as commands -/

/-- An op word reaches the issue stage of its cell (R354, R355). -/
def State.rowOp (s : State) (h : OpHdr) (o : Op) : State := s.opArrives h.cell.val { o with pred := h.pred.val } h.stop h.cal

/-- Bundles that any furrow's cells hold go on. -/
def State.pumpAll (s : State) : State := (List.range 16).foldl (fun s f => s.pumpFur f) s

/-! ### The port tick (R62, R86, R120, R139, R171, R518) -/

/-- STALL of a domain set between two states: AUTOEND ends its channels (R140). -/
def Dev.endStalled (old d : Dev) : Dev :=
  (List.range 32).foldl (fun d n => if !old.ff (adStat n) AdStat.STALL && d.ff (adStat n) AdStat.STALL then d.autoEnd n else d) d

/-- One port tick: the pin actions of the last base tick and the writes of due transactions take effect, the unit ticks of `timers` fall with
what follows a zero, the PTP clocks pass `ptp0` and `ptp1`
ticks of their own, domains, channels and ports do their work, what applied on the tick takes its snapshots and starts its
MARK entry, and the tick ends (DESIGN CHOICE, log 8, DESIGN CHOICE, log 9). -/
def Dev.portTick (d : Dev) (timers : List Nat) (ptp0 ptp1 : Nat) : Dev :=
  let d0 := d.liveTimers.foldl (fun d n => d.pinAction n) d
  let d1 := timers.foldl (fun d n => (d.unitTick n).timerZero n) d0.applyTick
  let d2 := ((d1.ptpTicks 0 ptp0).ptpTicks 1 ptp1).ptpFollow
  let d3 := d2.endStalled d2.tickDomains
  let d4 := (d3.chFlow.portsTickEnd.chInterlocks.applyEnd).endTimers.chTickEnd
  { d4.controlStep with tick := d4.tick + 1 }

/-- STALL of domain `n` by time (R53), with what follows for its channels (R140). -/
def Dev.domainStall (d : Dev) (n : Nat) : Dev :=
  match d.stallDomain n with
  | (d1, true) => d1.autoEnd n
  | (d1, false) => d1

/-- The eighth cycle after the loss of lock (R58), with what follows for the channels. -/
def Dev.mainsHoldEnd (d : Dev) (n : Nat) : Dev := d.endStalled (d.holdEnd n)

/-! ### Commands of several units -/

/-- The caliper test (R241): GO by a write of `go` where the command brings one, then what each comparator found (DESIGN CHOICE, log 157). -/
def State.caliperTest (s : State) (f : Nat) (go : Option (Requester × Half)) (a b : Nat) : State :=
  let s1 := match go with
    | some (who, v) => s.rowWrite who (fuCtest f) (withField FuCtest.GO 1 v)
    | none => s
  s1.onDev (s1.dev.ctestEnd f a b)

/-- FOFF of the shed plan (R311, R312). -/
def State.shedFoff (s : State) : State :=
  match s.dev.rider.step with
  | some (k, 9, m) =>
    let fs := (bitsOf m 16).filter (fun f => s.dev.furHere f)
    if fs.any (fun f => s.dev.furBusy f) then s
    else
      let s1 := fs.foldl (fun s f => (s.onDev (s.dev.abandonTest f)).foff f) s
      s1.onDev (s1.dev.stepDone k)
  | _ => s

/-- ETHOFF of the shed plan (R311): the ports are off and their links drop. -/
def State.shedEth (s : State) : State :=
  match s.dev.rider.step with
  | some (k, 11, m) =>
    let ps := (bitsOf m 2).filter (fun p => s.dev.ethHere p)
    let d : Dev := { s.dev with rider := { s.dev.rider with eth := s.dev.rider.eth ||| m % 4 } }
    let s1 := ps.foldl (fun s p => s.linkChange p false false) (s.onDev d)
    s1.onDev (s1.dev.stepDone k)
  | _ => s

end Sys2Proof.Machine
end

