-- ==== Sys2Proof/Machine/ExecCellA.lean ====
section
/-! DEFINITION. The meanings of the commands of A-slot ops (R377-R381). -/

namespace Sys2Proof.Machine

/-- ADD writes the sum of two registers (R377). -/
def execAdd (h : OpHdr) (d : Fin 32) (s1 : Fin 32) (s2 : Fin 32) (s : State) : Host.Outcome State Fault Refusal :=
  .next (s.rowOp h { k := .alu .add, slot := 0, d := d.val, s1 := s1.val, s2 := s2.val })

/-- SUB writes the difference of two registers (R377). -/
def execSub (h : OpHdr) (d : Fin 32) (s1 : Fin 32) (s2 : Fin 32) (s : State) : Host.Outcome State Fault Refusal :=
  .next (s.rowOp h { k := .alu .sub, slot := 0, d := d.val, s1 := s1.val, s2 := s2.val })

/-- ADDF adds and sets C, V and SV (R378). -/
def execAddf (h : OpHdr) (d : Fin 32) (s1 : Fin 32) (s2 : Fin 32) (s : State) : Host.Outcome State Fault Refusal :=
  .next (s.rowOp h { k := .alu .addf, slot := 0, d := d.val, s1 := s1.val, s2 := s2.val })

/-- SUBF subtracts and sets C, V and SV (R378). -/
def execSubf (h : OpHdr) (d : Fin 32) (s1 : Fin 32) (s2 : Fin 32) (s : State) : Host.Outcome State Fault Refusal :=
  .next (s.rowOp h { k := .alu .subf, slot := 0, d := d.val, s1 := s1.val, s2 := s2.val })

/-- ADC adds with carry and sets the flags (R378). -/
def execAdc (h : OpHdr) (d : Fin 32) (s1 : Fin 32) (s2 : Fin 32) (s : State) : Host.Outcome State Fault Refusal :=
  .next (s.rowOp h { k := .alu .adc, slot := 0, d := d.val, s1 := s1.val, s2 := s2.val })

/-- SBC subtracts with borrow and sets the flags (R378). -/
def execSbc (h : OpHdr) (d : Fin 32) (s1 : Fin 32) (s2 : Fin 32) (s : State) : Host.Outcome State Fault Refusal :=
  .next (s.rowOp h { k := .alu .sbc, slot := 0, d := d.val, s1 := s1.val, s2 := s2.val })

/-- ADDS adds with signed saturation (R378). -/
def execAdds (h : OpHdr) (d : Fin 32) (s1 : Fin 32) (s2 : Fin 32) (s : State) : Host.Outcome State Fault Refusal :=
  .next (s.rowOp h { k := .alu .adds, slot := 0, d := d.val, s1 := s1.val, s2 := s2.val })

/-- SUBS subtracts with signed saturation (R378). -/
def execSubs (h : OpHdr) (d : Fin 32) (s1 : Fin 32) (s2 : Fin 32) (s : State) : Host.Outcome State Fault Refusal :=
  .next (s.rowOp h { k := .alu .subs, slot := 0, d := d.val, s1 := s1.val, s2 := s2.val })

/-- AND writes the bitwise AND of two registers (R377). -/
def execAnd (h : OpHdr) (d : Fin 32) (s1 : Fin 32) (s2 : Fin 32) (s : State) : Host.Outcome State Fault Refusal :=
  .next (s.rowOp h { k := .alu .and, slot := 0, d := d.val, s1 := s1.val, s2 := s2.val })

/-- OR writes the bitwise OR of two registers (R377). -/
def execOr (h : OpHdr) (d : Fin 32) (s1 : Fin 32) (s2 : Fin 32) (s : State) : Host.Outcome State Fault Refusal :=
  .next (s.rowOp h { k := .alu .or, slot := 0, d := d.val, s1 := s1.val, s2 := s2.val })

/-- XOR writes the bitwise XOR of two registers (R377). -/
def execXor (h : OpHdr) (d : Fin 32) (s1 : Fin 32) (s2 : Fin 32) (s : State) : Host.Outcome State Fault Refusal :=
  .next (s.rowOp h { k := .alu .xor, slot := 0, d := d.val, s1 := s1.val, s2 := s2.val })

/-- ANDN writes s1 AND NOT s2 (R377). -/
def execAndn (h : OpHdr) (d : Fin 32) (s1 : Fin 32) (s2 : Fin 32) (s : State) : Host.Outcome State Fault Refusal :=
  .next (s.rowOp h { k := .alu .andn, slot := 0, d := d.val, s1 := s1.val, s2 := s2.val })

/-- SHL shifts left by a register count (R379). -/
def execShl (h : OpHdr) (d : Fin 32) (s1 : Fin 32) (s2 : Fin 32) (s : State) : Host.Outcome State Fault Refusal :=
  .next (s.rowOp h { k := .alu .shl, slot := 0, d := d.val, s1 := s1.val, s2 := s2.val })

/-- SHR shifts right logically by a register count (R379). -/
def execShr (h : OpHdr) (d : Fin 32) (s1 : Fin 32) (s2 : Fin 32) (s : State) : Host.Outcome State Fault Refusal :=
  .next (s.rowOp h { k := .alu .shr, slot := 0, d := d.val, s1 := s1.val, s2 := s2.val })

/-- SAR shifts right arithmetically by a register count (R379). -/
def execSar (h : OpHdr) (d : Fin 32) (s1 : Fin 32) (s2 : Fin 32) (s : State) : Host.Outcome State Fault Refusal :=
  .next (s.rowOp h { k := .alu .sar, slot := 0, d := d.val, s1 := s1.val, s2 := s2.val })

/-- ROL rotates left by a register count modulo 72 (R377). -/
def execRol (h : OpHdr) (d : Fin 32) (s1 : Fin 32) (s2 : Fin 32) (s : State) : Host.Outcome State Fault Refusal :=
  .next (s.rowOp h { k := .alu .rol, slot := 0, d := d.val, s1 := s1.val, s2 := s2.val })

/-- MIN writes the signed lesser value (R377). -/
def execMin (h : OpHdr) (d : Fin 32) (s1 : Fin 32) (s2 : Fin 32) (s : State) : Host.Outcome State Fault Refusal :=
  .next (s.rowOp h { k := .alu .min, slot := 0, d := d.val, s1 := s1.val, s2 := s2.val })

/-- MAX writes the signed greater value (R377). -/
def execMax (h : OpHdr) (d : Fin 32) (s1 : Fin 32) (s2 : Fin 32) (s : State) : Host.Outcome State Fault Refusal :=
  .next (s.rowOp h { k := .alu .max, slot := 0, d := d.val, s1 := s1.val, s2 := s2.val })

/-- MINU writes the unsigned lesser value (R377). -/
def execMinu (h : OpHdr) (d : Fin 32) (s1 : Fin 32) (s2 : Fin 32) (s : State) : Host.Outcome State Fault Refusal :=
  .next (s.rowOp h { k := .alu .minu, slot := 0, d := d.val, s1 := s1.val, s2 := s2.val })

/-- MAXU writes the unsigned greater value (R377). -/
def execMaxu (h : OpHdr) (d : Fin 32) (s1 : Fin 32) (s2 : Fin 32) (s : State) : Host.Outcome State Fault Refusal :=
  .next (s.rowOp h { k := .alu .maxu, slot := 0, d := d.val, s1 := s1.val, s2 := s2.val })

/-- CLZ counts leading zero bits (R377). -/
def execClz (h : OpHdr) (d : Fin 32) (s1 : Fin 32) (s : State) : Host.Outcome State Fault Refusal :=
  .next (s.rowOp h { k := .alu .clz, slot := 0, d := d.val, s1 := s1.val })

/-- POPC counts one bits (R377). -/
def execPopc (h : OpHdr) (d : Fin 32) (s1 : Fin 32) (s : State) : Host.Outcome State Fault Refusal :=
  .next (s.rowOp h { k := .alu .popc, slot := 0, d := d.val, s1 := s1.val })

/-- ABS writes the absolute value (R377). -/
def execAbs (h : OpHdr) (d : Fin 32) (s1 : Fin 32) (s : State) : Host.Outcome State Fault Refusal :=
  .next (s.rowOp h { k := .alu .abs, slot := 0, d := d.val, s1 := s1.val })

/-- ADDI adds a sign-extended immediate (R377). -/
def execAddi (h : OpHdr) (d : Fin 32) (s1 : Fin 32) (imm : BitVec 14) (s : State) : Host.Outcome State Fault Refusal :=
  .next (s.rowOp h { k := .aluI .addi, slot := 0, d := d.val, s1 := s1.val, imm := imm.toNat })

/-- ANDI ANDs with a zero-extended immediate (R377). -/
def execAndi (h : OpHdr) (d : Fin 32) (s1 : Fin 32) (imm : BitVec 14) (s : State) : Host.Outcome State Fault Refusal :=
  .next (s.rowOp h { k := .aluI .andi, slot := 0, d := d.val, s1 := s1.val, imm := imm.toNat })

/-- ORI ORs with a zero-extended immediate (R377). -/
def execOri (h : OpHdr) (d : Fin 32) (s1 : Fin 32) (imm : BitVec 14) (s : State) : Host.Outcome State Fault Refusal :=
  .next (s.rowOp h { k := .aluI .ori, slot := 0, d := d.val, s1 := s1.val, imm := imm.toNat })

/-- XORI XORs with a zero-extended immediate (R377). -/
def execXori (h : OpHdr) (d : Fin 32) (s1 : Fin 32) (imm : BitVec 14) (s : State) : Host.Outcome State Fault Refusal :=
  .next (s.rowOp h { k := .aluI .xori, slot := 0, d := d.val, s1 := s1.val, imm := imm.toNat })

/-- SHLI shifts left by an immediate count (R379). -/
def execShli (h : OpHdr) (d : Fin 32) (s1 : Fin 32) (imm : BitVec 14) (s : State) : Host.Outcome State Fault Refusal :=
  .next (s.rowOp h { k := .aluI .shli, slot := 0, d := d.val, s1 := s1.val, imm := imm.toNat })

/-- SHRI shifts right logically by an immediate count (R379). -/
def execShri (h : OpHdr) (d : Fin 32) (s1 : Fin 32) (imm : BitVec 14) (s : State) : Host.Outcome State Fault Refusal :=
  .next (s.rowOp h { k := .aluI .shri, slot := 0, d := d.val, s1 := s1.val, imm := imm.toNat })

/-- SARI shifts right arithmetically by an immediate count (R379). -/
def execSari (h : OpHdr) (d : Fin 32) (s1 : Fin 32) (imm : BitVec 14) (s : State) : Host.Outcome State Fault Refusal :=
  .next (s.rowOp h { k := .aluI .sari, slot := 0, d := d.val, s1 := s1.val, imm := imm.toNat })

/-- ROLI rotates left by an immediate count (R377). -/
def execRoli (h : OpHdr) (d : Fin 32) (s1 : Fin 32) (imm : BitVec 14) (s : State) : Host.Outcome State Fault Refusal :=
  .next (s.rowOp h { k := .aluI .roli, slot := 0, d := d.val, s1 := s1.val, imm := imm.toNat })

/-- CMPI.EQ sets a predicate when a register equals the immediate (R377). -/
def execCmpiEq (h : OpHdr) (d : Fin 8) (s1 : Fin 32) (imm : BitVec 14) (s : State) : Host.Outcome State Fault Refusal :=
  .next (s.rowOp h { k := .cmpI .eq, slot := 0, d := d.val, s1 := s1.val, imm := imm.toNat })

/-- CMPI.NE sets a predicate when a register differs from the immediate (R377). -/
def execCmpiNe (h : OpHdr) (d : Fin 8) (s1 : Fin 32) (imm : BitVec 14) (s : State) : Host.Outcome State Fault Refusal :=
  .next (s.rowOp h { k := .cmpI .ne, slot := 0, d := d.val, s1 := s1.val, imm := imm.toNat })

/-- CMPI.LT sets a predicate on signed less-than against the immediate (R377). -/
def execCmpiLt (h : OpHdr) (d : Fin 8) (s1 : Fin 32) (imm : BitVec 14) (s : State) : Host.Outcome State Fault Refusal :=
  .next (s.rowOp h { k := .cmpI .lt, slot := 0, d := d.val, s1 := s1.val, imm := imm.toNat })

/-- CMPI.GE sets a predicate on signed greater-or-equal against the immediate (R377). -/
def execCmpiGe (h : OpHdr) (d : Fin 8) (s1 : Fin 32) (imm : BitVec 14) (s : State) : Host.Outcome State Fault Refusal :=
  .next (s.rowOp h { k := .cmpI .ge, slot := 0, d := d.val, s1 := s1.val, imm := imm.toNat })

/-- CMPI.LTU sets a predicate on unsigned less-than against the immediate (R377). -/
def execCmpiLtu (h : OpHdr) (d : Fin 8) (s1 : Fin 32) (imm : BitVec 14) (s : State) : Host.Outcome State Fault Refusal :=
  .next (s.rowOp h { k := .cmpI .ltu, slot := 0, d := d.val, s1 := s1.val, imm := imm.toNat })

/-- CMPI.GEU sets a predicate on unsigned greater-or-equal against the immediate (R377). -/
def execCmpiGeu (h : OpHdr) (d : Fin 8) (s1 : Fin 32) (imm : BitVec 14) (s : State) : Host.Outcome State Fault Refusal :=
  .next (s.rowOp h { k := .cmpI .geu, slot := 0, d := d.val, s1 := s1.val, imm := imm.toNat })

/-- EXTB zero-extends one octet lane (R380). -/
def execExtb (h : OpHdr) (d : Fin 32) (s1 : Fin 32) (k : Fin 9) (s : State) : Host.Outcome State Fault Refusal :=
  .next (s.rowOp h { k := .part .extb, slot := 0, d := d.val, s1 := s1.val, imm := k.val })

/-- EXTBS sign-extends one octet lane (R380). -/
def execExtbs (h : OpHdr) (d : Fin 32) (s1 : Fin 32) (k : Fin 9) (s : State) : Host.Outcome State Fault Refusal :=
  .next (s.rowOp h { k := .part .extbs, slot := 0, d := d.val, s1 := s1.val, imm := k.val })

/-- INSB inserts an octet into a lane (R380). -/
def execInsb (h : OpHdr) (d : Fin 32) (s1 : Fin 32) (s2 : Fin 32) (k : Fin 9) (s : State) : Host.Outcome State Fault Refusal :=
  .next (s.rowOp h { k := .part .insb, slot := 0, d := d.val, s1 := s1.val, s2 := s2.val, imm := k.val })

/-- EXTQ zero-extends one quarter (R380). -/
def execExtq (h : OpHdr) (d : Fin 32) (s1 : Fin 32) (k : Fin 4) (s : State) : Host.Outcome State Fault Refusal :=
  .next (s.rowOp h { k := .part .extq, slot := 0, d := d.val, s1 := s1.val, imm := k.val })

/-- EXTQS sign-extends one quarter (R380). -/
def execExtqs (h : OpHdr) (d : Fin 32) (s1 : Fin 32) (k : Fin 4) (s : State) : Host.Outcome State Fault Refusal :=
  .next (s.rowOp h { k := .part .extqs, slot := 0, d := d.val, s1 := s1.val, imm := k.val })

/-- INSQ inserts a quarter (R380). -/
def execInsq (h : OpHdr) (d : Fin 32) (s1 : Fin 32) (s2 : Fin 32) (k : Fin 4) (s : State) : Host.Outcome State Fault Refusal :=
  .next (s.rowOp h { k := .part .insq, slot := 0, d := d.val, s1 := s1.val, s2 := s2.val, imm := k.val })

/-- EXTH zero-extends one half (R380). -/
def execExth (h : OpHdr) (d : Fin 32) (s1 : Fin 32) (k : Fin 2) (s : State) : Host.Outcome State Fault Refusal :=
  .next (s.rowOp h { k := .part .exth, slot := 0, d := d.val, s1 := s1.val, imm := k.val })

/-- EXTHS sign-extends one half (R380). -/
def execExths (h : OpHdr) (d : Fin 32) (s1 : Fin 32) (k : Fin 2) (s : State) : Host.Outcome State Fault Refusal :=
  .next (s.rowOp h { k := .part .exths, slot := 0, d := d.val, s1 := s1.val, imm := k.val })

/-- INSH inserts a half (R380). -/
def execInsh (h : OpHdr) (d : Fin 32) (s1 : Fin 32) (s2 : Fin 32) (k : Fin 2) (s : State) : Host.Outcome State Fault Refusal :=
  .next (s.rowOp h { k := .part .insh, slot := 0, d := d.val, s1 := s1.val, s2 := s2.val, imm := k.val })

/-- BEQM writes a mask of equal octet lanes (R380). -/
def execBeqm (h : OpHdr) (d : Fin 32) (s1 : Fin 32) (s2 : Fin 32) (s : State) : Host.Outcome State Fault Refusal :=
  .next (s.rowOp h { k := .part .beqm, slot := 0, d := d.val, s1 := s1.val, s2 := s2.val })

/-- BSWAP reverses the octet lanes (R380). -/
def execBswap (h : OpHdr) (d : Fin 32) (s1 : Fin 32) (s : State) : Host.Outcome State Fault Refusal :=
  .next (s.rowOp h { k := .part .bswap, slot := 0, d := d.val, s1 := s1.val })

/-- LADD adds octet lanes modulo 256 (R380). -/
def execLadd (h : OpHdr) (d : Fin 32) (s1 : Fin 32) (s2 : Fin 32) (s : State) : Host.Outcome State Fault Refusal :=
  .next (s.rowOp h { k := .part .ladd, slot := 0, d := d.val, s1 := s1.val, s2 := s2.val })

/-- LSUB subtracts octet lanes modulo 256 (R380). -/
def execLsub (h : OpHdr) (d : Fin 32) (s1 : Fin 32) (s2 : Fin 32) (s : State) : Host.Outcome State Fault Refusal :=
  .next (s.rowOp h { k := .part .lsub, slot := 0, d := d.val, s1 := s1.val, s2 := s2.val })

/-- CMP.EQ sets a predicate when two registers are equal (R381). -/
def execCmpEq (h : OpHdr) (d : Fin 8) (s1 : Fin 32) (s2 : Fin 32) (s : State) : Host.Outcome State Fault Refusal :=
  .next (s.rowOp h { k := .cmp .eq, slot := 0, d := d.val, s1 := s1.val, s2 := s2.val })

/-- CMP.NE sets a predicate when two registers differ (R381). -/
def execCmpNe (h : OpHdr) (d : Fin 8) (s1 : Fin 32) (s2 : Fin 32) (s : State) : Host.Outcome State Fault Refusal :=
  .next (s.rowOp h { k := .cmp .ne, slot := 0, d := d.val, s1 := s1.val, s2 := s2.val })

/-- CMP.LT sets a predicate on signed less-than (R381). -/
def execCmpLt (h : OpHdr) (d : Fin 8) (s1 : Fin 32) (s2 : Fin 32) (s : State) : Host.Outcome State Fault Refusal :=
  .next (s.rowOp h { k := .cmp .lt, slot := 0, d := d.val, s1 := s1.val, s2 := s2.val })

/-- CMP.GE sets a predicate on signed greater-or-equal (R381). -/
def execCmpGe (h : OpHdr) (d : Fin 8) (s1 : Fin 32) (s2 : Fin 32) (s : State) : Host.Outcome State Fault Refusal :=
  .next (s.rowOp h { k := .cmp .ge, slot := 0, d := d.val, s1 := s1.val, s2 := s2.val })

/-- CMP.LTU sets a predicate on unsigned less-than (R381). -/
def execCmpLtu (h : OpHdr) (d : Fin 8) (s1 : Fin 32) (s2 : Fin 32) (s : State) : Host.Outcome State Fault Refusal :=
  .next (s.rowOp h { k := .cmp .ltu, slot := 0, d := d.val, s1 := s1.val, s2 := s2.val })

/-- CMP.GEU sets a predicate on unsigned greater-or-equal (R381). -/
def execCmpGeu (h : OpHdr) (d : Fin 8) (s1 : Fin 32) (s2 : Fin 32) (s : State) : Host.Outcome State Fault Refusal :=
  .next (s.rowOp h { k := .cmp .geu, slot := 0, d := d.val, s1 := s1.val, s2 := s2.val })

/-- TST sets a predicate when the AND of two registers is nonzero (R381). -/
def execTst (h : OpHdr) (d : Fin 8) (s1 : Fin 32) (s2 : Fin 32) (s : State) : Host.Outcome State Fault Refusal :=
  .next (s.rowOp h { k := .cmp .tst, slot := 0, d := d.val, s1 := s1.val, s2 := s2.val })

/-- PAND ANDs two predicates (R381). -/
def execPand (h : OpHdr) (d : Fin 8) (s1 : Fin 8) (s2 : Fin 8) (s : State) : Host.Outcome State Fault Refusal :=
  .next (s.rowOp h { k := .predf .pand, slot := 0, d := d.val, s1 := s1.val, s2 := s2.val })

/-- POR ORs two predicates (R381). -/
def execPor (h : OpHdr) (d : Fin 8) (s1 : Fin 8) (s2 : Fin 8) (s : State) : Host.Outcome State Fault Refusal :=
  .next (s.rowOp h { k := .predf .por, slot := 0, d := d.val, s1 := s1.val, s2 := s2.val })

/-- PXOR XORs two predicates (R381). -/
def execPxor (h : OpHdr) (d : Fin 8) (s1 : Fin 8) (s2 : Fin 8) (s : State) : Host.Outcome State Fault Refusal :=
  .next (s.rowOp h { k := .predf .pxor, slot := 0, d := d.val, s1 := s1.val, s2 := s2.val })

/-- PANDN writes Fs1 AND NOT Fs2 (R381). -/
def execPandn (h : OpHdr) (d : Fin 8) (s1 : Fin 8) (s2 : Fin 8) (s : State) : Host.Outcome State Fault Refusal :=
  .next (s.rowOp h { k := .predf .pandn, slot := 0, d := d.val, s1 := s1.val, s2 := s2.val })

/-- PNOT inverts a predicate (R381). -/
def execPnot (h : OpHdr) (d : Fin 8) (s1 : Fin 8) (s : State) : Host.Outcome State Fault Refusal :=
  .next (s.rowOp h { k := .predf .pnot, slot := 0, d := d.val, s1 := s1.val })

/-- MFF reads the predicates into a general register (R328). -/
def execMff (h : OpHdr) (d : Fin 32) (s : State) : Host.Outcome State Fault Refusal :=
  .next (s.rowOp h { k := .mff, slot := 0, d := d.val })

/-- MTF writes F1–F7 from a general register (R328). -/
def execMtf (h : OpHdr) (s1 : Fin 32) (s : State) : Host.Outcome State Fault Refusal :=
  .next (s.rowOp h { k := .mtf, slot := 0, s1 := s1.val })

end Sys2Proof.Machine
end

