-- ==== Sys2Proof/Machine/ExecCellL.lean ====
section
/-! DEFINITION. The meanings of the commands of L-slot ops and memory traffic (R389-R396, R412-R429). -/

namespace Sys2Proof.Machine

/-- LDW loads a word (R389). -/
def execLdw (h : OpHdr) (d : Fin 32) (s1 : Fin 32) (imm : BitVec 14) (s : State) : Host.Outcome State Fault Refusal :=
  .next (s.rowOp h { k := .ld .word false, slot := 2, d := d.val, s1 := s1.val, imm := imm.toNat })

/-- LDH loads a zero-extended half (R390). -/
def execLdh (h : OpHdr) (d : Fin 32) (s1 : Fin 32) (woff : BitVec 10) (k : Fin 16) (s : State) : Host.Outcome State Fault Refusal :=
  .next (s.rowOp h { k := .ld (.half 0) false, slot := 2, d := d.val, s1 := s1.val, imm := woff.toNat * 16 + k.val })

/-- LDHS loads a sign-extended half (R390). -/
def execLdhs (h : OpHdr) (d : Fin 32) (s1 : Fin 32) (woff : BitVec 10) (k : Fin 16) (s : State) : Host.Outcome State Fault Refusal :=
  .next (s.rowOp h { k := .ld (.half 0) true, slot := 2, d := d.val, s1 := s1.val, imm := woff.toNat * 16 + k.val })

/-- LDQ loads a zero-extended quarter (R390). -/
def execLdq (h : OpHdr) (d : Fin 32) (s1 : Fin 32) (woff : BitVec 10) (k : Fin 16) (s : State) : Host.Outcome State Fault Refusal :=
  .next (s.rowOp h { k := .ld (.quarter 0) false, slot := 2, d := d.val, s1 := s1.val, imm := woff.toNat * 16 + k.val })

/-- LDQS loads a sign-extended quarter (R390). -/
def execLdqs (h : OpHdr) (d : Fin 32) (s1 : Fin 32) (woff : BitVec 10) (k : Fin 16) (s : State) : Host.Outcome State Fault Refusal :=
  .next (s.rowOp h { k := .ld (.quarter 0) true, slot := 2, d := d.val, s1 := s1.val, imm := woff.toNat * 16 + k.val })

/-- LDB loads a zero-extended octet lane (R390). -/
def execLdb (h : OpHdr) (d : Fin 32) (s1 : Fin 32) (woff : BitVec 10) (k : Fin 16) (s : State) : Host.Outcome State Fault Refusal :=
  .next (s.rowOp h { k := .ld (.octet 0) false, slot := 2, d := d.val, s1 := s1.val, imm := woff.toNat * 16 + k.val })

/-- LDBS loads a sign-extended octet lane (R390). -/
def execLdbs (h : OpHdr) (d : Fin 32) (s1 : Fin 32) (woff : BitVec 10) (k : Fin 16) (s : State) : Host.Outcome State Fault Refusal :=
  .next (s.rowOp h { k := .ld (.octet 0) true, slot := 2, d := d.val, s1 := s1.val, imm := woff.toNat * 16 + k.val })

/-- STW stores a word through the store buffer (R389). -/
def execStw (h : OpHdr) (d : Fin 32) (s1 : Fin 32) (imm : BitVec 14) (s : State) : Host.Outcome State Fault Refusal :=
  .next (s.rowOp h { k := .st .word, slot := 2, d := d.val, s1 := s1.val, imm := imm.toNat })

/-- STH stores a half, merged at the target (R390). -/
def execSth (h : OpHdr) (d : Fin 32) (s1 : Fin 32) (woff : BitVec 10) (k : Fin 16) (s : State) : Host.Outcome State Fault Refusal :=
  .next (s.rowOp h { k := .st (.half 0), slot := 2, d := d.val, s1 := s1.val, imm := woff.toNat * 16 + k.val })

/-- STQ stores a quarter, merged at the target (R390). -/
def execStq (h : OpHdr) (d : Fin 32) (s1 : Fin 32) (woff : BitVec 10) (k : Fin 16) (s : State) : Host.Outcome State Fault Refusal :=
  .next (s.rowOp h { k := .st (.quarter 0), slot := 2, d := d.val, s1 := s1.val, imm := woff.toNat * 16 + k.val })

/-- STB stores an octet lane, merged at the target (R390). -/
def execStb (h : OpHdr) (d : Fin 32) (s1 : Fin 32) (woff : BitVec 10) (k : Fin 16) (s : State) : Host.Outcome State Fault Refusal :=
  .next (s.rowOp h { k := .st (.octet 0), slot := 2, d := d.val, s1 := s1.val, imm := woff.toNat * 16 + k.val })

/-- LDWX loads a word at a scaled indexed address (R390). -/
def execLdwx (h : OpHdr) (d : Fin 32) (s1 : Fin 32) (s2 : Fin 32) (sh : Fin 4) (s : State) : Host.Outcome State Fault Refusal :=
  .next (s.rowOp h { k := .ldx, slot := 2, d := d.val, s1 := s1.val, s2 := s2.val, imm := sh.val })

/-- STWX stores a word at a scaled indexed address (R390). -/
def execStwx (h : OpHdr) (d : Fin 32) (s1 : Fin 32) (s2 : Fin 32) (sh : Fin 4) (s : State) : Host.Outcome State Fault Refusal :=
  .next (s.rowOp h { k := .stx, slot := 2, d := d.val, s1 := s1.val, s2 := s2.val, imm := sh.val })

/-- BMOV copies words in ascending order as a resumable block op (R394). -/
def execBmov (h : OpHdr) (d : Fin 32) (s1 : Fin 32) (s2 : Fin 32) (s : State) : Host.Outcome State Fault Refusal :=
  .next (s.rowOp h { k := .blk .bmov, slot := 2, d := d.val, s1 := s1.val, s2 := s2.val })

/-- BMOVD copies words in descending order (R394). -/
def execBmovd (h : OpHdr) (d : Fin 32) (s1 : Fin 32) (s2 : Fin 32) (s : State) : Host.Outcome State Fault Refusal :=
  .next (s.rowOp h { k := .blk .bmovd, slot := 2, d := d.val, s1 := s1.val, s2 := s2.val })

/-- BFILL fills words with a value (R392). -/
def execBfill (h : OpHdr) (d : Fin 32) (s1 : Fin 32) (s2 : Fin 32) (s : State) : Host.Outcome State Fault Refusal :=
  .next (s.rowOp h { k := .blk .bfill, slot := 2, d := d.val, s1 := s1.val, s2 := s2.val })

/-- CRCB folds words into a reflected CRC-32 register (R396). -/
def execCrcb (h : OpHdr) (d : Fin 32) (s1 : Fin 32) (s2 : Fin 32) (s : State) : Host.Outcome State Fault Refusal :=
  .next (s.rowOp h { k := .blk .crcb, slot := 2, d := d.val, s1 := s1.val, s2 := s2.val })

/-- CMPB compares two blocks until the first differing words (R394). -/
def execCmpb (h : OpHdr) (d : Fin 32) (s1 : Fin 32) (s2 : Fin 32) (s : State) : Host.Outcome State Fault Refusal :=
  .next (s.rowOp h { k := .blk .cmpb, slot := 2, d := d.val, s1 := s1.val, s2 := s2.val })

/-- BLOCK_WORD_STEP: A block op word step completes, updating its operand registers, and events may be taken between steps (R395). -/
def execBlockWordStep (x : Sends) (fl : Flips) (flD : Flips) (s : State) : Host.Outcome State Fault Refusal :=
  .next (s.liveS fun s => s.blockStep x.cell.val fl flD x.cal)

/-- DCINV invalidates the data-cache line holding an address (R391). -/
def execDcinv (h : OpHdr) (s1 : Fin 32) (s : State) : Host.Outcome State Fault Refusal :=
  .next (s.rowOp h { k := .dcinv, slot := 2, s1 := s1.val })

/-- DCINVA invalidates the whole data cache and attribute cache (R391). -/
def execDcinva (h : OpHdr) (s : State) : Host.Outcome State Fault Refusal :=
  .next (s.rowOp h { k := .dcinva, slot := 2 })

/-- LOAD_RETURN: A load or IN response is held to its nominal latency or ends a freeze, and writes its destination (R412). -/
def execLoadReturn (c : Fin 64) (idx : Nat) (fl : Flips) (s : State) : Host.Outcome State Fault Refusal :=
  .next (s.liveS fun s => s.loadReturn c.val idx fl)

/-- STORE_DRAIN: The store buffer sends its oldest store to its target, where the sluice checks it (R422). -/
def execStoreDrain (c : Fin 64) (fl : Flips) (s : State) : Host.Outcome State Fault Refusal :=
  .next (s.liveS fun s => s.storeDrain c.val fl)

/-- STORE_ACK: A target acknowledges a store and its store-buffer entry is freed (R422). -/
def execStoreAck (c : Fin 64) (idx : Nat) (s : State) : Host.Outcome State Fault Refusal :=
  .next (s.liveS fun s => s.storeAck c.val idx)

/-- FETCH_LINE_RETURN: A code-store or DRAM line miss returns and fills the wide-line buffer (R416). -/
def execFetchLineReturn (x : Sends) (fl : Flips) (s : State) : Host.Outcome State Fault Refusal :=
  .next (s.liveS fun s => s.lineBack x.cell.val fl x.cal)

/-- CODE_PREFETCH: Fetch reaching the second half of a line prefetches the next line, declined silently if refused (R418). -/
def execCodePrefetch (x : Prefetch) (s : State) : Host.Outcome State Fault Refusal :=
  .next (s.liveS fun s => s.prefetch x.cell.val x.fl x.cal)

end Sys2Proof.Machine
end

