-- ==== Sys2Proof/Machine/ExecCellM.lean ====
section
/-! DEFINITION. The meanings of the commands of M-slot ops (R356, R382-R388). -/

namespace Sys2Proof.Machine

/-- MULS writes a signed 144-bit product to a product register (R382). -/
def execMuls (h : OpHdr) (d : Fin 4) (s1 : Fin 32) (s2 : Fin 32) (s : State) : Host.Outcome State Fault Refusal :=
  .next (s.rowOp h { k := .mul .muls, slot := 1, d := d.val, s1 := s1.val, s2 := s2.val })

/-- MULU writes an unsigned 144-bit product (R382). -/
def execMulu (h : OpHdr) (d : Fin 4) (s1 : Fin 32) (s2 : Fin 32) (s : State) : Host.Outcome State Fault Refusal :=
  .next (s.rowOp h { k := .mul .mulu, slot := 1, d := d.val, s1 := s1.val, s2 := s2.val })

/-- MACS accumulates a signed product into a product register (R383). -/
def execMacs (h : OpHdr) (d : Fin 4) (s1 : Fin 32) (s2 : Fin 32) (s : State) : Host.Outcome State Fault Refusal :=
  .next (s.rowOp h { k := .mul .macs, slot := 1, d := d.val, s1 := s1.val, s2 := s2.val })

/-- MACU accumulates an unsigned product (R383). -/
def execMacu (h : OpHdr) (d : Fin 4) (s1 : Fin 32) (s2 : Fin 32) (s : State) : Host.Outcome State Fault Refusal :=
  .next (s.rowOp h { k := .mul .macu, slot := 1, d := d.val, s1 := s1.val, s2 := s2.val })

/-- MSUS subtracts a signed product from a product register (R383). -/
def execMsus (h : OpHdr) (d : Fin 4) (s1 : Fin 32) (s2 : Fin 32) (s : State) : Host.Outcome State Fault Refusal :=
  .next (s.rowOp h { k := .mul .msus, slot := 1, d := d.val, s1 := s1.val, s2 := s2.val })

/-- MULL writes the low 72 bits of a product to a general register (R382). -/
def execMull (h : OpHdr) (d : Fin 32) (s1 : Fin 32) (s2 : Fin 32) (s : State) : Host.Outcome State Fault Refusal :=
  .next (s.rowOp h { k := .mul .mull, slot := 1, d := d.val, s1 := s1.val, s2 := s2.val })

/-- MFPH reads the high half of a product register (R383). -/
def execMfph (h : OpHdr) (d : Fin 32) (s1 : Fin 4) (s : State) : Host.Outcome State Fault Refusal :=
  .next (s.rowOp h { k := .pmov .mfph, slot := 1, d := d.val, s1 := s1.val })

/-- MFPL reads the low half of a product register (R383). -/
def execMfpl (h : OpHdr) (d : Fin 32) (s1 : Fin 4) (s : State) : Host.Outcome State Fault Refusal :=
  .next (s.rowOp h { k := .pmov .mfpl, slot := 1, d := d.val, s1 := s1.val })

/-- MTPH writes the high half of a product register (R383). -/
def execMtph (h : OpHdr) (d : Fin 4) (s1 : Fin 32) (s : State) : Host.Outcome State Fault Refusal :=
  .next (s.rowOp h { k := .pmov .mtph, slot := 1, d := d.val, s1 := s1.val })

/-- MTPL writes the low half of a product register (R383). -/
def execMtpl (h : OpHdr) (d : Fin 4) (s1 : Fin 32) (s : State) : Host.Outcome State Fault Refusal :=
  .next (s.rowOp h { k := .pmov .mtpl, slot := 1, d := d.val, s1 := s1.val })

/-- MFPX extracts 72 bits of a product register from bit n (R384). -/
def execMfpx (h : OpHdr) (d : Fin 32) (s1 : Fin 4) (n : Fin 73) (s : State) : Host.Outcome State Fault Refusal :=
  .next (s.rowOp h { k := .pmov .mfpx, slot := 1, d := d.val, s1 := s1.val, imm := n.val })

/-- MFPXR extracts 72 bits from bit n with rounding (R384). -/
def execMfpxr (h : OpHdr) (d : Fin 32) (s1 : Fin 4) (n : Fin 72) (s : State) : Host.Outcome State Fault Refusal :=
  .next (s.rowOp h { k := .pmov .mfpxr, slot := 1, d := d.val, s1 := s1.val, imm := n.val + 1 })

/-- XMUL multiplies a product register by a register as a long op (R385). -/
def execXmul (h : OpHdr) (d : Fin 4) (s1 : Fin 4) (s2 : Fin 32) (s : State) : Host.Outcome State Fault Refusal :=
  .next (s.rowOp h { k := .long .xmul, slot := 1, d := d.val, s1 := s1.val, s2 := s2.val })

/-- XMULT multiplies as XMUL and traps on overflow (R385). -/
def execXmult (h : OpHdr) (d : Fin 4) (s1 : Fin 4) (s2 : Fin 32) (s : State) : Host.Outcome State Fault Refusal :=
  .next (s.rowOp h { k := .long .xmult, slot := 1, d := d.val, s1 := s1.val, s2 := s2.val })

/-- DIV divides signed as a long op, saturating on a zero divisor (R386). -/
def execDiv (h : OpHdr) (d : Fin 32) (s1 : Fin 32) (s2 : Fin 32) (s : State) : Host.Outcome State Fault Refusal :=
  .next (s.rowOp h { k := .long .div, slot := 1, d := d.val, s1 := s1.val, s2 := s2.val })

/-- DIVU divides unsigned as a long op (R386). -/
def execDivu (h : OpHdr) (d : Fin 32) (s1 : Fin 32) (s2 : Fin 32) (s : State) : Host.Outcome State Fault Refusal :=
  .next (s.rowOp h { k := .long .divu, slot := 1, d := d.val, s1 := s1.val, s2 := s2.val })

/-- REM writes the signed remainder (R386). -/
def execRem (h : OpHdr) (d : Fin 32) (s1 : Fin 32) (s2 : Fin 32) (s : State) : Host.Outcome State Fault Refusal :=
  .next (s.rowOp h { k := .long .rem, slot := 1, d := d.val, s1 := s1.val, s2 := s2.val })

/-- REMU writes the unsigned remainder (R386). -/
def execRemu (h : OpHdr) (d : Fin 32) (s1 : Fin 32) (s2 : Fin 32) (s : State) : Host.Outcome State Fault Refusal :=
  .next (s.rowOp h { k := .long .remu, slot := 1, d := d.val, s1 := s1.val, s2 := s2.val })

/-- DIVQ writes the 48.24 quotient (R386). -/
def execDivq (h : OpHdr) (d : Fin 32) (s1 : Fin 32) (s2 : Fin 32) (s : State) : Host.Outcome State Fault Refusal :=
  .next (s.rowOp h { k := .long .divq, slot := 1, d := d.val, s1 := s1.val, s2 := s2.val })

/-- DIVT divides signed and traps on a zero divisor (R386). -/
def execDivt (h : OpHdr) (d : Fin 32) (s1 : Fin 32) (s2 : Fin 32) (s : State) : Host.Outcome State Fault Refusal :=
  .next (s.rowOp h { k := .long .divt, slot := 1, d := d.val, s1 := s1.val, s2 := s2.val })

/-- DIVUT divides unsigned and traps on a zero divisor (R386). -/
def execDivut (h : OpHdr) (d : Fin 32) (s1 : Fin 32) (s2 : Fin 32) (s : State) : Host.Outcome State Fault Refusal :=
  .next (s.rowOp h { k := .long .divut, slot := 1, d := d.val, s1 := s1.val, s2 := s2.val })

/-- REMT writes the signed remainder and traps on a zero divisor (R386). -/
def execRemt (h : OpHdr) (d : Fin 32) (s1 : Fin 32) (s2 : Fin 32) (s : State) : Host.Outcome State Fault Refusal :=
  .next (s.rowOp h { k := .long .remt, slot := 1, d := d.val, s1 := s1.val, s2 := s2.val })

/-- REMUT writes the unsigned remainder and traps on a zero divisor (R386). -/
def execRemut (h : OpHdr) (d : Fin 32) (s1 : Fin 32) (s2 : Fin 32) (s : State) : Host.Outcome State Fault Refusal :=
  .next (s.rowOp h { k := .long .remut, slot := 1, d := d.val, s1 := s1.val, s2 := s2.val })

/-- DIVQT writes the 48.24 quotient and traps on a zero divisor (R386). -/
def execDivqt (h : OpHdr) (d : Fin 32) (s1 : Fin 32) (s2 : Fin 32) (s : State) : Host.Outcome State Fault Refusal :=
  .next (s.rowOp h { k := .long .divqt, slot := 1, d := d.val, s1 := s1.val, s2 := s2.val })

/-- SQRTU writes the integer square root (R385). -/
def execSqrtu (h : OpHdr) (d : Fin 32) (s1 : Fin 32) (s : State) : Host.Outcome State Fault Refusal :=
  .next (s.rowOp h { k := .long .sqrtu, slot := 1, d := d.val, s1 := s1.val })

/-- SQRTQ writes the 48.24 square root (R385). -/
def execSqrtq (h : OpHdr) (d : Fin 32) (s1 : Fin 32) (s : State) : Host.Outcome State Fault Refusal :=
  .next (s.rowOp h { k := .long .sqrtq, slot := 1, d := d.val, s1 := s1.val })

/-- LONG_OP_COMPLETE: A long op completes, writes its destination and flags, and may raise its exception (R387). -/
def execLongOpComplete (c : Fin 64) (idx : Nat) (s : State) : Host.Outcome State Fault Refusal :=
  .next (s.liveS fun s => s.longComplete c.val idx)

/-- LIMM builds a constant from its immediate and payload word according to MODE (R356). -/
def execLimm (h : OpHdr) (slot : Fin 4) (own : Bool) (d : Fin 32) (mode : Fin 4) (v : BitVec 52) (s : State) : Host.Outcome State Fault Refusal :=
  .next (s.rowOp h { k := .limm, slot := slot.val, d := d.val, s1 := mode.val, s2 := b2n own, imm := v.toNat })

end Sys2Proof.Machine
end

