-- ==== Sys2Proof/Machine/ExecCellX.lean ====
section
/-! DEFINITION. The meanings of the commands of X-slot ops (R397-R408, R421). -/

namespace Sys2Proof.Machine

/-- BR branches to a relative target after its delay bundle when its predicate is true (R398). -/
def execBr (h : OpHdr) (off : BitVec 24) (s : State) : Host.Outcome State Fault Refusal :=
  .next (s.rowOp h { k := .br, slot := 3, imm := off.toNat })

/-- CALL branches and pushes the return address on the return stack (R398). -/
def execCall (h : OpHdr) (off : BitVec 24) (s : State) : Host.Outcome State Fault Refusal :=
  .next (s.rowOp h { k := .call, slot := 3, imm := off.toNat })

/-- JR branches to a register target (R398). -/
def execJr (h : OpHdr) (s1 : Fin 32) (s : State) : Host.Outcome State Fault Refusal :=
  .next (s.rowOp h { k := .jr, slot := 3, s1 := s1.val })

/-- CALLR branches to a register target and pushes the return address (R398). -/
def execCallr (h : OpHdr) (s1 : Fin 32) (s : State) : Host.Outcome State Fault Refusal :=
  .next (s.rowOp h { k := .callr, slot := 3, s1 := s1.val })

/-- RET pops the return stack and branches to the popped address (R398). -/
def execRet (h : OpHdr) (s : State) : Host.Outcome State Fault Refusal :=
  .next (s.rowOp h { k := .ret, slot := 3 })

/-- RETX waits for its fences and restores ST and PC from EPC and ESTAT, or MEPC and MESTAT (R401). -/
def execRetx (h : OpHdr) (s : State) : Host.Outcome State Fault Refusal :=
  .next (s.rowOp h { k := .retx, slot := 3 })

/-- LOOP sets up a hardware loop level and sets ST.LEN (R359). -/
def execLoop (h : OpHdr) (level : Fin 4) (gc : Fin 32) (off : BitVec 17) (s : State) : Host.Outcome State Fault Refusal :=
  .next (s.rowOp h { k := .loop, slot := 3, s1 := gc.val, s2 := level.val, imm := off.toNat })

/-- SYSC enters S, or M for the M variant, as a trap (R400). -/
def execSysc (h : OpHdr) (m : Bool) (s : State) : Host.Outcome State Fault Refusal :=
  .next (s.rowOp h { k := .sysc, slot := 3, imm := b2n m })

/-- MFS copies a special register into a general register (R402). -/
def execMfs (h : OpHdr) (d : Fin 32) (spr : Fin 128) (s : State) : Host.Outcome State Fault Refusal :=
  .next (s.rowOp h { k := .mfs, slot := 3, d := d.val, imm := spr.val })

/-- MTS writes a special register, with ST taking effect after two shadow bundles (R333). -/
def execMts (h : OpHdr) (s1 : Fin 32) (spr : Fin 128) (s : State) : Host.Outcome State Fault Refusal :=
  .next (s.rowOp h { k := .mts, slot := 3, s1 := s1.val, imm := spr.val })

/-- IN reads an I/O register into a general register (R403). -/
def execIoIn (h : OpHdr) (d : Fin 32) (s1 : Fin 32) (imm : BitVec 14) (s : State) : Host.Outcome State Fault Refusal :=
  .next (s.rowOp h { k := .ioIn, slot := 3, d := d.val, s1 := s1.val, imm := imm.toNat })

/-- OUT posts a write of an I/O register (R403). -/
def execIoOut (h : OpHdr) (d : Fin 32) (s1 : Fin 32) (o : OutImm) (s : State) : Host.Outcome State Fault Refusal :=
  .next (s.rowOp h { k := .ioOut, slot := 3, d := d.val, s1 := s1.val, imm := o.imm.toNat, flip := o.flip })

/-- IST queues a write of one op to the local instruction SRAM (R345). -/
def execIst (h : OpHdr) (d : Fin 32) (s1 : Fin 32) (imm : BitVec 14) (s : State) : Host.Outcome State Fault Refusal :=
  .next (s.rowOp h { k := .ist, slot := 3, d := d.val, s1 := s1.val, imm := imm.toNat })

/-- IST_WRITE: A queued IST reaches the array after the third following bundle has been read (R421). -/
def execIstWrite (c : Fin 64) (s : State) : Host.Outcome State Fault Refusal :=
  .next (s.liveS fun s => s.istWrite c.val)

/-- ISYNC discards the loop and wide-line buffers so the next bundle is fetched afresh (R404). -/
def execIsync (h : OpHdr) (s : State) : Host.Outcome State Fault Refusal :=
  .next (s.rowOp h { k := .isync, slot := 3 })

/-- FENCE holds its bundle until the conditions of its mask hold (R405). -/
def execFence (h : OpHdr) (mask : BitVec 4) (s : State) : Host.Outcome State Fault Refusal :=
  .next (s.rowOp h { k := .fence, slot := 3, imm := mask.toNat })

/-- TLBI_PAGE_S1: TLBI kind 0 invalidates the partition's stage-1 entries of one page (R406). -/
def execTlbiPageS1 (h : OpHdr) (s1 : Fin 32) (s : State) : Host.Outcome State Fault Refusal :=
  .next (s.rowOp h { k := .tlbi 0, slot := 3, s1 := s1.val })

/-- TLBI_ALL_S1: TLBI kind 1 invalidates all stage-1 entries of the partition (R406). -/
def execTlbiAllS1 (h : OpHdr) (s : State) : Host.Outcome State Fault Refusal :=
  .next (s.rowOp h { k := .tlbi 1, slot := 3 })

/-- TLBI_PAGE_S2: TLBI kind 2 invalidates a partition's stage-2 entries of one intermediate page (R406). -/
def execTlbiPageS2 (h : OpHdr) (s1 : Fin 32) (s2 : Fin 32) (s : State) : Host.Outcome State Fault Refusal :=
  .next (s.rowOp h { k := .tlbi 2, slot := 3, s1 := s1.val, s2 := s2.val })

/-- TLBI_PARTITION: TLBI kind 3 invalidates all entries of both stages of a partition (R406). -/
def execTlbiPartition (h : OpHdr) (s2 : Fin 32) (s : State) : Host.Outcome State Fault Refusal :=
  .next (s.rowOp h { k := .tlbi 3, slot := 3, s2 := s2.val })

/-- TLBI_ALL: TLBI kind 4 invalidates every TLB entry (R406). -/
def execTlbiAll (h : OpHdr) (s : State) : Host.Outcome State Fault Refusal :=
  .next (s.rowOp h { k := .tlbi 4, slot := 3 })

/-- SEV sets the event latch of the named cell, group or partition (R363). -/
def execSev (h : OpHdr) (s1 : Fin 32) (s : State) : Host.Outcome State Fault Refusal :=
  .next (s.rowOp h { k := .sev, slot := 3, s1 := s1.val })

/-- WFE clears a set event latch or gates the clock until the latch is set or a waking event arrives (R364). -/
def execWfe (h : OpHdr) (s : State) : Host.Outcome State Fault Refusal :=
  .next (s.rowOp h { k := .wfe, slot := 3 })

/-- WFE_WAKE: A waiting WFE is woken by the latch or an eligible event and issue continues (R364). -/
def execWfeWake (c : Fin 64) (s : State) : Host.Outcome State Fault Refusal :=
  .next (s.liveS fun s => s.wake c.val)

/-- WAITC waits until a domain reading reaches a threshold, completing at once if already reached (R70). -/
def execWaitc (h : OpHdr) (s1 : Fin 32) (dom : Fin 32) (conf : Bool) (down : Bool) (s : State) : Host.Outcome State Fault Refusal :=
  .next (s.rowOp h { k := .waitc, slot := 3, s1 := s1.val, s2 := dom.val, imm := b2n conf * 2 + b2n down })

/-- BRK raises the breakpoint exception, or halts the group under debug with BRKH (R408). -/
def execBrk (h : OpHdr) (s : State) : Host.Outcome State Fault Refusal :=
  .next (s.rowOp h { k := .brk, slot := 3 })

/-- RESERVED_OP: An op with a reserved encoding has an undefined effect within fixed bounds (R368). -/
def execReservedOp (h : OpHdr) (slot : Fin 4) (s : State) : Host.Outcome State Fault Refusal :=
  .next (s.rowOp h { k := .reserved, slot := slot.val })

end Sys2Proof.Machine
end

