-- ==== Sys2Proof/Machine/ExecChannels.lean ====
section
/-! DEFINITION. The meanings of the commands of channels (R138-R145). -/

namespace Sys2Proof.Machine

/-- CHANNEL_ENABLE: Setting CHnCTL.EN moves a channel to IDLE, or RETIRED if latched, after the meter domain rule is checked (R140). -/
def execChannelEnable (who : Requester) (n : Fin 16) (val : Half) (s : State) : Host.Outcome State Fault Refusal :=
  .next (s.rowWrite who (chCtl n.val) (withField ChCtl.EN 1 val))

/-- CHANNEL_DISABLE: Clearing CHnCTL.EN moves an IDLE or SAFE channel to DISABLED and is refused in other states (R140). -/
def execChannelDisable (who : Requester) (n : Fin 16) (val : Half) (s : State) : Host.Outcome State Fault Refusal :=
  .next (s.rowWrite who (chCtl n.val) (withField ChCtl.EN 0 val))

/-- ARM moves an IDLE channel to AUTHORISED (R140). -/
def execArm (who : Requester) (n : Fin 16) (s : State) : Host.Outcome State Fault Refusal :=
  .next (s.rowWrite who (chCmd n.val) (withField ChCmd.CMD 1 0))

/-- DISARM moves an AUTHORISED channel to IDLE (R140). -/
def execDisarm (who : Requester) (n : Fin 16) (s : State) : Host.Outcome State Fault Refusal :=
  .next (s.rowWrite who (chCmd n.val) (withField ChCmd.CMD 2 0))

/-- END moves an AUTHORISED or FLOWING channel to ENDING (R140). -/
def execChEnd (who : Requester) (n : Fin 16) (s : State) : Host.Outcome State Fault Refusal :=
  .next (s.rowWrite who (chCmd n.val) (withField ChCmd.CMD 3 0))

/-- CLOSE moves an ENDING channel to IDLE and sets CLOSED (R140). -/
def execClose (who : Requester) (n : Fin 16) (s : State) : Host.Outcome State Fault Refusal :=
  .next (s.rowWrite who (chCmd n.val) (withField ChCmd.CMD 4 0))

/-- SAFE moves an active channel to SAFE, forcing its outputs (R140). -/
def execSafe (who : Requester) (n : Fin 16) (s : State) : Host.Outcome State Fault Refusal :=
  .next (s.rowWrite who (chCmd n.val) (withField ChCmd.CMD 5 0))

/-- CLEAR moves a SAFE channel to IDLE when the interlock is inactive, otherwise sets BADCMD (R140). -/
def execClear (who : Requester) (n : Fin 16) (s : State) : Host.Outcome State Fault Refusal :=
  .next (s.rowWrite who (chCmd n.val) (withField ChCmd.CMD 6 0))

/-- INTERLOCK: On a port tick where the interlock terminal is at its active level, the channel is taken to SAFE (R140). -/
def execInterlock (n : Fin 16) (s : State) : Host.Outcome State Fault Refusal :=
  .next (s.live fun d => d.chInterlock n.val)

/-- CHANNEL_RETIREMENT_CLEAR: CHnRET.CLR under an installer session clears the retirement latch through a system commit and returns the channel to IDLE (R143). -/
def execChannelRetirementClear (who : Requester) (n : Fin 16) (s : State) : Host.Outcome State Fault Refusal :=
  .next (s.rowWrite who (chRet n.val) (withField ChRet.CLR 1 0))

end Sys2Proof.Machine
end

