-- ==== Sys2Proof/Machine/ExecClocks.lean ====
section
/-! DEFINITION. The meanings of the commands of clock faults (R25, R26). -/

namespace Sys2Proof.Machine

/-- CLOCK_FREQUENCY_FAULT: A clock outside ±10 % of nominal for 8 consecutive measurement windows raises the clock fault source of that clock (R25). -/
def execClockFrequencyFault (k : Fin 6) (u : Fin 16) (s : State) : Host.Outcome State Fault Refusal :=
  .next (s.live fun d => d.clockFault k.val u.val)

/-- PLL_LOCK_LOSS: A PLL that loses lock raises its clock fault source (R25). -/
def execPllLockLoss (k : Fin 5) (u : Fin 16) (s : State) : Host.Outcome State Fault Refusal :=
  .next (s.live fun d => d.clockFault (k.val + 1) u.val)

/-- CRYSTAL_LOSS: On crystal loss the ditch rider switches to the fault-collector oscillator within 2 µs and keeps its accounts running (R26). -/
def execCrystalLoss (s : State) : Host.Outcome State Fault Refusal :=
  .next (s.live fun d => d.crystalLoss)

end Sys2Proof.Machine
end

