-- ==== Sys2Proof/Machine/ExecDebug.lean ====
section
/-! DEFINITION. The meanings of the commands of tamper, the debug TAP and junction sensors (R317, R576-R587). -/

namespace Sys2Proof.Machine

/-- TAMPER_RESPONSE: A tamper input bad for FILT + 1 samples zeroises payment keys, closes sessions, locks debug and sets LATCH (R577). -/
def execTamperResponse (q : TamperRun) (s : State) : Host.Outcome State Fault Refusal :=
  .next (s.live fun d => d.tamperSample q.sample q.count.toNat)

/-- TAMPER_CLEAR: TPCMD.CLR under a TAMPCLR session clears LATCH when every input is good (R578). -/
def execTamperClear (who : Requester) (s : State) : Host.Outcome State Fault Refusal :=
  .next (s.rowWrite who (tpCmd) (withField TpCmd.CLR 1 0))

/-- EXTEST selects the boundary register for external test in the factory state (R581). -/
def execExtest (s : State) : Host.Outcome State Fault Refusal :=
  .next (s.live fun d => d.tapExtest)

/-- IDCODE selects the 32-bit identification register (R581). -/
def execIdcode (s : State) : Host.Outcome State Fault Refusal :=
  .next (s.live fun d => d.tapIdcode)

/-- SAMPLE_PRELOAD: SAMPLE/PRELOAD selects the boundary register (R581). -/
def execSamplePreload (s : State) : Host.Outcome State Fault Refusal :=
  .next (s.live fun d => d.tapSample)

/-- BYPASS selects the one-bit register, and a denied instruction acts as it and sets DENY (R581). -/
def execBypass (s : State) : Host.Outcome State Fault Refusal :=
  .next (s.live fun d => d.tapBypass)

/-- AUTH_CHAIN_WORD: AUTH command 0 shifts in one word of a certificate chain (R582). -/
def execAuthChainWord (w : Word) (s : State) : Host.Outcome State Fault Refusal :=
  .next (s.live fun d => d.tapChainWord w)

/-- AUTH_CHAIN_END: AUTH command 1 ends the chain and has it checked (R582). -/
def execAuthChainEnd (s : State) : Host.Outcome State Fault Refusal :=
  .next (s.live fun d => d.tapChainEnd)

/-- AUTH_SIGNATURE: AUTH command 2 shifts in one word of the signature (R582). -/
def execAuthSignature (w : Word) (s : State) : Host.Outcome State Fault Refusal :=
  .next (s.live fun d => d.tapSigWord w)

/-- AUTH_SUBMIT: AUTH command 3 submits the signature and enters the debug state or counts a failure (R582). -/
def execAuthSubmit (s : State) : Host.Outcome State Fault Refusal :=
  .next (s.live fun d => d.tapSubmit)

/-- AUTH_EXIT: AUTH command 4 returns the TAP to LOCKED (R582). -/
def execAuthExit (s : State) : Host.Outcome State Fault Refusal :=
  .next (s.live fun d => d.tapAuth fun d => d.tapExit)

/-- AUTH_CHALLENGE: AUTH command 5 reads the challenge (R582). -/
def execAuthChallenge (s : State) : Host.Outcome State Fault Refusal :=
  .next (s.live fun d => d.tapChallenge)

/-- TRST returns the TAP to LOCKED and appends an entry (R582). -/
def execTrst (s : State) : Host.Outcome State Fault Refusal :=
  .next (s.live fun d => d.tapReset)

/-- DEBUG_EXIT: DBCTL.EXIT from the debug port returns to LOCKED (R587). -/
def execDebugExit (val : Half) (s : State) : Host.Outcome State Fault Refusal :=
  .next (s.liveS fun s => s.tapIo true dbCtl (withField DbCtl.EXIT 1 val) 0)

/-- CELL_SELECT: The CELL instruction selects the cell for debug access (R581). -/
def execCellSelect (c : Fin 64) (s : State) : Host.Outcome State Fault Refusal :=
  .next (s.live fun d => d.tapSelect c.val)

/-- DEBUG_HALT: RUN halt stops the whole group of the selected cell at a bundle boundary (R238). -/
def execDebugHalt (s : State) : Host.Outcome State Fault Refusal :=
  .next (s.live fun d => d.tapHalt)

/-- DEBUG_RESUME: RUN resume releases a halted group (R238). -/
def execDebugResume (s : State) : Host.Outcome State Fault Refusal :=
  .next (s.liveS fun s => s.tapResume)

/-- DEBUG_STEP: RUN step single-steps the whole group (R238). -/
def execDebugStep (s : State) : Host.Outcome State Fault Refusal :=
  .next (s.liveS fun s => (s.onDev s.dev.tapStep).pump s.dev.tapLead)

/-- REG: The REG instruction reads or writes a register of a halted cell, applying writes to every member (R581). -/
def execReg (wr : Bool) (idx : BitVec 8) (val : Word) (s : State) : Host.Outcome State Fault Refusal :=
  .next (s.live fun d => d.tapReg wr idx.toNat val)

/-- MEM: The MEM instruction reads or writes a data word through the sluices (R581). -/
def execMem (wr : Bool) (addr : BitVec 36) (val : Word) (fl : Flips) (s : State) : Host.Outcome State Fault Refusal :=
  .next (s.liveS fun s => s.tapMem wr addr.toNat val fl)

/-- IO: The IO instruction reads or writes an I/O register through the sluices (R581). -/
def execIo (wr : Bool) (addr : IoAddr) (v : IoHalf) (s : State) : Host.Outcome State Fault Refusal :=
  .next (s.liveS fun s => s.tapIo wr addr.toNat v.val v.flip)

/-- ISRAM: The ISRAM instruction reads or writes a word of a halted cell's local instruction SRAM (R581). -/
def execIsram (wr : Bool) (idx : BitVec 14) (val : Word) (s : State) : Host.Outcome State Fault Refusal :=
  .next (s.liveS fun s => s.tapIsram wr idx.toNat val)

/-- JUNCTION_SENSOR_READ: Every 1 ms the twenty junction sensors are read; a reading of 105 °C or more begins a furrow's throttling and sets THERM, and a reading of 115 °C or more asserts FS179 (R317). -/
def execJunctionSensorRead (idx : Fin 20) (temp : BitVec 9) (s : State) : Host.Outcome State Fault Refusal :=
  .next (s.powered fun d => d.sensorRead idx.val temp.toInt)

/-- AUTH_LOCKOUT_END: When the 2^AFAIL-second AUTH lockout after a failed authentication runs out, LOCKT reaches zero and AUTH commands are accepted again (R582). -/
def execAuthLockoutEnd (s : State) : Host.Outcome State Fault Refusal :=
  .next (s.live fun d => d.lockoutEnd)

/-- FUSE_PROGRAMMING: Programming the maker root key hash into the fuses through the TAP in the FACTORY state provisions the device and ends the FACTORY state (R580). -/
def execFuseProgramming (hash : BitVec 256) (s : State) : Host.Outcome State Fault Refusal :=
  .next (s.live fun d => d.fuse hash)

end Sys2Proof.Machine
end

