-- ==== Sys2Proof/Machine/ExecDomains.lean ====
section
/-! DEFINITION. The meanings of the commands of angle domains and their slots (R42-R83, R116, R609). -/

namespace Sys2Proof.Machine

/-- CONDITIONED_LEVEL_CHANGE: An input terminal level held for FILT + 1 samples changes the conditioned level and is stamped with the time of its first sample (R116). -/
def execConditionedLevelChange (p : Fin 32) (t : Fin 3) (lvl : Bool) (sub : Fin 5) (s : State) : Host.Outcome State Fault Refusal :=
  .next (s.live fun d => d.levelChange p.val t.val lvl sub.val)

/-- DOMAIN_PORT_TICK: On each port tick every enabled domain accepts and credits edges, updates rate and readings, takes commands, evaluates slots and publishes values (R62). -/
def execDomainPortTick (ptp0 : Nat) (ptp1 : Nat) (s : State) : Host.Outcome State Fault Refusal :=
  .next (s.live fun d => d.portTick [] ptp0 ptp1)

/-- CHANNEL_LOSS: LOSSN consecutive accepted edges on one channel declare the other channel lost, freeze the domain and raise the pulser channel loss source (R50). -/
def execChannelLoss (n : Fin 32) (s : State) : Host.Outcome State Fault Refusal :=
  .next (s.live fun d => d.domainLost n.val)

/-- INTEGRITY_FAULT: WERR exceeding ERRLIM within a window sets the INTEG cause and raises the pulser integrity source (R49). -/
def execIntegrityFault (n : Fin 32) (s : State) : Host.Outcome State Fault Refusal :=
  .next (s.live fun d => d.domainIntegrity n.val)

/-- ERROR_WINDOW_END: The end of a window of 64 × 2^WIN counted edges starts a new error-rate window (R49). -/
def execErrorWindowEnd (n : Fin 32) (s : State) : Host.Outcome State Fault Refusal :=
  .next (s.live fun d => d.errorWindowEnd n.val)

/-- STALL: No counted edge for STALLT milliseconds sets STALL and clears the rate estimate (R53). -/
def execStall (n : Fin 32) (s : State) : Host.Outcome State Fault Refusal :=
  .next (s.live fun d => d.domainStall n.val)

/-- DOMAIN_ENABLE: Setting ADnCTL.EN restarts rate estimation, rebases a derived domain, clears channel loss and starts mains acquisition, or is refused for a bad derived source (R73). -/
def execDomainEnable (who : Requester) (n : Fin 32) (val : Half) (s : State) : Host.Outcome State Fault Refusal :=
  .next (s.rowWrite who (adCtl n.val) (withField AdCtl.EN 1 val))

/-- DOMAIN_DISABLE: Clearing ADnCTL.EN holds the readings, discards a pending edge and stops slot evaluation (R73). -/
def execDomainDisable (who : Requester) (n : Fin 32) (val : Half) (s : State) : Host.Outcome State Fault Refusal :=
  .next (s.rowWrite who (adCtl n.val) (withField AdCtl.EN 0 val))

/-- ZERO: The ZERO command rebases a domain and its derived domains according to the domain type (R56). -/
def execZero (who : Requester) (n : Fin 32) (s : State) : Host.Outcome State Fault Refusal :=
  .next (s.rowWrite who (adCmd n.val) (withField AdCmd.ZERO 1 0))

/-- CLRREV: The CLRREV command clears the reverse accumulator ADnREVA (R81). -/
def execClrrev (who : Requester) (n : Fin 32) (s : State) : Host.Outcome State Fault Refusal :=
  .next (s.rowWrite who (adCmd n.val) (withField AdCmd.CLRREV 1 0))

/-- SNAP: The SNAP command copies LIVE and CONF of one port tick into ADnSNL and ADnSNC (R81). -/
def execSnap (who : Requester) (n : Fin 32) (s : State) : Host.Outcome State Fault Refusal :=
  .next (s.rowWrite who (adCmd n.val) (withField AdCmd.SNAP 1 0))

/-- MAINS_ZERO_CROSSING: A positive-going zero crossing of the selected mains voltage is located and tracked by the mains PLL (R57). -/
def execMainsZeroCrossing (n : Fin 32) (z : Crossing) (s : State) : Host.Outcome State Fault Refusal :=
  .next (s.live fun d => d.mainsCrossing n.val z.ph.val z.good)

/-- MAINS_LOCK: Eight consecutive cycles with a phase error below 2° set LOCK and clear HOLD (R58). -/
def execMainsLock (n : Fin 32) (s : State) : Host.Outcome State Fault Refusal :=
  .next (s.live fun d => d.mainsLock n.val)

/-- MAINS_LOCK_LOSS: A missing crossing for 40 ms, a frequency out of range or a low amplitude clears LOCK and starts HOLD (R58). -/
def execMainsLockLoss (q : LockLoss) (s : State) : Host.Outcome State Fault Refusal :=
  .next (s.live fun d => d.mainsLockLoss q.dom.val q.why.val)

/-- HOLD_END: Eight cycles after lock loss the mains domain stops with STALL set and acquires the mains again (R58). -/
def execHoldEnd (n : Fin 32) (s : State) : Host.Outcome State Fault Refusal :=
  .next (s.live fun d => d.mainsHoldEnd n.val)

/-- SLOT_WRITE_ARRIVAL: A slot value or control write reaches the live comparator two port ticks after completion, reloads its kept value when arming and is judged for NEAR (R64). -/
def execSlotWriteArrival (n : Fin 32) (k : Fin 8) (s : State) : Host.Outcome State Fault Refusal :=
  .next (s.live fun d => d.slotArrive n.val k.val)

/-- SLOT_ACTION: On the port tick after a match the slot sets, clears or toggles a terminal or sends a commit trigger to the TXU (R67). -/
def execSlotAction (n : Fin 32) (k : Fin 8) (s : State) : Host.Outcome State Fault Refusal :=
  .next (s.live fun d => d.slotAction n.val k.val)

/-- WAITC_COMPLETE: A waiting WAITC resumes its cell within 30 ns of the port tick on which the threshold is reached (R71). -/
def execWaitcComplete (c : Fin 64) (s : State) : Host.Outcome State Fault Refusal :=
  .next (s.liveS fun s => s.waitcEnd c.val)

end Sys2Proof.Machine
end

