-- ==== Sys2Proof/Machine/ExecEnergy.lean ====
section
/-! DEFINITION. The meanings of the commands of supply, bank, shed plan, thermal throttling and the DRAM (R293-R321, R475). -/

namespace Sys2Proof.Machine

/-- RAIL_OUT_OF_REGULATION: A rail outside ±5 % for 10 µs asserts FS175 with its unit (R297). -/
def execRailOutOfRegulation (u : Fin 4) (s : State) : Host.Outcome State Fault Refusal :=
  .next (s.live fun d => d.raiseSrc 175 u.val)

/-- BANK_MEASUREMENT_END: The bank's charge or bleed step ends, giving C_m and the bounds C_U and C_L (R300). -/
def execBankMeasurementEnd (us : Nat) (s : State) : Host.Outcome State Fault Refusal :=
  .next (s.live fun d => d.measureEnd us)

/-- REMEAS: DRCTL.REMEAS measures the bank again while not shedding (R300). -/
def execRemeas (who : Requester) (val : Half) (s : State) : Host.Outcome State Fault Refusal :=
  .next (s.rowWrite who (drCtl) (withField DrCtl.REMEAS 1 val))

/-- CHARGE_COMPLETE: The charger reaches V_CHG and holds the bank between V_CHG − 0.20 V and V_CHG (R301). -/
def execChargeComplete (s : State) : Host.Outcome State Fault Refusal :=
  .next (s.live fun d => d.chargeEnd)

/-- BANK_LEAK: A mean holding current above 10 mA over 10 s asserts FS176 with BREF 4 (R302). -/
def execBankLeak (s : State) : Host.Outcome State Fault Refusal :=
  .next (s.live fun d => d.bankLeak)

/-- ACCOUNT_UPDATE: Every 1 ms the ditch rider recomputes the joule accounts and the LOW cause (R307). -/
def execAccountUpdate (vin : BitVec 18) (hold : BitVec 18) (pin : BitVec 18) (iin : BitVec 18) (s : State) : Host.Outcome State Fault Refusal :=
  .next (s.powered fun d => d.accountUpdate vin.toNat hold.toNat pin.toNat iin.toNat)

/-- POWER_ON_WEIR: VIN above 8.2 V for 1 ms begins a power-on start (R304). -/
def execPowerOnWeir (s : State) : Host.Outcome State Fault Refusal :=
  .next (s.onDev (s.dev.weirOn))

/-- WARN: VIN below WARN for 20 µs closes the hold-up switch, sets SHED, refuses reservations and starts the shed plan (R304). -/
def execWarn (s : State) : Host.Outcome State Fault Refusal :=
  .next (s.powered fun d => d.warn)

/-- SUPPLY_RETURN: VIN above WARN + 0.3 V for 10 ms stops the plan at its next boundary and reopens the switch (R315). -/
def execSupplyReturn (s : State) : Host.Outcome State Fault Refusal :=
  .next (s.poweredS fun s => s.supplyReturn.pumpAll)

/-- CUT: The converter input at CUT stops the converter, aborting transactions short of their apply tick and ending in the unpowered state (R306). -/
def execCut (s : State) : Host.Outcome State Fault Refusal :=
  .next ((s.onDev s.dev.applyEnd).powerCut)

/-- SHED_END: The END step ends the plan, sets PLANEND and aborts waiting transactions with SHED (R311). -/
def execShedEnd (s : State) : Host.Outcome State Fault Refusal :=
  .next (s.powered fun d => d.planStop)

/-- SHED_NOTE: The NOTE step sets the STEP cause only (R311). -/
def execShedNote (s : State) : Host.Outcome State Fault Refusal :=
  .next (s.powered fun d => d.planStep (fun o => decide (o = 1)) fun d _ => some d)

/-- ABORTW aborts with SHED every transaction waiting for a trigger (R311). -/
def execAbortw (s : State) : Host.Outcome State Fault Refusal :=
  .next (s.powered fun d => d.planStep (fun o => decide (o = 2)) fun d _ => some d.txAbortWaiting)

/-- CHSAFE takes each named channel to SAFE (R311). -/
def execChsafe (s : State) : Host.Outcome State Fault Refusal :=
  .next (s.powered fun d => d.planStep (fun o => decide (o = 3)) fun d m => some (d.shedChannels m))

/-- PORTOFFL disables each named port of FP0–FP15 (R311). -/
def execPortoffl (s : State) : Host.Outcome State Fault Refusal :=
  .next (s.powered fun d => d.planStep (fun o => decide (o = 4)) fun d m => some (d.shedPorts m 0))

/-- PORTOFFH disables each named port of FP16–FP31 (R311). -/
def execPortoffh (s : State) : Host.Outcome State Fault Refusal :=
  .next (s.powered fun d => d.planStep (fun o => decide (o = 5)) fun d m => some (d.shedPorts m 16))

/-- RAILOFF disables every port and switches the field rail off (R311). -/
def execRailoff (s : State) : Host.Outcome State Fault Refusal :=
  .next (s.powered fun d => d.planStep (fun o => decide (o = 6)) fun d _ => some d.shedRail)

/-- CLKDN limits the named furrows' cell clocks to 0.5 GHz (R311). -/
def execClkdn (s : State) : Host.Outcome State Fault Refusal :=
  .next (s.powered fun d => d.planStep (fun o => decide (o = 7)) fun d m => d.shedFurrows m Dev.shedClock)

/-- PARK quiesces and clock-gates every cell of the named furrows, keeping all state (R312). -/
def execPark (s : State) : Host.Outcome State Fault Refusal :=
  .next (s.powered fun d => d.planStep (fun o => decide (o = 8)) fun d m => d.shedFurrows m fun d f => d.parkCells f true)

/-- FOFF stops and powers off the named furrows, aborting their unapplied transactions with OWNER (R312). -/
def execFoff (s : State) : Host.Outcome State Fault Refusal :=
  .next (s.poweredS fun s => s.shedFoff)

/-- DRAMOFF puts the DRAM in self-refresh or powers it off (R311). -/
def execDramoff (s : State) : Host.Outcome State Fault Refusal :=
  .next (s.powered fun d => d.planStep (fun o => decide (o = 10)) fun d a => some (d.shedDram a))

/-- ETHOFF powers down the named Ethernet ports (R311). -/
def execEthoff (s : State) : Host.Outcome State Fault Refusal :=
  .next (s.poweredS fun s => s.shedEth)

/-- WAITX waits ARG ms more before the next step (R311). -/
def execWaitx (s : State) : Host.Outcome State Fault Refusal :=
  .next (s.powered fun d => d.planStep (fun o => decide (o = 12)) fun d _ => some d)

/-- THROTTLE_STEP: Every 10 ms while hot the furrow clock falls one code, or every 100 ms once cool it rises one code (R318). -/
def execThrottleStep (f : Fin 16) (s : State) : Host.Outcome State Fault Refusal :=
  .next (s.live fun d => d.throttleStep f.val)

/-- DRAM_REFRESH: Each DRAM bank is refreshed for 180 ns once every 3.9 µs (R475). -/
def execDramRefresh (bank : Fin 64) (s : State) : Host.Outcome State Fault Refusal :=
  .next (s.live fun d => d.refreshBank bank.val)

/-- ROW_CLOSE: A DRAM bank idle for 1 µs closes its open row (R475). -/
def execRowClose (bank : Fin 64) (s : State) : Host.Outcome State Fault Refusal :=
  .next (s.live fun d => d.closeRow bank.val)

end Sys2Proof.Machine
end

