-- ==== Sys2Proof/Machine/ExecEvents.lean ====
section
/-! DEFINITION. The meanings of the commands of completion causes, events and walks (R430-R461). -/

namespace Sys2Proof.Machine

/-- COMPLETION_CAUSE: A completion cause is raised at the first boundary where the cell is unfrozen and at the op's entry depth (R435). -/
def execCompletionCause (x : Sends) (s : State) : Host.Outcome State Fault Refusal :=
  .next (s.liveS fun s => s.causeBoundary x.cell.val x.cal)

/-- EVENT_ENTRY: At a boundary the cell takes the highest-priority pending event that passes the level and priority test (R451). -/
def execEventEntry (x : Sends) (s : State) : Host.Outcome State Fault Refusal :=
  .next (s.liveS fun s => s.eventBoundary x.cell.val x.cal)

/-- TAKEOVER: A higher event pending in cycles 0–7 of an event entry takes the entry over (R447). -/
def execTakeover (x : Sends) (s : State) : Host.Outcome State Fault Refusal :=
  .next (s.liveS fun s => s.takeoverBoundary x.cell.val x.cal)

/-- DOORBELL: A write of ECDB raises EV236 + k for each bit written as 1 (R453). -/
def execDoorbell (who : Requester) (mask : BitVec 8) (s : State) : Host.Outcome State Fault Refusal :=
  .next (s.rowWrite who (ecDb) (withField EcDb.RING mask.toNat 0))

/-- DROP: ECXCTL.DROP discards every held completion cause of the cell (R436). -/
def execDrop (who : Requester) (s : State) : Host.Outcome State Fault Refusal :=
  .next (s.rowWrite who (0x010803) (withField EcXctl.DROP 1 0))

/-- ROUTE_WRITE: A write to ECRTe reroutes the event from the next event-controller cycle (R450). -/
def execRouteWrite (who : Requester) (e : Fin 256) (val : Half) (s : State) : Host.Outcome State Fault Refusal :=
  .next (s.rowWrite who (ecRt e.val) (val))

/-- WALK_READ_RETURN: A translation walk read returns and the walk continues, fills the TLB or ends in a translation fault (R461). -/
def execWalkReadReturn (x : Sends) (fl : Flips) (s : State) : Host.Outcome State Fault Refusal :=
  .next (s.liveS fun s => s.walkBack x.cell.val fl x.cal)

end Sys2Proof.Machine
end

