-- ==== Sys2Proof/Machine/ExecFaults.lean ====
section
/-! DEFINITION. The meanings of the commands of fault collection, self-test and scrubs (R252-R292, R480). -/

namespace Sys2Proof.Machine

/-- FAULT_ASSERT: A fault source's rising active level is classified and its reaction, record and counter applied (R255). -/
def execFaultAssert (k : Sampled) (ext : Option (Fin 64)) (s : State) : Host.Outcome State Fault Refusal :=
  .next (s.live fun d => d.faultAssert k.src.val (ext.map Fin.val) (k.same.map Fin.val))

/-- FAULT_DEASSERT: A DEVFAT source's deassertion restarts the quiet timer (R268). -/
def execFaultDeassert (k : Fin 192) (u : Fin 64) (s : State) : Host.Outcome State Fault Refusal :=
  .next (s.live fun d => d.faultDeassert k.val u.val)

/-- FAULT_RESTART: After the quiet period the collector counts a recovery and restarts the device, or sets LATCH at the limit (R269). -/
def execFaultRestart (s : State) : Host.Outcome State Fault Refusal :=
  .next (s.liveS fun s => s.quietRestart)

/-- RECOVERY_WINDOW_END: WIN minutes after the window opened, CNT returns to 0 (R272). -/
def execRecoveryWindowEnd (s : State) : Host.Outcome State Fault Refusal :=
  .next (s.live fun d => d.windowOver)

/-- FEED: A write to FCFEED from the feed partition is judged as a valid feed or asserts FS184 (R263). -/
def execFeed (who : Requester) (key : BitVec 8) (s : State) : Host.Outcome State Fault Refusal :=
  .next (s.rowWrite who (fcFeed) (withField FcFeed.KEY key.toNat 0))

/-- FEED_TIMEOUT: WMAX passing after a valid feed without another asserts FS184 and clears FEEDV (R264). -/
def execFeedTimeout (s : State) : Host.Outcome State Fault Refusal :=
  .next (s.live fun d => d.feedTimeout)

/-- FEED_WARNING: Three quarters of WMAX after the last valid feed the collector raises EV233 (R264). -/
def execFeedWarning (s : State) : Host.Outcome State Fault Refusal :=
  .next (s.live fun d => d.feedWarning)

/-- ICLR: FCREC.ICLR under an installer session clears LATCH and CNT and may start an uncounted fault restart (R273). -/
def execIclr (who : Requester) (val : Half) (s : State) : Host.Outcome State Fault Refusal :=
  .next (s.rowWrite who (fcRec) (withField FcRec.ICLR 1 val))

/-- CF_CLEAR: Writing 1 to FCSTAT.CF clears it only when no CHFAT source is active (R262). -/
def execCfClear (who : Requester) (val : Half) (s : State) : Host.Outcome State Fault Refusal :=
  .next (s.rowWrite who (fcStat) (withField FcStat.CF 1 val))

/-- SOFTWARE_DEVICE_FATAL: FCSWF.DEV asserts FS191 (R292). -/
def execSoftwareDeviceFatal (who : Requester) (s : State) : Host.Outcome State Fault Refusal :=
  .next (s.rowWrite who (fcSwf) (withField FcSwf.DEV 1 0))

/-- SOFTWARE_CHANNEL_FATAL: FCSWF.CH asserts FS190 on the channels in CHM (R292). -/
def execSoftwareChannelFatal (who : Requester) (mask : BitVec 16) (s : State) : Host.Outcome State Fault Refusal :=
  .next (s.rowWrite who (fcSwf) (withField FcSwf.CH 1 (withField FcSwf.CHM mask.toNat 0)))

/-- SAFETY_READBACK_FAULT: A safety ball differing from its commanded level for 8 cycles asserts FS188 (R260). -/
def execSafetyReadbackFault (u : Fin 4) (s : State) : Host.Outcome State Fault Refusal :=
  .next (s.live fun d => d.ballFault u.val)

/-- OSCILLATOR_CROSS_CHECK: An ALIVE oscillator ratio more than 12 % off nominal over a window asserts FS158 (R261). -/
def execOscillatorCrossCheck (s : State) : Host.Outcome State Fault Refusal :=
  .next (s.live fun d => d.pulseSrc 158 0)

/-- FSTOP_PULSE_TEST: Every second FSTOP is pulse-tested for 200 ns, and a failure asserts FS189 (R258). -/
def execFstopPulseTest (ok : Bool) (s : State) : Host.Outcome State Fault Refusal :=
  .next (s.live fun d => d.fstopTest ok)

/-- BIST_GO: BCTL.GO starts a march on a permitted target or ends with RES = 4 (R280). -/
def execBistGo (who : Requester) (val : Half) (s : State) : Host.Outcome State Fault Refusal :=
  .next (s.rowWrite who (bCtl) (withField BCtl.GO 1 val))

/-- BIST_END: A march ends, records its result and first failure and raises EV245 and EV246 (R280). -/
def execBistEnd (n : Nat) (fail : Option BistFail) (s : State) : Host.Outcome State Fault Refusal :=
  .next (s.liveS fun s => s.bistEnd n fail)

/-- SPARE_TEST_VISIT: Every PER seconds the engine visits the next furrow with a spare and starts testing its spares (R281). -/
def execSpareTestVisit (s : State) : Host.Outcome State Fault Refusal :=
  .next (s.liveS fun s => s.spareVisit)

/-- SPARE_TEST_END: A spare test ends and the spare returns to SPARE or is retired with FS187 (R281). -/
def execSpareTestEnd (c : Fin 64) (pass : Bool) (s : State) : Host.Outcome State Fault Refusal :=
  .next (s.live fun d => d.spareEnd c.val pass)

/-- MRAM_SCRUB: The scrub reads an MRAM word and writes a single-bit error back corrected, or counts an uncorrectable word (R283). -/
def execMramScrub (a : Fin 0x1000000000) (mem : BitVec 80) (taken : Bool) (s : State) : Host.Outcome State Fault Refusal :=
  .next (s.liveS fun s => s.mramScrub a.val mem taken)

/-- PATROL_SCRUB: A patrol reads an SRAM or DRAM word and rewrites a corrected word, or counts an uncorrectable one (R480). -/
def execPatrolScrub (a : Fin 0x2000000000) (mem : BitVec 80) (taken : Bool) (s : State) : Host.Outcome State Fault Refusal :=
  .next (s.liveS fun s => s.patrol a.val mem taken)

end Sys2Proof.Machine
end

