-- ==== Sys2Proof/Machine/ExecLockstep.lean ====
section
/-! DEFINITION. The meanings of the commands of lockstep groups and furrows (R205-R249). -/

namespace Sys2Proof.Machine

/-- UNWIND_END: Unwinding ends when no released access is outstanding, and arbitration or restart follows (R216). -/
def execUnwindEnd (c : Fin 64) (s : State) : Host.Outcome State Fault Refusal :=
  .next (s.liveS fun s => (s.onDev (s.dev.unwindEnd c.val false)).pumpFur (c.val / 4))

/-- UNWIND_TIMEOUT: Unwinding not ended 2,688 cycles after the freeze abandons the remaining accesses and forces a restart (R216). -/
def execUnwindTimeout (c : Fin 64) (s : State) : Host.Outcome State Fault Refusal :=
  .next (s.liveS fun s => (s.onDev (s.dev.unwindEnd c.val true)).pumpFur (c.val / 4))

/-- ARBITRATION_TEST_END: The 40,960-cycle arbitration test ends and its outcome blames a suspect, nobody or the arbiter (R221). -/
def execArbitrationTestEnd (f : Fin 16) (v : ArbVerdict) (s : State) : Host.Outcome State Fault Refusal :=
  .next (s.liveS fun s => (s.onDev (s.dev.arbitrationEnd f.val v)).pumpFur f.val)

/-- GROUP_RESUME: A re-paired group takes the caliper exception at monitor level with MEPC at the mismatched bundle (R223). -/
def execGroupResume (f : Fin 16) (s : State) : Host.Outcome State Fault Refusal :=
  .next (s.liveS fun s => (s.onDev (s.dev.groupResume f.val)).pumpFur f.val)

/-- GROUP_RESTART: A group is made consistent by a JOIN from the lead and restarts at its partition's restart vector (R224). -/
def execGroupRestart (q : RestartJoin) (s : State) : Host.Outcome State Fault Refusal :=
  .next (s.liveS fun s => (s.groupRestart q.fur.val q.bad).pumpFur q.fur.val)

/-- MINORITY_TEST_END: A triple's minority member finishes its test and is retired or becomes SPARE, with an automatic JOIN when AUTOJ is set (R225). -/
def execMinorityTestEnd (c : Fin 64) (fails : Bool) (s : State) : Host.Outcome State Fault Refusal :=
  .next (s.liveS fun s => (s.onDev (s.dev.minorityEnd c.val fails)).pumpFur (c.val / 4))

/-- SPLIT detaches target cells of a group as singles, stopped or spare cells after quiesce (R230). -/
def execSplit (who : Requester) (f : Fin 16) (src : Fin 4) (tgt : BitVec 4) (nrole : Fin 4) (s : State) : Host.Outcome State Fault Refusal :=
  .next (s.rowWrite who (fuCmd f.val) (withField FuCmd.CMD 1 (withField FuCmd.SRC src.val (withField FuCmd.TGT tgt.toNat (withField FuCmd.NROLE nrole.val 0)))))

/-- JOIN copies a source's state into STOPPED or SPARE targets to form a larger group (R231). -/
def execJoin (who : Requester) (f : Fin 16) (src : Fin 4) (tgt : BitVec 4) (s : State) : Host.Outcome State Fault Refusal :=
  .next (s.rowWrite who (fuCmd f.val) (withField FuCmd.CMD 2 (withField FuCmd.SRC src.val (withField FuCmd.TGT tgt.toNat (withField FuCmd.NROLE 0 0)))))

/-- STOP sets target singles to STOPPED after quiesce (R234). -/
def execStop (who : Requester) (f : Fin 16) (tgt : BitVec 4) (s : State) : Host.Outcome State Fault Refusal :=
  .next (s.rowWrite who (fuCmd f.val) (withField FuCmd.CMD 3 (withField FuCmd.SRC 0 (withField FuCmd.TGT tgt.toNat (withField FuCmd.NROLE 0 0)))))

/-- SPARE sets STOPPED targets to SPARE and removes them from their partition (R234). -/
def execSpare (who : Requester) (f : Fin 16) (tgt : BitVec 4) (s : State) : Host.Outcome State Fault Refusal :=
  .next (s.rowWrite who (fuCmd f.val) (withField FuCmd.CMD 4 (withField FuCmd.SRC 0 (withField FuCmd.TGT tgt.toNat (withField FuCmd.NROLE 0 0)))))

/-- RETIRE retires STOPPED or SPARE targets (R234). -/
def execRetire (who : Requester) (f : Fin 16) (tgt : BitVec 4) (s : State) : Host.Outcome State Fault Refusal :=
  .next (s.rowWrite who (fuCmd f.val) (withField FuCmd.CMD 5 (withField FuCmd.SRC 0 (withField FuCmd.TGT tgt.toNat (withField FuCmd.NROLE 0 0)))))

/-- QUIESCE_END: Quiesce ends when loads, long ops, stores, I/O writes and TXU ops have completed, and the command proceeds (R229). -/
def execQuiesceEnd (f : Fin 16) (differ : BitVec 101) (s : State) : Host.Outcome State Fault Refusal :=
  .next (s.liveS fun s => (s.onDev (s.dev.quiesceEnd f.val differ.toNat)).pumpFur f.val)

/-- QUIESCE_DRAIN_TIMEOUT: Quiesce not ended in 2,688 cycles fails the command with DRAIN and the source resumes (R229). -/
def execQuiesceDrainTimeout (f : Fin 16) (s : State) : Host.Outcome State Fault Refusal :=
  .next (s.liveS fun s => (s.onDev (s.dev.quiesceTimeout f.val)).pumpFur f.val)

/-- JOIN_END: The JOIN copy phases end and the group starts, or a copy error fails the JOIN with COPYERR (R232). -/
def execJoinEnd (f : Fin 16) (bad : Bool) (s : State) : Host.Outcome State Fault Refusal :=
  .next (s.liveS fun s => (s.joinEnd f.val bad).pumpFur f.val)

/-- CELL_RETIREMENT_CLEAR: FnRET.CLR under an installer session clears retirement bits, which return the cells as STOPPED (R249). -/
def execCellRetirementClear (who : Requester) (f : Fin 16) (mask : BitVec 4) (s : State) : Host.Outcome State Fault Refusal :=
  .next (s.rowWrite who (fuRet f.val) (withField FuRet.CLR 1 (withField FuRet.CLRM mask.toNat 0)))

/-- CLOCK_CHANGE: A write to FnCLK.FREQ stops the furrow's cells while its FPLL relocks (R240). -/
def execClockChange (who : Requester) (f : Fin 16) (freq : Fin 16) (s : State) : Host.Outcome State Fault Refusal :=
  .next (s.rowWrite who (fuClk f.val) (withField FuClk.FREQ freq.val 0))

/-- RELOCK_END: The FPLL relocks and the furrow's cells restart at the new clock (R240). -/
def execRelockEnd (f : Fin 16) (s : State) : Host.Outcome State Fault Refusal :=
  .next (s.liveS fun s => (s.onDev (s.dev.relockEnd f.val)).pumpFur f.val)

/-- CALIPER_TEST: FnCTEST.GO inverts one compared bit of a follower for one cycle and records whether both comparators detected it (R241). -/
def execCaliperTest (f : Fin 16) (go : Option (Requester × Half)) (r : TestFound) (s : State) : Host.Outcome State Fault Refusal :=
  .next (s.liveS fun s => s.caliperTest f.val go r.a.toNat r.b.toNat)

end Sys2Proof.Machine
end

