-- ==== Sys2Proof/Machine/ExecNetwork.lean ====
section
/-! DEFINITION. The meanings of the commands of Ethernet and PTP (R501-R525). -/

namespace Sys2Proof.Machine

/-- RING_TAIL_WRITE: A write of a ring's TAIL gives descriptors to the port (R504). -/
def execRingTailWrite (who : Requester) (p : Fin 2) (tx : Bool) (k : Fin 8) (tail : BitVec 12) (s : State) : Host.Outcome State Fault Refusal :=
  .next (s.rowWrite who ((if tx then trTail p.val k.val else rrTail p.val k.val)) (withField TrTail.TAIL tail.toNat 0))

/-- RING_ENABLE: Setting a ring's EN starts or restarts it and clears its error bit, or is refused while its held descriptor is claimed (R523). -/
def execRingEnable (who : Requester) (p : Fin 2) (tx : Bool) (k : Fin 8) (val : Half) (s : State) : Host.Outcome State Fault Refusal :=
  .next (s.rowWrite who ((if tx then trCfg p.val k.val else rrCfg p.val k.val)) (withField TrCfg.EN 1 val))

/-- DESCRIPTOR_READ: A transmit ring reads the descriptor at HEAD and sends it, holds it, or stops on a fault (R506). -/
def execDescriptorRead (p : Fin 2) (k : Fin 8) (desc : Flips) (buf : Flips) (s : State) : Host.Outcome State Fault Refusal :=
  .next (s.liveS fun s => s.descRead p.val k.val desc buf)

/-- FRAME_SENT: A transmitted frame ends, its descriptor is written DONE with its status and time stamp, and HEAD advances (R506). -/
def execFrameSent (p : Fin 2) (back : Nat) (s : State) : Host.Outcome State Fault Refusal :=
  .next (s.liveS fun s => s.frameSent p.val back)

/-- REL releases the held descriptor of a transmit ring (R512). -/
def execRel (who : Requester) (p : Fin 2) (k : Fin 8) (s : State) : Host.Outcome State Fault Refusal :=
  .next (s.rowWrite who (trCmd p.val k.val) (withField TrCmd.REL 1 0))

/-- CAN ends the held descriptor as CANCELLED without sending (R512). -/
def execCan (who : Requester) (p : Fin 2) (k : Fin 8) (s : State) : Host.Outcome State Fault Refusal :=
  .next (s.rowWrite who (trCmd p.val k.val) (withField TrCmd.CAN 1 0))

/-- FRAME_RECEIVED: A received frame passes FCS, PRP, MACsec and the headgate and is stored in the chosen ring or dropped (R508). -/
def execFrameReceived (p : Fin 2) (octets : List (BitVec 8)) (fcs : Bool) (back : Nat) (desc : Flips) (s : State) : Host.Outcome State Fault Refusal :=
  .next (s.liveS fun s => s.frameReceived p.val (octets.map BitVec.toNat) fcs back desc)

/-- BUCKET_REFILL: Each millisecond the police bucket gains RATE tokens up to BURST (R514). -/
def execBucketRefill (p : Fin 2) (s : State) : Host.Outcome State Fault Refusal :=
  .next (s.live fun d => d.bucketRefill p.val)

/-- LINK_CHANGE: A port's link goes up or down, setting the LINK cause (R507). -/
def execLinkChange (p : Fin 2) (up : Bool) (anc : Bool) (s : State) : Host.Outcome State Fault Refusal :=
  .next (s.liveS fun s => if s.dev.ethHere p.val && !(up && s.dev.ethOff p.val) then s.linkChange p.val up anc else s)

/-- TXSA_WRITE: A write of MSpTXSA with V set takes effect from the next frame and sets the next PN to 1 (R517). -/
def execTxsaWrite (who : Requester) (p : Fin 2) (val : Half) (s : State) : Host.Outcome State Fault Refusal :=
  .next (s.rowWrite who (msTxsa p.val) (withField MsTxsa.V 1 val))

/-- PTP_ADD_WRITE: A write to PTpADD sets the clock increment from the next PTP tick, clamping and setting CLAMP if out of range (R518). -/
def execPtpAddWrite (who : Requester) (p : Fin 2) (val : Half) (s : State) : Host.Outcome State Fault Refusal :=
  .next (s.rowWrite who (ptAdd p.val) (val))

/-- PTP_STEP: A low-half write of PTpSTEP adds the signed offset to the clock on the next PTP tick and sets STEP (R518). -/
def execPtpStep (who : Requester) (p : Fin 2) (val : Half) (s : State) : Host.Outcome State Fault Refusal :=
  .next (s.rowWrite who (ptStep p.val) (val))

/-- LOCK_TIMEOUT: LKTO seconds without a write to PTpADD clear PTpCTL.LOCK (R520). -/
def execLockTimeout (p : Fin 2) (s : State) : Host.Outcome State Fault Refusal :=
  .next (s.live fun d => d.ptpTimeout p.val)

end Sys2Proof.Machine
end

