-- ==== Sys2Proof/Machine/ExecPorts.lean ====
section
/-! DEFINITION. The meanings of the commands of field ports (R114-R133, R155-R162). -/

namespace Sys2Proof.Machine

/-- EN: The EN command moves a port from OFF to ACTIVE after the settings checks, or starts the network check for an Ex port (R131). -/
def execEn (who : Requester) (p : Fin 32) (s : State) : Host.Outcome State Fault Refusal :=
  .next (s.rowWrite who (fpCmd p.val) (withField FpCmd.EN 1 0))

/-- DIS: The DIS command moves a port from any state to OFF and ends a network check (R131). -/
def execDis (who : Requester) (p : Fin 32) (s : State) : Host.Outcome State Fault Refusal :=
  .next (s.rowWrite who (fpCmd p.val) (withField FpCmd.DIS 1 0))

/-- RESTORE: The RESTORE command moves a port from ISOLATED or FAILED to ACTIVE after the checks and clears RCNT (R131). -/
def execRestore (who : Requester) (p : Fin 32) (s : State) : Host.Outcome State Fault Refusal :=
  .next (s.rowWrite who (fpCmd p.val) (withField FpCmd.RESTORE 1 0))

/-- ISOL: The ISOL command moves a port from ACTIVE to ISOLATED with no automatic retry (R131). -/
def execIsol (who : Requester) (p : Fin 32) (s : State) : Host.Outcome State Fault Refusal :=
  .next (s.rowWrite who (fpCmd p.val) (withField FpCmd.ISOL 1 0))

/-- NETWORK_CHECK_END: The 2 ms series-resistance measurement of an Ex port ends and moves the port to ACTIVE or loads REF with 4 (R128). -/
def execNetworkCheckEnd (p : Fin 32) (ohms : Nat) (s : State) : Host.Outcome State Fault Refusal :=
  .next (s.live fun d => d.networkEnd p.val ohms)

/-- OPEN_FAULT: An open line or low coil current for its filter time isolates the port and sets OPEN (R132). -/
def execOpenFault (p : Fin 32) (s : State) : Host.Outcome State Fault Refusal :=
  .next (s.live fun d => d.openFault p.val)

/-- SHORT_FAULT: A short, a coil held at IO by the limiter for 5 ms, or clamp current isolates the port and sets SHORT (R132). -/
def execShortFault (p : Fin 32) (s : State) : Host.Outcome State Fault Refusal :=
  .next (s.live fun d => d.shortFault p.val)

/-- LIMIT_FAULT: A limiter active for more than 10 ms isolates the port and sets LIMIT (R125). -/
def execLimitFault (p : Fin 32) (s : State) : Host.Outcome State Fault Refusal :=
  .next (s.live fun d => d.fieldFault p.val causeLIMIT false)

/-- ENV_EXIT: A sample whose stored energy exceeds ESMAX isolates the port within 2 µs and sets ENV (R129). -/
def execEnvExit (p : Fin 32) (mv : Nat) (s : State) : Host.Outcome State Fault Refusal :=
  .next (s.live fun d => d.envExit p.val mv)

/-- CHARGE_WINDOW_END: At the end of each QWIN window the port compares its charge with QMAX and starts a new window (R129). -/
def execChargeWindowEnd (p : Fin 32) (charge : Nat) (energy : Word) (s : State) : Host.Outcome State Fault Refusal :=
  .next (s.live fun d => d.windowEnd p.val charge energy)

/-- RAIL_FAULT: A rail-switch read-back differing for 50 consecutive samples isolates the port and sets RAIL (R132). -/
def execRailFault (p : Fin 32) (s : State) : Host.Outcome State Fault Refusal :=
  .next (s.live fun d => d.fieldFault p.val causeRAIL false)

/-- LOOP_FAULT: A loop current out of 3.6–21.0 mA for 100 ms, or a read-back error, sets LOOP or OPEN (R123). -/
def execLoopFault (p : Fin 32) (s : State) : Host.Outcome State Fault Refusal :=
  .next (s.live fun d => d.loopFault p.val)

/-- RETRY_RETURN: After RDLY × 10 ms an ISOLATED port with a transient fault returns to ACTIVE through the checks with outputs at safe values (R133). -/
def execRetryReturn (p : Fin 32) (s : State) : Host.Outcome State Fault Refusal :=
  .next (s.live fun d => d.portRetry p.val)

/-- RCNT_CLEAR: RWIN seconds without a fault clear RCNT (R133). -/
def execRcntClear (p : Fin 32) (s : State) : Host.Outcome State Fault Refusal :=
  .next (s.live fun d => d.rcntClear p.val)

/-- HIT_END: After HITT ms the valve drive changes the coil current from HIT to HOLD (R119). -/
def execHitEnd (p : Fin 32) (t : Fin 3) (s : State) : Host.Outcome State Fault Refusal :=
  .next (s.live fun d => d.hitEnd p.val t.val)

/-- RTD_CONVERSION_END: A 50 ms RTD conversion ends and loads FPnRES, reporting an open or short line (R122). -/
def execRtdConversionEnd (p : Fin 32) (res : Half) (s : State) : Host.Outcome State Fault Refusal :=
  .next (s.live fun d => d.rtdEnd p.val res)

/-- LOOP_UPDATE: Every 1 ms a loop port updates FPnRES with the loop or read-back current (R123). -/
def execLoopUpdate (p : Fin 32) (r : LoopIn) (s : State) : Host.Outcome State Fault Refusal :=
  .next (s.live fun d => d.loopReading p.val r.cur r.line.val)

/-- TXV_PUSH: A write with TXV pushes TXD into the UART transmit FIFO, or discards it and sets OVR when full (R160). -/
def execTxvPush (who : Requester) (p : Fin 32) (oct : BitVec 8) (s : State) : Host.Outcome State Fault Refusal :=
  .next (s.rowWrite who (fpData p.val) (withField FpData.TXV 1 (withField FpData.TXD oct.toNat 0)))

/-- UART_TRANSMIT_END: The UART finishes an octet and releases its driver one bit time after the last stop bit (R124). -/
def execUartTransmitEnd (p : Fin 32) (s : State) : Host.Outcome State Fault Refusal :=
  .next (s.live fun d => d.uartSent p.val)

/-- UART_RECEIVE: A received octet enters the receive FIFO, or is discarded with OVR when full (R124). -/
def execUartReceive (p : Fin 32) (oct : BitVec 8) (err : Bool) (s : State) : Host.Outcome State Fault Refusal :=
  .next (s.live fun d => d.uartGot p.val oct.toNat err)

/-- RXD_READ: A read of FPnDATA with RXV set returns and removes the oldest received octet (R160). -/
def execRxdRead (who : Requester) (p : Fin 32) (s : State) : Host.Outcome State Fault Refusal :=
  .next (s.rowRead who (fpData p.val))

end Sys2Proof.Machine
end

