-- ==== Sys2Proof/Machine/ExecRegisters.lean ====
section
/-! DEFINITION. The meanings of the commands of reads and writes of I/O registers (R10-R13, R97-R99, R607). -/

namespace Sys2Proof.Machine

/-- REGISTER_WRITE: A write to an I/O register that has no row of its own sets its fields according to their access codes (R12). -/
def execRegisterWrite (who : Requester) (addr : IoAddr) (val : Half) (s : State) : Host.Outcome State Fault Refusal :=
  .next (s.rowWrite who (addr.toNat) (val))

/-- RC_READ: A read of a read-to-clear field returns its value and clears it, with a 72-bit register cleared on its low-half read (R13). -/
def execRcRead (who : Requester) (addr : IoAddr) (s : State) : Host.Outcome State Fault Refusal :=
  .next (s.rowRead who (addr.toNat))

/-- LOW_HALF_READ: A read of the low half of a 72-bit register returns it and latches the high half into the requester's HILAT (R97). -/
def execLowHalfRead (who : Requester) (addr : IoAddr) (s : State) : Host.Outcome State Fault Refusal :=
  .next (s.rowRead who (addr.toNat))

/-- HIGH_HALF_READ: A read of a high half is answered from a matching valid HILAT, clearing its valid bit, or from the live register (R97). -/
def execHighHalfRead (who : Requester) (addr : IoAddr) (s : State) : Host.Outcome State Fault Refusal :=
  .next (s.rowRead who (addr.toNat))

/-- HIGH_HALF_WRITE: A write of a high half goes into the requester's holding register in the block and changes nothing else (R98). -/
def execHighHalfWrite (who : Requester) (addr : IoAddr) (val : Half) (s : State) : Host.Outcome State Fault Refusal :=
  .next (s.rowWrite who (addr.toNat) (val))

/-- LOW_HALF_WRITE: A low-half write commits both halves when the held high half matches, and otherwise commits the low half alone (R98). -/
def execLowHalfWrite (who : Requester) (addr : IoAddr) (val : Half) (s : State) : Host.Outcome State Fault Refusal :=
  .next (s.rowWrite who (addr.toNat) (val))

end Sys2Proof.Machine
end

