-- ==== Sys2Proof/Machine/ExecSecurity.lean ====
section
/-! DEFINITION. The meanings of the commands of sessions, jobs and the audit log (R554-R575). -/

namespace Sys2Proof.Machine

/-- OPEN: SSCMD.OPEN reads a certificate chain into a session slot for checking (R560). -/
def execSessOpen (who : Requester) (k : Fin 4) (s : State) : Host.Outcome State Fault Refusal :=
  .next (s.rowWrite who (ssCmd) (withField SsCmd.OPEN 1 (withField SsCmd.SLOT k.val 0)))

/-- CHAIN_CHECK_END: The chain check ends and the slot becomes CHALLENGED with a fresh challenge, or fails with a code (R558). -/
def execChainCheckEnd (s : State) : Host.Outcome State Fault Refusal :=
  .next (s.live fun d => d.chainEnd)

/-- PROVE: SSCMD.PROVE verifies the holder's signature over the challenge and opens the session or frees the slot (R560). -/
def execProve (who : Requester) (k : Fin 4) (s : State) : Host.Outcome State Fault Refusal :=
  .next (s.rowWrite who (ssCmd) (withField SsCmd.PROVE 1 (withField SsCmd.SLOT k.val 0)))

/-- CLOSE_SESSION: SSCMD.CLOSE from its partition ends an open session (R561). -/
def execCloseSession (who : Requester) (k : Fin 4) (s : State) : Host.Outcome State Fault Refusal :=
  .next (s.rowWrite who (ssCmd) (withField SsCmd.CLOSE 1 (withField SsCmd.SLOT k.val 0)))

/-- CHALLENGE_TIMEOUT: A challenge unanswered for CHTO seconds ends the attempt with TIMEOUT (R561). -/
def execChallengeTimeout (k : Fin 4) (s : State) : Host.Outcome State Fault Refusal :=
  .next (s.live fun d => d.chalTimeout k.val)

/-- SESSION_IDLE_END: IDLE minutes without a session-gated action end the session (R561). -/
def execSessionIdleEnd (k : Fin 4) (s : State) : Host.Outcome State Fault Refusal :=
  .next (s.live fun d => d.idleEnd k.val)

/-- SESSION_EXPIRY: Passing the holder's not-after ends the session (R561). -/
def execSessionExpiry (k : Fin 4) (s : State) : Host.Outcome State Fault Refusal :=
  .next (s.live fun d => d.expireSession k.val)

/-- IDLE_LIMIT_WRITE: A write of SSCFG.IDLE applies at once to every open session and may end some (R561). -/
def execIdleLimitWrite (who : Requester) (val : Half) (s : State) : Host.Outcome State Fault Refusal :=
  .next (s.rowWrite who (ssCfg) (val))

/-- HASH: The HASH job computes SHA-256 of a buffer (R573). -/
def execHash (fl : Flips) (s : State) : Host.Outcome State Fault Refusal :=
  .next (s.liveS fun s => s.jobWork 0 fun s j => s.jobHash j fl)

/-- ENC: The ENC job encrypts with AES in the selected mode (R573). -/
def execEnc (fl : Flips) (s : State) : Host.Outcome State Fault Refusal :=
  .next (s.liveS fun s => s.jobWork 1 fun s j => s.jobAes j true fl)

/-- DEC: The DEC job decrypts with AES in the selected mode (R573). -/
def execDec (fl : Flips) (s : State) : Host.Outcome State Fault Refusal :=
  .next (s.liveS fun s => s.jobWork 2 fun s j => s.jobAes j false fl)

/-- CMAC: The CMAC job computes an AES-CMAC (R573). -/
def execCmac (fl : Flips) (s : State) : Host.Outcome State Fault Refusal :=
  .next (s.liveS fun s => s.jobWork 3 fun s j => s.jobCmac j fl)

/-- SIGN: The SIGN job signs a digest with RSASSA-PSS (R573). -/
def execSign (fl : Flips) (s : State) : Host.Outcome State Fault Refusal :=
  .next (s.liveS fun s => s.jobWork 4 fun s j => s.jobSign j fl)

/-- VERIFY: The VERIFY job checks an RSASSA-PSS signature (R573). -/
def execVerify (fl : Flips) (s : State) : Host.Outcome State Fault Refusal :=
  .next (s.liveS fun s => s.jobWork 5 fun s j => s.jobVerify j fl)

/-- DECRYPT: The DECRYPT job decrypts with RSAES-OAEP (R573). -/
def execDecrypt (fl : Flips) (s : State) : Host.Outcome State Fault Refusal :=
  .next (s.liveS fun s => s.jobWork 6 fun s j => s.jobDecrypt j fl)

/-- RANDOM: The RANDOM job delivers octets from the DRBG (R573). -/
def execRandom (s : State) : Host.Outcome State Fault Refusal :=
  .next (s.liveS fun s => s.jobWork 7 fun s j => s.jobRandom j)

/-- GENAES: The GENAES job creates an AES key in a slot (R573). -/
def execGenaes (s : State) : Host.Outcome State Fault Refusal :=
  .next (s.liveS fun s => s.jobWork 8 fun s j => s.jobGenAes j)

/-- GENRSA: The GENRSA job creates an RSA key pair in a slot (R573). -/
def execGenrsa (s : State) : Host.Outcome State Fault Refusal :=
  .next (s.liveS fun s => s.jobWork 9 fun s j => s.jobGenRsa j)

/-- UNWRAP: The UNWRAP job unwraps a key into a slot under a key-wrap key (R573). -/
def execUnwrap (fl : Flips) (s : State) : Host.Outcome State Fault Refusal :=
  .next (s.liveS fun s => s.jobWork 10 fun s j => s.jobUnwrap j fl)

/-- PUBLOAD: The PUBLOAD job loads an RSA public modulus into a slot (R573). -/
def execPubload (fl : Flips) (s : State) : Host.Outcome State Fault Refusal :=
  .next (s.liveS fun s => s.jobWork 12 fun s j => s.jobPubLoad j fl)

/-- PUBREAD: The PUBREAD job reads an RSA public modulus from a slot (R573). -/
def execPubread (s : State) : Host.Outcome State Fault Refusal :=
  .next (s.liveS fun s => s.jobWork 13 fun s j => s.jobPubRead j)

/-- DELETE: The DELETE job zeroises a slot (R573). -/
def execDelete (s : State) : Host.Outcome State Fault Refusal :=
  .next (s.liveS fun s => s.jobWork 14 fun s j => s.jobDelete j)

/-- ATTEST: The ATTEST job writes a signed attestation report for a nonce (R579). -/
def execAttest (fl : Flips) (s : State) : Host.Outcome State Fault Refusal :=
  .next (s.liveS fun s => s.jobWork 15 fun s j => s.jobAttest j fl)

/-- IDCERT: The IDCERT job writes the identity certificate (R579). -/
def execIdcert (s : State) : Host.Outcome State Fault Refusal :=
  .next (s.liveS fun s => s.jobWork 16 fun s j => s.jobIdCert j)

/-- CKPT: The CKPT job writes an audit checkpoint now (R571). -/
def execCkpt (s : State) : Host.Outcome State Fault Refusal :=
  .next (s.liveS fun s => s.jobWork 17 fun s _ => s.jobCheckpoint)

/-- RESEAL: The RESEAL job sets SD to the loaded LRD and SEALED to 1 (R565). -/
def execReseal (s : State) : Host.Outcome State Fault Refusal :=
  .next (s.liveS fun s => s.jobWork 18 fun s j => s.jobReseal j)

/-- REVOKE: The REVOKE job adds a serial to the revocation list (R559). -/
def execRevoke (fl : Flips) (s : State) : Host.Outcome State Fault Refusal :=
  .next (s.liveS fun s => s.jobWork 19 fun s j => s.jobRevoke j fl)

/-- JOB_END: A security job ends, setting SJSTAT and the JOB cause (R573). -/
def execJobEnd (s : State) : Host.Outcome State Fault Refusal :=
  .next (s.liveS fun s => s.jobEnd)

/-- CHECKPOINT_SIGNED: A checkpoint record finishes signing and is written (R571). -/
def execCheckpointSigned (s : State) : Host.Outcome State Fault Refusal :=
  .next (s.live fun d => d.checkpointSigned)

/-- AUDIT_EXPORT_WRITE: A write of AUEXP naming a valid entry address releases exported entries (R569). -/
def execAuditExportWrite (who : Requester) (val : Half) (s : State) : Host.Outcome State Fault Refusal :=
  .next (s.rowWrite who (auExp) (val))

/-- TIME_FLOOR_REFRESH: Every 60 s the security unit raises its time floor to the locked PTP time (R559). -/
def execTimeFloorRefresh (s : State) : Host.Outcome State Fault Refusal :=
  .next (s.live fun d => d.floorRefresh)

end Sys2Proof.Machine
end

