-- ==== Sys2Proof/Machine/ExecSequencer.lean ====
section
/-! DEFINITION. The meanings of the commands of port sequencers (R134-R137, R610). -/

namespace Sys2Proof.Machine

/-- SEQ_START: Setting FPnSEQC.RUN on a halted sequencer of an ACTIVE port starts its program at ENTRY with flags cleared (R134). -/
def execSeqStart (who : Requester) (p : Fin 32) (val : Half) (s : State) : Host.Outcome State Fault Refusal :=
  .next (s.rowWrite who (fpSeqc p.val) (withField FpSeqc.RUN 1 val))

/-- SEQ_HALT: HALT stops the sequencer, sets HLT and SEV and clears RUN (R137). -/
def execSeqHalt (p : Fin 32) (s : State) : Host.Outcome State Fault Refusal :=
  .next (s.live fun d => d.seqHaltIns p.val)

/-- SEQ_LDI: LDI loads a zero-extended 9-bit immediate into a Q register (R134). -/
def execSeqLdi (p : Fin 32) (s : State) : Host.Outcome State Fault Refusal :=
  .next (s.live fun d => d.seqLdi p.val)

/-- SEQ_LDH: LDH loads a 9-bit immediate into the upper bits of a Q register (R134). -/
def execSeqLdh (p : Fin 32) (s : State) : Host.Outcome State Fault Refusal :=
  .next (s.live fun d => d.seqLdh p.val)

/-- SEQ_MOV: ALU MOV copies one Q register into another and sets Z and N (R134). -/
def execSeqMov (p : Fin 32) (s : State) : Host.Outcome State Fault Refusal :=
  .next (s.live fun d => d.seqAluOp .mov p.val)

/-- SEQ_ADD: ALU ADD adds two Q registers modulo 2^18 (R134). -/
def execSeqAdd (p : Fin 32) (s : State) : Host.Outcome State Fault Refusal :=
  .next (s.live fun d => d.seqAluOp .add p.val)

/-- SEQ_SUB: ALU SUB subtracts one Q register from another modulo 2^18 (R134). -/
def execSeqSub (p : Fin 32) (s : State) : Host.Outcome State Fault Refusal :=
  .next (s.live fun d => d.seqAluOp .sub p.val)

/-- SEQ_AND: ALU AND combines two Q registers bitwise (R134). -/
def execSeqAnd (p : Fin 32) (s : State) : Host.Outcome State Fault Refusal :=
  .next (s.live fun d => d.seqAluOp .and p.val)

/-- SEQ_OR: ALU OR combines two Q registers bitwise (R134). -/
def execSeqOr (p : Fin 32) (s : State) : Host.Outcome State Fault Refusal :=
  .next (s.live fun d => d.seqAluOp .or p.val)

/-- SEQ_XOR: ALU XOR combines two Q registers bitwise (R134). -/
def execSeqXor (p : Fin 32) (s : State) : Host.Outcome State Fault Refusal :=
  .next (s.live fun d => d.seqAluOp .xor p.val)

/-- SEQ_SHL: ALU SHL shifts a Q register left by one (R134). -/
def execSeqShl (p : Fin 32) (s : State) : Host.Outcome State Fault Refusal :=
  .next (s.live fun d => d.seqAluOp .shl p.val)

/-- SEQ_SHR: ALU SHR shifts a Q register right by one (R134). -/
def execSeqShr (p : Fin 32) (s : State) : Host.Outcome State Fault Refusal :=
  .next (s.live fun d => d.seqAluOp .shr p.val)

/-- SEQ_CMP: ALU CMP sets the flags from a subtraction without writing (R134). -/
def execSeqCmp (p : Fin 32) (s : State) : Host.Outcome State Fault Refusal :=
  .next (s.live fun d => d.seqAluOp .cmp p.val)

/-- SEQ_ADDI: ADDI adds a sign-extended 9-bit immediate to a Q register (R134). -/
def execSeqAddi (p : Fin 32) (s : State) : Host.Outcome State Fault Refusal :=
  .next (s.live fun d => d.seqAddi p.val)

/-- SEQ_IN: IN reads a terminal level, FPnRES part, SIN or the tick count into a Q register (R134). -/
def execSeqIn (p : Fin 32) (s : State) : Host.Outcome State Fault Refusal :=
  .next (s.live fun d => d.seqIn p.val)

/-- SEQ_OUT: OUT writes output levels or SOUT from a Q register (R134). -/
def execSeqOut (p : Fin 32) (s : State) : Host.Outcome State Fault Refusal :=
  .next (s.live fun d => d.seqOut p.val)

/-- SEQ_SETT: SETT sets the commanded level of one terminal (R134). -/
def execSeqSett (p : Fin 32) (s : State) : Host.Outcome State Fault Refusal :=
  .next (s.live fun d => d.seqSett p.val)

/-- SEQ_WAIT: WAIT starts a wait of n + 1 units (R134). -/
def execSeqWait (p : Fin 32) (s : State) : Host.Outcome State Fault Refusal :=
  .next (s.live fun d => d.seqWait p.val)

/-- SEQ_WAIT_END: A WAIT ends and the next instruction runs (R134). -/
def execSeqWaitEnd (p : Fin 32) (s : State) : Host.Outcome State Fault Refusal :=
  .next (s.live fun d => d.seqWaitEnd p.val)

/-- SEQ_WEDG: WEDG starts waiting for an edge on a terminal, with a timeout of Q[q] units when nonzero (R610). -/
def execSeqWedg (p : Fin 32) (s : State) : Host.Outcome State Fault Refusal :=
  .next (s.live fun d => d.seqWedg p.val)

/-- SEQ_WEDG_EDGE: The selected edge is seen, T clears and the next instruction runs on the following tick (R610). -/
def execSeqWedgEdge (p : Fin 32) (s : State) : Host.Outcome State Fault Refusal :=
  .next (s.live fun d => d.seqEdge p.val)

/-- SEQ_WEDG_TIMEOUT: The WEDG wait ends without an edge, T sets and the next instruction runs (R610). -/
def execSeqWedgTimeout (p : Fin 32) (s : State) : Host.Outcome State Fault Refusal :=
  .next (s.live fun d => d.seqEdgeTimeout p.val)

/-- SEQ_BR: BR branches to a slot on its condition (R134). -/
def execSeqBr (p : Fin 32) (s : State) : Host.Outcome State Fault Refusal :=
  .next (s.live fun d => d.seqBr p.val)

/-- SEQ_DJNZ: DJNZ decrements a Q register and branches if the result is not zero (R134). -/
def execSeqDjnz (p : Fin 32) (s : State) : Host.Outcome State Fault Refusal :=
  .next (s.live fun d => d.seqDjnz p.val)

/-- SEQ_EVT: EVT loads SEQS.CODE and sets the SEV cause (R134). -/
def execSeqEvt (p : Fin 32) (s : State) : Host.Outcome State Fault Refusal :=
  .next (s.live fun d => d.seqEvt p.val)

/-- SEQ_FLT: FLT raises a field fault with cause SFLT, transient under R133 or permanent at once (R134). -/
def execSeqFlt (p : Fin 32) (s : State) : Host.Outcome State Fault Refusal :=
  .next (s.live fun d => d.seqFlt p.val)

/-- SEQ_ILLEGAL: An illegal instruction, or running past slot 63, halts the sequencer with ILL, HLT and SEV set (R135). -/
def execSeqIllegal (p : Fin 32) (s : State) : Host.Outcome State Fault Refusal :=
  .next (s.live fun d => d.seqBad p.val)

end Sys2Proof.Machine
end

