-- ==== Sys2Proof/Machine/ExecSluices.lean ====
section
/-! DEFINITION. The meanings of the commands of sluice rules (R492-R500). -/

namespace Sys2Proof.Machine

/-- REGION_ENABLE: A write setting SLATTR.EN enables a region or is rejected with a reason in SLIDX.REJ (R493). -/
def execRegionEnable (who : Requester) (sl : Fin 99) (val : Half) (s : State) : Host.Outcome State Fault Refusal :=
  .next (s.rowWrite who (0x0A0003 + 8 * sl.val) (withField SlAttr.EN 1 val))

/-- REGION_LOCK: A write with SLATTR.LK locks the region's registers until reset (R494). -/
def execRegionLock (who : Requester) (sl : Fin 99) (val : Half) (s : State) : Host.Outcome State Fault Refusal :=
  .next (s.rowWrite who (0x0A0003 + 8 * sl.val) (withField SlAttr.LK 1 val))

/-- SLUICE_RULE_WRITE: A rule write takes effect on the next sluice cycle and notes the requests in flight (R495). -/
def execSluiceRuleWrite (who : Requester) (sl : Fin 99) (reg : Fin 3) (val : Half) (s : State) : Host.Outcome State Fault Refusal :=
  .next (s.rowWrite who (0x0A0001 + 8 * sl.val + reg.val) (val))

/-- DRAINED: SLIDX.DRAINED sets when every request noted at the last rule write has completed (R495). -/
def execDrained (sl : Fin 99) (s : State) : Host.Outcome State Fault Refusal :=
  .next (s.live fun d => d.drained sl.val)

end Sys2Proof.Machine
end

