-- ==== Sys2Proof/Machine/ExecStart.lean ====
section
/-! DEFINITION. The meanings of the commands of resets, starts and staging (R526-R553, R602). -/

namespace Sys2Proof.Machine

/-- NRESET: nRESET low takes the safety balls low and the field terminals to high impedance, holding a committing transaction until its MARK is durable (R602). -/
def execNreset (s : State) : Host.Outcome State Fault Refusal :=
  .next (s.resetLow)

/-- NRESET_RELEASE: Release of nRESET samples the straps and begins a start at step 3 (R602). -/
def execNresetRelease (strap : Fin 4) (s : State) : Host.Outcome State Fault Refusal :=
  .next (s.onDev (s.dev.resetHigh strap.val))

/-- RAIL_REGULATION: The converter's rails come into regulation, the own oscillators start and MODE is sampled (R526). -/
def execRailRegulation (strap : Fin 4) (s : State) : Host.Outcome State Fault Refusal :=
  .next (s.onDev (s.dev.railsUp strap.val))

/-- SPLL_LOCK: The crystal starts, SPLL locks, the boot clock moves to 200 MHz and the bank measurement starts (R526). -/
def execSpllLock (s : State) : Host.Outcome State Fault Refusal :=
  .next (s.onDev (s.dev.spllUp))

/-- SELF_TEST: Fuses are read, pending zeroisation is completed and the security unit runs its self-tests (R526). -/
def execSelfTest (ok : Bool) (x : TamperIn) (s : State) : Host.Outcome State Fault Refusal :=
  .next (s.onDev (s.dev.selfTests ok x))

/-- XSPI_INIT: The xSPI memory is reset, its SFDP read and 8D-8D-8D mode entered, and both slot headers read (R530). -/
def execXspiInit (errA : Bool) (errB : Bool) (fmhz : BitVec 9) (dummy : BitVec 5) (s : State) : Host.Outcome State Fault Refusal :=
  .next (s.xspiUp errA errB fmhz.toNat dummy.toNat)

/-- SLOT_CHOICE: The loader chooses a candidate slot, verifies its manifest, or enters image recovery when none passes (R539). -/
def execSlotChoice (bad : Bool) (s : State) : Host.Outcome State Fault Refusal :=
  .next (s.chooseSlot bad)

/-- BIST_AT_START: March C− runs on every local SRAM, every furrow SRAM and optionally the DRAM (R279). -/
def execBistAtStart (cells : BitVec 64) (furs : BitVec 16) (drams : BitVec 4) (s : State) : Host.Outcome State Fault Refusal :=
  .next (s.startBist cells.toNat furs.toNat drams.toNat)

/-- SECTION_LOAD: Sections are read, hashed and written, or the code store is kept when the load record matches (R541). -/
def execSectionLoad (bad : Bool) (s : State) : Host.Outcome State Fault Refusal :=
  .next (s.loadSections bad)

/-- RECORDS_APPLY: FURROW, PART and REGS records are applied with system rights (R543). -/
def execRecordsApply (s : State) : Host.Outcome State Fault Refusal :=
  .next (s.applyRecords)

/-- JOURNAL_REPLAY: The TXU walks the journal from the done limit, completing or discarding each PREP entry and setting RDY (R195). -/
def execJournalReplay (s : State) : Host.Outcome State Fault Refusal :=
  .next (s.onDev (s.dev.startReplay))

/-- BINDINGS_APPLY: Parameter bindings are applied, then LOCKS records set the locks (R547). -/
def execBindingsApply (s : State) : Host.Outcome State Fault Refusal :=
  .next (s.applyBindings)

/-- FIRST_APPLICATION_BUNDLE: Every running cell enters M at its restart vector with cause 0x23 and nFAULT is released (R445). -/
def execFirstApplicationBundle (s : State) : Host.Outcome State Fault Refusal :=
  .next (s.onDev (s.dev.firstBundle))

/-- STAGE: BTCMD.STAGE starts copying an image from DRAM into the unused slot under an update session (R551). -/
def execStage (who : Requester) (trialn : Fin 16) (s : State) : Host.Outcome State Fault Refusal :=
  .next (s.rowWrite who (btCmd) (withField BtCmd.STAGE 1 (withField BtCmd.TRIALN trialn.val 0)))

/-- STAGING_PHASE_END: A staging phase ends, starting the next phase or ending staging with its result (R551). -/
def execStagingPhaseEnd (bad : Bool) (n : Nat) (s : State) : Host.Outcome State Fault Refusal :=
  .next (s.liveS fun s => s.stagePhase bad n)

/-- CONFIRM: BTCMD.CONFIRM programs H3 of the loaded trial slot to zero and may raise the fused minimum SVN (R552). -/
def execConfirm (who : Requester) (s : State) : Host.Outcome State Fault Refusal :=
  .next (s.rowWrite who (btCmd) (withField BtCmd.CONFIRM 1 0))

/-- RESTART: BTCMD.RESTART begins a start at step 3 (R552). -/
def execRestart (who : Requester) (s : State) : Host.Outcome State Fault Refusal :=
  .next (s.rowWrite who (btCmd) (withField BtCmd.RESTART 1 0))

/-- ABORT: BTCMD.ABORT ends a staging in progress with RES = 3 at its next word (R552). -/
def execAbort (who : Requester) (s : State) : Host.Outcome State Fault Refusal :=
  .next (s.rowWrite who (btCmd) (withField BtCmd.ABORT 1 0))

end Sys2Proof.Machine
end

