-- ==== Sys2Proof/Machine/ExecTimers.lean ====
section
/-! DEFINITION. The meanings of the commands of interval timers (R84-R104). -/

namespace Sys2Proof.Machine

/-- TIMER_UNIT_TICK: A prescaler expiry gives a timer unit tick that loads, decrements or wraps the count (R86). -/
def execTimerUnitTick (n : Fin 64) (s : State) : Host.Outcome State Fault Refusal :=
  .next (s.live fun d => d.unitTick n.val)

/-- TIMER_ZERO: A decrement that makes the count 0 raises Z and, in one-shot mode, clears RUN (R87). -/
def execTimerZero (n : Fin 64) (s : State) : Host.Outcome State Fault Refusal :=
  .next (s.live fun d => d.timerZero n.val)

/-- COMPARE_WRITE_ARRIVAL: A compare write reaches the live comparator on the second unit tick after completion and sets NEAR when within ±1 of the count (R94). -/
def execCompareWriteArrival (n : Fin 64) (k : Fin 2) (s : State) : Host.Outcome State Fault Refusal :=
  .next (s.live fun d => d.cmpArrive n.val k.val)

/-- RELOAD_WRITE: A write of TMnRLD reaches the reload buffer on the first timer base tick after completion (R89). -/
def execReloadWrite (n : Fin 64) (s : State) : Host.Outcome State Fault Refusal :=
  .next (s.live fun d => d.reloadArrive n.val)

/-- RELOADNOW loads RELOAD into the counter on the next base tick, restarts the prescaler and is evaluated as a load by the compares (R90). -/
def execReloadnow (who : Requester) (n : Fin 64) (s : State) : Host.Outcome State Fault Refusal :=
  .next (s.rowWrite who (tmCmd n.val) (withField TmCmd.RELOADNOW 1 0))

/-- RUN: Setting RUN resumes counting from TMnCNT with a restarted prescaler, or a mode change while running is refused (R88). -/
def execRun (who : Requester) (n : Fin 64) (val : Half) (s : State) : Host.Outcome State Fault Refusal :=
  .next (s.rowWrite who (tmCtl n.val) (withField TmCtl.RUN 1 val))

/-- TMGO: A write to TMGO0 or TMGO1 sets RUN in every named timer on one base tick (R103). -/
def execTmgo (who : Requester) (k : Fin 2) (mask : BitVec 32) (s : State) : Host.Outcome State Fault Refusal :=
  .next (s.rowWrite who (tmGo k.val) (withField TmGo.GO mask.toNat 0))

/-- STRT_TRIGGER: A selected master event sets RUN of the slave timer at order 1 of the next base tick (R101). -/
def execStrtTrigger (n : Fin 64) (s : State) : Host.Outcome State Fault Refusal :=
  .next (s.live fun d => d.strtTrigger n.val)

/-- RST_TRIGGER: A selected master event loads RELOAD into the slave timer as RELOADNOW does (R101). -/
def execRstTrigger (n : Fin 64) (s : State) : Host.Outcome State Fault Refusal :=
  .next (s.live fun d => d.rstTrigger n.val)

/-- GATE_TRIGGER: A change of the selected master level opens or closes the slave timer's gate (R101). -/
def execGateTrigger (n : Fin 64) (s : State) : Host.Outcome State Fault Refusal :=
  .next (s.live fun d => d.gateTrigger n.val)

/-- CLK_TRIGGER: A selected master event counts as one count-clock event of the slave timer (R101). -/
def execClkTrigger (n : Fin 64) (s : State) : Host.Outcome State Fault Refusal :=
  .next (s.live fun d => d.clkTrigger n.val)

/-- PIN_ACTION: A timer's Z or compare actions, or its WIN level, change its named terminal on the next port tick (R104). -/
def execPinAction (n : Fin 64) (s : State) : Host.Outcome State Fault Refusal :=
  .next (s.live fun d => d.pinAction n.val)

end Sys2Proof.Machine
end

