-- ==== Sys2Proof/Machine/ExecTxu.lean ====
section
/-! DEFINITION. The meanings of the commands of transactions and the journal (R169-R203, R611). -/

namespace Sys2Proof.Machine

/-- TBEGIN opens a FREE transaction, makes the issuing group its owner and makes it current (R172). -/
def execTbegin (h : OpHdr) (s1 : Fin 32) (s : State) : Host.Outcome State Fault Refusal :=
  .next (s.rowOp h { k := .tx .tbegin, slot := 3, s1 := s1.val })

/-- TSEL makes an owned transaction current (R172). -/
def execTsel (h : OpHdr) (s1 : Fin 32) (s : State) : Host.Outcome State Fault Refusal :=
  .next (s.rowOp h { k := .tx .tsel, slot := 3, s1 := s1.val })

/-- TSW stages a write to the TX fields of an I/O register and claims them, after a sluice check (R175). -/
def execTsw (h : OpHdr) (s1 : Fin 32) (s2 : Fin 32) (s : State) : Host.Outcome State Fault Refusal :=
  .next (s.rowOp h { k := .tx .tsw, slot := 3, s1 := s1.val, s2 := s2.val })

/-- TTOT stages a totalizer add from a staged domain snapshot and claims the totalizer (R189). -/
def execTtot (h : OpHdr) (s1 : Fin 32) (s : State) : Host.Outcome State Fault Refusal :=
  .next (s.rowOp h { k := .tx .ttot, slot := 3, s1 := s1.val })

/-- TPAR stages a parameter write after the session rights check and claims the word (R177). -/
def execTpar (h : OpHdr) (s1 : Fin 32) (s2 : Fin 32) (s : State) : Host.Outcome State Fault Refusal :=
  .next (s.rowOp h { k := .tx .tpar, slot := 3, s1 := s1.val, s2 := s2.val })

/-- TSNAP stages a domain, timer or port energy snapshot with the next index (R172). -/
def execTsnap (h : OpHdr) (s1 : Fin 32) (s : State) : Host.Outcome State Fault Refusal :=
  .next (s.rowOp h { k := .tx .tsnap, slot := 3, s1 := s1.val })

/-- TAPP copies a buffer of 1–512 words into a record append while issue is frozen (R176). -/
def execTapp (h : OpHdr) (s1 : Fin 32) (s2 : Fin 32) (s : State) : Host.Outcome State Fault Refusal :=
  .next (s.rowOp h { k := .tx .tapp, slot := 3, s1 := s1.val, s2 := s2.val })

/-- TAPP_COPY_END: The TXU copies the last word of a TAPP buffer and the group's issue resumes (R173). -/
def execTappCopyEnd (n : Fin 32) (fl : Flips) (s : State) : Host.Outcome State Fault Refusal :=
  .next (s.liveS fun s => s.tappEnd n.val fl)

/-- TFRM stages the release of a held frame descriptor and claims it (R177). -/
def execTfrm (h : OpHdr) (s1 : Fin 32) (s : State) : Host.Outcome State Fault Refusal :=
  .next (s.rowOp h { k := .tx .tfrm, slot := 3, s1 := s1.val })

/-- TCOMMIT starts the commit, immediately or holding in WAITING for a trigger (R178). -/
def execTcommit (h : OpHdr) (s1 : Fin 32) (s : State) : Host.Outcome State Fault Refusal :=
  .next (s.rowOp h { k := .tx .tcommit, slot := 3, s1 := s1.val })

/-- TABORT aborts the current transaction with code USER (R183). -/
def execTabort (h : OpHdr) (s : State) : Host.Outcome State Fault Refusal :=
  .next (s.rowOp h { k := .tx .tabort, slot := 3 })

/-- RESERVATION_GRANT: The ditch rider grants or refuses a commit's reservation on its next cycle against the visible budget (R308). -/
def execReservationGrant (n : Fin 32) (s : State) : Host.Outcome State Fault Refusal :=
  .next (s.live fun d => d.txGrant n.val)

/-- PREP_DURABLE: The PREP entry becomes durable and the transaction goes to its apply tick or to WAITING (R169). -/
def execPrepDurable (n : Fin 32) (ok : Bool) (s : State) : Host.Outcome State Fault Refusal :=
  .next (s.live fun d => d.txPrepDurable n.val ok)

/-- APPLY_PORT_TICK: On the apply port tick every staged write is applied, every snapshot taken and the MARK write started (R171). -/
def execApplyPortTick (timers : List (Fin 64)) (ptp0 : Nat) (ptp1 : Nat) (s : State) : Host.Outcome State Fault Refusal :=
  .next (s.live fun d => d.portTick (timers.map Fin.val) ptp0 ptp1)

/-- MARK_DURABLE: When the MARK entry is durable the TXU releases frames, carries out home writes and writes DONE (R169). -/
def execMarkDurable (n : Fin 32) (s : State) : Host.Outcome State Fault Refusal :=
  .next (s.liveS fun s => (s.markDurable n.val).heldReset)

/-- DONE_DURABLE: The DONE entry becomes durable, releasing claims and the reservation and setting the result committed (R181). -/
def execDoneDurable (n : Fin 32) (s : State) : Host.Outcome State Fault Refusal :=
  .next (s.live fun d => d.doneDurable n.val)

/-- TX_TIMEOUT: WTO milliseconds in WAITING without a trigger abort the transaction with TIMEOUT (R178). -/
def execTxTimeout (n : Fin 32) (s : State) : Host.Outcome State Fault Refusal :=
  .next (s.live fun d => d.txTimeout n.val)

/-- KILL: TXCMD.KILL aborts the named open, preparing or waiting transaction with code KILL (R202). -/
def execKill (who : Requester) (n : Fin 32) (s : State) : Host.Outcome State Fault Refusal :=
  .next (s.rowWrite who (txCmd) (withField TxCmd.KILL 1 (withField TxCmd.TXN n.val 0)))

/-- JOURNAL_TAIL_WRITE: A valid write of RSJTAIL moves the journal tail and rewrites both control block copies (R203). -/
def execJournalTailWrite (who : Requester) (val : Half) (s : State) : Host.Outcome State Fault Refusal :=
  .next (s.rowWrite who (rsJtail) (val))

/-- SYSTEM_COMMIT: A system commit writes a retirement word and its audit entry in the required order without a transaction number (R190). -/
def execSystemCommit (s : State) : Host.Outcome State Fault Refusal :=
  .next (s.live fun d => d.sysRun)

end Sys2Proof.Machine
end

