-- ==== Sys2Proof/Machine/Dispatch.lean ====
section
/-! DEFINITION. Each command and its meaning. -/

namespace Sys2Proof.Machine

open Sys2Proof

def exec (i : Instr) (s : State) : Host.Outcome State Fault Refusal :=
  match i with
  | .registerWrite who addr val => Sys2Proof.Machine.execRegisterWrite who addr val s
  | .rcRead who addr => Sys2Proof.Machine.execRcRead who addr s
  | .lowHalfRead who addr => Sys2Proof.Machine.execLowHalfRead who addr s
  | .highHalfRead who addr => Sys2Proof.Machine.execHighHalfRead who addr s
  | .highHalfWrite who addr val => Sys2Proof.Machine.execHighHalfWrite who addr val s
  | .lowHalfWrite who addr val => Sys2Proof.Machine.execLowHalfWrite who addr val s
  | .clockFrequencyFault k u => Sys2Proof.Machine.execClockFrequencyFault k u s
  | .pllLockLoss k u => Sys2Proof.Machine.execPllLockLoss k u s
  | .crystalLoss => Sys2Proof.Machine.execCrystalLoss s
  | .conditionedLevelChange p t lvl sub => Sys2Proof.Machine.execConditionedLevelChange p t lvl sub s
  | .domainPortTick ptp0 ptp1 => Sys2Proof.Machine.execDomainPortTick ptp0 ptp1 s
  | .channelLoss n => Sys2Proof.Machine.execChannelLoss n s
  | .integrityFault n => Sys2Proof.Machine.execIntegrityFault n s
  | .errorWindowEnd n => Sys2Proof.Machine.execErrorWindowEnd n s
  | .stall n => Sys2Proof.Machine.execStall n s
  | .domainEnable who n val => Sys2Proof.Machine.execDomainEnable who n val s
  | .domainDisable who n val => Sys2Proof.Machine.execDomainDisable who n val s
  | .zero who n => Sys2Proof.Machine.execZero who n s
  | .clrrev who n => Sys2Proof.Machine.execClrrev who n s
  | .snap who n => Sys2Proof.Machine.execSnap who n s
  | .mainsZeroCrossing n z => Sys2Proof.Machine.execMainsZeroCrossing n z s
  | .mainsLock n => Sys2Proof.Machine.execMainsLock n s
  | .mainsLockLoss q => Sys2Proof.Machine.execMainsLockLoss q s
  | .holdEnd n => Sys2Proof.Machine.execHoldEnd n s
  | .slotWriteArrival n k => Sys2Proof.Machine.execSlotWriteArrival n k s
  | .slotAction n k => Sys2Proof.Machine.execSlotAction n k s
  | .waitcComplete c => Sys2Proof.Machine.execWaitcComplete c s
  | .timerUnitTick n => Sys2Proof.Machine.execTimerUnitTick n s
  | .timerZero n => Sys2Proof.Machine.execTimerZero n s
  | .compareWriteArrival n k => Sys2Proof.Machine.execCompareWriteArrival n k s
  | .reloadWrite n => Sys2Proof.Machine.execReloadWrite n s
  | .reloadnow who n => Sys2Proof.Machine.execReloadnow who n s
  | .run who n val => Sys2Proof.Machine.execRun who n val s
  | .tmgo who k mask => Sys2Proof.Machine.execTmgo who k mask s
  | .strtTrigger n => Sys2Proof.Machine.execStrtTrigger n s
  | .rstTrigger n => Sys2Proof.Machine.execRstTrigger n s
  | .gateTrigger n => Sys2Proof.Machine.execGateTrigger n s
  | .clkTrigger n => Sys2Proof.Machine.execClkTrigger n s
  | .pinAction n => Sys2Proof.Machine.execPinAction n s
  | .en who p => Sys2Proof.Machine.execEn who p s
  | .dis who p => Sys2Proof.Machine.execDis who p s
  | .restore who p => Sys2Proof.Machine.execRestore who p s
  | .isol who p => Sys2Proof.Machine.execIsol who p s
  | .networkCheckEnd p ohms => Sys2Proof.Machine.execNetworkCheckEnd p ohms s
  | .openFault p => Sys2Proof.Machine.execOpenFault p s
  | .shortFault p => Sys2Proof.Machine.execShortFault p s
  | .limitFault p => Sys2Proof.Machine.execLimitFault p s
  | .envExit p mv => Sys2Proof.Machine.execEnvExit p mv s
  | .chargeWindowEnd p charge energy => Sys2Proof.Machine.execChargeWindowEnd p charge energy s
  | .railFault p => Sys2Proof.Machine.execRailFault p s
  | .loopFault p => Sys2Proof.Machine.execLoopFault p s
  | .retryReturn p => Sys2Proof.Machine.execRetryReturn p s
  | .rcntClear p => Sys2Proof.Machine.execRcntClear p s
  | .hitEnd p t => Sys2Proof.Machine.execHitEnd p t s
  | .rtdConversionEnd p res => Sys2Proof.Machine.execRtdConversionEnd p res s
  | .loopUpdate p r => Sys2Proof.Machine.execLoopUpdate p r s
  | .txvPush who p oct => Sys2Proof.Machine.execTxvPush who p oct s
  | .uartTransmitEnd p => Sys2Proof.Machine.execUartTransmitEnd p s
  | .uartReceive p oct err => Sys2Proof.Machine.execUartReceive p oct err s
  | .rxdRead who p => Sys2Proof.Machine.execRxdRead who p s
  | .seqStart who p val => Sys2Proof.Machine.execSeqStart who p val s
  | .seqHalt p => Sys2Proof.Machine.execSeqHalt p s
  | .seqLdi p => Sys2Proof.Machine.execSeqLdi p s
  | .seqLdh p => Sys2Proof.Machine.execSeqLdh p s
  | .seqMov p => Sys2Proof.Machine.execSeqMov p s
  | .seqAdd p => Sys2Proof.Machine.execSeqAdd p s
  | .seqSub p => Sys2Proof.Machine.execSeqSub p s
  | .seqAnd p => Sys2Proof.Machine.execSeqAnd p s
  | .seqOr p => Sys2Proof.Machine.execSeqOr p s
  | .seqXor p => Sys2Proof.Machine.execSeqXor p s
  | .seqShl p => Sys2Proof.Machine.execSeqShl p s
  | .seqShr p => Sys2Proof.Machine.execSeqShr p s
  | .seqCmp p => Sys2Proof.Machine.execSeqCmp p s
  | .seqAddi p => Sys2Proof.Machine.execSeqAddi p s
  | .seqIn p => Sys2Proof.Machine.execSeqIn p s
  | .seqOut p => Sys2Proof.Machine.execSeqOut p s
  | .seqSett p => Sys2Proof.Machine.execSeqSett p s
  | .seqWait p => Sys2Proof.Machine.execSeqWait p s
  | .seqWaitEnd p => Sys2Proof.Machine.execSeqWaitEnd p s
  | .seqWedg p => Sys2Proof.Machine.execSeqWedg p s
  | .seqWedgEdge p => Sys2Proof.Machine.execSeqWedgEdge p s
  | .seqWedgTimeout p => Sys2Proof.Machine.execSeqWedgTimeout p s
  | .seqBr p => Sys2Proof.Machine.execSeqBr p s
  | .seqDjnz p => Sys2Proof.Machine.execSeqDjnz p s
  | .seqEvt p => Sys2Proof.Machine.execSeqEvt p s
  | .seqFlt p => Sys2Proof.Machine.execSeqFlt p s
  | .seqIllegal p => Sys2Proof.Machine.execSeqIllegal p s
  | .channelEnable who n val => Sys2Proof.Machine.execChannelEnable who n val s
  | .channelDisable who n val => Sys2Proof.Machine.execChannelDisable who n val s
  | .arm who n => Sys2Proof.Machine.execArm who n s
  | .disarm who n => Sys2Proof.Machine.execDisarm who n s
  | .chEnd who n => Sys2Proof.Machine.execChEnd who n s
  | .close who n => Sys2Proof.Machine.execClose who n s
  | .safe who n => Sys2Proof.Machine.execSafe who n s
  | .clear who n => Sys2Proof.Machine.execClear who n s
  | .interlock n => Sys2Proof.Machine.execInterlock n s
  | .channelRetirementClear who n => Sys2Proof.Machine.execChannelRetirementClear who n s
  | .tbegin h s1 => Sys2Proof.Machine.execTbegin h s1 s
  | .tsel h s1 => Sys2Proof.Machine.execTsel h s1 s
  | .tsw h s1 s2 => Sys2Proof.Machine.execTsw h s1 s2 s
  | .ttot h s1 => Sys2Proof.Machine.execTtot h s1 s
  | .tpar h s1 s2 => Sys2Proof.Machine.execTpar h s1 s2 s
  | .tsnap h s1 => Sys2Proof.Machine.execTsnap h s1 s
  | .tapp h s1 s2 => Sys2Proof.Machine.execTapp h s1 s2 s
  | .tappCopyEnd n fl => Sys2Proof.Machine.execTappCopyEnd n fl s
  | .tfrm h s1 => Sys2Proof.Machine.execTfrm h s1 s
  | .tcommit h s1 => Sys2Proof.Machine.execTcommit h s1 s
  | .tabort h => Sys2Proof.Machine.execTabort h s
  | .reservationGrant n => Sys2Proof.Machine.execReservationGrant n s
  | .prepDurable n ok => Sys2Proof.Machine.execPrepDurable n ok s
  | .applyPortTick timers ptp0 ptp1 => Sys2Proof.Machine.execApplyPortTick timers ptp0 ptp1 s
  | .markDurable n => Sys2Proof.Machine.execMarkDurable n s
  | .doneDurable n => Sys2Proof.Machine.execDoneDurable n s
  | .txTimeout n => Sys2Proof.Machine.execTxTimeout n s
  | .kill who n => Sys2Proof.Machine.execKill who n s
  | .journalTailWrite who val => Sys2Proof.Machine.execJournalTailWrite who val s
  | .systemCommit => Sys2Proof.Machine.execSystemCommit s
  | .unwindEnd c => Sys2Proof.Machine.execUnwindEnd c s
  | .unwindTimeout c => Sys2Proof.Machine.execUnwindTimeout c s
  | .arbitrationTestEnd f v => Sys2Proof.Machine.execArbitrationTestEnd f v s
  | .groupResume f => Sys2Proof.Machine.execGroupResume f s
  | .groupRestart q => Sys2Proof.Machine.execGroupRestart q s
  | .minorityTestEnd c fails => Sys2Proof.Machine.execMinorityTestEnd c fails s
  | .split who f src tgt nrole => Sys2Proof.Machine.execSplit who f src tgt nrole s
  | .join who f src tgt => Sys2Proof.Machine.execJoin who f src tgt s
  | .stop who f tgt => Sys2Proof.Machine.execStop who f tgt s
  | .spare who f tgt => Sys2Proof.Machine.execSpare who f tgt s
  | .retire who f tgt => Sys2Proof.Machine.execRetire who f tgt s
  | .quiesceEnd f differ => Sys2Proof.Machine.execQuiesceEnd f differ s
  | .quiesceDrainTimeout f => Sys2Proof.Machine.execQuiesceDrainTimeout f s
  | .joinEnd f bad => Sys2Proof.Machine.execJoinEnd f bad s
  | .cellRetirementClear who f mask => Sys2Proof.Machine.execCellRetirementClear who f mask s
  | .clockChange who f freq => Sys2Proof.Machine.execClockChange who f freq s
  | .relockEnd f => Sys2Proof.Machine.execRelockEnd f s
  | .caliperTest f go r => Sys2Proof.Machine.execCaliperTest f go r s
  | .faultAssert k ext => Sys2Proof.Machine.execFaultAssert k ext s
  | .faultDeassert k u => Sys2Proof.Machine.execFaultDeassert k u s
  | .faultRestart => Sys2Proof.Machine.execFaultRestart s
  | .recoveryWindowEnd => Sys2Proof.Machine.execRecoveryWindowEnd s
  | .feed who key => Sys2Proof.Machine.execFeed who key s
  | .feedTimeout => Sys2Proof.Machine.execFeedTimeout s
  | .feedWarning => Sys2Proof.Machine.execFeedWarning s
  | .iclr who val => Sys2Proof.Machine.execIclr who val s
  | .cfClear who val => Sys2Proof.Machine.execCfClear who val s
  | .softwareDeviceFatal who => Sys2Proof.Machine.execSoftwareDeviceFatal who s
  | .softwareChannelFatal who mask => Sys2Proof.Machine.execSoftwareChannelFatal who mask s
  | .safetyReadbackFault u => Sys2Proof.Machine.execSafetyReadbackFault u s
  | .oscillatorCrossCheck => Sys2Proof.Machine.execOscillatorCrossCheck s
  | .fstopPulseTest ok => Sys2Proof.Machine.execFstopPulseTest ok s
  | .bistGo who val => Sys2Proof.Machine.execBistGo who val s
  | .bistEnd n fail => Sys2Proof.Machine.execBistEnd n fail s
  | .spareTestVisit => Sys2Proof.Machine.execSpareTestVisit s
  | .spareTestEnd c pass => Sys2Proof.Machine.execSpareTestEnd c pass s
  | .mramScrub a mem taken => Sys2Proof.Machine.execMramScrub a mem taken s
  | .patrolScrub a mem taken => Sys2Proof.Machine.execPatrolScrub a mem taken s
  | .railOutOfRegulation u => Sys2Proof.Machine.execRailOutOfRegulation u s
  | .bankMeasurementEnd us => Sys2Proof.Machine.execBankMeasurementEnd us s
  | .remeas who val => Sys2Proof.Machine.execRemeas who val s
  | .chargeComplete => Sys2Proof.Machine.execChargeComplete s
  | .bankLeak => Sys2Proof.Machine.execBankLeak s
  | .accountUpdate vin hold pin iin => Sys2Proof.Machine.execAccountUpdate vin hold pin iin s
  | .powerOnWeir => Sys2Proof.Machine.execPowerOnWeir s
  | .warn => Sys2Proof.Machine.execWarn s
  | .supplyReturn => Sys2Proof.Machine.execSupplyReturn s
  | .cut => Sys2Proof.Machine.execCut s
  | .shedEnd => Sys2Proof.Machine.execShedEnd s
  | .shedNote => Sys2Proof.Machine.execShedNote s
  | .abortw => Sys2Proof.Machine.execAbortw s
  | .chsafe => Sys2Proof.Machine.execChsafe s
  | .portoffl => Sys2Proof.Machine.execPortoffl s
  | .portoffh => Sys2Proof.Machine.execPortoffh s
  | .railoff => Sys2Proof.Machine.execRailoff s
  | .clkdn => Sys2Proof.Machine.execClkdn s
  | .park => Sys2Proof.Machine.execPark s
  | .foff => Sys2Proof.Machine.execFoff s
  | .dramoff => Sys2Proof.Machine.execDramoff s
  | .ethoff => Sys2Proof.Machine.execEthoff s
  | .waitx => Sys2Proof.Machine.execWaitx s
  | .throttleStep f => Sys2Proof.Machine.execThrottleStep f s
  | .dramRefresh bank => Sys2Proof.Machine.execDramRefresh bank s
  | .rowClose bank => Sys2Proof.Machine.execRowClose bank s
  | .add h d s1 s2 => Sys2Proof.Machine.execAdd h d s1 s2 s
  | .sub h d s1 s2 => Sys2Proof.Machine.execSub h d s1 s2 s
  | .addf h d s1 s2 => Sys2Proof.Machine.execAddf h d s1 s2 s
  | .subf h d s1 s2 => Sys2Proof.Machine.execSubf h d s1 s2 s
  | .adc h d s1 s2 => Sys2Proof.Machine.execAdc h d s1 s2 s
  | .sbc h d s1 s2 => Sys2Proof.Machine.execSbc h d s1 s2 s
  | .adds h d s1 s2 => Sys2Proof.Machine.execAdds h d s1 s2 s
  | .subs h d s1 s2 => Sys2Proof.Machine.execSubs h d s1 s2 s
  | .and h d s1 s2 => Sys2Proof.Machine.execAnd h d s1 s2 s
  | .or h d s1 s2 => Sys2Proof.Machine.execOr h d s1 s2 s
  | .xor h d s1 s2 => Sys2Proof.Machine.execXor h d s1 s2 s
  | .andn h d s1 s2 => Sys2Proof.Machine.execAndn h d s1 s2 s
  | .shl h d s1 s2 => Sys2Proof.Machine.execShl h d s1 s2 s
  | .shr h d s1 s2 => Sys2Proof.Machine.execShr h d s1 s2 s
  | .sar h d s1 s2 => Sys2Proof.Machine.execSar h d s1 s2 s
  | .rol h d s1 s2 => Sys2Proof.Machine.execRol h d s1 s2 s
  | .min h d s1 s2 => Sys2Proof.Machine.execMin h d s1 s2 s
  | .max h d s1 s2 => Sys2Proof.Machine.execMax h d s1 s2 s
  | .minu h d s1 s2 => Sys2Proof.Machine.execMinu h d s1 s2 s
  | .maxu h d s1 s2 => Sys2Proof.Machine.execMaxu h d s1 s2 s
  | .clz h d s1 => Sys2Proof.Machine.execClz h d s1 s
  | .popc h d s1 => Sys2Proof.Machine.execPopc h d s1 s
  | .abs h d s1 => Sys2Proof.Machine.execAbs h d s1 s
  | .addi h d s1 imm => Sys2Proof.Machine.execAddi h d s1 imm s
  | .andi h d s1 imm => Sys2Proof.Machine.execAndi h d s1 imm s
  | .ori h d s1 imm => Sys2Proof.Machine.execOri h d s1 imm s
  | .xori h d s1 imm => Sys2Proof.Machine.execXori h d s1 imm s
  | .shli h d s1 imm => Sys2Proof.Machine.execShli h d s1 imm s
  | .shri h d s1 imm => Sys2Proof.Machine.execShri h d s1 imm s
  | .sari h d s1 imm => Sys2Proof.Machine.execSari h d s1 imm s
  | .roli h d s1 imm => Sys2Proof.Machine.execRoli h d s1 imm s
  | .cmpiEq h d s1 imm => Sys2Proof.Machine.execCmpiEq h d s1 imm s
  | .cmpiNe h d s1 imm => Sys2Proof.Machine.execCmpiNe h d s1 imm s
  | .cmpiLt h d s1 imm => Sys2Proof.Machine.execCmpiLt h d s1 imm s
  | .cmpiGe h d s1 imm => Sys2Proof.Machine.execCmpiGe h d s1 imm s
  | .cmpiLtu h d s1 imm => Sys2Proof.Machine.execCmpiLtu h d s1 imm s
  | .cmpiGeu h d s1 imm => Sys2Proof.Machine.execCmpiGeu h d s1 imm s
  | .extb h d s1 k => Sys2Proof.Machine.execExtb h d s1 k s
  | .extbs h d s1 k => Sys2Proof.Machine.execExtbs h d s1 k s
  | .insb h d s1 s2 k => Sys2Proof.Machine.execInsb h d s1 s2 k s
  | .extq h d s1 k => Sys2Proof.Machine.execExtq h d s1 k s
  | .extqs h d s1 k => Sys2Proof.Machine.execExtqs h d s1 k s
  | .insq h d s1 s2 k => Sys2Proof.Machine.execInsq h d s1 s2 k s
  | .exth h d s1 k => Sys2Proof.Machine.execExth h d s1 k s
  | .exths h d s1 k => Sys2Proof.Machine.execExths h d s1 k s
  | .insh h d s1 s2 k => Sys2Proof.Machine.execInsh h d s1 s2 k s
  | .beqm h d s1 s2 => Sys2Proof.Machine.execBeqm h d s1 s2 s
  | .bswap h d s1 => Sys2Proof.Machine.execBswap h d s1 s
  | .ladd h d s1 s2 => Sys2Proof.Machine.execLadd h d s1 s2 s
  | .lsub h d s1 s2 => Sys2Proof.Machine.execLsub h d s1 s2 s
  | .cmpEq h d s1 s2 => Sys2Proof.Machine.execCmpEq h d s1 s2 s
  | .cmpNe h d s1 s2 => Sys2Proof.Machine.execCmpNe h d s1 s2 s
  | .cmpLt h d s1 s2 => Sys2Proof.Machine.execCmpLt h d s1 s2 s
  | .cmpGe h d s1 s2 => Sys2Proof.Machine.execCmpGe h d s1 s2 s
  | .cmpLtu h d s1 s2 => Sys2Proof.Machine.execCmpLtu h d s1 s2 s
  | .cmpGeu h d s1 s2 => Sys2Proof.Machine.execCmpGeu h d s1 s2 s
  | .tst h d s1 s2 => Sys2Proof.Machine.execTst h d s1 s2 s
  | .pand h d s1 s2 => Sys2Proof.Machine.execPand h d s1 s2 s
  | .por h d s1 s2 => Sys2Proof.Machine.execPor h d s1 s2 s
  | .pxor h d s1 s2 => Sys2Proof.Machine.execPxor h d s1 s2 s
  | .pandn h d s1 s2 => Sys2Proof.Machine.execPandn h d s1 s2 s
  | .pnot h d s1 => Sys2Proof.Machine.execPnot h d s1 s
  | .mff h d => Sys2Proof.Machine.execMff h d s
  | .mtf h s1 => Sys2Proof.Machine.execMtf h s1 s
  | .muls h d s1 s2 => Sys2Proof.Machine.execMuls h d s1 s2 s
  | .mulu h d s1 s2 => Sys2Proof.Machine.execMulu h d s1 s2 s
  | .macs h d s1 s2 => Sys2Proof.Machine.execMacs h d s1 s2 s
  | .macu h d s1 s2 => Sys2Proof.Machine.execMacu h d s1 s2 s
  | .msus h d s1 s2 => Sys2Proof.Machine.execMsus h d s1 s2 s
  | .mull h d s1 s2 => Sys2Proof.Machine.execMull h d s1 s2 s
  | .mfph h d s1 => Sys2Proof.Machine.execMfph h d s1 s
  | .mfpl h d s1 => Sys2Proof.Machine.execMfpl h d s1 s
  | .mtph h d s1 => Sys2Proof.Machine.execMtph h d s1 s
  | .mtpl h d s1 => Sys2Proof.Machine.execMtpl h d s1 s
  | .mfpx h d s1 n => Sys2Proof.Machine.execMfpx h d s1 n s
  | .mfpxr h d s1 n => Sys2Proof.Machine.execMfpxr h d s1 n s
  | .xmul h d s1 s2 => Sys2Proof.Machine.execXmul h d s1 s2 s
  | .xmult h d s1 s2 => Sys2Proof.Machine.execXmult h d s1 s2 s
  | .div h d s1 s2 => Sys2Proof.Machine.execDiv h d s1 s2 s
  | .divu h d s1 s2 => Sys2Proof.Machine.execDivu h d s1 s2 s
  | .rem h d s1 s2 => Sys2Proof.Machine.execRem h d s1 s2 s
  | .remu h d s1 s2 => Sys2Proof.Machine.execRemu h d s1 s2 s
  | .divq h d s1 s2 => Sys2Proof.Machine.execDivq h d s1 s2 s
  | .divt h d s1 s2 => Sys2Proof.Machine.execDivt h d s1 s2 s
  | .divut h d s1 s2 => Sys2Proof.Machine.execDivut h d s1 s2 s
  | .remt h d s1 s2 => Sys2Proof.Machine.execRemt h d s1 s2 s
  | .remut h d s1 s2 => Sys2Proof.Machine.execRemut h d s1 s2 s
  | .divqt h d s1 s2 => Sys2Proof.Machine.execDivqt h d s1 s2 s
  | .sqrtu h d s1 => Sys2Proof.Machine.execSqrtu h d s1 s
  | .sqrtq h d s1 => Sys2Proof.Machine.execSqrtq h d s1 s
  | .longOpComplete c idx => Sys2Proof.Machine.execLongOpComplete c idx s
  | .limm h slot own d mode v => Sys2Proof.Machine.execLimm h slot own d mode v s
  | .ldw h d s1 imm => Sys2Proof.Machine.execLdw h d s1 imm s
  | .ldh h d s1 woff k => Sys2Proof.Machine.execLdh h d s1 woff k s
  | .ldhs h d s1 woff k => Sys2Proof.Machine.execLdhs h d s1 woff k s
  | .ldq h d s1 woff k => Sys2Proof.Machine.execLdq h d s1 woff k s
  | .ldqs h d s1 woff k => Sys2Proof.Machine.execLdqs h d s1 woff k s
  | .ldb h d s1 woff k => Sys2Proof.Machine.execLdb h d s1 woff k s
  | .ldbs h d s1 woff k => Sys2Proof.Machine.execLdbs h d s1 woff k s
  | .stw h d s1 imm => Sys2Proof.Machine.execStw h d s1 imm s
  | .sth h d s1 woff k => Sys2Proof.Machine.execSth h d s1 woff k s
  | .stq h d s1 woff k => Sys2Proof.Machine.execStq h d s1 woff k s
  | .stb h d s1 woff k => Sys2Proof.Machine.execStb h d s1 woff k s
  | .ldwx h d s1 s2 sh => Sys2Proof.Machine.execLdwx h d s1 s2 sh s
  | .stwx h d s1 s2 sh => Sys2Proof.Machine.execStwx h d s1 s2 sh s
  | .bmov h d s1 s2 => Sys2Proof.Machine.execBmov h d s1 s2 s
  | .bmovd h d s1 s2 => Sys2Proof.Machine.execBmovd h d s1 s2 s
  | .bfill h d s1 s2 => Sys2Proof.Machine.execBfill h d s1 s2 s
  | .crcb h d s1 s2 => Sys2Proof.Machine.execCrcb h d s1 s2 s
  | .cmpb h d s1 s2 => Sys2Proof.Machine.execCmpb h d s1 s2 s
  | .blockWordStep x fl flD => Sys2Proof.Machine.execBlockWordStep x fl flD s
  | .dcinv h s1 => Sys2Proof.Machine.execDcinv h s1 s
  | .dcinva h => Sys2Proof.Machine.execDcinva h s
  | .loadReturn c idx fl => Sys2Proof.Machine.execLoadReturn c idx fl s
  | .storeDrain c fl => Sys2Proof.Machine.execStoreDrain c fl s
  | .storeAck c idx => Sys2Proof.Machine.execStoreAck c idx s
  | .fetchLineReturn x fl => Sys2Proof.Machine.execFetchLineReturn x fl s
  | .codePrefetch x => Sys2Proof.Machine.execCodePrefetch x s
  | .br h off => Sys2Proof.Machine.execBr h off s
  | .call h off => Sys2Proof.Machine.execCall h off s
  | .jr h s1 => Sys2Proof.Machine.execJr h s1 s
  | .callr h s1 => Sys2Proof.Machine.execCallr h s1 s
  | .ret h => Sys2Proof.Machine.execRet h s
  | .retx h => Sys2Proof.Machine.execRetx h s
  | .loop h level gc off => Sys2Proof.Machine.execLoop h level gc off s
  | .sysc h m => Sys2Proof.Machine.execSysc h m s
  | .mfs h d spr => Sys2Proof.Machine.execMfs h d spr s
  | .mts h s1 spr => Sys2Proof.Machine.execMts h s1 spr s
  | .ioIn h d s1 imm => Sys2Proof.Machine.execIoIn h d s1 imm s
  | .ioOut h d s1 o => Sys2Proof.Machine.execIoOut h d s1 o s
  | .ist h d s1 imm => Sys2Proof.Machine.execIst h d s1 imm s
  | .istWrite c => Sys2Proof.Machine.execIstWrite c s
  | .isync h => Sys2Proof.Machine.execIsync h s
  | .fence h mask => Sys2Proof.Machine.execFence h mask s
  | .tlbiPageS1 h s1 => Sys2Proof.Machine.execTlbiPageS1 h s1 s
  | .tlbiAllS1 h => Sys2Proof.Machine.execTlbiAllS1 h s
  | .tlbiPageS2 h s1 s2 => Sys2Proof.Machine.execTlbiPageS2 h s1 s2 s
  | .tlbiPartition h s2 => Sys2Proof.Machine.execTlbiPartition h s2 s
  | .tlbiAll h => Sys2Proof.Machine.execTlbiAll h s
  | .sev h s1 => Sys2Proof.Machine.execSev h s1 s
  | .wfe h => Sys2Proof.Machine.execWfe h s
  | .wfeWake c => Sys2Proof.Machine.execWfeWake c s
  | .waitc h s1 dom conf down => Sys2Proof.Machine.execWaitc h s1 dom conf down s
  | .brk h => Sys2Proof.Machine.execBrk h s
  | .reservedOp h slot => Sys2Proof.Machine.execReservedOp h slot s
  | .completionCause x => Sys2Proof.Machine.execCompletionCause x s
  | .eventEntry x => Sys2Proof.Machine.execEventEntry x s
  | .takeover x => Sys2Proof.Machine.execTakeover x s
  | .doorbell who mask => Sys2Proof.Machine.execDoorbell who mask s
  | .drop who => Sys2Proof.Machine.execDrop who s
  | .routeWrite who e val => Sys2Proof.Machine.execRouteWrite who e val s
  | .walkReadReturn x fl => Sys2Proof.Machine.execWalkReadReturn x fl s
  | .regionEnable who sl val => Sys2Proof.Machine.execRegionEnable who sl val s
  | .regionLock who sl val => Sys2Proof.Machine.execRegionLock who sl val s
  | .sluiceRuleWrite who sl reg val => Sys2Proof.Machine.execSluiceRuleWrite who sl reg val s
  | .drained sl => Sys2Proof.Machine.execDrained sl s
  | .ringTailWrite who p tx k tail => Sys2Proof.Machine.execRingTailWrite who p tx k tail s
  | .ringEnable who p tx k val => Sys2Proof.Machine.execRingEnable who p tx k val s
  | .descriptorRead p k desc buf => Sys2Proof.Machine.execDescriptorRead p k desc buf s
  | .frameSent p back => Sys2Proof.Machine.execFrameSent p back s
  | .rel who p k => Sys2Proof.Machine.execRel who p k s
  | .can who p k => Sys2Proof.Machine.execCan who p k s
  | .frameReceived p octets fcs back desc => Sys2Proof.Machine.execFrameReceived p octets fcs back desc s
  | .bucketRefill p => Sys2Proof.Machine.execBucketRefill p s
  | .linkChange p up anc => Sys2Proof.Machine.execLinkChange p up anc s
  | .txsaWrite who p val => Sys2Proof.Machine.execTxsaWrite who p val s
  | .ptpAddWrite who p val => Sys2Proof.Machine.execPtpAddWrite who p val s
  | .ptpStep who p val => Sys2Proof.Machine.execPtpStep who p val s
  | .lockTimeout p => Sys2Proof.Machine.execLockTimeout p s
  | .nreset => Sys2Proof.Machine.execNreset s
  | .nresetRelease strap => Sys2Proof.Machine.execNresetRelease strap s
  | .railRegulation strap => Sys2Proof.Machine.execRailRegulation strap s
  | .spllLock => Sys2Proof.Machine.execSpllLock s
  | .selfTest ok x => Sys2Proof.Machine.execSelfTest ok x s
  | .xspiInit errA errB fmhz dummy => Sys2Proof.Machine.execXspiInit errA errB fmhz dummy s
  | .slotChoice bad => Sys2Proof.Machine.execSlotChoice bad s
  | .bistAtStart cells furs drams => Sys2Proof.Machine.execBistAtStart cells furs drams s
  | .sectionLoad bad => Sys2Proof.Machine.execSectionLoad bad s
  | .recordsApply => Sys2Proof.Machine.execRecordsApply s
  | .journalReplay => Sys2Proof.Machine.execJournalReplay s
  | .bindingsApply => Sys2Proof.Machine.execBindingsApply s
  | .firstApplicationBundle => Sys2Proof.Machine.execFirstApplicationBundle s
  | .stage who trialn => Sys2Proof.Machine.execStage who trialn s
  | .stagingPhaseEnd bad n => Sys2Proof.Machine.execStagingPhaseEnd bad n s
  | .confirm who => Sys2Proof.Machine.execConfirm who s
  | .restart who => Sys2Proof.Machine.execRestart who s
  | .abort who => Sys2Proof.Machine.execAbort who s
  | .sessOpen who k => Sys2Proof.Machine.execSessOpen who k s
  | .chainCheckEnd => Sys2Proof.Machine.execChainCheckEnd s
  | .prove who k => Sys2Proof.Machine.execProve who k s
  | .closeSession who k => Sys2Proof.Machine.execCloseSession who k s
  | .challengeTimeout k => Sys2Proof.Machine.execChallengeTimeout k s
  | .sessionIdleEnd k => Sys2Proof.Machine.execSessionIdleEnd k s
  | .sessionExpiry k => Sys2Proof.Machine.execSessionExpiry k s
  | .idleLimitWrite who val => Sys2Proof.Machine.execIdleLimitWrite who val s
  | .hash fl => Sys2Proof.Machine.execHash fl s
  | .enc fl => Sys2Proof.Machine.execEnc fl s
  | .dec fl => Sys2Proof.Machine.execDec fl s
  | .cmac fl => Sys2Proof.Machine.execCmac fl s
  | .sign fl => Sys2Proof.Machine.execSign fl s
  | .verify fl => Sys2Proof.Machine.execVerify fl s
  | .decrypt fl => Sys2Proof.Machine.execDecrypt fl s
  | .random => Sys2Proof.Machine.execRandom s
  | .genaes => Sys2Proof.Machine.execGenaes s
  | .genrsa => Sys2Proof.Machine.execGenrsa s
  | .unwrap fl => Sys2Proof.Machine.execUnwrap fl s
  | .pubload fl => Sys2Proof.Machine.execPubload fl s
  | .pubread => Sys2Proof.Machine.execPubread s
  | .delete => Sys2Proof.Machine.execDelete s
  | .attest fl => Sys2Proof.Machine.execAttest fl s
  | .idcert => Sys2Proof.Machine.execIdcert s
  | .ckpt => Sys2Proof.Machine.execCkpt s
  | .reseal => Sys2Proof.Machine.execReseal s
  | .revoke fl => Sys2Proof.Machine.execRevoke fl s
  | .jobEnd => Sys2Proof.Machine.execJobEnd s
  | .checkpointSigned => Sys2Proof.Machine.execCheckpointSigned s
  | .auditExportWrite who val => Sys2Proof.Machine.execAuditExportWrite who val s
  | .timeFloorRefresh => Sys2Proof.Machine.execTimeFloorRefresh s
  | .tamperResponse q => Sys2Proof.Machine.execTamperResponse q s
  | .tamperClear who => Sys2Proof.Machine.execTamperClear who s
  | .extest => Sys2Proof.Machine.execExtest s
  | .idcode => Sys2Proof.Machine.execIdcode s
  | .samplePreload => Sys2Proof.Machine.execSamplePreload s
  | .bypass => Sys2Proof.Machine.execBypass s
  | .authChainWord w => Sys2Proof.Machine.execAuthChainWord w s
  | .authChainEnd => Sys2Proof.Machine.execAuthChainEnd s
  | .authSignature w => Sys2Proof.Machine.execAuthSignature w s
  | .authSubmit => Sys2Proof.Machine.execAuthSubmit s
  | .authExit => Sys2Proof.Machine.execAuthExit s
  | .authChallenge => Sys2Proof.Machine.execAuthChallenge s
  | .trst => Sys2Proof.Machine.execTrst s
  | .debugExit val => Sys2Proof.Machine.execDebugExit val s
  | .cellSelect c => Sys2Proof.Machine.execCellSelect c s
  | .debugHalt => Sys2Proof.Machine.execDebugHalt s
  | .debugResume => Sys2Proof.Machine.execDebugResume s
  | .debugStep => Sys2Proof.Machine.execDebugStep s
  | .reg wr idx val => Sys2Proof.Machine.execReg wr idx val s
  | .mem wr addr val fl => Sys2Proof.Machine.execMem wr addr val fl s
  | .io wr addr v => Sys2Proof.Machine.execIo wr addr v s
  | .isram wr idx val => Sys2Proof.Machine.execIsram wr idx val s
  | .junctionSensorRead idx temp => Sys2Proof.Machine.execJunctionSensorRead idx temp s
  | .authLockoutEnd => Sys2Proof.Machine.execAuthLockoutEnd s
  | .fuseProgramming hash => Sys2Proof.Machine.execFuseProgramming hash s

end Sys2Proof.Machine
end

