-- ==== Sys2Proof/Safety.lean ====
section
/-! DEFINITION. What claims about runs are stated in: a step that completes, the form that a machine's memories keep, when a cell
takes a bundle at once, when a register takes a write at once, and the machine after a bundle. -/

namespace Sys2Proof.Machine

open Sys2Proof

/-- The next step ends in a next state. -/
def Completes (s : State) : Prop := ∃ t, step s = .next t

/-- The memories are in canonical form: equal memories are equal data. -/
def State.Inv (s : State) : Prop := s.mem.wf = true

/-- A command leaves the queue, and keeps the memories in canonical form. -/
def State.Keeps (s t : State) : Prop := t.pending = s.pending ∧ (s.mem.wf = true → t.mem.wf = true)

/-! ### A cell that takes a bundle at once -/

/-- Nothing is under way in the cell: no bundle half taken in, no result or access on its way, no branch, trap, wait, walk or
loop, and its next bundles lie in its local instruction SRAM with no data translation. -/
def Cell.idle (x : Cell) : Bool :=
  decide (x.bundle = [] ∧ x.closed = false ∧ x.cal = .agree ∧ x.due = [] ∧ x.loads = [] ∧ x.stores = [] ∧ x.longs = []) &&
  decide (x.ists = [] ∧ x.held = [] ∧ x.shadow = [] ∧ x.delay = none ∧ x.resume = false ∧ x.blk = none ∧ x.wait = .none) &&
  decide (x.walk = none ∧ x.vec = none ∧ x.entry = none ∧ x.stall = false ∧ x.once = false ∧ x.loops = [] ∧ x.lbuf = none) &&
  decide (x.len = false ∧ x.s1On = false ∧ x.s2On = false ∧ x.pc + 8 < 0x8000)

/-- Cell `c`, a single or a group's lead, runs; nothing is under way in it, it has no TAPP copy, and no event is due. -/
def State.ready (s : State) (c : Nat) : Bool :=
  s.dev.alive && s.dev.running c && (s.dev.cell c).idle && !s.dev.txCopying c && decide (s.dev.pick c (s.dev.cell c).st = none)

/-- An op word that ends its bundle and on which the caliper agrees. -/
def endsBundle (h : OpHdr) : Prop := h.stop = true ∧ h.cal = .agree

/-- The op of `h` issues at once: its cell is ready, it ends its bundle, which it forms alone, and its predicate is true. -/
def State.takes (s : State) (h : OpHdr) : Prop :=
  s.ready h.cell.val = true ∧ endsBundle h ∧ (s.dev.cell h.cell.val).rf h.pred.val = true

/-- The machine after a bundle of `n` op words of cell `c`: `f` is the change that its op makes to the cell, `g` to the rest
of the device. The next bundle follows, and CLBUN counts. -/
def State.issuedOn (s : State) (c n : Nat) (f : Cell → Cell) (g : Dev → Dev) : State :=
  let x := s.dev.cell c
  let d := g s.dev
  s.onDev ((d.putCell c (f { x with pc := opAdd x.pc n, bun := x.bun + 1 })).wr (clBun c) (d.rd (clBun c) + 1))

/-- The same, for an op that changes its cell alone. -/
def State.issued (s : State) (c n : Nat) (f : Cell → Cell) : State := s.issuedOn c n f id

/-- The machine as cell `c` begins a block op or a wait: its bundle has issued, and is counted when it completes (R370). -/
def State.begun (s : State) (c : Nat) (f : Cell → Cell) : State :=
  let x := s.dev.cell c
  s.onDev (s.dev.putCell c (f { x with bun := x.bun + 1 }))

/-- The machine in which cell `c` alone has changed, by `f`. -/
def State.cellDoes (s : State) (c : Nat) (f : Cell → Cell) : State := s.onDev (s.dev.putCell c (f (s.dev.cell c)))

/-! ### A register that takes a write at once -/

/-- A write of `who` at the address `r` of a 36-bit register reaches it: the requester is there, the sluice permits the access, the
order code has the register, and no transaction claims any field of it (R2, R15, R182, R481). -/
def State.reaches (s : State) (who : Requester) (r : Nat) : Bool :=
  s.dev.alive && s.dev.mayAsk who && (s.dev.askIo (s.dev.ioReq who .write r)).1 && decide (s.dev.ioReg r = some r) &&
  decide (s.dev.claimedMask r = 0)

/-- The value that a write of `v` at `r` by `who` leaves in the register, special effects apart: each field by its access code, the
fields that name absent resources as they were (R3, R12). -/
def Dev.newAt (d : Dev) (who : Requester) (r : Nat) (v : Half) : Word :=
  d.keepAbsent r (d.rd (d.ioKey who r)) (d.merged who r (d.ioKey who r) (ofHalf v) 0xFFFFFFFFF).1

/-- The write of `v` would change a locked field (R16). -/
def Dev.lockHit (d : Dev) (who : Requester) (r : Nat) (v : Half) : Bool := (d.merged who r (d.ioKey who r) (ofHalf v) 0xFFFFFFFFF).2

/-- The machine after a write access at the register `r` that leaves the device as `d`: the block's level events that hold are
raised (R608), and `e` tells an I/O error. -/
def State.wrote (s : State) (r : Nat) (e : Bool) (d : Dev) : State := s.onDev { d.relevelAt r with resp := ⟨0, e⟩ }

/-- A read of `who` at the address `a` is answered by the register at `r` (R2, R10, R15, R481). -/
def State.readable (s : State) (who : Requester) (a r : Nat) : Bool :=
  s.dev.alive && s.dev.mayAsk who && (s.dev.askIo (s.dev.ioReq who .read a)).1 && decide (s.dev.ioReg a = some r)

/-- The machine after a read access that answers `v` and leaves the device as `d`. -/
def State.didRead (s : State) (v : Half) (d : Dev) : State := s.onDev { d with resp := ⟨v, false⟩ }

end Sys2Proof.Machine
end

