-- ==== Sys2Proof/Certificates/Slice0/Obligations.lean ====
section
/-! DEFINITION. The statements about the model, for the provers: one `def Obligations.<Name> : Prop` each, in the order of OBLIGATIONS.json. The
rules that a docstring names are those of spec/; what rests on a choice of the model says so and names its log entry. -/

open Sys2Proof Sys2Proof.Machine

/-- A step takes the command at the front of the queue and is that command's effect on the machine with the queue's rest; on an empty queue the block
idles (log entry 1). -/
def Obligations.StepTakesTheFrontCommand : Prop :=
  (∀ (i : Instr) (s : State), step { s with pending := i :: s.pending } = exec i s) ∧
  (∀ (i : Instr) (l : List Instr) (s : State), s.pending = i :: l → step s = exec i { s with pending := l }) ∧
  (∀ s : State, s.pending = [] → step s = .next s)

/-- From every machine whose memories are in canonical form, a step ends in a next state whose memories are too, with the queue's first command gone.
-/
def Obligations.EveryStepKeepsTheMemories : Prop :=
  ∀ s : State, s.Inv → ∃ t, step s = .next t ∧ t.Inv ∧ t.pending = s.pending.tail

/-- The machine after reset: no command waits, the memories are in canonical form, no cell runs, every transaction number is FREE, every domain, timer
and field port is off, every cell is UNUSED, and the registers named hold the values of their Reset columns. -/
def Obligations.ResetLeavesTheBlockQuiet : Prop :=
  let d := State.reset.dev
  State.reset.pending = [] ∧ State.reset.Inv ∧ (∀ c < 64, d.running c = false ∧ d.role c = 3) ∧ (∀ n < 32, d.txState n = 0) ∧
  (∀ n < 32, d.fg (adCtl n) AdCtl.EN = 0 ∧ d.fg (adCtl n) AdCtl.STALLT = 100 ∧ d.fg (adInc n) AdInc.INC = 0x1000000 ∧ d.fg (adChk n) AdChk.LOSSN = 64) ∧
  (∀ n < 64, d.fg (tmCtl n) TmCtl.RUN = 0 ∧ d.fg (tmPin n) TmPin.TERM = 3) ∧ (∀ p < 32, d.fg (fpStat p) FpStat.STATE = 0 ∧ d.fg (fpCfg p) FpCfg.THR = 0x32 ∧ d.fg (fpFlt p) FpFlt.RTN = 3) ∧
  (∀ n < 16, d.fg (chStat n) ChStat.STATE = 7) ∧ d.fg drWeir DrWeir.WARN = 0x57 ∧ d.fg drBank DrBank.EMAX = 0x32 ∧ d.fg drCostC DrCostC.ESYS = 10000 ∧ d.fg fcStat FcStat.NFLT = 1 ∧
  d.fg fcStat FcStat.FSTATE = 0 ∧ (∀ c < 64, d.rd (clBun c) = 0 ∧ d.fg (clCfg c) ClCfg.DCEN = 1) ∧ (∀ s < 99, d.fg (slIdx s) SlIdx.DRAINED = 1) ∧ d.fg btUadr BtUadr.ADR = 0x100000000

/-- R12, R16, R608: a write that reaches a 36-bit register has the register's own effect on the value that the access codes give, and completes with
an error where the register refuses it or a locked field would change; a register with no effect of its own takes the value. -/
def Obligations.RegisterWritesLand : Prop := ∀ (s : State) (who : Requester) (a : IoAddr) (v : Half), s.reaches who a.toNat = true →
  (regDesc a.toNat).wide = false →
  let x := s.regWrite who a.toNat (s.dev.ioKey who a.toNat) (s.dev.newAt who a.toNat v) (ofHalf v &&& 0xFFFFFFFFF)
  exec (.registerWrite who a v) s = .next (x.2.wrote a.toNat (x.1 || s.dev.lockHit who a.toNat v) x.2.dev) ∧
  (∀ n : Fin 32, a.toNat = fpFlt n.val →
    exec (.registerWrite who a v) s =
      .next (s.wrote a.toNat (s.dev.lockHit who a.toNat v) (s.dev.wr a.toNat (s.dev.newAt who a.toNat v)))) ∧
  (∀ n : Fin 64, a.toNat = tmPin n.val →
    exec (.registerWrite who a v) s =
      .next (s.wrote a.toNat (s.dev.lockHit who a.toNat v) (s.dev.wr a.toNat (s.dev.newAt who a.toNat v))))

/-- R10, R13, R97: the low half of a 72-bit register is read with its high half latched into the requester's HILAT, a high half is answered from a
matching HILAT or from the register, and a read clears the read-to-clear fields; a measured quantity is sampled as the read comes. R98: a high-half
write goes into the requester's holding register in the block and changes nothing else, but for a cell-local register that the level may not write; a
low-half write commits both halves where the held half matches, and the low half alone where it does not. -/
def Obligations.WideRegistersGoByHalves : Prop :=
  (∀ (s : State) (who : Requester) (a : IoAddr) (r : Nat), s.readable who a.toNat r = true →
   let d := s.dev.ioSample r
   let k := d.ioKey who r
   let w := d.ioShown r k
   let h := d.hilatOf who
   ((regDesc r).wide = true → a.toNat = r →
     exec (.lowHalfRead who a) s = .next (s.didRead (loHalf w) ((d.ioTake r k).putHilat who ⟨true, r + 1, hiHalf w⟩))) ∧
   ((regDesc r).wide = true → a.toNat ≠ r → r ≠ 2 →
     exec (.highHalfRead who a) s = .next (
       if h.v = true ∧ h.addr = a.toNat then s.didRead h.data (d.putHilat who { h with v := false }) else s.didRead (hiHalf w) d)) ∧
   ((regDesc r).wide = false →
     exec (.rcRead who a) s = .next (s.didRead (loHalf w) (d.ioTake r k)) ∧
     (r ≠ 6 → r ≠ btUstat → (∀ p : Fin 32, r ≠ fpData p.val) →
       d.ioTake r k = d.wr k (d.rd k &&& ~~~ ((regDesc r).mask (fun c => c == .rc)))))) ∧
  (∀ (s : State) (who : Requester) (a : IoAddr) (r : Nat) (v : Half),
   s.dev.alive = true → s.dev.mayAsk who = true → (s.dev.askIo (s.dev.ioReq who .write a.toNat)).1 = true →
   s.dev.ioReg a.toNat = some r → (regDesc r).wide = true →
   let k := s.dev.holdOf who r
   let barred := r < 0x10000 ∧ s.dev.ioPl who = 0
   let h := Tab.get {} s.dev.holds k
   let done (x : Bool × State) : State := { x.2 with dev := { x.2.dev with resp := ⟨0, x.1⟩ } }
   (a.toNat ≠ r → barred → exec (.highHalfWrite who a v) s = .next (s.onDev { s.dev with resp := ⟨0, true⟩ })) ∧
   (a.toNat ≠ r → ¬ barred → exec (.highHalfWrite who a v) s =
     .next (s.onDev { s.dev with holds := Tab.set {} s.dev.holds k ⟨true, r, v⟩, resp := ⟨0, false⟩ })) ∧
   (a.toNat = r → h.v = true → h.addr = r → exec (.lowHalfWrite who a v) s =
     .next (done ((s.onDev { s.dev with holds := Tab.set {} s.dev.holds k {} }).ioCommit who r (joinHalves h.data v) (BitVec.allOnes 72)))) ∧
   (a.toNat = r → (h.v = false ∨ h.addr ≠ r) → exec (.lowHalfWrite who a v) s = .next (done (s.ioCommit who r (ofHalf v) 0xFFFFFFFFF))))

/-- R12, R16, R42: each field of a register whose fields are apart takes from a write what its access code gives: a writable field the written bits, a
field of a locked register and a read-only field what it held, a W1C field only cleared bits. -/
def Obligations.FieldsFollowTheirAccessCodes : Prop := ∀ (d : Dev) (who : Requester) (r : Nat) (v : Half) (f : Fld),
  who ≠ .loader → f ∈ (regDesc r).fields → f.span.lo ≤ f.span.hi → f.span.hi < 36 →
  (∀ g ∈ (regDesc r).fields, g ≠ f → g.span.lo ≤ g.span.hi ∧ g.span.hi < 72 ∧ (g.span.hi < f.span.lo ∨ f.span.hi < g.span.lo)) →
  (∀ w, d.absentFields r w = []) →
  let old := f.span.get (d.rd (d.ioKey who r))
  let new := f.span.get (d.newAt who r v)
  let put := f.span.get (ofHalf v)
  (f.acc = .rw ∨ f.acc = .tx → new = put) ∧
  (f.acc = .rwl → new = if d.regLocked r then old else put) ∧
  (f.acc = .rwl → d.regLocked r = true → old ≠ put → d.lockHit who r v = true) ∧
  (f.acc = .ro ∨ f.acc = .rc ∨ f.acc = .wo → new = old) ∧
  (f.acc = .w1c → ∀ j, new.testBit j = (old.testBit j && !put.testBit j))

/-- R255, R257: the clock commands make their fault sources active. R62, R24, R104: a port tick runs the pin actions of the last tick's timer events,
the due transactions' writes, the timers that have a unit tick, the PTP clocks, every domain, every channel and every port, and the next control block
copy, in this order, and the tick counter advances. -/
def Obligations.ClockFaultsAssertAndTicksRun : Prop :=
  (∀ s : State, s.dev.alive = true →
   (∀ (k : Fin 6) (u : Fin 16), (k.val < 4 → u.val = 0) → (k.val = 4 → s.dev.furHere u.val = true) → (k.val = 5 → s.dev.ethHere u.val = true) →
     exec (.clockFrequencyFault k u) s =
       .next (s.onDev (({ s.dev with fc := { s.dev.fc with spll := s.dev.fc.spll || k.val == 1 } } : Dev).raiseSrc (152 + k.val) u.val))) ∧
   (∀ (k : Fin 5) (u : Fin 16), (k.val < 3 → u.val = 0) → (k.val = 3 → s.dev.furHere u.val = true) → (k.val = 4 → s.dev.ethHere u.val = true) →
     exec (.pllLockLoss k u) s =
       .next (s.onDev (({ s.dev with fc := { s.dev.fc with spll := s.dev.fc.spll || k.val == 0 } } : Dev).raiseSrc (153 + k.val) u.val))) ∧
   exec .crystalLoss s = .next (s.onDev (({ s.dev with rider := { s.dev.rider with xtal := true } } : Dev).raiseSrc 152 0))) ∧
  (∀ (s : State) (ts : List (Fin 64)) (a b : Nat), s.dev.alive = true →
   let run (l : List Nat) : Dev :=
     let d0 := s.dev.liveTimers.foldl (fun d n => d.pinAction n) s.dev
     let d1 := l.foldl (fun d n => (d.unitTick n).timerZero n) d0.applyTick
     let d2 := ((d1.ptpTicks 0 a).ptpTicks 1 b).ptpFollow
     let d3 := d2.endStalled d2.tickDomains
     let d4 := (d3.chFlow.portsTickEnd.chInterlocks.applyEnd).endTimers.chTickEnd
     { d4.controlStep with tick := d4.tick + 1 }
   exec (.domainPortTick a b) s = .next (s.onDev (run [])) ∧ exec (.applyPortTick ts a b) s = .next (s.onDev (run (ts.map Fin.val))))

/-- R44-R50, R53, R62, R116: what reaches an angle domain from its terminals, and its faults. `n` is an enabled domain with its registers and its
state `w`. -/
def Obligations.DomainsTakeEdgesAndFaults : Prop := ∀ s : State, s.dev.alive = true →
  (∀ (p : Fin 32) (t : Fin 3) (l : Bool) (sub : Fin 5), s.dev.portHere p.val = true →
    s.dev.levelAt p.val t.val ≠ l →
    let acc := 5 * s.dev.tick + 1 + sub.val
    let d0 := s.dev.putPort p.val { s.dev.port p.val with back := (s.dev.port p.val).back.filter (fun b => decide (b.1 ≠ t.val)) }
    let d := d0.fp (fpIn p.val) FpIn.LVL (setBit (s.dev.fg (fpIn p.val) FpIn.LVL) t.val l)
    exec (.conditionedLevelChange p t l sub) s =
      .next (s.onDev { d with edges := d.edges ++ [⟨p.val, t.val, l, acc - s.dev.fg (fpCfg p.val) FpCfg.FILT, acc⟩] })) ∧
  (∀ n : Fin 32, let w := s.dev.loadDom n.val
    (w.en = true → w.type = 1 → w.lossn ≤ w.st.run → w.frozen = false →
      let d := ((s.dev.storeDom n.val ((((w.setStat (if w.st.lastCh = 0 then AdStat.CHLB else AdStat.CHLA) 1).setStat AdStat.STALL 1).cause
        causeSTALL).cause causeCHL)).relevel (32 + n.val)).raiseSrc (64 + n.val) n.val
      exec (.channelLoss n) s = .next (s.onDev ((d.channelsUnder n.val).foldl (fun d k => d.chRetire k none) d))) ∧
    (w.en = true → w.type = 1 → AdChk.ERRLIM.get w.chk < AdErr.WERR.get w.err → (s.dev.srcLevel (96 + n.val)).testBit n.val = false →
      let d := ((s.dev.storeDom n.val (w.cause causeINTEG)).relevel (32 + n.val)).raiseSrc (96 + n.val) n.val
      exec (.integrityFault n) s = .next (s.onDev ((d.channelsUnder n.val).foldl (fun d k => d.chSafe k false) d))) ∧
    (w.window ≤ w.st.wEdges →
      exec (.errorWindowEnd n) s =
        .next (s.onDev (s.dev.storeDom n.val { w with err := AdErr.WERR.put w.err 0, st := { w.st with wEdges := 0 } }))) ∧
    (w.en = true → 1 ≤ w.type → w.type ≤ 4 → w.stallTicks ≤ s.dev.now - w.st.tLast → w.stalled = false →
      let v := ((w.setStat AdStat.STALL 1).setStat AdStat.RATEV 0).cause causeSTALL
      let d := s.dev.storeDom n.val { v with rate := 0, st := { v.st with ring := [] } }
      exec (.stall n) s = .next (s.onDev ((((List.range 8).foldl (fun d k => d.earlyCheck n.val k) d).relevel (32 + n.val)).autoEnd n.val))))

/-- R56, R62, R73, R81: the writes that enable, disable and command a domain. -/
def Obligations.DomainWritesAct : Prop := ∀ (s : State) (who : Requester) (n : Fin 32) (val : Half),
  (s.reaches who (adCtl n.val) = true →
    let r := adCtl n.val
    (s.dev.ff r AdCtl.EN = false → ¬(s.dev.fg (adSrc n.val) AdSrc.TYPE = 8 ∧ s.dev.fg (adSrc (s.dev.fg (adSrc n.val) AdSrc.DSRC)) AdSrc.TYPE = 8) →
      exec (.domainEnable who n val) s =
        .next (s.wrote r false ((s.dev.wr r (AdCtl.EN.put (s.dev.newAt who r (withField AdCtl.EN 1 val)) 0)).enableDomain n.val))) ∧
    (s.dev.ff r AdCtl.EN = true →
      exec (.domainDisable who n val) s =
        .next (s.wrote r false ((s.dev.wr r (AdCtl.EN.put (s.dev.newAt who r (withField AdCtl.EN 0 val)) 1)).disableDomain n.val)))) ∧
  (s.reaches who (adCmd n.val) = true → s.dev.ff (adCtl n.val) AdCtl.EN = true →
    exec (.zero who n) s = .next (s.wrote (adCmd n.val) false (s.dev.putDom n.val { s.dev.dom n.val with zero := true })) ∧
    exec (.clrrev who n) s = .next (s.wrote (adCmd n.val) false (s.dev.putDom n.val { s.dev.dom n.val with clrrev := true })) ∧
    exec (.snap who n) s = .next (s.wrote (adCmd n.val) false (s.dev.putDom n.val { s.dev.dom n.val with snap := true })))

/-- R57, R58, R64, R67, R70, R609: the mains PLL, the index plate's writes and actions, and the end of a WAITC. In lock the value stands within half a
degree of the multiple of 2^48 that the crossing starts, and it never moves back; where within that bound it stands is a free value (log entry 26). -/
def Obligations.MainsSlotsAndWaits : Prop := ∀ s : State, s.dev.alive = true →
  (∀ (n : Fin 32) (ph : Fin 4) (good : Bool), let w := s.dev.loadDom n.val
    w.en = true → w.type = 5 →
    let step := (Config.freeWord s.dev.fresh).toNat % 2 ^ 32
    (AdSrc.MPH.get w.src = ph.val → w.st.acq = true →
      let v := BitVec.ofNat 72 ((w.live.toNat + 2 ^ 48 - 1) / 2 ^ 48 * 2 ^ 48)
      let u0 := if v = w.live then w else w.cause causeSTEP
      let u1 := if v.toNat < w.live.toNat then u0.cause causeWRAP else u0
      let u := (u1.setStat AdStat.STALL 0).setStat AdStat.HOLD 0
      exec (.mainsZeroCrossing n ⟨ph, good⟩) s = .next (s.onDev
        (((s.dev.storeDom n.val { u with live := v, conf := v, st := { u.st with
          acq := false, good := 0, mcyc := v, hold := 0, mstep := step, crossAt := s.dev.tick, track := true } }).next.next).relevel (32 + n.val)))) ∧
    (AdSrc.MPH.get w.src = ph.val → w.st.acq = false →
      let u := w.follow good (Config.freeWord (s.dev.fresh + 1)).toNat
      exec (.mainsZeroCrossing n ⟨ph, good⟩) s = .next (s.onDev
        (((s.dev.storeDom n.val { u with st := { u.st with mstep := step, crossAt := s.dev.tick, track := true } }).next.next).relevel (32 + n.val))) ∧
      u.conf = u.live ∧ 0 ≤ (u.live - w.live).toInt ∧
      (w.locked = true → u.st.mcyc = w.st.mcyc + BitVec.ofNat 72 (2 ^ 48) ∧ (u.live = w.live ∨ (u.live - u.st.mcyc).toInt.natAbs ≤ 2 ^ 48 / 720))) ∧
    (8 ≤ w.st.good → w.st.acq = false →
      exec (.mainsLock n) s = .next (s.onDev ((s.dev.storeDom n.val ((w.setLock true).setStat AdStat.HOLD 0)).relevel (32 + n.val)))) ∧
    (∀ why : Fin 3, w.locked = true → (why.val = 0 → w.st.crossAt + 4000000 ≤ s.dev.tick) →
      (why.val = 1 → w.st.mstep * 100000000 < 45 * 2 ^ 48 ∨ 65 * 2 ^ 48 < w.st.mstep * 100000000) →
      let u := (w.setLock false).setStat AdStat.HOLD 1
      exec (.mainsLockLoss ⟨n, why⟩) s =
        .next (s.onDev ((s.dev.storeDom n.val { u with st := { u.st with good := 0, track := false, hold := 0 } }).relevel (32 + n.val)))) ∧
    (w.holding = true → w.st.acq = false → 8 * 2 ^ 48 ≤ w.st.hold →
      let u := (w.setStat AdStat.STALL 1).cause causeSTALL
      let d := (s.dev.storeDom n.val { u with st := { u.st with acq := true } }).relevel (32 + n.val)
      exec (.holdEnd n) s = .next (s.onDev (s.dev.endStalled d)))) ∧
  (∀ (n : Fin 32) (k : Fin 8), let x := s.dev.slot n.val k.val
    (let vs := x.wVal.filter (fun w => decide (w.left ≤ 1))
      let cs := x.wCtl.filter (fun w => decide (w.left ≤ 1))
      let val := (vs.getLast?.map CmpWrite.val).getD x.val
      let ctl := (cs.getLast?.map CmpWrite.val).getD x.ctl
      let ld := x.load || decide (AdSlotCtl.ARM.get ctl ≠ 0 ∧ AdSlotCtl.ARM.get x.ctl = 0)
      let d := s.dev.putSlot n.val k.val { x with
        val := val, ctl := ctl, wVal := x.wVal.filter (fun w => decide (1 < w.left)), wCtl := x.wCtl.filter (fun w => decide (1 < w.left)),
        ctlAt := if cs = [] then x.ctlAt else some s.dev.tick, load := ld, watch := none }
      (vs ≠ [] ∨ cs ≠ []) →
      exec (.slotWriteArrival n k) s = .next (s.onDev
        (if AdSlotCtl.ARM.get ctl ≠ 0 ∧ nearTo (max 1 ((s.dev.rd (adRate n.val)).toInt.natAbs / 100000000)) x.prev val
          then d.latch (adSlst n.val) AdSlst.NEAR k.val else d))) ∧
    (∀ t, x.due = some t → s.dev.tick ≠ t →
      let d := s.dev.putSlot n.val k.val { x with due := none }
      let lvl (o : LvlOp) : Dev := d.lvlAct (AdSlotCtl.TGT.get x.act) (100 + 8 * n.val + k.val) o
      let term := AdSlotCtl.TERM.get x.act
      exec (.slotAction n k) s = .next (s.onDev (match AdSlotCtl.ACT.get x.act with
        | 1 => lvl (.set term) | 2 => lvl (.clear term) | 3 => lvl (.toggle term)
        | 4 => d.txTrigger (AdSlotCtl.TGT.get x.act % 32) | _ => d)))) ∧
  (∀ (c : Fin 64) b len dom conf down lend v, let x := s.dev.cell c.val
    x.wait = .waitc b len dom conf down lend v → s.dev.running c.val = true → reached down (s.dev.waitReading dom conf) v = true →
    x.blk = none → x.closed = false →
    exec (.waitcComplete c) s = .next (s.onDev
      ((s.dev.putCell c.val (({ x with wait := .none } : Cell).advance b len none lend)).wr (clBun c.val) (s.dev.rd (clBun c.val) + 1))))

/-- R86, R87, R90, R92-R94: a unit tick counts a timer down by one, or loads it: in the periodic and one-shot modes, where a zero RELOAD loads 1, and
where RELOADNOW or a reset trigger asked for the load. The compare writes that arrive with the tick come first; an enabled compare that the new count
has just reached then latches its match. -/
def Obligations.UnitTicksCountAndMatch : Prop := ∀ (s : State) (n : Fin 64), s.dev.alive = true →
  let d := s.dev.timerWrites n.val
  let x := d.tmr n.val
  let c := s.dev.rd (tmCnt n.val)
  let mode := s.dev.fg (tmCtl n.val) TmCtl.MODE
  let r := if x.rld = 0 ∧ mode ≤ 1 then 1 else x.rld
  let new := if x.ld = true ∨ (c = 0 ∧ mode ≤ 1) then r else c - 1
  let live := fun (v : Word) (ws : List CmpWrite) => ((ws.filter fun w => decide (w.left ≤ 1)).getLast?.map CmpWrite.val).getD v
  x.done = false → x.ld = true ∨ (d.counting n.val = true ∧ d.pscExpired n.val = true) →
  ∃ t, exec (.timerUnitTick n) s = .next t ∧ t.pending = s.pending ∧ t.mem = s.mem ∧ t.dev.rd (tmCnt n.val) = new ∧
    (t.dev.tmr n.val).cmp0 = live x.cmp0 x.wr0 ∧ (t.dev.tmr n.val).cmp1 = live x.cmp1 x.wr1 ∧
    t.dev.ff (tmStat n.val) TmStat.M0 = (s.dev.ff (tmStat n.val) TmStat.M0 ||
      (s.dev.ff (tmCtl n.val) TmCtl.CE0 && decide (live x.cmp0 x.wr0 = new))) ∧
    t.dev.ff (tmStat n.val) TmStat.M1 = (s.dev.ff (tmStat n.val) TmStat.M1 ||
      (s.dev.ff (tmCtl n.val) TmCtl.CE1 && decide (live x.cmp1 x.wr1 = new))) ∧
    (t.dev.tmr n.val).zDue = (if x.ld then x.zDue else decide (c = 1)) ∧ (t.dev.tmr n.val).done = true ∧ (t.dev.tmr n.val).ld = false ∧
    ∀ k, k ≠ tmCnt n.val → k ≠ tmStat n.val → k < 0x010400 ∨ 0x010600 ≤ k → t.dev.rd k = s.dev.rd k

/-- R87, R89, R90, R94, R96, R101, R104: a zero count, a write of RELOAD or of a compare that arrives, the triggers, and the pin actions. R88, R90,
R91, R103: the writes that start a timer, several timers, or load one. -/
def Obligations.TimersFollowTheirEventsAndWrites : Prop :=
  (∀ (s : State) (n : Fin 64), s.dev.alive = true →
   let x := s.dev.tmr n.val
   let d := s.dev
   (x.zDue = true →
     let e := (d.putTmr n.val { x with zDue := false, zAt := d.tick + 1 }).fp (tmStat n.val) TmStat.Z 1
     exec (.timerZero n) s = .next (s.onDev
       ((if d.fg (tmCtl n.val) TmCtl.MODE = 1 ∧ d.tmRun n.val = true
         then ((e.fp (tmCtl n.val) TmCtl.RUN 0).fp (tmStat n.val) TmStat.WIN 0).syncCntg n.val else e).relevel (64 + n.val)))) ∧
   (let ws := x.wr0.filter fun w => decide (w.left ≤ 1)
     let take := fun (d : Dev) (w : CmpWrite) =>
       let e := d.putTmr n.val { d.tmr n.val with cmp0 := w.val }
       if nearTo 1 (d.rd (tmCnt n.val)) w.val && d.ff (tmCtl n.val) TmCtl.CE0 then e.fp (tmStat n.val) TmStat.NEAR0 1 else e
     let e := ws.foldl take d
     ws ≠ [] → exec (.compareWriteArrival n 0) s = .next (s.onDev
       ((e.putTmr n.val { e.tmr n.val with wr0 := x.wr0.filter fun w => decide (1 < w.left) }).relevel (64 + n.val)))) ∧
   (let ws := x.wr1.filter fun w => decide (w.left ≤ 1)
     let take := fun (d : Dev) (w : CmpWrite) =>
       let e := d.putTmr n.val { d.tmr n.val with cmp1 := w.val }
       if nearTo 1 (d.rd (tmCnt n.val)) w.val && d.ff (tmCtl n.val) TmCtl.CE1 then e.fp (tmStat n.val) TmStat.NEAR1 1 else e
     let e := ws.foldl take d
     ws ≠ [] → exec (.compareWriteArrival n 1) s = .next (s.onDev
       ((e.putTmr n.val { e.tmr n.val with wr1 := x.wr1.filter fun w => decide (1 < w.left) }).relevel (64 + n.val)))) ∧
   (∀ v, x.rldW = some v → exec (.reloadWrite n) s = .next (s.onDev (d.putTmr n.val { x with rld := v, rldW := none }))) ∧
   (d.trigFired (d.trig n.val TmTrg.STRT) = true → x.run0 = false → d.tmRun n.val = false →
     exec (.strtTrigger n) s = .next (s.onDev (((d.fp (tmCtl n.val) TmCtl.RUN 1).restartPsc n.val).syncCntg n.val))) ∧
   (d.trigFired (d.trig n.val TmTrg.RST) = true →
     let e := d.restartPsc n.val
     exec (.rstTrigger n) s = .next (s.onDev (e.putTmr n.val { e.tmr n.val with ld := true }))) ∧
   exec (.gateTrigger n) s = .next (s.onDev ((d.fb (tmStat n.val) TmStat.GATE (d.gateLevel n.val)).syncCntg n.val)) ∧
   (d.trigFired (d.trig n.val TmTrg.CLK) = true → exec (.clkTrigger n) s = .next (s.onDev (d.putTmr n.val { x with clk := true }))) ∧
   (let e := x.pin.foldl (fun d o => d.lvlAct o.1 (2 + n.val) o.2) d
    exec (.pinAction n) s = .next (s.onDev (e.putTmr n.val { e.tmr n.val with pin := [] })))) ∧
  (∀ (s : State) (who : Requester) (n : Fin 64),
   (∀ val, s.reaches who (tmCtl n.val) = true →
     let r := tmCtl n.val
     let v := s.dev.newAt who r (withField TmCtl.RUN 1 val)
     let w := if TmCtl.MODE.get v = 3 then TmCtl.MODE.put v (s.dev.fg r TmCtl.MODE) else v
     let d := s.dev.wr r (TmCtl.RUN.put w (b2n (s.dev.tmRun n.val)))
     (s.dev.tmRun n.val = true → TmCtl.MODE.get w = s.dev.fg r TmCtl.MODE) →
     exec (.run who n val) s = .next (s.wrote r false
       ((if TmCtl.PSC.get w ≠ s.dev.fg r TmCtl.PSC ∧ s.dev.counting n.val = false then d.restartPsc n.val else d).setRun n.val))) ∧
   (∀ (k : Fin 2) (mask : BitVec 32), s.reaches who (tmGo k.val) = true →
     let ts := (bitsOf mask.toNat 32).map (fun i => 32 * k.val + i)
     (∀ t ∈ ts, s.dev.runClaimed t = false) →
     exec (.tmgo who k mask) s = .next (s.wrote (tmGo k.val) false (ts.foldl (fun d t => d.setRun t) s.dev))) ∧
   (s.reaches who (tmCmd n.val) = true →
     let e := s.dev.restartPsc n.val
     exec (.reloadnow who n) s = .next (s.wrote (tmCmd n.val) false (e.putTmr n.val { e.tmr n.val with ld := true }))))

/-- R125, R128, R131, R133: EN and RESTORE latch the limits, run the settings checks and enter ACTIVE, or start the network check of an Ex port, a
RESTORE clearing the retry count as it enters ACTIVE; DIS and ISOL leave ACTIVE; the network check and the delay of an automatic return end. -/
def Obligations.PortCommandsChangeItsState : Prop := ∀ (s : State) (who : Requester) (p : Fin 32),
  let r := fpCmd p.val
  let chk := s.dev.ff (fpStat p.val) FpStat.CHK
  let lim := s.dev.latchLimits p.val
  let x := lim.port p.val
  let ref := lim.enableRef p.val x.uo x.po
  let base (d : Dev) : Dev := { d with rider := { d.rider with rail := false } }
  let go (d : Dev) (k : Nat) : Dev :=
    if d.ff (fpCfg p.val) FpCfg.EX
      then ((d.fp (fpStat p.val) FpStat.CHK 1).putPort p.val { d.port p.val with chk := k }).syncRail
      else ((if k = 2 then d.fp (fpStat p.val) FpStat.RCNT 0 else d).enterActive p.val).dropPermanent p.val
  (s.reaches who r = true →
    (s.dev.fpState p.val = 0 → chk = false →
      exec (.en who p) s = .next (if ref ≠ 0 then s.wrote r true (s.dev.fp (fpStat p.val) FpStat.REF ref) else s.wrote r false (go (base lim) 1))) ∧
    (s.dev.fpState p.val = 2 ∨ s.dev.fpState p.val = 3 → chk = false →
      exec (.restore who p) s = .next (if ref ≠ 0 then s.wrote r true (s.dev.fp (fpStat p.val) FpStat.REF ref)
        else s.wrote r false (go (base lim) 2))) ∧
    exec (.dis who p) s = .next (s.wrote r false (((s.dev.leaveActive p.val 0).putPort p.val
      { (s.dev.leaveActive p.val 0).port p.val with retry := none }).dropPermanent p.val)) ∧
    (s.dev.fpState p.val = 1 → chk = false → exec (.isol who p) s = .next (s.wrote r false (s.dev.leaveActive p.val 2)))) ∧
  (s.dev.alive = true →
    (chk = true → ∀ ohms,
      let k := (s.dev.port p.val).chk
      let w := s.dev.fg (fpWire p.val) FpWire.RS
      let e := (s.dev.fp (fpStat p.val) FpStat.CHK 0).putPort p.val { s.dev.port p.val with chk := 0 }
      exec (.networkCheckEnd p ohms) s = .next (s.onDev (
        if 9 * w ≤ 10 * ohms ∧ 10 * ohms ≤ 11 * w then (if k = 3 then (e.safeLevels p.val).enterActive p.val
          else ((if k = 2 then e.fp (fpStat p.val) FpStat.RCNT 0 else e).enterActive p.val).dropPermanent p.val)
        else if k = 3 then (e.fp (fpStat p.val) FpStat.REF 4).permanentFault p.val else (e.fp (fpStat p.val) FpStat.REF 4).syncRail))) ∧
    (∀ t, (s.dev.port p.val).retry = some t → s.dev.fpState p.val = 2 → t ≤ s.dev.tick → chk = false →
      let y := s.dev.port p.val
      let e := s.dev.putPort p.val { y with retry := none }
      let ref := e.enableRef p.val y.uo y.po
      exec (.retryReturn p) s = .next (s.onDev (
        if ref ≠ 0 then (e.fp (fpStat p.val) FpStat.REF ref).permanentFault p.val
        else if e.ff (fpCfg p.val) FpCfg.EX then (e.fp (fpStat p.val) FpStat.CHK 1).putPort p.val { e.port p.val with chk := 3 }
        else (e.safeLevels p.val).enterActive p.val))))

/-- R121, R137, R152: a port that leaves ACTIVE drives nothing at once, its readings are no longer valid, and its sequencer halts, at the end of the
present instruction where it waits. -/
def Obligations.LeavingActiveFloatsThePort : Prop := ∀ (d : Dev) (p : Fin 32) (k : Fin 4), k.val ≠ 1 →
  let t := d.leaveActive p.val k.val
  t.fpState p.val = k.val ∧ t.driven p.val = 0 ∧ t.loopOut p.val = 0 ∧ t.ff (fpIn p.val) FpIn.RV = false ∧ (t.port p.val).drv = 0 ∧
  (d.fpState p.val = 1 → (d.port p.val).wait = .none → t.ff (fpSeqs p.val) FpSeqs.HLT = true) ∧
  (d.fpState p.val = 1 → (d.port p.val).wait ≠ .none → d.ff (fpSeqs p.val) FpSeqs.HLT = false → (t.port p.val).stop = true)

/-- R119, R122, R123, R129, R132, R133, R153: the field faults of an ACTIVE port isolate it for an automatic return or make it FAILED; charge windows,
hit phases and measurements end. R124, R160: the UART's FIFOs. -/
def Obligations.PortFaultsReadingsAndOctetsMove : Prop :=
  (∀ (s : State) (p : Fin 32), s.dev.alive = true → s.dev.active p.val = true →
   let m := s.dev.fpMode p.val
   let fault (d : Dev) (c : Nat) : Dev :=
     let n := min 15 (d.fg (fpStat p.val) FpStat.RCNT + 1)
     let e := ((d.latch (fpStat p.val) FpStat.CAUSE c).relevel (128 + p.val)).fp (fpStat p.val) FpStat.RCNT n
     let e := e.putPort p.val { e.port p.val with fltAt := e.tick }
     if e.ff (fpFlt p.val) FpFlt.AUTOR ∧ n ≤ e.fg (fpFlt p.val) FpFlt.RTN then
       let f := (e.leaveActive p.val 2).pulseSrc p.val p.val
       f.putPort p.val { f.port p.val with retry := some (f.tick + max 1 (f.fg (fpFlt p.val) FpFlt.RDLY) * 1000000) }
     else e.permanentFault p.val
   let d := s.dev
   let reading (r : Half) (line : Nat) : Dev := ((d.wr (fpRes p.val) (ofHalf r)).fp (fpIn p.val) FpIn.RV 1).fp (fpIn p.val) FpIn.LINE line
   (m = 1 ∨ m = 3 ∨ m = 4 ∨ m = 6 → exec (.openFault p) s = .next (s.onDev (fault d 7))) ∧
   (m = 1 ∨ m = 3 ∨ m = 4 ∨ d.ff (fpCfg p.val) FpCfg.EX = true → exec (.shortFault p) s = .next (s.onDev (fault d 6))) ∧
   exec (.limitFault p) s = .next (s.onDev (fault d 5)) ∧
   exec (.railFault p) s = .next (s.onDev (fault d 3)) ∧
   (m = 5 ∨ m = 6 → exec (.loopFault p) s = .next (s.onDev (fault d 1))) ∧
   (∀ mv, d.fg (fpEnv p.val) FpEnv.ESMAX * 20000000000 < (d.fg (fpWire p.val) FpWire.CNF + 47) * mv * mv →
     exec (.envExit p mv) s = .next (s.onDev (fault d 4))) ∧
   (∀ q ej, (d.port p.val).qAt + max 1 (d.fg (fpEnv p.val) FpEnv.QWIN) * 100000 ≤ d.tick →
     let e := (d.wr (fpEj p.val) (d.rd (fpEj p.val) + ej)).putPort p.val { d.port p.val with qAt := d.tick, ejAt := d.tick }
     exec (.chargeWindowEnd p q ej) s = .next (s.onDev (if e.fg (fpEnv p.val) FpEnv.QMAX < q then e.fieldFault p.val 4 false else e))) ∧
   ((d.port p.val).fltAt + max 1 (d.fg (fpFlt p.val) FpFlt.RWIN) * 100000000 ≤ d.tick →
     exec (.rcntClear p) s = .next (s.onDev (d.fp (fpStat p.val) FpStat.RCNT 0))) ∧
   (∀ t : Fin 2, (d.port p.val).hit.testBit t.val = true →
     (if t.val = 0 then (d.port p.val).hitA else (d.port p.val).hitB) + d.fg (fpDrv p.val) FpDrv.HITT * 100000 ≤ d.tick →
     exec (.hitEnd p t.castSucc) s =
       .next (s.onDev (d.putPort p.val { d.port p.val with hit := setBit (d.port p.val).hit t.val false }))) ∧
   (m = 4 → ∀ r : Half,
     exec (.rtdConversionEnd p r) s = .next (s.onDev (
       if 4000 * 65536 < r.toInt then (reading r 1).fieldFault p.val 7 false
       else if r.toInt < 10 * 65536 then (reading r 2).fieldFault p.val 6 false else reading r 0))) ∧
   (m = 1 ∨ m = 3 ∨ m = 5 ∨ m = 6 → ∀ (i : Half) (other : Fin 3),
     exec (.loopUpdate p ⟨i, other⟩) s = .next (s.onDev (reading i (
       if m = 1 then max other.val (if 6 * 65536 < i.toInt then 2 else if 100 * i.toInt < 15 * 65536 then 1 else 0)
       else if m = 3 then other.val
       else if 10 * i.toInt < 36 * 65536 ∨ 21 * 65536 < i.toInt then 3
       else if m = 6 ∧ 200 * 65536 < (1000 * i.toInt - (d.loopOut p.val : Int) * 65536).natAbs then 1 else 0))))) ∧
  (∀ (s : State) (p : Fin 32),
   let x := s.dev.port p.val
   (∀ who (o : BitVec 8), s.reaches who (fpData p.val) = true →
     (x.tx.length < 16 → exec (.txvPush who p o) s = .next (s.wrote (fpData p.val) false
       (s.dev.putPort p.val { x with tx := x.tx ++ [o.toNat], drvOn := s.dev.uartOn p.val }))) ∧
     (16 ≤ x.tx.length → exec (.txvPush who p o) s = .next (s.wrote (fpData p.val) false (s.dev.fp (fpData p.val) FpData.OVR 1)))) ∧
   (s.dev.alive = true → s.dev.uartOn p.val = true →
     (∀ o l, x.tx = o :: l →
       exec (.uartTransmitEnd p) s = .next (s.onDev ((s.dev.putPort p.val { x with tx := l, drvOn := decide (l ≠ []) }).relevel (128 + p.val)))) ∧
     (∀ (o : BitVec 8) (err : Bool), x.drvOn = false →
       (x.rx.length < 16 → exec (.uartReceive p o err) s =
         .next (s.onDev ((s.dev.putPort p.val { x with rx := x.rx ++ [(o.toNat, err)] }).relevel (128 + p.val)))) ∧
       (16 ≤ x.rx.length → exec (.uartReceive p o err) s = .next (s.onDev (s.dev.fp (fpData p.val) FpData.OVR 1))))) ∧
   (∀ who, s.readable who (fpData p.val) (fpData p.val) = true →
     exec (.rxdRead who p) s = .next (s.didRead (loHalf (s.dev.fpDataValue p.val))
       (((s.dev.fp (fpData p.val) FpData.OVR 0).putPort p.val { x with rx := x.rx.drop 1 }).relevel (128 + p.val)))))

/-- R134, R135: the sequencer's instructions that compute, read and drive, in every port whose sequencer is ready for the word at its next slot, which
PC then shows: the registers and flags they write, and the slot that follows (the one after 63 halts the sequencer as an illegal instruction does). -/
def Obligations.SequencerComputes : Prop := ∀ (s : State) (p : Fin 32), s.dev.alive = true → s.dev.seqReady p.val = true →
  let slot := (s.dev.port p.val).slot
  let d := s.dev.fp (fpSeqs p.val) FpSeqs.PC slot
  let w := s.dev.fg (fpPrg p.val slot) FpPrg.INS
  let q (k : Nat) : Nat := d.fg (fpSq p.val k) FpSq.Q
  let set (k v : Nat) : Dev := d.fp (fpSq p.val k) FpSq.Q v
  let next (e : Dev) : State := s.onDev (
    if e.seqPc p.val = 63 then e.seqIllegal p.val else e.putPort p.val { e.port p.val with slot := e.seqPc p.val + 1, ran := true })
  let flags (e : Dev) (v : Nat) : Dev :=
    (e.fb (fpSeqs p.val) FpSeqs.Z (decide (v % 2 ^ 18 = 0))).fb (fpSeqs p.val) FpSeqs.N (v.testBit 17)
  let drive (o : LvlOp) : Dev := d.putPort p.val { d.port p.val with out := (d.port p.val).out ++ [o] }
  (∀ (a : Fin 8) (i : Fin 512),
    (w = 0x1000 + 512 * a.val + i.val → exec (.seqLdi p) s = .next (next (set a.val i.val))) ∧
    (w = 0x2000 + 512 * a.val + i.val → exec (.seqLdh p) s = .next (next (set a.val (i.val * 512 + q a.val % 512)))) ∧
    (w = 0x4000 + 512 * a.val + i.val →
      let v := (q a.val + (if i.val < 256 then i.val else i.val + 2 ^ 18 - 512)) % 2 ^ 18
      exec (.seqAddi p) s = .next (next (flags (set a.val v) v)))) ∧
  (∀ a b : Fin 8,
    let x := q a.val
    let y := q b.val
    let alu (v : Nat) : State := next (flags (set a.val v) v)
    let word (f : Nat) : Nat := 0x3000 + 512 * a.val + 64 * b.val + f
    (w = word 0 → exec (.seqMov p) s = .next (alu (y % 2 ^ 18))) ∧
    (w = word 1 → exec (.seqAdd p) s = .next (alu ((x + y) % 2 ^ 18))) ∧
    (w = word 2 → exec (.seqSub p) s = .next (alu ((x + 2 ^ 18 - y) % 2 ^ 18))) ∧
    (w = word 3 → exec (.seqAnd p) s = .next (alu ((x &&& y) % 2 ^ 18))) ∧
    (w = word 4 → exec (.seqOr p) s = .next (alu ((x ||| y) % 2 ^ 18))) ∧
    (w = word 5 → exec (.seqXor p) s = .next (alu ((x ^^^ y) % 2 ^ 18))) ∧
    (w = word 6 → exec (.seqShl p) s = .next (alu (2 * y % 2 ^ 18))) ∧
    (w = word 7 → exec (.seqShr p) s = .next (alu (y / 2 % 2 ^ 18))) ∧
    (w = word 8 → exec (.seqCmp p) s = .next (next (flags d ((x + 2 ^ 18 - y) % 2 ^ 18))))) ∧
  (∀ a c : Fin 8, w = 0x5000 + 512 * a.val + c.val →
    let pub := (d.port p.val).pub
    let v := match c.val with
      | 3 => pub % 8
      | 4 => d.fg (fpRes p.val) FpRes.RES / 2 ^ 18
      | 5 => d.fg (fpRes p.val) FpRes.RES % 2 ^ 18
      | 6 => d.fg (fpMbx p.val) FpMbx.SIN
      | 7 => (d.tick - (d.port p.val).t0) % 2 ^ 18
      | t => b2n (pub.testBit t)
    exec (.seqIn p) s = .next (next (flags (set a.val v) v))) ∧
  (∀ (a : Fin 8) (t : Fin 3), w = 0x6000 + 512 * a.val + t.val →
    exec (.seqOut p) s = .next (next (drive (if q a.val % 2 = 1 then .set t.val else .clear t.val)))) ∧
  (∀ a : Fin 8, w = 0x6003 + 512 * a.val → exec (.seqOut p) s = .next (next (drive (.all (q a.val % 8))))) ∧
  (∀ a : Fin 8, w = 0x6004 + 512 * a.val → exec (.seqOut p) s = .next (next (d.fp (fpMbx p.val) FpMbx.SOUT (q a.val)))) ∧
  (∀ (t : Fin 3) (v : Bool), w = 0x7000 + 1024 * t.val + 512 * b2n v →
    exec (.seqSett p) s = .next (next (drive (if v then .set t.val else .clear t.val))))

/-- R134, R135, R137, R610: the sequencer's instructions that wait, branch, tell software and halt, and how a wait ends: with the next instruction, or
with the halt that was asked for meanwhile. -/
def Obligations.SequencerControls : Prop := ∀ (s : State) (p : Fin 32), s.dev.alive = true →
  let x := s.dev.port p.val
  let d := s.dev.fp (fpSeqs p.val) FpSeqs.PC x.slot
  let w := s.dev.fg (fpPrg p.val x.slot) FpPrg.INS
  let q (k : Nat) : Nat := d.fg (fpSq p.val k) FpSq.Q
  let unit := 2 ^ d.fg (fpSeqc p.val) FpSeqc.TSH
  let go (e : Dev) (slot : Nat) : Dev := e.putPort p.val { e.port p.val with slot := slot, ran := true }
  let next (e : Dev) : Dev := if e.seqPc p.val = 63 then e.seqIllegal p.val else go e (e.seqPc p.val + 1)
  let tell (e : Dev) : Dev := (e.latch (fpStat p.val) FpStat.CAUSE causeSEV).relevel (128 + p.val)
  let stop (e : Dev) : Dev := (e.fp (fpSeqs p.val) FpSeqs.HLT 1).putPort p.val { e.port p.val with wait := .none, stop := false }
  let halt (e : Dev) : Dev := (stop e).fp (fpSeqc p.val) FpSeqc.RUN 0
  let ran (e : Dev) : Dev := e.putPort p.val { e.port p.val with ran := true }
  (s.dev.seqReady p.val = true →
    (∀ n : Fin 4096, w = 0x8000 + n.val →
      exec (.seqWait p) s = .next (s.onDev (d.putPort p.val { x with wait := .until (d.tick + (n.val + 1) * unit), ran := true }))) ∧
    (∀ (t e : Fin 3) (k : Fin 8), w = 0x9000 + 1024 * t.val + 256 * e.val + 32 * k.val →
      let l := if q k.val = 0 then none else some (d.tick + q k.val * unit)
      exec (.seqWedg p) s = .next (s.onDev (d.putPort p.val
        { x with wait := .edge t.val e.val (x.pub.testBit t.val) l, ran := true }))) ∧
    (∀ (c : Fin 7) (k : Fin 64), w = 0xA000 + 512 * c.val + k.val →
      let z := d.ff (fpSeqs p.val) FpSeqs.Z
      let n := d.ff (fpSeqs p.val) FpSeqs.N
      let t := d.ff (fpSeqs p.val) FpSeqs.T
      let taken := match c.val with | 0 => true | 1 => z | 2 => !z | 3 => n | 4 => !n | 5 => t | _ => !t
      exec (.seqBr p) s = .next (s.onDev (if taken then go d k.val else next d))) ∧
    (∀ (a : Fin 8) (k : Fin 64), w = 0xB000 + 512 * a.val + k.val →
      let v := (q a.val + 2 ^ 18 - 1) % 2 ^ 18
      let e := d.fp (fpSq p.val a.val) FpSq.Q v
      exec (.seqDjnz p) s = .next (s.onDev (if v = 0 then next e else go e k.val))) ∧
    (∀ c : Fin 256, w = 0xC000 + c.val → exec (.seqEvt p) s = .next (s.onDev (next (tell (d.fp (fpSeqs p.val) FpSeqs.CODE c.val))))) ∧
    (∀ k : Fin 2, w = 0xD000 + k.val →
      exec (.seqFlt p) s = .next (s.onDev ((ran d).fieldFault p.val causeSFLT (decide (k.val = 1))))) ∧
    (w = 0 → exec (.seqHalt p) s = .next (s.onDev (tell (ran (halt d))))) ∧
    (0xE000 ≤ w ∨ (w / 4096 = 0 ∧ w ≠ 0) ∨ (w / 4096 = 3 ∧ 8 < w % 64) ∨ (w / 4096 = 5 ∧ 8 ≤ w % 512) ∨ (w / 4096 = 6 ∧ 5 ≤ w % 512) ∨
        (w / 4096 = 7 ∧ (w / 1024 % 4 = 3 ∨ w % 512 ≠ 0)) ∨ (w / 4096 = 9 ∧ (w / 1024 % 4 = 3 ∨ w / 256 % 4 = 3 ∨ w % 32 ≠ 0)) ∨
        (w / 4096 = 0xA ∧ (w / 512 % 8 = 7 ∨ w / 64 % 8 ≠ 0)) ∨ (w / 4096 = 0xB ∧ w / 64 % 8 ≠ 0) ∨
        (w / 4096 = 0xC ∧ w / 256 % 16 ≠ 0) ∨ (w / 4096 = 0xD ∧ 2 ≤ w % 4096) →
      exec (.seqIllegal p) s = .next (s.onDev (ran (tell (halt (d.fp (fpSeqs p.val) FpSeqs.ILL 1))))))) ∧
  ((s.dev.active p.val = true ∨ x.stop = true) → x.ran = false →
    let fin (e : Dev) : Dev := if x.stop then stop e else next (e.putPort p.val { x with wait := .none })
    (∀ u, x.wait = .until u → u ≤ s.dev.tick →
      let e := fin s.dev
      exec (.seqWaitEnd p) s = .next (s.onDev (
        if e.ff (fpSeqs p.val) FpSeqs.HLT then e else e.putPort p.val { e.port p.val with ran := false }))) ∧
    (∀ t e r l, x.wait = .edge t e r l →
      let new := x.pub.testBit t
      let seen := match e with | 0 => !r && new | 1 => r && !new | _ => r != new
      (seen = true → exec (.seqWedgEdge p) s = .next (s.onDev (fin (s.dev.fp (fpSeqs p.val) FpSeqs.T 0)))) ∧
      (∀ u, l = some u → u ≤ s.dev.tick → seen = false →
        exec (.seqWedgTimeout p) s = .next (s.onDev (fin (s.dev.fp (fpSeqs p.val) FpSeqs.T 1)))))) ∧
  (∀ who (v : Half), s.reaches who (fpSeqc p.val) = true →
    let new := s.dev.newAt who (fpSeqc p.val) (withField FpSeqc.RUN 1 v)
    let e := s.dev.wr (fpSeqc p.val) (new &&& (FpSeqc.RUN.mask ||| FpSeqc.TSH.mask ||| FpSeqc.ENTRY.mask))
    exec (.seqStart who p v) s = .next (s.wrote (fpSeqc p.val) false (
      if e.active p.val ∧ e.ff (fpSeqs p.val) FpSeqs.HLT = true then e.seqStart p.val else e)))

/-- R138, R140, R141: CHnCMD's commands move a channel as the state in which the tick began lists them, and set BADCMD alone where it does not; a
higher event of the same port tick prevails. -/
def Obligations.ChannelCommandsMoveIt : Prop := ∀ (s : State) (who : Requester) (n : Fin 16), s.reaches who (chCmd n.val) = true →
  let d (c : Nat) : Dev := s.dev.wr (chCmd n.val) (s.dev.newAt who (chCmd n.val) (withField ChCmd.CMD c 0))
  let u (c : Nat) : Dev := (d c).chUndo n.val
  let st (c : Nat) : Nat := (u c).chState n.val
  let rank := (s.dev.chan n.val).rank
  let bad (e : Dev) : Dev := (e.latch (chStat n.val) ChStat.CAUSE causeBADCMD).relevel (160 + n.val)
  let fin (e : Dev) : State := s.wrote (chCmd n.val) false e
  let cmd (c t : Nat) (cs : List Nat) (listed : Bool) : State :=
    fin (if listed then (if 2 < rank then d c else (u c).chTake n.val 2 t cs) else bad (d c))
  exec (.arm who n) s = .next (cmd 1 1 [] (decide (st 1 = 0))) ∧
  exec (.disarm who n) s = .next (cmd 2 0 [] (decide (st 2 = 1))) ∧
  exec (.chEnd who n) s = .next (cmd 3 3 [] (decide (st 3 = 1 ∨ st 3 = 2))) ∧
  exec (.close who n) s = .next (cmd 4 0 [causeCLOSED] (decide (st 4 = 3))) ∧
  exec (.clear who n) s = .next (cmd 6 0 [] (decide (st 6 = 4) && !(u 6).interlocked n.val)) ∧
  (rank ≤ 3 → (s.dev.chan n.val).st0 ≤ 3 → st 5 ≤ 3 → exec (.safe who n) s = .next (fin ((u 5).chTake n.val 3 4 [causeSAFE]))) ∧
  (rank ≤ 3 → 3 < (s.dev.chan n.val).st0 → exec (.safe who n) s = .next (fin (bad (d 5)))) ∧
  (3 < rank → exec (.safe who n) s = .next (fin (d 5)))

/-- R138, R140, R143, R190: EN enables a channel into IDLE, or RETIRED where its latch is set, unless another enabled channel has its meter domain; it
is cleared in IDLE and SAFE only; the interlock takes a channel to SAFE, and refuses a CLEAR of the same tick; a retirement is cleared under the
installer's right. -/
def Obligations.ChannelsAreEnabledAndCleared : Prop := ∀ (s : State) (n : Fin 16),
  (∀ who (v : Half), s.reaches who (chCtl n.val) = true → s.dev.ff (chCtl n.val) ChCtl.EN = false →
    let new := s.dev.newAt who (chCtl n.val) (withField ChCtl.EN 1 v)
    let e := s.dev.wr (chCtl n.val) (ChCtl.EN.put new 0)
    let u := e.chUndo n.val
    let clash := (List.range 16).any fun k =>
      decide (k ≠ n.val) && e.ff (chCtl k) ChCtl.EN && decide (e.fg (chCtl k) ChCtl.MDOM = e.fg (chCtl n.val) ChCtl.MDOM)
    exec (.channelEnable who n v) s = .next (if clash then s.wrote (chCtl n.val) true s.dev
      else s.wrote (chCtl n.val) (s.dev.lockHit who (chCtl n.val) (withField ChCtl.EN 1 v))
        (if 2 < (s.dev.chan n.val).rank then e else if u.ff (chCtl n.val) ChCtl.EN then u
          else ((u.rsUsed (latchWord n.val) 1).fp (chCtl n.val) ChCtl.EN 1).chTake n.val 2 (if u.retireLatch n.val then 5 else 0) []))) ∧
  (∀ who (v : Half), s.reaches who (chCtl n.val) = true → s.dev.ff (chCtl n.val) ChCtl.EN = true →
    let new := s.dev.newAt who (chCtl n.val) (withField ChCtl.EN 0 v)
    let e := s.dev.wr (chCtl n.val) (ChCtl.EN.put new 1)
    let u := e.chUndo n.val
    (new ^^^ s.dev.rd (chCtl n.val)) &&& chBinding = 0 →
    exec (.channelDisable who n v) s = .next (if u.chState n.val = 0 ∨ u.chState n.val = 4
      then s.wrote (chCtl n.val) (s.dev.lockHit who (chCtl n.val) (withField ChCtl.EN 0 v))
        (if 2 < (s.dev.chan n.val).rank then e else if u.ff (chCtl n.val) ChCtl.EN then (u.fp (chCtl n.val) ChCtl.EN 0).chTake n.val 2 7 [] else u)
      else s.wrote (chCtl n.val) true s.dev)) ∧
  (s.dev.alive = true → s.dev.interlocked n.val = true →
    let u := s.dev.chUndo n.val
    let cleared := (s.dev.chan n.val).rank = 2 ∧ (s.dev.chan n.val).st0 = 4 ∧ s.dev.chState n.val = 0
    (¬ cleared → (s.dev.chan n.val).rank ≤ 3 → u.chState n.val ≤ 3 →
      exec (.interlock n) s = .next (s.onDev (u.chTake n.val 3 4 [causeSAFE, causeILK]))) ∧
    (cleared → exec (.interlock n) s = .next (s.onDev ((u.latch (chStat n.val) ChStat.CAUSE causeBADCMD).relevel (160 + n.val))))) ∧
  (∀ who, s.reaches who (chRet n.val) = true →
    let p := s.dev.ioPart who
    let e := s.dev.sessionActs p
    let entry : Audit := { typ := 0x31, part := p, role := (s.dev.actor p).1, serial := (s.dev.actor p).2, subj := n.val }
    exec (.channelRetirementClear who n) s = .next (
      if s.dev.installer p rightRETCLR = true ∧ s.dev.auRoom = true then s.wrote (chRet n.val) false (
        if s.dev.retireLatch n.val = true ∨ s.dev.chState n.val = 5
        then { e with sysq := e.sysq ++ [{ addr := latchWord n.val, val := 1, audit := entry, set := false }] } else e)
      else s.wrote (chRet n.val) true s.dev))

/-- R169, R178, R187, R191: the grant of a preparing transaction's reservation gives its PREP entry the next SEQ and the journal's head, or aborts it
for lack of energy or room; the PREP entry's write makes it ready, waiting or aborted; a waiting transaction times out. -/
def Obligations.PreparingEndsInAPlaceOrAnAbort : Prop := ∀ (s : State) (n : Fin 32), s.dev.alive = true →
  let d := s.dev
  let x := d.txn n.val
  let e := d.txCost x.items
  let g := ((d.fp (txRes n.val) TxRes.RES e).putTxn n.val { x with cost := e }).accounts
  let w := wPrep x.items + wMark x.items + 1
  (d.txState n.val = 2 → x.prep = none →
    (d.mayGrant e = false → exec (.reservationGrant n) s =
      .next (s.onDev (((d.latch drStat DrStat.CAUSE 6).relevel 190).txAbort n.val abcENERGY))) ∧
    (d.mayGrant e = true → g.jFree < w → exec (.reservationGrant n) s =
      .next (s.onDev (((g.latch rsStat RsStat.CAUSE 0).relevel 244).txAbort n.val abcJFULL))) ∧
    (d.mayGrant e = true → w ≤ g.jFree → ∃ t, exec (.reservationGrant n) s = .next t ∧ t.pending = s.pending ∧ t.mem = s.mem ∧
      (t.dev.txn n.val).seq = g.fg rsSeq RsSeq.SEQ ∧ (t.dev.txn n.val).items = x.items ∧ (t.dev.txn n.val).cost = e ∧
      (t.dev.txn n.val).prep = some (g.fg rsJhead RsJhead.HEAD, g.jnl.lap % 2) ∧
      t.dev.jnl.aside = g.jnl.aside + wMark x.items + 1 ∧
      t.dev.jnl.opens = g.jnl.opens ++ [(g.fg rsSeq RsSeq.SEQ, g.fg rsJhead RsJhead.HEAD, g.jnl.lap % 2)])) ∧
  (∀ a k, d.txState n.val = 2 → x.prep = some (a, k) → x.ready = false →
    let p := (d.jWrite a x.prepWs).wr (txPrep n.val) (BitVec.ofNat 72 a)
    exec (.prepDurable n true) s = .next (s.onDev (
      if x.mode = 0 ∨ x.trig = true then p.putTxn n.val { x with ready := true }
      else (p.fp (txStat n.val) TxStat.STATE 3).putTxn n.val { x with ready := true, waitAt := p.tick })) ∧
    exec (.prepDurable n false) s = .next (s.onDev ((((d.latch rsStat RsStat.CAUSE 2).count rsWerr RsWerr.CNT).relevel 244).txAbort n.val abcRSERR))) ∧
  (d.txState n.val = 3 → x.wto ≠ 0 → x.waitAt + x.wto * 100000 ≤ d.tick → x.trig = false →
    exec (.txTimeout n) s = .next (s.onDev (d.txAbort n.val abcTIMEOUT)))

/-- R169, R176, R180, R183, R189, R190, R203: MARK and DONE entries, KILL, the journal's tail, the two writes of a system commit, and the end of a
TAPP copy. -/
def Obligations.CommitsComplete : Prop := ∀ (s : State) (n : Fin 32),
  let d := s.dev
  let x := d.txn n.val
  (d.alive = true →
    (∀ a k, d.txState n.val = 4 → x.mark = some (a, k) → x.done = none →
      let m := (d.jWrite a x.markWs).wr (txMark n.val) (BitVec.ofNat 72 a)
      let f := x.frames.foldl (fun s p => s.release p.1 p.2 true) (s.onDev m)
      let h := f.dev.homeWrites x.seq x.totals x.params
      let r := Dev.jAlloc { h with jnl := { h.jnl with aside := h.jnl.aside - 1 } } 1
      exec (.markDurable n) s = .next (f.onDev (r.2.putTxn n.val { x with done := some r.1 })).heldReset) ∧
    (∀ a k p, d.txState n.val = 4 → x.done = some (a, k) → x.prep = some p →
      let w := d.rsWrite a (fields [(3, 68), (1, 56), (n.val, 51), (k, 48), (x.seq, 0)])
      let e := Dev.doneLimit { w with jnl := { w.jnl with opens := w.jnl.opens.filter (fun e => decide (e ≠ (x.seq, p))) } }
      let f := ((e.fp (txStat n.val) TxStat.STATE 0).fp (txStat n.val) TxStat.RES 1).fp (txStat n.val) TxStat.ABC 0
      exec (.doneDurable n) s = .next (s.onDev (((f.fp (txRes n.val) TxRes.RES 0).putTxn n.val { strayAt := x.strayAt }).accounts.txEvent n.val))) ∧
    (∀ q l, d.sysq = q :: l →
      let e : Dev := { d with sysq := if q.half then l else { q with half := true } :: l }
      let w := e.rsRead q.addr
      exec .systemCommit s = .next (s.onDev (if q.set = q.half then e.audit q.audit
        else ((e.rsUsed q.addr 1).rsWrite q.addr (if q.set then w ||| q.val else w &&& ~~~ q.val)).sysEffect q))) ∧
    (∀ k fl, x.copy = some k → (d.cell x.owner).stores = [] →
      let r : Req := { cls := clsCELL, pl := k.pl, pg := (d.cell x.owner).pgrp, part := x.part, req := x.owner, kind := .read, addr := k.addr, n := k.len }
      exec (.tappCopyEnd n fl) s = .next (State.pump (match d.ask r with
        | (.permit _, e) =>
          let q := (s.onDev (e.touch k.addr k.len)).takeWords k.addr k.len (some dpTXU) fl
          if d.dramGone k.addr then s.onDev ((e.touch k.addr k.len).txAppEnd n.val (some []) true)
          else q.2.2.onDev (q.2.2.dev.txAppEnd n.val (some q.1) (decide (q.2.1 ≠ 0)))
        | (_, e) => s.onDev (e.txAppEnd n.val none false)) x.owner))) ∧
  (∀ who, s.reaches who txCmd = true → exec (.kill who n) s = .next (s.wrote txCmd false (d.txAbort n.val abcKILL))) ∧
  (∀ who (v : Half), s.reaches who rsJtail = true →
    let t := RsJtail.TAIL.get (ofHalf v)
    exec (.journalTailWrite who v) s = .next (
      if d.headerAt t (d.fg rsJlim RsJlim.LIM) jSize (d.fg rsJtail RsJtail.TAIL)
      then s.wrote rsJtail false ((d.jUsed t 1).fp rsJtail RsJtail.TAIL t).writeControl else s.wrote rsJtail true d))

/-- R183: an abort frees an open, preparing or waiting transaction with its code, and changes nothing of a free or committing one. -/
def Obligations.AnAbortFreesTheTransaction : Prop := ∀ (d : Dev) (n : Fin 32) (code : Fin 32),
  (d.txState n.val = 0 ∨ 4 ≤ d.txState n.val → d.txAbort n.val code.val = d) ∧
  (1 ≤ d.txState n.val → d.txState n.val ≤ 3 →
    let t := d.txAbort n.val code.val
    t.txState n.val = 0 ∧ t.fg (txStat n.val) TxStat.RES = 2 ∧ t.fg (txStat n.val) TxStat.ABC = code.val ∧ t.txn n.val = { strayAt := (d.txn n.val).strayAt } ∧
    t.fg (txRes n.val) TxRes.RES = 0)

/-- R172–R178, R183, R189, R190: the transaction ops of an open transaction `n`, the current one of its owner. An op that is accepted stages its item
as the last and sets TXSTAT.ERR to 0; TABORT, and an op with a malformed operand, abort it. `who` is the op's cell; a refused op only sets ERR. TBEGIN
of a number that another group has answers NOTOWN (the model's choice, log 178). -/
def Obligations.TransactionOpsStage : Prop :=
  ∀ (s : State) (h : OpHdr), s.takes h → ∀ (s1 s2 : Fin 32) (n : Nat),
    let c := h.cell.val
    let x := s.dev.cell c
    let a := (x.rg s1).toNat
    let keeps := fun (t : State) => t.pending = s.pending ∧ t.mem = s.mem ∧ (∀ k ≠ c, t.dev.cell k = s.dev.cell k) ∧ (t.dev.cell c).g = x.g ∧ (t.dev.cell c).pc = x.pc + 1
    let refuses := fun (i : Instr) (e : Nat) => exec i s = .next (s.issued c 1 fun y => { y with txErr := e })
    let mine := s.dev.txAllowed (a % 32) x.part
    (mine = true → s.dev.txState (a % 32) = 0 → ∃ t, exec (.tbegin h s1) s = .next t ∧ keeps t ∧ t.dev.txState (a % 32) = 1 ∧ t.dev.txn (a % 32) = { owner := c, part := x.part, pl := x.pl, strayAt := (s.dev.txn (a % 32)).strayAt } ∧
      (t.dev.cell c).txCur = some (a % 32) ∧ (t.dev.cell c).txErr = 0) ∧
    (mine = false → refuses (.tbegin h s1) errNOTOWN ∧ refuses (.tsel h s1) errNOTOWN) ∧
    (mine = true → s.dev.txState (a % 32) ≠ 0 → refuses (.tbegin h s1) (if s.dev.fg (txStat (a % 32)) TxStat.CELL = c then errBUSY else errNOTOWN) ∧
      ((s.dev.txn (a % 32)).owner ≠ c → refuses (.tsel h s1) errNOTOWN)) ∧
    (mine = true → s.dev.txState (a % 32) ≠ 0 → (s.dev.txn (a % 32)).owner = c → exec (.tsel h s1) s = .next (s.issued c 1 fun y => { y with txCur := some (a % 32), txErr := 0 })) ∧
    (mine = true → s.dev.txState (a % 32) = 0 → refuses (.tsel h s1) errSTATE) ∧
    (x.txCur = none → ∀ i ∈ [Instr.tsw h s1 s2, .ttot h s1, .tpar h s1 s2, .tsnap h s1, .tfrm h s1, .tcommit h s1, .tabort h], refuses i errNOCUR) ∧
    (n < 32 → x.txCur = some n → s.dev.fg (txStat n) TxStat.CELL = c → (s.dev.txn n).owner = c → s.dev.txState n = 1 →
      let items := (s.dev.txn n).items
      let others := fun (t : State) => keeps t ∧ ∀ m ≠ n, t.dev.txn m = s.dev.txn m
      let stages := fun (i : Instr) (j : TxItem) => ∃ t, exec i s = .next t ∧ others t ∧ (t.dev.txn n).items = items ++ [j] ∧ t.dev.txState n = 1 ∧ (t.dev.cell c).txErr = 0
      let aborts := fun (i : Instr) (code : Nat) => ∃ t, exec i s = .next t ∧ others t ∧ t.dev.txn n = { strayAt := (s.dev.txn n).strayAt } ∧ t.dev.txState n = 0 ∧ t.dev.fg (txStat n) TxStat.RES = 2 ∧
        t.dev.fg (txStat n) TxStat.ABC = code ∧ (t.dev.cell c).txAbc = code ∧ (t.dev.cell c).txAbn = n
      let room := fun (j : TxItem) => s.dev.claimedByOther n j = false ∧ countItems TxItem.isWrite items < 64
      (let r := a % 2 ^ 24
       let q := regDesc r
       let v : Word := if q.wide then x.rg s2 else x.rg s2 &&& 0xFFFFFFFFF
       let j : TxItem := .write r q.wide v q.txMask
       q.txMask ≠ 0 → s.dev.isH = false → (s.dev.askIo (s.dev.cellReq c .write r 1)).1 = true → items.any (fun k => k.clashes j) = false → room j → stages (.tsw h s1 s2) j) ∧
      ((regDesc (a % 2 ^ 24)).txMask = 0 → aborts (.tsw h s1 s2) abcNOTX) ∧
      (∀ k, (s.dev.txSnaps n)[a / 256 % 16]? = some (0, k) → room (.tot (a % 256) (a / 256 % 16)) → stages (.ttot h s1) (.tot (a % 256) (a / 256 % 16))) ∧
      (0x30000 ≤ a % 2 ^ 18 → aborts (.tpar h s1 s2) abcITEM) ∧
      (let o := a % 2 ^ 18
       let p := (s.dev.txn n).part
       let j : TxItem := .par o (x.rg s2) { typ := 0x20 + o / 0x10000, part := p, role := (s.dev.actor p).1, serial := (s.dev.actor p).2, subj := o,
                                            old := s.dev.rsRead (parBase + o), new := x.rg s2 }
       o < 0x30000 → ¬ (0x1FFE0 ≤ o ∧ o < 0x20000) → s.dev.hasRight p (parRight o) = true → s.dev.auRoom = true → room j → stages (.tpar h s1 s2) j) ∧
      (a / 64 % 4 = 1 → countItems TxItem.isSnap items < 16 → stages (.tsnap h s1) (.snap 1 (a % 64))) ∧
      (a / 64 % 4 = 0 → a % 64 < 32 → countItems TxItem.isSnap items < 16 → stages (.tsnap h s1) (.snap 0 (a % 64))) ∧
      (let j : TxItem := .frame (a / 2 ^ 19 % 2) (a / 2 ^ 16 % 8) (a % 65536)
       s.dev.isHeld (a / 2 ^ 19 % 2) (a / 2 ^ 16 % 8) (a % 65536) = true → s.dev.claimedByOther n j = false → countItems TxItem.isFrame items < 4 → stages (.tfrm h s1) j) ∧
      (a % 4 < 2 → ∃ t, exec (.tcommit h s1) s = .next t ∧ others t ∧ t.dev.txState n = 2 ∧ t.dev.txn n = { s.dev.txn n with mode := a % 4, wto := a / 4 % 2 ^ 20 } ∧ (t.dev.cell c).txErr = 0) ∧
      (2 ≤ a % 4 → aborts (.tcommit h s1) abcITEM) ∧
      aborts (.tabort h) abcUSER ∧
      (let len := (x.rg s2).toNat % 1024
       let recs := (s.dev.txn n).items.filterMap TxItem.recWords
       len ≠ 0 → recs.length < 8 → recs.sum + len ≤ 512 → ∀ va, a % 2 ^ 36 = va →
        ∃ t, exec (.tapp h s1 s2) s = .next t ∧ others t ∧ t.dev.txn n = { s.dev.txn n with copy := some ⟨busAddr c va, len, (x.rg s2).toNat / 1024 % 65536, x.pl⟩ } ∧ (t.dev.cell c).txErr = 0))

/-- R228–R234, R236, R240, R241, R249: FnCMD's commands are refused with their result or begin (SPARE and RETIRE end at once); the retirement clear,
the clock code and the caliper test. -/
def Obligations.FurrowCommandsAreTaken : Prop := ∀ (s : State) (who : Requester) (f : Fin 16),
  let part := match who with | .cell _ => some (s.dev.ioPart who) | _ => none
  let led (cmd tgt : Nat) : Dev :=
    let d := s.dev.fp (fuStat f.val) FuStat.LAST cmd
    if (posCells f.val tgt).any (fun c => (d.fur f.val).test.testBit (c % 4)) then d.abandonTest f.val else d
  let go (cmd src tgt nrole : Nat) (begun : Dev → Dev) : State := s.wrote (fuCmd f.val) false (
    match (led cmd tgt).cmdRefusal f.val cmd src tgt nrole part (s.dev.ioPl who) with
    | some r => (led cmd tgt).fp (fuStat f.val) FuStat.RSLT r
    | none => begun (led cmd tgt))
  let quiet (cs : List Nat) (q : FurCmd) (d : Dev) : Dev := (d.askQuiet cs true).putFur f.val { d.fur f.val with cmd := some q }
  (s.reaches who (fuCmd f.val) = true → ∀ (src : Fin 4) (tgt : BitVec 4) (nrole : Fin 4),
    let t := tgt.toNat
    let ts := posCells f.val t
    exec (.split who f src tgt nrole) s =
      .next (go 1 src.val t nrole.val (quiet [4 * f.val + src.val] { cmd := 1, src := src.val, tgt := t, nrole := nrole.val })) ∧
    exec (.join who f src tgt) s = .next (go 2 src.val t 0 fun d =>
      quiet [4 * f.val + src.val] { cmd := 2, src := src.val, tgt := t } (ts.foldl (fun d c => d.clearPends c) d)) ∧
    exec (.stop who f tgt) s = .next (go 3 0 t 0 (quiet ts { cmd := 3, src := 0, tgt := t })) ∧
    exec (.spare who f tgt) s = .next (go 4 0 t 0 fun d => (ts.foldl (fun d c =>
      let e := (d.setRole c 2 0).clearPends c
      e.putCell c { e.cell c with part := 64, pgrp := 0 }) d).cmdResult f.val 0) ∧
    exec (.retire who f tgt) s = .next (go 5 0 t 0 fun d => (ts.foldl (fun d c => d.retireCell c false) d).cmdResult f.val 0)) ∧
  (s.reaches who (fuRet f.val) = true → ∀ m : BitVec 4,
    let p := s.dev.ioPart who
    let a := s.dev.actor p
    let w := s.dev.fg (fuRet f.val) FuRet.RET
    exec (.cellRetirementClear who f m) s = .next (
      if s.dev.installer p rightRETCLR = true ∧ s.dev.auRoom = true then s.wrote (fuRet f.val) false
        ((bitsOf (m.toNat &&& w) 4).foldl (fun d k => { d with sysq := d.sysq ++ [{
          addr := 0x02102FFE0 + f.val, val := BitVec.ofNat 72 (2 ^ k),
          audit := { typ := 0x33, part := p, role := a.1, serial := a.2, subj := 4 * f.val + k }, set := false }] }) (s.dev.sessionActs p))
      else s.wrote (fuRet f.val) true s.dev)) ∧
  (s.reaches who (fuClk f.val) = true → ∀ v : Fin 16,
    exec (.clockChange who f v) s = .next (s.wrote (fuClk f.val) false (
      if (s.dev.fur f.val).cmd ≠ none ∨ (s.dev.fur f.val).arb ≠ none then s.dev.putFur f.val { s.dev.fur f.val with clkW := some v.val }
      else (s.dev.fp (fuClk f.val) FuClk.FREQ v.val).fp (fuClk f.val) FuClk.RELOCK 1))) ∧
  (s.dev.alive = true → s.dev.ff (fuClk f.val) FuClk.RELOCK = true →
    exec (.relockEnd f) s =
      .next ((s.onDev ((s.dev.fp (fuClk f.val) FuClk.CUR (s.dev.clockWanted f.val)).fp (fuClk f.val) FuClk.RELOCK 0)).pumpFur f.val)) ∧
  (s.dev.alive = true → ∀ grp port bit, (s.dev.fur f.val).ctest = some (grp, port, bit) → ∀ a b : BitVec 160,
    let ok := a.getLsbD bit && b.getLsbD bit && decide (2 ≤ (s.dev.groupCells f.val grp).length)
    let e := ((s.dev.putFur f.val { s.dev.fur f.val with ctest := none }).fp (fuCtest f.val) FuCtest.DONE 1).fb (fuCtest f.val) FuCtest.OK ok
    exec (.caliperTest f none ⟨a, b⟩) s = .next (s.onDev (if ok then e else e.furCause f.val 2)))

/-- R216, R220–R226, R229–R235: what ends an unwinding, an arbitration, a minority test, a quiesce and a JOIN, and what follows for the group. -/
def Obligations.LockstepOutcomesFollow : Prop := ∀ (s : State) (f : Fin 16), s.dev.alive = true →
  let d := s.dev
  let x := d.fur f.val
  let on (d : Dev) : State := (s.onDev d).pumpFur f.val
  let free := d.putFur f.val { x with cmd := none }
  (∀ (c : Fin 64) m, c.val / 4 = f.val → x.mis.find? (fun m => m.cells.testBit (c.val % 4) && !m.done) = some m →
    let y := d.cell m.lead
    let settle (e : Dev) (lost : Bool) : Dev := (e.putFur f.val { e.fur f.val with mis := (e.fur f.val).mis.map fun q =>
      if q = m then { m with done := true, lost := lost } else q }).furNext f.val
    (y.loads = [] → y.stores = [] → d.txCopying m.lead = false → exec (.unwindEnd c) s = .next (on (settle d false))) ∧
    exec (.unwindTimeout c) s = .next (on (settle (((y.loads.filterMap LoadE.fly ++ y.stores.filterMap StoreE.fly).foldl (fun d i => d.land i) d).putCell
      m.lead { y with loads := [], stores := [] }) true))) ∧
  (∀ a taken m, x.arb = some (a, taken) → x.turn = some m →
    let e := d.putFur f.val { x with arb := none, suspects := 0 }
    exec (.arbitrationTestEnd f .agree) s = .next (on (((e.arbiterBack f.val a taken).toRestart f.val m 2 true).furNext f.val)) ∧
    exec (.arbitrationTestEnd f .noMajority) s = .next (on (((e.retireCell (4 * f.val + a) true).toRestart f.val m 2 true).furNext f.val)) ∧
    (∀ p : Fin 4, p.val ≠ a → m.cells.testBit p.val = true →
      let bad := 4 * f.val + p.val
      let sur := (((bitsOf m.cells 4).map (fun q => 4 * f.val + q)).filter (fun c => decide (c ≠ bad))).headD bad
      let g := (((e.relead m.lead sur).retireCell bad true).pointRoutes [bad] sur).clearPends (4 * f.val + a)
      let duo : Mis := { m with cells := posMask [sur, 4 * f.val + a], lead := sur }
      exec (.arbitrationTestEnd f (.blamed p)) s = .next (on (
        if g.ff (fuPol f.val) FuPol.RESUME then
          (((g.setRole sur 1 m.grp).putFur f.val { g.fur f.val with
            cmd := some { cmd := 2, src := sur % 4, tgt := 2 ^ a, nrole := b2n taken, copy := true, auto := 1 } }).fp
              (fuStat f.val) FuStat.OUT 1).fp (fuStat f.val) FuStat.ARB 1
        else (Dev.toRestart (g.putFur f.val { g.fur f.val with mis := (g.fur f.val).mis.map (fun q => if q = m then duo else q) })
          f.val duo 2 true).furNext f.val)))) ∧
  (∀ m, x.resume = some m →
    let c := d.lead (4 * f.val + m.lead % 4)
    let e := d.putFur f.val { x with resume := none }
    exec (.groupResume f) s = .next (on ((e.putCell c { (e.cell c).enter { lvl := 2, cause := cCALIPER, epc := m.pc, imprecise := m.impr } with
      frozen := false }).furNext f.val))) ∧
  (∀ m, x.restart = some m →
    let r := (d.putFur f.val { x with restart := none, mis := x.mis.filter (fun q => decide (q ≠ m)) }).recover
    let cells := (bitsOf m.cells 4).map (fun p => 4 * f.val + p)
    let q := (s.onDev (r.2.count (fuCnt f.val) FuCnt.RSC)).copyChecked m.lead
    let j := q.2.joinCopy [m.lead] (cells.filter (fun c => decide (c ≠ m.lead))) m.grp
    let g := (cells.foldl (fun d c => d.dropHolds c) j.dev).restart (cells.foldl min 63) cCALRST (r.2.fg (fuMmpc f.val) FuMmpc.PC) m.st true
    let lost (e : Dev) : State := (q.2.onDev (((e.furCause f.val 1).groupLost f.val m cells).furNext f.val)).pumpFur f.val
    (r.1 = false → ∀ bad, exec (.groupRestart ⟨f, bad⟩) s = .next (on (((r.2.noteFault 144).firstFault 144 f.val 4).furNext f.val))) ∧
    (r.1 = true → exec (.groupRestart ⟨f, true⟩) s = .next (lost (q.2.dev.pulseSrc 160 m.lead))) ∧
    (r.1 = true → q.1 = true → exec (.groupRestart ⟨f, false⟩) s = .next (lost q.2.dev)) ∧
    (r.1 = true → q.1 = false → exec (.groupRestart ⟨f, false⟩) s = .next ((j.onDev (g.furNext f.val)).pumpFur f.val))) ∧
  (∀ (c : Fin 64) sp, c.val / 4 = f.val → x.mins.find? (fun q => decide (q.1 = c.val % 4)) = some (c.val % 4, sp) → ∀ fails,
    let e := d.putFur f.val { x with mins := x.mins.filter (fun q => decide (q.1 ≠ c.val % 4)) }
    let g := if fails then e.retireCell c.val true else e.spareCell c.val
    let t := match sp with | some p => g.spareCell (4 * f.val + p) | none => g
    let spare := t.lowestRole f.val 1
    (t.ff (fuPol f.val) FuPol.AUTOJ = false ∨ spare = none → exec (.minorityTestEnd c fails) s = .next (on (t.furNext f.val))) ∧
    (∀ p, t.ff (fuPol f.val) FuPol.AUTOJ = true → spare = some p → exec (.minorityTestEnd c fails) s =
      .next (on ((t.putFur f.val { t.fur f.val with autoj := some (t.grp (4 * f.val + p)) }).furNext f.val)))) ∧
  (∀ q, x.cmd = some q → q.copy = false →
    ((d.cmdCells f.val q).all (fun c => d.drainedCell c) = true →
      (q.cmd = 1 → ∀ b : BitVec 101,
        let found := b.toNat % 2 ^ portWidth 3
        exec (.quiesceEnd f b) s = .next (on (if found ≠ 0 then d.mismatch (d.lead (4 * f.val + q.src)) 3 found
          else ((free.splitNow f.val q).cmdResult f.val 0).furNext f.val))) ∧
      (q.cmd = 2 → q.auto = 0 → ∀ b,
        let e := d.txAbortOwner (d.lead (4 * f.val + q.src)) abcOWNER
        exec (.quiesceEnd f b) s = .next (on (e.putFur f.val { e.fur f.val with cmd := some { q with copy := true } }))) ∧
      (q.cmd = 3 → q.auto = 0 → ∀ b,
        exec (.quiesceEnd f b) s = .next (on (((free.stopNow (posCells f.val q.tgt)).cmdResult f.val 0).furNext f.val)))) ∧
    (q.auto = 0 → exec (.quiesceDrainTimeout f) s = .next (on (
      ((((d.askQuiet (d.cmdCells f.val q) false).putFur f.val { d.fur f.val with cmd := none }).cmdResult f.val 5).furNext f.val))))) ∧
  (∀ q, x.cmd = some q → q.copy = true → q.auto = 0 →
    let src := 4 * f.val + q.src
    let c := (s.onDev free).copyChecked (d.lead src)
    let g := if d.role src = 1 then d.grp src else d.freeGroup f.val
    let j := c.2.joinCopy (d.mates src) (posCells f.val q.tgt) g
    let fail (e : Dev) : State := (c.2.onDev ((((e.furCause f.val 1).askQuiet [src] false).cmdResult f.val 6).furNext f.val)).pumpFur f.val
    (c.1 = false → exec (.joinEnd f false) s = .next ((j.onDev ((j.dev.cmdResult f.val 0).furNext f.val)).pumpFur f.val)) ∧
    (c.1 = true → exec (.joinEnd f false) s = .next (fail c.2.dev)) ∧
    exec (.joinEnd f true) s = .next (fail (c.2.dev.pulseSrc 160 (d.lead src))))

/-- R253, R255, R256, R267, R274, R275: a sampled assertion sets its pending bit, counts, fills the first-fault record and has the reaction of its
effective class; of two sources of one cycle the one of the higher class alone reacts and enters the record; a unit that becomes inactive leaves its
source. R262, R268, R271–R273: the restart after the quiet time, its limit, the end of the recovery window, and the writes that clear a latched fault
state and CF. -/
def Obligations.FaultsReactAndTheFaultStateEnds : Prop :=
  (∀ (s : State) (k : Fin 192), s.dev.alive = true →
   let d := s.dev
   (∀ u, lowestBit (d.srcPulse k.val) 64 = some u → d.fg (fcCnt (k.val / 4)) (cntSpan k.val) < 510 →
     let e := (({ d with pulse := Tab.set 0 d.pulse k.val 0 } : Dev).latch (fcPend (k.val / 32)) FcPend.PEND (k.val % 32))
     let c := d.faultClass k.val
     let g := (e.fp (fcCnt (k.val / 4)) (cntSpan k.val) (e.fg (fcCnt (k.val / 4)) (cntSpan k.val) + 1)).firstFault k.val u c
     e.fg (fcCnt (k.val / 4)) (cntSpan k.val) < 510 →
     (c = 0 → exec (.faultAssert ⟨k, []⟩ none) s = .next (s.onDev (g.fcEvent 0))) ∧
     (c = 1 → exec (.faultAssert ⟨k, []⟩ none) s = .next (s.onDev (g.fcEvent 1))) ∧
     (c = 2 → exec (.faultAssert ⟨k, []⟩ none) s = .next (s.onDev (g.fcEvent 2))) ∧
     (c = 3 → exec (.faultAssert ⟨k, []⟩ none) s = .next (s.onDev (match g.mapped k.val u with
       | none => g.fcEvent 2
       | some l => ((l.foldl (fun d n => d.chSafe n false) g).fp fcStat FcStat.CF 1).syncBalls.fcEvent 3))) ∧
     (4 ≤ c → exec (.faultAssert ⟨k, []⟩ none) s = .next (s.onDev g.enterFaultState.quietRestart))) ∧
   (lowestBit (d.srcPulse k.val) 64 = none → exec (.faultAssert ⟨k, []⟩ none) s = .next s) ∧
   (∀ u (k' : Fin 192) u', lowestBit (d.srcPulse k.val) 64 = some u → lowestBit (d.srcPulse k'.val) 64 = some u' →
     d.faultClass k'.val < d.faultClass k.val → d.fills k.val = false → d.fills k'.val = false →
     let note (d : Dev) (q : Nat) : Dev := ({ d with pulse := Tab.set 0 d.pulse q 0 } : Dev).noteFault q
     let e := note (note d (min k.val k'.val)) (max k.val k'.val)
     exec (.faultAssert ⟨k, [k']⟩ none) s = .next (s.onDev ((e.firstFault k.val u (d.faultClass k.val)).react k.val u (d.faultClass k.val)))) ∧
   (∀ (u : Fin 64) same, d.unitHere k.val u.val = true → k.val ≠ 153 →
     exec (.faultAssert ⟨k, same⟩ (some u)) s = .next (s.onDev ((d.raiseSrc k.val u.val).collect (k.val :: same.map Fin.val)))) ∧
   (∀ u : Fin 64, (d.srcLevel k.val).testBit u.val = true →
     let e : Dev := { d with level := Tab.set 0 d.level k.val (setBit (d.srcLevel k.val) u.val false) }
     exec (.faultDeassert k u) s = .next (s.onDev (if 4 ≤ e.faultClass k.val then e.quietRestart else e)))) ∧
  (∀ (s : State) (who : Requester) (v : Half),
   let d := s.dev
   (d.alive = true → d.quietOver = true → d.ff fcRec FcRec.AUTO = true →
     (d.recover.1 = true → exec .faultRestart s = .next (s.onDev d.recover.2).faultRestart) ∧
     (d.recover.1 = false → exec .faultRestart s = .next (s.onDev d.recover.2))) ∧
   (d.alive = true → d.fg fcRec FcRec.CNT ≠ 0 → d.fc.winAt + min 10080 (max 1 (d.fg fcRec FcRec.WIN)) * 6000000000 ≤ d.fc.base + d.tick →
     exec .recoveryWindowEnd s = .next (s.onDev (d.fp fcRec FcRec.CNT 0))) ∧
   (s.reaches who fcRec = true →
     let r := withField FcRec.ICLR 1 v
     let e := d.wr fcRec (d.newAt who fcRec r)
     let p := d.ioPart who
     let a := e.actor p
     let c := (((e.sessionActs p).audit { typ := 0x34, part := p, role := a.1, serial := a.2 }).fp fcRec FcRec.CNT 0).fp fcStat FcStat.LATCH 0
     let t := if c.syncBalls.quietOver then (s.onDev c.syncBalls).faultRestart else s.onDev c.syncBalls
     exec (.iclr who v) s = .next (if e.installer p rightFLTCLR = true ∧ e.auRoom = true
       then t.wrote fcRec (d.lockHit who fcRec r) t.dev else s.wrote fcRec true e)) ∧
   (s.reaches who fcStat = true →
     let r := withField FcStat.CF 1 v
     let e := d.wr fcStat (FcStat.CF.put (d.newAt who fcStat r) (d.fg fcStat FcStat.CF))
     exec (.cfClear who v) s = .next (s.wrote fcStat (d.lockHit who fcStat r) (
       if e.level.any (fun x => decide (x.2 ≠ 0 ∧ e.faultClass x.1 = 3)) then e else (e.fp fcStat FcStat.CF 0).syncBalls))))

/-- R258, R260, R261, R263, R264, R292: the alive feed, its time limits, the software sources and the self-checks. -/
def Obligations.FeedAndSelfChecksAct : Prop := ∀ (s : State) (who : Requester),
  let d := s.dev
  let now := d.fc.base + d.tick
  let max' := max 1 (d.fg fcFwin FcFwin.WMAX)
  let bad := ({ ((d.fp fcStat FcStat.FEEDV 0).fp fcStat FcStat.NEXTK 0).pulseSrc 184 0 with fc := { d.fc with feedAt := none, warned := false } } : Dev).syncBalls
  (s.reaches who fcFeed = true → ∀ key : BitVec 8,
    (d.ioPl who ≠ 2 ∨ d.ioPart who ≠ d.fg fcCtl FcCtl.FEEDP → exec (.feed who key) s = .next (s.wrote fcFeed true d)) ∧
    (d.ioPl who = 2 → d.ioPart who = d.fg fcCtl FcCtl.FEEDP →
      let want := if d.ff fcStat FcStat.NEXTK then 0xA5 else 0x5A
      let ok := key.toNat = want ∧ match d.fc.feedAt with
        | none => True
        | some t => t + d.fg fcFwin FcFwin.WMIN * 100000 ≤ now ∧ now ≤ t + max' * 100000
      let e := (d.fp fcStat FcStat.FEEDV 1).fb fcStat FcStat.NEXTK (!d.ff fcStat FcStat.NEXTK)
      let g := if d.inFault then e else e.fb fcStat FcStat.SAFEB (!d.ff fcStat FcStat.SAFEB)
      (ok → exec (.feed who key) s =
        .next (s.wrote fcFeed false ({ g with fc := { g.fc with feedAt := some now, warned := false } } : Dev).syncBalls)) ∧
      (¬ ok → exec (.feed who key) s = .next (s.wrote fcFeed false bad)))) ∧
  (d.alive = true → ∀ t, d.fc.feedAt = some t →
    (t + max' * 100000 < now → exec .feedTimeout s = .next (s.onDev bad)) ∧
    (d.fc.warned = false → t + max' * 75000 ≤ now →
      exec .feedWarning s = .next (s.onDev (({ d with fc := { d.fc with warned := true } } : Dev).fcEvent 5)))) ∧
  (s.reaches who fcSwf = true → 2 ≤ d.ioPl who →
    exec (.softwareDeviceFatal who) s = .next (s.wrote fcSwf false (d.pulseSrc 191 0)) ∧
    ∀ m : BitVec 16, exec (.softwareChannelFatal who m) s =
      .next (s.wrote fcSwf false (({ d with fc := { d.fc with swf := m.toNat } } : Dev).pulseSrc 190 0))) ∧
  (d.alive = true →
    (∀ u : Fin 4, exec (.safetyReadbackFault u) s =
      .next (s.onDev (if u.val = 3 ∧ d.ff fcStat FcStat.NFLT = false then d else d.pulseSrc 188 u.val))) ∧
    exec .oscillatorCrossCheck s = .next (s.onDev (d.pulseSrc 158 0)) ∧
    exec (.fstopPulseTest false) s = .next (s.onDev (d.pulseSrc 189 0)) ∧
    exec (.fstopPulseTest true) s = .next s)

/-- R37, R38, R477, R479: a word of a memory or of the ditch, and a transfer of the I/O ditch, comes back unchanged where no bit of it has flipped;
one flipped bit, a check bit too, is corrected; two are found and not corrected, the data then standing as they are. R276–R283, R480: the BIST
engine's marches begin, end and record what they found; the spare test; the scrubs of the memories. -/
def Obligations.WordsAreCheckedAndTested : Prop :=
  ((∀ (w : Word) (i j : Fin 80), i ≠ j →
     let bit (k : Fin 80) : BitVec 80 := BitVec.twoPow 80 k.val
     checkWord (encodeWord w) = (w, 0) ∧ flippedWord w 0 = (w, 0) ∧ flippedWord w (bit i) = (w, 1) ∧
     flippedWord w (bit i ^^^ bit j) = (w ^^^ (bit i ^^^ bit j).extractLsb' 0 72, 2)) ∧
   (∀ (v : Half) (i j : Fin 43), i ≠ j →
     let bit (k : Fin 43) : BitVec 43 := BitVec.twoPow 43 k.val
     checkIo (encodeIo v) = (v, 0) ∧ flippedIo v 0 = (v, 0) ∧ flippedIo v (bit i) = (v, 1) ∧
     flippedIo v (bit i ^^^ bit j) = (v ^^^ (bit i ^^^ bit j).extractLsb' 0 36, 2))) ∧
  (∀ (s : State),
   let d := s.dev
   (∀ who (v : Half), s.reaches who bCtl = true →
     let r := withField BCtl.GO 1 v
     let asked := (d.wr bCtl (d.newAt who bCtl r)).bistTarget (d.ioPart who) (d.ioPl who)
     (d.ff bStat BStat.BUSY = true → exec (.bistGo who v) s = .next (s.wrote bCtl false (d.fp bStat BStat.RES 4))) ∧
     (d.ff bStat BStat.BUSY = false →
       (asked.1 = none → exec (.bistGo who v) s = .next (s.wrote bCtl false ((asked.2.wr bCtl (d.rd bCtl)).fp bStat BStat.RES 4))) ∧
       (∀ t, asked.1 = some t →
         let b := (s.onDev asked.2).bistPlan t
         let f := (s.onDev { ((asked.2.fp bStat BStat.BUSY 1).fp bStat BStat.RES 0).next with bist := some b }).lose t.1.1 t.1.2
         let g := match t.2 with | some r => f.lose r.1 r.2 | none => f
         exec (.bistGo who v) s = .next (g.wrote bCtl false g.dev)))) ∧
   (d.alive = true → ∀ b, d.bist = some b → ∀ n fail,
     let f := s.leave b.data b.pat b.last
     let g := match b.code with | some r => f.leave r b.pat b.last | none => f
     let e : Dev := { g.dev.fp bStat BStat.BUSY 0 with bist := none }
     let first := firstOf b.fail fail
     let tell (e : Dev) : State := g.onDev ((e.raiseIf b.ie 245).raiseIf (b.ie && first.isSome) 246)
     (first = none → exec (.bistEnd n fail) s = .next (tell (e.fp bStat BStat.RES (if b.bad then 5 else 1)))) ∧
     (∀ x, first = some x →
       let h := ((e.fp bStat BStat.RES (if b.bad then 5 else 2)).fp bStat BStat.FCNT (min 511 (e.fg bStat BStat.FCNT + (b.count + n)))).bistRecord x
       exec (.bistEnd n fail) s = .next (tell (match b.tgt with
         | 0 => h.pulseSrc 185 b.unit
         | 1 => h.pulseSrc 186 b.unit
         | _ => h.pulseSrc 186 (16 + (x.adr.val - dramBase) / 128 % 4))))) ∧
   (d.alive = true → d.ff bRot BRot.EN = true → d.ff bStat BStat.BUSY = false → d.inFault = false → ∀ f, d.spareFurrow = some f →
     let ts := (posCells f 15).filter (fun c => decide (d.role c = 2))
     let e := ts.foldl (fun d c => d.setRole c 5 0) d
     exec .spareTestVisit s = .next (ts.foldl (fun s c => s.loseLocal c) (s.onDev (
       ((e.putFur f { e.fur f with test := posMask ts }).fp bRot BRot.NEXT (f + 1)).fp bStat BStat.BUSY 1)))) ∧
   (d.alive = true → ∀ (c : Fin 64) pass, (d.fur (c.val / 4)).test.testBit (c.val % 4) = true →
     let x := d.fur (c.val / 4)
     let e := d.putFur (c.val / 4) { x with test := setBit x.test (c.val % 4) false }
     let g := if pass then e.spareCell c.val else (e.retireCell c.val false).pulseSrc 187 c.val
     let h := (g.count bRot BRot.NTEST).fp bStat BStat.RES (if pass then 1 else 2)
     exec (.spareTestEnd c pass) s = .next (s.onDev (if (h.fur (c.val / 4)).test = 0 then h.fp bStat BStat.BUSY 0 else h))) ∧
   (d.alive = true →
     (∀ (a : Fin 0x1000000000) f, recBase ≤ a.val → a.val < recBase + 0x400000 → d.ff bScrub BScrub.EN = true →
       let x := (s.onDev (d.rsCount 1)).strike a.val f
       let r := x.memWord a.val
       let e := (flippedWord r.1 (x.flipsAt a.val)).2
       let t := r.2.2.strike a.val (x.flipsAt a.val)
       (e = 0 → exec (.mramScrub a f false) s = .next r.2.2) ∧
       (e = 1 → exec (.mramScrub a f false) s = .next (t.onDev ((t.dev.count bScrub BScrub.CORR).rsCount 1))) ∧
       (1 < e → exec (.mramScrub a f false) s = .next (r.2.2.onDev (r.2.2.dev.count bScrub BScrub.UNC)))) ∧
     (∀ (a : Fin 0x2000000000) f, isramOf 0 ≤ a.val → a.val < isramOf 64 → d.cellHere ((a.val - isramOf 0) / 0x4000) = true → d.targetOf a.val = none →
       d.ff msCrub MsCrub.SEN = true →
       let x := s.strike a.val f
       let r := x.memWord a.val
       let e := (flippedWord r.1 (x.flipsAt a.val)).2
       let t := r.2.2.strike a.val (x.flipsAt a.val)
       (e = 0 → exec (.patrolScrub a f false) s = .next r.2.2) ∧
       (e = 1 → exec (.patrolScrub a f false) s = .next (t.onDev (t.dev.count msCnt MsCnt.CORR))) ∧
       (1 < e → exec (.patrolScrub a f false) s = .next (r.2.2.onDev (r.2.2.dev.count msCnt MsCnt.UNC))))))

/-- R300, R301, R302, R320, R321: REMEAS measures the bank while SHED is 0; the measurement records C_m; the bank is refused by the first reason that
holds (the order of the reasons is DESIGN CHOICE, log entry 52), else charged to V_CHG; the charger's end sets READY; a leak asserts FS176. R297,
R298, R304, R306, R307, R313–R315: a rail out of regulation asserts FS175; WARN sheds once; the return undoes what the plan reached; the accounts are
computed from what the rider measured, and a bank 0.20 V below V_CHG is charged again; above the power-on weir a start begins; CUT resets the device
into the unpowered state. -/
def Obligations.TheBankAndTheSupplyFollowTheirEvents : Prop :=
  (∀ s : State,
   let d := s.dev
   (∀ who (v : Half), s.reaches who drCtl = true →
     let r := withField DrCtl.REMEAS 1 v
     let e := (d.wr drCtl (d.newAt who drCtl r)).accounts
     let b := decide (18000 ≤ e.fg drMeas DrMeas.HOLD)
     let m : Dev := { e with rider := { e.rider with meas := true, bleed := b, bank := e.rd drBank, ich := bankIch (e.rd drBank), late := false, wait := false } }
     exec (.remeas who v) s = .next (s.wrote drCtl (d.lockHit who drCtl r) (if e.ff drStat DrStat.SHED then e else m.fp drStat DrStat.CHG 1))) ∧
   (d.alive = true → ∀ us, d.rider.meas = true →
     let i := if d.rider.bleed then 200 else d.rider.ich
     let c := min (2 ^ 20 - 1) (i * us / 2000)
     let x : Dev := { d with rider := { d.rider with meas := false, late := decide (4000000 < us) } }
     let e := (x.fp drBstat DrBstat.CAP c).fp drStat DrStat.CHG 0
     let w := d.rider.bank
     let no (r : Nat) : State :=
       let g : Dev := { e with rider := { e.rider with bankOk := false } }
       s.onDev ((((((g.fp drBstat DrBstat.VCHG (vCharge w c)).fp drStat DrStat.BREF r).fp drStat DrStat.CHG 0).bankState false true).pulseSrc 176 0).accounts)
     (d.rider.wait = true → exec (.bankMeasurementEnd us) s = .next (s.onDev e)) ∧
     (d.rider.wait = false → 4000000 < us → exec (.bankMeasurementEnd us) s = .next (no 3)) ∧
     (d.rider.wait = false → us ≤ 4000000 → c < 100 → exec (.bankMeasurementEnd us) s = .next (no 1)) ∧
     (d.rider.wait = false → us ≤ 4000000 → 100 ≤ c → DrBank.VSET.get w < 2000 → exec (.bankMeasurementEnd us) s = .next (no 5)) ∧
     (d.rider.wait = false → us ≤ 4000000 → 100 ≤ c → 2000 ≤ DrBank.VSET.get w → vCharge w c < 2000 →
       exec (.bankMeasurementEnd us) s = .next (no 2)) ∧
     (d.rider.wait = false → us ≤ 4000000 → 100 ≤ c → 2000 ≤ DrBank.VSET.get w → 2000 ≤ vCharge w c →
       let g : Dev := { e with rider := { e.rider with bankOk := true } }
       let k := ((g.fp drBstat DrBstat.VCHG (vCharge w c)).fp drStat DrStat.BREF 0).fb drStat DrStat.CHG (!d.rider.hold)
       exec (.bankMeasurementEnd us) s =
         .next (s.onDev (k.bankState (decide (d.fg drMeas DrMeas.HOLD ≤ vCharge w c * 10)) false).accounts))) ∧
   (d.alive = true → d.rider.bankOk = true → d.ff drStat DrStat.CHG = true → d.rider.meas = false →
     exec .chargeComplete s = .next (s.onDev ((d.fp drStat DrStat.CHG 0).bankState true false))) ∧
   (d.alive = true → d.rider.bankOk = true → d.rider.hold = false →
     exec .bankLeak s = .next (s.onDev ((d.fp drStat DrStat.BREF 4).pulseSrc 176 0)))) ∧
  (∀ s : State,
   let d := s.dev
   (d.alive = true → ∀ u, exec (.railOutOfRegulation u) s = .next (s.onDev (d.raiseSrc 175 u.val))) ∧
   (d.boot.on = true → d.ff drStat DrStat.SHED = true → exec .warn s = .next s) ∧
   (d.boot.on = true → d.ff drStat DrStat.SHED = false →
     let g := d.boot.stage.map fun (g : Stage) => { g with stop := true }
     let x : Dev := { d with rider := { d.rider with hold := true, warnAt := d.tick, warned := 0 }, boot := { d.boot with stage := g } }
     let e := (((x.fp drStat DrStat.SHED 1).fp drStat DrStat.CHG 0).raiseSrc 177 0).drCause 0
     let g := ((e.fp drShed DrShed.RUN 1).fp drShed DrShed.END 0).fp drShed DrShed.TW 0
     let p : Dev := { g with rider := { g.rider with
       step := some (0, g.fg (drSp 0) DrSp.OP, g.fg (drSp 0) DrSp.ARG), stepEj := g.fg (drSp 0) DrSp.EJ } }
     exec .warn s = .next (s.onDev (p.fp drShed DrShed.STEP 0).accounts)) ∧
   (d.boot.on = true → d.ff drStat DrStat.SHED = false → exec .supplyReturn s = .next s.pumpAll) ∧
   (d.boot.on = true → d.ff drStat DrStat.SHED = true →
     let r := d.rider
     let x : Dev := { d with rider := { r with step := none, hold := false, foff := 0, clkdn := 0, eth := 0, dram := 0 } }
     let e := ((((x.fp drStat DrStat.SHED 0).fp drShed DrShed.RUN 0).dropSrc 177 0).drCause 1).fb drStat DrStat.CHG (r.bankOk && !d.boot.low)
     let u := (List.range 16).foldl (fun d f => d.parkCells f false) e
     let g := (bitsOf r.foff 16).foldl (fun d f => (d.applyImage f).startCells f cSUPRST) u
     let k := (bitsOf r.clkdn 16).foldl (fun d f => d.reclock f) g
     (r.dram ≠ 2 → exec .supplyReturn s = .next (s.onDev k.accounts).pumpAll) ∧
     (r.dram = 2 → exec .supplyReturn s =
       .next ((s.onDev (k.fp drStat DrStat.DLOST 1).accounts).lose dramBase (dramBase + d.dramSize - 1)).pumpAll)) ∧
   (d.boot.on = true → ∀ (vin hold pin iin : BitVec 18),
     let m := (d.wr drMeas (fields [(vin.toNat, 18), (hold.toNat, 0)])).wr drPwr (fields [(pin.toNat, 18), (iin.toNat, 0)])
     let t := if m.ff drStat DrStat.SHED then m.fp drShed DrShed.TW (min (2 ^ 17 - 1) ((m.tick - m.rider.warnAt + m.rider.warned) / 100000)) else m
     let low := t.rider.bankOk && !t.rider.meas && !t.rider.hold && !t.boot.low && decide (t.fg drMeas DrMeas.HOLD + 200 < 10 * t.fg drBstat DrBstat.VCHG)
     let g := if low then t.fp drStat DrStat.CHG 1 else t
     exec (.accountUpdate vin hold pin iin) s = .next (s.onDev g.accounts.overrun)) ∧
   (d.boot.on = false → d.boot.step = 1 →
     exec .powerOnWeir s = .next (s.onDev { d with boot := { d.boot with on := true, step := 2, t0 := d.tick } })) ∧
   (d.boot.on = true → exec .powerOnWeir s = .next s) ∧
   (d.boot.on = true → ∃ t, exec .cut s = .next t ∧ t.dev.boot = { on := false, step := 1 } ∧ t.dev.alive = false ∧
     (d.boot.stage = none → t.mem.nor = s.mem.nor) ∧ t.pending = s.pending))

/-- R311, R312: a step of the shed plan whose wait is over has its operation's effect, sets STEP and DRSTAT.CAUSE.STEP, and the next step's wait
begins with the values that it holds now; END and the reserved operations end the plan; a step whose furrow is busy waits on. -/
def Obligations.TheShedPlanRunsItsSteps : Prop := ∀ (s : State) (k op arg : Nat), s.dev.boot.on = true → s.dev.rider.step = some (k, op, arg) →
  let d := s.dev
  let fs := (bitsOf arg 16).filter fun f => d.furHere f
  let free := ∀ f ∈ fs, d.furBusy f = false
  let on (e : Dev) : Dev :=
    let e1 := (e.fp drShed DrShed.STEP k).drCause 2
    if 15 ≤ k then
      (((({ e1 with rider := { e1.rider with step := none } } : Dev).fp drShed DrShed.RUN 0).fp drShed DrShed.END 1).drCause 7).txAbortWaiting
    else ({ e1 with rider := { e1.rider with
      step := some (k + 1, e1.fg (drSp (k + 1)) DrSp.OP, e1.fg (drSp (k + 1)) DrSp.ARG), stepEj := e1.fg (drSp (k + 1)) DrSp.EJ } } : Dev).fp
      drShed DrShed.STEP (k + 1)
  let stop : Dev :=
    let e1 := (d.fp drShed DrShed.STEP k).drCause 2
    (((({ e1 with rider := { e1.rider with step := none } } : Dev).fp drShed DrShed.RUN 0).fp drShed DrShed.END 1).drCause 7).txAbortWaiting
  (op = 0 ∨ 13 ≤ op → exec .shedEnd s = .next (s.onDev stop)) ∧
  (op = 1 → exec .shedNote s = .next (s.onDev (on d))) ∧
  (op = 2 → exec .abortw s = .next (s.onDev (on d.txAbortWaiting))) ∧
  (op = 3 → exec .chsafe s = .next (s.onDev (on ((bitsOf arg 16).foldl (fun d n => d.chSafe n false) d)))) ∧
  (op = 4 → exec .portoffl s = .next (s.onDev (on ((bitsOf arg 16).foldl (fun d p => d.portDIS p) d)))) ∧
  (op = 5 → exec .portoffh s = .next (s.onDev (on ((bitsOf arg 16).foldl (fun d p => d.portDIS (16 + p)) d)))) ∧
  (op = 6 →
    let e := (List.range 32).foldl (fun d p => d.portDIS p) d
    exec .railoff s = .next (s.onDev (on { e with rider := { e.rider with rail := true } }))) ∧
  (op = 7 → free → exec .clkdn s = .next (s.onDev (on (fs.foldl (fun d f =>
    let e := d.abandonTest f
    ({ e with rider := { e.rider with clkdn := e.rider.clkdn ||| 2 ^ f } } : Dev).reclock f) d)))) ∧
  (op = 8 → free → exec .park s = .next (s.onDev (on (fs.foldl (fun d f => (d.abandonTest f).parkCells f true) d)))) ∧
  (op = 9 → free →
    let t := fs.foldl (fun s f => (s.onDev (s.dev.abandonTest f)).foff f) s
    exec .foff s = .next (t.onDev (t.dev.stepDone k))) ∧
  ((op = 7 ∨ op = 8 ∨ op = 9) → (∃ f ∈ fs, d.furBusy f = true) →
    exec .clkdn s = .next s ∧ exec .park s = .next s ∧ exec .foff s = .next s) ∧
  (op = 10 → exec .dramoff s = .next (s.onDev (on { d with rider := { d.rider with dram := if arg % 2 = 1 then 2 else max 1 d.rider.dram } }))) ∧
  (op = 11 →
    let t := ((bitsOf arg 2).filter fun p => d.ethHere p).foldl (fun s p => s.linkChange p false false)
      (s.onDev { d with rider := { d.rider with eth := d.rider.eth ||| arg % 4 } })
    exec .ethoff s = .next (t.onDev (t.dev.stepDone k))) ∧
  (op = 12 → exec .waitx s = .next (s.onDev (on d)))

/-- R317, R318, R475: a sensor's reading and the maximum of all are recorded, and throttling follows them; the furrow clock moves one code at a time,
up again only when every sensor reads below 100 C; a DRAM bank is refreshed when no other of its channel is, and an idle row closes. -/
def Obligations.SensorsThrottleAndTheDramIsKept : Prop := ∀ s : State,
  let d := s.dev
  (d.boot.on = true → ∀ (i : Fin 20) (t : BitVec 9), (i.val < 16 → d.furHere i.val = true) →
    let e := d.fp (drTemp (i.val / 4)) (tempSpan i.val) (t.toInt.emod 512).toNat
    let m := (List.range 20).foldl (fun m k => max m (e.temp k)) (e.temp 0)
    let g := e.fp drThr DrThr.TMAX (m.emod 512).toNat
    exec (.junctionSensorRead i t) s = .next (s.onDev g.thermal) ∧ g.temp i.val = t.toInt ∧
    (∀ f : Fin 16, g.furHere f.val = true →
      let hot (c : Int) := ([f.val, 16, 17, 18, 19] : List Nat).any fun k => decide (c ≤ g.temp k)
      g.thermal.throttled f.val = hot 105)) ∧
  (d.alive = true → ∀ f : Fin 16, d.throttled f.val = true →
    exec (.throttleStep f) s = .next (s.onDev ((d.putFur f.val { d.fur f.val with
      thr := min (d.fur f.val).thr (d.fg (fuClk f.val) FuClk.FREQ) - 1 }).reclock f.val))) ∧
  (d.alive = true → ∀ f : Fin 16, d.throttled f.val = false →
    let warm := ([f.val, 16, 17, 18, 19] : List Nat).any fun k => decide (100 ≤ d.temp k)
    exec (.throttleStep f) s = .next (s.onDev ((d.putFur f.val { d.fur f.val with
      thr := if warm then (d.fur f.val).thr else min 10 ((d.fur f.val).thr + 1) }).reclock f.val))) ∧
  (d.alive = true → ∀ b : Fin 64, (∀ k < 16, Tab.get 0 d.refr (b.val / 16 * 16 + k) ≤ d.tick) →
    exec (.dramRefresh b) s = .next (s.onDev { d with refr := Tab.set 0 d.refr b.val (d.tick + 18) })) ∧
  (d.alive = true → ∀ b : Fin 64, exec (.rowClose b) s = .next (s.onDev { d with rows := Tab.set 0 d.rows b.val 0 }))

/-- R329, R328, R355, R357, R358: G0 and F0 discard what is written to them; an op without STOP only joins its bundle; an op whose predicate is false
has no effect, but a branch that is not taken still has its delay bundle; and the end of a delay bundle is where a branch is taken, with its push or
pop of the return stack. -/
def Obligations.BundlesIssueTheirOps : Prop :=
  ∀ (s : State) (h : OpHdr) (d s1 s2 : Fin 32) (imm : BitVec 14) (off : BitVec 24) (m : Bool),
    let c := h.cell.val
    let x := s.dev.cell c
    (s.takes h → exec (.add h 0 s1 s2) s = .next (s.issued c 1 id) ∧ exec (.cmpEq h 0 s1 s2) s = .next (s.issued c 1 id) ∧
      (∀ v, (x.wg 0 v) = x ∧ (x.wg 0 v).rg 0 = 0) ∧ ∀ b, (x.wf 0 b).rf 0 = true) ∧
    (s.ready c = true → h.stop = false → h.cal = .agree →
      exec (.add h d s1 s2) s = .next (s.onDev (s.dev.putCell c { x with bundle := [{ k := .alu .add, pred := h.pred.val, slot := 0, d := d, s1 := s1, s2 := s2 }] }))) ∧
    (s.ready c = true → endsBundle h → x.rf h.pred.val = false →
      exec (.add h d s1 s2) s = .next (s.issued c 1 id) ∧ exec (.stw h d s1 imm) s = .next (s.issued c 1 id) ∧ exec (.sysc h m) s = .next (s.issued c 1 id) ∧
      exec (.br h off) s = .next (s.issued c 1 fun y => { y with delay := some ⟨x.pc, none, none, none⟩ })) ∧
    (s.takes h → ∀ q : Delay, q.retx = none →
      exec (.add h d s1 s2) (s.cellDoes c fun y => { y with delay := some q }) = .next (s.issued c 1 fun y =>
        let z := match q.call with | some true => y.push (x.pc + 1) | some false => y.pop | none => y
        { z with delay := none, pc := q.tgt.getD (x.pc + 1) }.wg d (x.rg s1 + x.rg s2)))

/-- R377: the arithmetic and logic ops of the A slot, with register operands and with an immediate, write their result to d in one bundle and change
nothing else: `State.issued` is the machine after the bundle, in which only the issuing cell and its count of bundles have changed. -/
def Obligations.AluOpsWriteTheirResult : Prop :=
  ∀ (s : State) (h : OpHdr), s.takes h → ∀ (d s1 s2 : Fin 32) (imm : BitVec 14),
    exec (.add h d s1 s2) s = .next (s.issued h.cell.val 1 fun x => x.wg d (x.rg s1 + x.rg s2)) ∧
    exec (.sub h d s1 s2) s = .next (s.issued h.cell.val 1 fun x => x.wg d (x.rg s1 - x.rg s2)) ∧
    exec (.and h d s1 s2) s = .next (s.issued h.cell.val 1 fun x => x.wg d (x.rg s1 &&& x.rg s2)) ∧
    exec (.or h d s1 s2) s = .next (s.issued h.cell.val 1 fun x => x.wg d (x.rg s1 ||| x.rg s2)) ∧
    exec (.xor h d s1 s2) s = .next (s.issued h.cell.val 1 fun x => x.wg d (x.rg s1 ^^^ x.rg s2)) ∧
    exec (.andn h d s1 s2) s = .next (s.issued h.cell.val 1 fun x => x.wg d (x.rg s1 &&& ~~~ x.rg s2)) ∧
    exec (.rol h d s1 s2) s = .next (s.issued h.cell.val 1 fun x => x.wg d ((x.rg s1).rotateLeft ((x.rg s2).toNat % 128 % 72))) ∧
    exec (.min h d s1 s2) s = .next (s.issued h.cell.val 1 fun x => x.wg d (if (x.rg s1).toInt ≤ (x.rg s2).toInt then x.rg s1 else x.rg s2)) ∧
    exec (.max h d s1 s2) s = .next (s.issued h.cell.val 1 fun x => x.wg d (if (x.rg s1).toInt ≤ (x.rg s2).toInt then x.rg s2 else x.rg s1)) ∧
    exec (.minu h d s1 s2) s = .next (s.issued h.cell.val 1 fun x => x.wg d (if (x.rg s1).toNat ≤ (x.rg s2).toNat then x.rg s1 else x.rg s2)) ∧
    exec (.maxu h d s1 s2) s = .next (s.issued h.cell.val 1 fun x => x.wg d (if (x.rg s1).toNat ≤ (x.rg s2).toNat then x.rg s2 else x.rg s1)) ∧
    exec (.abs h d s1) s = .next (s.issued h.cell.val 1 fun x => x.wg d (if (x.rg s1).toInt < 0 then - x.rg s1 else x.rg s1)) ∧
    exec (.popc h d s1) s = .next (s.issued h.cell.val 1 fun x => x.wg d (BitVec.ofNat 72 ((List.range 72).countP fun i => (x.rg s1).getLsbD i))) ∧
    (∃ n, n ≤ 72 ∧ ((s.dev.cell h.cell.val).rg s1).toNat < 2 ^ (72 - n) ∧ (n < 72 → 2 ^ (71 - n) ≤ ((s.dev.cell h.cell.val).rg s1).toNat) ∧
      exec (.clz h d s1) s = .next (s.issued h.cell.val 1 fun x => x.wg d (BitVec.ofNat 72 n))) ∧
    exec (.addi h d s1 imm) s = .next (s.issued h.cell.val 1 fun x => x.wg d (x.rg s1 + imm.signExtend 72)) ∧
    exec (.andi h d s1 imm) s = .next (s.issued h.cell.val 1 fun x => x.wg d (x.rg s1 &&& imm.zeroExtend 72)) ∧
    exec (.ori h d s1 imm) s = .next (s.issued h.cell.val 1 fun x => x.wg d (x.rg s1 ||| imm.zeroExtend 72)) ∧
    exec (.xori h d s1 imm) s = .next (s.issued h.cell.val 1 fun x => x.wg d (x.rg s1 ^^^ imm.zeroExtend 72)) ∧
    exec (.roli h d s1 imm) s = .next (s.issued h.cell.val 1 fun x => x.wg d ((x.rg s1).rotateLeft (imm.toNat % 128 % 72)))

/-- R379: the shifts, by a register's bits [6:0] or an immediate's; a count of 72 or more gives zero, or copies of bit 71. -/
def Obligations.ShiftsByTheirCount : Prop :=
  ∀ (s : State) (h : OpHdr), s.takes h → ∀ (d s1 s2 : Fin 32) (imm : BitVec 14),
    let x := s.dev.cell h.cell.val
    let sign : Word := if (x.rg s1).getLsbD 71 then BitVec.allOnes 72 else 0
    ∀ (n : Nat),
      (n = (x.rg s2).toNat % 128 →
        exec (.shl h d s1 s2) s = .next (s.issued h.cell.val 1 fun y => y.wg d (if 72 ≤ n then 0 else x.rg s1 <<< n)) ∧
        exec (.shr h d s1 s2) s = .next (s.issued h.cell.val 1 fun y => y.wg d (if 72 ≤ n then 0 else x.rg s1 >>> n)) ∧
        exec (.sar h d s1 s2) s = .next (s.issued h.cell.val 1 fun y => y.wg d (if 72 ≤ n then sign else (x.rg s1).sshiftRight n))) ∧
      (n = imm.toNat % 128 →
        exec (.shli h d s1 imm) s = .next (s.issued h.cell.val 1 fun y => y.wg d (if 72 ≤ n then 0 else x.rg s1 <<< n)) ∧
        exec (.shri h d s1 imm) s = .next (s.issued h.cell.val 1 fun y => y.wg d (if 72 ≤ n then 0 else x.rg s1 >>> n)) ∧
        exec (.sari h d s1 imm) s = .next (s.issued h.cell.val 1 fun y => y.wg d (if 72 ≤ n then sign else (x.rg s1).sshiftRight n)))

/-- R378: the ops that set flags. C is the carry or the borrow, V the signed overflow, SV sticky; ADDS and SUBS saturate and leave C. Every other op
of the A slot leaves ST as it is. -/
def Obligations.FlagOpsSetTheFlags : Prop :=
  ∀ (s : State) (h : OpHdr), s.takes h → ∀ (d s1 s2 : Fin 32) (fd f1 f2 : Fin 8) (imm : BitVec 14) (k9 : Fin 9) (k4 : Fin 4) (k2 : Fin 2),
    let x := s.dev.cell h.cell.val
    let a := x.rg s1
    let b := x.rg s2
    let cin := b2n (x.st.getLsbD 3)
    let ovf := fun i : Int => decide (i < -(2 ^ 71) ∨ 2 ^ 71 - 1 < i)
    let sat := fun i : Int => BitVec.ofInt 72 (max (-(2 ^ 71)) (min (2 ^ 71 - 1) i))
    let set := fun (c v : Bool) => putFlags x.st ⟨c, v, x.st.getLsbD 1 || v, x.st.getLsbD 0⟩
    let goes := fun (i : Instr) (r : Word) (st : Word) => exec i s = .next (s.issued h.cell.val 1 fun y => ({ y with st := st } : Cell).wg d r)
    goes (.addf h d s1 s2) (a + b) (set (decide (2 ^ 72 ≤ a.toNat + b.toNat)) (ovf (a.toInt + b.toInt))) ∧
    goes (.adc h d s1 s2) (a + b + BitVec.ofNat 72 cin) (set (decide (2 ^ 72 ≤ a.toNat + b.toNat + cin)) (ovf (a.toInt + b.toInt + cin))) ∧
    goes (.subf h d s1 s2) (a - b) (set (decide (a.toNat < b.toNat)) (ovf (a.toInt - b.toInt))) ∧
    goes (.sbc h d s1 s2) (a - b - BitVec.ofNat 72 cin) (set (decide (a.toNat < b.toNat + cin)) (ovf (a.toInt - b.toInt - cin))) ∧
    goes (.adds h d s1 s2) (sat (a.toInt + b.toInt)) (set (x.st.getLsbD 3) (ovf (a.toInt + b.toInt))) ∧
    goes (.subs h d s1 s2) (sat (a.toInt - b.toInt)) (set (x.st.getLsbD 3) (ovf (a.toInt - b.toInt))) ∧
    ∀ i ∈ [Instr.add h d s1 s2, .sub h d s1 s2, .and h d s1 s2, .or h d s1 s2, .xor h d s1 s2, .andn h d s1 s2, .shl h d s1 s2, .shr h d s1 s2, .sar h d s1 s2,
        .rol h d s1 s2, .min h d s1 s2, .max h d s1 s2, .minu h d s1 s2, .maxu h d s1 s2, .abs h d s1, .popc h d s1, .clz h d s1] ++
      [Instr.addi h d s1 imm, .andi h d s1 imm, .ori h d s1 imm, .xori h d s1 imm, .shli h d s1 imm, .shri h d s1 imm, .sari h d s1 imm, .roli h d s1 imm,
        .cmpEq h fd s1 s2, .cmpNe h fd s1 s2, .cmpLt h fd s1 s2, .cmpGe h fd s1 s2, .cmpLtu h fd s1 s2, .cmpGeu h fd s1 s2, .tst h fd s1 s2] ++
      [Instr.cmpiEq h fd s1 imm, .cmpiNe h fd s1 imm, .cmpiLt h fd s1 imm, .cmpiGe h fd s1 imm, .cmpiLtu h fd s1 imm, .cmpiGeu h fd s1 imm,
        .pand h fd f1 f2, .por h fd f1 f2, .pxor h fd f1 f2, .pandn h fd f1 f2, .pnot h fd f1, .mff h d, .mtf h s1] ++
      [Instr.extb h d s1 k9, .extbs h d s1 k9, .insb h d s1 s2 k9, .extq h d s1 k4, .extqs h d s1 k4, .insq h d s1 s2 k4, .exth h d s1 k2, .exths h d s1 k2,
        .insh h d s1 s2 k2, .beqm h d s1 s2, .bswap h d s1, .ladd h d s1 s2, .lsub h d s1 s2],
      ∃ t, exec i s = .next t ∧ (t.dev.cell h.cell.val).st = x.st

/-- R377, R381, R328: the comparisons and the predicate ops. R380: the part and lane ops. -/
def Obligations.PredicateAndPartOpsWriteTheirResult : Prop :=
  (∀ (s : State) (h : OpHdr), s.takes h → ∀ (fd f1 f2 : Fin 8) (d s1 s2 : Fin 32) (imm : BitVec 14),
     let x := s.dev.cell h.cell.val
     let a := x.rg s1
     let b := x.rg s2
     let si : Word := imm.signExtend 72
     let zi : Word := imm.zeroExtend 72
     let goes := fun (i : Instr) (r : Prop) => ∃ v : Bool, (v = true ↔ r) ∧ exec i s = .next (s.issued h.cell.val 1 fun y => y.wf fd v)
     goes (.cmpEq h fd s1 s2) (a = b) ∧ goes (.cmpNe h fd s1 s2) (a ≠ b) ∧
     goes (.cmpLt h fd s1 s2) (a.toInt < b.toInt) ∧ goes (.cmpGe h fd s1 s2) (b.toInt ≤ a.toInt) ∧
     goes (.cmpLtu h fd s1 s2) (a.toNat < b.toNat) ∧ goes (.cmpGeu h fd s1 s2) (b.toNat ≤ a.toNat) ∧
     goes (.tst h fd s1 s2) (a &&& b ≠ 0) ∧
     goes (.cmpiEq h fd s1 imm) (a = si) ∧ goes (.cmpiNe h fd s1 imm) (a ≠ si) ∧
     goes (.cmpiLt h fd s1 imm) (a.toInt < si.toInt) ∧ goes (.cmpiGe h fd s1 imm) (si.toInt ≤ a.toInt) ∧
     goes (.cmpiLtu h fd s1 imm) (a.toNat < zi.toNat) ∧ goes (.cmpiGeu h fd s1 imm) (zi.toNat ≤ a.toNat) ∧
     goes (.pand h fd f1 f2) (x.rf f1 ∧ x.rf f2) ∧ goes (.por h fd f1 f2) (x.rf f1 ∨ x.rf f2) ∧
     goes (.pxor h fd f1 f2) (x.rf f1 ≠ x.rf f2) ∧ goes (.pandn h fd f1 f2) (x.rf f1 ∧ ¬ x.rf f2) ∧
     goes (.pnot h fd f1) (¬ x.rf f1) ∧
     (∃ v : Word, (∀ k, v.getLsbD k = (decide (k < 8) && x.rf k)) ∧ exec (.mff h d) s = .next (s.issued h.cell.val 1 fun y => y.wg d v)) ∧
     (∃ m : Nat, (∀ k, m.testBit k = (decide (1 ≤ k ∧ k < 8) && a.getLsbD k)) ∧ exec (.mtf h s1) s = .next (s.issued h.cell.val 1 fun y => { y with f := m }))) ∧
  (∀ (s : State) (h : OpHdr), s.takes h → ∀ (d s1 s2 : Fin 32) (k9 : Fin 9) (k4 : Fin 4) (k2 : Fin 2),
     let x := s.dev.cell h.cell.val
     let a := x.rg s1
     let b := x.rg s2
     let goes := fun (i : Instr) (p : Word → Prop) => ∃ v : Word, p v ∧ exec i s = .next (s.issued h.cell.val 1 fun y => y.wg d v)
     let ext := fun (lo n : Nat) (v : Word) => ∀ j < 72, v.getLsbD j = if j < n then a.getLsbD (lo + j) else false
     let exts := fun (lo n : Nat) (v : Word) => ∀ j < 72, v.getLsbD j = if j < n then a.getLsbD (lo + j) else a.getLsbD (lo + n - 1)
     let ins := fun (lo n : Nat) (v : Word) => ∀ j < 72, v.getLsbD j = if lo ≤ j ∧ j < lo + n then a.getLsbD (j - lo) else b.getLsbD j
     let lane := fun (w : Word) (j : Nat) => (w.extractLsb' (64 - 8 * j) 8 : BitVec 8)
     goes (.extb h d s1 k9) (ext (64 - 8 * k9.val) 8) ∧ goes (.extbs h d s1 k9) (exts (64 - 8 * k9.val) 8) ∧ goes (.insb h d s1 s2 k9) (ins (64 - 8 * k9.val) 8) ∧
     goes (.extq h d s1 k4) (ext (54 - 18 * k4.val) 18) ∧ goes (.extqs h d s1 k4) (exts (54 - 18 * k4.val) 18) ∧ goes (.insq h d s1 s2 k4) (ins (54 - 18 * k4.val) 18) ∧
     goes (.exth h d s1 k2) (ext (36 - 36 * k2.val) 36) ∧ goes (.exths h d s1 k2) (exts (36 - 36 * k2.val) 36) ∧ goes (.insh h d s1 s2 k2) (ins (36 - 36 * k2.val) 36) ∧
     goes (.beqm h d s1 s2) (fun v => ∀ j < 72, v.getLsbD j = decide (j < 9 ∧ lane a j = lane b j)) ∧
     goes (.bswap h d s1) (fun v => ∀ j < 9, lane v j = lane a (8 - j)) ∧
     goes (.ladd h d s1 s2) (fun v => ∀ j < 9, lane v j = lane a j + lane b j) ∧
     goes (.lsub h d s1 s2) (fun v => ∀ j < 9, lane v j = lane a j - lane b j))

/-- R382, R383, R384, R356: the ops of the M slot but the long ops. A multiply is scheduled for the bundle whose number is four above that of its own,
where an accumulation adds to what its product register then holds; a move of a product register and LIMM act in one bundle. -/
def Obligations.MultiplyOpsAct : Prop :=
  ∀ (s : State) (h : OpHdr), s.takes h → ∀ (d s1 s2 : Fin 32) (pd ps : Fin 4) (n : Fin 73) (m : Fin 72) (w : BitVec 52),
    let x := s.dev.cell h.cell.val
    let a := x.rg s1
    let b := x.rg s2
    let p := x.rp ps
    let sp : BitVec 144 := BitVec.ofInt 144 (a.toInt * b.toInt)
    let up : BitVec 144 := BitVec.ofNat 144 (a.toNat * b.toNat)
    let in4 := fun (i : Instr) (e : Eff) => exec i s = .next (s.issued h.cell.val 1 fun y => { y with due := [⟨x.bun + 4, 1, e⟩] })
    let reg := fun (i : Instr) (v : Word) => exec i s = .next (s.issued h.cell.val 1 fun y => y.wg d v)
    let lim := fun (mode : Fin 4) (own : Bool) (v : Word) => own = false → exec (.limm h 1 own d mode w) s = .next (s.issued h.cell.val 2 fun y => y.wg d v)
    in4 (.muls h pd s1 s2) (.p pd sp) ∧ in4 (.mulu h pd s1 s2) (.p pd up) ∧
    in4 (.macs h pd s1 s2) (.pAdd pd sp) ∧ in4 (.macu h pd s1 s2) (.pAdd pd up) ∧ in4 (.msus h pd s1 s2) (.pAdd pd (- sp)) ∧
    in4 (.mull h d s1 s2) (.g d (a * b)) ∧
    reg (.mfph h d ps) (p.extractLsb' 72 72) ∧ reg (.mfpl h d ps) (p.extractLsb' 0 72) ∧
    reg (.mfpx h d ps n) (BitVec.ofInt 72 (p.toInt / 2 ^ n.val)) ∧
    reg (.mfpxr h d ps m) (BitVec.ofInt 72 ((p.toInt + 2 ^ m.val) / 2 ^ (m.val + 1))) ∧
    exec (.mtph h pd s1) s = .next (s.issued h.cell.val 1 fun y => y.wp pd (a ++ (x.rp pd).extractLsb' 0 72)) ∧
    exec (.mtpl h pd s1) s = .next (s.issued h.cell.val 1 fun y => y.wp pd ((x.rp pd).extractLsb' 72 72 ++ a)) ∧
    lim 0 false (w.signExtend 72) ∧ lim 1 false (w.zeroExtend 72) ∧ lim 2 false (w ++ (0 : BitVec 20)) ∧
    lim 3 false (w ++ (x.rg d).extractLsb' 0 20)

/-- R385, R387: a long op starts with its operands as they stand and writes nothing in its bundle. R385, R386, R387: what a long op leaves as it
completes: its result, and DZ and SV ORed into ST and into every value that waits to come into force there. A trapping form with a zero divisor and an
XMULT that overflows leave their destination and hold their exception. -/
def Obligations.LongOpsStartAndComplete : Prop :=
  (∀ (s : State) (h : OpHdr), s.takes h → ∀ (d s1 s2 : Fin 32) (pd ps : Fin 4),
     let x := s.dev.cell h.cell.val
     let starts := fun (i : Instr) (f : Long) (d : Nat) (a : BitVec 144) (b : Word) =>
       exec i s = .next (s.issued h.cell.val 1 fun y => { y with longs := y.longs ++ [⟨f, d, a, b, x.bun, y.depth, y.seq⟩], seq := y.seq + 1 })
     let a := (x.rg s1).zeroExtend 144
     let b := x.rg s2
     starts (.xmul h pd ps s2) .xmul pd (x.rp ps) b ∧ starts (.xmult h pd ps s2) .xmult pd (x.rp ps) b ∧
     starts (.div h d s1 s2) .div d a b ∧ starts (.divu h d s1 s2) .divu d a b ∧ starts (.rem h d s1 s2) .rem d a b ∧
     starts (.remu h d s1 s2) .remu d a b ∧ starts (.divq h d s1 s2) .divq d a b ∧
     starts (.divt h d s1 s2) .divt d a b ∧ starts (.divut h d s1 s2) .divut d a b ∧ starts (.remt h d s1 s2) .remt d a b ∧
     starts (.remut h d s1 s2) .remut d a b ∧ starts (.divqt h d s1 s2) .divqt d a b ∧
     starts (.sqrtu h d s1) .sqrtu d a 0 ∧ starts (.sqrtq h d s1) .sqrtq d a 0) ∧
  (∀ (s : State) (c : Fin 64) (idx : Nat) (l : LongE), s.dev.alive = true → s.dev.clockStopped c = false →
     (s.dev.cell c).closed = false → (s.dev.cell c).longs[idx]? = some l →
     let a : Word := l.a.extractLsb' 0 72
     let b := l.b
     let sat := fun i : Int => BitVec.ofInt 72 (max (-(2 ^ 71)) (min (2 ^ 71 - 1) i))
     let out := fun i : Int => decide (i < -(2 ^ 71) ∨ 2 ^ 71 - 1 < i)
     let ored := fun (sv dz : Bool) (x : Cell) =>
       let m : Word := BitVec.ofNat 72 (2 * b2n sv + b2n dz)
       ({ x with longs := x.longs.filter (fun q => decide (q.seq ≠ l.seq)), st := x.st ||| m, shadow := x.shadow.map (fun q => (q.1, q.2.1, q.2.2 ||| m)) } : Cell)
     let gives := fun (r : Word) (sv dz : Bool) => exec (.longOpComplete c idx) s = .next (s.cellDoes c fun x => (ored sv dz x).wg l.d r)
     let raises := fun (dz : Bool) (cause : Nat) => exec (.longOpComplete c idx) s =
       .next (s.onDev ((s.dev.putCell c (ored false dz (s.dev.cell c))).hold c ⟨cause, 0, false, false, l.bun, l.depth, l.seq⟩))
     (l.f = .div ∨ l.f = .divt → b ≠ 0 → gives (sat (a.toInt.tdiv b.toInt)) (out (a.toInt.tdiv b.toInt)) false) ∧
     (l.f = .divq ∨ l.f = .divqt → b ≠ 0 → gives (sat ((a.toInt * 2 ^ 24).tdiv b.toInt)) (out ((a.toInt * 2 ^ 24).tdiv b.toInt)) false) ∧
     (l.f = .divu ∨ l.f = .divut → b ≠ 0 → gives (BitVec.ofNat 72 (a.toNat / b.toNat)) false false) ∧
     (l.f = .rem ∨ l.f = .remt → b ≠ 0 → gives (a - sat (a.toInt.tdiv b.toInt) * b) false false) ∧
     (l.f = .remu ∨ l.f = .remut → b ≠ 0 → gives (BitVec.ofNat 72 (a.toNat % b.toNat)) false false) ∧
     (l.f = .div ∨ l.f = .divq → b = 0 → gives (if 0 ≤ a.toInt then BitVec.ofInt 72 (2 ^ 71 - 1) else BitVec.ofInt 72 (-(2 ^ 71))) false true) ∧
     (l.f = .divu → b = 0 → gives (BitVec.allOnes 72) false true) ∧
     (l.f = .rem ∨ l.f = .remu → b = 0 → gives a false true) ∧
     (l.f = .divt ∨ l.f = .divut ∨ l.f = .remt ∨ l.f = .remut ∨ l.f = .divqt → b = 0 → raises true 0x0D) ∧
     (l.f = .sqrtu → ∃ n : Nat, n * n ≤ a.toNat ∧ a.toNat < (n + 1) * (n + 1) ∧ gives (BitVec.ofNat 72 n) false false) ∧
     (l.f = .sqrtq → ∃ n : Nat, n * n ≤ a.toNat * 2 ^ 24 ∧ a.toNat * 2 ^ 24 < (n + 1) * (n + 1) ∧ gives (BitVec.ofNat 72 n) false false) ∧
     (l.f = .xmul ∨ (l.f = .xmult ∧ -(2 ^ 143) ≤ l.a.toInt * b.toInt ∧ l.a.toInt * b.toInt < 2 ^ 143) →
       exec (.longOpComplete c idx) s = .next (s.cellDoes c fun x => (ored false false x).wp l.d (BitVec.ofInt 144 (l.a.toInt * b.toInt)))) ∧
     (l.f = .xmult → ¬ (-(2 ^ 143) ≤ l.a.toInt * b.toInt ∧ l.a.toInt * b.toInt < 2 ^ 143) → raises false 0x0E))

/-- R358, R398–R401, R408: the control ops. A branch, CALL, RET or RETX notes its target for the end of its delay bundle, with what it then restores
and does to the return stack; LOOP sets its level's registers and LEN; SYSC is a trap that names the bundle after it; BRK faults, naming its own
bundle, where no debug halt is due. -/
def Obligations.ControlOpsDirectTheCell : Prop :=
  ∀ (s : State) (h : OpHdr), s.takes h → ∀ (s1 gc : Fin 32) (off : BitVec 24) (o17 : BitVec 17) (m : Bool) (lv : Fin 4),
    let c := h.cell.val
    let x := s.dev.cell c
    let rel := fun (k : Int) => (((x.pc : Int) + k) % 2 ^ 36).toNat
    let goes := fun (i : Instr) (q : Delay) => exec i s = .next (s.issued c 1 fun y => { y with delay := some q })
    let enters := fun (i : Instr) (lvl cause epc : Nat) => ∃ t, exec i s = .next t ∧ t.mem = s.mem ∧ t.pending = s.pending ∧ (∀ k ≠ c, t.dev.cell k = s.dev.cell k) ∧
      (t.dev.cell c).pl = lvl ∧ (t.dev.cell c).pc = (x.evb * 1024 + (if lvl = 2 then 0x100 else 0) + 4 * cause) % 2 ^ 36 ∧ stIE.get (t.dev.cell c).st = 0 ∧
      (if lvl = 2 then (t.dev.cell c).mepc = epc ∧ (t.dev.cell c).epc = x.epc ∧ (t.dev.cell c).mestat.toNat = cause * 2 ^ 64 + x.st.toNat % 2 ^ 36
       else (t.dev.cell c).epc = epc ∧ (t.dev.cell c).mepc = x.mepc ∧ (t.dev.cell c).estat.toNat = cause * 2 ^ 64 + x.st.toNat % 2 ^ 36) ∧
      (∀ k, (t.dev.cell c).rg k = x.rg k ∧ (t.dev.cell c).rp k = x.rp k ∧ (t.dev.cell c).rf k = x.rf k)
    goes (.br h off) ⟨x.pc, some (rel off.toInt), none, none⟩ ∧
    goes (.jr h s1) ⟨x.pc, some ((x.rg s1).toNat % 2 ^ 36), none, none⟩ ∧
    (¬ (x.rsw = true ∧ x.rdepth = 16) → goes (.call h off) ⟨x.pc, some (rel off.toInt), none, some true⟩ ∧
      goes (.callr h s1) ⟨x.pc, some ((x.rg s1).toNat % 2 ^ 36), none, some true⟩) ∧
    (x.rdepth ≠ 0 → goes (.ret h) ⟨x.pc, some x.top, none, some false⟩) ∧
    (x.pl = 1 → goes (.retx h) ⟨x.pc, some x.epc, some (x.estat &&& 0xFFFFFFFFF, x.estat.getLsbD 62), none⟩) ∧
    (x.pl = 2 → goes (.retx h) ⟨x.pc, some x.mepc, some (x.mestat &&& 0xFFFFFFFFF, x.mestat.getLsbD 62), none⟩) ∧
    (lv ≠ 3 → exec (.loop h lv gc o17) s = .next (s.issued c 1 fun y =>
      { y.putLoop lv ⟨(x.pc + 1) % 2 ^ 36, (x.pc + o17.toNat) % 2 ^ 36, if (x.rg gc).toNat % 2 ^ 36 = 0 then 1 else (x.rg gc).toNat % 2 ^ 36⟩ with st := stLEN.put y.st 1 })) ∧
    (m = false → enters (.sysc h m) 1 cSYSC (x.pc + 1)) ∧
    (m = true → x.pl ≠ 0 → enters (.sysc h m) 2 cSYSC (x.pc + 1)) ∧
    (s.dev.brkHalts c = false → enters (.brk h) (if x.pl = 2 then 2 else 1) cBRK x.pc)

/-- R70, R344, R345, R363, R364, R368, R370, R391, R403–R407, R424: the system ops of the X and D slots. A reserved op leaves the privilege, the
memory and every other cell alone: its G, F and P registers and flags are free. IN asks its block at issue and its answer is due 24 bundles on, 26 in
a group; OUT to FPnFLT or TMnPIN, which a write merely sets, leaves the merged value there. A WAITC whose threshold is reached is done; else it waits,
and its bundle counts when it completes. R70, R364: a waiting WFE goes on when the latch is set, which it clears, or when an event that would wake it
is pending; else it waits on. -/
def Obligations.SystemOpsActAndWfeWakes : Prop :=
  (∀ (s : State) (h : OpHdr), s.takes h → ∀ (d s1 s2 : Fin 32) (imm : BitVec 14) (mask : BitVec 4) (slot : Fin 4) (dom : Fin 32) (conf down : Bool),
     let c := h.cell.val
     let x := s.dev.cell c
     let goes := fun (i : Instr) (f : Cell → Cell) => exec i s = .next (s.issued c 1 f)
     let adr := (((x.rg s1).toNat : Int) + imm.toInt) % 2 ^ 36
     let ioa := ((((x.rg s1).toNat : Int) + imm.toInt) % 2 ^ 24).toNat
     let page := fun (e : TlbE) => (x.rg s1).toNat % 2 ^ 36 / 2 ^ pageBits e.ins
     let flushes := fun (i : Instr) (hit : TlbE → Bool) => goes i fun y => { y with tlb := y.tlb.filter fun e => !hit e.2, attrs := [], attrNxt := 0 }
     let left := ((if conf then s.dev.rd (adConf dom.val) else s.dev.rd (adLive dom.val)) - x.rg s1).toInt
     let hit := if down then left ≤ 0 else 0 ≤ left
     (hit → goes (.waitc h s1 dom conf down) id) ∧
     (¬ hit → exec (.waitc h s1 dom conf down) s = .next (s.begun c fun y => { y with wait := .waitc x.pc 1 dom conf down false (x.rg s1) })) ∧
     goes (.isync h) (fun y => { y with wl := [], lbuf := none }) ∧ goes (.fence h mask) id ∧
     goes (.dcinv h s1) (fun y => match y.wayOf ((x.rg s1).toNat % 2 ^ 36) with
       | some k => { y with dc := Tab.erase y.dc (4 * Machine.setOf ((x.rg s1).toNat % 2 ^ 36) + k) } | none => y) ∧
     (x.pl ≠ 0 → goes (.dcinva h) (fun y => { y with dc := [], dcNxt := [], attrs := [], attrNxt := 0 })) ∧
     (x.pl ≠ 0 → flushes (.tlbiPageS1 h s1) (fun e => !e.s2 && decide (e.part = x.part ∧ e.pn = page e)) ∧ flushes (.tlbiAllS1 h) (fun e => !e.s2 && decide (e.part = x.part))) ∧
     (x.pl = 2 → flushes (.tlbiPageS2 h s1 s2) (fun e => e.s2 && decide (e.part = (x.rg s2).toNat % 64 ∧ e.pn = page e)) ∧
       flushes (.tlbiPartition h s2) (fun e => decide (e.part = (x.rg s2).toNat % 64)) ∧ flushes (.tlbiAll h) (fun _ => true)) ∧
     (x.pl ≠ 0 → adr < 0x8000 → goes (.ist h d s1 imm) fun y => { y with ists := [⟨adr.toNat, (x.rg d).extractLsb' 0 36, y.bun + 2⟩] }) ∧
     (s.dev.latched c = false → goes (.wfe h) fun y => { y with wait := .wfe }) ∧
     (s.dev.latched c = true → ∃ t, exec (.wfe h) s = .next t ∧ t.mem = s.mem ∧ t.dev.latched c = false ∧ (t.dev.cell c).wait = .none ∧ (t.dev.cell c).pc = x.pc + 1) ∧
     (∃ t, exec (.sev h s1) s = .next t ∧ t.pending = s.pending ∧ t.mem = s.mem ∧ (t.dev.cell c).pc = x.pc + 1 ∧ (∀ k ≠ c, t.dev.cell k = s.dev.cell k) ∧
       ∀ k < 64, t.dev.latched k = (s.dev.latched k || (List.range 64).any fun j => decide (k = s.dev.lead j) && s.dev.cellHere j && decide (s.dev.role j ≤ 1) &&
         decide ((s.dev.cell (s.dev.lead j)).part = x.part) && ((x.rg s1).getLsbD 6 || decide (j = (x.rg s1).toNat % 64)))) ∧
     (∃ t, exec (.reservedOp h slot) s = .next t ∧ t.pending = s.pending ∧ t.mem = s.mem ∧ (∀ k ≠ c, t.dev.cell k = s.dev.cell k) ∧ (t.dev.cell c).pc = x.pc + 1 ∧
       (∀ j, 4 ≤ j → (t.dev.cell c).st.getLsbD j = x.st.getLsbD j) ∧ (t.dev.cell c).rg 0 = 0 ∧ (t.dev.cell c).rf 0 = true ∧
       ∃ y : Cell, (t.dev.cell c) = { x with g := y.g, f := y.f, p := y.p, st := y.st, pc := x.pc + 1, bun := x.bun + 1 }) ∧
     (∃ t l, exec (.ioIn h d s1 imm) s = .next t ∧ t.pending = s.pending ∧ t.mem = s.mem ∧ (t.dev.cell c).loads = [l] ∧ l.io = true ∧ l.addr = ioa ∧ l.d = d.val ∧
       l.due = x.bun + (if 1 < (s.dev.mates c).length then 26 else 24) ∧ (t.dev.cell c).g = x.g ∧
       ∀ r, s.readable (.cell h.cell) ioa r = true → (regDesc r).wide = false → l.known = some (ofHalf (loHalf (s.dev.ioShown r (s.dev.ioKey (.cell h.cell) r)))) ∧ l.bad = false) ∧
     (∀ r, ioa = r → (∃ n : Fin 32, r = fpFlt n.val) ∨ (∃ n : Fin 64, r = tmPin n.val) → s.reaches (.cell h.cell) r = true →
       s.dev.lockHit (.cell h.cell) r (loHalf (x.rg d)) = false →
       ∃ t, exec (.ioOut h d s1 ⟨imm, 0⟩) s = .next t ∧ t.pending = s.pending ∧ t.mem = s.mem ∧
         t.dev.rd r = s.dev.newAt (.cell h.cell) r (loHalf (x.rg d)) ∧ (t.dev.cell c).held = [] ∧ (t.dev.cell c).pc = x.pc + 1)) ∧
  (∀ (s : State) (c : Fin 64), s.dev.alive = true → s.dev.running c.val = true → (s.dev.cell c.val).closed = false → (s.dev.cell c.val).wait = .wfe →
     exec (.wfeWake c) s = .next (s.onDev (
       if s.dev.latched c.val then (s.dev.fp (clEvt c.val) ClEvt.LATCH 0).putCell c.val { s.dev.cell c.val with wait := .none }
       else if s.dev.pick c.val (stIE.put (s.dev.cell c.val).st 1) ≠ none then s.dev.putCell c.val { s.dev.cell c.val with wait := .none }
       else s.dev)))

/-- R330–R333, R338, R402, R471: MFS and MTS, refused below the level that the register needs; ST is in force from the third bundle on, and what a
register keeps of a written value reads back. -/
def Obligations.SpecialRegistersMove : Prop :=
  (∀ (s : State) (h : OpHdr), s.takes h → ∀ (d s1 : Fin 32) (n : Fin 128),
    let c := h.cell.val
    let x := s.dev.cell c
    let faults := fun (i : Instr) => ∃ t, exec i s = .next t ∧ t.pending = s.pending ∧ t.mem = s.mem ∧ (t.dev.cell c).g = x.g ∧ (t.dev.cell c).pl = (if x.pl = 2 then 2 else 1) ∧
      if x.pl = 2 then (t.dev.cell c).mepc = x.pc ∧ (t.dev.cell c).epc = x.epc ∧ (t.dev.cell c).mestat.toNat / 2 ^ 64 = cPRIV
      else (t.dev.cell c).epc = x.pc ∧ (t.dev.cell c).mepc = x.mepc ∧ (t.dev.cell c).estat.toNat / 2 ^ 64 = cPRIV
    (sprReadLevel n.val ≤ x.pl → exec (.mfs h d n) s = .next (s.issued c 1 fun y => y.wg d (s.dev.sprRead c n.val))) ∧
    (x.pl < sprReadLevel n.val → faults (.mfs h d n)) ∧
    (n ≠ 0 → sprWriteLevel n.val ≤ x.pl → exec (.mts h s1 n) s = .next (s.issued c 1 fun y => y.sprPut n.val (x.rg s1))) ∧
    (¬ (x.pl = 1 ∧ stPL.get (x.rg s1) = 2) → exec (.mts h s1 0) s = .next (s.issued c 1 fun y => { y with shadow := [(y.bun + 2, if x.pl = 0 then 0xF else if stPL.get (x.rg s1) = 3 then stPL.put stMask 0 else stMask, x.rg s1)] })) ∧
    (x.pl < sprWriteLevel n.val ∨ n = 0 ∧ x.pl = 1 ∧ stPL.get (x.rg s1) = 2 → faults (.mts h s1 n))) ∧
  (∀ (d : Dev) (c : Nat) (v : Word), let x := d.cell c
    let back := fun (n : Nat) => (d.putCell c (x.sprPut n v)).sprRead c n
    (∀ n, n ∈ [1, 3, 54, 55, 56] ∨ (16 ≤ n ∧ n ≤ 18) ∨ (20 ≤ n ∧ n ≤ 22) ∨ (24 ≤ n ∧ n ≤ 26) ∨ (32 ≤ n ∧ n ≤ 47) → back n = v &&& 0xFFFFFFFFF) ∧
    (∀ n ∈ [2, 4], back n = v &&& 0xFFF000000FFFFFFFFF) ∧ back 5 = v &&& 0xFFFFFFC00 ∧ (∀ n ∈ [48, 49, 51, 52], back n = v &&& 0xFFFFFFF00) ∧ back 50 = v &&& 0x800000000 ∧
    back 53 = v &&& 0xFFFF00000 ∧ back 57 = v &&& 0x3F ∧ back 61 = v ∧ back 8 = v &&& 0x800FFFFFFFFFFFFFFF ∧
    (∀ n ∈ [6, 7, 9, 58, 59, 60], (d.putCell c (x.sprPut n v)).sprRead c n = d.sprRead c n))

/-- R344, R349, R389, R390, R412, R422: loads and stores issue. A store joins the store buffer with the value of d; a load of the own SRAM has its
word, due two bundles on; one of another target is sent to it. A word of the own SRAM comes as its check gives it. `adr` is the word address of s1
plus an offset. -/
def Obligations.LoadsAndStoresIssue : Prop :=
  ∀ (s : State) (h : OpHdr), s.takes h → ∀ (d s1 s2 : Fin 32) (woff : BitVec 10) (k : Fin 16) (imm : BitVec 14) (sh : Fin 4) (a : Attr),
    let c := h.cell.val
    let x := s.dev.cell c
    let adr := fun (off : Int) => ((((x.rg s1).toNat : Int) + off) % 2 ^ 36).toNat
    let adx := ((x.rg s1).toNat + (x.rg s2).toNat * 2 ^ sh.val) % 2 ^ 36
    let word := fun (va : Nat) => s.memWord (aliasOf c + va)
    let near := fun (va : Nat) (w : Wid) (sg : Bool) (y : Cell) => ({ addr := va, io := false, wid := w, sgn := sg, d := d, due := y.bun + 2, bun := y.bun - 1, depth := y.depth,
                                                                       pl := y.pl, known := some (word va).1, poison := (word va).2.1, sent := true, ord := 3,
                                                                       seq := y.seq } : LoadE)
    let oc := fun (va : Nat) => s.dev.orderOf c va
    let far := fun (va : Nat) (w : Wid) (sg : Bool) (y : Cell) => ({ addr := va, io := false, wid := w, sgn := sg, d := d,
                                                                      due := y.bun - 1 + (if (oc va).2 then 5 else s.dev.loadLatency c va), bun := y.bun - 1, depth := y.depth,
                                                                      pl := y.pl, sent := true, fly := some s.dev.reqId, ord := (oc va).1, cache := (oc va).2,
                                                                      attr := some a.entry, seq := y.seq } : LoadE)
    let asks := fun (va : Nat) (d : Dev) => ((d.touch (if (oc va).2 then lineOf va else va) (if (oc va).2 then 8 else 1)).fly (d.sluiceOf va)).2
    let loads := fun (i : Instr) (va : Nat) (w : Wid) (sg : Bool) => (s.dev.ask (s.dev.dataReq c x.pl .read va false)).1 = .permit a →
      (va < 0x4000 → exec i s = .next (s.issuedOn c 1 (fun y => { y with loads := [near va w sg y], seq := y.seq + 1 }) fun _ => (word va).2.2.dev)) ∧
      (0x4000 ≤ va → ((oc va).2 = true → x.hit va = none) → exec i s = .next (s.issuedOn c 1 (fun y => { y with loads := [far va w sg y], seq := y.seq + 1 }) (asks va)))
    let enters := fun (va : Nat) (w : Wid) (y : Cell) => ({ addr := va, wid := w, val := x.rg d, bun := y.bun - 1, depth := y.depth, pl := y.pl, ord := (oc va).1,
                                                             cache := (oc va).2 && (match x.attrAt va with | some e => e.wa | none => false), seq := y.seq } : StoreE)
    let stores := fun (i : Instr) (va : Nat) (w : Wid) => exec i s = .next (s.issued c 1 fun y => { y with stores := [enters va w y], seq := y.seq + 1 })
    loads (.ldw h d s1 imm) (adr imm.toInt) .word false ∧ loads (.ldwx h d s1 s2 sh) adx .word false ∧
    stores (.stw h d s1 imm) (adr imm.toInt) .word ∧ stores (.stwx h d s1 s2 sh) adx .word ∧
    (k.val < 9 → loads (.ldb h d s1 woff k) (adr woff.toInt) (.octet k) false ∧ loads (.ldbs h d s1 woff k) (adr woff.toInt) (.octet k) true ∧
      stores (.stb h d s1 woff k) (adr woff.toInt) (.octet k)) ∧
    (k.val < 4 → loads (.ldq h d s1 woff k) (adr woff.toInt) (.quarter k) false ∧ loads (.ldqs h d s1 woff k) (adr woff.toInt) (.quarter k) true ∧
      stores (.stq h d s1 woff k) (adr woff.toInt) (.quarter k)) ∧
    (k.val < 2 → loads (.ldh h d s1 woff k) (adr woff.toInt) (.half k) false ∧ loads (.ldhs h d s1 woff k) (adr woff.toInt) (.half k) true ∧
      stores (.sth h d s1 woff k) (adr woff.toInt) (.half k))

/-- R38, R39, R345, R412, R421, R422, R432, R478, R479: what comes back to a cell that holds no closed bundle, its furrow's clock running. A response
writes its register, or joins the results that come due, or becomes a held cause, as a poisoned word or one that cannot be corrected does; the oldest
store not yet sent is performed, in every member's SRAM where the own SRAM is stored to; an acknowledged store leaves the buffer; a queued IST reaches
the instruction SRAM of every member. -/
def Obligations.LoadsReturnAndStoresDrain : Prop :=
  ∀ (s : State) (c : Fin 64), s.dev.alive = true → (s.dev.cell c.val).closed = false → s.dev.clockStopped c.val = false → ∀ (fl : Flips) (n : Nat),
    let x := s.dev.cell c.val
    let writes := fun (i : Instr) (at_ : List Nat) (w : Nat → Word) (y : Cell) => ∃ t, exec i s = .next t ∧ t.pending = s.pending ∧ t.dev.cell c.val = y ∧
      (∀ k ≠ c.val, t.dev.cell k = s.dev.cell k) ∧ ∀ a, t.mem.rd a = if a ∈ at_ then w a else s.mem.rd a
    let does := fun (i : Instr) (y : Cell) => writes i [] (fun _ => 0) y
    let ends := fun (l : LoadE) => { x.learn l.attr with loads := x.loads.filter (fun q => decide (q.seq ≠ l.seq)) }
    let holds := fun (l : LoadE) (cause : Nat) => { ends l with held := insHeld ⟨cause, l.addr, false, l.io, l.bun, l.depth, l.seq⟩ x.held }
    let comes := fun (l : LoadE) (slot : Nat) (v : Word) => if l.due ≤ x.bun then (ends l).wg l.d v else { ends l with due := x.due ++ [⟨l.due, slot, .g l.d v⟩] }
    let far := fun (l : LoadE) => l.io = false ∧ l.bad = false ∧ l.known = none ∧ l.sent = true ∧ l.cache = false ∧ s.dev.loadTurn c.val l = true ∧ s.dev.refreshing l.addr = false
    let got := fun (l : LoadE) => s.cellWords c.val l.addr 1 fl
    (∀ l, x.loads[n]? = some l → l.io = false → l.bad = true → s.dev.refreshing l.addr = false ∨ l.known ≠ none → l.sent = true → does (.loadReturn c n fl) (holds l cDACC)) ∧
    (∀ l w, x.loads[n]? = some l → l.io = false → l.bad = false → l.known = some w →
      does (.loadReturn c n fl) (if l.poison then holds l cDERR else comes l 2 (l.wid.extract l.sgn w))) ∧
    (∀ l, x.loads[n]? = some l → far l → s.dev.dramGone l.addr = true → does (.loadReturn c n fl) (holds l cDERR)) ∧
    (∀ l, x.loads[n]? = some l → far l → s.dev.dramGone l.addr = false →
      does (.loadReturn c n fl) (if (got l).2.1.testBit 0 then holds l cDERR else comes l 2 (l.wid.extract l.sgn ((got l).1.getD 0 0)))) ∧
    (∀ l w, x.loads[n]? = some l → l.io = true → l.known = some w →
      let e := flippedIo (loHalf w) (fl.path.extractLsb' 0 43)
      does (.loadReturn c n fl) (if l.bad = true ∨ e.2 = 2 then holds l cIO else comes l 3 (ofHalf e.1))) ∧
    (∀ e a, x.stores.find? (fun e => !e.sent) = some e → s.dev.storeTurn c.val e = true → s.dev.refreshing e.addr = false →
      (s.dev.ask (s.dev.dataReq c.val e.pl .write e.addr (decide (e.wid ≠ .word)))).1 = .permit a →
      let b := busAddr c.val e.addr
      let e1 : StoreE := { e with sent := true, fly := some s.dev.reqId, attr := if e.addr < 0x4000 then none else some a.entry }
      let put := ((s.strike b fl.mem).storePart b e.wid e.val (if (s.dev.cellPort c.val e.addr).isSome then fl.path else 0)).1
      (s.dev.dramGone e.addr = true ∨ put = false → does (.storeDrain c fl) (x.storeSent { e1 with err := cDERR })) ∧
      (s.dev.dramGone e.addr = false → fl = {} → s.flipsAt b = 0 → x.wayOf e.addr = none → e.cache = false →
        (∀ j, s.dev.targetOf b = some (.localData j) → writes (.storeDrain c fl) ((s.dev.mates j).map fun k => aliasOf k + b % 0x4000)
          (fun _ => e.wid.insert (s.mem.rd (aliasOf (s.dev.lead j) + b % 0x4000)) e.val) (x.storeSent e1)) ∧
        (∀ T, s.dev.targetOf b = some T → (∀ k, T ≠ .localData k) → T ≠ .record →
          writes (.storeDrain c fl) [b] (fun _ => e.wid.insert (s.mem.rd b) e.val) (x.storeSent e1)))) ∧
    (∀ e, x.stores.find? (fun e => !e.sent) = some e → s.dev.storeTurn c.val e = true → s.dev.refreshing e.addr = false →
      (∀ a, (s.dev.ask (s.dev.dataReq c.val e.pl .write e.addr (decide (e.wid ≠ .word)))).1 ≠ .permit a) →
      does (.storeDrain c fl) (x.storeSent { e with sent := true, err := cDACC })) ∧
    (∀ e, x.stores[n]? = some e → e.sent = true → (∀ k, e.fly = some k → s.dev.inTurn c.val e.addr k x.onWay = true) → x.walk = none →
      let y : Cell := { x.learn e.attr with stores := x.stores.filter fun q => decide (q.seq ≠ e.seq) }
      does (.storeAck c n) (if e.err = 0 then y else { y with held := insHeld ⟨e.err, e.addr, true, false, e.bun, e.depth, e.seq⟩ x.held })) ∧
    (∀ i l, x.ists = i :: l → i.at' ≤ x.bun →
      writes (.istWrite c) ((s.dev.mates c.val).map fun k => isramOf k + i.addr / 2)
        (fun a => if i.addr % 2 = 0 then ofHalf i.op <<< 36 ||| s.mem.rd a &&& 0xFFFFFFFFF else ofHalf i.op ||| s.mem.rd a &&& 0xFFFFFFFFF000000000) { x with ists := l })

/-- R213, R370, R392–R396: a block op starts with its bundle, which counts when it completes, and steps word by word, its registers holding the
progress; the last word, or the first difference for CMPB, ends it. A step of a group that the caliper finds to differ is a mismatch, and does nothing
else. -/
def Obligations.BlockOpsStepWordByWord : Prop :=
  (∀ (s : State) (h : OpHdr), s.takes h → ∀ (d s1 s2 : Fin 32), d ≠ 0 → s2 ≠ 0 → d ≠ s2 →
    let c := h.cell.val
    let x := s.dev.cell c
    let begins := fun (i : Instr) (f : Blk) => exec i s = .next (if (x.rg s2).toNat % 2 ^ 36 = 0 then s.issued c 1 id
      else s.begun c fun y => { y with blk := some ⟨f, d, s1, s2, x.rg d, x.rg s1, x.rg s2, x.pc, x.pc, x.bun, 1, none, false, none⟩ })
    begins (.bfill h d s1 s2) .bfill ∧
    (s1 ≠ 0 → d ≠ s1 → s1 ≠ s2 → begins (.bmov h d s1 s2) .bmov ∧ begins (.bmovd h d s1 s2) .bmovd ∧ begins (.crcb h d s1 s2) .crcb ∧ begins (.cmpb h d s1 s2) .cmpb)) ∧
  (∀ (s : State) (c : Fin 64) (b : BlkE) (fl flD : Flips) (cal : Caliper), s.dev.alive = true → s.dev.running c.val = true →
    let x := s.dev.cell c.val
    x.blk = some b → x.walk = none → x.late = false → x.wait ≠ .wfe →
    (∀ (port : Fin 5) bits, s.dev.role c.val = 1 → vectorBits port.val bits.toNat ≠ 0 →
      exec (.blockWordStep ⟨c, .differ port bits⟩ fl flD) s = .next (s.onDev (s.dev.mismatch c.val port.val (vectorBits port.val bits.toNat)))) ∧
    (s.dev.role c.val ≠ 1 ∨ cal = .agree → x.wait = .none → x.closed = false → x.delay = none → x.s1On = false → x.s2On = false → x.loads = [] → x.stores = [] →
    b.dly = none → b.lend = false → b.trap = none → b.v2.toNat % 2 ^ 36 ≠ 0 →
    let a := b.v1.toNat % 2 ^ 36
    let t := b.vd.toNat % 2 ^ 36
    let n := b.v2.toNat % 2 ^ 36
    let word := fun (r : List Word × Nat × State) => r.1.getD 0 0
    let good := fun (r : List Word × Nat × State) => r.2.1.testBit 0 = false
    let rA := s.cellWords c.val a 1 fl
    let rD := s.cellWords c.val t 1 flD
    let rB := rD.2.2.cellWords c.val a 1 fl
    let ok := fun (k : Kind) (p : Nat) => p < 0x4000 ∧ ∃ q, (s.dev.ask (s.dev.dataReq c.val x.pl k p false)).1 = .permit q
    let w36 := fun (k : Nat) => BitVec.ofNat 72 (k % 2 ^ 36)
    let ends := fun (y : Cell) => { y with blk := none, pc := (b.b + b.len) % 2 ^ 36 }
    let puts := fun (y : Cell) (p : Nat) (v : Word) => { y with
      stores := [{ addr := p, wid := .word, val := v, bun := b.bun, depth := y.depth, pl := y.pl, ord := 3, cache := false, seq := y.seq }], seq := y.seq + 1 }
    let moves := fun (y : Cell) (vd v1 : Word) => let z := { y with blk := some { b with vd := vd, v1 := v1, v2 := w36 (n + 2 ^ 36 - 1) } }
      if n = 1 then ends z else z
    let does := fun (y : Cell) => ∃ u, exec (.blockWordStep ⟨c, cal⟩ fl flD) s = .next u ∧ u.pending = s.pending ∧ (∀ p, u.mem.rd p = s.mem.rd p) ∧ u.dev.cell c.val = y ∧
      ∀ k ≠ c.val, u.dev.cell k = s.dev.cell k
    let regs := fun (y : Cell) (vd v1 : Word) => (((y.wg b.d vd).wg b.s1 v1).wg b.s2 (w36 (n + 2 ^ 36 - 1)))
    (b.f = .bmov → ok .read a → ok .write t → good rA → does (moves (regs (puts x t (word rA)) (w36 (t + 1)) (w36 (a + 1))) (w36 (t + 1)) (w36 (a + 1)))) ∧
    (b.f = .bmovd → ok .read a → ok .write t → good rA →
      does (moves (regs (puts x t (word rA)) (w36 (t + 2 ^ 36 - 1)) (w36 (a + 2 ^ 36 - 1))) (w36 (t + 2 ^ 36 - 1)) (w36 (a + 2 ^ 36 - 1)))) ∧
    (b.f = .bfill → ok .write t → does (moves (((puts x t b.v1).wg b.d (w36 (t + 1))).wg b.s2 (w36 (n + 2 ^ 36 - 1))) (w36 (t + 1)) b.v1)) ∧
    (b.f = .crcb → ok .read a → good rA → let r := BitVec.ofNat 72 (crcWord b.vd.toNat (word rA)); does (moves (regs x r (w36 (a + 1))) r (w36 (a + 1)))) ∧
    (b.f = .cmpb → ok .read a → ok .read t → good rD → good rB → word rB = word rD → does (moves (regs x (w36 (t + 1)) (w36 (a + 1))) (w36 (t + 1)) (w36 (a + 1)))) ∧
    (b.f = .cmpb → ok .read a → ok .read t → good rD → good rB → word rB ≠ word rD → does (ends x))))

/-- R33, R351, R416, R418, R424, R461–R467, R478: what comes back to fetch and translation of a cell that holds no closed bundle, its furrow's clock
running. A line enters the wide-line buffer with its poisoned words; a page word enters the TLB; an empty or poisoned one is a translation fault,
cause 0x06 of a fetch and 0x07 of any other access. -/
def Obligations.FetchesAndWalksReturn : Prop :=
  ∀ (s : State) (c : Fin 64) (fl : Flips) (cal : Caliper), s.dev.alive = true → (s.dev.cell c.val).closed = false → s.dev.clockStopped c.val = false →
    let x := s.dev.cell c.val
    let does := fun (i : Instr) (y : Cell) => ∃ t, exec i s = .next t ∧ t.pending = s.pending ∧ (∀ a, t.mem.rd a = s.mem.rd a) ∧ t.dev.cell c.val = y ∧
      (∀ k ≠ c.val, t.dev.cell k = s.dev.cell k)
    let fills := fun (y : Cell) (a : Nat) (r : List Word × Nat × State) => { y with wl := Tab.ins y.wl y.wlNxt ⟨a / 8 * 8, r.1, r.2.1⟩, wlNxt := (y.wlNxt + 1) % 4 }
    let op := s.dev.opWord x.part
    (∀ l, x.line = some l → s.dev.refreshing l.addr = false → s.dev.inTurn c.val l.addr l.fly x.onWay = true → s.dev.dramGone l.addr = false →
      does (.fetchLineReturn ⟨c, cal⟩ fl) (fills { x.learn l.attr with line := none } l.addr (s.cellWords c.val l.addr 8 fl))) ∧
    (∀ m n q, s.dev.role c.val ≠ 1 ∨ cal = .agree → s.dev.running c.val = true → s.dev.ff (clCfg c.val) ClCfg.PFEN = true → x.s2On = false → x.s1On = false →
      0x8000 ≤ x.pc → x.pc < 2 ^ 36 → op x.pc = some m → 4 ≤ m % 8 → op ((x.pc + (16 - x.pc % 16)) % 2 ^ 36) = some n → x.wlHolds n = false →
      s.dev.refreshing n = false → s.dev.clearTo c.val n x.onWay = true → s.dev.dramGone n = false →
      (s.dev.ask (s.dev.dataReq c.val x.pl .prefetch n false)).1 = .permit q →
      does (.codePrefetch ⟨⟨c, cal⟩, fl⟩) (fills (x.learn (some q.entry)) n (s.cellWords c.val (n / 8 * 8) 8 fl))) ∧
    (∀ w id, x.walk = some w → w.fly = some id → s.dev.role c.val ≠ 1 ∨ cal = .agree → s.dev.refreshing w.rd = false → s.dev.inTurn c.val w.rd id x.onWay = true →
      (s.dev.fur (c.val / 4)).haltW = 0 → (s.dev.fur (c.val / 4)).clkW = none →
      let r := s.cellWords c.val w.rd 1 fl
      let e := r.1.headD 0
      let gone := r.2.1 ≠ 0 ∨ s.dev.dramGone w.rd = true
      (∀ t, w.s1 = some (2, t) → w.s2 = none → x.s2On = false → ¬ gone → e.toNat / 2 ^ 70 = 2 → badPage w.ins true e = false →
        does (.walkReadReturn ⟨c, cal⟩ fl) { (x.learn w.attr).tlbFill false w.ins w.va e with walk := none }) ∧
      (x.vec = none → x.blk = none → x.delay = none → gone ∨ e.toNat / 2 ^ 70 = 0 →
        ∃ t, exec (.walkReadReturn ⟨c, cal⟩ fl) s = .next t ∧ t.pending = s.pending ∧ (∀ a, t.mem.rd a = s.mem.rd a) ∧ (t.dev.cell c.val).walk = none ∧ (t.dev.cell c.val).trfva = w.va ∧
          (t.dev.cell c.val).pc = (x.evb * 1024 + (if x.pl = 2 then 0x100 else 0) + 4 * (if w.acc = 2 then 6 else 7)) % 2 ^ 36))

/-- R441, R443, R446, R447, R451, R435, R437: events and completion causes enter the cell at a boundary on which the caliper finds nothing, and a
higher event takes an entry over. -/
def Obligations.BoundariesEnterTheHandler : Prop :=
  ∀ (s : State) (c : Fin 64) (cal : Caliper), s.dev.alive = true → s.dev.role c.val ≠ 1 ∨ cal = .agree →
    let x := s.dev.cell c.val
    let same := fun (t : State) => t.pending = s.pending ∧ t.mem = s.mem ∧ (∀ k ≠ c.val, t.dev.cell k = s.dev.cell k) ∧
      (∀ k, (t.dev.cell c.val).rg k = x.rg k ∧ (t.dev.cell c.val).rp k = x.rp k ∧ (t.dev.cell c.val).rf k = x.rf k)
    let saves := fun (t : State) (m : Bool) (epc : Nat) (hi : Nat) => let y := t.dev.cell c.val
      if m then y.mepc = epc ∧ y.mestat.toNat = hi + x.st.toNat % 2 ^ 36 ∧ y.epc = x.epc ∧ y.estat = x.estat
      else y.epc = epc ∧ y.estat.toNat = hi + x.st.toNat % 2 ^ 36 ∧ y.mepc = x.mepc ∧ y.mestat = x.mestat
    let vector := fun (off : Nat) => (x.evb * 1024 + off) % 2 ^ 36
    (∀ e, x.dueCause = none → s.dev.dueEvent c.val = some e → x.blk = none → x.wait = .none → x.resume = false → x.shadow = [] →
      ∃ t, exec (.eventEntry ⟨c, cal⟩) s = .next t ∧ same t ∧ saves t (s.dev.ff (ecRt e) EcRt.LVL) x.pc (cEVENT * 2 ^ 64) ∧
        (t.dev.cell c.val).pc = vector (0x400 + 4 * e) ∧ (t.dev.cell c.val).pl = (if s.dev.ff (ecRt e) EcRt.LVL then 2 else 1) ∧
        (t.dev.cell c.val).ipl = s.dev.fg (ecRt e) EcRt.PRI ∧ (t.dev.cell c.val).ie = false ∧ (t.dev.cell c.val).entry = some ⟨e, x.st⟩ ∧
        t.dev.fg (ecCur c.val) EcCur.EV = e % 256) ∧
    (∀ q, s.dev.atBoundary c.val = true → x.dueCause = some q → q.cause < 64 → x.resume = false → x.shadow = [] →
      ∃ t, exec (.completionCause ⟨c, cal⟩) s = .next t ∧ same t ∧ (t.dev.cell c.val).held = (x.held.filter fun r => decide (r.seq ≠ q.seq)) ∧
        saves t (decide (x.pl = 2)) x.pc (q.cause * 2 ^ 64 + if q.bun + 1 < x.bun then 2 ^ 61 else 0) ∧
        (t.dev.cell c.val).pc = vector ((if x.pl = 2 then 0x100 else 0) + 4 * q.cause) ∧ (t.dev.cell c.val).pl = (if x.pl = 2 then 2 else 1)) ∧
    (∀ n e, x.entry = some n → s.dev.pick c.val n.st = some e → s.dev.running c.val = true → s.dev.fg (ecRt n.ev) EcRt.PRI < s.dev.fg (ecRt e) EcRt.PRI →
      ∃ t, exec (.takeover ⟨c, cal⟩) s = .next t ∧ same t ∧ (t.dev.cell c.val).pc = vector (0x400 + 4 * e) ∧ (t.dev.cell c.val).entry = some ⟨e, n.st⟩ ∧
        (t.dev.cell c.val).ipl = s.dev.fg (ecRt e) EcRt.PRI ∧ (t.dev.cell c.val).depth = x.depth ∧
        (x.pl = (if s.dev.ff (ecRt e) EcRt.LVL then 2 else 1) → (t.dev.cell c.val).epc = x.epc ∧ (t.dev.cell c.val).mepc = x.mepc ∧ (t.dev.cell c.val).estat = x.estat ∧
          (t.dev.cell c.val).mestat = x.mestat) ∧ t.dev.ff (ecCur c.val) EcCur.TKO = true)

/-- R236, R436, R449, R450, R453: a raise sets the event's pending bit in every target of its enabled route and no other; ECDB raises EV236 + k for
each bit written as 1, and is refused to U; a write of a route is in force as it completes, and raises at once an event whose level holds (DEDUCED,
log 188); ECXCTL.DROP discards the held causes of the issuer's cell. -/
def Obligations.EventsReachTheirTargets : Prop :=
  (∀ (d : Dev) (e e' : Fin 256) (c : Fin 64), (d.raise e.val).isPend e'.val c.val = (d.isPend e'.val c.val || decide (e' = e ∧ c.val ∈ d.eventTargets e.val))) ∧
  (∀ (d : Dev) (e : Fin 256) (c : Nat), c ∈ d.eventTargets e.val ↔ d.ff (ecRt e.val) EcRt.EN = true ∧
    if d.ff (ecRt e.val) EcRt.MODE then c < 64 ∧ d.takesEvents c = true ∧ d.lead c = c ∧ (d.cell c).part = d.fg (ecRt e.val) EcRt.TGT
    else (d.takesEvents (d.fg (ecRt e.val) EcRt.TGT) = true ∨ d.joining (d.fg (ecRt e.val) EcRt.TGT) = true) ∧ c = d.lead (d.fg (ecRt e.val) EcRt.TGT)) ∧
  (∀ (s : State) (who : Requester) (mask : BitVec 8), s.reaches who ecDb = true →
    exec (.doorbell who mask) s = .next (if s.dev.ioPl who = 0 then s.wrote ecDb true s.dev
      else s.wrote ecDb false (((List.range 8).filter fun k => mask.getLsbD k).foldl (fun d k => d.raise (236 + k)) s.dev))) ∧
  (∀ (s : State) (who : Requester) (e : Fin 256) (v : Half), s.reaches who (ecRt e.val) = true →
    exec (.routeWrite who e v) s = .next (s.wrote (ecRt e.val) (s.dev.lockHit who (ecRt e.val) v) ((s.dev.wr (ecRt e.val) (s.dev.newAt who (ecRt e.val) v)).relevel e.val))) ∧
  (∀ (s : State) (who : Requester), s.reaches who 0x010803 = true →
    exec (.drop who) s = .next (if s.dev.ioPl who = 0 then s.wrote 0x010803 true s.dev else s.wrote 0x010803 false (s.dev.dropHeld (s.dev.ioCell who))))

/-- R484, R486, R487: a sluice permits a request of a cell, a DMA engine or the debugger, outside the factory test state, just where one enabled
region contains its first word, reaches its last, and gives its class, its group and its rights. -/
def Obligations.SluicesPermitByOneRegion : Prop := ∀ (d : Dev) (s : Nat) (r : Req), r.cls ≠ 3 → d.fg dbStat DbStat.STATE ≠ 3 →
  ((∃ a, d.gate s r = .permit a) ↔ ∃ g, (∀ q < 8, d.regionHas s q r.addr = true ↔ q = g) ∧ g < 8 ∧
    ¬ (r.kind = .write ∧ (s = 80 ∨ s = 81)) ∧
    r.addr + r.n ≤ d.fg (slBase s g) SlBase.BASE + 2 ^ d.fg (slAttr s g) SlAttr.K ∧
    (r.kind = .walk → d.ff (slAttr s g) SlAttr.WALK = true ∧ d.fg (slAttr s g) SlAttr.ORD < 2) ∧
    (r.cls = 0 → d.ff (slPerm s g) SlPerm.CELL = true) ∧ (r.cls = 1 → d.ff (slPerm s g) SlPerm.DMA = true) ∧
    (r.cls = 2 → d.ff (slAttr s g) SlAttr.DBG = true ∧ (d.ff (slAttr s g) SlAttr.SEAL = true → d.fg dbStat DbStat.STATE = 2)) ∧
    (r.cls ≠ 2 → (d.fg (slPerm s g) SlPerm.PGM).testBit r.pg = true) ∧
    (∀ i, i = (match r.kind with | .read => 0 | .walk => 0 | .write => 1 | .fetch => 2 | .prefetch => 2) →
      (d.fg (slPerm s g) SlPerm.RIGHTS).testBit (8 - 3 * min 2 r.pl - i) = true) ∧
    (r.kind = .write → r.part' = true → (d.fg (slPerm s g) SlPerm.RIGHTS).testBit (8 - 3 * min 2 r.pl) = true))

/-- R493–R497: below supervisor level a rule write is refused; a locked region's registers keep their values; SLBASE and K of an enabled region do not
change; a bad enable leaves EN at 0 with its reason; every other write lands in the sluices of the cell's whole group, which note what is in flight;
DRAINED follows the noted requests. -/
def Obligations.SluiceRulesAreEdited : Prop := ∀ (s : State) (who : Requester) (sl : Fin 99) (v : Half),
  let d := s.dev
  let no (a : Nat) : State := s.wrote a true d
  let g := d.fg (slIdx sl.val) SlIdx.IDX
  let old := d.rd (slAttr sl.val g)
  let all (key : Nat → Nat → Nat) (w : Word) : Dev := (d.slPeers sl.val).foldl (fun d q => (d.wr (key q g) w).noteFlight q) d
  let attr (u : Half) : State :=
    let a := 0x0A0003 + 8 * sl.val
    let w := ofHalf u &&& 0xFFFE00000
    let bad := d.enableReason sl.val g w
    if SlAttr.LK.get old ≠ 0 then no a
    else if SlAttr.EN.get old ≠ 0 ∧ SlAttr.K.get w ≠ SlAttr.K.get old then no a
    else if SlAttr.EN.get w = 0 ∨ SlAttr.EN.get old ≠ 0 ∨ bad = 0 then s.wrote a false (all slAttr w)
    else s.wrote a false (((((all slAttr (SlAttr.EN.put w 0)).fp (slIdx sl.val) SlIdx.REJ bad).fp (slIdx sl.val) SlIdx.REJIDX g).latch
      slGev SlGev.CAUSE (slGroup sl.val)).relevel (220 + slGroup sl.val))
  (s.reaches who (0x0A0003 + 8 * sl.val) = true →
    (d.ioPl who < 2 → exec (.regionEnable who sl v) s = .next (no (0x0A0003 + 8 * sl.val)) ∧
      exec (.regionLock who sl v) s = .next (no (0x0A0003 + 8 * sl.val)) ∧
      exec (.sluiceRuleWrite who sl 2 v) s = .next (no (0x0A0003 + 8 * sl.val))) ∧
    (2 ≤ d.ioPl who → exec (.regionEnable who sl v) s = .next (attr (withField SlAttr.EN 1 v)) ∧
      exec (.regionLock who sl v) s = .next (attr (withField SlAttr.LK 1 v)) ∧ exec (.sluiceRuleWrite who sl 2 v) s = .next (attr v))) ∧
  (s.reaches who (0x0A0001 + 8 * sl.val) = true →
    let w := ofHalf v &&& SlBase.BASE.mask
    exec (.sluiceRuleWrite who sl 0 v) s = .next (
      if d.ioPl who < 2 ∨ SlAttr.LK.get old ≠ 0 ∨ (SlAttr.EN.get old ≠ 0 ∧ w ≠ d.rd (slBase sl.val g)) then no (0x0A0001 + 8 * sl.val)
      else s.wrote (0x0A0001 + 8 * sl.val) false (all slBase w))) ∧
  (s.reaches who (0x0A0002 + 8 * sl.val) = true →
    let w := ofHalf v &&& (SlPerm.RIGHTS.mask ||| SlPerm.PGM.mask ||| SlPerm.CELL.mask ||| SlPerm.DMA.mask)
    exec (.sluiceRuleWrite who sl 1 v) s = .next (
      if d.ioPl who < 2 ∨ SlAttr.LK.get old ≠ 0 then no (0x0A0002 + 8 * sl.val)
      else s.wrote (0x0A0002 + 8 * sl.val) false (all slPerm w))) ∧
  (d.alive = true → exec (.drained sl) s = .next (
    if ∃ e ∈ d.noted, e.1 = sl.val then s else s.onDev (d.fp (slIdx sl.val) SlIdx.DRAINED 1)))

/-- R504–R506, R510, R523: TAIL gives descriptors to the port; EN starts a ring with its error bit cleared; the port reads the descriptor at HEAD of a
ring that may go, stops the ring on a bad or refused one, holds one that asks for it and, where its FIFO has room, fetches the frame of a held one and
sends the others; a sent frame ends with its stamp; PTP time is taken `back` ns before. A frame not held that finds no room waits, and its descriptor
is read again (the model's choice, log 189). R512: TRCMD is refused where the ring holds no descriptor, or a transaction claims the held one; REL
sends the held frame, fetched now where the FIFO does not hold it yet, CAN ends it as CANCELLED. -/
def Obligations.RingsSendOrHoldTheirFrames : Prop :=
  (∀ (s : State) (p : Fin 2) (k : Fin 8),
   let d := s.dev
   (∀ who (tx : Bool) (tail : BitVec 12), let a := if tx then trTail p.val k.val else rrTail p.val k.val
     s.reaches who a = true →
     exec (.ringTailWrite who p tx k tail) s = .next (s.wrote a false (d.wr a (d.newAt who a (withField TrTail.TAIL tail.toNat 0)))) ∧
     TrTail.TAIL.get (d.newAt who a (withField TrTail.TAIL tail.toNat 0)) = tail.toNat) ∧
   (∀ who (tx : Bool) (v : Half), let a := if tx then trCfg p.val k.val else rrCfg p.val k.val
     s.reaches who a = true →
     let new := d.newAt who a (withField TrCfg.EN 1 v)
     let hit := d.lockHit who a (withField TrCfg.EN 1 v)
     exec (.ringEnable who p tx k v) s = .next (
       if d.ff a TrCfg.EN = true then
         (if TrCfg.LOGN.get new ≠ d.fg a TrCfg.LOGN then s.wrote a true d else s.wrote a hit (d.wr a new))
       else if tx then s.wrote a hit ((d.wr a new).fp (etStat p.val) EtStat.TRERR (setBit ((d.wr a new).fg (etStat p.val) EtStat.TRERR) k.val false))
       else s.wrote a hit ((d.wr a new).fp (etStat p.val) EtStat.RRERR (setBit ((d.wr a new).fg (etStat p.val) EtStat.RRERR) k.val false)))) ∧
   (d.alive = true → ∀ desc buf : Flips,
     let cfg := d.rd (trCfg p.val k.val)
     let go := d.ethHere p.val && d.ff (etCfg p.val) EtCfg.EN && decide (TrCfg.EN.get cfg ≠ 0) && !(d.fg (etStat p.val) EtStat.TRERR).testBit k.val &&
       !d.ff (trHead p.val k.val) TrHead.HELD && !(d.eth p.val).ready.testBit k.val &&
       decide (d.txHead p.val k.val ≠ d.fg (trTail p.val k.val) TrTail.TAIL) && (!d.ethOff p.val || d.ff (etCfg p.val) EtCfg.LDD) &&
       !(d.prp && decide (p.val = 1))
     let a := descAddr (d.rd (trBase p.val k.val)) cfg (d.txHead p.val k.val)
     let r := s.dmaRead desc (min 2 (TrCfg.PL.get cfg)) (TrCfg.OWNP.get cfg) p.val a 2
     let stop (t : State) : State := t.onDev (t.dev.txStop p.val k.val)
     (go = false → exec (.descriptorRead p k desc buf) s = .next s) ∧
     (go = true → r.1 = none → exec (.descriptorRead p k desc buf) s = .next (stop r.2)) ∧
     (go = true → ∀ w0 ws poisoned, r.1 = some (w0 :: ws, poisoned) →
       let bad := poisoned = true ∨ (⟨71, 70⟩ : Span).get w0 ≠ 1
       (bad → exec (.descriptorRead p k desc buf) s = .next (stop r.2)) ∧
       (¬ bad → w0.toNat.testBit 69 = false → exec (.descriptorRead p k desc buf) s = .next (
         if r.2.dev.fifoRoom p.val w0 then (r.2.txRead p.val k.val w0 buf).txReady p.val k.val false else r.2)) ∧
       (¬ bad → w0.toNat.testBit 69 = true →
         let q := r.2.dmaWrite (min 2 (TrCfg.PL.get cfg)) (TrCfg.OWNP.get cfg) p.val a [(⟨71, 70⟩ : Span).put w0 2]
         let t := q.2.onDev ((q.2.dev.fp (trHead p.val k.val) TrHead.HELD 1).raiseIf (TrCfg.HIE.get cfg ≠ 0) (192 + 8 * p.val + k.val))
         exec (.descriptorRead p k desc buf) s = .next (
           if q.1 = false then stop q.2 else if t.dev.fifoRoom p.val w0 then t.txRead p.val k.val w0 buf else t)))) ∧
   (d.alive = true → ∀ back : Nat, (d.eth p.val).wire = none → exec (.frameSent p back) s = .next s) ∧
   (d.alive = true → ∀ back : Nat, (d.eth p.val).wire = some k.val →
     let w0 := s.rdWord (descAddr (d.rd (trBase p.val k.val)) (d.rd (trCfg p.val k.val)) (d.txHead p.val k.val))
     let t := stampWord (d.ptpNs p.val - back + d.fg (ptLat p.val) PtLat.EGR / 10)
     let e := d.putEth p.val { d.eth p.val with prpSeq := if d.prp then ((d.eth p.val).prpSeq + 1) % 65536 else (d.eth p.val).prpSeq }
     exec (.frameSent p back) s = .next (((s.onDev e).txEnd p.val k.val 0 (if w0.toNat.testBit 68 then some t else none)).ethPick p.val 8))) ∧
  (∀ (s : State) (who : Requester) (p : Fin 2) (k : Fin 8),
   s.reaches who (trCmd p.val k.val) = true →
   let d := s.dev
   let held := d.ff (trHead p.val k.val) TrHead.HELD
   let claimed := d.frameClaimed p.val k.val (d.txHead p.val k.val)
   let w0 := s.rdWord (descAddr (d.rd (trBase p.val k.val)) (d.rd (trCfg p.val k.val)) (d.txHead p.val k.val))
   let s1 := s.onDev (d.fp (trHead p.val k.val) TrHead.HELD 0)
   let sent := (if (s1.dev.fifoSts p.val k.val).isSome then s1 else s1.txRead p.val k.val w0 {}).txReady p.val k.val false
   let ended := s.txEnd p.val k.val 1 none
   (held = false ∨ claimed = true →
     exec (.rel who p k) s = .next (s.wrote (trCmd p.val k.val) true d) ∧ exec (.can who p k) s = .next (s.wrote (trCmd p.val k.val) true d)) ∧
   (held = true → claimed = false →
     exec (.rel who p k) s = .next (sent.wrote (trCmd p.val k.val) false sent.dev) ∧
     exec (.can who p k) s = .next (ended.wrote (trCmd p.val k.val) false ended.dev)))

/-- R501, R502, R507, R508, R514, R516: what a port receives, a bad frame counts an error, a good one passes PRP, MACsec and the headgate in this
order and is stored in the ring that they choose; the police bucket fills up to BURST; a link's change is a cause and lets the wire go on. -/
def Obligations.FramesComeIn : Prop := ∀ (s : State) (p : Fin 2), s.dev.alive = true →
  let d := s.dev
  let q := if d.prp then 0 else p.val
  (∀ octets fcs back desc,
    let f := octets.map BitVec.toNat
    let good := fcs = true ∧ 60 ≤ f.length ∧ f.length ≤ 9216 ∧ octNum f 12 2 ≠ 0x8808
    let t := if d.prp then d.prpTake f else (true, d)
    let cut := if d.prp && (prpTrailer f).isSome then 6 else 0
    let m := t.2.macsec q (f.take (f.length - cut))
    (d.ethHere p.val = false ∨ d.ff (etCfg q) EtCfg.EN = false ∨ d.ethOff p.val = true → exec (.frameReceived p octets fcs back desc) s = .next s) ∧
    (d.ethHere p.val = true → d.ff (etCfg q) EtCfg.EN = true → d.ethOff p.val = false →
      (¬ good → exec (.frameReceived p octets fcs back desc) s = .next (s.onDev ((d.count (etCnt p.val 1) EtCnt.CNT).ethCause q 5))) ∧
      (good → t.1 = false → exec (.frameReceived p octets fcs back desc) s = .next (s.onDev t.2)) ∧
      (good → t.1 = true → m.1 = none → exec (.frameReceived p octets fcs back desc) s = .next (s.onDev m.2)) ∧
      (good → t.1 = true → ∀ g0 sec, m.1 = some (g0, sec) →
        let g := g0 ++ f.drop (f.length - cut)
        let h := m.2.headgate q g sec 0 true 32
        (h.1.ring = none → exec (.frameReceived p octets fcs back desc) s = .next (s.onDev h.2)) ∧
        (∀ k, h.1.ring = some k →
          let stamp := stampWord (h.2.ptpNs p.val - back - h.2.fg (ptLat p.val) PtLat.ING / 10)
          let fl := [(b2n sec, 69), (b2n (d.prp && (prpTrailer f).isSome), 68), (b2n (d.prp && decide (p.val = 1)), 67)]
          exec (.frameReceived p octets fcs back desc) s = .next ((s.onDev h.2).rxStore q k g h.1 fl stamp desc))))) ∧
  (exec (.bucketRefill p) s = .next (s.onDev (d.putEth p.val { d.eth p.val with
    tokens := min (d.fg (hgPol p.val) HgPol.BURST) ((d.eth p.val).tokens + d.fg (hgPol p.val) HgPol.RATE) }))) ∧
  (∀ up anc : Bool, d.ethHere p.val = false ∨ (up = true ∧ d.ethOff p.val = true) → exec (.linkChange p up anc) s = .next s) ∧
  (∀ up anc : Bool, d.ethHere p.val = true → (up = true → d.ethOff p.val = false) →
    let e := (d.fb (etStat p.val) EtStat.LINK up).fb (etStat p.val) EtStat.ANC anc
    let g := if d.ff (etStat p.val) EtStat.LINK = up then e else e.ethCause p.val 7
    exec (.linkChange p up anc) s = .next ((s.onDev g).ethPick (if g.prp then 0 else p.val) 8))

/-- R517, R518, R520: a valid transmit SA restarts its packet numbers at 1; PTpADD is kept within its bounds, with CLAMP and the loss of LOCK beyond
them; a step waits for the next PTP tick; LKTO seconds without a write of PTpADD clear LOCK. -/
def Obligations.SecureAndTimedPortsFollowTheirRegisters : Prop := ∀ (s : State) (who : Requester) (p : Fin 2) (v : Half),
  let d := s.dev
  (s.reaches who (msTxsa p.val) = true →
    let u := withField MsTxsa.V 1 v
    let w := d.newAt who (msTxsa p.val) u &&& (MsTxsa.V.mask ||| MsTxsa.AN.mask ||| MsTxsa.KSLOT.mask)
    let e := (d.wr (msTxsa p.val) w).fp (msTxpn p.val) MsTxpn.PN 1
    exec (.txsaWrite who p v) s = .next (s.wrote (msTxsa p.val) false (e.putEth p.val { d.eth p.val with pnOut := false }))) ∧
  (s.reaches who (ptAdd p.val) = true →
    let n := PtAdd.ADD.get (d.newAt who (ptAdd p.val) v)
    let lo := 17162689315
    let hi := 17197049053
    let set (x : Nat) : Dev := (d.fp (ptAdd p.val) PtAdd.ADD x).putEth p.val { d.eth p.val with addAt := d.tick }
    let clamp (e : Dev) : Dev := ((e.latch (ptStat p.val) PtStat.CAUSE 0).relevel (208 + p.val)).ptpLock p.val false
    exec (.ptpAddWrite who p v) s = .next (s.wrote (ptAdd p.val) false (
      if n < lo then clamp (set lo) else if hi < n then clamp (set hi) else set n))) ∧
  (s.reaches who (ptStep p.val) = true →
    let r := ptStep p.val
    let i := d.holdOf who r
    let h := Tab.get {} d.holds i
    let step (e : Dev) (w : Word) : State := s.wrote r false (e.putEth p.val { e.eth p.val with step := some w })
    (h.v = true ∧ h.addr = r → exec (.ptpStep who p v) s = .next (step { d with holds := Tab.set {} d.holds i {} } (joinHalves h.data v))) ∧
    (¬ (h.v = true ∧ h.addr = r) → exec (.ptpStep who p v) s = .next (step d (ofHalf v)))) ∧
  (d.alive = true →
    let late := (d.eth p.val).addAt + max 1 (d.fg (ptCtl p.val) PtCtl.LKTO) * 100000000 ≤ d.tick
    (¬ late ∨ d.ff (ptCtl p.val) PtCtl.LOCK = false → exec (.lockTimeout p) s = .next s) ∧
    (late → d.ff (ptCtl p.val) PtCtl.LOCK = true →
      exec (.lockTimeout p) s = .next (s.onDev (((d.fb (ptCtl p.val) PtCtl.LOCK false).latch (ptStat p.val) PtStat.CAUSE 2).relevel (208 + p.val)))))

/-- R269, R270, R526, R528, R602: nRESET resets the device but for what the spec keeps, waiting for a MARK entry that is not durable; its release
samples the straps and begins a start at step 3; RESTART begins one under an update session. Commands while nRESET is low have no effect (DESIGN
CHOICE, log entry 6). -/
def Obligations.ResetsLeadToAStart : Prop := ∀ (s : State) (who : Requester) (strap : Fin 4),
  let d := s.dev
  (d.boot.on = true → (∃ n < 32, d.txState n = 4 ∧ (d.txn n).done = none) →
    exec .nreset s = .next (s.onDev { d with boot := { d.boot with held := true } })) ∧
  (d.boot.on = true → (∀ n < 32, d.txState n = 4 → (d.txn n).done ≠ none) →
    let r := s.resetAll true d.inFault false 3
    let e := r.dev.fp drStat DrStat.CHG 0
    let g : Dev := { e with boot := { e.boot with low := true } }
    exec .nreset s = .next (r.onDev (if d.inFault then (g.fp fcStat FcStat.FRST 1).syncBalls else g))) ∧
  (d.boot.on = false → exec .nreset s = .next s) ∧
  (d.boot.on = true → d.boot.low = true → exec (.nresetRelease strap) s =
    .next (s.onDev { d with boot := { d.boot with low := false, strap := strap.val, step := 3, t0 := d.tick } })) ∧
  (s.reaches who btCmd = true →
    let p := d.ioPart who
    let a := d.actor p
    let e := (d.sessionActs p).audit { typ := 0x42, part := p, role := a.1, serial := a.2, new := d.rd btGen }
    let t := (s.onDev e).resetAll true e.inFault false 3
    (d.mayUpdate p = true → exec (.restart who) s = .next (t.wrote btCmd false t.dev)) ∧
    (d.mayUpdate p = false → exec (.restart who) s = .next (s.wrote btCmd true d)))

/-- R195, R260, R279, R526, R527, R529, R539, R543, R545–R547: a start runs its steps in their order: each step's command acts at its own step only,
and leads to the next one, back to the choice of a slot where the slot under load fails, or into the recovery or factory state, which a start that has
not tested its memories reaches through the tests of step 7 (DEDUCED, log 186). -/
def Obligations.AStartRunsItsStepsInOrder : Prop := ∀ (s : State) (strap : Fin 4) (ok errA errB bad : Bool) (tp : TamperIn) (fmhz : BitVec 9)
    (dummy : BitVec 5) (cells : BitVec 64) (furs : BitVec 16) (drams : BitVec 4),
  let d := s.dev
  let off (k : Nat) : Prop := d.alive = false ∨ d.boot.step ≠ k
  let on (k : Nat) : Prop := d.alive = true ∧ d.boot.step = k
  (off 2 → exec (.railRegulation strap) s = .next s) ∧ (off 3 → exec .spllLock s = .next s) ∧ (off 4 → exec (.selfTest ok tp) s = .next s) ∧
  (off 5 → exec (.xspiInit errA errB fmhz dummy) s = .next s) ∧ (off 6 → exec (.slotChoice bad) s = .next s) ∧
  (off 7 → exec (.bistAtStart cells furs drams) s = .next s) ∧ (off 8 → exec (.sectionLoad bad) s = .next s) ∧
  (off 9 → exec .recordsApply s = .next s) ∧ (off 10 → exec .journalReplay s = .next s) ∧ (off 11 → exec .bindingsApply s = .next s) ∧
  (off 12 → exec .firstApplicationBundle s = .next s) ∧
  (on 2 → exec (.railRegulation strap) s = .next (s.onDev { d with boot := { d.boot with strap := strap.val, step := 3 } })) ∧
  (on 3 → ∃ t, exec .spllLock s = .next t ∧ t.dev.boot.step = 4 ∧ t.dev.rider.meas = true ∧ t.dev.rider.wait = true ∧
    t.dev.fg btStat BtStat.STRAP = d.boot.strap % 4 ∧ t.mem = s.mem) ∧
  (on 4 → ∃ t, exec (.selfTest ok tp) s = .next t ∧ t.dev.boot.step = 5 ∧ t.dev.ff scStat ScStat.RDY = ok ∧ t.mem = s.mem) ∧
  (on 5 → ∃ t, exec (.xspiInit errA errB fmhz dummy) s = .next t ∧ t.dev.boot.step = 6 ∧ t.dev.fg btXcfg BtXcfg.FMHZ = fmhz.toNat ∧
    t.dev.fg btXcfg BtXcfg.DUMMY = dummy.toNat ∧ t.mem = s.mem) ∧
  (on 6 → d.boot.strap = 0 → ∀ k l, d.boot.cands = k :: l →
    let why := if bad then rjREAD else (d.manifestReason (s.mem.slotWord k)).1
    let e : Dev := { d with boot := { d.boot with cands := l } }
    exec (.slotChoice bad) s = .next (s.onDev (
      if why ≠ 0 then e.fp btStat (if k = 0 then BtStat.REJA else BtStat.REJB) why
      else { d with boot := { d.boot with cands := l, slot := some k, step := 7 } }))) ∧
  (on 6 → ∀ k,
    let out : Dev := { d with boot := { d.boot with slot := none, fate := k } }
    let go (e : Dev) : Dev := if d.boot.tested = true then e else out.toStep 7
    (k = 2 → d.boot.strap = 0 → d.boot.cands = [] → exec (.slotChoice bad) s = .next (s.onDev (go (out.recovery true)))) ∧
    (k = 1 → d.boot.strap ≠ 0 → (d.boot.strap ≠ 2 ∨ d.ff scStat ScStat.PROV = true) →
      exec (.slotChoice bad) s = .next (s.onDev (go (out.recovery false)))) ∧
    (k = 3 → d.boot.strap = 2 → d.ff scStat ScStat.PROV = false →
      exec (.slotChoice bad) s = .next (s.onDev (go (((out.fp btStat BtStat.EMODE 2).fp dbStat DbStat.STATE 3).toStep 13))))) ∧
  (on 7 → ∃ t, exec (.bistAtStart cells furs drams) s = .next t ∧ t.dev.boot.step = (if d.boot.fate = 0 then 8 else 13) ∧
    t.dev.boot.tested = true ∧
    (∀ a, 0x001000000 ≤ a → a ≤ 0x0080FFFFF → cells = 0 → furs = 0 → t.mem.rd a = 0)) ∧
  (on 8 → ∀ k, d.boot.slot = some k → ∃ t, exec (.sectionLoad bad) s = .next t ∧
    ((t.dev.boot.step = 6 ∧ t.dev.boot.slot = none) ∨ (t.dev.boot.step = 9 ∧ t.dev.boot.slot = some k ∧ bad = false))) ∧
  (on 9 → ∃ t, exec .recordsApply s = .next t ∧ t.dev.boot.step = 10) ∧
  (on 10 → exec .journalReplay s = .next (s.onDev (d.replay.toStep 11))) ∧
  (on 11 → ∃ t, exec .bindingsApply s = .next t ∧ t.dev.boot.step = 12) ∧
  (on 12 → ∃ t, exec .firstApplicationBundle s = .next t ∧ t.dev.boot.step = 13 ∧ t.mem = s.mem)

/-- R551–R553: STAGE begins a staging under an update session, CONFIRM and ABORT act under one; each phase of a staging ends in the next, or ends the
staging with its result: erased, programmed, verified, and made valid by the header word that goes last. -/
def Obligations.StagingRunsItsPhases : Prop := ∀ (s : State) (who : Requester),
  let d := s.dev
  let p := d.ioPart who
  let no := s.wrote btCmd true d
  (s.reaches who btCmd = true →
    (∀ n : Fin 16,
      let g : Stage := { adr := d.fg btUadr BtUadr.ADR, len := d.fg btUlen BtUlen.LEN, pl := d.ioPl who, part := p, trialn := n.val }
      let e := (d.sessionActs p).wr btUstat (fields [(1, 35), (1, 32)])
      (d.mayUpdate p = true → exec (.stage who n) s = .next (s.wrote btCmd false { e with boot := { e.boot with stage := some g } })) ∧
      (d.mayUpdate p = false → exec (.stage who n) s = .next no)) ∧
    (∀ k, d.boot.slot = some k → d.mayUpdate p = true → d.ff btStat BtStat.TRIAL = true →
      let a := d.actor p
      let svn := d.fg btSvn BtSvn.SVN
      let e := (d.sessionActs p).audit { typ := 0x41, part := p, role := a.1, serial := a.2, subj := svn, new := d.rd btGen }
      let adv := match manifestOf (s.mem.slotWord k) with | some l => imgADVSVN l | none => false
      let g := if adv then e.fp btSvn BtSvn.MIN (max svn (e.fg btSvn BtSvn.MIN)) else e
      let t : State := { s with mem := s.mem.program k 3 0 }
      exec (.confirm who) s = .next (t.wrote btCmd false (g.fp btStat BtStat.TRIAL 0))) ∧
    (d.boot.slot = none ∨ d.mayUpdate p = false ∨ d.ff btStat BtStat.TRIAL = false → exec (.confirm who) s = .next no) ∧
    (d.hasRight p rightUPDATE = true → exec (.abort who) s = .next (s.wrote btCmd false (d.sessionActs p).stageStop)) ∧
    (d.hasRight p rightUPDATE = false → exec (.abort who) s = .next no)) ∧
  (d.alive = true → ∀ (bad : Bool) (n : Nat),
    (d.boot.stage = none → exec (.stagingPhaseEnd bad n) s = .next s) ∧
    (∀ g : Stage, d.boot.stage = some g →
      let r := if g.phase = 1 ∨ g.phase = 3 ∨ g.phase = 4 then s.bufRead g 0 g.len else (some [], s)
      let t := r.2
      let f : Nat → Word := fun k => (r.1.getD []).getD k 0
      let slot := d.stageSlot
      let fail (t : State) (res rej : Nat) : Host.Outcome State Fault Refusal := .next (t.onDev (t.dev.stageEnd g res rej))
      let on (t : State) : Host.Outcome State Fault Refusal :=
        .next (t.onDev { t.dev.fp btUstat BtUstat.PHASE (g.phase + 1) with boot := { t.dev.boot with stage := some { g with phase := g.phase + 1 } } })
      (g.stop = false → r.1 = none → exec (.stagingPhaseEnd bad n) s = fail t 2 rjREAD) ∧
      (g.stop = false → r.1 ≠ none → bad = true → exec (.stagingPhaseEnd bad n) s = fail t 2 (if g.phase = 4 then rjHASH else rjREAD)) ∧
      (g.stop = false → r.1 ≠ none → bad = false →
        (g.phase = 1 →
          let h := headerReason f true
          let m := t.dev.manifestReason f
          let e := if h ≠ 0 then h else if g.len < hdTLEN f then rjSIZE else if m.1 ≠ 0 then m.1 else dataReason f m.2
          exec (.stagingPhaseEnd bad n) s = if e ≠ 0 then fail t 2 e else on t) ∧
        (g.phase = 2 → exec (.stagingPhaseEnd bad n) s = on { t with mem := t.mem.eraseSlot slot 0 slotSize }) ∧
        (g.phase = 3 → exec (.stagingPhaseEnd bad n) s =
          on { t with mem := (t.dev.stagePlan g f).foldl (fun m p => m.program slot p.1 p.2) t.mem }) ∧
        (g.phase = 4 → exec (.stagingPhaseEnd bad n) s =
          if ∀ p ∈ t.dev.stagePlan g f, t.mem.slotWord slot p.1 = p.2 then on t else fail t 2 rjHASH) ∧
        (g.phase = 5 → exec (.stagingPhaseEnd bad n) s = fail { t with mem := t.mem.program slot 1 (t.dev.stageH1 g) } 1 0)) ∧
      (g.stop = true → g.phase ≠ 2 → g.phase ≠ 3 → exec (.stagingPhaseEnd bad n) s = fail t 3 0) ∧
      (g.stop = true → g.phase = 2 → exec (.stagingPhaseEnd bad n) s = fail { t with mem := t.mem.eraseSlot slot 0 (min n slotSize) } 3 0) ∧
      (g.stop = true → g.phase = 3 → exec (.stagingPhaseEnd bad n) s =
        fail { t with mem := ((t.dev.stagePlan g f).take n).foldl (fun m p => m.program slot p.1 p.2) t.mem } 3 0)))

/-- R558, R560, R561, R587: SSCMD is refused from U and without a partition; OPEN reads a chain that the unit then checks, PROVE opens the challenged
session with its entry, its status and the SESSION cause, or frees the slot with its code; CLOSE, idling, expiry and a challenge's time end what they
concern (the mapping of codes to failures is DESIGN CHOICE, log entry 61). -/
def Obligations.SessionsOpenAndEnd : Prop := ∀ (s : State) (who : Requester) (k : Fin 4),
  let d := s.dev
  let p := d.ioPart who
  let pl := d.ioPl who
  let res (t : State) (c : Nat) : Dev := t.dev.wr ssRes (fields [(c, 31), (k.val, 29)])
  let fin (t : State) (e : Dev) : Host.Outcome State Fault Refusal := .next (t.wrote ssCmd false e)
  let failed (t : State) (c : Nat) : Host.Outcome State Fault Refusal :=
    fin t (((t.dev.ssFree k.val).audit { typ := 0x12, role := 3, subj := c }).wr ssRes (fields [(c, 31), (k.val, 29)]))
  let ended (r : Nat) : Dev :=
    let q := d.fg (ssKstat k.val) SsKstat.PART
    let a := (d.fg (ssKstat k.val) SsKstat.ROLE, d.fg (ssKser k.val) SsKser.SER)
    (((d.ssFree k.val).audit { typ := 0x11, part := q, role := a.1, serial := a.2, subj := k.val * 16 + r }).stageLost q).scCause 1
  (s.reaches who ssCmd = true → pl = 0 ∨ p = 64 →
    exec (.sessOpen who k) s = .next (s.wrote ssCmd true d) ∧ exec (.prove who k) s = .next (s.wrote ssCmd true d) ∧
    exec (.closeSession who k) s = .next (s.wrote ssCmd true d)) ∧
  (s.reaches who ssCmd = true → pl ≠ 0 → p ≠ 64 →
    (d.sec.check ≠ none ∨ d.ssState k.val ≠ 0 ∨ (d.sessionOf p).isSome → exec (.sessOpen who k) s = fin s (res s 9)) ∧
    (d.sec.check = none → d.ssState k.val = 0 → d.sessionOf p = none →
      let r := s.dmaRead {} pl p 2 (d.fg ssBuf SsBuf.ADR) (d.fg ssLen SsLen.LEN)
      ((∀ ws, r.1 ≠ some (ws, false)) → exec (.sessOpen who k) s = fin r.2 (res r.2 10)) ∧
      (∀ ws, r.1 = some (ws, false) →
        let e := r.2.dev.wr ssRes (fields [(1, 35), (k.val, 29)])
        exec (.sessOpen who k) s = fin r.2 { e with sec := { e.sec with check := some (k.val, ws) } })) ∧
    (d.ssState k.val ≠ 1 ∨ Tab.get none d.sec.holder k.val = none → exec (.prove who k) s = fin s d) ∧
    (d.ssState k.val = 1 → Tab.get none d.sec.holder k.val ≠ none → (d.sessionOf p).isSome → exec (.prove who k) s = failed s 9) ∧
    (∀ h : Holder, d.ssState k.val = 1 → Tab.get none d.sec.holder k.val = some h → d.sessionOf p = none →
      let r := s.dmaRead {} pl p 2 (d.fg ssBuf SsBuf.ADR) 43
      let t := r.2
      ((∀ ws, r.1 ≠ some (ws, false)) → exec (.prove who k) s = failed t 10) ∧
      (∀ ws, r.1 = some (ws, false) →
        let ok := rsaVerify h.modulus (octets256 (sha256 (Tab.get [] t.dev.sec.chal k.val ++ laneOctets (t.dev.rd idSer) ++ [p % 256])))
          ((wordOctets ws).take 384)
        let e := t.dev.audit { typ := 0x10, part := p, role := h.role, serial := h.serial, subj := k.val }
        let g := (e.wr (ssKstat k.val) (fields [(2, 34), (h.role, 32), (p, 26), (h.rights % 2 ^ 14, 12)])).wr (ssKser k.val) (fields [(h.serial, 8)])
        let x : Dev := { g with sec := { g.sec with chal := Tab.set [] g.sec.chal k.val [], acted := Tab.set 0 g.sec.acted k.val g.tick } }
        exec (.prove who k) s = if ok = false then failed t 7 else if t.dev.auFree = 0 then failed t 11
          else fin t ((x.wr ssRes (fields [(0, 31), (k.val, 29)])).scCause 1))) ∧
    (exec (.closeSession who k) s = fin s (if d.fg (ssKstat k.val) SsKstat.PART = p ∧ d.ssState k.val = 2 then ended 0 else d))) ∧
  (s.reaches who ssCfg = true → ∀ v, exec (.idleLimitWrite who v) s =
    .next (s.wrote ssCfg (d.lockHit who ssCfg v) ((d.wr ssCfg (d.newAt who ssCfg v)).idleAll))) ∧
  (d.alive = true →
    exec (.challengeTimeout k) s =
      .next (if d.ssState k.val = 1 ∧ Tab.get 0 d.sec.chalEnd k.val ≤ d.tick then s.onDev ((d.ssFree k.val).wr ssRes (fields [(8, 31), (k.val, 29)])) else s) ∧
    exec (.sessionIdleEnd k) s = .next (if max 1 (d.fg ssCfg SsCfg.IDLE) * 6000000000 ≤ d.tick - Tab.get 0 d.sec.acted k.val ∧ d.ssState k.val = 2
      then s.onDev (ended 1) else s) ∧
    (∀ h : Holder, Tab.get none d.sec.holder k.val = some h → d.timely 0 h.notAft = false → d.ssState k.val = 2 →
      exec (.sessionExpiry k) s = .next (s.onDev (ended 2))) ∧
    (d.sec.check = none → exec .chainCheckEnd s = .next s) ∧
    (∀ j ws, d.sec.check = some (j, ws) →
      let x : Dev := { d with sec := { d.sec with check := none } }
      match x.chainCheck ws with
      | (0, some h) => ∃ t, exec .chainCheckEnd s = .next t ∧ t.dev.ssState j = 1 ∧ t.dev.sec.check = none ∧
        Tab.get none t.dev.sec.holder j = some h ∧
        Tab.get 0 t.dev.sec.chalEnd j = d.tick + max 1 (d.fg ssCfg SsCfg.CHTO) * 100000000 ∧ (Tab.get [] t.dev.sec.chal j).length = 32 ∧ t.dev.rd ssRes = fields [(0, 31), (j, 29)] ∧
        t.mem = s.mem
      | (e, _) => exec .chainCheckEnd s = .next (s.onDev (x.wr ssRes (fields [(e, 31), (j, 29)])))))

/-- R573–R575: an operation works on the oldest job, where that is its own and not yet worked on: it reads and writes the job's buffers in the DMA
class of the cell that started it, under keys of the job's partition with the use, and leaves its error code for the job's end. IV of GCM: PRESUMED,
log entry 63; the order of the checks: DESIGN CHOICE, log entry 62. -/
def Obligations.JobsWorkOnTheirBuffers : Prop := ∀ (s : State) (b : Flips), s.dev.alive = true →
  (∀ j js, s.dev.sec.jobs = j :: js → j.done = none →
    let fin (r : Work) : Host.Outcome State Fault Refusal :=
      .next (r.2.onDev { r.2.dev with sec := { r.2.dev.sec with jobs := { j with done := some r.1 } :: js } })
    let key (use : Nat) (ts : List Nat) : Nat := s.dev.keyFault j j.slot use ts
    let kv := s.dev.keyOf j.slot
    let aes (enc : Bool) : Work :=
      let iv := if j.mode = 0 then 0 else if j.mode = 3 then 12 else 16
      let aad := if j.mode = 3 then j.aad else 0
      let n := if j.mode = 3 then j.len + 16 else j.len
      let inN := if enc then j.len else n
      let outN := if enc then n else j.len
      s.jobIn j {} j.aux (iv + aad) fun s p => s.jobIn j b j.src inN fun s l =>
        match aesMode enc j.mode (s.dev.keyOf j.slot) (p.take iv) (p.drop iv) l with
        | some r => s.jobOut j outN r
        | none => (7, (s.jobOut j outN []).2)
    (j.op = 0 → exec (.hash b) s = fin (s.jobIn j b j.src j.len fun s l => s.jobOut j 32 (octets256 (sha256 l)))) ∧
    (j.op = 1 → 3 < j.mode → exec (.enc b) s = fin (10, s)) ∧ (j.op = 2 → 3 < j.mode → exec (.dec b) s = fin (10, s)) ∧
    (j.op = 1 → j.mode < 2 → j.len % 16 ≠ 0 → exec (.enc b) s = fin (6, s)) ∧
    (j.op = 2 → j.mode < 2 → j.len % 16 ≠ 0 → exec (.dec b) s = fin (6, s)) ∧
    (j.op = 1 → j.mode ≤ 3 → (j.mode < 2 → j.len % 16 = 0) →
      exec (.enc b) s = fin (if key 7 [1, 2] ≠ 0 then (key 7 [1, 2], s) else aes true)) ∧
    (j.op = 2 → j.mode ≤ 3 → (j.mode < 2 → j.len % 16 = 0) →
      exec (.dec b) s = fin (if key 6 [1, 2] ≠ 0 then (key 6 [1, 2], s) else aes false)) ∧
    (j.op = 3 → exec (.cmac b) s = fin (if key 5 [1, 2] ≠ 0 then (key 5 [1, 2], s)
      else s.jobIn j b j.src j.len fun s l => s.jobOut j 16 (cmac (s.dev.keyOf j.slot) l))) ∧
    (j.op = 4 → exec (.sign b) s = fin (if key 4 [3] ≠ 0 then (key 4 [3], s)
      else s.jobIn j b j.src 32 fun s l =>
        (s.onDev s.dev.next).jobOut j 387 ((rsaSign s.dev.fresh (s.dev.keyOf j.slot) l).take 384))) ∧
    (j.op = 5 → exec (.verify b) s = fin (if key 3 [3, 4] ≠ 0 then (key 3 [3, 4], s)
      else s.jobIn j b j.src 384 fun s sig => s.jobIn j {} j.aux 32 fun s dig =>
        (if rsaVerify (s.dev.modulusOf j.slot) dig sig then 0 else 7, s))) ∧
    (j.op = 6 → exec (.decrypt b) s = fin (if key 6 [3] ≠ 0 then (key 6 [3], s)
      else s.jobIn j b j.src 384 fun s l => match oaepOpen (s.dev.keyOf j.slot) l with
        | some r => s.jobOut j r.length r
        | none => (7, (s.jobOut j 384 []).2))) ∧
    (j.op = 7 → exec .random s =
      fin ((s.onDev s.dev.next).jobOut j j.len ((List.range j.len).map fun k => Config.randomOctet s.dev.fresh k % 256))) ∧
    (j.op = 8 → let e := s.dev.makeFault j false
      let r := s.dev.random (if j.k128 then 16 else 32)
      exec .genaes s = fin (if e ≠ 0 then (e, s) else (0, s.onDev (r.2.makeKey j (if j.k128 then 1 else 2) r.1)))) ∧
    (j.op = 9 → let e := s.dev.makeFault j false
      let r := s.dev.random 384
      exec .genrsa s = fin (if e ≠ 0 then (e, s) else (0, s.onDev (r.2.makeKey j 3 r.1)))) ∧
    (j.op = 10 → let e := s.dev.makeFault j (s.dev.ff (skInfo j.slot2) SkInfo.PAY)
      let q := s.dev.keyFault j j.slot2 2 [1, 2]
      exec (.unwrap b) s = fin (if j.len ≠ 24 ∧ j.len ≠ 40 then (6, s) else if q ≠ 0 then (q, s) else if e ≠ 0 then (e, s)
        else s.jobIn j b j.src j.len fun s l => match keyUnwrap (s.dev.keyOf j.slot2) l with
          | some r => (0, s.onDev (s.dev.makeKey j (if j.len = 24 then 1 else 2) r))
          | none => (7, s))) ∧
    (j.op = 12 → let e := s.dev.makeFault j false
      exec (.pubload b) s = fin (if e ≠ 0 then (e, s) else s.jobIn j b j.src 384 fun s l => (0, s.onDev (s.dev.makeKey j 4 l)))) ∧
    (j.op = 13 → let e := s.dev.slotFault j
      exec .pubread s = fin (if e ≠ 0 then (e, s) else if s.dev.fg (skInfo j.slot) SkInfo.TYPE < 3 then (2, s)
        else s.jobOut j 387 (if s.dev.fg (skInfo j.slot) SkInfo.TYPE = 4 then kv else Config.rsaModulus kv))) ∧
    (j.op = 14 → let e := s.dev.slotFault j
      let a := s.dev.actor j.part
      exec .delete s = fin (if e ≠ 0 then (e, s)
        else (0, s.onDev ((s.dev.audit { typ := 0x81, part := j.part, role := a.1, serial := a.2, subj := j.slot }).zeroise j.slot))))) ∧
  (∀ op, (∀ j js, s.dev.sec.jobs = j :: js → j.op ≠ op ∨ j.done ≠ none) →
    (op = 0 → exec (.hash b) s = .next s) ∧ (op = 1 → exec (.enc b) s = .next s) ∧ (op = 7 → exec .random s = .next s) ∧
    (op = 14 → exec .delete s = .next s) ∧ (op = 19 → exec (.revoke b) s = .next s))

/-- R559, R565, R569, R571, R573, R579: the jobs that act on the device itself, the end of a job with its status and cause, checkpoints, exports of
the audit log and the time floor. -/
def Obligations.JobsActOnTheDeviceAndEnd : Prop := ∀ (s : State) (b : Flips), s.dev.alive = true →
  let d := s.dev
  (∀ j js, d.sec.jobs = j :: js → j.done = none →
    let fin (r : Work) : Host.Outcome State Fault Refusal :=
      .next (r.2.onDev { r.2.dev with sec := { r.2.dev.sec with jobs := { j with done := some r.1 } :: js } })
    let put (s : State) (l : List Word) : Work := let r := s.dmaWrite j.pl j.part 2 j.dst l; (if r.1 then 0 else 5, r.2)
    (j.op = 15 → exec (.attest b) s = fin (s.jobIn j b j.src 32 fun s nonce =>
      let r := s.dev.report nonce
      put (s.onDev s.dev.next) (r ++ packOctets ((pssSign s.dev.fresh (s.dev.keyOf 0) (wordOctets r)).take 384) 43))) ∧
    (j.op = 16 → exec .idcert s = fin (put s d.idCert)) ∧
    (j.op = 17 → exec .ckpt s = fin (0, s.onDev d.checkpointDue)) ∧
    (j.op = 18 → exec .reseal s = fin (
      if d.maker j.part rightRESEAL = false ∨ d.auFree = 0 then (8, s)
      else
        let a := d.actor j.part
        let x : Audit := { typ := 0x51, part := j.part, role := a.1, serial := a.2, old := digest8 d.sec.sd, new := digest8 d.sec.lrd }
        let e := ((d.sessionActs j.part).audit x).fp scStat ScStat.SEALED 1
        (0, s.onDev { e with sec := { e.sec with sd := e.sec.lrd } }))) ∧
    (j.op = 19 → exec (.revoke b) s = fin (
      if d.maker j.part rightREVOKE = false ∨ d.auRoom = false then (8, s)
      else s.jobIn j b j.src 9 fun s l =>
        (0, s.onDev ((s.dev.sessionActs j.part).revoke ((l.take 8).foldl (fun a o => a * 256 + o % 256) 0)))))) ∧
  (∀ j js e, d.sec.jobs = j :: js → j.done = some e →
    let w := d.wr (sjStat j.cell) (fields [(if e = 0 then 1 else 2, 33), (e, 29)])
    exec .jobEnd s = .next (s.onDev (({ w with sec := { w.sec with jobs := js } } : Dev).scCause 0))) ∧
  (d.sec.jobs = [] → exec .jobEnd s = .next s) ∧
  (d.sec.ckBusy = none → exec .checkpointSigned s = .next s) ∧
  (∀ ws, d.sec.ckBusy = some ws →
    let a := 0x0210F0000 + 64 * (d.sec.ckN % 1024)
    let e := ws.zipIdx.foldl (fun d p => d.rsWrite (a + p.2) p.1) d
    let g : Dev := { e with sec := { e.sec with ckBusy := none, ckN := e.sec.ckN + 1 } }
    exec .checkpointSigned s = .next (s.onDev ((if g.sec.ckDue then g.checkpointDue else g).scCause 6))) ∧
  (∀ who (v : Half), s.reaches who auExp = true →
    let n := AuExp.EXP.get (d.newAt who auExp v)
    let pos (a : Nat) : Nat := (a - 0x021040000) / 12
    let e := pos (d.fg auExp AuExp.EXP)
    let ok := 0x021040000 ≤ n ∧ (n - 0x021040000) % 12 = 0 ∧ pos n < 60074 ∧
      (pos n + 60074 - e) % 60074 ≤ (pos (d.fg auHead AuHead.HEAD) + 60074 - e) % 60074
    (ok → exec (.auditExportWrite who v) s = .next (s.wrote auExp (d.lockHit who auExp v)
      ((d.fp auExp AuExp.EXP n).fp auStat AuStat.FREE (d.fp auExp AuExp.EXP n).auFree))) ∧
    (¬ ok → exec (.auditExportWrite who v) s = .next (s.wrote auExp true d))) ∧
  (let q := d.fg txCfg TxCfg.TPORT
   exec .timeFloorRefresh s = .next (if d.ff (ptCtl q) PtCtl.LOCK = true ∧ d.fg scTflr ScTflr.SEC < d.fg (ptTime q) PtTime.SEC
    then s.onDev (d.fp scTflr ScTflr.SEC (d.fg (ptTime q) PtTime.SEC)) else s))

/-- R238, R576–R578, R580–R583, R587: a tamper input bad for FILT + 1 samples zeroises the payment keys, ends the sessions, locks the TAP and sets
LATCH, which a TAMPCLR session clears once every input is good; the TAP's instructions act as the debug state permits, a denied one as BYPASS with
DENY; AUTH's commands lead to a debug state or to a counted failure that blocks them, and every way out locks the TAP again. -/
def Obligations.TamperAndDebugAct : Prop := ∀ s : State,
  let d := s.dev
  let st := d.fg dbStat DbStat.STATE
  let tap (t : Tap) : State := s.onDev (d.putTap t)
  let t := d.sec.tap
  let denied : State := s.onDev ((d.putTap { t with ir := 0xFF, dr := 0 }).fp dbStat DbStat.DENY 1)
  let leave (e : Dev) : Dev := if e.fg dbStat DbStat.STATE = 0 then e else
    ((e.fp dbStat DbStat.STATE 0).audit { typ := 0x71, role := 3, subj := e.fg dbStat DbStat.STATE }).scCause 7
  (d.alive = true →
    (∀ (x : TamperIn) (n : BitVec 6), lowestBit (d.tampered (d.tamperBad x)) 7 = none ∨ n.toNat ≤ d.fg tpCfg TpCfg.FILT →
      exec (.tamperResponse ⟨x, n⟩) s = .next (s.onDev (d.tamperInputs (d.tamperBad x)))) ∧
    (∀ (x : TamperIn) (n : BitVec 6) i, lowestBit (d.tampered (d.tamperBad x)) 7 = some i → d.fg tpCfg TpCfg.FILT < n.toNat →
      let z := (d.tamperInputs (d.tamperBad x)).zeroisePay
      let e := leave ((List.range 4).foldl (fun d k => d.ssEnd k 3) z.1)
      let g := ((if e.ff tpStat TpStat.LATCH then e else e.fp tpStat TpStat.FSRC i).fp tpStat TpStat.LATCH 1).pulseSrc 181 0
      exec (.tamperResponse ⟨x, n⟩) s = .next (s.onDev (((g.audit { typ := 0x60, role := 3, subj := i }).audit
         { typ := 0x61, role := 3, subj := z.2 }).scCause 2)))) ∧
  (∀ who, s.reaches who tpCmd = true →
    let p := d.ioPart who
    let now := d.fg tpStat TpStat.MESH + 16 * d.fg tpStat TpStat.SW + 64 * d.fg tpStat TpStat.ENV
    let a := d.actor p
    let ok := d.tampered now = 0 ∧ d.hasRight p rightTAMPCLR = true ∧ d.auFree ≠ 0
    (ok → exec (.tamperClear who) s = .next (s.wrote tpCmd false ((((d.tamperInputs now).sessionActs p).audit
      { typ := 0x62, part := p, role := a.1, serial := a.2 }).fp tpStat TpStat.LATCH 0))) ∧
    (¬ ok → exec (.tamperClear who) s = .next (s.wrote tpCmd true d))) ∧
  (d.alive = true →
    (st ≠ 3 → exec .extest s = .next denied ∧ ∀ h, exec (.fuseProgramming h) s = .next denied) ∧
    (st = 3 → exec .extest s = .next (s.onDev ((d.putTap { t with ir := 0, dr := Config.boundary d.fresh }).next)) ∧
      ∀ h, exec (.fuseProgramming h) s =
        .next (s.onDev (leave (({ d with sec := { d.sec with root := h } } : Dev).fp scStat ScStat.PROV 1)))) ∧
    (let id := d.fg idCode IdCode.REV % 16 * 2 ^ 28 + 0x7264 * 2 ^ 12 + Config.jep106.toNat * 2 + 1
     exec .idcode s = .next (tap { t with ir := 1, dr := id })) ∧
    exec .samplePreload s = .next (s.onDev ((d.putTap { t with ir := 2, dr := Config.boundary d.fresh }).next)) ∧
    exec .bypass s = .next (tap { t with ir := 0xFF, dr := 0 }) ∧
    (st = 0 → ∀ c, exec (.cellSelect c) s = .next denied) ∧
    (st ≠ 0 → ∀ c : Fin 64, exec (.cellSelect c) s = .next (tap { t with ir := 0x11, dr := c.val, sel := c.val })) ∧
    (st = 3 → exec .trst s = .next (tap { t with ir := 0xFF, dr := 0, chain := [], sig := [], holder := none, chal := [] })) ∧
    (st ≠ 3 → exec .trst s = .next (s.onDev ((leave d).putTap
      { (leave d).sec.tap with ir := 0xFF, dr := 0, chain := [], sig := [], holder := none, chal := [] }))) ∧
    (d.tick < t.until' →
      (∀ w, exec (.authChainWord w) s = .next s ∧ exec (.authSignature w) s = .next s) ∧ exec .authChainEnd s = .next s ∧
      exec .authSubmit s = .next s ∧ exec .authChallenge s = .next s ∧ exec .authExit s = .next s ∧ exec .authLockoutEnd s = .next s) ∧
    (t.until' ≤ d.tick →
      let x := d.putTap { t with ir := 0x10 }
      let fails : State :=
        let e := (x.count dbStat DbStat.AFAIL).audit { typ := 0x12, role := 3, subj := 0xFF }
        let u := d.tick + 100000000 * min 4096 (2 ^ e.fg dbStat DbStat.AFAIL)
        s.onDev ((e.putTap { e.sec.tap with chain := [], sig := [], holder := none, chal := [], until' := u }).raise 254)
      exec .authLockoutEnd s = .next (tap { t with until' := 0 }) ∧
      (∀ w, exec (.authChainWord w) s = .next (tap { t with ir := 0x10, chain := t.chain ++ [w] }) ∧
        exec (.authSignature w) s = .next (tap { t with ir := 0x10, sig := t.sig ++ [w] })) ∧
      (exec .authChallenge s = .next (tap { t with ir := 0x10, dr := ((packOctets t.chal 4).getD t.next 0).toNat, next := (t.next + 1) % 4 })) ∧
      (st = 3 → exec .authExit s = .next (s.onDev x)) ∧ (st ≠ 3 → exec .authExit s = .next (s.onDev (leave x))) ∧
      (exec .authChainEnd s = match x.chainCheck t.chain with
        | (0, some h) => if h.rights.testBit rightDBGI = true ∨ h.rights.testBit rightDBGM = true
            then .next (s.onDev ((x.random 32).2.putTap { t with ir := 0x10, chain := [], holder := some h, chal := (x.random 32).1, next := 0 }))
            else .next fails
        | _ => .next fails) ∧
      (t.holder = none → exec .authSubmit s = .next fails) ∧
      (∀ h : Holder, t.holder = some h →
        let may (r k : Nat) : Bool := h.rights.testBit r && x.tapSigned h k
        exec .authSubmit s = .next (if may rightDBGM 2 then s.onDev (x.tapEnter h 2) else if may rightDBGI 1 then s.onDev (x.tapEnter h 1) else fails))))

/-- R238, R580, R581, R584, R587: the TAP halts, steps and releases the selected cell's group, reads and writes a halted group's registers and
instruction SRAM, and reaches data words and I/O registers through the sluices, as the debug state permits. -/
def Obligations.TheTapReachesCellsAndMemory : Prop := ∀ (s : State) (wr : Bool), s.dev.alive = true →
  let d := s.dev
  let t := d.sec.tap
  let c := d.lead t.sel
  let may := d.debugReaches (d.cell c).part
  let runs := d.cellHere t.sel = true ∧ (d.role t.sel = 0 ∨ d.role t.sel = 1 ∨ (d.fur (t.sel / 4)).suspects.testBit (t.sel % 4) = true)
  let free := d.handsFree (c / 4) = true ∧ d.walking c = false
  let denied : Dev := (d.putTap { t with ir := 0xFF, dr := 0 }).fp dbStat DbStat.DENY 1
  let x (n : Nat) : Dev := d.putTap { t with ir := 0x12, dr := n }
  (may = false → exec .debugHalt s = .next (s.onDev denied) ∧ exec .debugResume s = .next ((s.onDev denied).pump c) ∧
    exec .debugStep s = .next ((s.onDev denied).pump c) ∧
    (∀ i v, exec (.reg wr i v) s = .next (s.onDev denied)) ∧ ∀ i v, exec (.isram wr i v) s = .next (s.onDev denied)) ∧
  (may = true → runs →
    (free → (d.cell c).halted = false → exec .debugHalt s = .next (s.onDev (((x 1).haltGroup c).raise 253))) ∧
    (free → (d.cell c).halted = true → exec .debugHalt s = .next (s.onDev (x 1))) ∧
    (¬ free →
      let w := (d.fur (c / 4)).haltW ||| 2 ^ (c % 4)
      exec .debugHalt s = .next (s.onDev ((x 1).putFur (c / 4) { d.fur (c / 4) with haltW := w }))) ∧
    ((d.cell c).halted = true →
      exec .debugResume s = .next ((s.onDev (((x 2).releaseGroup c).raise 253)).pump c) ∧
      exec .debugStep s = .next ((s.onDev ((x 3).putCell c { d.cell c with once := true })).pump c)) ∧
    ((d.cell c).halted = false →
      exec .debugResume s = .next ((s.onDev (x 2)).pump c) ∧ exec .debugStep s = .next ((s.onDev (x 3)).pump c))) ∧
  (may = true → ¬ runs → exec .debugHalt s = .next (s.onDev (x 1)) ∧ exec .debugResume s = .next ((s.onDev (x 2)).pump c) ∧
    exec .debugStep s = .next ((s.onDev (x 3)).pump c)) ∧
  (may = true → (d.cell c).halted = false →
    (∀ i v, exec (.reg wr i v) s = .next s) ∧ ∀ i v, exec (.isram wr i v) s = .next s) ∧
  (may = true → (d.cell c).halted = true →
    (∀ i v, exec (.reg true i v) s = .next (s.onDev ((d.putCell c ((d.cell c).tapWrite i.toNat v)).tapShows 0x13
        (2 ^ 80 + i.toNat * 2 ^ 72 + v.toNat))) ∧
      exec (.reg false i v) s = .next (s.onDev (d.tapShows 0x13 (i.toNat * 2 ^ 72 + (d.tapRead c i.toNat).toNat)))) ∧
    (∀ i v, ∃ u, exec (.isram true i v) s = .next u ∧ (∀ a, u.mem.rd a = if ∃ k ∈ d.mates c, a = isramOf k + i.toNat then v else s.mem.rd a) ∧
      u.dev = d.tapShows 0x16 (2 ^ 86 + i.toNat * 2 ^ 72 + v.toNat)) ∧
    (∀ i v, exec (.isram false i v) s = .next (s.onDev (d.tapShows 0x16 (i.toNat * 2 ^ 72 + (s.mem.rd (isramOf c + i.toNat)).toNat))))) ∧
  (d.dbState = 0 → (∀ a v e, exec (.mem wr a v e) s = .next (s.onDev denied)) ∧ (∀ a v f, exec (.io wr a ⟨v, f⟩) s = .next (s.onDev denied)) ∧
    ∀ v, exec (.debugExit v) s = .next (s.onDev denied)) ∧
  (d.dbState ≠ 0 →
    (∀ (a : BitVec 36) v (f : Flips),
      let q := d.ask { cls := 2, pl := 2, req := c, kind := if wr then .write else .read, addr := a.toNat }
      let g := s.onDev (q.2.touch a.toNat 1)
      let shows (t : State) (bad : Bool) (w : Word) : State :=
        t.onDev (t.dev.tapShows 0x14 (b2n wr * 2 ^ 109 + b2n bad * 2 ^ 108 + a.toNat * 2 ^ 72 + w.toNat))
      let wrote := (g.strike a.toNat f.mem).storePart a.toNat .word v f.path
      let taken := g.takeWords a.toNat 1 (some dpDEBUG) f
      ((∀ at', q.1 ≠ .permit at') → exec (.mem wr a v f) s = .next (shows (s.onDev q.2) true 0)) ∧
      (∀ at', q.1 = .permit at' →
        (d.dramGone a.toNat = true → exec (.mem wr a v f) s = .next (shows g true 0)) ∧
        (d.dramGone a.toNat = false →
          (wr = true → exec (.mem wr a v f) s = .next (if wrote.1 then shows wrote.2 false v else shows wrote.2 true 0)) ∧
          (wr = false → exec (.mem wr a v f) s =
            .next (if taken.2.1 = 0 then shows taken.2.2 false (taken.1.headD 0) else shows taken.2.2 true 0))))) ∧
    (∀ (a : IoAddr) v f,
      let shown (t : State) (wr bad : Bool) (v : Half) : State :=
        t.onDev (t.dev.tapShows 0x15 (b2n wr * 2 ^ 61 + b2n bad * 2 ^ 60 + a.toNat * 2 ^ 36 + v.toNat))
      let sent := flippedIo v f
      let t := s.onDev (d.found sent.2 171 0)
      let q := t.ioWrite .debug a.toNat sent.1
      let r := d.ioRead .debug a.toNat
      let back := flippedIo r.1 f
      exec (.io true a ⟨v, f⟩) s = .next (if sent.2 = 2 then shown t true true v else shown q.2 true q.1 v) ∧
      exec (.io false a ⟨v, f⟩) s = .next (shown (s.onDev (r.2.2.found back.2 171 0)) false (r.2.1 || decide (back.2 = 2)) back.1)) ∧
    (∀ v, let q := s.ioWrite .debug dbCtl (withField DbCtl.EXIT 1 v)
      exec (.debugExit v) s =
        .next (q.2.onDev (q.2.dev.tapShows 0x15 (2 ^ 61 + b2n q.1 * 2 ^ 60 + dbCtl * 2 ^ 36 + (withField DbCtl.EXIT 1 v).toNat)))))
end

