-- ==== Sys2Proof/Laws/Bits.lean ====
section
/-! SUPPORT. What reading a field of a written word gives. -/

namespace Sys2Proof.Machine

/-- A field lies in a word. -/
abbrev Span.fits (f : Span) : Prop := f.lo ≤ f.hi ∧ f.hi < 72

theorem Span.mask_bit (f : Span) (h : f.fits) (j : Nat) : f.mask.getLsbD j = decide (f.lo ≤ j ∧ j ≤ f.hi) := by
  obtain ⟨h1, h2⟩ := h
  unfold Span.mask Span.width
  rw [BitVec.getLsbD_shiftLeft, BitVec.getLsbD_ushiftRight, BitVec.getLsbD_allOnes]
  rw [Bool.eq_iff_iff]
  simp only [Bool.and_eq_true, decide_eq_true_eq, Bool.not_eq_true', decide_eq_false_iff_not]
  omega

theorem Span.put_bit (f : Span) (h : f.fits) (w : Word) (v j : Nat) :
    (f.put w v).getLsbD j = if f.lo ≤ j ∧ j ≤ f.hi then v.testBit (j - f.lo) else w.getLsbD j := by
  obtain ⟨h1, h2⟩ := h
  unfold Span.put
  rw [BitVec.getLsbD_or, BitVec.getLsbD_and, BitVec.getLsbD_not, BitVec.getLsbD_and, Span.mask_bit f ⟨h1, h2⟩,
    BitVec.getLsbD_shiftLeft, BitVec.getLsbD_ofNat]
  by_cases hj : f.lo ≤ j ∧ j ≤ f.hi
  · have a : j < 72 := by omega
    have b : ¬ j < f.lo := by omega
    have c : j - f.lo < 72 := by omega
    simp [hj, a, b, c]
  · simp only [hj, decide_false, Bool.not_false, Bool.and_false, Bool.or_false, if_false]
    by_cases a : j < 72
    · simp [a]
    · simp [a, BitVec.getLsbD_of_ge w j (by omega)]

theorem Span.get_bit (f : Span) (w : Word) (i : Nat) : (f.get w).testBit i = (decide (i < f.width) && w.getLsbD (f.lo + i)) := by
  unfold Span.get
  rw [Nat.testBit_mod_two_pow, Nat.testBit_shiftRight, BitVec.getLsbD]

/-- A field reads as it was set, modulo its size. -/
theorem Span.get_put_self (f : Span) (w : Word) (v : Nat) (h : f.fits) : f.get (f.put w v) = v % 2 ^ f.width := by
  apply Nat.eq_of_testBit_eq
  intro i
  rw [Span.get_bit, Span.put_bit f h, Nat.testBit_mod_two_pow]
  by_cases hi : i < f.width
  · have h3 : f.lo ≤ f.lo + i ∧ f.lo + i ≤ f.hi := by unfold Span.width at hi; omega
    rw [if_pos h3, Nat.add_sub_cancel_left]
  · simp [hi]

/-- Setting a field leaves a field beside it. -/
theorem Span.get_put_ne (f g : Span) (w : Word) (v : Nat) (h : f.fits) (hd : g.hi < f.lo ∨ f.hi < g.lo) :
    g.get (f.put w v) = g.get w := by
  apply Nat.eq_of_testBit_eq
  intro i
  rw [Span.get_bit, Span.get_bit, Span.put_bit f h]
  by_cases hi : i < g.width
  · rw [if_neg (by unfold Span.width at hi; omega)]
  · simp [hi]

theorem Span.get_lt (f : Span) (w : Word) : f.get w < 2 ^ f.width := Nat.mod_lt _ (Nat.two_pow_pos _)

/-- A one-bit field set to a truth value. -/
theorem Span.get_put_bit (f : Span) (w : Word) (b : Bool) (h : f.hi = f.lo ∧ f.hi < 72) : f.get (f.put w (b2n b)) = b2n b := by
  rw [Span.get_put_self f w _ (by unfold Span.fits; omega)]
  have : f.width = 1 := by unfold Span.width; omega
  rw [this]; cases b <;> rfl

/-- Of two settings of one field the later stands. -/
theorem Span.put_put (f : Span) (w : Word) (v u : Nat) (h : f.fits) : f.put (f.put w v) u = f.put w u := by
  apply BitVec.eq_of_getLsbD_eq
  intro i _
  rw [Span.put_bit f h, Span.put_bit f h, Span.put_bit f h]
  split <;> rfl

end Sys2Proof.Machine
end

