-- ==== Sys2Proof/Laws/Tab.lean ====
section
/-! SUPPORT. What reading and writing a sparse table give: a read after a write, writes that meet, the canonical form. -/

namespace Sys2Proof

variable {α : Type}

theorem Tab.get_filter (d : α) (p : Nat → Bool) (t : Tab α) (k : Nat) :
    Tab.get d (List.filter (fun e => p e.1) t) k = if p k then Tab.get d t k else d := by
  induction t with
  | nil => simp [Tab.get]
  | cons e t ih =>
    obtain ⟨j, v⟩ := e
    by_cases hj : j = k
    · subst hj
      cases hp : p j <;> simp [List.filter, Tab.get, hp, ih]
    · cases hp : p j <;> cases hk : p k <;> simp_all [List.filter, Tab.get]

theorem Tab.get_below (d : α) (t : Tab α) (k j : Nat) : Tab.get d (t.below k) j = if j < k then Tab.get d t j else d := by
  unfold Tab.below; rw [Tab.get_filter d (fun n => decide (n < k))]; simp
theorem Tab.get_beyond (d : α) (t : Tab α) (k j : Nat) : Tab.get d (t.beyond k) j = if k < j then Tab.get d t j else d := by
  unfold Tab.beyond; rw [Tab.get_filter d (fun n => decide (k < n))]; simp

/-- The entries below a key, then others: a key below reads among the first, the rest among the others. -/
theorem Tab.get_below_append (d : α) (t u : Tab α) (k j : Nat) (h : k ≤ j) : Tab.get d (t.below k ++ u) j = Tab.get d u j := by
  induction t with
  | nil => rfl
  | cons e t ih =>
    obtain ⟨i, v⟩ := e
    unfold Tab.below at ih ⊢
    by_cases hi : i < k
    · simp [hi, Tab.get, show ¬ i = j by omega, ih]
    · simpa [hi] using ih

theorem Tab.get_below_append_lt (d : α) (t u : Tab α) (k j : Nat) (h : j < k) (hu : ∀ e ∈ u, k ≤ e.1) :
    Tab.get d (t.below k ++ u) j = Tab.get d t j := by
  have hn : ∀ u : Tab α, (∀ e ∈ u, k ≤ e.1) → Tab.get d u j = d := by
    intro u hu
    induction u with
    | nil => rfl
    | cons e u ih =>
      obtain ⟨i, v⟩ := e
      have := hu (i, v) (by simp)
      simp only [Tab.get, show ¬ i = j by omega, if_false]
      exact ih (fun q hq => hu q (by simp [hq]))
  induction t with
  | nil => simp [Tab.below, Tab.get, hn u hu]
  | cons e t ih =>
    obtain ⟨i, v⟩ := e
    unfold Tab.below at ih ⊢
    by_cases hi : i < k
    · rw [List.filter_cons_of_pos (by simpa using hi), List.cons_append, Tab.get, Tab.get, ih]
    · simp [hi, Tab.get, show ¬ i = j by omega, ih]

theorem Tab.beyond_ge (t : Tab α) (k : Nat) : ∀ e ∈ t.beyond k, k ≤ e.1 := by
  unfold Tab.beyond; intro e he; simp at he; omega

/-- A removed key reads as unlisted. -/
@[simp] theorem Tab.get_erase_self (d : α) (t : Tab α) (k : Nat) : Tab.get d (t.erase k) k = d := by
  unfold Tab.erase; rw [Tab.get_below_append d t _ k k (Nat.le_refl k), Tab.get_beyond]; simp

/-- Removing a key leaves every other. -/
theorem Tab.get_erase_ne (d : α) (t : Tab α) {k j : Nat} (h : j ≠ k) : Tab.get d (t.erase k) j = Tab.get d t j := by
  unfold Tab.erase
  by_cases hl : j < k
  · exact Tab.get_below_append_lt d t _ k j hl (Tab.beyond_ge t k)
  · rw [Tab.get_below_append d t _ k j (by omega), Tab.get_beyond, if_pos (by omega)]

/-- An entered key reads as entered. -/
@[simp] theorem Tab.get_ins_self (d : α) (t : Tab α) (k : Nat) (v : α) : Tab.get d (t.ins k v) k = v := by
  unfold Tab.ins; rw [Tab.get_below_append d t _ k k (Nat.le_refl k)]; simp [Tab.get]

/-- Entering a key leaves every other. -/
theorem Tab.get_ins_ne (d : α) (t : Tab α) {k j : Nat} (v : α) (h : j ≠ k) : Tab.get d (t.ins k v) j = Tab.get d t j := by
  unfold Tab.ins
  by_cases hl : j < k
  · exact Tab.get_below_append_lt d t _ k j hl (by
      intro e he; simp only [List.mem_cons] at he
      rcases he with rfl | he
      · exact Nat.le_refl k
      · exact Tab.beyond_ge t k e he)
  · rw [Tab.get_below_append d t _ k j (by omega), Tab.get, if_neg (Ne.symm h), Tab.get_beyond, if_pos (by omega)]

theorem Tab.below_below (t : Tab α) (k : Nat) : (t.below k).below k = t.below k := by
  unfold Tab.below; rw [List.filter_filter]; congr 1; funext e; simp
theorem Tab.beyond_beyond (t : Tab α) (k : Nat) : (t.beyond k).beyond k = t.beyond k := by
  unfold Tab.beyond; rw [List.filter_filter]; congr 1; funext e; simp
theorem Tab.below_beyond (t : Tab α) (k : Nat) : (t.beyond k).below k = [] := by
  unfold Tab.below Tab.beyond; rw [List.filter_filter, List.filter_eq_nil_iff]; intro e _; simp; omega
theorem Tab.beyond_below (t : Tab α) (k : Nat) : (t.below k).beyond k = [] := by
  unfold Tab.below Tab.beyond; rw [List.filter_filter, List.filter_eq_nil_iff]; intro e _; simp; omega
theorem Tab.below_append (t u : Tab α) (k : Nat) : Tab.below (t ++ u) k = t.below k ++ u.below k := List.filter_append ..
theorem Tab.beyond_append (t u : Tab α) (k : Nat) : Tab.beyond (t ++ u) k = t.beyond k ++ u.beyond k := List.filter_append ..
theorem Tab.below_erase (t : Tab α) (k : Nat) : (t.erase k).below k = t.below k := by
  rw [Tab.erase, Tab.below_append, Tab.below_below, Tab.below_beyond, List.append_nil]
theorem Tab.beyond_erase (t : Tab α) (k : Nat) : (t.erase k).beyond k = t.beyond k := by
  rw [Tab.erase, Tab.beyond_append, Tab.beyond_below, Tab.beyond_beyond, List.nil_append]
theorem Tab.below_ins (t : Tab α) (k : Nat) (v : α) : (t.ins k v).below k = t.below k := by
  have h : Tab.below ((k, v) :: t.beyond k) k = (t.beyond k).below k := by unfold Tab.below; simp
  rw [Tab.ins, Tab.below_append, Tab.below_below, h, Tab.below_beyond, List.append_nil]
theorem Tab.beyond_ins (t : Tab α) (k : Nat) (v : α) : (t.ins k v).beyond k = t.beyond k := by
  have h : Tab.beyond ((k, v) :: t.beyond k) k = (t.beyond k).beyond k := by unfold Tab.beyond; simp
  rw [Tab.ins, Tab.beyond_append, Tab.beyond_below, h, Tab.beyond_beyond, List.nil_append]

/-! ### Sorted tables -/

theorem Tab.above_iff (k : Nat) (t : Tab α) : Tab.above k t = true ↔ ∀ e ∈ t, k < e.1 := by
  induction t with
  | nil => simp [Tab.above]
  | cons e t ih => simp [Tab.above, ih]

theorem Tab.sorted_filter (p : Nat × α → Bool) (t : Tab α) (h : Tab.sorted t = true) : Tab.sorted (List.filter p t) = true := by
  induction t with
  | nil => rfl
  | cons e t ih =>
    simp only [Tab.sorted, Bool.and_eq_true, Tab.above_iff] at h
    cases hp : p e
    · simpa [List.filter_cons, hp] using ih h.2
    · simp only [List.filter_cons, hp, if_true, Tab.sorted, Bool.and_eq_true, Tab.above_iff]
      exact ⟨fun q hq => h.1 q (List.mem_of_mem_filter hq), ih h.2⟩

theorem Tab.sorted_append (t u : Tab α) (ht : Tab.sorted t = true) (hu : Tab.sorted u = true)
    (h : ∀ e ∈ t, ∀ q ∈ u, e.1 < q.1) : Tab.sorted (t ++ u) = true := by
  induction t with
  | nil => exact hu
  | cons e t ih =>
    simp only [Tab.sorted, Bool.and_eq_true, Tab.above_iff] at ht
    simp only [List.cons_append, Tab.sorted, Bool.and_eq_true, Tab.above_iff, List.mem_append]
    exact ⟨fun q hq => hq.elim (ht.1 q) (h e (by simp) q), ih ht.2 (fun a ha => h a (by simp [ha]))⟩

/-- Removing a key keeps the keys rising. -/
theorem Tab.sorted_erase (t : Tab α) (k : Nat) (h : Tab.sorted t = true) : Tab.sorted (t.erase k) = true :=
  Tab.sorted_append _ _ (Tab.sorted_filter _ t h) (Tab.sorted_filter _ t h) (by
    intro e he q hq; simp only [Tab.below, Tab.beyond, List.mem_filter, decide_eq_true_eq] at he hq; omega)

/-- Entering a key keeps the keys rising. -/
theorem Tab.sorted_ins (t : Tab α) (k : Nat) (v : α) (h : Tab.sorted t = true) : Tab.sorted (t.ins k v) = true :=
  Tab.sorted_append _ _ (Tab.sorted_filter _ t h)
    (by
      simp only [Tab.sorted, Bool.and_eq_true, Tab.above_iff, Tab.beyond, List.mem_filter, decide_eq_true_eq]
      exact ⟨fun e he => he.2, Tab.sorted_filter _ t h⟩)
    (by
      intro e he q hq
      simp only [Tab.below, Tab.beyond, List.mem_filter, decide_eq_true_eq, List.mem_cons] at he hq
      rcases hq with rfl | hq <;> omega)

theorem Tab.mem_erase (t : Tab α) (k : Nat) (e : Nat × α) (h : e ∈ t.erase k) : e ∈ t := by
  simp only [Tab.erase, Tab.below, Tab.beyond, List.mem_append, List.mem_filter] at h; exact h.elim And.left And.left

theorem Tab.mem_ins (t : Tab α) (k : Nat) (v : α) (e : Nat × α) (h : e ∈ t.ins k v) : e ∈ t ∨ e = (k, v) := by
  simp only [Tab.ins, Tab.below, Tab.beyond, List.mem_append, List.mem_filter, List.mem_cons] at h
  rcases h with h | h | h
  · exact Or.inl h.1
  · exact Or.inr h
  · exact Or.inl h.1

variable [DecidableEq α]

/-- A read after a write of the same key gives the value written. -/
@[simp] theorem Tab.get_set_self (d : α) (t : Tab α) (k : Nat) (v : α) : Tab.get d (Tab.set d t k v) k = v := by
  unfold Tab.set; split <;> simp_all

/-- A write leaves every other key, whatever an unlisted one reads as. -/
theorem Tab.get_set_ne (d e : α) (t : Tab α) {k j : Nat} (v : α) (h : j ≠ k) : Tab.get e (Tab.set d t k v) j = Tab.get e t j := by
  unfold Tab.set; split <;> simp_all [Tab.get_erase_ne, Tab.get_ins_ne]

/-- Every key after a write. -/
theorem Tab.get_set (d : α) (t : Tab α) (k j : Nat) (v : α) :
    Tab.get d (Tab.set d t k v) j = if j = k then v else Tab.get d t j := by
  split
  · subst j; exact Tab.get_set_self d t k v
  · exact Tab.get_set_ne d d t v ‹_›

/-- Of two writes of one key the later stands. -/
@[simp] theorem Tab.set_set (d : α) (t : Tab α) (k : Nat) (v w : α) : Tab.set d (Tab.set d t k v) k w = Tab.set d t k w := by
  have e1 : ∀ x, (t.ins k x).erase k = t.erase k := fun x => by rw [Tab.erase, Tab.below_ins, Tab.beyond_ins, Tab.erase]
  have e2 : ∀ x y, (t.ins k x).ins k y = t.ins k y := fun x y => by rw [Tab.ins, Tab.below_ins, Tab.beyond_ins, Tab.ins]
  have e3 : (t.erase k).erase k = t.erase k := by rw [Tab.erase, Tab.below_erase, Tab.beyond_erase, Tab.erase]
  have e4 : ∀ x, (t.erase k).ins k x = t.ins k x := fun x => by rw [Tab.ins, Tab.below_erase, Tab.beyond_erase, Tab.ins]
  unfold Tab.set
  split <;> split <;> simp [e1, e2, e3, e4]

/-- A write keeps the canonical form. -/
theorem Tab.wf_set (d : α) (t : Tab α) (k : Nat) (v : α) (h : Tab.wf d t = true) : Tab.wf d (Tab.set d t k v) = true := by
  simp only [Tab.wf, Bool.and_eq_true, List.all_eq_true, decide_eq_true_eq] at h ⊢
  unfold Tab.set
  split
  · exact ⟨Tab.sorted_erase t k h.1, fun e he => h.2 e (Tab.mem_erase t k e he)⟩
  · refine ⟨Tab.sorted_ins t k v h.1, fun e he => ?_⟩
    rcases Tab.mem_ins t k v e he with he | rfl
    · exact h.2 e he
    · assumption

end Sys2Proof
end

