-- ==== Sys2Proof/Laws/State.lean ====
section
/-! SUPPORT. What each update of the state leaves: one lemma for each field. -/

namespace Sys2Proof.Machine

/-! ### The machine with another device part -/

@[simp] theorem State.onDev_pending (s : State) (d : Dev) : (s.onDev d).pending = s.pending := rfl
@[simp] theorem State.onDev_mem (s : State) (d : Dev) : (s.onDev d).mem = s.mem := rfl
@[simp] theorem State.onDev_dev (s : State) (d : Dev) : (s.onDev d).dev = d := rfl
@[simp] theorem State.onDev_onDev (s : State) (d e : Dev) : (s.onDev d).onDev e = s.onDev e := rfl
@[simp] theorem State.onDev_self (s : State) : s.onDev s.dev = s := rfl

/-- A command of the device part, while the device is alive. -/
theorem State.live_of (s : State) (f : Dev → Dev) (h : s.dev.alive = true) : s.live f = s.onDev (f s.dev) := if_pos h
theorem State.live_dead (s : State) (f : Dev → Dev) (h : s.dev.alive = false) : s.live f = s := by simp [State.live, h]
theorem State.liveS_of (s : State) (f : State → State) (h : s.dev.alive = true) : s.liveS f = f s := if_pos h
theorem State.liveS_dead (s : State) (f : State → State) (h : s.dev.alive = false) : s.liveS f = s := by simp [State.liveS, h]
@[simp] theorem State.live_pending (s : State) (f : Dev → Dev) : (s.live f).pending = s.pending := by unfold State.live; split <;> rfl
@[simp] theorem State.live_mem (s : State) (f : Dev → Dev) : (s.live f).mem = s.mem := by unfold State.live; split <;> rfl


/-! ### wr -/

@[simp] theorem Dev.wr_tick (d : Dev) (k : Nat) (w : Word) : (d.wr k w).tick = d.tick := rfl
@[simp] theorem Dev.wr_fresh (d : Dev) (k : Nat) (w : Word) : (d.wr k w).fresh = d.fresh := rfl
@[simp] theorem Dev.wr_edges (d : Dev) (k : Nat) (w : Word) : (d.wr k w).edges = d.edges := rfl
@[simp] theorem Dev.wr_doms (d : Dev) (k : Nat) (w : Word) : (d.wr k w).doms = d.doms := rfl
@[simp] theorem Dev.wr_slots (d : Dev) (k : Nat) (w : Word) : (d.wr k w).slots = d.slots := rfl
@[simp] theorem Dev.wr_tmrs (d : Dev) (k : Nat) (w : Word) : (d.wr k w).tmrs = d.tmrs := rfl
@[simp] theorem Dev.wr_ports (d : Dev) (k : Nat) (w : Word) : (d.wr k w).ports = d.ports := rfl
@[simp] theorem Dev.wr_chans (d : Dev) (k : Nat) (w : Word) : (d.wr k w).chans = d.chans := rfl
@[simp] theorem Dev.wr_pulse (d : Dev) (k : Nat) (w : Word) : (d.wr k w).pulse = d.pulse := rfl
@[simp] theorem Dev.wr_level (d : Dev) (k : Nat) (w : Word) : (d.wr k w).level = d.level := rfl
@[simp] theorem Dev.wr_hilats (d : Dev) (k : Nat) (w : Word) : (d.wr k w).hilats = d.hilats := rfl
@[simp] theorem Dev.wr_holds (d : Dev) (k : Nat) (w : Word) : (d.wr k w).holds = d.holds := rfl
@[simp] theorem Dev.wr_resp (d : Dev) (k : Nat) (w : Word) : (d.wr k w).resp = d.resp := rfl
@[simp] theorem Dev.wr_cells (d : Dev) (k : Nat) (w : Word) : (d.wr k w).cells = d.cells := rfl
@[simp] theorem Dev.wr_furs (d : Dev) (k : Nat) (w : Word) : (d.wr k w).furs = d.furs := rfl
@[simp] theorem Dev.wr_ptpFrac (d : Dev) (k : Nat) (w : Word) : (d.wr k w).ptpFrac = d.ptpFrac := rfl
@[simp] theorem Dev.wr_eths (d : Dev) (k : Nat) (w : Word) : (d.wr k w).eths = d.eths := rfl
@[simp] theorem Dev.wr_pgrp (d : Dev) (k : Nat) (w : Word) : (d.wr k w).pgrp = d.pgrp := rfl
@[simp] theorem Dev.wr_evbs (d : Dev) (k : Nat) (w : Word) : (d.wr k w).evbs = d.evbs := rfl
@[simp] theorem Dev.wr_rows (d : Dev) (k : Nat) (w : Word) : (d.wr k w).rows = d.rows := rfl
@[simp] theorem Dev.wr_refr (d : Dev) (k : Nat) (w : Word) : (d.wr k w).refr = d.refr := rfl
@[simp] theorem Dev.wr_infl (d : Dev) (k : Nat) (w : Word) : (d.wr k w).infl = d.infl := rfl
@[simp] theorem Dev.wr_noted (d : Dev) (k : Nat) (w : Word) : (d.wr k w).noted = d.noted := rfl
@[simp] theorem Dev.wr_reqId (d : Dev) (k : Nat) (w : Word) : (d.wr k w).reqId = d.reqId := rfl
@[simp] theorem Dev.wr_rs (d : Dev) (k : Nat) (w : Word) : (d.wr k w).rs = d.rs := rfl
@[simp] theorem Dev.wr_rsFlips (d : Dev) (k : Nat) (w : Word) : (d.wr k w).rsFlips = d.rsFlips := rfl
@[simp] theorem Dev.wr_txns (d : Dev) (k : Nat) (w : Word) : (d.wr k w).txns = d.txns := rfl
@[simp] theorem Dev.wr_jnl (d : Dev) (k : Nat) (w : Word) : (d.wr k w).jnl = d.jnl := rfl
@[simp] theorem Dev.wr_sysq (d : Dev) (k : Nat) (w : Word) : (d.wr k w).sysq = d.sysq := rfl
@[simp] theorem Dev.wr_rider (d : Dev) (k : Nat) (w : Word) : (d.wr k w).rider = d.rider := rfl
@[simp] theorem Dev.wr_sec (d : Dev) (k : Nat) (w : Word) : (d.wr k w).sec = d.sec := rfl
@[simp] theorem Dev.wr_fc (d : Dev) (k : Nat) (w : Word) : (d.wr k w).fc = d.fc := rfl
@[simp] theorem Dev.wr_bist (d : Dev) (k : Nat) (w : Word) : (d.wr k w).bist = d.bist := rfl
@[simp] theorem Dev.wr_boot (d : Dev) (k : Nat) (w : Word) : (d.wr k w).boot = d.boot := rfl
@[simp] theorem Dev.wr_run (d : Dev) (k : Nat) (w : Word) : (d.wr k w).run = d.run := rfl

/-! ### putDom -/

@[simp] theorem Dev.putDom_io (d : Dev) (n : Nat) (x : Dom) : (d.putDom n x).io = d.io := rfl
@[simp] theorem Dev.putDom_tick (d : Dev) (n : Nat) (x : Dom) : (d.putDom n x).tick = d.tick := rfl
@[simp] theorem Dev.putDom_fresh (d : Dev) (n : Nat) (x : Dom) : (d.putDom n x).fresh = d.fresh := rfl
@[simp] theorem Dev.putDom_edges (d : Dev) (n : Nat) (x : Dom) : (d.putDom n x).edges = d.edges := rfl
@[simp] theorem Dev.putDom_slots (d : Dev) (n : Nat) (x : Dom) : (d.putDom n x).slots = d.slots := rfl
@[simp] theorem Dev.putDom_tmrs (d : Dev) (n : Nat) (x : Dom) : (d.putDom n x).tmrs = d.tmrs := rfl
@[simp] theorem Dev.putDom_ports (d : Dev) (n : Nat) (x : Dom) : (d.putDom n x).ports = d.ports := rfl
@[simp] theorem Dev.putDom_chans (d : Dev) (n : Nat) (x : Dom) : (d.putDom n x).chans = d.chans := rfl
@[simp] theorem Dev.putDom_pulse (d : Dev) (n : Nat) (x : Dom) : (d.putDom n x).pulse = d.pulse := rfl
@[simp] theorem Dev.putDom_level (d : Dev) (n : Nat) (x : Dom) : (d.putDom n x).level = d.level := rfl
@[simp] theorem Dev.putDom_hilats (d : Dev) (n : Nat) (x : Dom) : (d.putDom n x).hilats = d.hilats := rfl
@[simp] theorem Dev.putDom_holds (d : Dev) (n : Nat) (x : Dom) : (d.putDom n x).holds = d.holds := rfl
@[simp] theorem Dev.putDom_resp (d : Dev) (n : Nat) (x : Dom) : (d.putDom n x).resp = d.resp := rfl
@[simp] theorem Dev.putDom_cells (d : Dev) (n : Nat) (x : Dom) : (d.putDom n x).cells = d.cells := rfl
@[simp] theorem Dev.putDom_furs (d : Dev) (n : Nat) (x : Dom) : (d.putDom n x).furs = d.furs := rfl
@[simp] theorem Dev.putDom_ptpFrac (d : Dev) (n : Nat) (x : Dom) : (d.putDom n x).ptpFrac = d.ptpFrac := rfl
@[simp] theorem Dev.putDom_eths (d : Dev) (n : Nat) (x : Dom) : (d.putDom n x).eths = d.eths := rfl
@[simp] theorem Dev.putDom_pgrp (d : Dev) (n : Nat) (x : Dom) : (d.putDom n x).pgrp = d.pgrp := rfl
@[simp] theorem Dev.putDom_evbs (d : Dev) (n : Nat) (x : Dom) : (d.putDom n x).evbs = d.evbs := rfl
@[simp] theorem Dev.putDom_rows (d : Dev) (n : Nat) (x : Dom) : (d.putDom n x).rows = d.rows := rfl
@[simp] theorem Dev.putDom_refr (d : Dev) (n : Nat) (x : Dom) : (d.putDom n x).refr = d.refr := rfl
@[simp] theorem Dev.putDom_infl (d : Dev) (n : Nat) (x : Dom) : (d.putDom n x).infl = d.infl := rfl
@[simp] theorem Dev.putDom_noted (d : Dev) (n : Nat) (x : Dom) : (d.putDom n x).noted = d.noted := rfl
@[simp] theorem Dev.putDom_reqId (d : Dev) (n : Nat) (x : Dom) : (d.putDom n x).reqId = d.reqId := rfl
@[simp] theorem Dev.putDom_rs (d : Dev) (n : Nat) (x : Dom) : (d.putDom n x).rs = d.rs := rfl
@[simp] theorem Dev.putDom_rsFlips (d : Dev) (n : Nat) (x : Dom) : (d.putDom n x).rsFlips = d.rsFlips := rfl
@[simp] theorem Dev.putDom_txns (d : Dev) (n : Nat) (x : Dom) : (d.putDom n x).txns = d.txns := rfl
@[simp] theorem Dev.putDom_jnl (d : Dev) (n : Nat) (x : Dom) : (d.putDom n x).jnl = d.jnl := rfl
@[simp] theorem Dev.putDom_sysq (d : Dev) (n : Nat) (x : Dom) : (d.putDom n x).sysq = d.sysq := rfl
@[simp] theorem Dev.putDom_rider (d : Dev) (n : Nat) (x : Dom) : (d.putDom n x).rider = d.rider := rfl
@[simp] theorem Dev.putDom_sec (d : Dev) (n : Nat) (x : Dom) : (d.putDom n x).sec = d.sec := rfl
@[simp] theorem Dev.putDom_fc (d : Dev) (n : Nat) (x : Dom) : (d.putDom n x).fc = d.fc := rfl
@[simp] theorem Dev.putDom_bist (d : Dev) (n : Nat) (x : Dom) : (d.putDom n x).bist = d.bist := rfl
@[simp] theorem Dev.putDom_boot (d : Dev) (n : Nat) (x : Dom) : (d.putDom n x).boot = d.boot := rfl
@[simp] theorem Dev.putDom_run (d : Dev) (n : Nat) (x : Dom) : (d.putDom n x).run = d.run := rfl

/-! ### putSlot -/

@[simp] theorem Dev.putSlot_io (d : Dev) (n k : Nat) (x : Slot) : (d.putSlot n k x).io = d.io := rfl
@[simp] theorem Dev.putSlot_tick (d : Dev) (n k : Nat) (x : Slot) : (d.putSlot n k x).tick = d.tick := rfl
@[simp] theorem Dev.putSlot_fresh (d : Dev) (n k : Nat) (x : Slot) : (d.putSlot n k x).fresh = d.fresh := rfl
@[simp] theorem Dev.putSlot_edges (d : Dev) (n k : Nat) (x : Slot) : (d.putSlot n k x).edges = d.edges := rfl
@[simp] theorem Dev.putSlot_doms (d : Dev) (n k : Nat) (x : Slot) : (d.putSlot n k x).doms = d.doms := rfl
@[simp] theorem Dev.putSlot_tmrs (d : Dev) (n k : Nat) (x : Slot) : (d.putSlot n k x).tmrs = d.tmrs := rfl
@[simp] theorem Dev.putSlot_ports (d : Dev) (n k : Nat) (x : Slot) : (d.putSlot n k x).ports = d.ports := rfl
@[simp] theorem Dev.putSlot_chans (d : Dev) (n k : Nat) (x : Slot) : (d.putSlot n k x).chans = d.chans := rfl
@[simp] theorem Dev.putSlot_pulse (d : Dev) (n k : Nat) (x : Slot) : (d.putSlot n k x).pulse = d.pulse := rfl
@[simp] theorem Dev.putSlot_level (d : Dev) (n k : Nat) (x : Slot) : (d.putSlot n k x).level = d.level := rfl
@[simp] theorem Dev.putSlot_hilats (d : Dev) (n k : Nat) (x : Slot) : (d.putSlot n k x).hilats = d.hilats := rfl
@[simp] theorem Dev.putSlot_holds (d : Dev) (n k : Nat) (x : Slot) : (d.putSlot n k x).holds = d.holds := rfl
@[simp] theorem Dev.putSlot_resp (d : Dev) (n k : Nat) (x : Slot) : (d.putSlot n k x).resp = d.resp := rfl
@[simp] theorem Dev.putSlot_cells (d : Dev) (n k : Nat) (x : Slot) : (d.putSlot n k x).cells = d.cells := rfl
@[simp] theorem Dev.putSlot_furs (d : Dev) (n k : Nat) (x : Slot) : (d.putSlot n k x).furs = d.furs := rfl
@[simp] theorem Dev.putSlot_ptpFrac (d : Dev) (n k : Nat) (x : Slot) : (d.putSlot n k x).ptpFrac = d.ptpFrac := rfl
@[simp] theorem Dev.putSlot_eths (d : Dev) (n k : Nat) (x : Slot) : (d.putSlot n k x).eths = d.eths := rfl
@[simp] theorem Dev.putSlot_pgrp (d : Dev) (n k : Nat) (x : Slot) : (d.putSlot n k x).pgrp = d.pgrp := rfl
@[simp] theorem Dev.putSlot_evbs (d : Dev) (n k : Nat) (x : Slot) : (d.putSlot n k x).evbs = d.evbs := rfl
@[simp] theorem Dev.putSlot_rows (d : Dev) (n k : Nat) (x : Slot) : (d.putSlot n k x).rows = d.rows := rfl
@[simp] theorem Dev.putSlot_refr (d : Dev) (n k : Nat) (x : Slot) : (d.putSlot n k x).refr = d.refr := rfl
@[simp] theorem Dev.putSlot_infl (d : Dev) (n k : Nat) (x : Slot) : (d.putSlot n k x).infl = d.infl := rfl
@[simp] theorem Dev.putSlot_noted (d : Dev) (n k : Nat) (x : Slot) : (d.putSlot n k x).noted = d.noted := rfl
@[simp] theorem Dev.putSlot_reqId (d : Dev) (n k : Nat) (x : Slot) : (d.putSlot n k x).reqId = d.reqId := rfl
@[simp] theorem Dev.putSlot_rs (d : Dev) (n k : Nat) (x : Slot) : (d.putSlot n k x).rs = d.rs := rfl
@[simp] theorem Dev.putSlot_rsFlips (d : Dev) (n k : Nat) (x : Slot) : (d.putSlot n k x).rsFlips = d.rsFlips := rfl
@[simp] theorem Dev.putSlot_txns (d : Dev) (n k : Nat) (x : Slot) : (d.putSlot n k x).txns = d.txns := rfl
@[simp] theorem Dev.putSlot_jnl (d : Dev) (n k : Nat) (x : Slot) : (d.putSlot n k x).jnl = d.jnl := rfl
@[simp] theorem Dev.putSlot_sysq (d : Dev) (n k : Nat) (x : Slot) : (d.putSlot n k x).sysq = d.sysq := rfl
@[simp] theorem Dev.putSlot_rider (d : Dev) (n k : Nat) (x : Slot) : (d.putSlot n k x).rider = d.rider := rfl
@[simp] theorem Dev.putSlot_sec (d : Dev) (n k : Nat) (x : Slot) : (d.putSlot n k x).sec = d.sec := rfl
@[simp] theorem Dev.putSlot_fc (d : Dev) (n k : Nat) (x : Slot) : (d.putSlot n k x).fc = d.fc := rfl
@[simp] theorem Dev.putSlot_bist (d : Dev) (n k : Nat) (x : Slot) : (d.putSlot n k x).bist = d.bist := rfl
@[simp] theorem Dev.putSlot_boot (d : Dev) (n k : Nat) (x : Slot) : (d.putSlot n k x).boot = d.boot := rfl
@[simp] theorem Dev.putSlot_run (d : Dev) (n k : Nat) (x : Slot) : (d.putSlot n k x).run = d.run := rfl

/-! ### putTmr -/

@[simp] theorem Dev.putTmr_io (d : Dev) (n : Nat) (x : Tmr) : (d.putTmr n x).io = d.io := rfl
@[simp] theorem Dev.putTmr_tick (d : Dev) (n : Nat) (x : Tmr) : (d.putTmr n x).tick = d.tick := rfl
@[simp] theorem Dev.putTmr_fresh (d : Dev) (n : Nat) (x : Tmr) : (d.putTmr n x).fresh = d.fresh := rfl
@[simp] theorem Dev.putTmr_edges (d : Dev) (n : Nat) (x : Tmr) : (d.putTmr n x).edges = d.edges := rfl
@[simp] theorem Dev.putTmr_doms (d : Dev) (n : Nat) (x : Tmr) : (d.putTmr n x).doms = d.doms := rfl
@[simp] theorem Dev.putTmr_slots (d : Dev) (n : Nat) (x : Tmr) : (d.putTmr n x).slots = d.slots := rfl
@[simp] theorem Dev.putTmr_ports (d : Dev) (n : Nat) (x : Tmr) : (d.putTmr n x).ports = d.ports := rfl
@[simp] theorem Dev.putTmr_chans (d : Dev) (n : Nat) (x : Tmr) : (d.putTmr n x).chans = d.chans := rfl
@[simp] theorem Dev.putTmr_pulse (d : Dev) (n : Nat) (x : Tmr) : (d.putTmr n x).pulse = d.pulse := rfl
@[simp] theorem Dev.putTmr_level (d : Dev) (n : Nat) (x : Tmr) : (d.putTmr n x).level = d.level := rfl
@[simp] theorem Dev.putTmr_hilats (d : Dev) (n : Nat) (x : Tmr) : (d.putTmr n x).hilats = d.hilats := rfl
@[simp] theorem Dev.putTmr_holds (d : Dev) (n : Nat) (x : Tmr) : (d.putTmr n x).holds = d.holds := rfl
@[simp] theorem Dev.putTmr_resp (d : Dev) (n : Nat) (x : Tmr) : (d.putTmr n x).resp = d.resp := rfl
@[simp] theorem Dev.putTmr_cells (d : Dev) (n : Nat) (x : Tmr) : (d.putTmr n x).cells = d.cells := rfl
@[simp] theorem Dev.putTmr_furs (d : Dev) (n : Nat) (x : Tmr) : (d.putTmr n x).furs = d.furs := rfl
@[simp] theorem Dev.putTmr_ptpFrac (d : Dev) (n : Nat) (x : Tmr) : (d.putTmr n x).ptpFrac = d.ptpFrac := rfl
@[simp] theorem Dev.putTmr_eths (d : Dev) (n : Nat) (x : Tmr) : (d.putTmr n x).eths = d.eths := rfl
@[simp] theorem Dev.putTmr_pgrp (d : Dev) (n : Nat) (x : Tmr) : (d.putTmr n x).pgrp = d.pgrp := rfl
@[simp] theorem Dev.putTmr_evbs (d : Dev) (n : Nat) (x : Tmr) : (d.putTmr n x).evbs = d.evbs := rfl
@[simp] theorem Dev.putTmr_rows (d : Dev) (n : Nat) (x : Tmr) : (d.putTmr n x).rows = d.rows := rfl
@[simp] theorem Dev.putTmr_refr (d : Dev) (n : Nat) (x : Tmr) : (d.putTmr n x).refr = d.refr := rfl
@[simp] theorem Dev.putTmr_infl (d : Dev) (n : Nat) (x : Tmr) : (d.putTmr n x).infl = d.infl := rfl
@[simp] theorem Dev.putTmr_noted (d : Dev) (n : Nat) (x : Tmr) : (d.putTmr n x).noted = d.noted := rfl
@[simp] theorem Dev.putTmr_reqId (d : Dev) (n : Nat) (x : Tmr) : (d.putTmr n x).reqId = d.reqId := rfl
@[simp] theorem Dev.putTmr_rs (d : Dev) (n : Nat) (x : Tmr) : (d.putTmr n x).rs = d.rs := rfl
@[simp] theorem Dev.putTmr_rsFlips (d : Dev) (n : Nat) (x : Tmr) : (d.putTmr n x).rsFlips = d.rsFlips := rfl
@[simp] theorem Dev.putTmr_txns (d : Dev) (n : Nat) (x : Tmr) : (d.putTmr n x).txns = d.txns := rfl
@[simp] theorem Dev.putTmr_jnl (d : Dev) (n : Nat) (x : Tmr) : (d.putTmr n x).jnl = d.jnl := rfl
@[simp] theorem Dev.putTmr_sysq (d : Dev) (n : Nat) (x : Tmr) : (d.putTmr n x).sysq = d.sysq := rfl
@[simp] theorem Dev.putTmr_rider (d : Dev) (n : Nat) (x : Tmr) : (d.putTmr n x).rider = d.rider := rfl
@[simp] theorem Dev.putTmr_sec (d : Dev) (n : Nat) (x : Tmr) : (d.putTmr n x).sec = d.sec := rfl
@[simp] theorem Dev.putTmr_fc (d : Dev) (n : Nat) (x : Tmr) : (d.putTmr n x).fc = d.fc := rfl
@[simp] theorem Dev.putTmr_bist (d : Dev) (n : Nat) (x : Tmr) : (d.putTmr n x).bist = d.bist := rfl
@[simp] theorem Dev.putTmr_boot (d : Dev) (n : Nat) (x : Tmr) : (d.putTmr n x).boot = d.boot := rfl
@[simp] theorem Dev.putTmr_run (d : Dev) (n : Nat) (x : Tmr) : (d.putTmr n x).run = d.run := rfl

/-! ### putPort -/

@[simp] theorem Dev.putPort_io (d : Dev) (n : Nat) (x : Port) : (d.putPort n x).io = d.io := rfl
@[simp] theorem Dev.putPort_tick (d : Dev) (n : Nat) (x : Port) : (d.putPort n x).tick = d.tick := rfl
@[simp] theorem Dev.putPort_fresh (d : Dev) (n : Nat) (x : Port) : (d.putPort n x).fresh = d.fresh := rfl
@[simp] theorem Dev.putPort_edges (d : Dev) (n : Nat) (x : Port) : (d.putPort n x).edges = d.edges := rfl
@[simp] theorem Dev.putPort_doms (d : Dev) (n : Nat) (x : Port) : (d.putPort n x).doms = d.doms := rfl
@[simp] theorem Dev.putPort_slots (d : Dev) (n : Nat) (x : Port) : (d.putPort n x).slots = d.slots := rfl
@[simp] theorem Dev.putPort_tmrs (d : Dev) (n : Nat) (x : Port) : (d.putPort n x).tmrs = d.tmrs := rfl
@[simp] theorem Dev.putPort_chans (d : Dev) (n : Nat) (x : Port) : (d.putPort n x).chans = d.chans := rfl
@[simp] theorem Dev.putPort_pulse (d : Dev) (n : Nat) (x : Port) : (d.putPort n x).pulse = d.pulse := rfl
@[simp] theorem Dev.putPort_level (d : Dev) (n : Nat) (x : Port) : (d.putPort n x).level = d.level := rfl
@[simp] theorem Dev.putPort_hilats (d : Dev) (n : Nat) (x : Port) : (d.putPort n x).hilats = d.hilats := rfl
@[simp] theorem Dev.putPort_holds (d : Dev) (n : Nat) (x : Port) : (d.putPort n x).holds = d.holds := rfl
@[simp] theorem Dev.putPort_resp (d : Dev) (n : Nat) (x : Port) : (d.putPort n x).resp = d.resp := rfl
@[simp] theorem Dev.putPort_cells (d : Dev) (n : Nat) (x : Port) : (d.putPort n x).cells = d.cells := rfl
@[simp] theorem Dev.putPort_furs (d : Dev) (n : Nat) (x : Port) : (d.putPort n x).furs = d.furs := rfl
@[simp] theorem Dev.putPort_ptpFrac (d : Dev) (n : Nat) (x : Port) : (d.putPort n x).ptpFrac = d.ptpFrac := rfl
@[simp] theorem Dev.putPort_eths (d : Dev) (n : Nat) (x : Port) : (d.putPort n x).eths = d.eths := rfl
@[simp] theorem Dev.putPort_pgrp (d : Dev) (n : Nat) (x : Port) : (d.putPort n x).pgrp = d.pgrp := rfl
@[simp] theorem Dev.putPort_evbs (d : Dev) (n : Nat) (x : Port) : (d.putPort n x).evbs = d.evbs := rfl
@[simp] theorem Dev.putPort_rows (d : Dev) (n : Nat) (x : Port) : (d.putPort n x).rows = d.rows := rfl
@[simp] theorem Dev.putPort_refr (d : Dev) (n : Nat) (x : Port) : (d.putPort n x).refr = d.refr := rfl
@[simp] theorem Dev.putPort_infl (d : Dev) (n : Nat) (x : Port) : (d.putPort n x).infl = d.infl := rfl
@[simp] theorem Dev.putPort_noted (d : Dev) (n : Nat) (x : Port) : (d.putPort n x).noted = d.noted := rfl
@[simp] theorem Dev.putPort_reqId (d : Dev) (n : Nat) (x : Port) : (d.putPort n x).reqId = d.reqId := rfl
@[simp] theorem Dev.putPort_rs (d : Dev) (n : Nat) (x : Port) : (d.putPort n x).rs = d.rs := rfl
@[simp] theorem Dev.putPort_rsFlips (d : Dev) (n : Nat) (x : Port) : (d.putPort n x).rsFlips = d.rsFlips := rfl
@[simp] theorem Dev.putPort_txns (d : Dev) (n : Nat) (x : Port) : (d.putPort n x).txns = d.txns := rfl
@[simp] theorem Dev.putPort_jnl (d : Dev) (n : Nat) (x : Port) : (d.putPort n x).jnl = d.jnl := rfl
@[simp] theorem Dev.putPort_sysq (d : Dev) (n : Nat) (x : Port) : (d.putPort n x).sysq = d.sysq := rfl
@[simp] theorem Dev.putPort_rider (d : Dev) (n : Nat) (x : Port) : (d.putPort n x).rider = d.rider := rfl
@[simp] theorem Dev.putPort_sec (d : Dev) (n : Nat) (x : Port) : (d.putPort n x).sec = d.sec := rfl
@[simp] theorem Dev.putPort_fc (d : Dev) (n : Nat) (x : Port) : (d.putPort n x).fc = d.fc := rfl
@[simp] theorem Dev.putPort_bist (d : Dev) (n : Nat) (x : Port) : (d.putPort n x).bist = d.bist := rfl
@[simp] theorem Dev.putPort_boot (d : Dev) (n : Nat) (x : Port) : (d.putPort n x).boot = d.boot := rfl
@[simp] theorem Dev.putPort_run (d : Dev) (n : Nat) (x : Port) : (d.putPort n x).run = d.run := rfl

/-! ### putChan -/

@[simp] theorem Dev.putChan_io (d : Dev) (n : Nat) (x : Chan) : (d.putChan n x).io = d.io := rfl
@[simp] theorem Dev.putChan_tick (d : Dev) (n : Nat) (x : Chan) : (d.putChan n x).tick = d.tick := rfl
@[simp] theorem Dev.putChan_fresh (d : Dev) (n : Nat) (x : Chan) : (d.putChan n x).fresh = d.fresh := rfl
@[simp] theorem Dev.putChan_edges (d : Dev) (n : Nat) (x : Chan) : (d.putChan n x).edges = d.edges := rfl
@[simp] theorem Dev.putChan_doms (d : Dev) (n : Nat) (x : Chan) : (d.putChan n x).doms = d.doms := rfl
@[simp] theorem Dev.putChan_slots (d : Dev) (n : Nat) (x : Chan) : (d.putChan n x).slots = d.slots := rfl
@[simp] theorem Dev.putChan_tmrs (d : Dev) (n : Nat) (x : Chan) : (d.putChan n x).tmrs = d.tmrs := rfl
@[simp] theorem Dev.putChan_ports (d : Dev) (n : Nat) (x : Chan) : (d.putChan n x).ports = d.ports := rfl
@[simp] theorem Dev.putChan_pulse (d : Dev) (n : Nat) (x : Chan) : (d.putChan n x).pulse = d.pulse := rfl
@[simp] theorem Dev.putChan_level (d : Dev) (n : Nat) (x : Chan) : (d.putChan n x).level = d.level := rfl
@[simp] theorem Dev.putChan_hilats (d : Dev) (n : Nat) (x : Chan) : (d.putChan n x).hilats = d.hilats := rfl
@[simp] theorem Dev.putChan_holds (d : Dev) (n : Nat) (x : Chan) : (d.putChan n x).holds = d.holds := rfl
@[simp] theorem Dev.putChan_resp (d : Dev) (n : Nat) (x : Chan) : (d.putChan n x).resp = d.resp := rfl
@[simp] theorem Dev.putChan_cells (d : Dev) (n : Nat) (x : Chan) : (d.putChan n x).cells = d.cells := rfl
@[simp] theorem Dev.putChan_furs (d : Dev) (n : Nat) (x : Chan) : (d.putChan n x).furs = d.furs := rfl
@[simp] theorem Dev.putChan_ptpFrac (d : Dev) (n : Nat) (x : Chan) : (d.putChan n x).ptpFrac = d.ptpFrac := rfl
@[simp] theorem Dev.putChan_eths (d : Dev) (n : Nat) (x : Chan) : (d.putChan n x).eths = d.eths := rfl
@[simp] theorem Dev.putChan_pgrp (d : Dev) (n : Nat) (x : Chan) : (d.putChan n x).pgrp = d.pgrp := rfl
@[simp] theorem Dev.putChan_evbs (d : Dev) (n : Nat) (x : Chan) : (d.putChan n x).evbs = d.evbs := rfl
@[simp] theorem Dev.putChan_rows (d : Dev) (n : Nat) (x : Chan) : (d.putChan n x).rows = d.rows := rfl
@[simp] theorem Dev.putChan_refr (d : Dev) (n : Nat) (x : Chan) : (d.putChan n x).refr = d.refr := rfl
@[simp] theorem Dev.putChan_infl (d : Dev) (n : Nat) (x : Chan) : (d.putChan n x).infl = d.infl := rfl
@[simp] theorem Dev.putChan_noted (d : Dev) (n : Nat) (x : Chan) : (d.putChan n x).noted = d.noted := rfl
@[simp] theorem Dev.putChan_reqId (d : Dev) (n : Nat) (x : Chan) : (d.putChan n x).reqId = d.reqId := rfl
@[simp] theorem Dev.putChan_rs (d : Dev) (n : Nat) (x : Chan) : (d.putChan n x).rs = d.rs := rfl
@[simp] theorem Dev.putChan_rsFlips (d : Dev) (n : Nat) (x : Chan) : (d.putChan n x).rsFlips = d.rsFlips := rfl
@[simp] theorem Dev.putChan_txns (d : Dev) (n : Nat) (x : Chan) : (d.putChan n x).txns = d.txns := rfl
@[simp] theorem Dev.putChan_jnl (d : Dev) (n : Nat) (x : Chan) : (d.putChan n x).jnl = d.jnl := rfl
@[simp] theorem Dev.putChan_sysq (d : Dev) (n : Nat) (x : Chan) : (d.putChan n x).sysq = d.sysq := rfl
@[simp] theorem Dev.putChan_rider (d : Dev) (n : Nat) (x : Chan) : (d.putChan n x).rider = d.rider := rfl
@[simp] theorem Dev.putChan_sec (d : Dev) (n : Nat) (x : Chan) : (d.putChan n x).sec = d.sec := rfl
@[simp] theorem Dev.putChan_fc (d : Dev) (n : Nat) (x : Chan) : (d.putChan n x).fc = d.fc := rfl
@[simp] theorem Dev.putChan_bist (d : Dev) (n : Nat) (x : Chan) : (d.putChan n x).bist = d.bist := rfl
@[simp] theorem Dev.putChan_boot (d : Dev) (n : Nat) (x : Chan) : (d.putChan n x).boot = d.boot := rfl
@[simp] theorem Dev.putChan_run (d : Dev) (n : Nat) (x : Chan) : (d.putChan n x).run = d.run := rfl

/-! ### putCell -/

@[simp] theorem Dev.putCell_io (d : Dev) (n : Nat) (x : Cell) : (d.putCell n x).io = d.io := rfl
@[simp] theorem Dev.putCell_tick (d : Dev) (n : Nat) (x : Cell) : (d.putCell n x).tick = d.tick := rfl
@[simp] theorem Dev.putCell_fresh (d : Dev) (n : Nat) (x : Cell) : (d.putCell n x).fresh = d.fresh := rfl
@[simp] theorem Dev.putCell_edges (d : Dev) (n : Nat) (x : Cell) : (d.putCell n x).edges = d.edges := rfl
@[simp] theorem Dev.putCell_doms (d : Dev) (n : Nat) (x : Cell) : (d.putCell n x).doms = d.doms := rfl
@[simp] theorem Dev.putCell_slots (d : Dev) (n : Nat) (x : Cell) : (d.putCell n x).slots = d.slots := rfl
@[simp] theorem Dev.putCell_tmrs (d : Dev) (n : Nat) (x : Cell) : (d.putCell n x).tmrs = d.tmrs := rfl
@[simp] theorem Dev.putCell_ports (d : Dev) (n : Nat) (x : Cell) : (d.putCell n x).ports = d.ports := rfl
@[simp] theorem Dev.putCell_chans (d : Dev) (n : Nat) (x : Cell) : (d.putCell n x).chans = d.chans := rfl
@[simp] theorem Dev.putCell_pulse (d : Dev) (n : Nat) (x : Cell) : (d.putCell n x).pulse = d.pulse := rfl
@[simp] theorem Dev.putCell_level (d : Dev) (n : Nat) (x : Cell) : (d.putCell n x).level = d.level := rfl
@[simp] theorem Dev.putCell_hilats (d : Dev) (n : Nat) (x : Cell) : (d.putCell n x).hilats = d.hilats := rfl
@[simp] theorem Dev.putCell_holds (d : Dev) (n : Nat) (x : Cell) : (d.putCell n x).holds = d.holds := rfl
@[simp] theorem Dev.putCell_resp (d : Dev) (n : Nat) (x : Cell) : (d.putCell n x).resp = d.resp := rfl
@[simp] theorem Dev.putCell_furs (d : Dev) (n : Nat) (x : Cell) : (d.putCell n x).furs = d.furs := rfl
@[simp] theorem Dev.putCell_ptpFrac (d : Dev) (n : Nat) (x : Cell) : (d.putCell n x).ptpFrac = d.ptpFrac := rfl
@[simp] theorem Dev.putCell_eths (d : Dev) (n : Nat) (x : Cell) : (d.putCell n x).eths = d.eths := rfl
@[simp] theorem Dev.putCell_pgrp (d : Dev) (n : Nat) (x : Cell) : (d.putCell n x).pgrp = d.pgrp := rfl
@[simp] theorem Dev.putCell_evbs (d : Dev) (n : Nat) (x : Cell) : (d.putCell n x).evbs = d.evbs := rfl
@[simp] theorem Dev.putCell_rows (d : Dev) (n : Nat) (x : Cell) : (d.putCell n x).rows = d.rows := rfl
@[simp] theorem Dev.putCell_refr (d : Dev) (n : Nat) (x : Cell) : (d.putCell n x).refr = d.refr := rfl
@[simp] theorem Dev.putCell_infl (d : Dev) (n : Nat) (x : Cell) : (d.putCell n x).infl = d.infl := rfl
@[simp] theorem Dev.putCell_noted (d : Dev) (n : Nat) (x : Cell) : (d.putCell n x).noted = d.noted := rfl
@[simp] theorem Dev.putCell_reqId (d : Dev) (n : Nat) (x : Cell) : (d.putCell n x).reqId = d.reqId := rfl
@[simp] theorem Dev.putCell_rs (d : Dev) (n : Nat) (x : Cell) : (d.putCell n x).rs = d.rs := rfl
@[simp] theorem Dev.putCell_rsFlips (d : Dev) (n : Nat) (x : Cell) : (d.putCell n x).rsFlips = d.rsFlips := rfl
@[simp] theorem Dev.putCell_txns (d : Dev) (n : Nat) (x : Cell) : (d.putCell n x).txns = d.txns := rfl
@[simp] theorem Dev.putCell_jnl (d : Dev) (n : Nat) (x : Cell) : (d.putCell n x).jnl = d.jnl := rfl
@[simp] theorem Dev.putCell_sysq (d : Dev) (n : Nat) (x : Cell) : (d.putCell n x).sysq = d.sysq := rfl
@[simp] theorem Dev.putCell_rider (d : Dev) (n : Nat) (x : Cell) : (d.putCell n x).rider = d.rider := rfl
@[simp] theorem Dev.putCell_sec (d : Dev) (n : Nat) (x : Cell) : (d.putCell n x).sec = d.sec := rfl
@[simp] theorem Dev.putCell_fc (d : Dev) (n : Nat) (x : Cell) : (d.putCell n x).fc = d.fc := rfl
@[simp] theorem Dev.putCell_bist (d : Dev) (n : Nat) (x : Cell) : (d.putCell n x).bist = d.bist := rfl
@[simp] theorem Dev.putCell_boot (d : Dev) (n : Nat) (x : Cell) : (d.putCell n x).boot = d.boot := rfl
@[simp] theorem Dev.putCell_run (d : Dev) (n : Nat) (x : Cell) : (d.putCell n x).run = d.run := rfl

/-! ### putFur -/

@[simp] theorem Dev.putFur_io (d : Dev) (n : Nat) (x : Fur) : (d.putFur n x).io = d.io := rfl
@[simp] theorem Dev.putFur_tick (d : Dev) (n : Nat) (x : Fur) : (d.putFur n x).tick = d.tick := rfl
@[simp] theorem Dev.putFur_fresh (d : Dev) (n : Nat) (x : Fur) : (d.putFur n x).fresh = d.fresh := rfl
@[simp] theorem Dev.putFur_edges (d : Dev) (n : Nat) (x : Fur) : (d.putFur n x).edges = d.edges := rfl
@[simp] theorem Dev.putFur_doms (d : Dev) (n : Nat) (x : Fur) : (d.putFur n x).doms = d.doms := rfl
@[simp] theorem Dev.putFur_slots (d : Dev) (n : Nat) (x : Fur) : (d.putFur n x).slots = d.slots := rfl
@[simp] theorem Dev.putFur_tmrs (d : Dev) (n : Nat) (x : Fur) : (d.putFur n x).tmrs = d.tmrs := rfl
@[simp] theorem Dev.putFur_ports (d : Dev) (n : Nat) (x : Fur) : (d.putFur n x).ports = d.ports := rfl
@[simp] theorem Dev.putFur_chans (d : Dev) (n : Nat) (x : Fur) : (d.putFur n x).chans = d.chans := rfl
@[simp] theorem Dev.putFur_pulse (d : Dev) (n : Nat) (x : Fur) : (d.putFur n x).pulse = d.pulse := rfl
@[simp] theorem Dev.putFur_level (d : Dev) (n : Nat) (x : Fur) : (d.putFur n x).level = d.level := rfl
@[simp] theorem Dev.putFur_hilats (d : Dev) (n : Nat) (x : Fur) : (d.putFur n x).hilats = d.hilats := rfl
@[simp] theorem Dev.putFur_holds (d : Dev) (n : Nat) (x : Fur) : (d.putFur n x).holds = d.holds := rfl
@[simp] theorem Dev.putFur_resp (d : Dev) (n : Nat) (x : Fur) : (d.putFur n x).resp = d.resp := rfl
@[simp] theorem Dev.putFur_cells (d : Dev) (n : Nat) (x : Fur) : (d.putFur n x).cells = d.cells := rfl
@[simp] theorem Dev.putFur_ptpFrac (d : Dev) (n : Nat) (x : Fur) : (d.putFur n x).ptpFrac = d.ptpFrac := rfl
@[simp] theorem Dev.putFur_eths (d : Dev) (n : Nat) (x : Fur) : (d.putFur n x).eths = d.eths := rfl
@[simp] theorem Dev.putFur_pgrp (d : Dev) (n : Nat) (x : Fur) : (d.putFur n x).pgrp = d.pgrp := rfl
@[simp] theorem Dev.putFur_evbs (d : Dev) (n : Nat) (x : Fur) : (d.putFur n x).evbs = d.evbs := rfl
@[simp] theorem Dev.putFur_rows (d : Dev) (n : Nat) (x : Fur) : (d.putFur n x).rows = d.rows := rfl
@[simp] theorem Dev.putFur_refr (d : Dev) (n : Nat) (x : Fur) : (d.putFur n x).refr = d.refr := rfl
@[simp] theorem Dev.putFur_infl (d : Dev) (n : Nat) (x : Fur) : (d.putFur n x).infl = d.infl := rfl
@[simp] theorem Dev.putFur_noted (d : Dev) (n : Nat) (x : Fur) : (d.putFur n x).noted = d.noted := rfl
@[simp] theorem Dev.putFur_reqId (d : Dev) (n : Nat) (x : Fur) : (d.putFur n x).reqId = d.reqId := rfl
@[simp] theorem Dev.putFur_rs (d : Dev) (n : Nat) (x : Fur) : (d.putFur n x).rs = d.rs := rfl
@[simp] theorem Dev.putFur_rsFlips (d : Dev) (n : Nat) (x : Fur) : (d.putFur n x).rsFlips = d.rsFlips := rfl
@[simp] theorem Dev.putFur_txns (d : Dev) (n : Nat) (x : Fur) : (d.putFur n x).txns = d.txns := rfl
@[simp] theorem Dev.putFur_jnl (d : Dev) (n : Nat) (x : Fur) : (d.putFur n x).jnl = d.jnl := rfl
@[simp] theorem Dev.putFur_sysq (d : Dev) (n : Nat) (x : Fur) : (d.putFur n x).sysq = d.sysq := rfl
@[simp] theorem Dev.putFur_rider (d : Dev) (n : Nat) (x : Fur) : (d.putFur n x).rider = d.rider := rfl
@[simp] theorem Dev.putFur_sec (d : Dev) (n : Nat) (x : Fur) : (d.putFur n x).sec = d.sec := rfl
@[simp] theorem Dev.putFur_fc (d : Dev) (n : Nat) (x : Fur) : (d.putFur n x).fc = d.fc := rfl
@[simp] theorem Dev.putFur_bist (d : Dev) (n : Nat) (x : Fur) : (d.putFur n x).bist = d.bist := rfl
@[simp] theorem Dev.putFur_boot (d : Dev) (n : Nat) (x : Fur) : (d.putFur n x).boot = d.boot := rfl
@[simp] theorem Dev.putFur_run (d : Dev) (n : Nat) (x : Fur) : (d.putFur n x).run = d.run := rfl

/-! ### putTxn -/

@[simp] theorem Dev.putTxn_io (d : Dev) (n : Nat) (x : Txn) : (d.putTxn n x).io = d.io := rfl
@[simp] theorem Dev.putTxn_tick (d : Dev) (n : Nat) (x : Txn) : (d.putTxn n x).tick = d.tick := rfl
@[simp] theorem Dev.putTxn_fresh (d : Dev) (n : Nat) (x : Txn) : (d.putTxn n x).fresh = d.fresh := rfl
@[simp] theorem Dev.putTxn_edges (d : Dev) (n : Nat) (x : Txn) : (d.putTxn n x).edges = d.edges := rfl
@[simp] theorem Dev.putTxn_doms (d : Dev) (n : Nat) (x : Txn) : (d.putTxn n x).doms = d.doms := rfl
@[simp] theorem Dev.putTxn_slots (d : Dev) (n : Nat) (x : Txn) : (d.putTxn n x).slots = d.slots := rfl
@[simp] theorem Dev.putTxn_tmrs (d : Dev) (n : Nat) (x : Txn) : (d.putTxn n x).tmrs = d.tmrs := rfl
@[simp] theorem Dev.putTxn_ports (d : Dev) (n : Nat) (x : Txn) : (d.putTxn n x).ports = d.ports := rfl
@[simp] theorem Dev.putTxn_chans (d : Dev) (n : Nat) (x : Txn) : (d.putTxn n x).chans = d.chans := rfl
@[simp] theorem Dev.putTxn_pulse (d : Dev) (n : Nat) (x : Txn) : (d.putTxn n x).pulse = d.pulse := rfl
@[simp] theorem Dev.putTxn_level (d : Dev) (n : Nat) (x : Txn) : (d.putTxn n x).level = d.level := rfl
@[simp] theorem Dev.putTxn_hilats (d : Dev) (n : Nat) (x : Txn) : (d.putTxn n x).hilats = d.hilats := rfl
@[simp] theorem Dev.putTxn_holds (d : Dev) (n : Nat) (x : Txn) : (d.putTxn n x).holds = d.holds := rfl
@[simp] theorem Dev.putTxn_resp (d : Dev) (n : Nat) (x : Txn) : (d.putTxn n x).resp = d.resp := rfl
@[simp] theorem Dev.putTxn_cells (d : Dev) (n : Nat) (x : Txn) : (d.putTxn n x).cells = d.cells := rfl
@[simp] theorem Dev.putTxn_furs (d : Dev) (n : Nat) (x : Txn) : (d.putTxn n x).furs = d.furs := rfl
@[simp] theorem Dev.putTxn_ptpFrac (d : Dev) (n : Nat) (x : Txn) : (d.putTxn n x).ptpFrac = d.ptpFrac := rfl
@[simp] theorem Dev.putTxn_eths (d : Dev) (n : Nat) (x : Txn) : (d.putTxn n x).eths = d.eths := rfl
@[simp] theorem Dev.putTxn_pgrp (d : Dev) (n : Nat) (x : Txn) : (d.putTxn n x).pgrp = d.pgrp := rfl
@[simp] theorem Dev.putTxn_evbs (d : Dev) (n : Nat) (x : Txn) : (d.putTxn n x).evbs = d.evbs := rfl
@[simp] theorem Dev.putTxn_rows (d : Dev) (n : Nat) (x : Txn) : (d.putTxn n x).rows = d.rows := rfl
@[simp] theorem Dev.putTxn_refr (d : Dev) (n : Nat) (x : Txn) : (d.putTxn n x).refr = d.refr := rfl
@[simp] theorem Dev.putTxn_infl (d : Dev) (n : Nat) (x : Txn) : (d.putTxn n x).infl = d.infl := rfl
@[simp] theorem Dev.putTxn_noted (d : Dev) (n : Nat) (x : Txn) : (d.putTxn n x).noted = d.noted := rfl
@[simp] theorem Dev.putTxn_reqId (d : Dev) (n : Nat) (x : Txn) : (d.putTxn n x).reqId = d.reqId := rfl
@[simp] theorem Dev.putTxn_rs (d : Dev) (n : Nat) (x : Txn) : (d.putTxn n x).rs = d.rs := rfl
@[simp] theorem Dev.putTxn_rsFlips (d : Dev) (n : Nat) (x : Txn) : (d.putTxn n x).rsFlips = d.rsFlips := rfl
@[simp] theorem Dev.putTxn_jnl (d : Dev) (n : Nat) (x : Txn) : (d.putTxn n x).jnl = d.jnl := rfl
@[simp] theorem Dev.putTxn_sysq (d : Dev) (n : Nat) (x : Txn) : (d.putTxn n x).sysq = d.sysq := rfl
@[simp] theorem Dev.putTxn_rider (d : Dev) (n : Nat) (x : Txn) : (d.putTxn n x).rider = d.rider := rfl
@[simp] theorem Dev.putTxn_sec (d : Dev) (n : Nat) (x : Txn) : (d.putTxn n x).sec = d.sec := rfl
@[simp] theorem Dev.putTxn_fc (d : Dev) (n : Nat) (x : Txn) : (d.putTxn n x).fc = d.fc := rfl
@[simp] theorem Dev.putTxn_bist (d : Dev) (n : Nat) (x : Txn) : (d.putTxn n x).bist = d.bist := rfl
@[simp] theorem Dev.putTxn_boot (d : Dev) (n : Nat) (x : Txn) : (d.putTxn n x).boot = d.boot := rfl
@[simp] theorem Dev.putTxn_run (d : Dev) (n : Nat) (x : Txn) : (d.putTxn n x).run = d.run := rfl

/-! ### next -/

@[simp] theorem Dev.next_io (d : Dev)  : (d.next).io = d.io := rfl
@[simp] theorem Dev.next_tick (d : Dev)  : (d.next).tick = d.tick := rfl
@[simp] theorem Dev.next_edges (d : Dev)  : (d.next).edges = d.edges := rfl
@[simp] theorem Dev.next_doms (d : Dev)  : (d.next).doms = d.doms := rfl
@[simp] theorem Dev.next_slots (d : Dev)  : (d.next).slots = d.slots := rfl
@[simp] theorem Dev.next_tmrs (d : Dev)  : (d.next).tmrs = d.tmrs := rfl
@[simp] theorem Dev.next_ports (d : Dev)  : (d.next).ports = d.ports := rfl
@[simp] theorem Dev.next_chans (d : Dev)  : (d.next).chans = d.chans := rfl
@[simp] theorem Dev.next_pulse (d : Dev)  : (d.next).pulse = d.pulse := rfl
@[simp] theorem Dev.next_level (d : Dev)  : (d.next).level = d.level := rfl
@[simp] theorem Dev.next_hilats (d : Dev)  : (d.next).hilats = d.hilats := rfl
@[simp] theorem Dev.next_holds (d : Dev)  : (d.next).holds = d.holds := rfl
@[simp] theorem Dev.next_resp (d : Dev)  : (d.next).resp = d.resp := rfl
@[simp] theorem Dev.next_cells (d : Dev)  : (d.next).cells = d.cells := rfl
@[simp] theorem Dev.next_furs (d : Dev)  : (d.next).furs = d.furs := rfl
@[simp] theorem Dev.next_ptpFrac (d : Dev)  : (d.next).ptpFrac = d.ptpFrac := rfl
@[simp] theorem Dev.next_eths (d : Dev)  : (d.next).eths = d.eths := rfl
@[simp] theorem Dev.next_pgrp (d : Dev)  : (d.next).pgrp = d.pgrp := rfl
@[simp] theorem Dev.next_evbs (d : Dev)  : (d.next).evbs = d.evbs := rfl
@[simp] theorem Dev.next_rows (d : Dev)  : (d.next).rows = d.rows := rfl
@[simp] theorem Dev.next_refr (d : Dev)  : (d.next).refr = d.refr := rfl
@[simp] theorem Dev.next_infl (d : Dev)  : (d.next).infl = d.infl := rfl
@[simp] theorem Dev.next_noted (d : Dev)  : (d.next).noted = d.noted := rfl
@[simp] theorem Dev.next_reqId (d : Dev)  : (d.next).reqId = d.reqId := rfl
@[simp] theorem Dev.next_rs (d : Dev)  : (d.next).rs = d.rs := rfl
@[simp] theorem Dev.next_rsFlips (d : Dev)  : (d.next).rsFlips = d.rsFlips := rfl
@[simp] theorem Dev.next_txns (d : Dev)  : (d.next).txns = d.txns := rfl
@[simp] theorem Dev.next_jnl (d : Dev)  : (d.next).jnl = d.jnl := rfl
@[simp] theorem Dev.next_sysq (d : Dev)  : (d.next).sysq = d.sysq := rfl
@[simp] theorem Dev.next_rider (d : Dev)  : (d.next).rider = d.rider := rfl
@[simp] theorem Dev.next_sec (d : Dev)  : (d.next).sec = d.sec := rfl
@[simp] theorem Dev.next_fc (d : Dev)  : (d.next).fc = d.fc := rfl
@[simp] theorem Dev.next_bist (d : Dev)  : (d.next).bist = d.bist := rfl
@[simp] theorem Dev.next_boot (d : Dev)  : (d.next).boot = d.boot := rfl
@[simp] theorem Dev.next_run (d : Dev)  : (d.next).run = d.run := rfl

/-! ### pulseSrc -/

@[simp] theorem Dev.pulseSrc_io (d : Dev) (k u : Nat) : (d.pulseSrc k u).io = d.io := rfl
@[simp] theorem Dev.pulseSrc_tick (d : Dev) (k u : Nat) : (d.pulseSrc k u).tick = d.tick := rfl
@[simp] theorem Dev.pulseSrc_fresh (d : Dev) (k u : Nat) : (d.pulseSrc k u).fresh = d.fresh := rfl
@[simp] theorem Dev.pulseSrc_edges (d : Dev) (k u : Nat) : (d.pulseSrc k u).edges = d.edges := rfl
@[simp] theorem Dev.pulseSrc_doms (d : Dev) (k u : Nat) : (d.pulseSrc k u).doms = d.doms := rfl
@[simp] theorem Dev.pulseSrc_slots (d : Dev) (k u : Nat) : (d.pulseSrc k u).slots = d.slots := rfl
@[simp] theorem Dev.pulseSrc_tmrs (d : Dev) (k u : Nat) : (d.pulseSrc k u).tmrs = d.tmrs := rfl
@[simp] theorem Dev.pulseSrc_ports (d : Dev) (k u : Nat) : (d.pulseSrc k u).ports = d.ports := rfl
@[simp] theorem Dev.pulseSrc_chans (d : Dev) (k u : Nat) : (d.pulseSrc k u).chans = d.chans := rfl
@[simp] theorem Dev.pulseSrc_level (d : Dev) (k u : Nat) : (d.pulseSrc k u).level = d.level := rfl
@[simp] theorem Dev.pulseSrc_hilats (d : Dev) (k u : Nat) : (d.pulseSrc k u).hilats = d.hilats := rfl
@[simp] theorem Dev.pulseSrc_holds (d : Dev) (k u : Nat) : (d.pulseSrc k u).holds = d.holds := rfl
@[simp] theorem Dev.pulseSrc_resp (d : Dev) (k u : Nat) : (d.pulseSrc k u).resp = d.resp := rfl
@[simp] theorem Dev.pulseSrc_cells (d : Dev) (k u : Nat) : (d.pulseSrc k u).cells = d.cells := rfl
@[simp] theorem Dev.pulseSrc_furs (d : Dev) (k u : Nat) : (d.pulseSrc k u).furs = d.furs := rfl
@[simp] theorem Dev.pulseSrc_ptpFrac (d : Dev) (k u : Nat) : (d.pulseSrc k u).ptpFrac = d.ptpFrac := rfl
@[simp] theorem Dev.pulseSrc_eths (d : Dev) (k u : Nat) : (d.pulseSrc k u).eths = d.eths := rfl
@[simp] theorem Dev.pulseSrc_pgrp (d : Dev) (k u : Nat) : (d.pulseSrc k u).pgrp = d.pgrp := rfl
@[simp] theorem Dev.pulseSrc_evbs (d : Dev) (k u : Nat) : (d.pulseSrc k u).evbs = d.evbs := rfl
@[simp] theorem Dev.pulseSrc_rows (d : Dev) (k u : Nat) : (d.pulseSrc k u).rows = d.rows := rfl
@[simp] theorem Dev.pulseSrc_refr (d : Dev) (k u : Nat) : (d.pulseSrc k u).refr = d.refr := rfl
@[simp] theorem Dev.pulseSrc_infl (d : Dev) (k u : Nat) : (d.pulseSrc k u).infl = d.infl := rfl
@[simp] theorem Dev.pulseSrc_noted (d : Dev) (k u : Nat) : (d.pulseSrc k u).noted = d.noted := rfl
@[simp] theorem Dev.pulseSrc_reqId (d : Dev) (k u : Nat) : (d.pulseSrc k u).reqId = d.reqId := rfl
@[simp] theorem Dev.pulseSrc_rs (d : Dev) (k u : Nat) : (d.pulseSrc k u).rs = d.rs := rfl
@[simp] theorem Dev.pulseSrc_rsFlips (d : Dev) (k u : Nat) : (d.pulseSrc k u).rsFlips = d.rsFlips := rfl
@[simp] theorem Dev.pulseSrc_txns (d : Dev) (k u : Nat) : (d.pulseSrc k u).txns = d.txns := rfl
@[simp] theorem Dev.pulseSrc_jnl (d : Dev) (k u : Nat) : (d.pulseSrc k u).jnl = d.jnl := rfl
@[simp] theorem Dev.pulseSrc_sysq (d : Dev) (k u : Nat) : (d.pulseSrc k u).sysq = d.sysq := rfl
@[simp] theorem Dev.pulseSrc_rider (d : Dev) (k u : Nat) : (d.pulseSrc k u).rider = d.rider := rfl
@[simp] theorem Dev.pulseSrc_sec (d : Dev) (k u : Nat) : (d.pulseSrc k u).sec = d.sec := rfl
@[simp] theorem Dev.pulseSrc_fc (d : Dev) (k u : Nat) : (d.pulseSrc k u).fc = d.fc := rfl
@[simp] theorem Dev.pulseSrc_bist (d : Dev) (k u : Nat) : (d.pulseSrc k u).bist = d.bist := rfl
@[simp] theorem Dev.pulseSrc_boot (d : Dev) (k u : Nat) : (d.pulseSrc k u).boot = d.boot := rfl
@[simp] theorem Dev.pulseSrc_run (d : Dev) (k u : Nat) : (d.pulseSrc k u).run = d.run := rfl

/-! ### Registers -/

/-- A register reads as it was written. -/
@[simp] theorem Dev.rd_wr_self (d : Dev) (k : Nat) (w : Word) : (d.wr k w).rd k = w := Tab.get_set_self _ _ _ _
/-- A write of one register leaves every other. -/
theorem Dev.rd_wr_ne (d : Dev) {k j : Nat} (w : Word) (h : j ≠ k) : (d.wr k w).rd j = d.rd j := Tab.get_set_ne _ _ _ _ h
theorem Dev.rd_wr (d : Dev) (k j : Nat) (w : Word) : (d.wr k w).rd j = if j = k then w else d.rd j := by
  split
  · subst j; exact Dev.rd_wr_self d k w
  · exact Dev.rd_wr_ne d w ‹_›
@[simp] theorem Dev.wr_wr (d : Dev) (k : Nat) (v w : Word) : (d.wr k v).wr k w = d.wr k w := by simp [Dev.wr]
/-- Two devices with the same registers. -/
theorem Dev.rd_congr {d e : Dev} (h : d.io = e.io) (k : Nat) : d.rd k = e.rd k := by unfold Dev.rd; rw [h]
theorem Dev.fg_congr {d e : Dev} (h : d.io = e.io) (k : Nat) (f : Span) : d.fg k f = e.fg k f := by unfold Dev.fg; rw [Dev.rd_congr h]
theorem Dev.fg_wr_self (d : Dev) (k : Nat) (w : Word) (f : Span) : (d.wr k w).fg k f = f.get w := by simp [Dev.fg]
theorem Dev.fg_wr_ne (d : Dev) {k j : Nat} (w : Word) (f : Span) (h : j ≠ k) : (d.wr k w).fg j f = d.fg j f := by
  simp [Dev.fg, Dev.rd_wr_ne d w h]
theorem Dev.ff_wr_ne (d : Dev) {k j : Nat} (w : Word) (f : Span) (h : j ≠ k) : (d.wr k w).ff j f = d.ff j f := by
  simp [Dev.ff, Dev.fg_wr_ne d w f h]

@[simp] theorem Dev.putDom_rd (d : Dev) (n : Nat) (x : Dom) (j : Nat) : (d.putDom n x).rd j = d.rd j := rfl
@[simp] theorem Dev.putDom_fg (d : Dev) (n : Nat) (x : Dom) (j : Nat) (f : Span) : (d.putDom n x).fg j f = d.fg j f := rfl
@[simp] theorem Dev.putDom_ff (d : Dev) (n : Nat) (x : Dom) (j : Nat) (f : Span) : (d.putDom n x).ff j f = d.ff j f := rfl
@[simp] theorem Dev.wr_dom (d : Dev) (k : Nat) (w : Word) (n : Nat)  : (d.wr k w).dom n = d.dom n := rfl
@[simp] theorem Dev.putSlot_dom (d : Dev) (m l : Nat) (x : Slot) (n : Nat)  : (d.putSlot m l x).dom n = d.dom n := rfl
@[simp] theorem Dev.putTmr_dom (d : Dev) (m : Nat) (x : Tmr) (n : Nat)  : (d.putTmr m x).dom n = d.dom n := rfl
@[simp] theorem Dev.putPort_dom (d : Dev) (m : Nat) (x : Port) (n : Nat)  : (d.putPort m x).dom n = d.dom n := rfl
@[simp] theorem Dev.putChan_dom (d : Dev) (m : Nat) (x : Chan) (n : Nat)  : (d.putChan m x).dom n = d.dom n := rfl
@[simp] theorem Dev.putCell_dom (d : Dev) (m : Nat) (x : Cell) (n : Nat)  : (d.putCell m x).dom n = d.dom n := rfl
@[simp] theorem Dev.putFur_dom (d : Dev) (m : Nat) (x : Fur) (n : Nat)  : (d.putFur m x).dom n = d.dom n := rfl
@[simp] theorem Dev.putTxn_dom (d : Dev) (m : Nat) (x : Txn) (n : Nat)  : (d.putTxn m x).dom n = d.dom n := rfl
@[simp] theorem Dev.putDom_dom (d : Dev) (n : Nat) (x : Dom) : (d.putDom n x).dom n = x := Tab.get_set_self _ _ _ _
theorem Dev.putDom_dom_ne (d : Dev) {n m : Nat} (x : Dom) (h : m ≠ n) : (d.putDom n x).dom m = d.dom m := Tab.get_set_ne _ _ _ _ h
@[simp] theorem Dev.putDom_putDom (d : Dev) (n : Nat) (x y : Dom) : (d.putDom n x).putDom n y = d.putDom n y := by simp [Dev.putDom]
@[simp] theorem Dev.putSlot_rd (d : Dev) (n k : Nat) (x : Slot) (j : Nat) : (d.putSlot n k x).rd j = d.rd j := rfl
@[simp] theorem Dev.putSlot_fg (d : Dev) (n k : Nat) (x : Slot) (j : Nat) (f : Span) : (d.putSlot n k x).fg j f = d.fg j f := rfl
@[simp] theorem Dev.putSlot_ff (d : Dev) (n k : Nat) (x : Slot) (j : Nat) (f : Span) : (d.putSlot n k x).ff j f = d.ff j f := rfl
@[simp] theorem Dev.wr_slot (d : Dev) (k : Nat) (w : Word) (n : Nat) (k : Nat)  : (d.wr k w).slot n k = d.slot n k := rfl
@[simp] theorem Dev.putDom_slot (d : Dev) (m : Nat) (x : Dom) (n : Nat) (k : Nat)  : (d.putDom m x).slot n k = d.slot n k := rfl
@[simp] theorem Dev.putTmr_slot (d : Dev) (m : Nat) (x : Tmr) (n : Nat) (k : Nat)  : (d.putTmr m x).slot n k = d.slot n k := rfl
@[simp] theorem Dev.putPort_slot (d : Dev) (m : Nat) (x : Port) (n : Nat) (k : Nat)  : (d.putPort m x).slot n k = d.slot n k := rfl
@[simp] theorem Dev.putChan_slot (d : Dev) (m : Nat) (x : Chan) (n : Nat) (k : Nat)  : (d.putChan m x).slot n k = d.slot n k := rfl
@[simp] theorem Dev.putCell_slot (d : Dev) (m : Nat) (x : Cell) (n : Nat) (k : Nat)  : (d.putCell m x).slot n k = d.slot n k := rfl
@[simp] theorem Dev.putFur_slot (d : Dev) (m : Nat) (x : Fur) (n : Nat) (k : Nat)  : (d.putFur m x).slot n k = d.slot n k := rfl
@[simp] theorem Dev.putTxn_slot (d : Dev) (m : Nat) (x : Txn) (n : Nat) (k : Nat)  : (d.putTxn m x).slot n k = d.slot n k := rfl
@[simp] theorem Dev.putSlot_slot (d : Dev) (n k : Nat) (x : Slot) : (d.putSlot n k x).slot n k = x := Tab.get_set_self _ _ _ _
theorem Dev.putSlot_slot_ne (d : Dev) {n k m l : Nat} (x : Slot) (h : 8 * m + l ≠ 8 * n + k) : (d.putSlot n k x).slot m l = d.slot m l := Tab.get_set_ne _ _ _ _ h
@[simp] theorem Dev.putTmr_rd (d : Dev) (n : Nat) (x : Tmr) (j : Nat) : (d.putTmr n x).rd j = d.rd j := rfl
@[simp] theorem Dev.putTmr_fg (d : Dev) (n : Nat) (x : Tmr) (j : Nat) (f : Span) : (d.putTmr n x).fg j f = d.fg j f := rfl
@[simp] theorem Dev.putTmr_ff (d : Dev) (n : Nat) (x : Tmr) (j : Nat) (f : Span) : (d.putTmr n x).ff j f = d.ff j f := rfl
@[simp] theorem Dev.wr_tmr (d : Dev) (k : Nat) (w : Word) (n : Nat)  : (d.wr k w).tmr n = d.tmr n := rfl
@[simp] theorem Dev.putDom_tmr (d : Dev) (m : Nat) (x : Dom) (n : Nat)  : (d.putDom m x).tmr n = d.tmr n := rfl
@[simp] theorem Dev.putSlot_tmr (d : Dev) (m l : Nat) (x : Slot) (n : Nat)  : (d.putSlot m l x).tmr n = d.tmr n := rfl
@[simp] theorem Dev.putPort_tmr (d : Dev) (m : Nat) (x : Port) (n : Nat)  : (d.putPort m x).tmr n = d.tmr n := rfl
@[simp] theorem Dev.putChan_tmr (d : Dev) (m : Nat) (x : Chan) (n : Nat)  : (d.putChan m x).tmr n = d.tmr n := rfl
@[simp] theorem Dev.putCell_tmr (d : Dev) (m : Nat) (x : Cell) (n : Nat)  : (d.putCell m x).tmr n = d.tmr n := rfl
@[simp] theorem Dev.putFur_tmr (d : Dev) (m : Nat) (x : Fur) (n : Nat)  : (d.putFur m x).tmr n = d.tmr n := rfl
@[simp] theorem Dev.putTxn_tmr (d : Dev) (m : Nat) (x : Txn) (n : Nat)  : (d.putTxn m x).tmr n = d.tmr n := rfl
@[simp] theorem Dev.putTmr_tmr (d : Dev) (n : Nat) (x : Tmr) : (d.putTmr n x).tmr n = x := Tab.get_set_self _ _ _ _
theorem Dev.putTmr_tmr_ne (d : Dev) {n m : Nat} (x : Tmr) (h : m ≠ n) : (d.putTmr n x).tmr m = d.tmr m := Tab.get_set_ne _ _ _ _ h
@[simp] theorem Dev.putTmr_putTmr (d : Dev) (n : Nat) (x y : Tmr) : (d.putTmr n x).putTmr n y = d.putTmr n y := by simp [Dev.putTmr]
@[simp] theorem Dev.putPort_rd (d : Dev) (n : Nat) (x : Port) (j : Nat) : (d.putPort n x).rd j = d.rd j := rfl
@[simp] theorem Dev.putPort_fg (d : Dev) (n : Nat) (x : Port) (j : Nat) (f : Span) : (d.putPort n x).fg j f = d.fg j f := rfl
@[simp] theorem Dev.putPort_ff (d : Dev) (n : Nat) (x : Port) (j : Nat) (f : Span) : (d.putPort n x).ff j f = d.ff j f := rfl
@[simp] theorem Dev.wr_port (d : Dev) (k : Nat) (w : Word) (n : Nat)  : (d.wr k w).port n = d.port n := rfl
@[simp] theorem Dev.putDom_port (d : Dev) (m : Nat) (x : Dom) (n : Nat)  : (d.putDom m x).port n = d.port n := rfl
@[simp] theorem Dev.putSlot_port (d : Dev) (m l : Nat) (x : Slot) (n : Nat)  : (d.putSlot m l x).port n = d.port n := rfl
@[simp] theorem Dev.putTmr_port (d : Dev) (m : Nat) (x : Tmr) (n : Nat)  : (d.putTmr m x).port n = d.port n := rfl
@[simp] theorem Dev.putChan_port (d : Dev) (m : Nat) (x : Chan) (n : Nat)  : (d.putChan m x).port n = d.port n := rfl
@[simp] theorem Dev.putCell_port (d : Dev) (m : Nat) (x : Cell) (n : Nat)  : (d.putCell m x).port n = d.port n := rfl
@[simp] theorem Dev.putFur_port (d : Dev) (m : Nat) (x : Fur) (n : Nat)  : (d.putFur m x).port n = d.port n := rfl
@[simp] theorem Dev.putTxn_port (d : Dev) (m : Nat) (x : Txn) (n : Nat)  : (d.putTxn m x).port n = d.port n := rfl
@[simp] theorem Dev.putPort_port (d : Dev) (n : Nat) (x : Port) : (d.putPort n x).port n = x := Tab.get_set_self _ _ _ _
theorem Dev.putPort_port_ne (d : Dev) {n m : Nat} (x : Port) (h : m ≠ n) : (d.putPort n x).port m = d.port m := Tab.get_set_ne _ _ _ _ h
@[simp] theorem Dev.putPort_putPort (d : Dev) (n : Nat) (x y : Port) : (d.putPort n x).putPort n y = d.putPort n y := by simp [Dev.putPort]
@[simp] theorem Dev.putChan_rd (d : Dev) (n : Nat) (x : Chan) (j : Nat) : (d.putChan n x).rd j = d.rd j := rfl
@[simp] theorem Dev.putChan_fg (d : Dev) (n : Nat) (x : Chan) (j : Nat) (f : Span) : (d.putChan n x).fg j f = d.fg j f := rfl
@[simp] theorem Dev.putChan_ff (d : Dev) (n : Nat) (x : Chan) (j : Nat) (f : Span) : (d.putChan n x).ff j f = d.ff j f := rfl
@[simp] theorem Dev.wr_chan (d : Dev) (k : Nat) (w : Word) (n : Nat)  : (d.wr k w).chan n = d.chan n := rfl
@[simp] theorem Dev.putDom_chan (d : Dev) (m : Nat) (x : Dom) (n : Nat)  : (d.putDom m x).chan n = d.chan n := rfl
@[simp] theorem Dev.putSlot_chan (d : Dev) (m l : Nat) (x : Slot) (n : Nat)  : (d.putSlot m l x).chan n = d.chan n := rfl
@[simp] theorem Dev.putTmr_chan (d : Dev) (m : Nat) (x : Tmr) (n : Nat)  : (d.putTmr m x).chan n = d.chan n := rfl
@[simp] theorem Dev.putPort_chan (d : Dev) (m : Nat) (x : Port) (n : Nat)  : (d.putPort m x).chan n = d.chan n := rfl
@[simp] theorem Dev.putCell_chan (d : Dev) (m : Nat) (x : Cell) (n : Nat)  : (d.putCell m x).chan n = d.chan n := rfl
@[simp] theorem Dev.putFur_chan (d : Dev) (m : Nat) (x : Fur) (n : Nat)  : (d.putFur m x).chan n = d.chan n := rfl
@[simp] theorem Dev.putTxn_chan (d : Dev) (m : Nat) (x : Txn) (n : Nat)  : (d.putTxn m x).chan n = d.chan n := rfl
@[simp] theorem Dev.putChan_chan (d : Dev) (n : Nat) (x : Chan) : (d.putChan n x).chan n = x := Tab.get_set_self _ _ _ _
theorem Dev.putChan_chan_ne (d : Dev) {n m : Nat} (x : Chan) (h : m ≠ n) : (d.putChan n x).chan m = d.chan m := Tab.get_set_ne _ _ _ _ h
@[simp] theorem Dev.putChan_putChan (d : Dev) (n : Nat) (x y : Chan) : (d.putChan n x).putChan n y = d.putChan n y := by simp [Dev.putChan]
@[simp] theorem Dev.putCell_rd (d : Dev) (n : Nat) (x : Cell) (j : Nat) : (d.putCell n x).rd j = d.rd j := rfl
@[simp] theorem Dev.putCell_fg (d : Dev) (n : Nat) (x : Cell) (j : Nat) (f : Span) : (d.putCell n x).fg j f = d.fg j f := rfl
@[simp] theorem Dev.putCell_ff (d : Dev) (n : Nat) (x : Cell) (j : Nat) (f : Span) : (d.putCell n x).ff j f = d.ff j f := rfl
@[simp] theorem Dev.wr_cell (d : Dev) (k : Nat) (w : Word) (n : Nat)  : (d.wr k w).cell n = d.cell n := rfl
@[simp] theorem Dev.putDom_cell (d : Dev) (m : Nat) (x : Dom) (n : Nat)  : (d.putDom m x).cell n = d.cell n := rfl
@[simp] theorem Dev.putSlot_cell (d : Dev) (m l : Nat) (x : Slot) (n : Nat)  : (d.putSlot m l x).cell n = d.cell n := rfl
@[simp] theorem Dev.putTmr_cell (d : Dev) (m : Nat) (x : Tmr) (n : Nat)  : (d.putTmr m x).cell n = d.cell n := rfl
@[simp] theorem Dev.putPort_cell (d : Dev) (m : Nat) (x : Port) (n : Nat)  : (d.putPort m x).cell n = d.cell n := rfl
@[simp] theorem Dev.putChan_cell (d : Dev) (m : Nat) (x : Chan) (n : Nat)  : (d.putChan m x).cell n = d.cell n := rfl
@[simp] theorem Dev.putFur_cell (d : Dev) (m : Nat) (x : Fur) (n : Nat)  : (d.putFur m x).cell n = d.cell n := rfl
@[simp] theorem Dev.putTxn_cell (d : Dev) (m : Nat) (x : Txn) (n : Nat)  : (d.putTxn m x).cell n = d.cell n := rfl
@[simp] theorem Dev.putCell_cell (d : Dev) (n : Nat) (x : Cell) : (d.putCell n x).cell n = x := Tab.get_set_self _ _ _ _
theorem Dev.putCell_cell_ne (d : Dev) {n m : Nat} (x : Cell) (h : m ≠ n) : (d.putCell n x).cell m = d.cell m := Tab.get_set_ne _ _ _ _ h
@[simp] theorem Dev.putCell_putCell (d : Dev) (n : Nat) (x y : Cell) : (d.putCell n x).putCell n y = d.putCell n y := by simp [Dev.putCell]
@[simp] theorem Dev.putFur_rd (d : Dev) (n : Nat) (x : Fur) (j : Nat) : (d.putFur n x).rd j = d.rd j := rfl
@[simp] theorem Dev.putFur_fg (d : Dev) (n : Nat) (x : Fur) (j : Nat) (f : Span) : (d.putFur n x).fg j f = d.fg j f := rfl
@[simp] theorem Dev.putFur_ff (d : Dev) (n : Nat) (x : Fur) (j : Nat) (f : Span) : (d.putFur n x).ff j f = d.ff j f := rfl
@[simp] theorem Dev.wr_fur (d : Dev) (k : Nat) (w : Word) (n : Nat)  : (d.wr k w).fur n = d.fur n := rfl
@[simp] theorem Dev.putDom_fur (d : Dev) (m : Nat) (x : Dom) (n : Nat)  : (d.putDom m x).fur n = d.fur n := rfl
@[simp] theorem Dev.putSlot_fur (d : Dev) (m l : Nat) (x : Slot) (n : Nat)  : (d.putSlot m l x).fur n = d.fur n := rfl
@[simp] theorem Dev.putTmr_fur (d : Dev) (m : Nat) (x : Tmr) (n : Nat)  : (d.putTmr m x).fur n = d.fur n := rfl
@[simp] theorem Dev.putPort_fur (d : Dev) (m : Nat) (x : Port) (n : Nat)  : (d.putPort m x).fur n = d.fur n := rfl
@[simp] theorem Dev.putChan_fur (d : Dev) (m : Nat) (x : Chan) (n : Nat)  : (d.putChan m x).fur n = d.fur n := rfl
@[simp] theorem Dev.putCell_fur (d : Dev) (m : Nat) (x : Cell) (n : Nat)  : (d.putCell m x).fur n = d.fur n := rfl
@[simp] theorem Dev.putTxn_fur (d : Dev) (m : Nat) (x : Txn) (n : Nat)  : (d.putTxn m x).fur n = d.fur n := rfl
@[simp] theorem Dev.putFur_fur (d : Dev) (n : Nat) (x : Fur) : (d.putFur n x).fur n = x := Tab.get_set_self _ _ _ _
theorem Dev.putFur_fur_ne (d : Dev) {n m : Nat} (x : Fur) (h : m ≠ n) : (d.putFur n x).fur m = d.fur m := Tab.get_set_ne _ _ _ _ h
@[simp] theorem Dev.putFur_putFur (d : Dev) (n : Nat) (x y : Fur) : (d.putFur n x).putFur n y = d.putFur n y := by simp [Dev.putFur]
@[simp] theorem Dev.putTxn_rd (d : Dev) (n : Nat) (x : Txn) (j : Nat) : (d.putTxn n x).rd j = d.rd j := rfl
@[simp] theorem Dev.putTxn_fg (d : Dev) (n : Nat) (x : Txn) (j : Nat) (f : Span) : (d.putTxn n x).fg j f = d.fg j f := rfl
@[simp] theorem Dev.putTxn_ff (d : Dev) (n : Nat) (x : Txn) (j : Nat) (f : Span) : (d.putTxn n x).ff j f = d.ff j f := rfl
@[simp] theorem Dev.wr_txn (d : Dev) (k : Nat) (w : Word) (n : Nat)  : (d.wr k w).txn n = d.txn n := rfl
@[simp] theorem Dev.putDom_txn (d : Dev) (m : Nat) (x : Dom) (n : Nat)  : (d.putDom m x).txn n = d.txn n := rfl
@[simp] theorem Dev.putSlot_txn (d : Dev) (m l : Nat) (x : Slot) (n : Nat)  : (d.putSlot m l x).txn n = d.txn n := rfl
@[simp] theorem Dev.putTmr_txn (d : Dev) (m : Nat) (x : Tmr) (n : Nat)  : (d.putTmr m x).txn n = d.txn n := rfl
@[simp] theorem Dev.putPort_txn (d : Dev) (m : Nat) (x : Port) (n : Nat)  : (d.putPort m x).txn n = d.txn n := rfl
@[simp] theorem Dev.putChan_txn (d : Dev) (m : Nat) (x : Chan) (n : Nat)  : (d.putChan m x).txn n = d.txn n := rfl
@[simp] theorem Dev.putCell_txn (d : Dev) (m : Nat) (x : Cell) (n : Nat)  : (d.putCell m x).txn n = d.txn n := rfl
@[simp] theorem Dev.putFur_txn (d : Dev) (m : Nat) (x : Fur) (n : Nat)  : (d.putFur m x).txn n = d.txn n := rfl
@[simp] theorem Dev.putTxn_txn (d : Dev) (n : Nat) (x : Txn) : (d.putTxn n x).txn n = x := Tab.get_set_self _ _ _ _
theorem Dev.putTxn_txn_ne (d : Dev) {n m : Nat} (x : Txn) (h : m ≠ n) : (d.putTxn n x).txn m = d.txn m := Tab.get_set_ne _ _ _ _ h
@[simp] theorem Dev.putTxn_putTxn (d : Dev) (n : Nat) (x y : Txn) : (d.putTxn n x).putTxn n y = d.putTxn n y := by simp [Dev.putTxn]

end Sys2Proof.Machine
end

