-- ==== Sys2Proof/Laws/Cell.lean ====
section
/-! SUPPORT. A bundle of one op in a cell that takes it at once: what its issue leaves. -/

namespace Sys2Proof.Machine

open Sys2Proof

/-! ### What `idle` says -/

theorem Cell.idle_iff (x : Cell) : x.idle = true ↔
    (x.bundle = [] ∧ x.closed = false ∧ x.cal = .agree ∧ x.due = [] ∧ x.loads = [] ∧ x.stores = [] ∧ x.longs = [] ∧
     x.ists = [] ∧ x.held = [] ∧ x.shadow = [] ∧ x.delay = none ∧ x.resume = false ∧ x.blk = none ∧ x.wait = .none ∧
     x.walk = none ∧ x.vec = none ∧ x.entry = none ∧ x.stall = false ∧ x.once = false ∧ x.loops = [] ∧ x.lbuf = none ∧
     x.len = false ∧ x.s1On = false ∧ x.s2On = false ∧ x.pc + 8 < 0x8000) := by
  simp only [Cell.idle, Bool.and_eq_true, decide_eq_true_eq, and_assoc]

/-- The cell with the one op of a bundle. -/
def Cell.holds (x : Cell) (o : Op) : Cell := { x with bundle := [o], closed := true }

@[simp] theorem Cell.holds_g (x : Cell) (o : Op) : (x.holds o).g = x.g := rfl
@[simp] theorem Cell.holds_f (x : Cell) (o : Op) : (x.holds o).f = x.f := rfl
@[simp] theorem Cell.holds_p (x : Cell) (o : Op) : (x.holds o).p = x.p := rfl
@[simp] theorem Cell.holds_pc (x : Cell) (o : Op) : (x.holds o).pc = x.pc := rfl
@[simp] theorem Cell.holds_st (x : Cell) (o : Op) : (x.holds o).st = x.st := rfl
@[simp] theorem Cell.holds_epc (x : Cell) (o : Op) : (x.holds o).epc = x.epc := rfl
@[simp] theorem Cell.holds_estat (x : Cell) (o : Op) : (x.holds o).estat = x.estat := rfl
@[simp] theorem Cell.holds_mepc (x : Cell) (o : Op) : (x.holds o).mepc = x.mepc := rfl
@[simp] theorem Cell.holds_mestat (x : Cell) (o : Op) : (x.holds o).mestat = x.mestat := rfl
@[simp] theorem Cell.holds_evb (x : Cell) (o : Op) : (x.holds o).evb = x.evb := rfl
@[simp] theorem Cell.holds_part (x : Cell) (o : Op) : (x.holds o).part = x.part := rfl
@[simp] theorem Cell.holds_pgrp (x : Cell) (o : Op) : (x.holds o).pgrp = x.pgrp := rfl
@[simp] theorem Cell.holds_hilat (x : Cell) (o : Op) : (x.holds o).hilat = x.hilat := rfl
@[simp] theorem Cell.holds_rdepth (x : Cell) (o : Op) : (x.holds o).rdepth = x.rdepth := rfl
@[simp] theorem Cell.holds_rtop (x : Cell) (o : Op) : (x.holds o).rtop = x.rtop := rfl
@[simp] theorem Cell.holds_rse (x : Cell) (o : Op) : (x.holds o).rse = x.rse := rfl
@[simp] theorem Cell.holds_loops (x : Cell) (o : Op) : (x.holds o).loops = x.loops := rfl
@[simp] theorem Cell.holds_trs1d (x : Cell) (o : Op) : (x.holds o).trs1d = x.trs1d := rfl
@[simp] theorem Cell.holds_trs1i (x : Cell) (o : Op) : (x.holds o).trs1i = x.trs1i := rfl
@[simp] theorem Cell.holds_trs2c (x : Cell) (o : Op) : (x.holds o).trs2c = x.trs2c := rfl
@[simp] theorem Cell.holds_trs2d (x : Cell) (o : Op) : (x.holds o).trs2d = x.trs2d := rfl
@[simp] theorem Cell.holds_trs2i (x : Cell) (o : Op) : (x.holds o).trs2i = x.trs2i := rfl
@[simp] theorem Cell.holds_trfr (x : Cell) (o : Op) : (x.holds o).trfr = x.trfr := rfl
@[simp] theorem Cell.holds_trfva (x : Cell) (o : Op) : (x.holds o).trfva = x.trfva := rfl
@[simp] theorem Cell.holds_trfia (x : Cell) (o : Op) : (x.holds o).trfia = x.trfia := rfl
@[simp] theorem Cell.holds_trfta (x : Cell) (o : Op) : (x.holds o).trfta = x.trfta := rfl
@[simp] theorem Cell.holds_tridx (x : Cell) (o : Op) : (x.holds o).tridx = x.tridx := rfl
@[simp] theorem Cell.holds_trnxt (x : Cell) (o : Op) : (x.holds o).trnxt = x.trnxt := rfl
@[simp] theorem Cell.holds_trcnt (x : Cell) (o : Op) : (x.holds o).trcnt = x.trcnt := rfl
@[simp] theorem Cell.holds_txCur (x : Cell) (o : Op) : (x.holds o).txCur = x.txCur := rfl
@[simp] theorem Cell.holds_txAbc (x : Cell) (o : Op) : (x.holds o).txAbc = x.txAbc := rfl
@[simp] theorem Cell.holds_txAbn (x : Cell) (o : Op) : (x.holds o).txAbn = x.txAbn := rfl
@[simp] theorem Cell.holds_txErr (x : Cell) (o : Op) : (x.holds o).txErr = x.txErr := rfl
@[simp] theorem Cell.holds_cal (x : Cell) (o : Op) : (x.holds o).cal = x.cal := rfl
@[simp] theorem Cell.holds_bun (x : Cell) (o : Op) : (x.holds o).bun = x.bun := rfl
@[simp] theorem Cell.holds_depth (x : Cell) (o : Op) : (x.holds o).depth = x.depth := rfl
@[simp] theorem Cell.holds_seq (x : Cell) (o : Op) : (x.holds o).seq = x.seq := rfl
@[simp] theorem Cell.holds_due (x : Cell) (o : Op) : (x.holds o).due = x.due := rfl
@[simp] theorem Cell.holds_loads (x : Cell) (o : Op) : (x.holds o).loads = x.loads := rfl
@[simp] theorem Cell.holds_stores (x : Cell) (o : Op) : (x.holds o).stores = x.stores := rfl
@[simp] theorem Cell.holds_longs (x : Cell) (o : Op) : (x.holds o).longs = x.longs := rfl
@[simp] theorem Cell.holds_ists (x : Cell) (o : Op) : (x.holds o).ists = x.ists := rfl
@[simp] theorem Cell.holds_held (x : Cell) (o : Op) : (x.holds o).held = x.held := rfl
@[simp] theorem Cell.holds_shadow (x : Cell) (o : Op) : (x.holds o).shadow = x.shadow := rfl
@[simp] theorem Cell.holds_delay (x : Cell) (o : Op) : (x.holds o).delay = x.delay := rfl
@[simp] theorem Cell.holds_resume (x : Cell) (o : Op) : (x.holds o).resume = x.resume := rfl
@[simp] theorem Cell.holds_blk (x : Cell) (o : Op) : (x.holds o).blk = x.blk := rfl
@[simp] theorem Cell.holds_wait (x : Cell) (o : Op) : (x.holds o).wait = x.wait := rfl
@[simp] theorem Cell.holds_walk (x : Cell) (o : Op) : (x.holds o).walk = x.walk := rfl
@[simp] theorem Cell.holds_line (x : Cell) (o : Op) : (x.holds o).line = x.line := rfl
@[simp] theorem Cell.holds_vec (x : Cell) (o : Op) : (x.holds o).vec = x.vec := rfl
@[simp] theorem Cell.holds_entry (x : Cell) (o : Op) : (x.holds o).entry = x.entry := rfl
@[simp] theorem Cell.holds_dc (x : Cell) (o : Op) : (x.holds o).dc = x.dc := rfl
@[simp] theorem Cell.holds_dcNxt (x : Cell) (o : Op) : (x.holds o).dcNxt = x.dcNxt := rfl
@[simp] theorem Cell.holds_wl (x : Cell) (o : Op) : (x.holds o).wl = x.wl := rfl
@[simp] theorem Cell.holds_wlNxt (x : Cell) (o : Op) : (x.holds o).wlNxt = x.wlNxt := rfl
@[simp] theorem Cell.holds_btb (x : Cell) (o : Op) : (x.holds o).btb = x.btb := rfl
@[simp] theorem Cell.holds_lbuf (x : Cell) (o : Op) : (x.holds o).lbuf = x.lbuf := rfl
@[simp] theorem Cell.holds_attrs (x : Cell) (o : Op) : (x.holds o).attrs = x.attrs := rfl
@[simp] theorem Cell.holds_attrNxt (x : Cell) (o : Op) : (x.holds o).attrNxt = x.attrNxt := rfl
@[simp] theorem Cell.holds_tlb (x : Cell) (o : Op) : (x.holds o).tlb = x.tlb := rfl
@[simp] theorem Cell.holds_frozen (x : Cell) (o : Op) : (x.holds o).frozen = x.frozen := rfl
@[simp] theorem Cell.holds_quiet (x : Cell) (o : Op) : (x.holds o).quiet = x.quiet := rfl
@[simp] theorem Cell.holds_halted (x : Cell) (o : Op) : (x.holds o).halted = x.halted := rfl
@[simp] theorem Cell.holds_once (x : Cell) (o : Op) : (x.holds o).once = x.once := rfl
@[simp] theorem Cell.holds_parked (x : Cell) (o : Op) : (x.holds o).parked = x.parked := rfl
@[simp] theorem Cell.holds_stall (x : Cell) (o : Op) : (x.holds o).stall = x.stall := rfl
@[simp] theorem Cell.holds_len (x : Cell) (o : Op) : (x.holds o).len = x.len := rfl
@[simp] theorem Cell.holds_pl (x : Cell) (o : Op) : (x.holds o).pl = x.pl := rfl
@[simp] theorem Cell.holds_bundle (x : Cell) (o : Op) : (x.holds o).bundle = [o] := rfl
@[simp] theorem Cell.holds_closed (x : Cell) (o : Op) : (x.holds o).closed = true := rfl

theorem State.ready_iff (s : State) (c : Nat) : s.ready c = true ↔
    (s.dev.alive = true ∧ s.dev.running c = true ∧ (s.dev.cell c).idle = true ∧ s.dev.txCopying c = false ∧
     s.dev.pick c (s.dev.cell c).st = none) := by
  simp only [State.ready, Bool.and_eq_true, decide_eq_true_eq, Bool.not_eq_true', and_assoc]

/-! ### What a change of a cell's record leaves -/

@[simp] theorem Dev.putCell_role (d : Dev) (c : Nat) (x : Cell) (k : Nat) : (d.putCell c x).role k = d.role k := rfl
@[simp] theorem Dev.putCell_mates (d : Dev) (c : Nat) (x : Cell) (k : Nat) : (d.putCell c x).mates k = d.mates k := rfl
@[simp] theorem Dev.putCell_lead (d : Dev) (c : Nat) (x : Cell) (k : Nat) : (d.putCell c x).lead k = d.lead k := rfl
@[simp] theorem Dev.putCell_cellHere (d : Dev) (c : Nat) (x : Cell) (k : Nat) : (d.putCell c x).cellHere k = d.cellHere k := rfl
@[simp] theorem Dev.putCell_txCopying (d : Dev) (c : Nat) (x : Cell) (k : Nat) : (d.putCell c x).txCopying k = d.txCopying k := rfl
@[simp] theorem Dev.putCell_pick (d : Dev) (c : Nat) (x : Cell) (k : Nat) (st : Word) : (d.putCell c x).pick k st = d.pick k st := rfl
@[simp] theorem Dev.putCell_alive (d : Dev) (c : Nat) (x : Cell) : (d.putCell c x).alive = d.alive := rfl

/-- A cell that runs goes on running where its record changes in no field that stops it. -/
theorem Dev.running_putCell (d : Dev) (c : Nat) (x : Cell) (hf : x.frozen = (d.cell c).frozen) (hq : x.quieted = (d.cell c).quieted)
    (hh : x.halted = (d.cell c).halted) (ho : x.once = (d.cell c).once) : (d.putCell c x).running c = d.running c := by
  simp only [Dev.running, Dev.putCell_cell, hf, hq, hh, ho]
  rfl

@[simp] theorem State.ifJudged_agree (s : State) (c : Nat) (k : State → Nat → State) : s.ifJudged c .agree k = k s c := by
  have : s.dev.judged c .agree = (some c, s.dev) := by
    unfold Dev.judged
    split <;> rfl
  unfold State.ifJudged
  rw [this]

/-- What a ready cell that has taken in a bundle of one op shows: it stands at a boundary with nothing due, and its op words are held. -/
theorem State.ready_holds (s : State) (c : Nat) (o : Op) (hr : s.ready c = true) (hw : o.words ≤ 8) :
    let d := s.dev.putCell c ((s.dev.cell c).holds o)
    d.running c = true ∧ d.atBoundary c = true ∧ ((s.dev.cell c).holds o).dueCause = none ∧ d.dueEvent c = none ∧ d.fromLoop c = false ∧
    d.fetchAll c (s.dev.cell c).pc o.words = .held := by
  obtain ⟨ha, hrun, hi, htx, hp⟩ := (State.ready_iff s _).1 hr
  have hi' := (Cell.idle_iff _).1 hi
  generalize hx : s.dev.cell c = x at *
  obtain ⟨h1, h2, h3, h4, h5, h6, h7, h8, h9, h10, h11, h12, h13, h14, h15, h16, h17, h18, h19, h20, h21, h22, h23, h24, h25⟩ := hi'
  have hrun' : (s.dev.putCell c (x.holds o)).running c = true := by
    rw [Dev.running_putCell]
    · exact hrun
    all_goals rw [hx]; rfl
  have hat : (s.dev.putCell c (x.holds o)).atBoundary c = true := by
    simp only [Dev.atBoundary, Dev.putCell_cell, hrun', Cell.late, Cell.holds_delay, Cell.holds_walk, Cell.holds_stall, Cell.holds_loads,
      h5, h11, h15, h18, Dev.putCell_txCopying, htx]
    rfl
  refine ⟨hrun', hat, by simp [Cell.dueCause, h9], ?_, by simp [Dev.fromLoop, h21], ?_⟩
  · simp only [Dev.dueEvent, hat, Dev.putCell_cell, Dev.putCell_pick]
    simp [h17, hp]
  · have hfetch : ∀ n a, a + n ≤ 0x8000 → (s.dev.putCell c (x.holds o)).fetchAll c a n = .held := by
      intro n
      induction n with
      | zero => intro a _; rfl
      | succ n ih =>
        intro a ha'
        have h1' : a < 0x8000 := by omega
        have hop : opAdd a 1 = a + 1 := by unfold opAdd; omega
        have hfo : (s.dev.putCell c (x.holds o)).fetchOp c a = .held := by
          simp [Dev.fetchOp, Cell.translate, h1']
        simp only [Dev.fetchAll, hfo, hop]
        rw [if_neg (by omega), ih (a + 1) (by omega)]
    exact hfetch o.words x.pc (by omega)

/-- The op word of a ready cell that ends its bundle: the bundle of that one op comes to its checks. -/
theorem State.rowOp_next (s : State) (h : OpHdr) (o : Op) (hr : s.ready h.cell.val = true) (he : endsBundle h)
    (hw : ({ o with pred := h.pred.val } : Op).words ≤ 8) :
    s.rowOp h o = (s.onDev (s.dev.putCell h.cell.val ((s.dev.cell h.cell.val).holds { o with pred := h.pred.val }))).issueNext h.cell.val := by
  obtain ⟨ha, hrun, hi, htx, hp⟩ := (State.ready_iff s _).1 hr
  have hi' := (Cell.idle_iff _).1 hi
  have hs := State.ready_holds s h.cell.val { o with pred := h.pred.val } hr hw
  generalize hc : h.cell.val = c at *
  generalize ho : ({ o with pred := h.pred.val } : Op) = o' at *
  generalize hx : s.dev.cell c = x at *
  obtain ⟨h1, h2, h3, h4, h5, h6, h7, h8, h9, h10, h11, h12, h13, h14, h15, h16, h17, h18, h19, h20, h21, h22, h23, h24, h25⟩ := hi'
  obtain ⟨r1, r2, r3, r4, -, -⟩ := hs
  have hy : x.takeIn o' true .agree = x.holds o' := by
    simp [Cell.takeIn, Cell.holds, h1]
  have hz : (x.holds o').calTaken = x.holds o' := by
    unfold Cell.calTaken
    rw [← h3]; rfl
  unfold State.rowOp State.opArrives
  simp only [hc, hx, hrun, h2, he.1, he.2, ho, hy]
  unfold State.pump
  simp only [Dev.putCell_cell, Cell.holds_closed, if_true]
  unfold State.tryIssue
  simp only [Dev.putCell_cell, Cell.holds_closed, r1, r2, r3, r4, Cell.holds_wait, h14, Cell.holds_blk, h13, Cell.holds_walk, h15, Cell.late,
    Cell.holds_loads, h5, Cell.holds_stall, h18, Cell.holds_cal, h3, hz, Dev.putCell_putCell, Dev.putCell_txCopying, htx]
  simp [State.onDev]

/-- The bundle of one op that a ready cell takes in comes to its issue with no hold. -/
theorem State.rowOp_ready (s : State) (h : OpHdr) (o : Op) (ops : List (Op × Nat × Nat))
    (hr : s.ready h.cell.val = true) (he : endsBundle h) (hw : ({ o with pred := h.pred.val } : Op).words ≤ 8)
    (hf : ((s.dev.cell h.cell.val).holds { o with pred := h.pred.val }).opFault = none)
    (hd : (s.dev.putCell h.cell.val ((s.dev.cell h.cell.val).holds { o with pred := h.pred.val })).dataAll h.cell.val
      ((s.dev.cell h.cell.val).holds { o with pred := h.pred.val }).live = .ok ops)
    (hh : ops.any (fun q => (s.dev.putCell h.cell.val ((s.dev.cell h.cell.val).holds { o with pred := h.pred.val })).opHolds
      h.cell.val q.1 q.2.2) = false) :
    s.rowOp h o = (s.onDev (s.dev.putCell h.cell.val ((s.dev.cell h.cell.val).holds { o with pred := h.pred.val }))).issue h.cell.val ops := by
  rw [State.rowOp_next s h o hr he hw]
  obtain ⟨-, r2, r3, r4, r5, r6⟩ := State.ready_holds s h.cell.val { o with pred := h.pred.val } hr hw
  have h18 := ((Cell.idle_iff _).1 ((State.ready_iff s _).1 hr).2.2.1).2.2.2.2.2.2.2.2.2.2.2.2.2.2.2.2.2.1
  have hput : ((s.dev.cell h.cell.val).holds { o with pred := h.pred.val }).stalled false = (s.dev.cell h.cell.val).holds { o with pred := h.pred.val } := by
    rw [← h18]; rfl
  have hlen : opsLen [({ o with pred := h.pred.val } : Op)] = ({ o with pred := h.pred.val } : Op).words := by simp [opsLen]
  unfold State.issueNext
  simp only [State.onDev_dev, Dev.putCell_cell, Cell.holds_pc, Cell.holds_bundle, hlen, r5, r6, hf, hd, hh, hput, Dev.putCell_putCell, r2, r3, r4]
  simp [State.onDev]

/-- The bundle of one op that a ready cell takes in raises the first of its causes. -/
theorem State.rowOp_faults (s : State) (h : OpHdr) (o : Op) (cause a : Nat)
    (hr : s.ready h.cell.val = true) (he : endsBundle h) (hw : ({ o with pred := h.pred.val } : Op).words ≤ 8)
    (hf : ((s.dev.cell h.cell.val).holds { o with pred := h.pred.val }).opFault = some (cause, a))
    (hb : cause = cBRK → s.dev.brkHalts h.cell.val = false) :
    s.rowOp h o = s.onDev ((s.dev.putCell h.cell.val ((s.dev.cell h.cell.val).holds { o with pred := h.pred.val })).faultAt h.cell.val cause a
      (decide (cause = cIACC))) := by
  rw [State.rowOp_next s h o hr he hw]
  obtain ⟨-, -, -, -, r5, r6⟩ := State.ready_holds s h.cell.val { o with pred := h.pred.val } hr hw
  have hlen : opsLen [({ o with pred := h.pred.val } : Op)] = ({ o with pred := h.pred.val } : Op).words := by simp [opsLen]
  unfold State.issueNext
  simp only [State.onDev_dev, Dev.putCell_cell, Cell.holds_pc, Cell.holds_bundle, hlen, r5, r6, hf, Bool.false_eq_true, if_false]
  refine (if_neg ?_).trans rfl
  rintro ⟨hk, hb'⟩
  have h1 : (s.dev.putCell h.cell.val ((s.dev.cell h.cell.val).holds { o with pred := h.pred.val })).brkHalts h.cell.val
      = s.dev.brkHalts h.cell.val := by
    unfold Dev.brkHalts
    rw [Dev.putCell_cell]
    rfl
  rw [h1, hb hk] at hb'
  exact absurd hb' (by simp)

/-! ### The end of the bundle -/

/-- An op that leaves the flow of control alone. -/
def Op.plain (o : Op) : Bool :=
  !o.delays && !o.isBlk && !o.isWaitc && !decide (o.k = .sysc) && !decide (o.k = .loop)

/-- The cell once a bundle of one plain op has issued, before what it scheduled comes due. -/
def Cell.passed (y : Cell) (pc bun : Nat) : Cell :=
  { y with lbuf := none, bundle := [], closed := false, cal := .agree, stall := false, resume := false, vec := none, once := false,
           pc := pc, bun := bun, blk := none }

/-- A cell that takes a bundle at once has no block op and no WAITC under way. -/
theorem Cell.idle_unended (x : Cell) (o : Op) (hi : x.idle = true) : (x.holds o).unended = false := by
  have hi' := (Cell.idle_iff _).1 hi
  simp [Cell.unended, hi'.2.2.2.2.2.2.2.2.2.2.2.2.1, hi'.2.2.2.2.2.2.2.2.2.2.2.2.2.1]

theorem Cell.live_holds (x : Cell) (o : Op) (hr : x.resume = false) (hp : x.rf o.pred = true) : (x.holds o).live = [(o, x.pc)] := by
  have : (x.holds o).rf o.pred = true := hp
  simp [Cell.live, placed, this, hr]

theorem Cell.live_false (x : Cell) (o : Op) (hp : x.rf o.pred = false) : (x.holds o).live = [] := by
  have : (x.holds o).rf o.pred = false := hp
  simp [Cell.live, placed, this]

theorem Cell.afterBundle_plain (x y : Cell) (o : Op) (lben : Bool) (wait : Option CellWait) (hi : x.idle = true) (hp : o.plain = true) (hwt : wait = none)
    (hl : y.lbuf = none ∧ y.len = false) (hd : y.delay = none) (hb : y.blk = none) :
    (x.holds o).afterBundle y lben wait = (y.passed (opAdd x.pc o.words) (x.bun + 1)).settle.shadows := by
  subst hwt
  have hi' := (Cell.idle_iff _).1 hi
  obtain ⟨h1, h2, h3, h4, h5, h6, h7, h8, h9, h10, h11, h12, h13, h14, h15, h16, h17, h18, h19, h20, h21, h22, h23, h24, h25⟩ := hi'
  simp only [Op.plain, Bool.and_eq_true, Bool.not_eq_true', decide_eq_false_iff_not] at hp
  obtain ⟨⟨⟨⟨p1, p2⟩, p3⟩, p4⟩, p5⟩ := hp
  have hdl : (x.holds o).delayOf = none := by simp [Cell.delayOf, placed, p1]
  have hlive : ∀ q ∈ (x.holds o).live, q.1 = o := by
    intro q hq
    simp only [Cell.live, Cell.holds_bundle, placed, List.mem_filter, List.mem_singleton] at hq
    rw [hq.1]
  have hno : ∀ p : Op → Bool, p o = false → (x.holds o).liveOp p = none := by
    intro p hp
    unfold Cell.liveOp
    rw [List.find?_eq_none]
    intro q hq
    simp [hlive q hq, hp]
  have hblk : ∀ n t, (x.holds o).blockOf n none t = none := by
    intro n t
    unfold Cell.blockOf; rw [hno _ p2]
  have htrap : (x.holds o).trapOf = none := by
    unfold Cell.trapOf
    rw [List.find?_eq_none.2]
    · rfl
    · intro q hq; simp [hlive q hq, p4]
  have hbuf : y.buffer lben x.pc false = y := by
    unfold Cell.buffer
    split
    · simp [hl.2]
    · rw [← hl.1]
  unfold Cell.afterBundle
  simp only [hdl, hblk, htrap, Cell.predicted, Cell.holds_len, h22, Cell.holds_pc]
  simp only [and_self, if_true, Cell.trap]
  unfold Cell.startLoop
  rw [hno _ (by simp [p5])]
  simp only [Option.isSome_none, Bool.false_eq_true, if_false]
  congr 2
  have hlen : opsLen (x.holds o).bundle = o.words := by simp [opsLen]
  simp only [Cell.closeBundle, Cell.holds_pc, hdl, hbuf, Cell.advance, Cell.loopNext, hd, hlen, Cell.holds_bun]
  simp [Cell.passed, hb, hd, hl.1]

theorem Cell.unended_settle (x : Cell) : x.settle.unended = x.unended := by
  have hw : ∀ (y : Cell) r v, (y.wg r v).wait = y.wait ∧ (y.wg r v).blk = y.blk := by intro y r v; unfold Cell.wg; split <;> exact ⟨rfl, rfl⟩
  have hf : ∀ (y : Cell) r v, (y.wf r v).wait = y.wait ∧ (y.wf r v).blk = y.blk := by intro y r v; unfold Cell.wf; split <;> exact ⟨rfl, rfl⟩
  have ht : ∀ (y : Cell) e, (y.take e).wait = y.wait ∧ (y.take e).blk = y.blk := by
    intro y e; cases e <;> first | exact hw _ _ _ | exact hf _ _ _ | exact ⟨rfl, rfl⟩
  have h1 : ∀ (l : List Due) (y : Cell), (l.foldl (fun y q => y.take q.eff) y).wait = y.wait ∧ (l.foldl (fun y q => y.take q.eff) y).blk = y.blk := by
    intro l
    induction l with
    | nil => exact fun y => ⟨rfl, rfl⟩
    | cons q l ih => exact fun y => ⟨(ih _).1.trans (ht _ _).1, (ih _).2.trans (ht _ _).2⟩
  simp [Cell.settle, Cell.unended, h1]

theorem Cell.unended_shadows (x : Cell) : x.shadows.unended = x.unended := by
  unfold Cell.shadows
  split <;> rfl

theorem Cell.unended_passed (y : Cell) (pc bun : Nat) (h : y.unended = false) : (y.passed pc bun).unended = false := by
  unfold Cell.unended at *
  simp only [Bool.or_eq_false_iff] at h
  simpa [Cell.passed] using h.2

/-- What a bundle of one plain live op leaves: `y` is the cell after the op's effect, `d` the device. -/
theorem State.rowOp_plain (s : State) (h : OpHdr) (o : Op) (y : Cell) (d : Dev) (m : Mem) (pa : Nat)
    (hr : s.ready h.cell.val = true) (he : endsBundle h) (hpl : o.plain = true) (hw : o.words ≤ 8)
    (hpr : (s.dev.cell h.cell.val).rf h.pred.val = true)
    (hf : ((s.dev.cell h.cell.val).holds { o with pred := h.pred.val }).opFault = none)
    (hd : (s.dev.putCell h.cell.val ((s.dev.cell h.cell.val).holds { o with pred := h.pred.val })).dataAll h.cell.val
      [({ o with pred := h.pred.val }, (s.dev.cell h.cell.val).pc)] = .ok [({ o with pred := h.pred.val }, (s.dev.cell h.cell.val).pc, pa)])
    (hh : (s.dev.putCell h.cell.val ((s.dev.cell h.cell.val).holds { o with pred := h.pred.val })).opHolds
      h.cell.val { o with pred := h.pred.val } pa = false)
    (hi : (s.onDev (s.dev.putCell h.cell.val ((s.dev.cell h.cell.val).holds { o with pred := h.pred.val }))).issueOp h.cell.val
        ((s.dev.cell h.cell.val).holds { o with pred := h.pred.val }) { o with pred := h.pred.val } (s.dev.cell h.cell.val).pc pa
      = ⟨s.pending, m, d.putCell h.cell.val y⟩)
    (hrun : (d.run || d.boot.monitor) = (s.dev.run || s.dev.boot.monitor))
    (hl : y.lbuf = none ∧ y.len = false) (hdl : y.delay = none) (hu : y.unended = false) :
    s.rowOp h o = ⟨s.pending, m,
      (d.putCell h.cell.val ((y.passed (opAdd (s.dev.cell h.cell.val).pc o.words) ((s.dev.cell h.cell.val).bun + 1)).settle.shadows)).wr
        (clBun h.cell.val) (d.rd (clBun h.cell.val) + 1)⟩ := by
  obtain ⟨ha, hrn, hid, htx, hp⟩ := (State.ready_iff s _).1 hr
  have hi' := (Cell.idle_iff _).1 hid
  have hres : (s.dev.cell h.cell.val).resume = false := hi'.2.2.2.2.2.2.2.2.2.2.2.1
  have hent : (s.dev.cell h.cell.val).entry = none := hi'.2.2.2.2.2.2.2.2.2.2.2.2.2.2.2.2.1
  have hlive := Cell.live_holds (s.dev.cell h.cell.val) { o with pred := h.pred.val } hres hpr
  rw [State.rowOp_ready s h o _ hr he hw hf (by rw [hlive]; exact hd) (by simp [hh])]
  have hpl' : ({ o with pred := h.pred.val } : Op).plain = true := hpl
  have hwt : ∀ d' : Dev, d'.waitOf ((s.dev.cell h.cell.val).holds { o with pred := h.pred.val })
      (opsLen ((s.dev.cell h.cell.val).holds { o with pred := h.pred.val }).bundle) = none := by
    intro d'
    have : ({ o with pred := h.pred.val } : Op).isWaitc = false := by
      simp only [Op.plain, Bool.and_eq_true, Bool.not_eq_true'] at hpl'
      exact hpl'.1.1.2
    simp [Dev.waitOf, Cell.liveOp, hlive, this]
  have hgo : (s.dev.run || s.dev.boot.monitor) = true := by
    simp only [Dev.running, Bool.and_eq_true] at hrn
    exact hrn.1.1.1.1.1.1.1.1.1
  unfold State.issue
  simp only [State.onDev_dev, Dev.putCell_cell, List.foldl_cons, List.foldl_nil, hi]
  simp only [Dev.putCell_run, Dev.putCell_boot, hrun, hgo, Bool.not_true, Bool.false_eq_true, if_false, Cell.holds_entry, hent,
    Option.isSome_none, Dev.putCell_putCell]
  have hb : y.blk = none := by
    unfold Cell.unended at hu
    cases hy : y.blk <;> simp [hy] at hu ⊢
  rw [Cell.afterBundle_plain _ y _ _ _ hid hpl' (hwt _) hl hdl hb, Cell.unended_shadows, Cell.unended_settle, Cell.unended_passed _ _ _ hu]
  simp only [Bool.false_eq_true, if_false, Dev.countBundle, Dev.putCell_rd]
  rfl

end Sys2Proof.Machine
end

