-- ==== Sys2Proof/Laws/CellOps.lean ====
section
/-! SUPPORT. What a bundle of one op leaves in a cell that takes it at once, for each kind of op. -/

namespace Sys2Proof.Machine

open Sys2Proof

/-! ### What comes due -/

theorem Cell.settle_none (y : Cell) (h : y.due = []) : y.settle = y := by
  simp only [Cell.settle, h, List.filter_nil, List.foldl_cons, List.foldl_nil]
  rw [← h]

theorem Cell.settle_wait (y : Cell) (q : Due) (h : y.due = [q]) (ha : y.bun < q.at') : y.settle = y := by
  have h1 : ¬ q.at' ≤ y.bun := by omega
  simp [Cell.settle, h, h1, ha]
  rw [← h]

theorem Cell.settle_one (y : Cell) (q : Due) (h : y.due = [q]) (ha : q.at' ≤ y.bun) (hs : q.slot < 4) :
    y.settle = ({ y with due := [] } : Cell).take q.eff := by
  have h1 : ¬ y.bun < q.at' := by omega
  have h2 : q.slot = 0 ∨ q.slot = 1 ∨ q.slot = 2 ∨ q.slot = 3 := by omega
  rcases h2 with h2 | h2 | h2 | h2 <;> simp [Cell.settle, h, h1, ha, h2]

theorem Cell.shadows_none (y : Cell) (h : y.shadow = []) : y.shadows = y := by simp [Cell.shadows, h]

/-- The cell after its bundle is the cell before it with the next pc and one bundle more. -/
theorem Cell.passed_holds (x : Cell) (o : Op) (pc bun : Nat) (hi : x.idle = true) :
    ({ (x.holds o).passed pc bun with due := [] } : Cell) = { x with pc := pc, bun := bun } := by
  obtain ⟨h1, h2, h3, h4, h5, h6, h7, h8, h9, h10, h11, h12, h13, h14, h15, h16, h17, h18, h19, h20, h21, h22, h23, h24, h25⟩ :=
    (Cell.idle_iff _).1 hi
  cases x
  simp_all [Cell.holds, Cell.passed]

/-! ### Faults of a bundle of one op -/

/-- An op that raises none of the causes that its kind alone decides. -/
def Op.calm (o : Op) : Bool :=
  !decide (o.k = .call) && !decide (o.k = .callr) && !decide (o.k = .ret) && !decide (o.k = .brk) && (!decide (o.k = .limm) || decide (o.slot = 1 ∧ o.s2 = 0))

theorem Cell.mem_live (x : Cell) (o : Op) (q : Op) (h : q ∈ (x.holds o).live.map Prod.fst) : q = o := by
  simp only [Cell.live, Cell.holds_bundle, placed, List.mem_map, List.mem_filter, List.mem_singleton] at h
  obtain ⟨a, ⟨rfl, _⟩, rfl⟩ := h
  rfl

theorem Cell.opFault_holds (x : Cell) (o : Op) (hi : x.idle = true) (hc : o.calm = true) (hl : o.illegal = false)
    (hd : o.denied x.pl (x.rg o.s1) = false) (hist : o.k = .ist → istAddr (x.rg o.s1) o.imm < 0x8000) : (x.holds o).opFault = none := by
  have hi' := (Cell.idle_iff _).1 hi
  obtain ⟨h1, h2, h3, h4, h5, h6, h7, h8, h9, h10, h11, h12, h13, h14, h15, h16, h17, h18, h19, h20, h21, h22, h23, h24, h25⟩ := hi'
  simp only [Op.calm, Bool.and_eq_true, Bool.or_eq_true, Bool.not_eq_true', decide_eq_true_eq, decide_eq_false_iff_not] at hc
  obtain ⟨⟨⟨⟨c1, c2⟩, c3⟩, c4⟩, c6⟩ := hc
  have hm := Cell.mem_live x o
  have hib : (x.holds o).illegalBundle = false := by
    rcases c6 with c6 | c6 <;> simp [Cell.illegalBundle, slotsRise, c6, h11, h22]
  have any0 : ∀ p : Op → Bool, p o = false → ((x.holds o).live.map Prod.fst).any p = false := by
    intro p hp
    rw [List.any_eq_false]
    intro q hq
    rw [hm q hq, hp]; simp
  have hrg : ∀ r, (x.holds o).rg r = x.rg r := fun _ => rfl
  unfold Cell.opFault
  simp only [hib, Bool.false_eq_true, if_false]
  rw [any0 _ hl, any0 _ (by simpa [hrg] using hd), any0 _ (by
    split
    · exact absurd ‹_› c1
    · exact absurd ‹_› c2
    · rfl), any0 _ (by simp [c3]), any0 _ (by simp [c4])]
  simp only [Bool.false_eq_true, if_false]
  rw [List.find?_eq_none.2]
  intro q hq
  rw [hm q hq]
  by_cases hk : o.k = .ist
  · have := hist hk
    simp [hk, hrg]; omega
  · simp [hk]

/-! ### Ops whose one effect is on a register file, in the next bundle -/

theorem Cell.dueAt_nil (x : Cell) (e : Eff) (n : Nat) (h : x.due = []) : x.dueAt e n = x.bun + n := by
  unfold Cell.dueAt; cases e.preg <;> simp [h]

theorem State.rowOp_eff (s : State) (h : OpHdr) (o : Op) (k n : Nat) (e : Eff)
    (hr : s.ready h.cell.val = true) (he : endsBundle h) (hpl : o.plain = true) (hc : o.calm = true) (hl : o.illegal = false)
    (hpr : (s.dev.cell h.cell.val).rf h.pred.val = true)
    (hde : o.denied (s.dev.cell h.cell.val).pl ((s.dev.cell h.cell.val).rg o.s1) = false)
    (hist : o.k = .ist → istAddr ((s.dev.cell h.cell.val).rg o.s1) o.imm < 0x8000)
    (hdata : (s.dev.cell h.cell.val).dataOf o = none)
    (hh : (s.dev.putCell h.cell.val ((s.dev.cell h.cell.val).holds { o with pred := h.pred.val })).opHolds
      h.cell.val { o with pred := h.pred.val } 0 = false)
    (hi : (s.onDev (s.dev.putCell h.cell.val ((s.dev.cell h.cell.val).holds { o with pred := h.pred.val }))).issueOp h.cell.val
        ((s.dev.cell h.cell.val).holds { o with pred := h.pred.val }) { o with pred := h.pred.val } (s.dev.cell h.cell.val).pc 0
      = ⟨s.pending, s.mem, s.dev.putCell h.cell.val (((s.dev.cell h.cell.val).holds { o with pred := h.pred.val }).later k n e)⟩)
    (hk : k < 4) (hn : 1 ≤ n) :
    s.rowOp h o = s.issued h.cell.val o.words (fun x => if n = 1 then x.take e else { x with due := [⟨x.bun + n - 1, k, e⟩] }) := by
  obtain ⟨ha, hrn, hid, htx, hp⟩ := (State.ready_iff s _).1 hr
  have hi' := (Cell.idle_iff _).1 hid
  have hw : o.words ≤ 8 := by
    unfold Op.words; split <;> omega
  generalize hx : s.dev.cell h.cell.val = x at *
  generalize ho : ({ o with pred := h.pred.val } : Op) = o' at *
  have hd' : x.dataOf o' = none := by rw [← ho]; exact hdata
  have hd2 : (x.holds o').dataOf o' = none := hd'
  rw [State.rowOp_plain s h o ((x.holds o').later k n e) s.dev s.mem 0 hr he hpl hw (by rw [hx]; exact hpr)
    (by rw [hx, ho]; rw [← ho]; exact Cell.opFault_holds x _ hid hc hl hde hist)
    (by rw [hx, ho]; simp [Dev.dataAll, hd2])
    (by rw [hx, ho]; exact hh)
    (by rw [hx, ho]; exact hi) rfl
    ⟨hi'.2.2.2.2.2.2.2.2.2.2.2.2.2.2.2.2.2.2.2.2.1, hi'.2.2.2.2.2.2.2.2.2.2.2.2.2.2.2.2.2.2.2.2.2.1⟩ hi'.2.2.2.2.2.2.2.2.2.2.1 (Cell.idle_unended x o' hid)]
  have hdue : x.due = [] := hi'.2.2.2.1
  have hsh : x.shadow = [] := hi'.2.2.2.2.2.2.2.2.2.1
  have hq : (((x.holds o').later k n e).passed (opAdd x.pc o.words) (x.bun + 1)).due = [⟨x.bun + n, k, e⟩] := by
    simp [Cell.later, Cell.passed, Cell.dueAt_nil, hdue]
  have hpe : ∀ l : List Due, ({ ((x.holds o').later k n e).passed (opAdd x.pc o.words) (x.bun + 1) with due := l } : Cell)
      = { x with pc := opAdd x.pc o.words, bun := x.bun + 1, due := l } := by
    intro l
    have := congrArg (fun y : Cell => ({ y with due := l } : Cell)) (Cell.passed_holds x o' (opAdd x.pc o.words) (x.bun + 1) hid)
    exact this
  rw [hx]
  unfold State.issued State.issuedOn
  simp only [hx, id]
  by_cases h1 : n = 1
  · subst h1
    rw [Cell.settle_one _ _ hq (by simp [Cell.passed]) hk]
    have hs2 : ({ ((x.holds o').later k 1 e).passed (opAdd x.pc o.words) (x.bun + 1) with due := [] } : Cell).take e
        = ({ x with pc := opAdd x.pc o.words, bun := x.bun + 1 } : Cell).take e := by
      rw [hpe, hdue]
    rw [hs2, Cell.shadows_none]
    · rfl
    · cases e <;> simp [Cell.take, Cell.wg, Cell.wf, Cell.wp] <;> (try split) <;> exact hsh
  · rw [Cell.settle_wait _ _ hq (by simp [Cell.passed]; omega), Cell.shadows_none]
    · have := hpe [⟨x.bun + n, k, e⟩]
      simp only [h1, if_false]
      have hb : x.bun + 1 + n - 1 = x.bun + n := by omega
      rw [hb, ← this, ← hq]
      rfl
    · exact hsh

theorem State.issued_congr (s : State) (c n : Nat) (f g : Cell → Cell)
    (h : f { s.dev.cell c with pc := opAdd (s.dev.cell c).pc n, bun := (s.dev.cell c).bun + 1 } =
      g { s.dev.cell c with pc := opAdd (s.dev.cell c).pc n, bun := (s.dev.cell c).bun + 1 }) : s.issued c n f = s.issued c n g := by
  unfold State.issued State.issuedOn; simp only [h]

/-- A plain op that changes its cell alone, and schedules nothing. -/
theorem State.rowOp_cell (s : State) (h : OpHdr) (o : Op) (y : Cell) (pa : Nat) (f : Cell → Cell)
    (hr : s.ready h.cell.val = true) (he : endsBundle h) (hpl : o.plain = true) (hc : o.calm = true) (hl : o.illegal = false)
    (hpr : (s.dev.cell h.cell.val).rf h.pred.val = true)
    (hde : o.denied (s.dev.cell h.cell.val).pl ((s.dev.cell h.cell.val).rg o.s1) = false)
    (hist : o.k = .ist → istAddr ((s.dev.cell h.cell.val).rg o.s1) o.imm < 0x8000)
    (hdata : (s.dev.putCell h.cell.val ((s.dev.cell h.cell.val).holds { o with pred := h.pred.val })).dataAll h.cell.val
      [({ o with pred := h.pred.val }, (s.dev.cell h.cell.val).pc)] = .ok [({ o with pred := h.pred.val }, (s.dev.cell h.cell.val).pc, pa)])
    (hh : (s.dev.putCell h.cell.val ((s.dev.cell h.cell.val).holds { o with pred := h.pred.val })).opHolds
      h.cell.val { o with pred := h.pred.val } pa = false)
    (hi : (s.onDev (s.dev.putCell h.cell.val ((s.dev.cell h.cell.val).holds { o with pred := h.pred.val }))).issueOp h.cell.val
        ((s.dev.cell h.cell.val).holds { o with pred := h.pred.val }) { o with pred := h.pred.val } (s.dev.cell h.cell.val).pc pa
      = ⟨s.pending, s.mem, s.dev.putCell h.cell.val y⟩)
    (hy : y.lbuf = none ∧ y.len = false ∧ y.delay = none ∧ y.unended = false)
    (hq : (y.passed (opAdd (s.dev.cell h.cell.val).pc o.words) ((s.dev.cell h.cell.val).bun + 1)).settle.shadows =
      f { s.dev.cell h.cell.val with pc := opAdd (s.dev.cell h.cell.val).pc o.words, bun := (s.dev.cell h.cell.val).bun + 1 }) :
    s.rowOp h o = s.issued h.cell.val o.words f := by
  have hid := ((State.ready_iff s _).1 hr).2.2.1
  have hw : o.words ≤ 8 := by
    unfold Op.words; split <;> omega
  rw [State.rowOp_plain s h o y s.dev s.mem pa hr he hpl hw hpr (Cell.opFault_holds _ _ hid hc hl hde hist) hdata hh hi rfl
    ⟨hy.1, hy.2.1⟩ hy.2.2.1 hy.2.2.2, hq]
  rfl

theorem Cell.passed_idle (x : Cell) (o : Op) (pc bun : Nat) (hi : x.idle = true) :
    (x.holds o).passed pc bun = { x with pc := pc, bun := bun } := by
  obtain ⟨h1, h2, h3, h4, h5, h6, h7, h8, h9, h10, h11, h12, h13, h14, h15, h16, h17, h18, h19, h20, h21, h22, h23, h24, h25⟩ :=
    (Cell.idle_iff _).1 hi
  cases x
  simp_all [Cell.holds, Cell.passed]

theorem Cell.ends_plain (y : Cell) (hd : y.due = []) (hs : y.shadow = []) : y.settle.shadows = y := by
  rw [Cell.settle_none y hd, Cell.shadows_none y hs]

/-- The same, by the change `F0` that the op makes as it issues and `F` that it has made to the cell after the bundle. -/
theorem State.rowOp_change (s : State) (h : OpHdr) (o : Op) (pa : Nat) (F0 F : Cell → Cell)
    (hr : s.ready h.cell.val = true) (he : endsBundle h) (hpl : o.plain = true) (hc : o.calm = true) (hl : o.illegal = false)
    (hpr : (s.dev.cell h.cell.val).rf h.pred.val = true)
    (hde : o.denied (s.dev.cell h.cell.val).pl ((s.dev.cell h.cell.val).rg o.s1) = false)
    (hist : o.k = .ist → istAddr ((s.dev.cell h.cell.val).rg o.s1) o.imm < 0x8000)
    (hdata : (s.dev.putCell h.cell.val ((s.dev.cell h.cell.val).holds { o with pred := h.pred.val })).dataAll h.cell.val
      [({ o with pred := h.pred.val }, (s.dev.cell h.cell.val).pc)] = .ok [({ o with pred := h.pred.val }, (s.dev.cell h.cell.val).pc, pa)])
    (hh : (s.dev.putCell h.cell.val ((s.dev.cell h.cell.val).holds { o with pred := h.pred.val })).opHolds
      h.cell.val { o with pred := h.pred.val } pa = false)
    (hi : (s.onDev (s.dev.putCell h.cell.val ((s.dev.cell h.cell.val).holds { o with pred := h.pred.val }))).issueOp h.cell.val
        ((s.dev.cell h.cell.val).holds { o with pred := h.pred.val }) { o with pred := h.pred.val } (s.dev.cell h.cell.val).pc pa
      = ⟨s.pending, s.mem, s.dev.putCell h.cell.val (F0 ((s.dev.cell h.cell.val).holds { o with pred := h.pred.val }))⟩)
    (hy : ∀ y : Cell, (y.lbuf = none → (F0 y).lbuf = none) ∧ (F0 y).len = y.len ∧ (F0 y).delay = y.delay ∧ (y.unended = false → (F0 y).unended = false) ∧
      (F0 y).due = y.due ∧ (F0 y).shadow = y.shadow)
    (hF : ∀ (y : Cell) (pc : Nat), (F0 y).passed pc (y.bun + 1) = F (y.passed pc (y.bun + 1))) :
    s.rowOp h o = s.issued h.cell.val o.words F := by
  have hid := ((State.ready_iff s _).1 hr).2.2.1
  obtain ⟨h1, h2, h3, h4, h5, h6, h7, h8, h9, h10, h11, h12, h13, h14, h15, h16, h17, h18, h19, h20, h21, h22, h23, h24, h25⟩ := (Cell.idle_iff _).1 hid
  obtain ⟨y1, y2, y3, y4, y5, y6⟩ := hy ((s.dev.cell h.cell.val).holds { o with pred := h.pred.val })
  refine State.rowOp_cell s h o _ pa F hr he hpl hc hl hpr hde hist hdata hh hi ⟨y1 h21, y2.trans h22, y3.trans h11, y4 (Cell.idle_unended _ _ hid)⟩ ?_
  have e := hF ((s.dev.cell h.cell.val).holds { o with pred := h.pred.val }) (opAdd (s.dev.cell h.cell.val).pc o.words)
  rw [Cell.holds_bun, Cell.passed_idle _ _ _ _ hid] at e
  rw [e, Cell.ends_plain]
  · rw [← e]; exact y5.trans h4
  · rw [← e]; exact y6.trans h10

/-- No data access in a bundle whose op has none. -/
theorem Dev.dataAll_none (d : Dev) (c : Nat) (o : Op) (a : Nat) (h : (d.cell c).dataOf o = none) : d.dataAll c [(o, a)] = .ok [(o, a, 0)] := by
  simp [Dev.dataAll, h]

/-- The data access of an op of a cell that does not translate. -/
theorem Dev.dataAll_some (d : Dev) (c : Nat) (o : Op) (a acc va : Nat) (h : (d.cell c).dataOf o = some (acc, va))
    (h1 : (d.cell c).s1On = false) (h2 : (d.cell c).s2On = false) : d.dataAll c [(o, a)] = .ok [(o, a, va)] := by
  have : (d.cell c).translate false acc va = .pa va := by
    unfold Cell.translate; split <;> simp [h1, h2]
  simp [Dev.dataAll, h, this]

theorem putFlags_flagsOf (st : Word) : putFlags st (flagsOf st) = st := by
  unfold putFlags
  apply BitVec.eq_of_getLsbD_eq
  intro i _
  rw [Span.put_bit _ (by unfold Span.fits; decide)]
  split
  · rename_i hle
    have : i = 0 ∨ i = 1 ∨ i = 2 ∨ i = 3 := by
      have := hle.2; simp only at this; omega
    have hb : ∀ a b c d : Bool, ∀ j < 4, (8 * b2n a + 4 * b2n b + 2 * b2n c + b2n d).testBit j =
        (if j = 0 then d else if j = 1 then c else if j = 2 then b else a) := by decide
    simp only [Flags.bits, flagsOf]
    rw [hb _ _ _ _ _ (by omega)]
    rcases this with rfl | rfl | rfl | rfl <;> rfl
  · rfl

theorem putFlags_len (st : Word) (f : Flags) : stLEN.get (putFlags st f) = stLEN.get st := by
  unfold putFlags; exact Span.get_put_ne _ _ _ _ (by unfold Span.fits; decide) (by decide)

theorem Cell.sprPut_same (x : Cell) (n : Nat) (v : Word) :
    (x.sprPut n v).lbuf = x.lbuf ∧ ((x.sprPut n v).st = x.st) ∧ (x.sprPut n v).delay = x.delay ∧ (x.sprPut n v).unended = x.unended ∧
      (x.sprPut n v).due = x.due ∧ (x.sprPut n v).shadow = x.shadow := by
  unfold Cell.sprPut
  split <;> (try exact ⟨rfl, rfl, rfl, rfl, rfl, rfl⟩)
  split
  · exact ⟨rfl, rfl, rfl, rfl, rfl, rfl⟩
  · split
    · exact ⟨rfl, rfl, rfl, rfl, rfl, rfl⟩
    · split
      · exact ⟨rfl, rfl, rfl, rfl, rfl, rfl⟩
      · split <;> exact ⟨rfl, rfl, rfl, rfl, rfl, rfl⟩

theorem Cell.sprPut_passed (x : Cell) (n : Nat) (v : Word) (pc bun : Nat) : (x.sprPut n v).passed pc bun = (x.passed pc bun).sprPut n v := by
  unfold Cell.sprPut
  split <;> (try rfl)
  split
  · rfl
  · split
    · rfl
    · split
      · rfl
      · split <;> rfl

/-! ### Ops that turn the flow of control -/

/-- Cell `c` is `z` after its bundle: CLBUN counts the bundle where it is complete (R370). -/
def Dev.bundled (d : Dev) (c : Nat) (z : Cell) : Dev :=
  if z.unended then d.putCell c z else (d.putCell c z).wr (clBun c) (d.rd (clBun c) + 1)

theorem Dev.bundled_done (d : Dev) (c : Nat) (z : Cell) (h : z.unended = false) :
    d.bundled c z = (d.putCell c z).wr (clBun c) (d.rd (clBun c) + 1) := by simp [Dev.bundled, h]

theorem Dev.bundled_open (d : Dev) (c : Nat) (z : Cell) (h : z.unended = true) : d.bundled c z = d.putCell c z := by simp [Dev.bundled, h]

/-- The machine after a bundle of one live op: `y` is the cell as the op leaves it. -/
theorem State.rowOp_after (s : State) (h : OpHdr) (o : Op) (y : Cell) (pa : Nat)
    (hr : s.ready h.cell.val = true) (he : endsBundle h)
    (hpr : (s.dev.cell h.cell.val).rf h.pred.val = true)
    (hf : ((s.dev.cell h.cell.val).holds { o with pred := h.pred.val }).opFault = none)
    (hd : (s.dev.putCell h.cell.val ((s.dev.cell h.cell.val).holds { o with pred := h.pred.val })).dataAll h.cell.val
      [({ o with pred := h.pred.val }, (s.dev.cell h.cell.val).pc)] = .ok [({ o with pred := h.pred.val }, (s.dev.cell h.cell.val).pc, pa)])
    (hh : (s.dev.putCell h.cell.val ((s.dev.cell h.cell.val).holds { o with pred := h.pred.val })).opHolds
      h.cell.val { o with pred := h.pred.val } pa = false)
    (hi : (s.onDev (s.dev.putCell h.cell.val ((s.dev.cell h.cell.val).holds { o with pred := h.pred.val }))).issueOp h.cell.val
        ((s.dev.cell h.cell.val).holds { o with pred := h.pred.val }) { o with pred := h.pred.val } (s.dev.cell h.cell.val).pc pa
      = ⟨s.pending, s.mem, s.dev.putCell h.cell.val y⟩) :
    s.rowOp h o = s.onDev (s.dev.bundled h.cell.val (((s.dev.cell h.cell.val).holds { o with pred := h.pred.val }).afterBundle y
        (s.dev.ff (clCfg h.cell.val) ClCfg.LBEN)
        (s.dev.waitOf ((s.dev.cell h.cell.val).holds { o with pred := h.pred.val }) o.words))) := by
  obtain ⟨ha, hrn, hid, htx, hp⟩ := (State.ready_iff s _).1 hr
  have hi' := (Cell.idle_iff _).1 hid
  have hres : (s.dev.cell h.cell.val).resume = false := hi'.2.2.2.2.2.2.2.2.2.2.2.1
  have hent : (s.dev.cell h.cell.val).entry = none := hi'.2.2.2.2.2.2.2.2.2.2.2.2.2.2.2.2.1
  have hw : ({ o with pred := h.pred.val } : Op).words ≤ 8 := by
    unfold Op.words; split <;> omega
  have hlive := Cell.live_holds (s.dev.cell h.cell.val) { o with pred := h.pred.val } hres hpr
  rw [State.rowOp_ready s h o _ hr he hw hf (by rw [hlive]; exact hd) (by simp [hh])]
  have hgo : (s.dev.run || s.dev.boot.monitor) = true := by
    simp only [Dev.running, Bool.and_eq_true] at hrn
    exact hrn.1.1.1.1.1.1.1.1.1
  unfold State.issue
  simp only [State.onDev_dev, Dev.putCell_cell, List.foldl_cons, List.foldl_nil, hi]
  simp only [Dev.putCell_run, Dev.putCell_boot, hgo, Bool.not_true, Bool.false_eq_true, if_false, Cell.holds_entry, hent,
    Option.isSome_none, Dev.putCell_putCell]
  have hlen : opsLen ((s.dev.cell h.cell.val).holds { o with pred := h.pred.val }).bundle = o.words := by simp [opsLen, Op.words]
  have hwo : ∀ x n, (s.dev.putCell h.cell.val y).waitOf x n = s.dev.waitOf x n := fun _ _ => rfl
  rw [hlen]
  simp only [Dev.bundled, Dev.countBundle, State.onDev, hwo, Dev.putCell_ff, Dev.putCell_rd]

/-- What follows the effects of a bundle that neither starts a block op nor waits. -/
theorem Cell.afterBundle_flow (x y : Cell) (o : Op) (lben : Bool) (wait : Option CellWait) (hi : x.idle = true) (hwt : wait = none)
    (hblk : ∀ n q t, (x.holds o).blockOf n q t = none) (hl : y.lbuf = none ∧ y.len = false) (hd : y.delay = none) (hb : y.blk = none)
    (hdue : y.due = []) (hsh : y.shadow = []) :
    (x.holds o).afterBundle y lben wait =
      (({ y.passed (opAdd x.pc o.words) (x.bun + 1) with delay := (x.holds o).delayOf } : Cell).startLoop (x.holds o)).trap (x.holds o).trapOf := by
  subst hwt
  obtain ⟨h1, h2, h3, h4, h5, h6, h7, h8, h9, h10, h11, h12, h13, h14, h15, h16, h17, h18, h19, h20, h21, h22, h23, h24, h25⟩ := (Cell.idle_iff _).1 hi
  have hbuf : ∀ t, y.buffer lben x.pc t = y := by
    intro t
    unfold Cell.buffer
    split
    · simp [hl.2]
    · rw [← hl.1]
  have hy1 : y.predicted (x.holds o) (x.holds o).delayOf = y := by
    unfold Cell.predicted
    split
    · rename_i q p hq hp
      have hm := List.mem_of_find?_eq_some hp
      simp only [Cell.holds_bundle, placed, Cell.holds_pc, List.mem_singleton] at hm
      unfold Cell.predict
      rw [hm, if_pos (by omega)]
    · rfl
  have hlen : opsLen (x.holds o).bundle = o.words := by simp [opsLen]
  unfold Cell.afterBundle
  simp only [hblk, hy1, and_self, if_true, hlen, Cell.holds_pc, Cell.holds_len, h22]
  have hadv : (y.closeBundle (x.holds o) lben).advance x.pc o.words (x.holds o).delayOf false =
      ({ y.passed (opAdd x.pc o.words) (x.bun + 1) with delay := (x.holds o).delayOf } : Cell) := by
    simp only [Cell.closeBundle, Cell.holds_pc, hbuf, Cell.advance, Cell.loopNext, hd, Cell.holds_bun]
    cases hq : (x.holds o).delayOf <;> simp [Cell.passed, hb, hl.1, hd]
  rw [hadv]
  have hs1 : ∀ z : Cell, z.due = [] → z.shadow = [] → (z.startLoop (x.holds o)).settle.shadows = z.startLoop (x.holds o) := by
    intro z hz hz2
    apply Cell.ends_plain
    · unfold Cell.startLoop; split <;> exact hz
    · unfold Cell.startLoop; split <;> exact hz2
  exact congrArg (fun w => Cell.trap w (x.holds o).trapOf)
    (hs1 ({ y.passed (opAdd x.pc o.words) (x.bun + 1) with delay := (x.holds o).delayOf } : Cell) hdue hsh)

theorem Cell.delayOf_holds (x : Cell) (o : Op) (hr : x.resume = false) (hd : o.delays = true) (hp : x.rf o.pred = true) :
    (x.holds o).delayOf = some { at' := x.pc, tgt := x.target o x.pc, retx := x.restores o, call := o.stackOp } := by
  have : (x.holds o).rf o.pred = true := hp
  simp only [Cell.delayOf, Cell.holds_resume, hr, Bool.false_eq_true, if_false, Cell.holds_bundle, Cell.holds_pc, placed, List.find?_cons, hd, this,
    if_true]
  rfl

/-- A live branch, CALL, RET or RETX: its delay bundle is next (R358). -/
theorem State.rowOp_delays (s : State) (h : OpHdr) (o : Op) (hr : s.ready h.cell.val = true) (he : endsBundle h)
    (hpr : (s.dev.cell h.cell.val).rf h.pred.val = true) (hdl : o.delays = true)
    (hf : ((s.dev.cell h.cell.val).holds { o with pred := h.pred.val }).opFault = none) :
    s.rowOp h o = s.issued h.cell.val 1 (fun x =>
      { x with delay := some ⟨(s.dev.cell h.cell.val).pc, (s.dev.cell h.cell.val).target o (s.dev.cell h.cell.val).pc, (s.dev.cell h.cell.val).restores o, o.stackOp⟩ }) := by
  have hid := ((State.ready_iff s _).1 hr).2.2.1
  have htx := ((State.ready_iff s _).1 hr).2.2.2.1
  obtain ⟨h1, h2, h3, h4, h5, h6, h7, h8, h9, h10, h11, h12, h13, h14, h15, h16, h17, h18, h19, h20, h21, h22, h23, h24, h25⟩ := (Cell.idle_iff _).1 hid
  have hk : o.k = .br ∨ o.k = .call ∨ o.k = .jr ∨ o.k = .callr ∨ o.k = .ret ∨ o.k = .retx := by
    simp only [Op.delays, Op.isBranch, Bool.or_eq_true] at hdl
    rcases hdl with hdl | hdl <;> split at hdl <;> simp_all
  have hdata : (s.dev.cell h.cell.val).dataOf o = none := by
    rcases hk with hk | hk | hk | hk | hk | hk <;> simp [Cell.dataOf, hk]
  have hw : o.words = 1 := by rcases hk with hk | hk | hk | hk | hk | hk <;> simp [Op.words, hk]
  have hd2 : ∀ o', ((s.dev.cell h.cell.val).holds o').dataOf { o with pred := h.pred.val } = none := fun _ => hdata
  rw [State.rowOp_after s h o ((s.dev.cell h.cell.val).holds { o with pred := h.pred.val }) 0 hr he hpr hf
    (Dev.dataAll_none _ _ _ _ (by rw [Dev.putCell_cell]; exact hd2 _))
    (by rcases hk with hk | hk | hk | hk | hk | hk <;> simp [Dev.opHolds, hk, Dev.fenced, h5, h6, h7, htx])
    (by rcases hk with hk | hk | hk | hk | hk | hk <;> simp [State.issueOp, hk, State.onDev])]
  have hlive := Cell.live_holds (s.dev.cell h.cell.val) { o with pred := h.pred.val } h12 hpr
  have nb : ({ o with pred := h.pred.val } : Op).isBlk = false := by rcases hk with hk | hk | hk | hk | hk | hk <;> simp [Op.isBlk, hk]
  have nw : ({ o with pred := h.pred.val } : Op).isWaitc = false := by rcases hk with hk | hk | hk | hk | hk | hk <;> simp [Op.isWaitc, hk]
  rw [Cell.afterBundle_flow _ ((s.dev.cell h.cell.val).holds { o with pred := h.pred.val }) _ _ _ hid (by simp [Dev.waitOf, Cell.liveOp, hlive, nw])
    (by intro n q t; simp [Cell.blockOf, Cell.liveOp, hlive, nb]) ⟨h21, h22⟩ h11 h13 h4 h10]
  have hsl : ∀ y : Cell, y.startLoop ((s.dev.cell h.cell.val).holds { o with pred := h.pred.val }) = y := by
    intro y
    have : decide (o.k = .loop) = false := by rcases hk with hk | hk | hk | hk | hk | hk <;> simp [hk]
    simp [Cell.startLoop, Cell.liveOp, hlive, this]
  have htr : ((s.dev.cell h.cell.val).holds { o with pred := h.pred.val }).trapOf = none := by
    have : decide (o.k = .sysc) = false := by rcases hk with hk | hk | hk | hk | hk | hk <;> simp [hk]
    simp [Cell.trapOf, hlive, this]
  rw [hsl, htr, Cell.delayOf_holds _ _ h12 (by exact hdl) hpr, Cell.passed_idle _ _ _ _ hid]
  have hw' : ({ o with pred := h.pred.val } : Op).words = 1 := hw
  rw [hw']
  rw [Dev.bundled_done _ _ _ (by exact Cell.idle_unended (s.dev.cell h.cell.val) { o with pred := h.pred.val } hid)]
  rfl

section
variable (s : State) (h : OpHdr) (hr : s.ready h.cell.val = true) (he : endsBundle h) (hp : (s.dev.cell h.cell.val).rf h.pred.val = true)
include hr he hp

/-- The immediate ops of the A slot (R377). -/
theorem State.rowOp_aluI (f : AluI) (d s1 imm : Nat) :
    s.rowOp h { k := .aluI f, slot := 0, d := d, s1 := s1, imm := imm } = s.issued h.cell.val 1 (fun x => x.wg d (f.eval (x.rg s1) imm)) := by
  rw [State.rowOp_eff s h _ 0 1 (.g d (f.eval ((s.dev.cell h.cell.val).rg s1) imm)) hr he rfl rfl rfl hp rfl (by simp) rfl rfl
    (by simp only [State.issueOp, State.onDev_dev, Dev.eff, Dev.putCell_cell, Dev.putCell_putCell]; rfl) (by omega) (by omega)]
  exact State.issued_congr _ _ _ _ _ rfl

/-- The comparisons (R381). -/
theorem State.rowOp_cmp (f : Cmp) (d s1 s2 : Nat) :
    s.rowOp h { k := .cmp f, slot := 0, d := d, s1 := s1, s2 := s2 } = s.issued h.cell.val 1 (fun x => x.wf d (f.eval (x.rg s1) (x.rg s2))) := by
  rw [State.rowOp_eff s h _ 0 1 (.f d (f.eval ((s.dev.cell h.cell.val).rg s1) ((s.dev.cell h.cell.val).rg s2))) hr he rfl rfl rfl hp rfl (by simp) rfl rfl
    (by simp only [State.issueOp, State.onDev_dev, Dev.eff, Dev.putCell_cell, Dev.putCell_putCell]; rfl) (by omega) (by omega)]
  exact State.issued_congr _ _ _ _ _ rfl

/-- The comparisons with an immediate (R377). -/
theorem State.rowOp_cmpI (f : Cmp) (d s1 imm : Nat) :
    s.rowOp h { k := .cmpI f, slot := 0, d := d, s1 := s1, imm := imm } = s.issued h.cell.val 1 (fun x => x.wf d (f.eval (x.rg s1) (f.imm imm))) := by
  rw [State.rowOp_eff s h _ 0 1 (.f d (f.eval ((s.dev.cell h.cell.val).rg s1) (f.imm imm))) hr he rfl rfl rfl hp rfl (by simp) rfl rfl
    (by simp only [State.issueOp, State.onDev_dev, Dev.eff, Dev.putCell_cell, Dev.putCell_putCell]; rfl) (by omega) (by omega)]
  exact State.issued_congr _ _ _ _ _ rfl

/-- The part and lane ops (R380). -/
theorem State.rowOp_part (f : Part) (d s1 s2 k : Nat) :
    s.rowOp h { k := .part f, slot := 0, d := d, s1 := s1, s2 := s2, imm := k } =
      s.issued h.cell.val 1 (fun x => x.wg d (f.eval k (x.rg s1) (x.rg s2))) := by
  rw [State.rowOp_eff s h _ 0 1 (.g d (f.eval k ((s.dev.cell h.cell.val).rg s1) ((s.dev.cell h.cell.val).rg s2))) hr he rfl rfl rfl hp rfl (by simp) rfl rfl
    (by simp only [State.issueOp, State.onDev_dev, Dev.eff, Dev.putCell_cell, Dev.putCell_putCell]; rfl) (by omega) (by omega)]
  exact State.issued_congr _ _ _ _ _ rfl

/-- The predicate ops (R381). -/
theorem State.rowOp_predf (f : PredFn) (d s1 s2 : Nat) :
    s.rowOp h { k := .predf f, slot := 0, d := d, s1 := s1, s2 := s2 } = s.issued h.cell.val 1 (fun x => x.wf d (f.eval (x.rf s1) (x.rf s2))) := by
  rw [State.rowOp_eff s h _ 0 1 (.f d (f.eval ((s.dev.cell h.cell.val).rf s1) ((s.dev.cell h.cell.val).rf s2))) hr he rfl rfl rfl hp rfl (by simp) rfl rfl
    (by simp only [State.issueOp, State.onDev_dev, Dev.eff, Dev.putCell_cell, Dev.putCell_putCell]; rfl) (by omega) (by omega)]
  exact State.issued_congr _ _ _ _ _ rfl

/-- MFF and MTF (R328). -/
theorem State.rowOp_mff (d : Nat) : s.rowOp h { k := .mff, slot := 0, d := d } = s.issued h.cell.val 1 (fun x => x.wg d x.mff) := by
  rw [State.rowOp_eff s h _ 0 1 (.g d (s.dev.cell h.cell.val).mff) hr he rfl rfl rfl hp rfl (by simp) rfl rfl
    (by simp only [State.issueOp, State.onDev_dev, Dev.eff, Dev.putCell_cell, Dev.putCell_putCell]; rfl) (by omega) (by omega)]
  exact State.issued_congr _ _ _ _ _ rfl
theorem State.rowOp_mtf (s1 : Nat) :
    s.rowOp h { k := .mtf, slot := 0, s1 := s1 } = s.issued h.cell.val 1 (fun x => x.take (.fAll ((x.rg s1).toNat % 256))) := by
  rw [State.rowOp_eff s h _ 0 1 (.fAll (((s.dev.cell h.cell.val).rg s1).toNat % 256)) hr he rfl rfl rfl hp rfl (by simp) rfl rfl
    (by simp only [State.issueOp, State.onDev_dev, Dev.eff, Dev.putCell_cell, Dev.putCell_putCell]; rfl) (by omega) (by omega)]
  exact State.issued_congr _ _ _ _ _ rfl

/-- The multiply ops: their effect comes due four bundles on (R382, R411). -/
theorem State.rowOp_mul (f : Mul) (d s1 s2 : Nat) :
    s.rowOp h { k := .mul f, slot := 1, d := d, s1 := s1, s2 := s2 } =
      s.issued h.cell.val 1 (fun x => { x with due := [⟨x.bun + 3, 1, f.eff d (x.rg s1) (x.rg s2)⟩] }) := by
  rw [State.rowOp_eff s h _ 1 4 (f.eff d ((s.dev.cell h.cell.val).rg s1) ((s.dev.cell h.cell.val).rg s2)) hr he rfl rfl rfl hp rfl (by simp) rfl rfl
    (by simp only [State.issueOp, State.onDev_dev, Dev.eff, Dev.putCell_cell, Dev.putCell_putCell]; rfl) (by omega) (by omega)]
  exact State.issued_congr _ _ _ _ _ rfl

/-- The moves of product registers (R383, R384). -/
theorem State.rowOp_pmov (f : PMov) (d s1 n : Nat) :
    s.rowOp h { k := .pmov f, slot := 1, d := d, s1 := s1, imm := n } =
      s.issued h.cell.val 1 (fun x => x.take (f.eff d n (x.rp s1) (x.rg s1))) := by
  rw [State.rowOp_eff s h _ 1 1 (f.eff d n ((s.dev.cell h.cell.val).rp s1) ((s.dev.cell h.cell.val).rg s1)) hr he rfl rfl rfl hp rfl (by simp) rfl rfl
    (by simp only [State.issueOp, State.onDev_dev, Dev.eff, Dev.putCell_cell, Dev.putCell_putCell]; rfl) (by omega) (by omega)]
  exact State.issued_congr _ _ _ _ _ rfl

/-- The ALU ops (R377, R378). -/
theorem State.rowOp_alu (f : Alu) (d s1 s2 : Nat) :
    s.rowOp h { k := .alu f, slot := 0, d := d, s1 := s1, s2 := s2 } = s.issued h.cell.val 1 (fun x =>
      let r := f.eval (flagsOf x.st) (x.rg s1) (x.rg s2)
      ({ x with st := putFlags x.st r.2 } : Cell).wg d r.1) := by
  have hid := ((State.ready_iff s _).1 hr).2.2.1
  have hi' := (Cell.idle_iff _).1 hid
  obtain ⟨h1, h2, h3, h4, h5, h6, h7, h8, h9, h10, h11, h12, h13, h14, h15, h16, h17, h18, h19, h20, h21, h22, h23, h24, h25⟩ := hi'
  generalize hx : s.dev.cell h.cell.val = x at *
  generalize hrr : f.eval (flagsOf x.st) (x.rg s1) (x.rg s2) = r
  have key := State.rowOp_cell s h { k := .alu f, slot := 0, d := d, s1 := s1, s2 := s2 }
    ({ ((x.holds { k := .alu f, slot := 0, pred := h.pred.val, d := d, s1 := s1, s2 := s2 }).later 0 1 (.g d r.1)) with st := putFlags x.st r.2 } : Cell) 0
    (fun x => let r := f.eval (flagsOf x.st) (x.rg s1) (x.rg s2)
      ({ x with st := putFlags x.st r.2 } : Cell).wg d r.1) hr he rfl rfl rfl (by rw [hx]; exact hp) rfl (by simp)
    (Dev.dataAll_none _ _ _ _ rfl) rfl
    (by
      rw [hx]
      simp only [State.issueOp, State.onDev_dev, Dev.putCell_cell, Dev.putCell_putCell]
      have hr' : f.eval (flagsOf (x.holds { k := .alu f, slot := 0, pred := h.pred.val, d := d, s1 := s1, s2 := s2 }).st)
          ((x.holds { k := .alu f, slot := 0, pred := h.pred.val, d := d, s1 := s1, s2 := s2 }).rg s1)
          ((x.holds { k := .alu f, slot := 0, pred := h.pred.val, d := d, s1 := s1, s2 := s2 }).rg s2) = r := hrr
      rw [hr']
      have hfl : (if r.2 = flagsOf (x.holds { k := .alu f, slot := 0, pred := h.pred.val, d := d, s1 := s1, s2 := s2 }).st then
          (x.holds { k := .alu f, slot := 0, pred := h.pred.val, d := d, s1 := s1, s2 := s2 }).later 0 1 (.g d r.1)
          else ({ ((x.holds { k := .alu f, slot := 0, pred := h.pred.val, d := d, s1 := s1, s2 := s2 }).later 0 1 (.g d r.1)) with
            st := putFlags ((x.holds { k := .alu f, slot := 0, pred := h.pred.val, d := d, s1 := s1, s2 := s2 }).later 0 1 (.g d r.1)).st r.2 } : Cell))
          = ({ ((x.holds { k := .alu f, slot := 0, pred := h.pred.val, d := d, s1 := s1, s2 := s2 }).later 0 1 (.g d r.1)) with st := putFlags x.st r.2 } : Cell) := by
        split
        · rename_i he
          rw [he]
          have : putFlags x.st (flagsOf (x.holds { k := .alu f, slot := 0, pred := h.pred.val, d := d, s1 := s1, s2 := s2 }).st) = x.st := putFlags_flagsOf _
          rw [this]; rfl
        · rfl
      rw [hfl]; rfl)
    ⟨h21, by
      unfold Cell.len at h22 ⊢
      rw [show ({ ((x.holds { k := .alu f, slot := 0, pred := h.pred.val, d := d, s1 := s1, s2 := s2 }).later 0 1 (.g d r.1)) with st := putFlags x.st r.2 } : Cell).st
        = putFlags x.st r.2 from rfl, putFlags_len]; exact h22, h11,
      Cell.idle_unended x { k := .alu f, slot := 0, pred := h.pred.val, d := d, s1 := s1, s2 := s2 } hid⟩
    (by
      rw [hx]
      have hq : (({ ((x.holds { k := .alu f, slot := 0, pred := h.pred.val, d := d, s1 := s1, s2 := s2 }).later 0 1 (.g d r.1)) with
          st := putFlags x.st r.2 } : Cell).passed (opAdd x.pc (Op.words { k := .alu f, slot := 0, d := d, s1 := s1, s2 := s2 })) (x.bun + 1)).due
          = [⟨x.bun + 1, 0, .g d r.1⟩] := by
        simp [Cell.later, Cell.passed, Cell.dueAt_nil, h4]
      rw [Cell.settle_one _ _ hq (by simp [Cell.passed]) (by simp)]
      have hpe := Cell.passed_holds x { k := .alu f, slot := 0, pred := h.pred.val, d := d, s1 := s1, s2 := s2 }
        (opAdd x.pc (Op.words { k := .alu f, slot := 0, d := d, s1 := s1, s2 := s2 })) (x.bun + 1) hid
      have hpe' := congrArg (fun y : Cell => ({ y with st := putFlags x.st r.2 } : Cell)) hpe
      have hrx : f.eval (flagsOf x.st) (Cell.rg { x with pc := opAdd x.pc (Op.words { k := .alu f, slot := 0, d := d, s1 := s1, s2 := s2 }), bun := x.bun + 1 } s1)
          (Cell.rg { x with pc := opAdd x.pc (Op.words { k := .alu f, slot := 0, d := d, s1 := s1, s2 := s2 }), bun := x.bun + 1 } s2) = r := hrr
      simp only [hrx]
      have hfin : ({ (({ ((x.holds { k := .alu f, slot := 0, pred := h.pred.val, d := d, s1 := s1, s2 := s2 }).later 0 1 (.g d r.1)) with
          st := putFlags x.st r.2 } : Cell).passed (opAdd x.pc (Op.words { k := .alu f, slot := 0, d := d, s1 := s1, s2 := s2 })) (x.bun + 1)) with due := [] } : Cell)
          = ({ x with st := putFlags x.st r.2, pc := opAdd x.pc (Op.words { k := .alu f, slot := 0, d := d, s1 := s1, s2 := s2 }), bun := x.bun + 1 } : Cell) := hpe'
      rw [hfin, Cell.shadows_none]
      · rfl
      · simp only [Cell.take, Cell.wg]; split <;> exact h10)
  rw [key]; rfl

/-- ISYNC (R404). -/
theorem State.rowOp_isync  :
    s.rowOp h { k := .isync, slot := 3 } = s.issued h.cell.val 1 (fun x => x.isync) := by
  exact State.rowOp_change s h { k := .isync, slot := 3 } 0 (fun x => x.isync) (fun x => x.isync) hr he rfl rfl rfl hp rfl (by simp)
    (Dev.dataAll_none _ _ _ _ rfl) rfl
    (by simp only [State.issueOp, State.onDev_dev, Dev.putCell_cell, Dev.putCell_putCell]; rfl)
    (fun y => ⟨fun _ => rfl, rfl, rfl, fun h => h, rfl, rfl⟩) (fun _ _ => rfl)

/-- FENCE, with nothing outstanding (R405). -/
theorem State.rowOp_fence (m : Nat) :
    s.rowOp h { k := .fence, slot := 3, imm := m } = s.issued h.cell.val 1 (fun x => x) := by
  have hid := ((State.ready_iff s _).1 hr).2.2.1
  obtain ⟨h1, h2, h3, h4, h5, h6, h7, h8, h9, h10, h11, h12, h13, h14, h15, h16, h17, h18, h19, h20, h21, h22, h23, h24, h25⟩ := (Cell.idle_iff _).1 hid
  exact State.rowOp_change s h { k := .fence, slot := 3, imm := m } 0 (fun x => x) (fun x => x) hr he rfl rfl rfl hp rfl (by simp)
    (Dev.dataAll_none _ _ _ _ rfl) (by
      have ht := ((State.ready_iff s _).1 hr).2.2.2.1
      simp [Dev.opHolds, Dev.fenced, h5, h6, h7, ht])
    (by simp only [State.issueOp, State.onDev_dev, Dev.putCell_cell, Dev.putCell_putCell]; rfl)
    (fun y => ⟨fun h => h, rfl, rfl, fun h => h, rfl, rfl⟩) (fun _ _ => rfl)

/-- TLBI (R406). -/
theorem State.rowOp_tlbi (k s1 s2 : Nat) (hpl : ¬ (s.dev.cell h.cell.val).pl < (if k < 2 then 1 else 2)) :
    s.rowOp h { k := .tlbi k, slot := 3, s1 := s1, s2 := s2 } = s.issued h.cell.val 1 (fun x => x.tlbi k (x.rg s1) (x.rg s2)) := by
  exact State.rowOp_change s h { k := .tlbi k, slot := 3, s1 := s1, s2 := s2 } 0 (fun x => x.tlbi k (x.rg s1) (x.rg s2)) (fun x => x.tlbi k (x.rg s1) (x.rg s2)) hr he rfl rfl rfl hp (by simpa [Op.denied] using hpl) (by simp)
    (Dev.dataAll_none _ _ _ _ rfl) rfl
    (by simp only [State.issueOp, State.onDev_dev, Dev.putCell_cell, Dev.putCell_putCell]; rfl)
    (fun y => ⟨fun h => h, rfl, rfl, fun h => h, rfl, rfl⟩) (fun _ _ => rfl)

/-- DCINVA (R391, R424). -/
theorem State.rowOp_dcinva  (hpl : (s.dev.cell h.cell.val).pl ≠ 0) :
    s.rowOp h { k := .dcinva, slot := 2 } = s.issued h.cell.val 1 (fun x => { x.forget with dc := [], dcNxt := [] }) := by
  exact State.rowOp_change s h { k := .dcinva, slot := 2 } 0 (fun x => { x.forget with dc := [], dcNxt := [] }) (fun x => { x.forget with dc := [], dcNxt := [] }) hr he rfl rfl rfl hp (by simp [Op.denied, hpl]) (by simp)
    (Dev.dataAll_none _ _ _ _ rfl) rfl
    (by simp only [State.issueOp, State.onDev_dev, Dev.putCell_cell, Dev.putCell_putCell]; rfl)
    (fun y => ⟨fun h => h, rfl, rfl, fun h => h, rfl, rfl⟩) (fun _ _ => rfl)

/-- IST (R404, R421). -/
theorem State.rowOp_ist (d s1 imm : Nat) (hpl : (s.dev.cell h.cell.val).pl ≠ 0) (ha : istAddr ((s.dev.cell h.cell.val).rg s1) imm < 0x8000) :
    s.rowOp h { k := .ist, slot := 3, d := d, s1 := s1, imm := imm } = s.issued h.cell.val 1 (fun x => { x with ists := x.ists ++ [⟨istAddr (x.rg s1) imm, loHalf (x.rg d), x.bun + 2⟩] }) := by
  exact State.rowOp_change s h { k := .ist, slot := 3, d := d, s1 := s1, imm := imm } 0 (fun x => { x with ists := x.ists ++ [⟨istAddr (x.rg s1) imm, loHalf (x.rg d), x.bun + 3⟩] }) (fun x => { x with ists := x.ists ++ [⟨istAddr (x.rg s1) imm, loHalf (x.rg d), x.bun + 2⟩] }) hr he rfl rfl rfl hp (by simp [Op.denied, hpl]) (fun _ => ha)
    (Dev.dataAll_none _ _ _ _ rfl) rfl
    (by simp only [State.issueOp, State.onDev_dev, Dev.putCell_cell, Dev.putCell_putCell]; rfl)
    (fun y => ⟨fun h => h, rfl, rfl, fun h => h, rfl, rfl⟩) (fun _ _ => rfl)

/-- A long op starts (R387). -/
theorem State.rowOp_long (f : Long) (d s1 s2 : Nat) :
    s.rowOp h { k := .long f, slot := 1, d := d, s1 := s1, s2 := s2 } = s.issued h.cell.val 1 (fun x => { x with longs := x.longs ++ [⟨f, d, x.longArg f s1, x.rg s2, x.bun - 1, x.depth, x.seq⟩], seq := x.seq + 1 }) := by
  exact State.rowOp_change s h { k := .long f, slot := 1, d := d, s1 := s1, s2 := s2 } 0 (fun x => { x with longs := x.longs ++ [⟨f, d, x.longArg f s1, x.rg s2, x.bun, x.depth, x.seq⟩], seq := x.seq + 1 }) (fun x => { x with longs := x.longs ++ [⟨f, d, x.longArg f s1, x.rg s2, x.bun - 1, x.depth, x.seq⟩], seq := x.seq + 1 }) hr he rfl rfl rfl hp rfl (by simp)
    (Dev.dataAll_none _ _ _ _ rfl) rfl
    (by simp only [State.issueOp, State.onDev_dev, Dev.issueLong, Dev.putCell_cell, Dev.putCell_putCell]; rfl)
    (fun y => ⟨fun h => h, rfl, rfl, fun h => h, rfl, rfl⟩) (fun _ _ => rfl)

/-- WFE that must wait (R364). -/
theorem State.rowOp_wfe_wait  (hla : s.dev.latched h.cell.val = false) :
    s.rowOp h { k := .wfe, slot := 3 } = s.issued h.cell.val 1 (fun x => { x with wait := .wfe }) := by
  exact State.rowOp_change s h { k := .wfe, slot := 3 } 0 (fun x => { x with wait := .wfe }) (fun x => { x with wait := .wfe }) hr he rfl rfl rfl hp rfl (by simp)
    (Dev.dataAll_none _ _ _ _ rfl) rfl
    (by
      have : ∀ o, (s.dev.putCell h.cell.val ((s.dev.cell h.cell.val).holds o)).latched h.cell.val = false := fun o => hla
      simp only [State.issueOp, State.onDev_dev, this, Bool.false_eq_true, if_false, Dev.putCell_cell, Dev.putCell_putCell]; rfl)
    (fun y => ⟨fun h => h, rfl, rfl, fun h => by unfold Cell.unended at h ⊢; simp only [Bool.or_eq_false_iff] at h; simp [h.1], rfl, rfl⟩) (fun _ _ => rfl)

/-- MTS to a special register other than ST (R402). -/
theorem State.rowOp_mts (s1 n : Nat) (hn : n % 128 ≠ 0) (hpl : sprWriteDenied (s.dev.cell h.cell.val).pl (n % 128) ((s.dev.cell h.cell.val).rg s1) = false) :
    s.rowOp h { k := .mts, slot := 3, s1 := s1, imm := n } = s.issued h.cell.val 1 (fun x => x.sprPut (n % 128) (x.rg s1)) := by
  exact State.rowOp_change s h { k := .mts, slot := 3, s1 := s1, imm := n } 0 (fun x => x.sprPut (n % 128) (x.rg s1)) (fun x => x.sprPut (n % 128) (x.rg s1)) hr he rfl rfl rfl hp hpl (by simp)
    (Dev.dataAll_none _ _ _ _ rfl) rfl
    (by
      simp only [State.issueOp, State.onDev_dev, Dev.putCell_cell, Dev.putCell_putCell, Cell.mts, hn, if_false]; rfl)
    (fun y => by
      obtain ⟨a, b, c, d, e, f⟩ := Cell.sprPut_same y (n % 128) (y.rg s1)
      exact ⟨fun h => a.trans h, by simp only [Cell.len, b], c, fun h => d.trans h, e, f⟩) (fun y pc => Cell.sprPut_passed y _ _ _ _)
/-- LIMM in slot M (R356). -/
theorem State.rowOp_limm (d mode v : Nat) :
    s.rowOp h { k := .limm, slot := 1, d := d, s1 := mode, imm := v } = s.issued h.cell.val 2 (fun x => x.wg d (limmVal mode v (x.rg d))) := by
  rw [State.rowOp_eff s h _ 1 1 (.g d (limmVal mode v ((s.dev.cell h.cell.val).rg d))) hr he rfl rfl rfl hp rfl (by simp) rfl rfl
    (by simp only [State.issueOp, State.onDev_dev, Dev.eff, Dev.putCell_cell, Dev.putCell_putCell]; rfl) (by omega) (by omega)]
  exact State.issued_congr _ _ _ _ _ rfl

/-- MTS to ST: in force from the third bundle on (R333). -/
theorem State.rowOp_mts_st (s1 n : Nat) (hn : n % 128 = 0)
    (hpl : sprWriteDenied (s.dev.cell h.cell.val).pl (n % 128) ((s.dev.cell h.cell.val).rg s1) = false) :
    s.rowOp h { k := .mts, slot := 3, s1 := s1, imm := n } =
      s.issued h.cell.val 1 (fun x => { x with shadow := [(x.bun + 2, x.stNew (x.rg s1))] }) := by
  have hid := ((State.ready_iff s _).1 hr).2.2.1
  obtain ⟨h1, h2, h3, h4, h5, h6, h7, h8, h9, h10, h11, h12, h13, h14, h15, h16, h17, h18, h19, h20, h21, h22, h23, h24, h25⟩ := (Cell.idle_iff _).1 hid
  refine State.rowOp_cell s h { k := .mts, slot := 3, s1 := s1, imm := n }
    (((s.dev.cell h.cell.val).holds { k := .mts, slot := 3, s1 := s1, imm := n, pred := h.pred.val }).mts 0 ((s.dev.cell h.cell.val).rg s1)) 0 _
    hr he rfl rfl rfl hp hpl (by simp) (Dev.dataAll_none _ _ _ _ rfl) rfl
    (by simp only [State.issueOp, State.onDev_dev, Dev.putCell_cell, Dev.putCell_putCell, hn]; rfl)
    ⟨h21, h22, h11, Cell.idle_unended (s.dev.cell h.cell.val) { k := .mts, slot := 3, s1 := s1, imm := n, pred := h.pred.val } hid⟩ ?_
  have e := Cell.passed_idle (s.dev.cell h.cell.val) { k := .mts, slot := 3, s1 := s1, imm := n, pred := h.pred.val }
    (opAdd (s.dev.cell h.cell.val).pc 1) ((s.dev.cell h.cell.val).bun + 1) hid
  have e2 := congrArg (fun y : Cell => ({ y with shadow := [((s.dev.cell h.cell.val).bun + 3, (s.dev.cell h.cell.val).stNew ((s.dev.cell h.cell.val).rg s1))] } : Cell)) e
  have e3 : (((s.dev.cell h.cell.val).holds { k := .mts, slot := 3, s1 := s1, imm := n, pred := h.pred.val }).mts 0 ((s.dev.cell h.cell.val).rg s1)).passed
      (opAdd (s.dev.cell h.cell.val).pc 1) ((s.dev.cell h.cell.val).bun + 1) =
      ({ ((s.dev.cell h.cell.val).holds { k := .mts, slot := 3, s1 := s1, imm := n, pred := h.pred.val }).passed (opAdd (s.dev.cell h.cell.val).pc 1)
        ((s.dev.cell h.cell.val).bun + 1) with shadow := [((s.dev.cell h.cell.val).bun + 3, (s.dev.cell h.cell.val).stNew ((s.dev.cell h.cell.val).rg s1))] } : Cell) := by
    simp only [Cell.mts, if_true, Cell.passed, Cell.holds_shadow, h10, List.nil_append]
    rfl
  show Cell.shadows (Cell.settle _) = _
  rw [show (Op.words { k := .mts, slot := 3, s1 := s1, imm := n }) = 1 from rfl, e3]
  rw [Cell.settle_none]
  swap
  · exact h4
  have e4 : ∀ y : Cell, ∀ w, y.bun = (s.dev.cell h.cell.val).bun + 1 → ({ y with shadow := [((s.dev.cell h.cell.val).bun + 3, w)] } : Cell).shadows
      = ({ y with shadow := [((s.dev.cell h.cell.val).bun + 3, w)] } : Cell) := by
    intro y w hb
    have : ¬ (s.dev.cell h.cell.val).bun + 3 ≤ (s.dev.cell h.cell.val).bun + 1 := by omega
    simp [Cell.shadows, hb, this]
  rw [e4 _ _ rfl, e2]
  rfl

/-- MFS (R402). -/
theorem State.rowOp_mfs (d n : Nat) (hpl : sprReadDenied (s.dev.cell h.cell.val).pl (n % 128) = false) :
    s.rowOp h { k := .mfs, slot := 3, d := d, imm := n } = s.issued h.cell.val 1 (fun x => x.wg d (s.dev.sprRead h.cell.val (n % 128))) := by
  have htx := ((State.ready_iff s _).1 hr).2.2.2.1
  have hs : ∀ o, (s.dev.putCell h.cell.val ((s.dev.cell h.cell.val).holds o)).sprRead h.cell.val (n % 128) = s.dev.sprRead h.cell.val (n % 128) := by
    intro o
    unfold Dev.sprRead Dev.txstat
    simp only [Dev.putCell_cell]
    rfl
  rw [State.rowOp_eff s h { k := .mfs, slot := 3, d := d, imm := n } 3 1 (.g d (s.dev.sprRead h.cell.val (n % 128))) hr he rfl rfl rfl hp hpl (by simp) rfl
    (by simp [Dev.opHolds, htx])
    (by simp only [State.issueOp, State.onDev_dev, Dev.eff, hs, Dev.putCell_cell, Dev.putCell_putCell]; rfl) (by omega) (by omega)]
  exact State.issued_congr _ _ _ _ _ rfl

end

end Sys2Proof.Machine
end

