-- ==== Sys2Proof/Laws/CellMore.lean ====
section
/-! SUPPORT. What a bundle of one op leaves in a cell that takes it at once: stores, loads, traps, loops, block ops, waits. -/

namespace Sys2Proof.Machine

open Sys2Proof

/-- A permitted request leaves the device unchanged; the bundle in a cell does not change the answer. -/
theorem Dev.ask_holds (d : Dev) (c pl va : Nat) (o : Op) (k : Kind) (part : Bool) (a : Attr)
    (hperm : (d.ask (d.dataReq c pl k va part)).1 = .permit a) :
    (d.putCell c ((d.cell c).holds o)).ask ((d.putCell c ((d.cell c).holds o)).dataReq c pl k va part) =
      (.permit a, d.putCell c ((d.cell c).holds o)) := by
  have e1 : (d.putCell c ((d.cell c).holds o)).dataReq c pl k va part = d.dataReq c pl k va part := by
    unfold Dev.dataReq; rw [Dev.putCell_cell]; rfl
  rw [e1]
  revert hperm
  unfold Dev.ask
  have e2 : ∀ b, (d.putCell c ((d.cell c).holds o)).targetOf b = d.targetOf b := fun _ => rfl
  have e3 : ∀ b r, (d.putCell c ((d.cell c).holds o)).gate b r = d.gate b r := fun _ _ => rfl
  rw [e2]
  split
  · intro h; exfalso; revert h; simp only; split <;> simp
  · rename_i t ht
    rw [e3]
    split
    · intro h; simp only at h ⊢; rw [h]
    · intro h; simp at h
    · intro h; exfalso; revert h; simp only; split <;> simp

/-- An access at a target's port leaves the cells alone. -/
theorem Dev.touch_putCell (d : Dev) (c a n : Nat) (x : Cell) : (d.putCell c x).touch a n = (d.touch a n).putCell c x := by
  unfold Dev.touch
  have e2 : (d.putCell c x).targetOf a = d.targetOf a := rfl
  rw [e2]
  split
  · rename_i t _
    cases t <;> rfl
  · rfl

theorem Dev.touch_cell (d : Dev) (c a n : Nat) : (d.touch a n).cell c = d.cell c := by
  unfold Dev.touch
  split
  · rename_i t _
    cases t <;> rfl
  · rfl

theorem Dev.found_putCell (d : Dev) (e k u c : Nat) (x : Cell) : (d.putCell c x).found e k u = (d.found e k u).putCell c x := by
  unfold Dev.found; split <;> rfl

theorem Dev.found_run (d : Dev) (e k u : Nat) : ((d.found e k u).run || (d.found e k u).boot.monitor) = (d.run || d.boot.monitor) := by
  unfold Dev.found; split <;> rfl

/-- A word read does not depend on the cells, and changes none. -/
theorem State.memWord_cell (s : State) (c : Nat) (x : Cell) (a : Nat) :
    (s.onDev (s.dev.putCell c x)).memWord a = ((s.memWord a).1, (s.memWord a).2.1, s.onDev ((s.memWord a).2.2.dev.putCell c x)) := by
  have e : (s.onDev (s.dev.putCell c x)).memWord a = ((s.memWord a).1, (s.memWord a).2.1,
      s.onDev ((s.dev.putCell c x).found (flippedWord (if recBase ≤ a ∧ a < recBase + 0x400000 then Tab.get 0 s.dev.rs a else s.rdWord a) (s.flipsAt a)).2
        (s.dev.memSource a).1 (s.dev.memSource a).2)) := rfl
  rw [e, Dev.found_putCell]; rfl

section
variable (s : State) (h : OpHdr) (hr : s.ready h.cell.val = true) (he : endsBundle h) (hp : (s.dev.cell h.cell.val).rf h.pred.val = true)
include hr he hp

theorem State.mem_may (o : Op) (a : Nat) : ((s.dev.cell h.cell.val).holds o).mayIssue a = true := by
  obtain ⟨h1, h2, h3, h4, h5, h6, h7, h8, h9, h10, h11, h12, h13, h14, h15, h16, h17, h18, h19, h20, h21, h22, h23, h24, h25⟩ :=
    (Cell.idle_iff _).1 ((State.ready_iff s _).1 hr).2.2.1
  simp [Cell.mayIssue, Cell.noneOut, Cell.strongOut, h5, h6]

/-- A store of a part of a word enters the store buffer (R390, R422). -/
theorem State.rowOp_st (w : Wid) (d s1 imm va : Nat) (hv : (w.withK imm).valid = true)
    (ha : (s.dev.cell h.cell.val).dataOf { k := .st w, slot := 2, d := d, s1 := s1, imm := imm } = some (1, va)) :
    s.rowOp h { k := .st w, slot := 2, d := d, s1 := s1, imm := imm } = s.issued h.cell.val 1 (fun x =>
      { x with stores := x.stores ++ [{ addr := va, wid := w.withK imm, val := x.rg d, bun := x.bun - 1, depth := x.depth, pl := x.pl, ord := (s.dev.orderOf h.cell.val va).1, cache := (s.dev.orderOf h.cell.val va).2 && (match (s.dev.cell h.cell.val).attrAt va with | some e => e.wa | none => false), seq := x.seq }], seq := x.seq + 1 }) := by
  obtain ⟨h1, h2, h3, h4, h5, h6, h7, h8, h9, h10, h11, h12, h13, h14, h15, h16, h17, h18, h19, h20, h21, h22, h23, h24, h25⟩ :=
    (Cell.idle_iff _).1 ((State.ready_iff s _).1 hr).2.2.1
  have hm := State.mem_may s h hr he hp
  refine State.rowOp_change s h { k := .st w, slot := 2, d := d, s1 := s1, imm := imm } va
    (fun x => { x with stores := x.stores ++ [{ addr := va, wid := w.withK imm, val := x.rg d, bun := x.bun, depth := x.depth, pl := x.pl, ord := (s.dev.orderOf h.cell.val va).1, cache := (s.dev.orderOf h.cell.val va).2 && (match (s.dev.cell h.cell.val).attrAt va with | some e => e.wa | none => false), seq := x.seq }], seq := x.seq + 1 }) _ hr he rfl rfl (by simp [Op.illegal, hv]) hp rfl (by simp)
    (Dev.dataAll_some _ _ _ _ 1 va (by rw [Dev.putCell_cell]; exact ha) (by rw [Dev.putCell_cell]; exact h23) (by rw [Dev.putCell_cell]; exact h24)) ?_ ?_
    (fun y => ⟨fun h => h, rfl, rfl, fun h => h, rfl, rfl⟩) (fun _ _ => rfl)
  · simp only [Dev.opHolds, Dev.putCell_cell, hm, Bool.not_true, Bool.false_or, Cell.holds_stores, h6]; rfl
  · have : ∀ o, (s.dev.putCell h.cell.val ((s.dev.cell h.cell.val).holds o)).orderOf h.cell.val va = s.dev.orderOf h.cell.val va := by
      intro o; unfold Dev.orderOf; rw [Dev.putCell_cell]; rfl
    simp only [State.issueOp, State.onDev_dev, Dev.issueStore, this, Dev.putCell_cell, Dev.putCell_putCell]; rfl

/-- STWX (R391, R422). -/
theorem State.rowOp_stx (d s1 s2 sh va : Nat)
    (ha : (s.dev.cell h.cell.val).dataOf { k := .stx, slot := 2, d := d, s1 := s1, s2 := s2, imm := sh } = some (1, va)) :
    s.rowOp h { k := .stx, slot := 2, d := d, s1 := s1, s2 := s2, imm := sh } = s.issued h.cell.val 1 (fun x =>
      { x with stores := x.stores ++ [{ addr := va, wid := .word, val := x.rg d, bun := x.bun - 1, depth := x.depth, pl := x.pl, ord := (s.dev.orderOf h.cell.val va).1, cache := (s.dev.orderOf h.cell.val va).2 && (match (s.dev.cell h.cell.val).attrAt va with | some e => e.wa | none => false), seq := x.seq }], seq := x.seq + 1 }) := by
  obtain ⟨h1, h2, h3, h4, h5, h6, h7, h8, h9, h10, h11, h12, h13, h14, h15, h16, h17, h18, h19, h20, h21, h22, h23, h24, h25⟩ :=
    (Cell.idle_iff _).1 ((State.ready_iff s _).1 hr).2.2.1
  have hm := State.mem_may s h hr he hp
  refine State.rowOp_change s h { k := .stx, slot := 2, d := d, s1 := s1, s2 := s2, imm := sh } va
    (fun x => { x with stores := x.stores ++ [{ addr := va, wid := .word, val := x.rg d, bun := x.bun, depth := x.depth, pl := x.pl, ord := (s.dev.orderOf h.cell.val va).1, cache := (s.dev.orderOf h.cell.val va).2 && (match (s.dev.cell h.cell.val).attrAt va with | some e => e.wa | none => false), seq := x.seq }], seq := x.seq + 1 }) _ hr he rfl rfl rfl hp rfl (by simp)
    (Dev.dataAll_some _ _ _ _ 1 va (by rw [Dev.putCell_cell]; exact ha) (by rw [Dev.putCell_cell]; exact h23) (by rw [Dev.putCell_cell]; exact h24)) ?_ ?_
    (fun y => ⟨fun h => h, rfl, rfl, fun h => h, rfl, rfl⟩) (fun _ _ => rfl)
  · simp only [Dev.opHolds, Dev.putCell_cell, hm, Bool.not_true, Bool.false_or, Cell.holds_stores, h6]; rfl
  · have : ∀ o, (s.dev.putCell h.cell.val ((s.dev.cell h.cell.val).holds o)).orderOf h.cell.val va = s.dev.orderOf h.cell.val va := by
      intro o; unfold Dev.orderOf; rw [Dev.putCell_cell]; rfl
    simp only [State.issueOp, State.onDev_dev, Dev.issueStore, this, Dev.putCell_cell, Dev.putCell_putCell]; rfl

/-- DCINV drops the line of its address (R391). -/
theorem State.rowOp_dcinv (s1 : Nat) :
    s.rowOp h { k := .dcinv, slot := 2, s1 := s1 } = s.issued h.cell.val 1 (fun x => x.dropLine (addr36 ((s.dev.cell h.cell.val).rg s1) 0)) := by
  obtain ⟨h1, h2, h3, h4, h5, h6, h7, h8, h9, h10, h11, h12, h13, h14, h15, h16, h17, h18, h19, h20, h21, h22, h23, h24, h25⟩ :=
    (Cell.idle_iff _).1 ((State.ready_iff s _).1 hr).2.2.1
  refine State.rowOp_change s h { k := .dcinv, slot := 2, s1 := s1 } (addr36 ((s.dev.cell h.cell.val).rg s1) 0)
    (fun x => x.dropLine (addr36 ((s.dev.cell h.cell.val).rg s1) 0)) _ hr he rfl rfl rfl hp rfl (by simp)
    (Dev.dataAll_some _ _ _ _ 3 _ (by rw [Dev.putCell_cell]; rfl) (by rw [Dev.putCell_cell]; exact h23) (by rw [Dev.putCell_cell]; exact h24)) rfl ?_ ?_ ?_
  · simp only [State.issueOp, State.onDev_dev, Dev.putCell_cell, Dev.putCell_putCell]; rfl
  · intro y
    unfold Cell.dropLine
    split <;> exact ⟨fun h => h, rfl, rfl, fun h => h, rfl, rfl⟩
  · intro y pc
    unfold Cell.dropLine
    have : ∀ a, (y.passed pc (y.bun + 1)).wayOf a = y.wayOf a := fun _ => rfl
    rw [this]
    split <;> rfl

/-- An op that is a load of a width, or the indexed load of a word. -/
def Op.loads (o : Op) (w : Wid) (sg : Bool) : Prop :=
  (∃ v, o.k = .ld v sg ∧ w = v.withK o.imm ∧ w.valid = true) ∨ (o.k = .ldx ∧ w = .word ∧ sg = false)

/-- A load from the cell's own local data SRAM, which its sluice permits (R349, R412, R484): the word as its check gives it (R38). -/
theorem State.rowOp_load_own (o : Op) (w : Wid) (sg : Bool) (va : Nat) (a : Attr) (ho : o.loads w sg)
    (ha : (s.dev.cell h.cell.val).dataOf o = some (0, va)) (hva : va < 0x4000)
    (hperm : (s.dev.ask (s.dev.dataReq h.cell.val (s.dev.cell h.cell.val).pl .read va false)).1 = .permit a) :
    let r := s.memWord (busAddr h.cell.val va)
    s.rowOp h o = s.issuedOn h.cell.val 1 (fun x =>
      { x with loads := x.loads ++ [{ addr := va, io := false, wid := w, sgn := sg, d := o.d, due := x.bun + 2, bun := x.bun - 1, depth := x.depth, pl := x.pl, known := some r.1, poison := r.2.1, sent := true, ord := 3, seq := x.seq }], seq := x.seq + 1 })
      (fun _ => r.2.2.dev) := by
  intro r
  obtain ⟨h1, h2, h3, h4, h5, h6, h7, h8, h9, h10, h11, h12, h13, h14, h15, h16, h17, h18, h19, h20, h21, h22, h23, h24, h25⟩ :=
    (Cell.idle_iff _).1 ((State.ready_iff s _).1 hr).2.2.1
  have hid := ((State.ready_iff s _).1 hr).2.2.1
  have hm := State.mem_may s h hr he hp
  have hw : o.words = 1 := by rcases ho with ⟨v, hk, _⟩ | ⟨hk, _⟩ <;> simp [Op.words, hk]
  have hq := fun o' => Dev.ask_holds s.dev h.cell.val (s.dev.cell h.cell.val).pl va o' .read false a hperm
  have hfw : ∀ o', ((s.dev.cell h.cell.val).holds o').forward va w = .free := by
    intro o'; simp [Cell.forward, Cell.overlaps, h6]
  have hoo : ∀ o', (s.dev.putCell h.cell.val ((s.dev.cell h.cell.val).holds o')).orderOf h.cell.val va = (3, false) := by
    intro o'; simp [Dev.orderOf, hva]
  have hll : ∀ o', (s.dev.putCell h.cell.val ((s.dev.cell h.cell.val).holds o')).loadLatency h.cell.val va = 3 := by
    intro o'; simp [Dev.loadLatency, hva]
  have hrd : ∀ o', (s.onDev (s.dev.putCell h.cell.val ((s.dev.cell h.cell.val).holds o'))).memWord (busAddr h.cell.val va) =
      (r.1, r.2.1, s.onDev (r.2.2.dev.putCell h.cell.val ((s.dev.cell h.cell.val).holds o'))) :=
    fun o' => State.memWord_cell s h.cell.val _ _
  let e : LoadE := { addr := va, io := false, wid := w, sgn := sg, d := o.d, due := (s.dev.cell h.cell.val).bun + 3, bun := (s.dev.cell h.cell.val).bun, depth := (s.dev.cell h.cell.val).depth, pl := (s.dev.cell h.cell.val).pl, known := some r.1, poison := r.2.1, sent := true, ord := 3, seq := (s.dev.cell h.cell.val).seq }
  let x := s.dev.cell h.cell.val
  let y : Cell := { x.holds { o with pred := h.pred.val } with loads := (x.holds { o with pred := h.pred.val }).loads ++ [e], seq := x.seq + 1 }
  have key := State.rowOp_plain s h o y r.2.2.dev s.mem va hr he
    (by rcases ho with ⟨v, hk, _⟩ | ⟨hk, _⟩ <;> simp [Op.plain, Op.delays, Op.isBranch, Op.isBlk, Op.isWaitc, hk])
    (by omega) hp
    (Cell.opFault_holds _ _ hid (by rcases ho with ⟨v, hk, _⟩ | ⟨hk, _⟩ <;> simp [Op.calm, hk])
      (by rcases ho with ⟨v, hk, hw, hv⟩ | ⟨hk, _⟩ <;> simp [Op.illegal, hk]; rw [← hw]; exact hv)
      (by rcases ho with ⟨v, hk, _⟩ | ⟨hk, _⟩ <;> simp [Op.denied, hk])
      (by rcases ho with ⟨v, hk, _⟩ | ⟨hk, _⟩ <;> simp [hk]))
    (Dev.dataAll_some _ _ _ _ 0 va (by rw [Dev.putCell_cell]; exact ha) (by rw [Dev.putCell_cell]; exact h23) (by rw [Dev.putCell_cell]; exact h24))
    (by rcases ho with ⟨v, hk, _⟩ | ⟨hk, _⟩ <;> simp only [Dev.opHolds, Dev.putCell_cell, hk, hm, Bool.not_true])
    ?_ (Dev.found_run _ _ _ _) ⟨h21, h22⟩ h11 (Cell.idle_unended (s.dev.cell h.cell.val) { o with pred := h.pred.val } hid)
  · rw [key, hw]
    have e4 : (y.passed (opAdd (s.dev.cell h.cell.val).pc 1) ((s.dev.cell h.cell.val).bun + 1)).settle.shadows =
       { x with pc := opAdd x.pc 1, bun := x.bun + 1, loads := x.loads ++ [e], seq := x.seq + 1 } := by
      rw [Cell.ends_plain]
      · have := congrArg (fun z : Cell => ({ z with loads := x.loads ++ [e], seq := x.seq + 1 } : Cell))
          (Cell.passed_idle x { o with pred := h.pred.val } (opAdd x.pc 1) (x.bun + 1) hid)
        exact this
      · exact h4
      · exact h10
    rw [e4]
    rfl
  · rcases ho with ⟨v, hk, hw, _⟩ | ⟨hk, hw, hsg⟩
    · subst hw
      simp only [State.issueOp, hk, State.issueLoad, State.onDev_dev, Dev.putCell_cell, hfw, hva, if_true, hoo, hll, Cell.holds_pl, hq, Dev.addLoad,
        State.onDev_onDev, hrd]
      simp only [Dev.putCell_putCell, Dev.putCell_cell, Bool.false_eq_true, if_false, y, hk]
      rfl
    · subst hw; subst hsg
      simp only [State.issueOp, hk, State.issueLoad, State.onDev_dev, Dev.putCell_cell, hfw, hva, if_true, hoo, hll, Cell.holds_pl, hq, Dev.addLoad,
        State.onDev_onDev, hrd]
      simp only [Dev.putCell_putCell, Dev.putCell_cell, Bool.false_eq_true, if_false, y, hk]
      rfl

/-- A load from another target, which the target's sluice permits and no line of the data cache answers (R412, R417, R484). -/
theorem State.rowOp_load_far (o : Op) (w : Wid) (sg : Bool) (va : Nat) (a : Attr) (ho : o.loads w sg)
    (ha : (s.dev.cell h.cell.val).dataOf o = some (0, va)) (hva : 0x4000 ≤ va)
    (hperm : (s.dev.ask (s.dev.dataReq h.cell.val (s.dev.cell h.cell.val).pl .read va false)).1 = .permit a)
    (hmiss : (s.dev.orderOf h.cell.val va).2 = true → (s.dev.cell h.cell.val).hit va = none) :
    let oc := s.dev.orderOf h.cell.val va
    s.rowOp h o = s.issuedOn h.cell.val 1 (fun x =>
      { x with loads := x.loads ++ [{ addr := va, io := false, wid := w, sgn := sg, d := o.d, due := x.bun - 1 + (if oc.2 then 5 else s.dev.loadLatency h.cell.val va), bun := x.bun - 1, depth := x.depth, pl := x.pl, sent := true, fly := some s.dev.reqId, ord := oc.1, cache := oc.2, attr := some a.entry, seq := x.seq }], seq := x.seq + 1 })
      (fun d => ((d.touch (if oc.2 then lineOf va else va) (if oc.2 then 8 else 1)).fly (d.sluiceOf va)).2) := by
  obtain ⟨h1, h2, h3, h4, h5, h6, h7, h8, h9, h10, h11, h12, h13, h14, h15, h16, h17, h18, h19, h20, h21, h22, h23, h24, h25⟩ :=
    (Cell.idle_iff _).1 ((State.ready_iff s _).1 hr).2.2.1
  have hid := ((State.ready_iff s _).1 hr).2.2.1
  intro oc
  have hm := State.mem_may s h hr he hp
  have hw : o.words = 1 := by rcases ho with ⟨v, hk, _⟩ | ⟨hk, _⟩ <;> simp [Op.words, hk]
  have hq := fun o' => Dev.ask_holds s.dev h.cell.val (s.dev.cell h.cell.val).pl va o' .read false a hperm
  have hfw : ∀ o', ((s.dev.cell h.cell.val).holds o').forward va w = .free := by
    intro o'; simp [Cell.forward, Cell.overlaps, h6]
  have hoo : ∀ o', (s.dev.putCell h.cell.val ((s.dev.cell h.cell.val).holds o')).orderOf h.cell.val va = oc := by
    intro o'; unfold Dev.orderOf; rw [Dev.putCell_cell]; rfl
  have hll : ∀ o', (s.dev.putCell h.cell.val ((s.dev.cell h.cell.val).holds o')).loadLatency h.cell.val va = s.dev.loadLatency h.cell.val va := fun _ => rfl
  have hhit : ∀ o', (if oc.2 = true then ((s.dev.cell h.cell.val).holds o').hit va else none) = none := by
    intro o'
    split
    · rename_i hc; exact hmiss hc
    · rfl
  have hlt : ¬ va < 0x4000 := by omega
  have hba : busAddr h.cell.val va = va := by simp [busAddr, hlt]
  have hlw : ∀ o' l, (s.dev.putCell h.cell.val ((s.dev.cell h.cell.val).holds o')).loadWaits h.cell.val l = false := by
    intro o' l; simp [Dev.loadWaits, h5, h6]
  let e : LoadE := { addr := va, io := false, wid := w, sgn := sg, d := o.d, due := (s.dev.cell h.cell.val).bun + (if oc.2 then 5 else s.dev.loadLatency h.cell.val va), bun := (s.dev.cell h.cell.val).bun, depth := (s.dev.cell h.cell.val).depth, pl := (s.dev.cell h.cell.val).pl, sent := true, fly := some s.dev.reqId, ord := oc.1, cache := oc.2, attr := some a.entry, seq := (s.dev.cell h.cell.val).seq }
  let d1 := ((s.dev.touch (if oc.2 then lineOf va else va) (if oc.2 then 8 else 1)).fly (s.dev.sluiceOf va)).2
  let x := s.dev.cell h.cell.val
  let y : Cell := { x.holds { o with pred := h.pred.val } with loads := (x.holds { o with pred := h.pred.val }).loads ++ [e], seq := x.seq + 1 }
  have hrid : (s.dev.touch (if oc.2 then lineOf va else va) (if oc.2 then 8 else 1)).reqId = s.dev.reqId := by
    unfold Dev.touch
    split
    · rename_i t _
      cases t <;> rfl
    · rfl
  have hrb : ((s.dev.touch (if oc.2 then lineOf va else va) (if oc.2 then 8 else 1)).run = s.dev.run) ∧
     ((s.dev.touch (if oc.2 then lineOf va else va) (if oc.2 then 8 else 1)).boot = s.dev.boot) := by
    unfold Dev.touch
    split
    · rename_i t _
      cases t <;> exact ⟨rfl, rfl⟩
    · exact ⟨rfl, rfl⟩
  have key := State.rowOp_plain s h o y d1 s.mem va hr he
    (by rcases ho with ⟨v, hk, _⟩ | ⟨hk, _⟩ <;> simp [Op.plain, Op.delays, Op.isBranch, Op.isBlk, Op.isWaitc, hk])
    (by omega) hp
    (Cell.opFault_holds _ _ hid (by rcases ho with ⟨v, hk, _⟩ | ⟨hk, _⟩ <;> simp [Op.calm, hk])
      (by rcases ho with ⟨v, hk, hw, hv⟩ | ⟨hk, _⟩ <;> simp [Op.illegal, hk]; rw [← hw]; exact hv)
      (by rcases ho with ⟨v, hk, _⟩ | ⟨hk, _⟩ <;> simp [Op.denied, hk])
      (by rcases ho with ⟨v, hk, _⟩ | ⟨hk, _⟩ <;> simp [hk]))
    (Dev.dataAll_some _ _ _ _ 0 va (by rw [Dev.putCell_cell]; exact ha) (by rw [Dev.putCell_cell]; exact h23) (by rw [Dev.putCell_cell]; exact h24))
    (by rcases ho with ⟨v, hk, _⟩ | ⟨hk, _⟩ <;> simp only [Dev.opHolds, Dev.putCell_cell, hk, hm, Bool.not_true])
    ?_ (by show (_ || _) = _; exact congrArg₂ (· || ·) hrb.1 (congrArg Boot.monitor hrb.2)) ⟨h21, h22⟩ h11 (Cell.idle_unended (s.dev.cell h.cell.val) { o with pred := h.pred.val } hid)
  · rw [key, hw]
    have e4 : (y.passed (opAdd (s.dev.cell h.cell.val).pc 1) ((s.dev.cell h.cell.val).bun + 1)).settle.shadows =
       { x with pc := opAdd x.pc 1, bun := x.bun + 1, loads := x.loads ++ [e], seq := x.seq + 1 } := by
      rw [Cell.ends_plain]
      · have := congrArg (fun z : Cell => ({ z with loads := x.loads ++ [e], seq := x.seq + 1 } : Cell))
          (Cell.passed_idle x { o with pred := h.pred.val } (opAdd x.pc 1) (x.bun + 1) hid)
        exact this
      · exact h4
      · exact h10
    rw [e4]
    rfl
  · have hsend : ∀ (o' : Op) (l : LoadE), l.addr = va → l.cache = oc.2 →
        (s.dev.putCell h.cell.val ((s.dev.cell h.cell.val).holds o')).ask
        ((s.dev.putCell h.cell.val ((s.dev.cell h.cell.val).holds o')).dataReq h.cell.val l.pl .read va false) =
      (.permit a, s.dev.putCell h.cell.val ((s.dev.cell h.cell.val).holds o')) →
      (s.dev.putCell h.cell.val ((s.dev.cell h.cell.val).holds o')).sendLoad h.cell.val l =
        ({ l with sent := true, fly := some s.dev.reqId, attr := some a.entry }, d1.putCell h.cell.val ((s.dev.cell h.cell.val).holds o')) := by
      intro o' l hl1 hl2 hl3
      unfold Dev.sendLoad
      rw [hl1, hl2, hl3]
      simp only [Dev.touch_putCell, Dev.fly, hlt, if_false, hba]
      have : ∀ z' : Cell, ((s.dev.touch (if oc.2 then lineOf va else va) (if oc.2 then 8 else 1)).putCell h.cell.val z').reqId = s.dev.reqId := fun z' => hrid
      rw [this]
      refine Prod.ext rfl ?_
      show _ = d1.putCell _ _
      simp only [d1, Dev.fly, hrid]
      rfl
    rcases ho with ⟨v, hk, hw2, _⟩ | ⟨hk, hw2, hsg⟩
    · subst hw2
      simp only [State.issueOp, hk, State.issueLoad, State.onDev_dev, Dev.putCell_cell, hfw, hlt, if_false, hoo, hll, Cell.holds_pl, hhit, hlw,
        Bool.false_eq_true]
      rw [hsend]
      · simp only [Dev.addLoad, Dev.putCell_putCell, Dev.putCell_cell, y, hk]
        rfl
      · rfl
      · rfl
      · exact hq _
    · subst hw2; subst hsg
      simp only [State.issueOp, hk, State.issueLoad, State.onDev_dev, Dev.putCell_cell, hfw, hlt, if_false, hoo, hll, Cell.holds_pl, hhit, hlw,
        Bool.false_eq_true]
      rw [hsend]
      · simp only [Dev.addLoad, Dev.putCell_putCell, Dev.putCell_cell, y, hk]
        rfl
      · rfl
      · rfl
      · exact hq _

end

section
variable (s : State) (h : OpHdr) (hr : s.ready h.cell.val = true) (he : endsBundle h) (hp : (s.dev.cell h.cell.val).rf h.pred.val = true)
include hr he hp

/-- SYSC enters its level with the address of the next bundle (R400). -/
theorem State.rowOp_sysc (n : Nat) (hn : n % 2 = 1 → (s.dev.cell h.cell.val).pl ≠ 0) :
    s.rowOp h { k := .sysc, slot := 3, imm := n } =
      s.issued h.cell.val 1 (fun x => x.enter { lvl := if n % 2 = 1 then 2 else 1, cause := cSYSC, epc := x.pc }) := by
  have hid := ((State.ready_iff s _).1 hr).2.2.1
  obtain ⟨h1, h2, h3, h4, h5, h6, h7, h8, h9, h10, h11, h12, h13, h14, h15, h16, h17, h18, h19, h20, h21, h22, h23, h24, h25⟩ := (Cell.idle_iff _).1 hid
  rw [State.rowOp_after s h { k := .sysc, slot := 3, imm := n } ((s.dev.cell h.cell.val).holds { k := .sysc, slot := 3, imm := n, pred := h.pred.val }) 0 hr he hp
    (Cell.opFault_holds _ _ hid rfl rfl (by simp [Op.denied]; intro h0; by_contra hc; exact hn (by omega) h0) (by simp))
    (Dev.dataAll_none _ _ _ _ rfl) rfl rfl]
  have hlive := Cell.live_holds (s.dev.cell h.cell.val) { k := .sysc, slot := 3, imm := n, pred := h.pred.val } h12 hp
  rw [Cell.afterBundle_flow _ ((s.dev.cell h.cell.val).holds { k := .sysc, slot := 3, imm := n, pred := h.pred.val }) _ _ _ hid
    (by simp [Dev.waitOf, Cell.liveOp, hlive, Op.isWaitc]) (by intro n q t; simp [Cell.blockOf, Cell.liveOp, hlive, Op.isBlk])
    ⟨h21, h22⟩ h11 h13 h4 h10]
  have hdl : ((s.dev.cell h.cell.val).holds { k := .sysc, slot := 3, imm := n, pred := h.pred.val }).delayOf = none := by
    simp [Cell.delayOf, placed, Op.delays, Op.isBranch]
  have hsl : ∀ y : Cell, y.startLoop ((s.dev.cell h.cell.val).holds { k := .sysc, slot := 3, imm := n, pred := h.pred.val }) = y := by
    intro y; simp [Cell.startLoop, Cell.liveOp, hlive]
  have htr : ((s.dev.cell h.cell.val).holds { k := .sysc, slot := 3, imm := n, pred := h.pred.val }).trapOf = some (if n % 2 = 1 then 2 else 1) := by
    simp [Cell.trapOf, hlive]
  have hps := Cell.passed_idle (s.dev.cell h.cell.val) { k := .sysc, slot := 3, imm := n, pred := h.pred.val } (opAdd (s.dev.cell h.cell.val).pc 1) ((s.dev.cell h.cell.val).bun + 1) hid
  rw [hsl, htr, hdl]
  have hy : ({ ((s.dev.cell h.cell.val).holds { k := .sysc, slot := 3, imm := n, pred := h.pred.val }).passed
      (opAdd (s.dev.cell h.cell.val).pc (Op.words { k := .sysc, slot := 3, imm := n, pred := h.pred.val })) ((s.dev.cell h.cell.val).bun + 1) with delay := none } : Cell) =
      { s.dev.cell h.cell.val with pc := opAdd (s.dev.cell h.cell.val).pc 1, bun := (s.dev.cell h.cell.val).bun + 1 } := by
    have := congrArg (fun y : Cell => ({ y with delay := none } : Cell)) hps
    refine this.trans ?_
    rw [← h11]
  rw [hy]
  have hres : ∀ y : Cell, y.resume = false → y.trap (some (if n % 2 = 1 then 2 else 1)) = y.enter { lvl := if n % 2 = 1 then 2 else 1, cause := cSYSC, epc := y.pc } := by
    intro y hy; simp [Cell.trap, hy]
  have hu : (({ s.dev.cell h.cell.val with pc := opAdd (s.dev.cell h.cell.val).pc 1, bun := (s.dev.cell h.cell.val).bun + 1 } : Cell).trap
      (some (if n % 2 = 1 then 2 else 1))).unended = false := by
    rw [hres ({ s.dev.cell h.cell.val with pc := opAdd (s.dev.cell h.cell.val).pc 1, bun := (s.dev.cell h.cell.val).bun + 1 } : Cell) h12]
    unfold Cell.enter
    split <;> rfl
  rw [Dev.bundled_done _ _ _ hu]
  exact congrArg (fun w => s.onDev ((s.dev.putCell h.cell.val w).wr (clBun h.cell.val) (s.dev.rd (clBun h.cell.val) + 1)))
    (hres ({ s.dev.cell h.cell.val with pc := opAdd (s.dev.cell h.cell.val).pc 1, bun := (s.dev.cell h.cell.val).bun + 1 } : Cell) h12)

/-- LOOP starts its level behind its bundle (R359, R360, R399). -/
theorem State.rowOp_loop (gc level off : Nat) (hl : level < 3) :
    s.rowOp h { k := .loop, slot := 3, s1 := gc, s2 := level, imm := off } = s.issued h.cell.val 1 (fun x =>
      { x.putLoop level ⟨x.pc, opAdd (s.dev.cell h.cell.val).pc off, if (x.rg gc).toNat % 2 ^ 36 = 0 then 1 else (x.rg gc).toNat % 2 ^ 36⟩ with st := stLEN.put x.st 1 }) := by
  have hid := ((State.ready_iff s _).1 hr).2.2.1
  obtain ⟨h1, h2, h3, h4, h5, h6, h7, h8, h9, h10, h11, h12, h13, h14, h15, h16, h17, h18, h19, h20, h21, h22, h23, h24, h25⟩ := (Cell.idle_iff _).1 hid
  have hl3 : level % 3 = level := Nat.mod_eq_of_lt hl
  generalize hx : s.dev.cell h.cell.val = x at *
  have key := State.rowOp_after s h { k := .loop, slot := 3, s1 := gc, s2 := level, imm := off }
    { (x.holds { k := .loop, slot := 3, s1 := gc, s2 := level, imm := off, pred := h.pred.val }).putLoop level
      ⟨opAdd x.pc 1, opAdd x.pc off, if (x.rg gc).toNat % 2 ^ 36 = 0 then 1 else (x.rg gc).toNat % 2 ^ 36⟩ with lbuf := none } 0 hr he (by rw [hx]; exact hp)
    (by rw [hx]; exact Cell.opFault_holds _ _ hid rfl (by simp [Op.illegal]; omega) rfl (by simp))
    (Dev.dataAll_none _ _ _ _ rfl) rfl
    (by
      rw [hx]
      simp only [State.issueOp, State.onDev_dev, Dev.putCell_cell, Dev.putCell_putCell, hl3, Cell.holds_bundle, Cell.holds_pc]; rfl)
  rw [key]
  rw [hx]
  have hlive := Cell.live_holds x { k := .loop, slot := 3, s1 := gc, s2 := level, imm := off, pred := h.pred.val } h12 hp
  rw [Cell.afterBundle_flow _ { (x.holds { k := .loop, slot := 3, s1 := gc, s2 := level, imm := off, pred := h.pred.val }).putLoop level
      ⟨opAdd x.pc 1, opAdd x.pc off, if (x.rg gc).toNat % 2 ^ 36 = 0 then 1 else (x.rg gc).toNat % 2 ^ 36⟩ with lbuf := none } _ _ _ hid
    (by simp [Dev.waitOf, Cell.liveOp, hlive, Op.isWaitc]) (by intro n q t; simp [Cell.blockOf, Cell.liveOp, hlive, Op.isBlk])
    ⟨rfl, h22⟩ h11 h13 h4 h10]
  have hdl : (x.holds { k := .loop, slot := 3, s1 := gc, s2 := level, imm := off, pred := h.pred.val }).delayOf = none := by
    simp [Cell.delayOf, placed, Op.delays, Op.isBranch]
  have hsl : ∀ y : Cell, y.startLoop (x.holds { k := .loop, slot := 3, s1 := gc, s2 := level, imm := off, pred := h.pred.val }) = { y with st := stLEN.put y.st 1 } := by
    intro y; simp [Cell.startLoop, Cell.liveOp, hlive]
  have htr : (x.holds { k := .loop, slot := 3, s1 := gc, s2 := level, imm := off, pred := h.pred.val }).trapOf = none := by
    simp [Cell.trapOf, hlive]
  have hps := Cell.passed_idle x { k := .loop, slot := 3, s1 := gc, s2 := level, imm := off, pred := h.pred.val } (opAdd x.pc 1) (x.bun + 1) hid
  rw [hsl, htr, hdl]
  have hy : ({ ({ (x.holds { k := .loop, slot := 3, s1 := gc, s2 := level, imm := off, pred := h.pred.val }).putLoop level
      ⟨opAdd x.pc 1, opAdd x.pc off, if (x.rg gc).toNat % 2 ^ 36 = 0 then 1 else (x.rg gc).toNat % 2 ^ 36⟩ with lbuf := none } : Cell).passed
      (opAdd x.pc (Op.words { k := .loop, slot := 3, s1 := gc, s2 := level, imm := off, pred := h.pred.val })) (x.bun + 1) with delay := none } : Cell) =
      ({ x with pc := opAdd x.pc 1, bun := x.bun + 1 } : Cell).putLoop level ⟨opAdd x.pc 1, opAdd x.pc off, if (x.rg gc).toNat % 2 ^ 36 = 0 then 1 else (x.rg gc).toNat % 2 ^ 36⟩ := by
    have := congrArg (fun y : Cell => (({ y with delay := none } : Cell).putLoop level ⟨opAdd x.pc 1, opAdd x.pc off, if (x.rg gc).toNat % 2 ^ 36 = 0 then 1 else (x.rg gc).toNat % 2 ^ 36⟩)) hps
    refine this.trans ?_
    simp only [Cell.putLoop]
    rw [← h11]
  rw [hy, Dev.bundled_done _ _ _ (by simp [Cell.unended, Cell.putLoop, Cell.trap, h13, h14])]
  unfold State.issued State.issuedOn
  rw [hx]
  rfl

/-- A block op with a count begins; its bundle completes with its last word (R392, R393). -/
theorem State.rowOp_blk (f : Blk) (d s1 s2 : Nat) (hn : ((s.dev.cell h.cell.val).rg s2).toNat % 2 ^ 36 ≠ 0) (hd : distinctRegs (blkRegs f d s1 s2) = true) :
    s.rowOp h { k := .blk f, slot := 2, d := d, s1 := s1, s2 := s2 } = s.begun h.cell.val (fun x =>
      { x with blk := some { f := f, d := d, s1 := s1, s2 := s2, vd := x.rg d, v1 := x.rg s1, v2 := x.rg s2, at' := x.pc, b := x.pc, bun := x.bun - 1, len := 1, dly := none, lend := false, trap := none } }) := by
  have hid := ((State.ready_iff s _).1 hr).2.2.1
  obtain ⟨h1, h2, h3, h4, h5, h6, h7, h8, h9, h10, h11, h12, h13, h14, h15, h16, h17, h18, h19, h20, h21, h22, h23, h24, h25⟩ := (Cell.idle_iff _).1 hid
  have hpc : opAdd (s.dev.cell h.cell.val).pc 0 = (s.dev.cell h.cell.val).pc := by unfold opAdd; omega
  generalize hx : s.dev.cell h.cell.val = x at *
  have key := State.rowOp_after s h { k := .blk f, slot := 2, d := d, s1 := s1, s2 := s2 }
    (x.holds { k := .blk f, slot := 2, d := d, s1 := s1, s2 := s2, pred := h.pred.val }) 0 hr he (by rw [hx]; exact hp)
    (by rw [hx]; exact Cell.opFault_holds _ _ hid rfl (by simp [Op.illegal, hd]) rfl (by simp))
    (Dev.dataAll_none _ _ _ _ rfl) rfl
    (by
      rw [hx]
      simp only [State.issueOp]; rfl)
  rw [key, hx]
  have hlive := Cell.live_holds x { k := .blk f, slot := 2, d := d, s1 := s1, s2 := s2, pred := h.pred.val } h12 hp
  have hdl : (x.holds { k := .blk f, slot := 2, d := d, s1 := s1, s2 := s2, pred := h.pred.val }).delayOf = none := by
    simp [Cell.delayOf, placed, Op.delays, Op.isBranch]
  have htr : (x.holds { k := .blk f, slot := 2, d := d, s1 := s1, s2 := s2, pred := h.pred.val }).trapOf = none := by
    simp [Cell.trapOf, hlive]
  have hlen : opsLen (x.holds { k := .blk f, slot := 2, d := d, s1 := s1, s2 := s2, pred := h.pred.val }).bundle = 1 := by simp [opsLen, Op.words]
  have hsl : ∀ y : Cell, y.startLoop (x.holds { k := .blk f, slot := 2, d := d, s1 := s1, s2 := s2, pred := h.pred.val }) = y := by
    intro y; simp [Cell.startLoop, Cell.liveOp, hlive]
  have hrg : ∀ r, (x.holds { k := .blk f, slot := 2, d := d, s1 := s1, s2 := s2, pred := h.pred.val }).rg r = x.rg r := fun _ => rfl
  have hbl : (x.holds { k := .blk f, slot := 2, d := d, s1 := s1, s2 := s2, pred := h.pred.val }).blockOf 1 none none =
      some { f := f, d := d, s1 := s1, s2 := s2, vd := x.rg d, v1 := x.rg s1, v2 := x.rg s2, at' := x.pc, b := x.pc, bun := x.bun, len := 1, dly := none, lend := false, trap := none } := by
    simp [Cell.blockOf, Cell.liveOp, hlive, Op.isBlk, hrg, h22]
    exact hn
  have hwt : ∀ n, (s.dev.waitOf (x.holds { k := .blk f, slot := 2, d := d, s1 := s1, s2 := s2, pred := h.pred.val }) n) = none := by
    intro n; simp [Dev.waitOf, Cell.liveOp, hlive, Op.isWaitc]
  have hwd : (Op.words { k := .blk f, slot := 2, d := d, s1 := s1, s2 := s2 }) = 1 := rfl
  have hbuf : ∀ a b t, (x.holds { k := .blk f, slot := 2, d := d, s1 := s1, s2 := s2, pred := h.pred.val }).buffer a b t =
      x.holds { k := .blk f, slot := 2, d := d, s1 := s1, s2 := s2, pred := h.pred.val } := by
    intro a b t
    unfold Cell.buffer
    split
    · simp [show (x.holds { k := .blk f, slot := 2, d := d, s1 := s1, s2 := s2, pred := h.pred.val }).len = false from h22]
    · rw [← show (x.holds { k := .blk f, slot := 2, d := d, s1 := s1, s2 := s2, pred := h.pred.val }).lbuf = none from h21]
  have hab : ∀ a, (x.holds { k := .blk f, slot := 2, d := d, s1 := s1, s2 := s2, pred := h.pred.val }).afterBundle
      (x.holds { k := .blk f, slot := 2, d := d, s1 := s1, s2 := s2, pred := h.pred.val }) a none =
      { x with bun := x.bun + 1, blk := some { f := f, d := d, s1 := s1, s2 := s2, vd := x.rg d, v1 := x.rg s1, v2 := x.rg s2, at' := x.pc, b := x.pc, bun := x.bun, len := 1, dly := none, lend := false, trap := none } } := by
    intro a
    unfold Cell.afterBundle
    simp only [hlen, hdl, htr, hbl, hsl, reduceCtorEq, false_and, if_false]
    simp only [Cell.predicted, Cell.closeBundle, Cell.holds_pc, Cell.holds_bun, hbuf]
    rw [Cell.ends_plain]
    · unfold Cell.begins
      clear key hwt hsl hbl hrg hlive hdl htr hlen hx hbuf
      cases x
      simp_all [Cell.holds]
    · exact h4
    · exact h10
  simp only [hwd, hwt]
  rw [hab, Dev.bundled_open _ _ _ (by simp [Cell.unended])]
  unfold State.begun
  rw [hx]
  rfl

end
section
variable (s : State) (h : OpHdr) (hr : s.ready h.cell.val = true) (he : endsBundle h) (hp : (s.dev.cell h.cell.val).rf h.pred.val = true)
include hr he hp

/-- A live op that does nothing itself, delays nothing, starts nothing: control moves on. -/
theorem State.rowOp_pass (o : Op) (hc : o.calm = true) (hl : o.illegal = false)
    (hde : o.denied (s.dev.cell h.cell.val).pl ((s.dev.cell h.cell.val).rg o.s1) = false) (hist : o.k ≠ .ist)
    (hda : (s.dev.cell h.cell.val).dataOf o = none) (hw : o.words = 1)
    (hh : (s.dev.putCell h.cell.val ((s.dev.cell h.cell.val).holds { o with pred := h.pred.val })).opHolds h.cell.val { o with pred := h.pred.val } 0 = false)
    (hi : ∀ t : State, ∀ c x a p, t.issueOp c x { o with pred := h.pred.val } a p = t)
    (hwt : s.dev.waitOf ((s.dev.cell h.cell.val).holds { o with pred := h.pred.val }) 1 = none)
    (hbl : ∀ n q t, ((s.dev.cell h.cell.val).holds { o with pred := h.pred.val }).blockOf n q t = none)
    (hdl : o.delays = false) (hlo : o.k ≠ .loop) (hsy : o.k ≠ .sysc) :
    s.rowOp h o = s.issued h.cell.val 1 (fun x => x) := by
  have hid := ((State.ready_iff s _).1 hr).2.2.1
  obtain ⟨h1, h2, h3, h4, h5, h6, h7, h8, h9, h10, h11, h12, h13, h14, h15, h16, h17, h18, h19, h20, h21, h22, h23, h24, h25⟩ := (Cell.idle_iff _).1 hid
  rw [State.rowOp_after s h o ((s.dev.cell h.cell.val).holds { o with pred := h.pred.val }) 0 hr he hp
    (Cell.opFault_holds _ _ hid hc hl hde (fun h => absurd h hist))
    (Dev.dataAll_none _ _ _ _ (by rw [Dev.putCell_cell]; exact hda)) hh (by rw [hi]; rfl)]
  have hlive := Cell.live_holds (s.dev.cell h.cell.val) { o with pred := h.pred.val } h12 hp
  rw [Cell.afterBundle_flow _ ((s.dev.cell h.cell.val).holds { o with pred := h.pred.val }) _ _ _ hid (by rw [hw]; exact hwt) hbl
    ⟨h21, h22⟩ h11 h13 h4 h10]
  have hdl' : ((s.dev.cell h.cell.val).holds { o with pred := h.pred.val }).delayOf = none := by
    simp [Cell.delayOf, placed, show Op.delays { o with pred := h.pred.val } = false from hdl]
  have hsl : ∀ y : Cell, y.startLoop ((s.dev.cell h.cell.val).holds { o with pred := h.pred.val }) = y := by
    intro y; simp [Cell.startLoop, Cell.liveOp, hlive, hlo]
  have htr : ((s.dev.cell h.cell.val).holds { o with pred := h.pred.val }).trapOf = none := by
    simp [Cell.trapOf, hlive, hsy]
  have hps := Cell.passed_idle (s.dev.cell h.cell.val) { o with pred := h.pred.val } (opAdd (s.dev.cell h.cell.val).pc 1) ((s.dev.cell h.cell.val).bun + 1) hid
  rw [hsl, htr, hdl', show Op.words { o with pred := h.pred.val } = 1 from hw]
  have hy : ({ ((s.dev.cell h.cell.val).holds { o with pred := h.pred.val }).passed
      (opAdd (s.dev.cell h.cell.val).pc 1) ((s.dev.cell h.cell.val).bun + 1) with delay := none } : Cell) =
      { s.dev.cell h.cell.val with pc := opAdd (s.dev.cell h.cell.val).pc 1, bun := (s.dev.cell h.cell.val).bun + 1 } := by
    have := congrArg (fun y : Cell => ({ y with delay := none } : Cell)) hps
    refine this.trans ?_
    rw [← h11]
  rw [hy, Dev.bundled_done _ _ _ (by simp [Cell.unended, Cell.trap, h13, h14])]
  rfl

/-- A block op with a count of 0 does nothing (R393). -/
theorem State.rowOp_blk_none (f : Blk) (d s1 s2 : Nat) (hn : ((s.dev.cell h.cell.val).rg s2).toNat % 2 ^ 36 = 0) (hd : distinctRegs (blkRegs f d s1 s2) = true) :
    s.rowOp h { k := .blk f, slot := 2, d := d, s1 := s1, s2 := s2 } = s.issued h.cell.val 1 (fun x => x) := by
  have h12 := ((Cell.idle_iff _).1 ((State.ready_iff s _).1 hr).2.2.1).2.2.2.2.2.2.2.2.2.2.2.1
  have hlive := Cell.live_holds (s.dev.cell h.cell.val) { k := .blk f, slot := 2, d := d, s1 := s1, s2 := s2, pred := h.pred.val } h12 hp
  refine State.rowOp_pass s h hr he hp _ rfl (by simp [Op.illegal, hd]) rfl (by simp) rfl rfl rfl (by simp [State.issueOp])
    (by simp [Dev.waitOf, Cell.liveOp, hlive, Op.isWaitc]) ?_ rfl (by simp) (by simp)
  intro n q t
  have hrg : ((s.dev.cell h.cell.val).holds { k := .blk f, slot := 2, d := d, s1 := s1, s2 := s2, pred := h.pred.val }).rg s2 = (s.dev.cell h.cell.val).rg s2 := rfl
  simp only [Cell.blockOf, Cell.liveOp, hlive, Op.isBlk, List.find?_cons, hrg]
  exact if_pos hn

/-- A WAITC whose threshold is reached goes on (R70). -/
theorem State.rowOp_waitc_on (s1 dom n : Nat)
    (hre : reached (n.testBit 0) (s.dev.waitReading dom (n.testBit 1)) ((s.dev.cell h.cell.val).rg s1) = true) :
    s.rowOp h { k := .waitc, slot := 3, s1 := s1, s2 := dom, imm := n } = s.issued h.cell.val 1 (fun x => x) := by
  have h12 := ((Cell.idle_iff _).1 ((State.ready_iff s _).1 hr).2.2.1).2.2.2.2.2.2.2.2.2.2.2.1
  have hlive := Cell.live_holds (s.dev.cell h.cell.val) { k := .waitc, slot := 3, s1 := s1, s2 := dom, imm := n, pred := h.pred.val } h12 hp
  refine State.rowOp_pass s h hr he hp _ rfl rfl rfl (by simp) rfl rfl rfl (by simp [State.issueOp])
    ?_ (by intro n q t; simp [Cell.blockOf, Cell.liveOp, hlive, Op.isBlk]) rfl (by simp) (by simp)
  have hrg : ((s.dev.cell h.cell.val).holds { k := .waitc, slot := 3, s1 := s1, s2 := dom, imm := n, pred := h.pred.val }).rg s1 = (s.dev.cell h.cell.val).rg s1 := rfl
  simp only [Dev.waitOf, Cell.liveOp, hlive, Op.isWaitc, List.find?_cons, hrg, hre, if_true]

/-- A WAITC whose threshold is not reached holds its cell (R70). -/
theorem State.rowOp_waitc_wait (s1 dom n : Nat)
    (hre : reached (n.testBit 0) (s.dev.waitReading dom (n.testBit 1)) ((s.dev.cell h.cell.val).rg s1) = false) :
    s.rowOp h { k := .waitc, slot := 3, s1 := s1, s2 := dom, imm := n } = s.begun h.cell.val (fun x =>
      { x with wait := .waitc x.pc 1 dom (n.testBit 1) (n.testBit 0) false (x.rg s1) }) := by
  have hid := ((State.ready_iff s _).1 hr).2.2.1
  obtain ⟨h1, h2, h3, h4, h5, h6, h7, h8, h9, h10, h11, h12, h13, h14, h15, h16, h17, h18, h19, h20, h21, h22, h23, h24, h25⟩ := (Cell.idle_iff _).1 hid
  have hpc : opAdd (s.dev.cell h.cell.val).pc 0 = (s.dev.cell h.cell.val).pc := by unfold opAdd; omega
  generalize hx : s.dev.cell h.cell.val = x at *
  have key := State.rowOp_after s h { k := .waitc, slot := 3, s1 := s1, s2 := dom, imm := n }
    (x.holds { k := .waitc, slot := 3, s1 := s1, s2 := dom, imm := n, pred := h.pred.val }) 0 hr he (by rw [hx]; exact hp)
    (by rw [hx]; exact Cell.opFault_holds _ _ hid rfl rfl rfl (by simp))
    (Dev.dataAll_none _ _ _ _ rfl) rfl
    (by
      rw [hx]
      simp only [State.issueOp]; rfl)
  rw [key, hx]
  have hlive := Cell.live_holds x { k := .waitc, slot := 3, s1 := s1, s2 := dom, imm := n, pred := h.pred.val } h12 hp
  have hdl : (x.holds { k := .waitc, slot := 3, s1 := s1, s2 := dom, imm := n, pred := h.pred.val }).delayOf = none := by
    simp [Cell.delayOf, placed, Op.delays, Op.isBranch]
  have htr : (x.holds { k := .waitc, slot := 3, s1 := s1, s2 := dom, imm := n, pred := h.pred.val }).trapOf = none := by
    simp [Cell.trapOf, hlive]
  have hlen : opsLen (x.holds { k := .waitc, slot := 3, s1 := s1, s2 := dom, imm := n, pred := h.pred.val }).bundle = 1 := by simp [opsLen, Op.words]
  have hsl : ∀ y : Cell, y.startLoop (x.holds { k := .waitc, slot := 3, s1 := s1, s2 := dom, imm := n, pred := h.pred.val }) = y := by
    intro y; simp [Cell.startLoop, Cell.liveOp, hlive]
  have hrg : ∀ r, (x.holds { k := .waitc, slot := 3, s1 := s1, s2 := dom, imm := n, pred := h.pred.val }).rg r = x.rg r := fun _ => rfl
  have hbl : (x.holds { k := .waitc, slot := 3, s1 := s1, s2 := dom, imm := n, pred := h.pred.val }).blockOf 1 none none = none := by
    simp [Cell.blockOf, Cell.liveOp, hlive, Op.isBlk]
  have hwt : (s.dev.waitOf (x.holds { k := .waitc, slot := 3, s1 := s1, s2 := dom, imm := n, pred := h.pred.val }) 1) =
      some (.waitc x.pc 1 dom (n.testBit 1) (n.testBit 0) false (x.rg s1)) := by
    simp only [Dev.waitOf, Cell.liveOp, hlive, Op.isWaitc, List.find?_cons, hrg, hre, Bool.false_eq_true, if_false, Cell.holds_pc, Cell.holds_len, h22]
  have hwd : (Op.words { k := .waitc, slot := 3, s1 := s1, s2 := dom, imm := n }) = 1 := rfl
  have hbuf : ∀ a b t, (x.holds { k := .waitc, slot := 3, s1 := s1, s2 := dom, imm := n, pred := h.pred.val }).buffer a b t =
      x.holds { k := .waitc, slot := 3, s1 := s1, s2 := dom, imm := n, pred := h.pred.val } := by
    intro a b t
    unfold Cell.buffer
    split
    · simp [show (x.holds { k := .waitc, slot := 3, s1 := s1, s2 := dom, imm := n, pred := h.pred.val }).len = false from h22]
    · rw [← show (x.holds { k := .waitc, slot := 3, s1 := s1, s2 := dom, imm := n, pred := h.pred.val }).lbuf = none from h21]
  have hab : ∀ a w, (x.holds { k := .waitc, slot := 3, s1 := s1, s2 := dom, imm := n, pred := h.pred.val }).afterBundle
      (x.holds { k := .waitc, slot := 3, s1 := s1, s2 := dom, imm := n, pred := h.pred.val }) a (some w) =
      { x with bun := x.bun + 1, wait := w } := by
    intro a w
    unfold Cell.afterBundle
    simp only [hlen, hdl, htr, hbl, hsl, reduceCtorEq, and_false, if_false]
    simp only [Cell.predicted, Cell.closeBundle, Cell.holds_pc, Cell.holds_bun, hbuf]
    rw [Cell.ends_plain]
    · unfold Cell.begins
      clear key hwt hsl hbl hrg hlive hdl htr hlen hx hbuf hre
      cases x
      simp_all [Cell.holds]
    · exact h4
    · exact h10
  simp only [hwd, hwt]
  rw [hab, Dev.bundled_open _ _ _ (by simp [Cell.unended])]
  unfold State.begun
  rw [hx]
  rfl

/-- BRK enters its exception where debug does not halt the group; EPC names its bundle (R408, R434, R438). -/
theorem State.rowOp_brk (hb : s.dev.brkHalts h.cell.val = false) :
    s.rowOp h { k := .brk, slot := 3 } = s.onDev (s.dev.putCell h.cell.val ((s.dev.cell h.cell.val).fault cBRK)) := by
  have hid := ((State.ready_iff s _).1 hr).2.2.1
  obtain ⟨h1, h2, h3, h4, h5, h6, h7, h8, h9, h10, h11, h12, h13, h14, h15, h16, h17, h18, h19, h20, h21, h22, h23, h24, h25⟩ := (Cell.idle_iff _).1 hid
  have hlive := Cell.live_holds (s.dev.cell h.cell.val) { k := .brk, slot := 3, pred := h.pred.val } h12 hp
  have hib : ((s.dev.cell h.cell.val).holds { k := .brk, slot := 3, pred := h.pred.val }).illegalBundle = false := by
    simp [Cell.illegalBundle, slotsRise, h11, h22]
  rw [State.rowOp_faults s h { k := .brk, slot := 3 } cBRK 0 hr he (by simp [Op.words])
    (by simp [Cell.opFault, hib, hlive, Op.illegal, Op.denied]) (fun _ => hb)]
  have hv : ((s.dev.cell h.cell.val).holds { k := .brk, slot := 3, pred := h.pred.val }).vec = none := h16
  have hfe : ((s.dev.cell h.cell.val).holds { k := .brk, slot := 3, pred := h.pred.val }).fault cBRK = (s.dev.cell h.cell.val).fault cBRK := by
    simp only [Cell.fault, Cell.holds_delay, h11]
    rfl
  simp only [Dev.faultAt, Dev.putCell_cell, hv, hfe]
  simp [cBRK, cFETCH, cIACC, cDACC, cDERR]

end

end Sys2Proof.Machine
end

