-- ==== Sys2Proof/Laws/Memory.lean ====
section
/-! SUPPORT. The memories: what a read after a write gives, and that every operation keeps their canonical form. -/

namespace Sys2Proof.Machine

open Sys2Proof

theorem Pat.word_of_at (p : Pat) (a : Nat) (w : Word) (h : p.at? a = some w) : p.word a = w := by
  cases p <;> simp_all [Pat.word, Pat.at?]

theorem Mem.rest_of_known (m : Mem) (a : Nat) (w : Word) (h : m.known a = some w) : m.rest a = w := by
  unfold Mem.known at h
  unfold Mem.rest
  split at h
  · exact Pat.word_of_at _ _ _ h
  · cases h; rfl

@[simp] theorem Mem.rd_wr_self (m : Mem) (a : Nat) (w : Word) : (m.wr a w).rd a = w := by
  unfold Mem.rd Mem.wr
  split
  · rename_i h
    rw [Tab.get_erase_self]
    exact Mem.rest_of_known m a w h
  · exact Tab.get_ins_self _ _ _ _

theorem Mem.rd_wr_ne (m : Mem) {a b : Nat} (w : Word) (h : b ≠ a) : (m.wr a w).rd b = m.rd b := by
  unfold Mem.rd Mem.wr
  split
  · exact Tab.get_erase_ne _ _ h
  · exact Tab.get_ins_ne _ _ _ h

theorem Mem.rd_wr (m : Mem) (a b : Nat) (w : Word) : (m.wr a w).rd b = if b = a then w else m.rd b := by
  split
  · rename_i h; subst h; simp
  · rename_i h; exact Mem.rd_wr_ne m w h

theorem Mem.wf_iff (m : Mem) : m.wf = true ↔ Tab.sorted m.cells = true ∧ (∀ e ∈ m.cells, m.known e.1 ≠ some e.2) ∧
    Tab.wf (BitVec.allOnes 72) m.nor = true ∧ Tab.sorted m.flips = true ∧ (∀ e ∈ m.flips, e.2 ≠ m.restFlip e.1) := by
  simp only [Mem.wf, Bool.and_eq_true, List.all_eq_true, decide_eq_true_eq, and_assoc]

/-- A write of the flipped bits of one word, as the table of them has it. -/
theorem Mem.flips_set (m : Mem) (a : Nat) (v : BitVec 80) (h : Tab.sorted m.flips = true) (h' : ∀ e ∈ m.flips, e.2 ≠ m.restFlip e.1) :
    Tab.sorted (Tab.set (m.restFlip a) m.flips a v) = true ∧ ∀ e ∈ Tab.set (m.restFlip a) m.flips a v, e.2 ≠ m.restFlip e.1 := by
  unfold Tab.set
  split
  · exact ⟨Tab.sorted_erase _ _ h, fun e he => h' e (Tab.mem_erase _ _ _ he)⟩
  · rename_i hv
    refine ⟨Tab.sorted_ins _ _ _ h, fun e he => ?_⟩
    rcases Tab.mem_ins _ _ _ _ he with he | rfl
    · exact h' e he
    · exact hv

@[simp] theorem Mem.known_wr (m : Mem) (a b : Nat) (w : Word) : (m.wr a w).known b = m.known b := rfl

theorem Mem.wf_wr (m : Mem) (a : Nat) (w : Word) (h : m.wf = true) : (m.wr a w).wf = true := by
  rw [Mem.wf_iff] at *
  obtain ⟨h1, h2, h3, h4, h5⟩ := h
  have hf := Mem.flips_set m a 0 h4 h5
  unfold Mem.wr
  split
  · exact ⟨Tab.sorted_erase _ _ h1, fun e he => h2 e (Tab.mem_erase _ _ _ he), h3, hf⟩
  · rename_i hk
    refine ⟨Tab.sorted_ins _ _ _ h1, fun e he => ?_, h3, hf⟩
    rcases Tab.mem_ins _ _ _ _ he with he | he
    · exact h2 e he
    · subst he; exact hk

/-- Bits flip in one stored word. -/
theorem Mem.wf_strike (m : Mem) (a : Nat) (v : BitVec 80) (h : m.wf = true) :
    ({ m with flips := Tab.set (m.restFlip a) m.flips a v } : Mem).wf = true := by
  rw [Mem.wf_iff] at *
  exact ⟨h.1, h.2.1, h.2.2.1, Mem.flips_set m a v h.2.2.2.1 h.2.2.2.2⟩

theorem Mem.cover_fill_ne (m : Mem) (lo hi : Nat) (p : Pat) (f : BitVec 80) {a : Nat} (h : a < lo ∨ hi < a) :
    (m.fill lo hi p f).cover a = m.cover a := by
  have : ¬ (lo ≤ a ∧ a ≤ hi) := by omega
  simp [Mem.cover, Mem.fill, this]

theorem Mem.wf_fill (m : Mem) (lo hi : Nat) (p : Pat) (f : BitVec 80) (h : m.wf = true) : (m.fill lo hi p f).wf = true := by
  rw [Mem.wf_iff] at *
  obtain ⟨h1, h2, h3, h4, h5⟩ := h
  refine ⟨Tab.sorted_filter _ _ h1, fun e he => ?_, h3, Tab.sorted_filter _ _ h4, fun e he => ?_⟩ <;>
    (simp only [Mem.fill, List.mem_filter, decide_eq_true_eq] at he)
  · rw [Mem.known, Mem.cover_fill_ne m lo hi p f he.2]; exact h2 e he.1
  · rw [Mem.restFlip, Mem.cover_fill_ne m lo hi p f he.2]; exact h5 e he.1

theorem Mem.wf_program (m : Mem) (s n : Nat) (w : Word) (h : m.wf = true) : (m.program s n w).wf = true := by
  rw [Mem.wf_iff] at *
  exact ⟨h.1, h.2.1, Tab.wf_set _ _ _ _ h.2.2.1, h.2.2.2⟩

theorem Mem.wf_eraseSlot (m : Mem) (s lo hi : Nat) (h : m.wf = true) : (m.eraseSlot s lo hi).wf = true := by
  rw [Mem.wf_iff] at *
  refine ⟨h.1, h.2.1, ?_, h.2.2.2⟩
  have h3 := h.2.2.1
  simp only [Tab.wf, Bool.and_eq_true, List.all_eq_true] at *
  exact ⟨Tab.sorted_filter _ _ h3.1, fun e he => h3.2 e (List.mem_of_mem_filter he)⟩

theorem Mem.wf_afterReset (m : Mem) (id size : Nat) (h : m.wf = true) : (m.afterReset id size).wf = true := by
  rw [Mem.wf_iff] at *
  have hc : ∀ a, codeBase ≤ a → a < codeBase + 0x800000 → (m.afterReset id size).cover a = none := by
    intro a h1 h2
    simp only [codeBase] at h1 h2
    have a1 : ¬ (0x001000000 ≤ a ∧ a ≤ 0x0080FFFFF) := by omega
    have a2 : ¬ (isramOf 0 ≤ a ∧ a ≤ isramOf 64 - 1) := by unfold isramOf; omega
    have a3 : ¬ (dramBase ≤ a ∧ a ≤ dramBase + size - 1) := by unfold dramBase; omega
    simp only [Mem.cover, Mem.afterReset, List.find?_cons, a1, a2, a3, decide_false, List.find?_nil]
  refine ⟨Tab.sorted_filter _ _ h.1, fun e he => ?_, h.2.2.1, Tab.sorted_filter _ _ h.2.2.2.1, fun e he => ?_⟩ <;>
    (simp only [Mem.afterReset, List.mem_filter, decide_eq_true_eq] at he; obtain ⟨_, h1, h2, h3⟩ := he)
  · rw [Mem.known, hc _ h1 h2]
    exact fun hq => h3 (Option.some.inj hq).symm
  · rw [Mem.restFlip, hc _ h1 h2]
    exact h3

theorem Mem.wf_foldl {α : Type} (l : List α) (f : Mem → α → Mem) (hf : ∀ m a, m.wf = true → (f m a).wf = true) (m : Mem) (h : m.wf = true) :
    (l.foldl f m).wf = true := by
  induction l generalizing m with
  | nil => exact h
  | cons a l ih => exact ih _ (hf _ _ h)

theorem Mem.wf_copyLocal (m : Mem) (a b : Nat) (h : m.wf = true) : (m.copyLocal a b).wf = true :=
  Mem.wf_foldl _ _ (fun m _ h => Mem.wf_wr _ _ _ (Mem.wf_wr _ _ _ h)) m h

/-- A read after writes of one word at several places. -/
theorem Mem.rd_foldl_wr (l : List Nat) (w : Word) (m : Mem) (b : Nat) :
    (l.foldl (fun m a => m.wr a w) m).rd b = if b ∈ l then w else m.rd b := by
  induction l generalizing m with
  | nil => simp
  | cons a l ih =>
    rw [List.foldl_cons, ih, Mem.rd_wr]
    by_cases h1 : b ∈ l
    · simp [h1]
    · by_cases h2 : b = a <;> simp [h1, h2]

end Sys2Proof.Machine
end

