-- ==== Sys2Proof/Laws/Keeps.lean ====
section
/-! SUPPORT. What every operation on the whole machine leaves: the queue, and the canonical form of the memories. -/

namespace Sys2Proof.Machine

open Sys2Proof

theorem State.Keeps.refl (s : State) : s.Keeps s := ⟨rfl, id⟩
theorem State.Keeps.trans {s t u : State} (h : s.Keeps t) (k : t.Keeps u) : s.Keeps u := ⟨k.1.trans h.1, fun w => k.2 (h.2 w)⟩
theorem State.Keeps.snd {α : Type} {s t : State} {p : α × State} {r : α} (h : s.Keeps p.2) (e : p = (r, t)) : s.Keeps t := by rw [e] at h; exact h
/-- A change of the device alone after a change that keeps. -/
theorem State.Keeps.onDev {s t : State} (h : s.Keeps t) (d : Dev) : s.Keeps ⟨t.pending, t.mem, d⟩ := h
theorem State.Keeps.pair {α : Type} {s t : State} {a : α} (h : s.Keeps t) : s.Keeps (a, t).2 := h
theorem State.Keeps.snd2 {α : Type} {s : State} {p r : α × State} (h : s.Keeps p.2) (e : p = r) : s.Keeps r.2 := e ▸ h
theorem State.Keeps.ite {p : Prop} [Decidable p] {s t u : State} (h : s.Keeps t) (k : s.Keeps u) : s.Keeps (if p then t else u) := by
  split
  · exact h
  · exact k
theorem State.Keeps.foldl {α : Type} (l : List α) (f : State → α → State) (hf : ∀ (s : State) a, s.Keeps (f s a)) (s : State) : s.Keeps (l.foldl f s) := by
  induction l generalizing s with
  | nil => exact .refl s
  | cons a l ih => exact .trans (hf s a) (ih _)
theorem State.Keeps.mem {s : State} {m : Mem} (d : Dev) (h : s.mem.wf = true → m.wf = true) : s.Keeps ⟨s.pending, m, d⟩ := ⟨rfl, h⟩
theorem State.Keeps.dev (s : State) (d : Dev) : s.Keeps ⟨s.pending, s.mem, d⟩ := ⟨rfl, id⟩
theorem State.Keeps.onD (s : State) (d : Dev) : s.Keeps (s.onDev d) := ⟨rfl, id⟩
theorem State.Keeps.onDD {s t : State} (h : s.Keeps t) (d : Dev) : s.Keeps (t.onDev d) := h
theorem State.Keeps.live (s : State) (f : Dev → Dev) : s.Keeps (s.live f) := by unfold State.live; split; exacts [.onD _ _, .refl _]
theorem State.Keeps.liveS (s : State) (f : State → State) (h : s.Keeps (f s)) : s.Keeps (s.liveS f) := by unfold State.liveS; split; exacts [h, .refl _]

theorem State.wrWord_keeps (s : State) (a : Nat) (w : Word) : s.Keeps (s.wrWord a w) := by
  unfold State.wrWord
  split
  · exact .mem _ (fun h => Mem.wf_foldl _ _ (fun m _ h => Mem.wf_wr _ _ _ h) _ h)
  · exact .refl s
  · exact .mem _ (fun h => Mem.wf_wr _ _ _ h)
  · exact .refl s

theorem State.wrWords_keeps (s : State) (a : Nat) (l : List Word) : s.Keeps (s.wrWords a l) := by
  induction l generalizing s a with
  | nil => exact .refl s
  | cons w l ih => exact .trans (State.wrWord_keeps ..) (ih _ _)

theorem State.Keeps.foldl2 {α β : Type} (l : List α) (f : β × State → α → β × State) (hf : ∀ (r : β × State) a, r.2.Keeps (f r a).2) (r : β × State) :
    r.2.Keeps (l.foldl f r).2 := by
  induction l generalizing r with
  | nil => exact .refl _
  | cons a l ih => exact .trans (hf r a) (ih _)
theorem State.Keeps.foldl3 {α β γ : Type} (l : List α) (f : β × γ × State → α → β × γ × State) (hf : ∀ (r : β × γ × State) a, r.2.2.Keeps (f r a).2.2)
    (r : β × γ × State) : r.2.2.Keeps (l.foldl f r).2.2 := by
  induction l generalizing r with
  | nil => exact .refl _
  | cons a l ih => exact .trans (hf r a) (ih _)

theorem State.strike_keeps (s : State) (a : Nat) (f : BitVec 80) : s.Keeps (s.strike a f) := by
  unfold State.strike
  split
  · exact .refl s
  · split
    · exact .dev s _
    · exact .mem _ (Mem.wf_strike _ _ _)

theorem State.memWord_keeps (s : State) (a : Nat) : s.Keeps (s.memWord a).2.2 := .dev s _

theorem State.takeWord_keeps (s : State) (a : Nat) (p : Option Nat) (f : BitVec 80) : s.Keeps (s.takeWord a p f).2.2 := by
  unfold State.takeWord
  cases p with
  | none => exact .dev s _
  | some q => dsimp only; split <;> exact .dev s _

theorem State.takeWords_keeps (s : State) (a n : Nat) (p : Option Nat) (f : Flips) : s.Keeps (s.takeWords a n p f).2.2 := by
  unfold State.takeWords
  refine State.Keeps.foldl3 (List.range n) _ (fun r k => ?_) (([] : List Word), 0, s)
  exact (State.strike_keeps ..).trans (State.takeWord_keeps ..)

theorem State.cellWords_keeps (s : State) (c a n : Nat) (fl : Flips) : s.Keeps (s.cellWords c a n fl).2.2 := State.takeWords_keeps ..

theorem State.storePart_keeps (s : State) (a : Nat) (w : Wid) (v : Word) (f : BitVec 80) : s.Keeps (s.storePart a w v f).2 := by
  unfold State.storePart
  split
  · exact .dev s _
  · split
    · exact (State.Keeps.dev s _).trans (State.wrWord_keeps ..)
    · dsimp only
      split
      · exact .dev s _
      · exact (State.Keeps.dev s _).trans (State.wrWord_keeps ..)

theorem State.dmaRead_keeps (s : State) (f : Flips) (pl part engine a n : Nat) : s.Keeps (s.dmaRead f pl part engine a n).2 := by
  unfold State.dmaRead
  dsimp only
  generalize s.dev.ask _ = r
  obtain ⟨g, d⟩ := r
  cases g
  · exact (State.Keeps.dev s _).trans (State.takeWords_keeps ..)
  all_goals exact .dev _ _

theorem State.dmaWrite_keeps (s : State) (pl part engine a : Nat) (ws : List Word) : s.Keeps (s.dmaWrite pl part engine a ws).2 := by
  unfold State.dmaWrite
  dsimp only
  generalize s.dev.ask _ = r
  obtain ⟨g, d⟩ := r
  cases g
  · exact .trans (.dev _ _) (State.wrWords_keeps ..)
  all_goals exact .dev _ _

theorem State.walkReturn_keeps (s : State) (c : Nat) (fl : Flips) : s.Keeps (s.walkReturn c fl) := by
  unfold State.walkReturn
  extract_lets d x
  split
  · exact .refl s
  · rename_i w _
    split
    · split
      · exact .refl s
      · extract_lets r d1
        have h : s.Keeps r.2.2 := State.cellWords_keeps ..
        split <;> exact h.onDev _
    · split
      · exact .dev s _
      · exact .refl s
      · exact .dev s _

theorem State.lineReturn_keeps (s : State) (c : Nat) (fl : Flips) : s.Keeps (s.lineReturn c fl) := by
  unfold State.lineReturn
  extract_lets d x
  split
  · exact .refl s
  · extract_lets a y
    split
    · exact .refl s
    · split
      · split <;> exact .dev s _
      · exact (State.cellWords_keeps ..).onDev _

theorem State.prefetchLine_keeps (s : State) (c : Nat) (fl : Flips) : s.Keeps (s.prefetchLine c fl) := by
  unfold State.prefetchLine
  extract_lets d x
  split
  · split
    · exact .refl s
    · split
      · exact .refl s
      · split
        · split
          · exact .refl s
          · split
            · exact .refl s
            · split
              · dsimp only
                split
                · exact .dev s _
                · exact ((State.Keeps.dev s _).trans (State.cellWords_keeps ..)).onDev _
              · exact .refl s
        · exact .refl s
  · exact .refl s

theorem State.ifJudged_keeps (s : State) (c : Nat) (cal : Caliper) (k : State → Nat → State) (h : ∀ (t : State) c, t.Keeps (k t c)) :
    s.Keeps (s.ifJudged c cal k) := by
  unfold State.ifJudged
  split
  · exact (State.Keeps.dev s _).trans (h _ _)
  · exact .dev s _

theorem State.prefetch_keeps (s : State) (c : Nat) (fl : Flips) (cal : Caliper) : s.Keeps (s.prefetch c fl cal) :=
  State.ifJudged_keeps _ _ _ _ fun _ _ => State.prefetchLine_keeps ..

theorem State.joinCopy_keeps (s : State) (cells ts : List Nat) (g : Nat) : s.Keeps (s.joinCopy cells ts g) := by
  unfold State.joinCopy
  exact .mem _ (fun h => Mem.wf_foldl _ _ (fun m _ h => Mem.wf_copyLocal _ _ _ h) _ h)

theorem State.copyChecked_keeps (s : State) (c : Nat) : s.Keeps (s.copyChecked c).2 := by
  unfold State.copyChecked
  refine State.Keeps.foldl2 (s.mem.suspects c) _ (fun r k => ?_) (false, s)
  exact .dev r.2 _

theorem State.groupRestart_keeps (s : State) (f : Nat) (bad : Bool) : s.Keeps (s.groupRestart f bad) := by
  unfold State.groupRestart
  extract_lets d
  split
  · exact .refl s
  · dsimp only
    split
    · split
      · exact ((State.Keeps.dev s _).trans (State.copyChecked_keeps ..)).onDev _
      · exact (((State.Keeps.dev s _).trans (State.copyChecked_keeps ..)).trans (State.joinCopy_keeps ..)).onDev _
    · exact .dev s _

theorem State.joinEnd_keeps (s : State) (f : Nat) (bad : Bool) : s.Keeps (s.joinEnd f bad) := by
  unfold State.joinEnd
  extract_lets d
  split
  · exact .refl s
  · split
    · exact .refl s
    · dsimp only
      split
      · exact ((State.Keeps.dev s _).trans (State.copyChecked_keeps ..)).onDev _
      · exact (((State.Keeps.dev s _).trans (State.copyChecked_keeps ..)).trans (State.joinCopy_keeps ..)).onDev _

theorem State.secRead_keeps (s : State) (pl part a n : Nat) : s.Keeps (s.secRead pl part a n).2 := by
  unfold State.secRead
  split <;> rename_i e <;> exact State.Keeps.snd (State.dmaRead_keeps ..) e

theorem State.bufRead_keeps (s : State) (g : Stage) (k n : Nat) : s.Keeps (s.bufRead g k n).2 := by
  induction n generalizing s k with
  | zero => exact .refl s
  | succ n ih =>
    unfold State.bufRead
    split
    · rename_i s1 e
      have h1 := State.Keeps.snd (State.secRead_keeps ..) e
      split <;> rename_i e2 <;> exact h1.trans (State.Keeps.snd (ih ..) e2)
    · rename_i s1 _ e
      exact State.Keeps.snd (State.secRead_keeps ..) e

theorem State.stagePhase_keeps (s : State) (bad : Bool) (n : Nat) : s.Keeps (s.stagePhase bad n) := by
  unfold State.stagePhase
  split
  · exact .refl s
  · rename_i g _
    extract_lets slot r s1 d ws f fail on m
    have h : s.Keeps (if g.phase = 1 ∨ g.phase = 3 ∨ g.phase = 4 then s.bufRead g 0 g.len else (some [], s)).2 := by
      split
      · exact State.bufRead_keeps ..
      · exact .refl s
    have h : s.Keeps s1 := h
    clear_value s1
    have hp : ∀ (l : List (Nat × Word)) (m : Mem) d, (s1.mem.wf = true → m.wf = true) →
        s.Keeps ⟨s1.pending, l.foldl (fun m p => m.program s.dev.stageSlot p.1 p.2) m, d⟩ := fun l m d hm =>
      h.trans (.mem _ fun w => Mem.wf_foldl _ _ (fun m _ h => Mem.wf_program _ _ _ _ h) _ (hm w))
    split
    · have hm : s1.mem.wf = true → m.wf = true := by
        unfold m
        split
        · exact Mem.wf_eraseSlot _ _ _ _
        · exact Mem.wf_foldl _ _ (fun m _ h => Mem.wf_program _ _ _ _ h) _
        · exact id
      exact h.trans (.mem _ hm)
    · split
      · exact h
      · split
        · exact h
        · split
          · split <;> exact h
          · exact h.trans (.mem _ (Mem.wf_eraseSlot _ _ _ _))
          · exact hp _ _ _ id
          · split <;> exact h
          · exact h.trans (.mem _ (Mem.wf_program _ _ _ _))

theorem State.stageCut_keeps (s : State) : s.Keeps s.stageCut := by
  unfold State.stageCut
  split
  · exact .refl s
  · exact (State.Keeps.dev s _).trans (State.stagePhase_keeps ..)

theorem State.resetAll_keeps (s : State) (power fault restart : Bool) (step : Nat) : s.Keeps (s.resetAll power fault restart step) :=
  (State.stageCut_keeps s).trans (.mem _ fun h => Mem.wf_afterReset _ _ _ h)

theorem State.reset3_keeps (s : State) : s.Keeps s.reset3 := State.resetAll_keeps ..

theorem State.faultRestart_keeps (s : State) : s.Keeps s.faultRestart := (State.resetAll_keeps ..).onDev _

theorem State.quietRestart_keeps (s : State) : s.Keeps s.quietRestart := by
  unfold State.quietRestart
  split
  · split
    · exact (State.Keeps.dev s _).trans (State.faultRestart_keeps _)
    · exact .dev s _
  · exact .refl s

theorem State.iclrWrite_keeps (s : State) (part : Nat) : ∀ t, s.iclrWrite part = some t → s.Keeps t := by
  intro t ht
  unfold State.iclrWrite at ht
  split at ht
  · cases ht
  · cases ht
    split
    · exact (State.Keeps.dev s _).trans (State.faultRestart_keeps _)
    · exact .dev s _

theorem State.resetLow_keeps (s : State) : s.Keeps s.resetLow := by
  unfold State.resetLow
  extract_lets d
  split
  · exact .refl s
  · split
    · exact .dev s _
    · exact (State.resetAll_keeps ..).onDev _

theorem State.heldReset_keeps (s : State) : s.Keeps s.heldReset := by
  unfold State.heldReset
  split
  · exact State.resetLow_keeps _
  · exact .refl s

theorem State.powerCut_keeps (s : State) : s.Keeps s.powerCut := by
  unfold State.powerCut
  split
  · exact .refl s
  · exact (State.resetAll_keeps ..).onDev _

theorem State.stageConfirm_keeps (s : State) (part : Nat) : ∀ t, s.stageConfirm part = some t → s.Keeps t := by
  intro t ht
  unfold State.stageConfirm at ht
  dsimp only at ht
  split at ht
  · split at ht
    · cases ht
      exact .mem _ (Mem.wf_program _ _ _ _)
    · cases ht
  · cases ht

theorem State.restartCommand_keeps (s : State) (part : Nat) : ∀ t, s.restartCommand part = some t → s.Keeps t := by
  intro t ht
  unfold State.restartCommand at ht
  dsimp only at ht
  split at ht
  · cases ht
    exact (State.Keeps.dev s _).trans (State.reset3_keeps _)
  · cases ht

theorem State.txEnd_keeps (s : State) (p k sts : Nat) (stamp : Option Word) : s.Keeps (s.txEnd p k sts stamp) := by
  unfold State.txEnd
  extract_lets cfg a w0 pl own r1 r2 d x d1 d2 d3 d4
  have h1 : s.Keeps r1.2 := by cases stamp; exacts [.refl s, State.dmaWrite_keeps ..]
  have h2 : s.Keeps r2.2 := h1.trans (State.dmaWrite_keeps ..)
  split <;> exact h2.onDev _

theorem State.ethPick_keeps (s : State) (p n : Nat) : s.Keeps (s.ethPick p n) := by
  induction n generalizing s with
  | zero => exact .refl s
  | succ n ih =>
    unfold State.ethPick
    dsimp only
    split
    · split
      · split
        · split
          · exact .dev _ _
          · exact .trans (State.txEnd_keeps ..) (ih _)
        · exact .dev _ _
      · split
        · exact .trans (State.txEnd_keeps ..) (ih _)
        · exact .refl s
    · exact .refl s

theorem State.txRead_keeps (s : State) (p k : Nat) (w0 : Word) (fl : Flips) : s.Keeps (s.txRead p k w0 fl) := by
  unfold State.txRead
  extract_lets len cfg q r
  have h : s.Keeps r.2 := by
    unfold r
    split
    · exact .refl s
    · exact State.dmaRead_keeps ..
  exact h.onDev _

theorem State.txReady_keeps (s : State) (p k : Nat) (freed : Bool) : s.Keeps (s.txReady p k freed) := by
  unfold State.txReady
  split
  · exact (State.Keeps.dev s _).trans (State.ethPick_keeps ..)
  · exact State.txEnd_keeps ..
  · exact .refl s

theorem State.descRead_keeps (s : State) (p k : Nat) (desc buf : Flips) : s.Keeps (s.descRead p k desc buf) := by
  unfold State.descRead
  extract_lets d cfg go a r
  have h : s.Keeps r.2 := State.dmaRead_keeps ..
  split
  · exact .refl s
  · split
    · exact h.onDev _
    · extract_lets w0 q s1
      have hq : s.Keeps q.2 := h.trans (State.dmaWrite_keeps ..)
      have h1 : s.Keeps s1 := hq.onDev _
      split
      · exact h.onDev _
      · split
        · split
          · split
            · exact h1.trans (State.txRead_keeps ..)
            · exact h1
          · exact hq.onDev _
        · split
          · exact (h.trans (State.txRead_keeps ..)).trans (State.txReady_keeps ..)
          · exact h

theorem State.frameSent_keeps (s : State) (p back : Nat) : s.Keeps (s.frameSent p back) := by
  unfold State.frameSent
  split
  · exact .refl s
  · extract_lets w0 t x d
    exact ((State.Keeps.dev s d).trans (State.txEnd_keeps ..)).trans (State.ethPick_keeps ..)

theorem State.release_keeps (s : State) (p k : Nat) (byTxu : Bool) : s.Keeps (s.release p k byTxu) := by
  unfold State.release
  extract_lets w0 s1
  have h : s.Keeps s1 := .dev s _
  clear_value s1
  split
  · refine State.Keeps.trans ?_ (State.txReady_keeps ..)
    split
    · exact h
    · exact h.trans (State.txRead_keeps ..)
  · exact .refl s

theorem State.cancel_keeps (s : State) (p k : Nat) : s.Keeps (s.cancel p k) := by
  unfold State.cancel
  split
  · exact State.txEnd_keeps ..
  · exact .refl s

theorem State.rxStore_keeps (s : State) (p k : Nat) (f : List Nat) (v : Verdict) (flags : List (Nat × Nat)) (stamp : Word)
    (desc : Flips) : s.Keeps (s.rxStore p k f v flags stamp desc) := by
  unfold State.rxStore
  extract_lets d cfg drop a pl own r cap body
  have h : s.Keeps r.2 := State.dmaRead_keeps ..
  split
  · exact .dev s _
  · split
    · exact .dev s _
    · split
      · exact h.onDev _
      · extract_lets w0 q sts q1 w q2 d1
        have h0 : s.Keeps q.2 := h.trans (State.dmaWrite_keeps ..)
        have h1 : s.Keeps q1.2 := h0.trans (State.dmaWrite_keeps ..)
        have h2 : s.Keeps q2.2 := by
          unfold q2
          split
          · exact h1.trans (State.dmaWrite_keeps ..)
          · exact h1
        split
        · exact h.onDev _
        · split <;> exact h2.onDev _

theorem State.frameReceived_keeps (s : State) (p : Nat) (f : List Nat) (fcs : Bool) (back : Nat) (desc : Flips) :
    s.Keeps (s.frameReceived p f fcs back desc) := by
  unfold State.frameReceived
  extract_lets q t m
  split
  · exact .refl s
  · split
    · exact .refl s
    · split
      · exact .dev s _
      · split
        · exact .dev s _
        · split
          · exact .dev s _
          · extract_lets h
            split
            · exact .dev s _
            · exact (State.Keeps.dev s _).trans (State.rxStore_keeps ..)

theorem State.linkChange_keeps (s : State) (p : Nat) (up anc : Bool) : s.Keeps (s.linkChange p up anc) := by
  unfold State.linkChange
  extract_lets d1 d2
  exact (State.Keeps.dev s d2).trans (State.ethPick_keeps ..)

theorem State.markDurable_keeps (s : State) (n : Nat) : s.Keeps (s.markDurable n) := by
  unfold State.markDurable
  extract_lets x
  split
  · split
    · exact .refl s
    · extract_lets d1 s1 d2 d3 r
      have h : s.Keeps s1 := (State.Keeps.dev s d1).trans (.foldl _ _ (fun _ _ => State.release_keeps ..) _)
      exact h.onDev _
  · exact .refl s

theorem State.ssOpen_keeps (s : State) (part pl k : Nat) : s.Keeps (s.ssOpen part pl k) := by
  unfold State.ssOpen
  extract_lets d
  split
  · exact .dev s _
  · split <;> rename_i h <;> exact (State.Keeps.snd (State.secRead_keeps ..) h).onDev _

theorem State.ssProve_keeps (s : State) (part pl k : Nat) : s.Keeps (s.ssProve part pl k) := by
  unfold State.ssProve
  extract_lets d
  split
  · exact .refl s
  · split
    · exact .refl s
    · split
      · exact .dev s _
      · split <;> rename_i h <;> have h := State.Keeps.snd (State.secRead_keeps ..) h
        · exact h.onDev _
        · extract_lets d1
          split
          · exact h.onDev _
          · split <;> exact h.onDev _

theorem State.jobIn_keeps {s : State} {j : Job} {fl : Flips} {a n : Nat} {k : State → List Nat → Work}
    (h : ∀ t l, s.Keeps t → s.Keeps (k t l).2) : s.Keeps (s.jobIn j fl a n k).2 := by
  unfold State.jobIn
  split
  · exact h _ _ (.refl s)
  · split <;> rename_i e <;> have e := State.Keeps.snd (State.dmaRead_keeps ..) e
    · exact h _ _ e
    · exact e

theorem State.jobOut_keeps {s t : State} (h : s.Keeps t) (j : Job) (n : Nat) (l : List Nat) : s.Keeps (t.jobOut j n l).2 := by
  unfold State.jobOut
  split
  · exact h
  · split <;> rename_i e <;> exact h.trans (State.Keeps.snd (State.dmaWrite_keeps ..) e)

theorem State.jobFail_keeps {s t : State} (h : s.Keeps t) (j : Job) (n : Nat) : s.Keeps (t.jobFail j n).2 := State.jobOut_keeps h ..

theorem State.jobHash_keeps (s : State) (j : Job) (fl : Flips) : s.Keeps (s.jobHash j fl).2 :=
  State.jobIn_keeps fun _ _ h => State.jobOut_keeps h ..

theorem State.jobAes_keeps (s : State) (j : Job) (enc : Bool) (fl : Flips) : s.Keeps (s.jobAes j enc fl).2 := by
  unfold State.jobAes
  extract_lets e iv gcm aad inN outN
  split
  · exact .refl s
  · split
    · exact .refl s
    · split
      · exact .refl s
      · refine State.jobIn_keeps fun t p h => ?_
        refine h.trans (State.jobIn_keeps fun u l k => ?_)
        split
        · exact State.jobOut_keeps k ..
        · exact State.jobFail_keeps k ..

theorem State.jobCmac_keeps (s : State) (j : Job) (fl : Flips) : s.Keeps (s.jobCmac j fl).2 := by
  unfold State.jobCmac
  extract_lets e
  split
  · exact .refl s
  · exact State.jobIn_keeps fun _ _ h => State.jobOut_keeps h ..

theorem State.jobSign_keeps (s : State) (j : Job) (fl : Flips) : s.Keeps (s.jobSign j fl).2 := by
  unfold State.jobSign
  extract_lets e
  split
  · exact .refl s
  · exact State.jobIn_keeps fun _ _ h => State.jobOut_keeps (h.onDev _) ..

theorem State.jobVerify_keeps (s : State) (j : Job) (fl : Flips) : s.Keeps (s.jobVerify j fl).2 := by
  unfold State.jobVerify
  extract_lets e
  split
  · exact .refl s
  · exact State.jobIn_keeps fun _ _ h => h.trans (State.jobIn_keeps fun _ _ k => k)

theorem State.jobDecrypt_keeps (s : State) (j : Job) (fl : Flips) : s.Keeps (s.jobDecrypt j fl).2 := by
  unfold State.jobDecrypt
  extract_lets e
  split
  · exact .refl s
  · refine State.jobIn_keeps fun t l h => ?_
    split
    · exact State.jobOut_keeps h ..
    · exact State.jobFail_keeps h ..

theorem State.jobRandom_keeps (s : State) (j : Job) : s.Keeps (s.jobRandom j).2 := State.jobOut_keeps (.dev s _) ..

theorem State.jobGenAes_keeps (s : State) (j : Job) : s.Keeps (s.jobGenAes j).2 := by
  unfold State.jobGenAes
  extract_lets e r
  split
  · exact .refl s
  · exact .dev s _

theorem State.jobGenRsa_keeps (s : State) (j : Job) : s.Keeps (s.jobGenRsa j).2 := by
  unfold State.jobGenRsa
  extract_lets e r
  split
  · exact .refl s
  · exact .dev s _

theorem State.jobUnwrap_keeps (s : State) (j : Job) (fl : Flips) : s.Keeps (s.jobUnwrap j fl).2 := by
  unfold State.jobUnwrap
  extract_lets k e
  split
  · exact .refl s
  · split
    · exact .refl s
    · split
      · exact .refl s
      · refine State.jobIn_keeps fun t l h => ?_
        split
        · exact h.onDev _
        · exact h

theorem State.jobWrap_keeps (s : State) (j : Job) : s.Keeps (s.jobWrap j).2 := by
  unfold State.jobWrap
  extract_lets k e
  split
  · exact .refl s
  · split
    · exact .refl s
    · exact State.jobOut_keeps (.refl s) ..

theorem State.jobPubLoad_keeps (s : State) (j : Job) (fl : Flips) : s.Keeps (s.jobPubLoad j fl).2 := by
  unfold State.jobPubLoad
  extract_lets e
  split
  · exact .refl s
  · exact State.jobIn_keeps fun _ _ h => h.onDev _

theorem State.jobPubRead_keeps (s : State) (j : Job) : s.Keeps (s.jobPubRead j).2 := by
  unfold State.jobPubRead
  extract_lets e
  split
  · exact .refl s
  · split
    · exact .refl s
    · exact State.jobOut_keeps (.refl s) ..

theorem State.jobDelete_keeps (s : State) (j : Job) : s.Keeps (s.jobDelete j).2 := by
  unfold State.jobDelete
  extract_lets e a
  split
  · exact .refl s
  · exact .dev s _

theorem State.jobAttest_keeps (s : State) (j : Job) (fl : Flips) : s.Keeps (s.jobAttest j fl).2 := by
  refine State.jobIn_keeps fun t l h => ?_
  dsimp only
  split <;> rename_i e <;> exact (h.onDev _).trans (State.Keeps.snd (State.dmaWrite_keeps ..) e)

theorem State.jobIdCert_keeps (s : State) (j : Job) : s.Keeps (s.jobIdCert j).2 := by
  unfold State.jobIdCert
  split <;> rename_i e <;> exact State.Keeps.snd (State.dmaWrite_keeps ..) e

theorem State.jobCheckpoint_keeps (s : State) : s.Keeps s.jobCheckpoint.2 := .dev s _

theorem State.jobReseal_keeps (s : State) (j : Job) : s.Keeps (s.jobReseal j).2 := by
  unfold State.jobReseal
  extract_lets d a d1 d2
  split
  · exact .refl s
  · exact .dev s _

theorem State.jobRevoke_keeps (s : State) (j : Job) (fl : Flips) : s.Keeps (s.jobRevoke j fl).2 := by
  unfold State.jobRevoke
  split
  · exact .refl s
  · exact State.jobIn_keeps fun _ _ h => h.onDev _

theorem State.jobWork_keeps (s : State) (op : Nat) (f : State → Job → Work) (h : ∀ j, s.Keeps (f s j).2) : s.Keeps (s.jobWork op f) := by
  unfold State.jobWork
  split
  · split
    · exact (h _).onDev _
    · exact .refl s
  · exact .refl s

theorem State.jobEnd_keeps (s : State) : s.Keeps s.jobEnd := by
  unfold State.jobEnd
  extract_lets s0
  have h : s.Keeps s0 := State.jobWork_keeps _ _ _ fun j => State.jobWrap_keeps ..
  clear_value s0
  split
  · exact h
  · extract_lets code
    clear_value code
    split
    · exact h
    · exact h.onDev _

theorem State.lose_keeps (s : State) (lo hi : Nat) : s.Keeps (s.lose lo hi) := .mem _ (Mem.wf_fill _ _ _ _ _)

theorem State.leave_keeps (s : State) (r : Nat × Nat) (p : Pat) (last : Option Bool) : s.Keeps (s.leave r p last) := by
  unfold State.leave
  split
  · exact State.lose_keeps ..
  all_goals exact .mem _ (Mem.wf_fill _ _ _ _ _)

theorem State.loseLocal_keeps (s : State) (c : Nat) : s.Keeps (s.loseLocal c) := .trans (State.lose_keeps ..) (State.lose_keeps ..)

theorem State.bistGo_keeps (s : State) (v : Word) (part pl : Nat) : s.Keeps (s.bistGo v part pl) := by
  unfold State.bistGo
  split
  · exact .dev s _
  · split
    · exact .dev s _
    · dsimp only
      split
      · exact ((State.Keeps.dev s _).trans (State.lose_keeps ..)).trans (State.lose_keeps ..)
      · exact (State.Keeps.dev s _).trans (State.lose_keeps ..)

theorem State.bistEnd_keeps (s : State) (n : Nat) (fail : Option BistFail) : s.Keeps (s.bistEnd n fail) := by
  unfold State.bistEnd
  split
  · exact .refl s
  · rename_i b _
    extract_lets s1 s2
    have h1 : s.Keeps s1 := State.leave_keeps ..
    have h2 : s.Keeps s2 := by
      unfold s2
      split
      · exact h1.trans (State.leave_keeps ..)
      · exact h1
    exact h2.onDev _

theorem State.spareVisit_keeps (s : State) : s.Keeps s.spareVisit := by
  unfold State.spareVisit
  extract_lets d
  split
  · exact .refl s
  · split
    · exact .refl s
    · exact (State.Keeps.dev s _).trans (.foldl _ _ (fun _ _ => State.loseLocal_keeps ..) _)

theorem State.scrubWord_keeps (s : State) (a : Nat) (f : BitVec 80) (taken : Bool) : s.Keeps (s.scrubWord a f taken).2 := by
  unfold State.scrubWord
  extract_lets s1 r e
  have h : s.Keeps r.2.2 := (State.strike_keeps ..).trans (State.memWord_keeps ..)
  dsimp only
  split
  · exact h.trans (State.strike_keeps ..)
  · exact h

theorem State.mramScrub_keeps (s : State) (a : Nat) (f : BitVec 80) (taken : Bool) : s.Keeps (s.mramScrub a f taken) := by
  unfold State.mramScrub
  extract_lets rec' r
  have h : s.Keeps r.2 := (State.Keeps.dev s _).trans (State.scrubWord_keeps ..)
  split
  · exact .refl s
  · split
    · exact h
    · split
      · exact h
      · exact h.onDev _
    · exact h.onDev _

theorem State.patrol_keeps (s : State) (a : Nat) (f : BitVec 80) (taken : Bool) : s.Keeps (s.patrol a f taken) := by
  unfold State.patrol
  extract_lets d isr tgt sram dram r
  have h : s.Keeps r.2 := (State.Keeps.dev s _).trans (State.scrubWord_keeps ..)
  split
  · exact .refl s
  · split
    · exact h
    · split
      · exact h
      · exact h.onDev _
    · exact h.onDev _

theorem State.wrRing_keeps (s : State) (r : Nat) (v : Word) : s.Keeps (s.wrRing r v).2 := by
  unfold State.wrRing
  extract_lets p k rel can
  split
  · exact .refl s
  · split
    · exact .refl s
    · split
      · exact State.cancel_keeps ..
      · exact State.release_keeps ..

theorem State.orKept_keeps (s : State) (o : Option State) (h : ∀ t, o = some t → s.Keeps t) : s.Keeps (orKept s o).2 := by
  cases o
  · exact .refl s
  · exact h _ rfl

theorem State.wrBoot_keeps (s : State) (who : Requester) (v : Word) : s.Keeps (s.wrBoot who v).2 := by
  unfold State.wrBoot
  extract_lets part pl
  split
  · split
    · exact .dev s _
    · exact .refl s
  · split
    · exact State.orKept_keeps _ _ fun t h => State.stageConfirm_keeps _ _ _ h
    · split
      · exact State.orKept_keeps _ _ fun t h => State.restartCommand_keeps _ _ _ h
      · split
        · split
          · exact .dev s _
          · exact .refl s
        · exact .refl s

theorem State.wrSession_keeps (s : State) (who : Requester) (v : Word) : s.Keeps (s.wrSession who v).2 := by
  unfold State.wrSession
  extract_lets part pl k
  split
  · exact .refl s
  · split
    · exact State.ssOpen_keeps ..
    · split
      · exact State.ssProve_keeps ..
      · split
        · exact .dev s _
        · exact .refl s

theorem State.regWrite_keeps (s : State) (who : Requester) (r key : Nat) (new v : Word) : s.Keeps (s.regWrite who r key new v).2 := by
  unfold State.regWrite
  extract_lets s1 a
  have h1 : s.Keeps s1 := .dev s _
  clear_value s1
  split
  · split
    · split
      · rename_i e
        exact h1.trans (State.iclrWrite_keeps _ _ _ e)
      · exact h1
    · exact h1
  · split
    · exact State.bistGo_keeps ..
    · split
      · exact State.wrRing_keeps ..
      · split
        · exact State.wrBoot_keeps ..
        · split
          · exact State.wrSession_keeps ..
          · split
            · exact .dev s _
            · exact .dev s _

theorem State.ioCommit_keeps (s : State) (who : Requester) (r : Nat) (v m : Word) : s.Keeps (s.ioCommit who r v m).2 := by
  unfold State.ioCommit
  extract_lets d key n a
  have h : s.Keeps a.2 := State.regWrite_keeps ..
  clear_value a
  split
  · exact .refl s
  · exact h.onDev _

theorem State.ioWrite_keeps (s : State) (who : Requester) (a : Nat) (v : Half) : s.Keeps (s.ioWrite who a v).2 := by
  unfold State.ioWrite
  generalize s.dev.askIo _ = r
  obtain ⟨_ | _, d⟩ := r
  · exact .dev s _
  · dsimp only
    split
    · exact .dev s _
    · split
      · split
        · split
          · exact (State.Keeps.dev s _).trans (State.ioCommit_keeps ..)
          · exact (State.Keeps.dev s _).trans (State.ioCommit_keeps ..)
        · split <;> exact .dev s _
      · exact (State.Keeps.dev s _).trans (State.ioCommit_keeps ..)

theorem State.writeAccess_keeps (s : State) (who : Requester) (a : Nat) (v : Half) : s.Keeps (s.writeAccess who a v) :=
  (State.ioWrite_keeps s who a v).onDev _

theorem State.readAccess_keeps (s : State) (who : Requester) (a : Nat) : s.Keeps (s.readAccess who a) := .dev s _

theorem State.issueLoad_keeps (s : State) (c pa : Nat) (w : Wid) (sg : Bool) (dst : Nat) : s.Keeps (s.issueLoad c pa w sg dst) := by
  unfold State.issueLoad
  extract_lets d x oc l put
  split
  · exact .dev s _
  · exact .dev s _
  · split
    · generalize d.ask _ = r
      obtain ⟨g, d1⟩ := r
      cases g <;> exact .dev s _
    · split
      · exact .dev s _
      · split <;> exact .dev s _

theorem State.issueOut_keeps (s : State) (c a : Nat) (v : Word) (f : BitVec 43) : s.Keeps (s.issueOut c a v f) := by
  unfold State.issueOut
  extract_lets x e s1 r
  have h1 : s.Keeps s1 := .dev s _
  clear_value s1
  have h : s.Keeps r.2 := by
    unfold r
    split
    · exact h1
    · exact h1.trans (State.ioWrite_keeps ..)
  clear_value r
  split
  · exact h.onDev _
  · exact h

theorem State.issueOp_keeps (s : State) (c : Nat) (x : Cell) (o : Op) (at' pa : Nat) : s.Keeps (s.issueOp c x o at' pa) := by
  unfold State.issueOp
  extract_lets d v1 v2 dev mod y
  have hd : ∀ d, s.Keeps (dev d) := .dev s
  have hm : ∀ y, s.Keeps (mod y) := fun y => .dev s _
  clear_value dev mod
  split <;> first | exact hd _ | exact hm _ | exact .refl s | exact State.issueLoad_keeps .. | exact State.issueOut_keeps .. | skip
  split
  · exact hd _
  · exact hm _

theorem State.issue_keeps (s : State) (c : Nat) (ops : List (Op × Nat × Nat)) : s.Keeps (s.issue c ops) := by
  unfold State.issue
  extract_lets x s1 y d1 d2
  have h : s.Keeps s1 := .foldl _ _ (fun _ _ => State.issueOp_keeps ..) _
  split
  · exact h
  · exact h.onDev _

theorem State.issueNext_keeps (s : State) (c : Nat) : s.Keeps (s.issueNext c) := by
  unfold State.issueNext
  extract_lets d x
  split
  · exact .dev s _
  · split
    · split <;> exact .dev s _
    · split
      · exact .dev s _
      · split
        · exact .dev s _
        · split
          · exact .dev s _
          · exact (State.Keeps.dev s _).trans (State.issue_keeps ..)

theorem State.tryIssue_keeps (s : State) (c : Nat) : s.Keeps (s.tryIssue c) := by
  unfold State.tryIssue
  extract_lets d x
  split
  · exact .refl s
  · split
    · exact .refl s
    · exact (State.Keeps.dev s _).trans (State.ifJudged_keeps _ _ _ _ fun _ _ => State.issueNext_keeps ..)

theorem State.pump_keeps (s : State) (c : Nat) : s.Keeps (s.pump c) := by
  unfold State.pump
  split
  · exact State.tryIssue_keeps ..
  · exact .refl s

theorem State.pumpFur_keeps (s : State) (f : Nat) : s.Keeps (s.pumpFur f) := .foldl _ _ (fun _ _ => State.pump_keeps ..) _

theorem State.opArrives_keeps (s : State) (c : Nat) (o : Op) (stop : Bool) (cal : Caliper) : s.Keeps (s.opArrives c o stop cal) := by
  unfold State.opArrives
  extract_lets d x
  split
  · exact .refl s
  · exact (State.Keeps.dev s _).trans (State.pump_keeps ..)

theorem State.loadEnd_keeps (s : State) (c : Nat) (l : LoadE) (w : Word) (cause : Nat) : s.Keeps (s.loadEnd c l w cause) := by
  unfold State.loadEnd
  extract_lets d x y d1 v
  split
  · exact .dev s _
  · split <;> exact .dev s _

theorem State.loadTake_keeps (s : State) (c : Nat) (l : LoadE) (fl : Flips) : s.Keeps (s.loadTake c l fl) := by
  unfold State.loadTake
  extract_lets d
  split
  · exact State.loadEnd_keeps ..
  · split
    · split <;> exact State.loadEnd_keeps ..
    · split
      · exact .dev s _
      · split
        · exact State.loadEnd_keeps ..
        · have h : ∀ (r : List Word × Nat × State) (y : Cell), s.Keeps r.2.2 →
              s.Keeps (if l.cache then { r.2.2 with dev := r.2.2.dev.putCell c y } else r.2.2) := fun r y hr => by
            split
            · exact hr.onDev _
            · exact hr
          split <;> exact (h _ _ (State.cellWords_keeps ..)).trans (State.loadEnd_keeps ..)

theorem State.inBack_keeps (s : State) (c : Nat) (l : LoadE) (v : Half) (bad : Bool) (f : BitVec 43) : s.Keeps (s.inBack c l v bad f) :=
  (State.Keeps.dev s _).trans (State.loadEnd_keeps ..)

theorem State.loadReturn_keeps (s : State) (c i : Nat) (fl : Flips) : s.Keeps (s.loadReturn c i fl) := by
  unfold State.loadReturn
  extract_lets d x
  split
  · exact .refl s
  · split
    · exact .refl s
    · split
      · split
        · exact (State.inBack_keeps ..).trans (State.pump_keeps ..)
        · split
          · exact .refl s
          · exact ((State.Keeps.dev s _).trans (State.inBack_keeps ..)).trans (State.pump_keeps ..)
      · split
        · exact .refl s
        · split
          · exact (State.loadTake_keeps ..).trans (State.pump_keeps ..)
          · split
            · exact .refl s
            · exact ((State.Keeps.dev s _).trans (State.loadTake_keeps ..)).trans (State.pump_keeps ..)

theorem State.storeIn_keeps (s : State) (c : Nat) (e : StoreE) (fl : Flips) : s.Keeps (s.storeIn c e fl) := by
  unfold State.storeIn
  extract_lets b r
  have h : s.Keeps r.2 := (State.strike_keeps ..).trans (State.storePart_keeps ..)
  clear_value r
  split
  · exact h.onDev _
  · split
    · exact h.onDev _
    · split
      · exact (h.trans (State.cellWords_keeps ..)).onDev _
      · exact h.onDev _

theorem State.storeDrain_keeps (s : State) (c : Nat) (fl : Flips) : s.Keeps (s.storeDrain c fl) := by
  unfold State.storeDrain
  extract_lets d x
  split
  · exact .refl s
  · split
    · exact .refl s
    · dsimp only
      generalize d.ask _ = r
      obtain ⟨g, d1⟩ := r
      cases g
      · dsimp only
        split
        · exact .dev s _
        · exact (State.Keeps.dev s _).trans (State.storeIn_keeps ..)
      all_goals exact .dev s _

theorem State.storeAck_keeps (s : State) (c i : Nat) : s.Keeps (s.storeAck c i) := by
  unfold State.storeAck
  extract_lets d x
  cases x.stores[i]? with
  | none => exact .refl s
  | some e =>
    dsimp only
    generalize hb : (!e.sent || _ || _) = b
    cases b
    · exact (State.Keeps.dev s _).trans (State.pump_keeps ..)
    · exact .refl s

theorem State.longComplete_keeps (s : State) (c i : Nat) : s.Keeps (s.longComplete c i) := by
  unfold State.longComplete
  extract_lets d x
  split
  · exact .refl s
  · extract_lets r y
    split <;> exact (State.Keeps.dev s _).trans (State.pump_keeps ..)

theorem State.istWrite_keeps (s : State) (c : Nat) : s.Keeps (s.istWrite c) := by
  unfold State.istWrite
  extract_lets x
  split
  · exact .refl s
  · split
    · exact .refl s
    · exact .mem _ (Mem.wf_foldl _ _ (fun m _ h => Mem.wf_wr _ _ _ h) _)

theorem State.walkBack_keeps (s : State) (c : Nat) (fl : Flips) (cal : Caliper) : s.Keeps (s.walkBack c fl cal) := by
  unfold State.walkBack
  split
  · exact .refl s
  · refine State.ifJudged_keeps _ _ _ _ fun t c => ?_
    dsimp only
    split
    · exact ((State.walkReturn_keeps ..).trans (State.pump_keeps ..)).onDev _
    · exact (State.walkReturn_keeps ..).trans (State.pump_keeps ..)

theorem State.lineBack_keeps (s : State) (c : Nat) (fl : Flips) (cal : Caliper) : s.Keeps (s.lineBack c fl cal) := by
  unfold State.lineBack
  split
  · exact .refl s
  · exact ((State.lineReturn_keeps ..).onDev _).trans (State.pump_keeps ..)

/-- Every machine that a step answers keeps. -/
theorem State.stepRead_keeps (s : State) (c va : Nat) (fl : Flips) :
    (∀ t, s.stepRead c va fl = .error t → s.Keeps t) ∧ ∀ v t, s.stepRead c va fl = .ok (v, t) → s.Keeps t := by
  have h : ∀ Q : Except State (Word × State) → Prop, (∀ t, s.Keeps t → Q (.error t)) → (∀ v t, s.Keeps t → Q (.ok (v, t))) →
      Q (s.stepRead c va fl) := by
    intro Q he ho
    unfold State.stepRead
    extract_lets d x
    split
    · exact he _ (.dev s _)
    · extract_lets oc
      split
      · exact he _ (.refl s)
      · split
        · exact he _ (.refl s)
        · exact ho _ _ (.refl s)
        · split
          · split
            · exact he _ (.dev s _)
            · exact ho _ _ (.refl s)
          · dsimp only
            split
            · exact he _ (.refl s)
            · generalize d.ask _ = r
              obtain ⟨g, d1⟩ := r
              cases g
              · dsimp only
                generalize (if (_ : Nat) < 0x4000 then d1 else _) = d2
                split
                · exact he _ (.dev s _)
                · have h : ∀ (r : List Word × Nat × State) (y : Cell), s.Keeps r.2.2 →
                      s.Keeps (if oc.2 then { r.2.2 with dev := r.2.2.dev.putCell c y } else r.2.2) := fun r y hr => by
                    split
                    · exact hr.onDev _
                    · exact hr
                  split
                  · exact he _ ((h _ _ ((State.Keeps.dev s _).trans (State.cellWords_keeps ..))).onDev _)
                  · exact ho _ _ (h _ _ ((State.Keeps.dev s _).trans (State.cellWords_keeps ..)))
              all_goals exact he _ (.dev s _)
  exact ⟨fun t e => h (fun r => r = .error t → s.Keeps t) (fun u hu e => by cases e; exact hu) (fun v u _ e => by cases e) e,
    fun v t e => h (fun r => r = .ok (v, t) → s.Keeps t) (fun u _ e => by cases e) (fun w u hu e => by cases e; exact hu) e⟩

theorem State.stepWrite_keeps (s : State) (c va : Nat) (v : Word) (b : BlkE) :
    (∀ t, s.stepWrite c va v b = .error t → s.Keeps t) ∧ ∀ t, s.stepWrite c va v b = .ok t → s.Keeps t := by
  have h : ∀ Q : Except State State → Prop, (∀ t, s.Keeps t → Q (.error t)) → (∀ t, s.Keeps t → Q (.ok t)) →
      Q (s.stepWrite c va v b) := by
    intro Q he ho
    unfold State.stepWrite
    extract_lets d x
    split
    · exact he _ (.dev s _)
    · split
      · exact he _ (.refl s)
      · generalize d.ask _ = r
        obtain ⟨g, d1⟩ := r
        cases g
        · exact ho _ (.dev s _)
        all_goals exact he _ (.dev s _)
  exact ⟨fun t e => h (fun r => r = .error t → s.Keeps t) (fun u hu e => by cases e; exact hu) (fun u _ e => by cases e) e,
    fun t e => h (fun r => r = .ok t → s.Keeps t) (fun u _ e => by cases e) (fun u hu e => by cases e; exact hu) e⟩

theorem State.blockEnd_keeps (s : State) (c : Nat) (b : BlkE) : s.Keeps (s.blockEnd c b) := (State.Keeps.dev s _).trans (State.pump_keeps ..)

theorem State.stepDone_keeps (s : State) (c : Nat) (b : BlkE) (nd n1 : Option Word) : s.Keeps (s.stepDone c b nd n1) := by
  unfold State.stepDone
  extract_lets x n2 put b1 z y s1
  have h : s.Keeps s1 := .dev s _
  clear_value s1
  split
  · exact h.trans (State.blockEnd_keeps ..)
  · exact h

theorem State.blockWord_keeps (s : State) (c : Nat) (b : BlkE) (fl flD : Flips) : s.Keeps (s.blockWord c b fl flD) := by
  unfold State.blockWord
  extract_lets a t up down copy
  have hc : ∀ n m, s.Keeps (copy n m) := by
    intro n m
    dsimp only [copy]
    split <;> rename_i e
    · exact (State.stepRead_keeps ..).1 _ e
    · have h := (State.stepRead_keeps ..).2 _ _ e
      split <;> rename_i e2
      · exact h.trans ((State.stepWrite_keeps ..).1 _ e2)
      · exact (h.trans ((State.stepWrite_keeps ..).2 _ e2)).trans (State.stepDone_keeps ..)
  clear_value copy
  split
  · exact hc _ _
  · exact hc _ _
  · split <;> rename_i e
    · exact (State.stepWrite_keeps ..).1 _ e
    · exact ((State.stepWrite_keeps ..).2 _ e).trans (State.stepDone_keeps ..)
  · split <;> rename_i e
    · exact (State.stepRead_keeps ..).1 _ e
    · exact ((State.stepRead_keeps ..).2 _ _ e).trans (State.stepDone_keeps ..)
  · split <;> rename_i e
    · exact (State.stepRead_keeps ..).1 _ e
    · have h := (State.stepRead_keeps ..).2 _ _ e
      split <;> rename_i e2
      · exact h.trans ((State.stepRead_keeps ..).1 _ e2)
      · have h2 := h.trans ((State.stepRead_keeps ..).2 _ _ e2)
        split
        · exact h2.trans (State.stepDone_keeps ..)
        · exact h2.trans (State.blockEnd_keeps ..)

theorem State.blockStep_keeps (s : State) (c : Nat) (fl flD : Flips) (cal : Caliper) : s.Keeps (s.blockStep c fl flD cal) := by
  unfold State.blockStep
  dsimp only
  split
  · exact .refl s
  · refine State.ifJudged_keeps _ _ _ _ fun t c => ?_
    split
    · exact State.blockWord_keeps ..
    · exact .refl t

theorem State.causeBoundary_keeps (s : State) (c : Nat) (cal : Caliper) : s.Keeps (s.causeBoundary c cal) :=
  State.ifJudged_keeps _ _ _ _ fun t _ => (State.Keeps.dev t _).trans (State.pump_keeps ..)

theorem State.eventBoundary_keeps (s : State) (c : Nat) (cal : Caliper) : s.Keeps (s.eventBoundary c cal) :=
  State.ifJudged_keeps _ _ _ _ fun t _ => (State.Keeps.dev t _).trans (State.pump_keeps ..)

theorem State.takeoverBoundary_keeps (s : State) (c : Nat) (cal : Caliper) : s.Keeps (s.takeoverBoundary c cal) :=
  State.ifJudged_keeps _ _ _ _ fun t _ => .dev t _

theorem State.wake_keeps (s : State) (c : Nat) : s.Keeps (s.wake c) := (State.Keeps.dev s _).trans (State.pump_keeps ..)

theorem State.waitcEnd_keeps (s : State) (c : Nat) : s.Keeps (s.waitcEnd c) := (State.Keeps.dev s _).trans (State.pump_keeps ..)

theorem State.tappEnd_keeps (s : State) (n : Nat) (fl : Flips) : s.Keeps (s.tappEnd n fl) := by
  unfold State.tappEnd
  extract_lets d x
  split
  · exact .refl s
  · split
    · exact .refl s
    · dsimp only
      refine State.Keeps.trans ?_ (State.pump_keeps ..)
      generalize d.ask _ = r
      obtain ⟨g, d1⟩ := r
      cases g
      · dsimp only
        split
        · exact .dev s _
        · exact ((State.Keeps.dev s _).trans (State.takeWords_keeps ..)).onDev _
      all_goals exact .dev s _

theorem State.foff_keeps (s : State) (f : Nat) : s.Keeps (s.foff f) :=
  ((State.Keeps.dev s _).trans (State.lose_keeps ..)).trans (.foldl _ _ (fun _ _ => State.loseLocal_keeps ..) _)

theorem State.supplyReturn_keeps (s : State) : s.Keeps s.supplyReturn := by
  unfold State.supplyReturn
  extract_lets d r d1 d2 d3 d4 d5 d6 d7 s1
  have h : s.Keeps s1 := .dev s _
  clear_value s1
  split
  · exact .refl s
  · split
    · exact h.trans (State.lose_keeps ..)
    · exact h

theorem State.xspiUp_keeps (s : State) (errA errB : Bool) (fmhz dummy : Nat) : s.Keeps (s.xspiUp errA errB fmhz dummy) := by
  unfold State.xspiUp
  extract_lets d d1 why gen l d2
  clear_value d1 d2
  split
  · split <;> exact .dev s _
  · exact .refl s

theorem State.chooseSlot_keeps (s : State) (bad : Bool) : s.Keeps (s.chooseSlot bad) := by
  unfold State.chooseSlot
  extract_lets d
  split
  · split
    · exact .dev s _
    · split
      · exact .dev s _
      · split
        · exact .dev s _
        · extract_lets why d1
          split <;> exact .dev s _
  · exact .refl s

theorem State.startBist_keeps (s : State) (cells furs drams : Nat) : s.Keeps (s.startBist cells furs drams) := by
  unfold State.startBist
  split
  · dsimp only
    refine State.Keeps.trans (State.Keeps.trans (.mem _ fun h => ?_) (.foldl _ _ (fun _ _ => State.loseLocal_keeps ..) _))
      (.foldl _ _ (fun _ _ => State.lose_keeps ..) _)
    have h1 := Mem.wf_fill _ (isramOf 0) (isramOf 64 - 1) (.const 0) 0 (Mem.wf_fill _ 0x001000000 0x0080FFFFF (.const 0) 0 h)
    split
    · exact Mem.wf_fill _ _ _ _ _ h1
    · exact h1
  · exact .refl s

theorem State.putWord_keeps (s : State) (a : Nat) (w : Word) : s.Keeps (s.putWord a w) := by
  unfold State.putWord
  split
  · exact .mem _ (Mem.wf_wr _ _ _)
  · exact State.wrWord_keeps ..

theorem State.putSection_keeps (s : State) (l : List Rec) (q : Sect) (ws : List Word) : s.Keeps (s.putSection l q ws) := by
  unfold State.putSection
  extract_lets bases d
  exact (State.Keeps.dev s d).trans (.foldl _ _ (fun _ _ => .foldl _ _ (fun _ _ => State.putWord_keeps ..) _) _)

theorem State.codeRead_keeps (s : State) (a n : Nat) : s.Keeps (s.codeRead a n).2.2 := (State.takeWords_keeps ..).onDev _

theorem State.keepsCode_keeps (s : State) (dig : BitVec 256) (l : List Rec) : s.Keeps (s.keepsCode dig l).2 := by
  unfold State.keepsCode
  dsimp only
  split
  · refine (State.codeRead_keeps s loadRecord 5).trans (State.Keeps.foldl2 _ _ (fun b q => ?_) (true, (s.codeRead loadRecord 5).2.2))
    split
    · exact State.codeRead_keeps ..
    · exact .refl _
  · exact State.codeRead_keeps ..

theorem State.loadSections_keeps (s0 : State) (bad : Bool) : s0.Keeps (s0.loadSections bad) := by
  unfold State.loadSections
  split
  · rename_i k _ _
    dsimp only
    have hk := State.keepsCode_keeps s0 (digestOf (s0.mem.slotWord k) s0.records) s0.records
    generalize s0.keepsCode _ _ = r at hk ⊢
    obtain ⟨keep, s⟩ := r
    dsimp only at hk ⊢
    have h1 : s0.Keeps (if keep then s else s.wrWord loadRecord (s.rdWord loadRecord &&& ~~~ 1)) := by
      split
      · exact hk
      · exact hk.trans (State.wrWord_keeps ..)
    generalize (if keep then s else _) = s1 at h1 ⊢
    split
    · exact State.Keeps.onDev (h1.trans (.foldl _ _ (fun _ _ => State.lose_keeps ..) _)) _
    · have h2 : s0.Keeps ((loadedUntil (s0.mem.slotWord k) ((sections s0.records).filter fun q => !(keep && decide (q.dest = 0)))).foldl
          (fun s q => s.putSection s0.records q (q.words (s0.mem.slotWord k))) s1) :=
        h1.trans (.foldl _ _ (fun _ _ => State.putSection_keeps ..) _)
      refine .ite (h2.onDev _) (State.Keeps.onDev (.ite h2 (h2.trans (State.wrWords_keeps ..))) _)
  · exact .refl s0

theorem State.entryWrite_keeps (s : State) (w : Word) : s.Keeps (s.entryWrite w) := State.ioWrite_keeps ..

theorem State.applyRecords_keeps (s : State) : s.Keeps s.applyRecords := by
  unfold State.applyRecords
  extract_lets l d1 d2 d3 s1
  have h : s.Keeps s1 := (State.Keeps.dev s _).trans (.foldl _ _ (fun _ _ => State.entryWrite_keeps ..) _)
  clear_value s1
  split
  · exact h.onDev _
  · exact .refl s

theorem State.bind_keeps (s : State) (b : Bind) : s.Keeps (s.bind b) := by
  unfold State.bind
  extract_lets p t v q old w s1
  have h : s.Keeps s1 := by
    unfold s1
    split
    · exact (State.Keeps.dev s _).trans (State.ioWrite_keeps ..)
    · exact .dev s _
  exact h.trans (State.ioWrite_keeps ..)

theorem State.applyBindings_keeps (s : State) : s.Keeps s.applyBindings := by
  unfold State.applyBindings
  extract_lets l s1 s2 d1 d2
  have h1 : s.Keeps s1 := .foldl _ _ (fun _ _ => State.bind_keeps ..) _
  have h2 : s.Keeps s2 := h1.trans (.foldl _ _ (fun _ _ => State.entryWrite_keeps ..) _)
  clear_value s1 s2
  split
  · exact h2.onDev _
  · exact .refl s

theorem State.tapResume_keeps (s : State) : s.Keeps s.tapResume := (State.Keeps.dev s _).trans (State.pump_keeps ..)

theorem State.tapMem_keeps (s : State) (wr : Bool) (a : Nat) (v : Word) (fl : Flips) : s.Keeps (s.tapMem wr a v fl) := by
  unfold State.tapMem
  extract_lets d shows
  have hs : ∀ t b w, s.Keeps t → s.Keeps (shows t b w) := fun t b w h => h.onDev _
  clear_value shows
  split
  · exact .dev s _
  · generalize d.ask _ = r
    obtain ⟨g, d1⟩ := r
    cases g
    · dsimp only
      split
      · exact hs _ _ _ (.dev s _)
      · split
        · exact hs _ _ _ (((State.Keeps.dev s _).trans (State.strike_keeps ..)).trans (State.storePart_keeps ..))
        · exact hs _ _ _ ((State.Keeps.dev s _).trans (State.takeWords_keeps ..))
    all_goals exact hs _ _ _ (.dev s _)

theorem State.tapIo_keeps (s : State) (wr : Bool) (a : Nat) (v : Half) (f : BitVec 43) : s.Keeps (s.tapIo wr a v f) := by
  unfold State.tapIo
  split
  · exact .dev s _
  · cases wr
    · exact .dev s _
    · by_cases he : (flippedIo v f).2 = 2
      · simp only [he, if_true]; exact .dev s _
      · simp only [he, if_true, if_false]
        exact ((State.Keeps.dev s _).trans (State.ioWrite_keeps ..)).onDev _

theorem State.tapIsram_keeps (s : State) (wr : Bool) (i : Nat) (v : Word) : s.Keeps (s.tapIsram wr i v) := by
  unfold State.tapIsram
  extract_lets d c m
  have h : s.mem.wf = true → m.wf = true := by
    unfold m
    split
    · exact Mem.wf_foldl _ _ (fun m _ h => Mem.wf_wr _ _ _ h) _
    · exact id
  clear_value m
  split
  · exact .dev s _
  · split
    · exact .refl s
    · exact .mem _ h

theorem State.rowWrite_keeps (s : State) (who : Requester) (a : Nat) (v : Half) : s.Keeps (s.rowWrite who a v) := by
  unfold State.rowWrite
  split
  · exact State.writeAccess_keeps ..
  · exact .refl s

theorem State.rowRead_keeps (s : State) (who : Requester) (a : Nat) : s.Keeps (s.rowRead who a) := by
  unfold State.rowRead
  split
  · exact State.readAccess_keeps ..
  · exact .refl s

theorem State.rowOp_keeps (s : State) (h : OpHdr) (o : Op) : s.Keeps (s.rowOp h o) := State.opArrives_keeps ..

theorem State.pumpAll_keeps (s : State) : s.Keeps s.pumpAll := .foldl _ _ (fun _ _ => State.pumpFur_keeps ..) _

theorem State.caliperTest_keeps (s : State) (f : Nat) (go : Option (Requester × Half)) (a b : Nat) : s.Keeps (s.caliperTest f go a b) := by
  unfold State.caliperTest
  cases go with
  | none => exact .dev s _
  | some q => exact (State.rowWrite_keeps ..).onDev _

theorem State.shedFoff_keeps (s : State) : s.Keeps s.shedFoff := by
  unfold State.shedFoff
  split
  · extract_lets fs s1
    have h : s.Keeps s1 := .foldl _ _ (fun s f => (State.Keeps.dev s _).trans (State.foff_keeps ..)) _
    clear_value s1
    split
    · exact .refl s
    · exact h.onDev _
  · exact .refl s

theorem State.shedEth_keeps (s : State) : s.Keeps s.shedEth := by
  unfold State.shedEth
  split
  · extract_lets ps d0 r d s1
    have h : s.Keeps s1 := (State.Keeps.dev s _).trans (.foldl _ _ (fun _ _ => State.linkChange_keeps ..) _)
    clear_value s1
    exact h.onDev _
  · exact .refl s

end Sys2Proof.Machine
end

