-- ==== Sys2Proof/Laws/Events.lean ====
section
/-! SUPPORT. Raising an event sets pending bits and does nothing else. -/

namespace Sys2Proof.Machine

open Sys2Proof

theorem mem_bitsOf {m n k : Nat} (h : k ∈ bitsOf m n) : k < n := by
  unfold bitsOf at h
  exact List.mem_range.1 (List.mem_filter.1 h).1

theorem Dev.lead_lt (d : Dev) {c : Nat} (h : c < 64) : d.lead c < 64 := by
  have hm : ∀ m ∈ d.mates c, m < 64 := by
    intro m hm
    unfold Dev.mates at hm
    split at hm
    · have := (List.mem_filter.1 hm).1
      simp at this
      omega
    · split at hm
      · obtain ⟨p, hp, rfl⟩ := List.mem_map.1 hm
        have := mem_bitsOf hp
        omega
      · simp at hm
        omega
  unfold Dev.lead
  cases e : d.mates c with
  | nil => exact h
  | cons a l => exact hm a (by simp [e])

/-- Event targets are cells. -/
theorem Dev.eventTargets_lt (d : Dev) (e c : Nat) (h : c ∈ d.eventTargets e) : c < 64 := by
  unfold Dev.eventTargets at h
  dsimp only at h
  have ht : d.fg (ecRt e) EcRt.TGT < 64 := Span.get_lt EcRt.TGT _
  split at h
  · split at h
    · exact List.mem_range.1 (List.mem_filter.1 h).1
    · split at h
      · simp at h
        rw [h]
        exact Dev.lead_lt d ht
      · simp at h
  · simp at h

/-- A change of the pending bits alone. -/
def Dev.PendOnly (d e : Dev) : Prop := e = { d with io := e.io } ∧ ∀ k, k < 0x010400 ∨ 0x010600 ≤ k → e.rd k = d.rd k

theorem Dev.PendOnly.refl (d : Dev) : d.PendOnly d := ⟨rfl, fun _ _ => rfl⟩
theorem Dev.PendOnly.trans {d e f : Dev} (h : d.PendOnly e) (k : e.PendOnly f) : d.PendOnly f :=
  ⟨by rw [k.1, h.1], fun r hr => (k.2 r hr).trans (h.2 r hr)⟩
theorem Dev.PendOnly.foldl {α : Type} (l : List α) (f : Dev → α → Dev) (d : Dev) (hf : ∀ (d : Dev), ∀ a ∈ l, d.PendOnly (f d a)) :
    d.PendOnly (l.foldl f d) := by
  induction l generalizing d with
  | nil => exact .refl d
  | cons a l ih => exact .trans (hf d a (by simp)) (ih _ fun d b hb => hf d b (by simp [hb]))

theorem Dev.setPend_only (d : Dev) (e c : Nat) (he : e < 256) (hc : c < 64) : d.PendOnly (d.setPend e c) :=
  ⟨rfl, fun k hk => Dev.rd_wr_ne _ _ (by unfold ecPend; omega)⟩
theorem Dev.raise_only (d : Dev) (e : Nat) (he : e < 256) : d.PendOnly (d.raise e) :=
  .foldl _ _ d fun _ c hc => Dev.setPend_only _ e c he (Dev.eventTargets_lt d e c hc)
theorem Dev.raiseIf_only (d : Dev) (b : Bool) (e : Nat) (he : e < 256) : d.PendOnly (d.raiseIf b e) := by
  cases b
  · exact .refl d
  · exact Dev.raise_only d e he
theorem Dev.relevel_only (d : Dev) (e : Nat) (he : e < 256) : d.PendOnly (d.relevel e) := Dev.raiseIf_only _ _ _ he

/-! What such a change leaves, part by part. -/

theorem Dev.PendOnly.tick {d e : Dev} (h : d.PendOnly e) : e.tick = d.tick := by rw [h.1]
theorem Dev.PendOnly.fresh {d e : Dev} (h : d.PendOnly e) : e.fresh = d.fresh := by rw [h.1]
theorem Dev.PendOnly.edges {d e : Dev} (h : d.PendOnly e) : e.edges = d.edges := by rw [h.1]
theorem Dev.PendOnly.doms {d e : Dev} (h : d.PendOnly e) : e.doms = d.doms := by rw [h.1]
theorem Dev.PendOnly.slots {d e : Dev} (h : d.PendOnly e) : e.slots = d.slots := by rw [h.1]
theorem Dev.PendOnly.tmrs {d e : Dev} (h : d.PendOnly e) : e.tmrs = d.tmrs := by rw [h.1]
theorem Dev.PendOnly.ports {d e : Dev} (h : d.PendOnly e) : e.ports = d.ports := by rw [h.1]
theorem Dev.PendOnly.chans {d e : Dev} (h : d.PendOnly e) : e.chans = d.chans := by rw [h.1]
theorem Dev.PendOnly.pulse {d e : Dev} (h : d.PendOnly e) : e.pulse = d.pulse := by rw [h.1]
theorem Dev.PendOnly.level {d e : Dev} (h : d.PendOnly e) : e.level = d.level := by rw [h.1]
theorem Dev.PendOnly.hilats {d e : Dev} (h : d.PendOnly e) : e.hilats = d.hilats := by rw [h.1]
theorem Dev.PendOnly.holds {d e : Dev} (h : d.PendOnly e) : e.holds = d.holds := by rw [h.1]
theorem Dev.PendOnly.resp {d e : Dev} (h : d.PendOnly e) : e.resp = d.resp := by rw [h.1]
theorem Dev.PendOnly.cells {d e : Dev} (h : d.PendOnly e) : e.cells = d.cells := by rw [h.1]
theorem Dev.PendOnly.furs {d e : Dev} (h : d.PendOnly e) : e.furs = d.furs := by rw [h.1]
theorem Dev.PendOnly.ptpFrac {d e : Dev} (h : d.PendOnly e) : e.ptpFrac = d.ptpFrac := by rw [h.1]
theorem Dev.PendOnly.eths {d e : Dev} (h : d.PendOnly e) : e.eths = d.eths := by rw [h.1]
theorem Dev.PendOnly.pgrp {d e : Dev} (h : d.PendOnly e) : e.pgrp = d.pgrp := by rw [h.1]
theorem Dev.PendOnly.evbs {d e : Dev} (h : d.PendOnly e) : e.evbs = d.evbs := by rw [h.1]
theorem Dev.PendOnly.rows {d e : Dev} (h : d.PendOnly e) : e.rows = d.rows := by rw [h.1]
theorem Dev.PendOnly.refr {d e : Dev} (h : d.PendOnly e) : e.refr = d.refr := by rw [h.1]
theorem Dev.PendOnly.infl {d e : Dev} (h : d.PendOnly e) : e.infl = d.infl := by rw [h.1]
theorem Dev.PendOnly.noted {d e : Dev} (h : d.PendOnly e) : e.noted = d.noted := by rw [h.1]
theorem Dev.PendOnly.reqId {d e : Dev} (h : d.PendOnly e) : e.reqId = d.reqId := by rw [h.1]
theorem Dev.PendOnly.rs {d e : Dev} (h : d.PendOnly e) : e.rs = d.rs := by rw [h.1]
theorem Dev.PendOnly.txns {d e : Dev} (h : d.PendOnly e) : e.txns = d.txns := by rw [h.1]
theorem Dev.PendOnly.jnl {d e : Dev} (h : d.PendOnly e) : e.jnl = d.jnl := by rw [h.1]
theorem Dev.PendOnly.sysq {d e : Dev} (h : d.PendOnly e) : e.sysq = d.sysq := by rw [h.1]
theorem Dev.PendOnly.rider {d e : Dev} (h : d.PendOnly e) : e.rider = d.rider := by rw [h.1]
theorem Dev.PendOnly.sec {d e : Dev} (h : d.PendOnly e) : e.sec = d.sec := by rw [h.1]
theorem Dev.PendOnly.fc {d e : Dev} (h : d.PendOnly e) : e.fc = d.fc := by rw [h.1]
theorem Dev.PendOnly.bist {d e : Dev} (h : d.PendOnly e) : e.bist = d.bist := by rw [h.1]
theorem Dev.PendOnly.boot {d e : Dev} (h : d.PendOnly e) : e.boot = d.boot := by rw [h.1]
theorem Dev.PendOnly.run {d e : Dev} (h : d.PendOnly e) : e.run = d.run := by rw [h.1]

/-! ### The rider's accounts -/

/-- What the accounts write: four registers, and the LOW cause. -/
theorem Dev.accounts_eq (d : Dev) : ∃ u o r a : Word, d.accounts = (((d.wr drUse u).wr drObl o).wr drResv r).wr drAvl a ∨
    d.accounts = (((((d.wr drUse u).wr drObl o).wr drResv r).wr drAvl a).latch drStat DrStat.CAUSE 3).relevel 187 := by
  unfold Dev.accounts
  extract_lets u res obl avl d1
  by_cases h : avl < 0 ∨ avl < d.lowLimit
  · rw [if_pos h]; exact ⟨_, _, _, _, Or.inr rfl⟩
  · rw [if_neg h]; exact ⟨_, _, _, _, Or.inl rfl⟩
theorem Dev.accounts_txns (d : Dev) : d.accounts.txns = d.txns := by
  obtain ⟨u, o, r, a, h | h⟩ := d.accounts_eq
  · rw [h]; simp
  · rw [h, (Dev.relevel_only _ 187 (by decide)).txns]; simp [Dev.latch, Dev.fp]
theorem Dev.accounts_cells (d : Dev) : d.accounts.cells = d.cells := by
  obtain ⟨u, o, r, a, h | h⟩ := d.accounts_eq
  · rw [h]; simp
  · rw [h, (Dev.relevel_only _ 187 (by decide)).cells]; simp [Dev.latch, Dev.fp]
theorem Dev.accounts_jnl (d : Dev) : d.accounts.jnl = d.jnl := by
  obtain ⟨u, o, r, a, h | h⟩ := d.accounts_eq
  · rw [h]; simp
  · rw [h, (Dev.relevel_only _ 187 (by decide)).jnl]; simp [Dev.latch, Dev.fp]

/-- Every register but the rider's accounts, its status and the pending events stands. -/
theorem Dev.accounts_rd (d : Dev) (k : Nat) (h1 : k ≠ drUse) (h2 : k ≠ drObl) (h3 : k ≠ drResv) (h4 : k ≠ drAvl) (h5 : k ≠ drStat)
    (h6 : k < 0x010400 ∨ 0x010600 ≤ k) : d.accounts.rd k = d.rd k := by
  obtain ⟨u, o, r, a, h | h⟩ := d.accounts_eq
  · rw [h, Dev.rd_wr_ne _ _ h4, Dev.rd_wr_ne _ _ h3, Dev.rd_wr_ne _ _ h2, Dev.rd_wr_ne _ _ h1]
  · rw [h, (Dev.relevel_only _ 187 (by decide)).2 k h6]
    unfold Dev.latch Dev.fp
    rw [Dev.rd_wr_ne _ _ h5, Dev.rd_wr_ne _ _ h4, Dev.rd_wr_ne _ _ h3, Dev.rd_wr_ne _ _ h2, Dev.rd_wr_ne _ _ h1]

end Sys2Proof.Machine
end

