-- ==== Sys2Proof/Laws/Writes.lean ====
section
/-! SUPPORT. What a register access that reaches its register does: the value the register takes, its effect and the answer. -/

namespace Sys2Proof.Machine

open Sys2Proof

theorem Dev.askIo_permit (d : Dev) (r : Req) (h : (d.askIo r).1 = true) : d.askIo r = (true, d) := by
  unfold Dev.askIo at h ⊢
  split at h
  · cases h
  · rename_i hb
    rw [if_neg hb]
    split
    · rfl
    · rename_i k e
      rw [e] at h
      dsimp only at h
      split at h <;> rename_i e2
      · rfl
      · cases h
      · cases h

/-- A write that reaches a 36-bit register. -/
theorem State.rowWrite_narrow (s : State) (who : Requester) (r : Nat) (v : Half) (h : s.reaches who r = true)
    (hw : (regDesc r).wide = false) :
    s.rowWrite who r v =
      let a := s.regWrite who r (s.dev.ioKey who r) (s.dev.newAt who r v) (ofHalf v &&& 0xFFFFFFFFF)
      a.2.wrote r (a.1 || s.dev.lockHit who r v) a.2.dev := by
  unfold State.reaches at h
  simp only [Bool.and_eq_true, decide_eq_true_eq] at h
  obtain ⟨⟨⟨⟨h1, h2⟩, h3⟩, h4⟩, h5⟩ := h
  have hc : ¬(s.dev.claimedMask r &&& 0xFFFFFFFFF ≠ 0 ∧ who ≠ .loader) := by rw [h5]; simp
  unfold State.rowWrite State.writeAccess State.ioWrite
  rw [if_pos (by simp [h1, h2]), Dev.askIo_permit _ _ h3]
  dsimp only
  rw [h4]
  dsimp only
  rw [if_neg (by simp [hw])]
  unfold State.ioCommit
  dsimp only
  rw [if_neg hc]
  rfl

/-- A write by the device's own effect alone. -/
theorem State.wrote_dev (s : State) (r : Nat) (e : Bool) (d : Dev) : ({ s with dev := d } : State).wrote r e d = s.wrote r e d := rfl

/-! ### The value that a register takes -/

theorem ofHalf_bit (h : Half) (j : Nat) : (ofHalf h).getLsbD j = (decide (j < 36) && h.getLsbD j) := by
  unfold ofHalf
  rw [BitVec.getLsbD_setWidth]
  by_cases hj : j < 36
  · simp [hj, show j < 72 by omega]
  · simp [hj, BitVec.getLsbD_of_ge h j (by omega)]

theorem low_bit (j : Nat) : (0xFFFFFFFFF : Word).getLsbD j = decide (j < 36) := by
  by_cases h : j < 36
  · rw [decide_eq_true h]
    interval_cases j <;> rfl
  · rw [decide_eq_false h]
    by_cases h2 : j < 72
    · interval_cases j <;> first | omega | rfl
    · exact BitVec.getLsbD_of_ge _ _ (by omega)

theorem Span.get_congr (f : Span) (v w : Word) (h : ∀ j, f.lo ≤ j → j ≤ f.hi → v.getLsbD j = w.getLsbD j) : f.get v = f.get w := by
  apply Nat.eq_of_testBit_eq
  intro i
  rw [Span.get_bit, Span.get_bit]
  by_cases hi : i < f.width
  · rw [h _ (by omega) (by unfold Span.width at hi; omega)]
  · simp [hi]

/-- The written bits of a command value hold the field that it gives. -/
theorem get_withField (f : Span) (n : Nat) (v : Half) (h : f.lo ≤ f.hi ∧ f.hi < 36) :
    f.get (ofHalf (withField f n v) &&& 0xFFFFFFFFF) = n % 2 ^ f.width := by
  rw [← Span.get_put_self f (ofHalf v) n ⟨h.1, by omega⟩]
  refine Span.get_congr _ _ _ fun j h1 h2 => ?_
  unfold withField loHalf
  rw [BitVec.getLsbD_and, ofHalf_bit, low_bit, BitVec.getLsbD_extractLsb']
  simp [show j < 36 by omega]

theorem get_ofHalf_withField (f : Span) (n : Nat) (v : Half) (h : f.lo ≤ f.hi ∧ f.hi < 36) :
    f.get (ofHalf (withField f n v)) = n % 2 ^ f.width := by
  rw [← get_withField f n v h]
  refine Span.get_congr _ _ _ fun j h1 h2 => ?_
  rw [BitVec.getLsbD_and, low_bit]
  simp [show j < 36 by omega]

/-- A field beside the one that a command value gives. -/
theorem get_withField_ne (f g : Span) (n : Nat) (v : Half) (h : f.lo ≤ f.hi ∧ f.hi < 36) (hg : g.hi < 36) (hd : g.hi < f.lo ∨ f.hi < g.lo) :
    g.get (ofHalf (withField f n v) &&& 0xFFFFFFFFF) = g.get (ofHalf v &&& 0xFFFFFFFFF) := by
  rw [← Span.get_put_ne f g (ofHalf v &&& 0xFFFFFFFFF) n ⟨h.1, by omega⟩ hd]
  refine Span.get_congr _ _ _ fun j h1 h2 => ?_
  unfold withField loHalf
  rw [BitVec.getLsbD_and, ofHalf_bit, low_bit, BitVec.getLsbD_extractLsb', Span.put_bit f ⟨h.1, by omega⟩, Span.put_bit f ⟨h.1, by omega⟩, BitVec.getLsbD_and,
    low_bit]
  simp [show j < 36 by omega]

/-- A bit of the merged value: set from the written value, cleared by a written one, or kept (R12). -/
theorem Dev.merged_bit (d : Dev) (who : Requester) (r k : Nat) (v m : Word) (j : Nat) (hj : j < 72) :
    (d.merged who r k v m).1.getLsbD j =
      (((d.rd k).getLsbD j && !(m.getLsbD j && ((regDesc r).mask (Acc.sets (d.regLocked r && !decide (who = .loader))
          (decide (who = .loader) && imgRo r))).getLsbD j) ||
        (v.getLsbD j && (m.getLsbD j && ((regDesc r).mask (Acc.sets (d.regLocked r && !decide (who = .loader))
          (decide (who = .loader) && imgRo r))).getLsbD j))) &&
        !(v.getLsbD j && m.getLsbD j && ((regDesc r).mask (fun a => a == .w1c)).getLsbD j)) := by
  unfold Dev.merged
  simp only [BitVec.getLsbD_and, BitVec.getLsbD_or, BitVec.getLsbD_not, hj, decide_true, Bool.true_and]

/-- A bit lies under a mask where a field that the mask selects covers it. -/
theorem RegDesc.mask_bit (q : RegDesc) (p : Acc → Bool) (j : Nat) :
    (q.mask p).getLsbD j = q.fields.any (fun f => p f.acc && f.span.mask.getLsbD j) := by
  have h : ∀ (l : List Fld) (w : Word), (l.foldl (fun w f => if p f.acc then w ||| f.span.mask else w) w).getLsbD j =
      (w.getLsbD j || l.any (fun f => p f.acc && f.span.mask.getLsbD j)) := by
    intro l
    induction l with
    | nil => intro w; simp
    | cons f l ih =>
      intro w
      rw [List.foldl_cons, ih, List.any_cons]
      cases p f.acc <;> simp [Bool.or_assoc]
  unfold RegDesc.mask
  rw [h]
  simp

/-- A field apart from those that name absent resources takes the merged value (R3). -/
theorem Dev.newAt_apart (d : Dev) (who : Requester) (r : Nat) (v : Half) (f : Span)
    (ha : ∀ w, ∀ g ∈ d.absentFields r w, g.fits ∧ (f.hi < g.lo ∨ g.hi < f.lo)) :
    f.get (d.newAt who r v) = f.get (d.merged who r (d.ioKey who r) (ofHalf v) 0xFFFFFFFFF).1 := by
  unfold Dev.newAt Dev.keepAbsent
  generalize d.rd (d.ioKey who r) = old
  generalize (d.merged who r (d.ioKey who r) (ofHalf v) 0xFFFFFFFFF).1 = w
  have h : ∀ (l : List Span) (w : Word), (∀ g ∈ l, g.fits ∧ (f.hi < g.lo ∨ g.hi < f.lo)) →
      f.get (l.foldl (fun w g => g.put w (g.get old)) w) = f.get w := by
    intro l
    induction l with
    | nil => intro w _; rfl
    | cons g l ih =>
      intro w hl
      rw [List.foldl_cons, ih _ (fun g' h' => hl g' (List.mem_cons_of_mem _ h'))]
      exact Span.get_put_ne g f _ _ (hl g List.mem_cons_self).1 (hl g List.mem_cons_self).2
  exact h _ _ (ha w)

/-- A field whose every bit a write sets takes the written value (R12). -/
theorem Dev.newAt_takes (d : Dev) (who : Requester) (r : Nat) (v : Half) (f : Span) (q : RegDesc) (hq : regDesc r = q)
    (ha : ∀ w, ∀ g ∈ d.absentFields r w, g.fits ∧ (f.hi < g.lo ∨ g.hi < f.lo)) (hf : f.lo ≤ f.hi ∧ f.hi < 36)
    (h1 : ∀ ro, f.mask &&& q.mask (Acc.sets (d.regLocked r && !decide (who = .loader)) ro) = f.mask)
    (h2 : f.mask &&& q.mask (fun a => a == .w1c) = 0) : f.get (d.newAt who r v) = f.get (ofHalf v) := by
  rw [d.newAt_apart who r v f ha]
  refine Span.get_congr _ _ _ fun j a b => ?_
  have hj : j < 72 := by omega
  have hm : f.mask.getLsbD j = true := by rw [Span.mask_bit f ⟨hf.1, by omega⟩]; simp [a, b]
  have y := congrArg (fun w => BitVec.getLsbD w j) (h1 (decide (who = .loader) && imgRo r))
  have z := congrArg (fun w => BitVec.getLsbD w j) h2
  simp only [BitVec.getLsbD_and, hm, Bool.true_and, BitVec.getLsbD_zero] at y z
  rw [Dev.merged_bit _ _ _ _ _ _ _ hj, hq, y, z, low_bit]
  simp [show j < 36 by omega]

theorem Dev.newAt_get (d : Dev) (who : Requester) (r : Nat) (v : Half) (f : Span) (q : RegDesc) (hq : regDesc r = q)
    (ha : ∀ w, d.absentFields r w = []) (hf : f.lo ≤ f.hi ∧ f.hi < 36)
    (h1 : ∀ ro, f.mask &&& q.mask (Acc.sets (d.regLocked r && !decide (who = .loader)) ro) = f.mask)
    (h2 : f.mask &&& q.mask (fun a => a == .w1c) = 0) : f.get (d.newAt who r v) = f.get (ofHalf v) :=
  d.newAt_takes who r v f q hq (fun w g hg => by rw [ha] at hg; cases hg) hf h1 h2

/-- A field that no lock covers. -/
theorem Dev.newAt_rw (d : Dev) (who : Requester) (r : Nat) (v : Half) (f : Span) (q : RegDesc) (hq : regDesc r = q)
    (ha : ∀ w, d.absentFields r w = []) (hf : f.lo ≤ f.hi ∧ f.hi < 36)
    (h1 : ∀ lk ro, f.mask &&& q.mask (Acc.sets lk ro) = f.mask) (h2 : f.mask &&& q.mask (fun a => a == .w1c) = 0) :
    f.get (d.newAt who r v) = f.get (ofHalf v) := d.newAt_get who r v f q hq ha hf (h1 _) h2

/-- No write of an unlocked register hits a lock. -/
theorem Dev.lockHit_of (d : Dev) (who : Requester) (r : Nat) (v : Half) (hl : d.regLocked r = false) : d.lockHit who r v = false := by
  unfold Dev.lockHit Dev.merged
  simp [hl]

/-- A register without locked fields hits no lock. -/
theorem Dev.lockHit_free (d : Dev) (who : Requester) (r : Nat) (v : Half) (q : RegDesc) (hq : regDesc r = q)
    (h : q.mask (fun a => a == .rwl) = 0) : d.lockHit who r v = false := by
  unfold Dev.lockHit Dev.merged
  simp only [hq, h]
  simp

theorem Dev.regLocked_none (d : Dev) (r : Nat) (h : regLock r = none) : d.regLocked r = false := by
  unfold Dev.regLocked
  rw [h]

/-- A write of a register whose effect is the device's alone. -/
theorem State.rowWrite_dev (s : State) (who : Requester) (r : Nat) (v : Half) (h : s.reaches who r = true)
    (hw : (regDesc r).wide = false)
    (hr : ∀ k n w, s.regWrite who r k n w = ((s.dev.regWrite who r k n w).1, { s with dev := (s.dev.regWrite who r k n w).2 })) :
    s.rowWrite who r v =
      let a := s.dev.regWrite who r (s.dev.ioKey who r) (s.dev.newAt who r v) (ofHalf v &&& 0xFFFFFFFFF)
      s.wrote r (a.1 || s.dev.lockHit who r v) a.2 := by
  rw [State.rowWrite_narrow s who r v h hw, hr]
  rfl

/-- Most registers' writes are the device's alone. -/
theorem State.regWrite_dev (s : State) (who : Requester) (r k : Nat) (n w : Word)
    (h : r ≠ fcRec ∧ r ≠ bCtl ∧ r ≠ btCmd ∧ r ≠ ssCmd ∧ r ≠ ssCfg) (hg : r / 0x10000 ≠ 0xB ∨ r % 8 ≠ 4) :
    s.regWrite who r k n w = ((s.dev.regWrite who r k n w).1, { s with dev := (s.dev.regWrite who r k n w).2 }) := by
  unfold State.regWrite
  rw [if_neg h.1, if_neg (fun q => h.2.1 q.1), if_neg (by omega), if_neg h.2.2.1, if_neg h.2.2.2.1, if_neg h.2.2.2.2]

/-- A write of a 36-bit register without locked fields, whose effect is the device's alone. -/
theorem State.rowWrite_free (s : State) (who : Requester) (r : Nat) (v : Half) (q : RegDesc) (h : s.reaches who r = true) (hq : regDesc r = q)
    (hw : q.wide = false) (hl : q.mask (fun a => a == .rwl) = 0)
    (hr : r ≠ fcRec ∧ r ≠ bCtl ∧ r ≠ btCmd ∧ r ≠ ssCmd ∧ r ≠ ssCfg) (hg : r / 0x10000 ≠ 0xB ∨ r % 8 ≠ 4) :
    s.rowWrite who r v =
      s.wrote r (s.dev.regWrite who r (s.dev.ioKey who r) (s.dev.newAt who r v) (ofHalf v &&& 0xFFFFFFFFF)).1
        (s.dev.regWrite who r (s.dev.ioKey who r) (s.dev.newAt who r v) (ofHalf v &&& 0xFFFFFFFFF)).2 := by
  rw [State.rowWrite_dev s who r v h (by rw [hq]; exact hw) (fun k n w => State.regWrite_dev _ _ _ _ _ _ hr hg), Dev.lockHit_free _ _ _ _ q hq hl]
  simp only [Bool.or_false]

/-! ### Reads -/

/-- What a read of `r` leaves once the measured registers are sampled: `d` is the device with the sample. -/
def Dev.readOf (d : Dev) (who : Requester) (a r : Nat) : Half × Bool × Dev :=
  if (regDesc r).wide then
    if a = r then (loHalf (d.ioShown r (d.ioKey who r)), false,
      (d.ioTake r (d.ioKey who r)).putHilat who ⟨true, r + 1, hiHalf (d.ioShown r (d.ioKey who r))⟩)
    else if (d.hilatOf who).v ∧ (d.hilatOf who).addr = a then ((d.hilatOf who).data, false, d.putHilat who { d.hilatOf who with v := false })
    else (hiHalf (d.ioShown r (d.ioKey who r)), false, if r = 2 then d.next else d)
  else (loHalf (d.ioShown r (d.ioKey who r)), false, d.ioTake r (d.ioKey who r))

theorem Dev.ioRead_of (d : Dev) (who : Requester) (a r : Nat) (h : (d.askIo (d.ioReq who .read a)).1 = true) (hr : d.ioReg a = some r) :
    d.ioRead who a = (d.ioSample r).readOf who a r := by
  unfold Dev.ioRead
  rw [Dev.askIo_permit _ _ h]
  dsimp only
  rw [hr]
  rfl

/-- A read access that a register answers. -/
theorem State.rowRead_of (s : State) (who : Requester) (a r : Nat) (h : s.readable who a r = true) :
    s.rowRead who a = s.didRead (s.dev.ioRead who a).1 (s.dev.ioRead who a).2.2 ∧ (s.dev.ioRead who a).2.1 = false := by
  unfold State.readable at h
  simp only [Bool.and_eq_true, decide_eq_true_eq] at h
  obtain ⟨⟨⟨h1, h2⟩, h3⟩, h4⟩ := h
  have e : (s.dev.ioRead who a).2.1 = false := by
    rw [Dev.ioRead_of _ _ _ _ h3 h4]
    unfold Dev.readOf
    split
    · split
      · rfl
      · split <;> rfl
    · rfl
  refine ⟨?_, e⟩
  unfold State.rowRead State.readAccess
  rw [if_pos (by simp [h1, h2])]
  dsimp only
  rw [e]
  rfl

end Sys2Proof.Machine
end

