-- ==== Sys2Proof/Machine/Balls.lean ====
section
/-! DEFINITION. What the state shows at the balls of the package (R589, R596, R597): a view, which no command writes. -/

namespace Sys2Proof.Machine

/-- What a ball shows: low, high, or high impedance. -/
inductive Ball where
  | low
  | high
  | floats
deriving DecidableEq, Repr

def ballOf (b : Bool) : Ball := if b then .high else .low

/-- SAFE_A, SAFE_B and ALIVE: held low without power (R597), and until step 12 (R589). ALIVE is high for half of each millisecond while
it runs (R260, R596): `phase` tells which half. -/
def Dev.ballSafeA (d : Dev) : Ball := ballOf (d.boot.on && d.ff fcStat FcStat.SAFEA)
def Dev.ballSafeB (d : Dev) : Ball := ballOf (d.boot.on && d.ff fcStat FcStat.SAFEB)
def Dev.ballAlive (d : Dev) (phase : Bool) : Ball := ballOf (d.boot.on && d.ff fcStat FcStat.ALIVE && phase)

/-- nFAULT: an open drain, at high impedance without power (R589, R597). -/
def Dev.ballNfault (d : Dev) : Ball := if d.boot.on && d.ff fcStat FcStat.NFLT then .low else .floats

/-- Terminal `t` of port `p`: high impedance unless the port is ACTIVE and the terminal an output (R121, R589). -/
def Dev.ballField (d : Dev) (p t : Nat) : Ball :=
  if d.active p && d.railUp && (d.outMask p).testBit t then ballOf ((d.driven p).testBit t) else .floats

/-- The xSPI memory is held in reset, and not selected, until step 5 (R589). -/
def Dev.ballXrst (d : Dev) : Ball := ballOf (d.alive && decide (6 ≤ d.boot.step))

/-- The crystal is driven from step 3, while power stays (R589). -/
def Dev.ballXtal (d : Dev) : Bool := d.boot.on && decide (3 ≤ d.boot.step)

/-- A transmitter of Ethernet port `p` leaves its common-mode idle once the port is enabled; that of an absent port never does
(R589, R590). -/
def Dev.ballTx (d : Dev) (p : Nat) : Bool := d.alive && d.ethHere p && d.ff (etCfg p) EtCfg.EN

end Sys2Proof.Machine
end

