-- ==== Sys2Proof/WellFormed.lean ====
section
/-! DEFINITION. Which commands are well formed: a command that reads or writes one half of a 72-bit register, or a read-to-clear
field, names a register that has it. The types of the other operands hold no value that the spec does not admit. -/

namespace Sys2Proof

open Sys2Proof.Machine

/-- The address names the low half of a 72-bit register (R10, R97). -/
def isLowHalf (a : IoAddr) : Bool :=
  match regAt a.toNat with
  | some r => (regDesc r).wide && decide (a.toNat = r)
  | none => false

/-- The address names the high half of a 72-bit register (R10, R97). -/
def isHighHalf (a : IoAddr) : Bool :=
  match regAt a.toNat with
  | some r => (regDesc r).wide && decide (a.toNat ≠ r)
  | none => false

/-- The address names a register with a read-to-clear field (R13). -/
def hasReadClear (a : IoAddr) : Bool :=
  match regAt a.toNat with
  | some r => (regDesc r).fields.any (fun f => f.acc == .rc)
  | none => false

/-- A command is well formed. -/
def WellFormed (i : Instr) : Bool :=
  match i with
  | .rcRead _ a => hasReadClear a
  | .lowHalfRead _ a => isLowHalf a
  | .highHalfRead _ a => isHighHalf a
  | .highHalfWrite _ a _ => isHighHalf a
  | .lowHalfWrite _ a _ => isLowHalf a
  | _ => true

end Sys2Proof
end

