-- ==== Sys2Proof/Tests/Slice0.lean ====
section
/-! SUPPORT. The model's own tests, each on a small state: the checks of well-formedness refuse an ill-formed term each; steps whose result was
worked out by hand from the rules; and, for every statement with hypotheses, states and operands that meet them. -/

namespace Sys2Proof.Tests

set_option Elab.async false

open Sys2Proof.Machine

/-- Every region of the sluice permits everything. -/
def opens (d : Dev) (s : Nat) : Dev := (d.wr (slPerm s 0) 0xFFFFFFFFF).wr (slAttr s 0) (fields [(1, 35), (36, 29)])

/-- Cell 0, a single with the registers of `x`, runs at level M after a start, and its sluices permit everything. -/
def at' (x : Cell) : State :=
  let io := Tab.set 0 [] (fuMode 0) (FuMode.ROLE0.put (regReset (fuMode 0)) 0)
  let d : Dev := { State.reset.dev with run := true, boot := { State.reset.dev.boot with step := 13 }, io := io, cells := [(0, x)] }
  { State.reset with dev := ([0, 64, 80, 81, 82] ++ (List.range 16).map (83 + ·)).foldl opens d }

/-- A cell with some registers set. -/
def x0 : Cell := { g := [(1, 5), (2, 7), (3, 0x5000), (4, 2)], pc := 0x100, evb := 0x10 }

/-- That machine. -/
def s1 : State := at' x0

/-- That machine with its device changed. -/
def dv (f : Dev → Dev) : State := s1.onDev (f s1.dev)

/-- The machine after a command. -/
def after (i : Instr) (s : State) : State := match exec i s with | .next t => t | _ => s

def h0 : OpHdr := { cell := 0, pred := 0, stop := true, cal := .agree }

def who : Requester := .cell 0

/-- A ready cell 0 takes an op of `h0`. -/
theorem test_takes (s : State) (h : s.ready 0 = true) : s.takes h0 := ⟨h, ⟨rfl, rfl⟩, by simp [h0, Cell.rf]⟩

/-! ### The checks of well-formedness, each with a command it refuses -/

theorem test_wf_rcRead : WellFormed (.rcRead who 0x03000A) = false ∧ WellFormed (.rcRead who 6) = true := by decide +kernel
theorem test_wf_lowHalfRead : WellFormed (.lowHalfRead who 0x030007) = false ∧ WellFormed (.lowHalfRead who 0x030006) = true := by decide +kernel
theorem test_wf_highHalfRead : WellFormed (.highHalfRead who 0x030006) = false ∧ WellFormed (.highHalfRead who 0x030007) = true := by decide +kernel
theorem test_wf_highHalfWrite : WellFormed (.highHalfWrite who 0x030008 5) = false ∧ WellFormed (.highHalfWrite who 0x030009 5) = true := by decide +kernel
theorem test_wf_lowHalfWrite : WellFormed (.lowHalfWrite who 0x030009 5) = false ∧ WellFormed (.lowHalfWrite who 0x030008 5) = true := by decide +kernel

/-! ### No table row has bits -/

theorem test_decode_none : decodeTableWord 36 0x23F2C0000 = none ∧ State.reset.withFetchWord 36 0x23F2C0000 = State.reset := by
  exact ⟨rfl, rfl⟩

/-! ### Ops, worked out by hand: the cell's G1 is 5, G2 is 7, G3 is 0x5000, G4 is 2 -/

/-- A register of cell 0 after an op, with the registers `g` before. -/
def gives (g : Tab Word) (i : Instr) (r : Nat) : Word := ((after i (at' { x0 with g := g })).dev.cell 0).rg r

/-- R377, R10: 5 - 7 wraps to 2^72 - 2; an immediate of 0x3FFF is -1. -/
theorem test_sub_wraps : gives x0.g (.sub h0 8 1 2) 8 = 0xFFFFFFFFFFFFFFFFFE := by decide +kernel
theorem test_addi_signed : gives x0.g (.addi h0 8 1 0x3FFF) 8 = 4 := by decide +kernel
theorem test_andi_unsigned : gives [(1, 0xFFFFFFFFFFFFFFFFFF)] (.andi h0 8 1 0x3FFF) 8 = 0x3FFF := by decide +kernel
/-- R377: the source may be the destination. -/
theorem test_add_in_place : gives x0.g (.add h0 1 1 1) 1 = 10 := by decide +kernel
/-- R379: a count of 72 empties a shift, and 127 spreads the sign. -/
theorem test_shl_72 : gives [(1, 1), (2, 72)] (.shl h0 8 1 2) 8 = 0 := by decide +kernel
theorem test_sar_127 : gives [(1, 0x800000000000000000), (2, 127)] (.sar h0 8 1 2) 8 = 0xFFFFFFFFFFFFFFFFFF := by decide +kernel
theorem test_rol_73 : gives [(1, 0x800000000000000001), (2, 73)] (.rol h0 8 1 2) 8 = 3 := by decide +kernel
/-- R378: 2^71 - 1 plus 1 saturates. -/
theorem test_adds_saturates : gives [(1, 0x7FFFFFFFFFFFFFFFFF), (2, 1)] (.adds h0 8 1 2) 8 = 0x7FFFFFFFFFFFFFFFFF := by decide +kernel
/-- R378: after SUBF of 5 - 7, C is the borrow, and V and SV are clear: only bit 3 of ST's flags is set. -/
theorem test_subf_borrows : (((after (.subf h0 8 1 2) s1).dev.cell 0).st).extractLsb' 0 4 = 8 := by decide +kernel
/-- R377, the table "ALU functions": the least signed number keeps its value under ABS; no bit is set in 72 zeros. -/
theorem test_abs_least : gives [(1, 0x800000000000000000)] (.abs h0 8 1) 8 = 0x800000000000000000 := by decide +kernel
theorem test_clz_zero : gives [] (.clz h0 8 1) 8 = 72 := by decide +kernel
/-- R380, R8: octet 0 is bits [71:64], octet 8 bits [7:0]. -/
theorem test_extb_0 : gives [(1, 0x313233343536373839)] (.extb h0 8 1 0) 8 = 0x31 := by decide +kernel
theorem test_extbs_8 : gives [(1, 0x3132333435363738F9)] (.extbs h0 8 1 8) 8 = 0xFFFFFFFFFFFFFFFFF9 := by decide +kernel
theorem test_bswap : gives [(1, 0x313233343536373839)] (.bswap h0 8 1) 8 = 0x393837363534333231 := by decide +kernel
/-- The worked example of "Cell programming model": LIMM in MODE 2 with V = 0x9_A4C0. -/
theorem test_limm_example : gives [] (.limm h0 1 false 5 2 0x9A4C0) 5 = 0x00000000009A4C000000 := by decide +kernel
/-- R396, and the standard's check value: the CRC-32 of the octets "123456789" is 0xCBF43926, the register's complement. -/
theorem test_crc_check : crcWord 0xFFFFFFFF 0x313233343536373839 = 0xFFFFFFFF - 0xCBF43926 := by decide +kernel
/-- R382: a multiply is due four bundles on. -/
theorem test_muls_due : ((after (.muls h0 1 1 2) s1).dev.cell 0).due = [⟨4, 1, .p 1 35⟩] := by decide +kernel
/-- R386: DIVU by zero gives 2^72 - 1 and sets DZ. -/
theorem test_divu_zero :
    let x := (after (.longOpComplete 0 0) (at' { x0 with longs := [⟨.divu, 3, 5, 0, 0, 0, 0⟩] })).dev.cell 0
    x.rg 3 = 0xFFFFFFFFFFFFFFFFFF ∧ x.st.getLsbD 0 = true := by decide +kernel
/-- R400: SYSC names the bundle after it, and enters S at the vector of its cause. -/
theorem test_sysc : (((after (.sysc h0 false) (at' { x0 with st := 0 })).dev.cell 0).epc, ((after (.sysc h0 false) (at' { x0 with st := 0 })).dev.cell 0).pl) = (0x101, 1) := by
  decide +kernel

/-! ### Registers and blocks -/

/-- The worked example of "Fault collection, reaction and self-test": QUIET 20, LIMIT 3, WIN 60, AUTO 1 make 0x8_2860_1E00. -/
theorem test_fcrec_example :
    FcRec.AUTO.put (FcRec.QUIET.put (FcRec.LIMIT.put (FcRec.WIN.put 0 60) 3) 20) 1 = 0x828601E00 := by decide +kernel
/-- The worked example of "Angle domains and scheduled actions": S0CTL of the slow-down is 0xD_4740_0000. -/
theorem test_slot_example :
    (AdSlotCtl.ACT.get (0xD47400000 : Word), AdSlotCtl.TGT.get (0xD47400000 : Word), AdSlotCtl.TERM.get (0xD47400000 : Word)) = (2, 7, 1) := by decide +kernel
/-- The worked example of "Supply, hold-up store and the ditch rider": DRBANK 0x1_F49C_40A0 and 4,300 uF give V_CHG 47.06 V. -/
theorem test_bank_example : (vCharge 0x1F49C40A0 4300, DrBank.VSET.get (0x1F49C40A0 : Word)) = (4706, 5000) := by decide +kernel
/-- R300: 43 ms at 200 mA over 2.0 V make 4,300 uF. -/
theorem test_measurement_example :
    (after (.bankMeasurementEnd 43000) (dv fun d => { d with rider := { d.rider with meas := true, bleed := true, bank := 0x1F49C40A0 } })).dev.fg drBstat DrBstat.CAP = 4300 := by
  decide +kernel
/-- R88: a write of RUN does not load the counter. -/
theorem test_run_keeps_count : (after (.run who 63 0) (dv fun d => d.wr (tmCnt 63) 9)).dev.rd (tmCnt 63) = 9 := by decide +kernel
/-- R87: the count goes from 1 to 0, and the zero event is due. -/
theorem test_unit_tick_zero :
    let t := after (.timerUnitTick 63) (dv fun d => ((d.fp (tmCtl 63) TmCtl.RUN 1).fp (tmStat 63) TmStat.GATE 1).wr (tmCnt 63) 1)
    (t.dev.rd (tmCnt 63), (t.dev.tmr 63).zDue) = (0, true) := by decide +kernel
/-- R125: DIS takes an ISOLATED port OFF. -/
theorem test_port_dis : (after (.dis who 31) (dv fun d => d.fp (fpStat 31) FpStat.STATE 2)).dev.fpState 31 = 0 := by decide +kernel
/-- R138, R140: ARM takes an IDLE channel to ARMED. -/
theorem test_arm : (after (.arm who 15) (dv fun d => d.fp (chStat 15) ChStat.STATE 0)).dev.chState 15 = 1 := by decide +kernel
/-- R135: SHL moves a Q register's bit 17 out. -/
theorem test_seq_shl :
    (after (.seqShl 31) (dv fun d => (((d.fp (fpStat 31) FpStat.STATE 1).fp (fpSeqs 31) FpSeqs.HLT 0).fp (fpPrg 31 0) FpPrg.INS 0x3006).fp
      (fpSq 31 0) FpSq.Q 0x20001)).dev.fg (fpSq 31 0) FpSq.Q = 2 := by decide +kernel
/-- R453: bit 7 of ECDB raises EV243 in the cell that its route names. -/
theorem test_doorbell : (after (.doorbell who 0x80) (dv fun d => d.wr (ecRt 243) (fields [(1, 35)]))).dev.isPend 243 0 = true := by decide +kernel
/-- R98: a high half alone changes no register. -/
theorem test_high_half_waits : (after (.highHalfWrite who 0x0303F9 5) s1).dev.io = s1.dev.io := by decide +kernel
/-- R10, R97: reading the low half of TM63CNT latches its high half. -/
theorem test_low_half_read :
    let t := after (.lowHalfRead who 0x0303F6) (dv fun d => d.wr (tmCnt 63) (5 <<< 36 ||| 9))
    (t.dev.resp.val, (t.dev.hilatOf who).v, (t.dev.hilatOf who).data) = (9, true, 5) := by decide +kernel
/-- R187: TBEGIN opens a free transaction of its partition. -/
theorem test_tbegin :
    (after (.tbegin h0 1) ((at' { x0 with g := [(1, 31)] }).onDev ((at' { x0 with g := [(1, 31)] }).dev.wr (txOwn 31) (fields [(1, 35)])))).dev.txState 31 = 1 := by
  decide +kernel

/-! ### The algorithms of the security unit, by the standards' own examples -/

/-- FIPS 180-4: the digest of "abc". -/
theorem test_sha256_abc : sha256 [0x61, 0x62, 0x63] = 0xBA7816BF8F01CFEA414140DE5DAE2223B00361A396177A9CB410FF61F20015AD := by decide +kernel

/-- The octets of a number, `n` of them. -/
def octs (n v : Nat) : List Nat := (List.range n).map fun k => v / 256 ^ (n - 1 - k) % 256

/-- FIPS 197: the example of AES-128, both ways. -/
theorem test_aes_128 :
    aesBlock (octs 16 0x000102030405060708090A0B0C0D0E0F) (octs 16 0x00112233445566778899AABBCCDDEEFF) = octs 16 0x69C4E0D86A7B0430D8CDB78070B4C55A ∧
    aesUnblock (octs 16 0x000102030405060708090A0B0C0D0E0F) (octs 16 0x69C4E0D86A7B0430D8CDB78070B4C55A) = octs 16 0x00112233445566778899AABBCCDDEEFF := by
  decide +kernel

theorem test_witness_StepTakesTheFrontCommand : ({ State.reset with pending := [.cut] } : State).pending = .cut :: [] ∧ State.reset.pending = [] := by
  decide +kernel

theorem test_witness_EveryStepKeepsTheMemories : State.reset.Inv := by unfold State.Inv; decide +kernel

theorem test_witness_RegisterWritesLand :
    s1.reaches who (0x030002 : IoAddr).toNat = true ∧ (regDesc 0x030002).wide = false ∧ (0x0303F2 : IoAddr).toNat = tmPin (63 : Fin 64).val ∧
    s1.reaches who (tmPin 63) = true ∧ (regDesc (tmPin 63)).wide = false ∧ s1.reaches who (fpFlt 31) = true ∧ (regDesc (fpFlt 31)).wide = false := by
  decide +kernel

/-- The hypotheses on a write of a half, at the address `a` of register `r`. -/
def halfWritten (s : State) (a r : Nat) : Bool :=
  s.dev.alive && s.dev.mayAsk who && (s.dev.askIo (s.dev.ioReq who .write a)).1 && decide (s.dev.ioReg a = some r) && (regDesc r).wide

/-- The high half of TM63CMP0 is held, and HILAT holds that of TM63CNT. -/
def sHeld : State := dv fun d =>
  ({ d with holds := Tab.set {} [] (3 * 256 + d.ioSeat who) ⟨true, tmCmp0 63, 5⟩ } : Dev).putHilat who ⟨true, tmCnt 63 + 1, 9⟩

theorem test_witness_WideRegistersGoByHalves :
    (s1.readable who (tmCnt 63) (tmCnt 63) = true ∧ (regDesc (tmCnt 63)).wide = true) ∧
    (s1.readable who (tmCnt 63 + 1) (tmCnt 63) = true ∧ tmCnt 63 + 1 ≠ tmCnt 63 ∧ tmCnt 63 ≠ 2) ∧
    ((s1.dev.hilatOf who).v = false ∧ sHeld.readable who (tmCnt 63 + 1) (tmCnt 63) = true ∧ (sHeld.dev.hilatOf who).v = true ∧
      (sHeld.dev.hilatOf who).addr = tmCnt 63 + 1) ∧
    (s1.readable who (fpIn 31) (fpIn 31) = true ∧ (regDesc (fpIn 31)).wide = false ∧ fpIn 31 ≠ 6 ∧ fpIn 31 ≠ btUstat ∧ ∀ p : Fin 32, fpIn 31 ≠ fpData p.val) ∧
    (halfWritten s1 (tmCmp0 63 + 1) (tmCmp0 63) = true ∧ tmCmp0 63 + 1 ≠ tmCmp0 63 ∧ ¬ (tmCmp0 63 < 0x10000)) ∧
    (halfWritten (at' { x0 with st := 0 }) 3 2 = true ∧ (3 : IoAddr).toNat ≠ 2 ∧ (at' { x0 with st := 0 }).dev.ioPl who = 0) ∧
    (halfWritten sHeld (tmCmp0 63) (tmCmp0 63) = true ∧
      (let h := Tab.get {} sHeld.dev.holds (sHeld.dev.holdOf who (tmCmp0 63)); h.v = true ∧ h.addr = tmCmp0 63)) ∧
    (halfWritten s1 (tmCmp0 63) (tmCmp0 63) = true ∧
      (let h := Tab.get {} s1.dev.holds (s1.dev.holdOf who (tmCmp0 63)); h.v = false)) ∧
    (halfWritten sHeld (tmCmp1 63) (tmCmp1 63) = true ∧
      (let h := Tab.get {} sHeld.dev.holds (sHeld.dev.holdOf who (tmCmp1 63)); h.v = true ∧ h.addr ≠ tmCmp1 63)) := by
  decide +kernel

/-- The hypotheses of `FieldsFollowTheirAccessCodes` on a field of a register. -/
def fieldOk (r : Nat) (f : Fld) : Bool :=
  decide (f ∈ (regDesc r).fields ∧ f.span.lo ≤ f.span.hi ∧ f.span.hi < 36) &&
  (regDesc r).fields.all fun g => decide (g ≠ f → g.span.lo ≤ g.span.hi ∧ g.span.hi < 72 ∧ (g.span.hi < f.span.lo ∨ f.span.hi < g.span.lo))

theorem test_no_absent_fields (r : Nat) (w : Word) : s1.dev.absentFields r w = [] := by
  have h : s1.dev.isH = false := by decide +kernel
  simp [Dev.absentFields, h]

theorem test_witness_FieldsFollowTheirAccessCodes :
    fieldOk (tmPin 63) ⟨TmPin.PORT, .rw, 0⟩ = true ∧ fieldOk (tmCtl 63) ⟨TmCtl.RUN, .tx, 0⟩ = true ∧
    (fieldOk (adSrc 31) ⟨AdSrc.TYPE, .rwl, 0⟩ = true ∧ s1.dev.regLocked (adSrc 31) = false) ∧
    (let d := s1.dev.wr adLock 0xFFFFFFFF; d.regLocked (adSrc 31) = true ∧ AdSrc.TYPE.get (d.rd (d.ioKey who (adSrc 31))) ≠ AdSrc.TYPE.get (ofHalf 0x100000000)) ∧
    fieldOk (tmStat 63) ⟨⟨7, 7⟩, .ro, 0⟩ = true ∧ fieldOk 6 ⟨⟨35, 0⟩, .rc, 0⟩ = true ∧ fieldOk (adCmd 31) ⟨⟨1, 1⟩, .wo, 0⟩ = true ∧
    fieldOk (tmStat 63) ⟨⟨4, 4⟩, .w1c, 0⟩ = true ∧ who ≠ .loader := by
  and_intros <;> decide +kernel

theorem test_witness_ClockFaultsAssertAndTicksRun : s1.dev.alive = true ∧ s1.dev.furHere 15 = true ∧ s1.dev.ethHere 1 = true ∧ s1.dev.furHere 0 = true := by
  decide +kernel

/-- Domain 31 is enabled with source type `t` and the state `x`. -/
def sDom (t : Nat) (x : Dom) : State := dv fun d => ((d.fp (adCtl 31) AdCtl.EN 1).fp (adSrc 31) AdSrc.TYPE t).putDom 31 x

theorem test_witness_DomainsTakeEdgesAndFaults :
    (s1.dev.portHere 31 = true ∧ (s1.dev.active 31 && (s1.dev.outMask 31).testBit 2) = false ∧ s1.dev.levelAt 31 2 ≠ true) ∧
    (let s := sDom 1 { run := 64 }; let w := s.dev.loadDom 31
     s.dev.alive = true ∧ w.en = true ∧ w.type = 1 ∧ w.lossn ≤ w.st.run ∧ w.frozen = false) ∧
    (let s := (sDom 1 {}).onDev (((sDom 1 {}).dev.fp (adErr 31) AdErr.WERR 200).fp (adChk 31) AdChk.ERRLIM 3); let w := s.dev.loadDom 31
     s.dev.alive = true ∧ w.en = true ∧ w.type = 1 ∧ AdChk.ERRLIM.get w.chk < AdErr.WERR.get w.err ∧ (s.dev.srcLevel (96 + 31)).testBit 31 = false) ∧
    (let s := sDom 1 { wEdges := 100000 }; let w := s.dev.loadDom 31; w.window ≤ w.st.wEdges) ∧
    (∀ t ∈ [1, 4], let s := (sDom t {}).onDev { (sDom t {}).dev with tick := 50000000 }; let w := s.dev.loadDom 31
     s.dev.alive = true ∧ w.en = true ∧ 1 ≤ w.type ∧ w.type ≤ 4 ∧ w.stallTicks ≤ s.dev.now - w.st.tLast ∧ w.stalled = false) := by
  and_intros <;> decide +kernel

theorem test_witness_DomainWritesAct :
    (s1.reaches who (adCtl 31) = true ∧ s1.dev.ff (adCtl 31) AdCtl.EN = false ∧ s1.dev.fg (adSrc 31) AdSrc.TYPE ≠ 8) ∧
    ((sDom 1 {}).reaches who (adCtl 31) = true ∧ (sDom 1 {}).dev.ff (adCtl 31) AdCtl.EN = true) ∧
    ((sDom 1 {}).reaches who (adCmd 31) = true) := by
  and_intros <;> decide +kernel

/-- Compare slot 7 of domain 31 holds `x`. -/
def sSlot (x : Slot) : State := dv fun d => d.putSlot 31 7 x

theorem test_witness_MainsSlotsAndWaits :
    (∀ acq ∈ [true, false], let s := sDom 5 { acq := acq, good := 8 }; let w := s.dev.loadDom 31
     s.dev.alive = true ∧ w.en = true ∧ w.type = 5 ∧ AdSrc.MPH.get w.src = 0 ∧ w.st.acq = acq ∧ 8 ≤ w.st.good) ∧
    (let s := (sDom 5 {}).onDev { ((sDom 5 {}).dev.fp (adStat 31) AdStat.LOCK 1) with tick := 4000000 }; let w := s.dev.loadDom 31
     s.dev.alive = true ∧ w.en = true ∧ w.type = 5 ∧ w.locked = true ∧ w.st.acq = false ∧ w.st.crossAt + 4000000 ≤ s.dev.tick ∧
     w.st.mstep * 100000000 < 45 * 2 ^ 48) ∧
    (let s := sDom 5 { hold := 8 * 2 ^ 48 }; let s := s.onDev (s.dev.fp (adStat 31) AdStat.HOLD 1); let w := s.dev.loadDom 31
     w.en = true ∧ w.type = 5 ∧ w.holding = true ∧ w.st.acq = false ∧ 8 * 2 ^ 48 ≤ w.st.hold) ∧
    ((((sSlot { wVal := [⟨9, 1⟩, ⟨8, 2⟩] }).dev.slot 31 7).wVal.filter fun w => decide (w.left ≤ 1)) ≠ [] ∧
      (((sSlot { wCtl := [⟨0xD47400000, 1⟩] }).dev.slot 31 7).wCtl.filter fun w => decide (w.left ≤ 1)) ≠ []) ∧
    (((sSlot { due := some 5 }).dev.slot 31 7).due = some 5 ∧ s1.dev.tick ≠ 5) ∧
    (let s := at' { x0 with wait := .waitc 0x100 1 31 false false false 0 }; let x := s.dev.cell 0
     x.wait = .waitc 0x100 1 31 false false false 0 ∧ s.dev.running 0 = true ∧ reached false (s.dev.waitReading 31 false) 0 = true ∧ x.blk = none ∧ x.closed = false) := by
  and_intros <;> decide +kernel

/-- R64, R94: of two writes of a slot's value on their way, the one that is due arrives and the other stays on its way. -/
theorem test_slot_writes_queue :
    let x := (after (.slotWriteArrival 31 7) (sSlot { wVal := [⟨9, 1⟩, ⟨8, 2⟩] })).dev.slot 31 7
    (x.val, x.wVal) = (9, [⟨8, 2⟩]) := by decide +kernel

/-- Timer 63 runs with the state `x`. -/
def sTmr (x : Tmr) : State := dv fun d => ((d.fp (tmCtl 63) TmCtl.RUN 1).fp (tmStat 63) TmStat.GATE 1).putTmr 63 x

theorem test_witness_UnitTicksCountAndMatch :
    (∀ x ∈ [({} : Tmr), { wr0 := [⟨5, 1⟩], wr1 := [⟨6, 2⟩] }], let d := (sTmr x).dev.timerWrites 63
     (sTmr x).dev.alive = true ∧ (d.tmr 63).done = false ∧ d.counting 63 = true ∧ d.pscExpired 63 = true) ∧
    (let d := (dv fun d => d.putTmr 63 { ld := true }).dev.timerWrites 63; (d.tmr 63).done = false ∧ (d.tmr 63).ld = true) := by
  and_intros <;> decide +kernel

theorem test_witness_TimersFollowTheirEventsAndWrites :
    ((sTmr { zDue := true }).dev.tmr 63).zDue = true ∧
    (((sTmr { wr0 := [⟨5, 1⟩] }).dev.tmr 63).wr0.filter fun w => decide (w.left ≤ 1)) ≠ [] ∧
    (((sTmr { wr1 := [⟨5, 1⟩] }).dev.tmr 63).wr1.filter fun w => decide (w.left ≤ 1)) ≠ [] ∧ ((sTmr { rldW := some 9 }).dev.tmr 63).rldW = some 9 ∧
    (∀ f ∈ [TmTrg.STRT, TmTrg.RST, TmTrg.CLK],
      let s := dv fun d => { ((d.putTmr 63 { trg := f.put 0 0x100 }).putTmr 0 { zAt := 1 }) with tick := 1 }
      s.dev.alive = true ∧ s.dev.trigFired (s.dev.trig 63 f) = true ∧ (s.dev.tmr 63).run0 = false ∧ s.dev.tmRun 63 = false) ∧
    (s1.reaches who (tmCtl 63) = true ∧ s1.dev.tmRun 63 = false ∧ (sTmr {}).reaches who (tmCtl 63) = true ∧ (sTmr {}).dev.tmRun 63 = true ∧
      (let s := sTmr {}
       let v := s.dev.newAt who (tmCtl 63) (withField TmCtl.RUN 1 0)
       let w := if TmCtl.MODE.get v = 3 then TmCtl.MODE.put v (s.dev.fg (tmCtl 63) TmCtl.MODE) else v
       TmCtl.MODE.get w = s.dev.fg (tmCtl 63) TmCtl.MODE)) ∧
    (s1.reaches who (tmGo 1) = true ∧ ∀ t ∈ (bitsOf (0x80000001 : BitVec 32).toNat 32).map (fun i => 32 * 1 + i), s1.dev.runClaimed t = false) ∧
    s1.reaches who (tmCmd 63) = true := by
  and_intros <;> decide +kernel

/-- Port 31 is in STATE `st` with MODE `m` and the state `x`. -/
def sPort (st m : Nat) (x : Port) : State := dv fun d => ((d.fp (fpStat 31) FpStat.STATE st).fp (fpCfg 31) FpCfg.MODE m).putPort 31 x

theorem test_witness_PortCommandsChangeItsState :
    (∀ st ∈ [0, 1, 2, 3], let s := sPort st 6 {}
     s.reaches who (fpCmd 31) = true ∧ s.dev.fpState 31 = st ∧ s.dev.ff (fpStat 31) FpStat.CHK = false) ∧
    (let d := (sPort 0 6 {}).dev.fp (fpStat 31) FpStat.CHK 1; d.alive = true ∧ d.ff (fpStat 31) FpStat.CHK = true) ∧
    (let d := (sPort 2 6 { retry := some 0 }).dev
     (d.port 31).retry = some 0 ∧ d.fpState 31 = 2 ∧ 0 ≤ d.tick ∧ d.ff (fpStat 31) FpStat.CHK = false) := by
  and_intros <;> decide +kernel

theorem test_witness_LeavingActiveFloatsThePort :
    (0 : Fin 4).val ≠ 1 ∧ (3 : Fin 4).val ≠ 1 ∧ (sPort 1 6 {}).dev.fpState 31 = 1 ∧ ((sPort 1 6 {}).dev.port 31).wait = .none ∧
    (let d := (sPort 1 6 { wait := .until 5 }).dev.fp (fpSeqs 31) FpSeqs.HLT 0
     d.fpState 31 = 1 ∧ (d.port 31).wait ≠ .none ∧ d.ff (fpSeqs 31) FpSeqs.HLT = false) := by decide +kernel

theorem test_witness_PortFaultsReadingsAndOctetsMove :
    (∀ m ∈ [1, 3, 4, 5, 6], let d := (sPort 1 m {}).dev; d.alive = true ∧ d.active 31 = true ∧ d.fpMode 31 = m) ∧
    (let d := (sPort 1 8 {}).dev.fp (fpCfg 31) FpCfg.EX 1; d.active 31 = true ∧ d.ff (fpCfg 31) FpCfg.EX = true) ∧
    (let d := (sPort 1 3 {}).dev; d.fg (fpEnv 31) FpEnv.ESMAX * 20000000000 < (d.fg (fpWire 31) FpWire.CNF + 47) * 60000 * 60000) ∧
    (let d := { (sPort 1 3 {}).dev with tick := 25500000 }; (d.port 31).qAt + max 1 (d.fg (fpEnv 31) FpEnv.QWIN) * 100000 ≤ d.tick) ∧
    (let d := { (sPort 1 3 {}).dev with tick := 25500000000 }
     (d.port 31).fltAt + max 1 (d.fg (fpFlt 31) FpFlt.RWIN) * 100000000 ≤ d.tick) ∧
    (let d := { (sPort 1 3 { hit := 3 }).dev with tick := 100000000 }
     ∀ t : Fin 2, (d.port 31).hit.testBit t.val = true ∧
       (if t.val = 0 then (d.port 31).hitA else (d.port 31).hitB) + d.fg (fpDrv 31) FpDrv.HITT * 100000 ≤ d.tick) ∧
    (s1.reaches who (fpData 31) = true ∧ (s1.dev.port 31).tx.length < 16 ∧ ((sPort 0 7 { tx := List.replicate 16 0 }).dev.port 31).tx.length = 16 ∧
      (sPort 0 7 { tx := List.replicate 16 0 }).reaches who (fpData 31) = true) ∧
    (∀ l ∈ [[], List.replicate 16 (0, false)], let d := (sPort 1 7 { tx := [1], rx := l }).dev.fp (fpUart 31) FpUart.UEN 1
     d.alive = true ∧ d.uartOn 31 = true ∧ (d.port 31).tx = [1] ∧ (d.port 31).drvOn = false ∧ (d.port 31).rx = l) ∧
    s1.readable who (fpData 31) (fpData 31) = true := by
  and_intros <;> decide +kernel

/-- The sequencer of port 31 runs, with `w` as its first word. -/
def sSeq (w : Nat) (x : Port) : State :=
  (sPort 1 6 x).onDev (((sPort 1 6 x).dev.fp (fpSeqs 31) FpSeqs.HLT 0).fp (fpPrg 31 0) FpPrg.INS w)

theorem test_witness_SequencerComputes :
    ∀ w ∈ [0x1FFF, 0x2000, 0x4FFF, 0x3FC0, 0x3001, 0x3002, 0x3003, 0x3004, 0x3005, 0x3006, 0x3007, 0x3FC8, 0x5E07, 0x5003, 0x6E02, 0x6E03, 0x6E04, 0x7A00],
      let d := (sSeq w {}).dev
      d.alive = true ∧ d.seqReady 31 = true ∧ d.fg (fpPrg 31 (d.port 31).slot) FpPrg.INS = w := by
  decide +kernel

theorem test_witness_SequencerControls :
    (∀ w ∈ [0x8FFF, 0x9AE0, 0xAC3F, 0xBE3F, 0xC0FF, 0xD001, 0, 0xE000, 0x0FFF, 0x3009, 0xAE00],
      let d := (sSeq w {}).dev
      d.alive = true ∧ d.seqReady 31 = true ∧ d.fg (fpPrg 31 (d.port 31).slot) FpPrg.INS = w) ∧
    (let d := (sSeq 0 { wait := .until 0 }).dev; d.active 31 = true ∧ (d.port 31).ran = false ∧ (d.port 31).wait = .until 0 ∧ 0 ≤ d.tick) ∧
    (let d := (sSeq 0 { wait := .edge 2 2 true none }).dev
     d.active 31 = true ∧ (d.port 31).ran = false ∧ (d.port 31).wait = .edge 2 2 true none ∧ (true != (d.port 31).pub.testBit 2) = true) ∧
    (let d := (sSeq 0 { wait := .edge 2 2 false (some 0) }).dev
     d.active 31 = true ∧ (d.port 31).wait = .edge 2 2 false (some 0) ∧ 0 ≤ d.tick ∧ (false != (d.port 31).pub.testBit 2) = false) ∧
    (let d := (sPort 2 6 { wait := .edge 2 2 true none, stop := true }).dev
     d.alive = true ∧ d.active 31 = false ∧ (d.port 31).stop = true ∧ (d.port 31).ran = false ∧ (d.port 31).wait = .edge 2 2 true none) ∧
    s1.reaches who (fpSeqc 31) = true := by
  and_intros <;> decide +kernel

/-- Channel 15 is in STATE `st` with the state `x`. -/
def sChan (st : Nat) (x : Chan) : State := dv fun d => (d.fp (chStat 15) ChStat.STATE st).putChan 15 x

theorem test_witness_ChannelCommandsMoveIt :
    (∀ st ∈ [0, 1, 3, 4], let s := sChan st { st0 := st, rank := 0 }
     s.reaches who (chCmd 15) = true ∧ (s.dev.chan 15).rank ≤ 2 ∧ ((s.dev.wr (chCmd 15) 0).chUndo 15).chState 15 = st) ∧
    (∀ r ∈ [3, 4], let s := sChan 1 { st0 := 1, rank := r }; s.reaches who (chCmd 15) = true ∧ (s.dev.chan 15).rank = r) ∧
    (let s := sChan 3 { st0 := 3, rank := 3 }
     (s.dev.chan 15).rank ≤ 3 ∧ (s.dev.chan 15).st0 ≤ 3 ∧
       ((s.dev.wr (chCmd 15) (s.dev.newAt who (chCmd 15) (withField ChCmd.CMD 5 0))).chUndo 15).chState 15 ≤ 3) ∧
    (let s := sChan 4 { st0 := 4, rank := 3 }; (s.dev.chan 15).rank ≤ 3 ∧ 3 < (s.dev.chan 15).st0) := by
  and_intros <;> decide +kernel

theorem test_witness_ChannelsAreEnabledAndCleared :
    (s1.reaches who (chCtl 15) = true ∧ s1.dev.ff (chCtl 15) ChCtl.EN = false) ∧
    (let s := dv fun d => d.fp (chCtl 15) ChCtl.EN 1
     s.reaches who (chCtl 15) = true ∧ s.dev.ff (chCtl 15) ChCtl.EN = true ∧
       (s.dev.newAt who (chCtl 15) (withField ChCtl.EN 0 (loHalf (s.dev.rd (chCtl 15)))) ^^^ s.dev.rd (chCtl 15)) &&& chBinding = 0) ∧
    (let s := dv fun d => (((d.fp (chCtl 15) ChCtl.ILKE 1).fp (chCtl 15) ChCtl.ILKP 31).fp (chStat 15) ChStat.STATE 3).putChan 15 { st0 := 3, rank := 3 }
     s.dev.alive = true ∧ s.dev.interlocked 15 = true ∧ (s.dev.chan 15).rank ≤ 3 ∧ (s.dev.chUndo 15).chState 15 ≤ 3 ∧ (s.dev.chan 15).rank ≠ 2) ∧
    (let s := dv fun d => (((d.fp (chCtl 15) ChCtl.ILKE 1).fp (chCtl 15) ChCtl.ILKP 31).fp (chStat 15) ChStat.STATE 0).putChan 15 { st0 := 4, rank := 2 }
     s.dev.alive = true ∧ s.dev.interlocked 15 = true ∧ (s.dev.chan 15).rank = 2 ∧ (s.dev.chan 15).st0 = 4 ∧ s.dev.chState 15 = 0) ∧
    (s1.reaches who (chRet 15) = true ∧ ∀ d ∈ [s1.dev.rsWrite (latchWord 15) 1], d.retireLatch 15 = true) := by
  and_intros <;> decide +kernel

/-- Partition 0 has an open session with every right and role `role`. -/
def sSess (role : Nat) : State := dv fun d => d.wr (ssKstat 3) (fields [(2, 34), (role, 32), (0x3FFF, 12)])

/-- Transaction 31 is in STATE `st` with the state `x`; it may be used by partition 0, and cell 0 has it selected. -/
def sTxn (st : Nat) (x : Txn) : State :=
  let s := at' { x0 with txCur := some 31 }
  s.onDev (((s.dev.fp (txStat 31) TxStat.STATE st).wr (txOwn 31) (fields [(1, 35)])).putTxn 31 x)

theorem test_witness_PreparingEndsInAPlaceOrAnAbort :
    (let d := (sTxn 2 {}).dev; d.alive = true ∧ d.txState 31 = 2 ∧ (d.txn 31).prep = none ∧ d.mayGrant (d.txCost []) = false) ∧
    (∀ head ∈ [jBase, jBase + jSize - 1],
      let d := ((sTxn 2 {}).dev.fp drStat DrStat.READY 1).wr drAvl 0x7FFFFFFFF
      let d := (d.fp rsJhead RsJhead.HEAD head).fp rsJtail RsJtail.TAIL jBase
      d.txState 31 = 2 ∧ (d.txn 31).prep = none ∧ d.mayGrant (d.txCost []) = true ∧
        decide ((((d.fp (txRes 31) TxRes.RES (d.txCost [])).putTxn 31 { d.txn 31 with cost := d.txCost [] }).accounts).jFree <
          wPrep [] + wMark [] + 1) = decide (head ≠ jBase)) ∧
    (∀ m ∈ [0, 1], let d := (sTxn 2 { prep := some (jBase, 0), mode := m }).dev
     d.txState 31 = 2 ∧ (d.txn 31).prep = some (jBase, 0) ∧ (d.txn 31).ready = false ∧ (d.txn 31).mode = m) ∧
    (let d := { (sTxn 3 { wto := 1 }).dev with tick := 100000 }
     d.txState 31 = 3 ∧ (d.txn 31).wto ≠ 0 ∧ (d.txn 31).waitAt + (d.txn 31).wto * 100000 ≤ d.tick ∧ (d.txn 31).trig = false) := by
  and_intros <;> decide +kernel

theorem test_witness_CommitsComplete :
    (let d := (sTxn 4 { mark := some (jBase, 0) }).dev; d.alive = true ∧ d.txState 31 = 4 ∧ (d.txn 31).mark = some (jBase, 0) ∧ (d.txn 31).done = none) ∧
    (let d := (sTxn 4 { done := some (jBase, 0), prep := some (jBase, 1) }).dev
     d.txState 31 = 4 ∧ (d.txn 31).done = some (jBase, 0) ∧ (d.txn 31).prep = some (jBase, 1)) ∧
    (∀ b ∈ [true, false], ∀ half ∈ [true, false],
      let q : SysCommit := { addr := latchWord 0, val := 1, audit := { typ := 0x31 }, set := b, half := half }
      ({ s1.dev with sysq := [q] } : Dev).sysq = [q] ∧ q.set = b ∧ q.half = half) ∧
    (let d := (sTxn 1 { copy := some ⟨0x10, 3, 4, 2⟩ }).dev
     (d.txn 31).copy = some ⟨0x10, 3, 4, 2⟩ ∧ (d.cell (d.txn 31).owner).stores = [] ∧ d.alive = true) ∧
    s1.reaches who txCmd = true ∧ s1.reaches who rsJtail = true := by
  and_intros <;> decide +kernel

theorem test_witness_AnAbortFreesTheTransaction :
    (∀ st ∈ [0, 4], (sTxn st {}).dev.txState 31 = st) ∧ ∀ st ∈ [1, 2, 3], (sTxn st {}).dev.txState 31 = st := by
  and_intros <;> decide +kernel

/-- Cell 0, with transaction 31 open as its own and selected, whose partition holds a session. -/
def sOpen (g : Tab Word) (x : Txn) : State :=
  let s := at' { x0 with g := g, txCur := some 31 }
  s.onDev ((((s.dev.fp (txStat 31) TxStat.STATE 1).wr (txOwn 31) (fields [(1, 35)])).putTxn 31 x).wr (ssKstat 3) (fields [(2, 34), (1, 32), (0x3FFF, 12)]))

theorem test_witness_TransactionOpsStage :
    ((sOpen [(1, 31)] {}).ready 0 = true ∧ (sOpen [(1, 31)] {}).dev.txAllowed 31 0 = true ∧ (sOpen [(1, 31)] {}).dev.txState 31 = 1 ∧
      (sOpen [(1, 31)] {}).dev.fg (txStat 31) TxStat.CELL = 0 ∧ ((sOpen [(1, 31)] {}).dev.txn 31).owner = 0) ∧
    (let s := at' { x0 with g := [(1, 31)] }; s.ready 0 = true ∧ s.dev.txAllowed 31 0 = false ∧ (s.dev.cell 0).txCur = none) ∧
    (let s := at' { x0 with g := [(1, 31)] }; let t := s.onDev (s.dev.wr (txOwn 31) (fields [(1, 35)]))
     t.ready 0 = true ∧ t.dev.txAllowed 31 0 = true ∧ t.dev.txState 31 = 0) ∧
    (let d := (sOpen [] {}).dev; let q := regDesc (fpOut 31)
     q.txMask ≠ 0 ∧ d.isH = false ∧ (d.askIo (d.cellReq 0 .write (fpOut 31) 1)).1 = true ∧
       d.claimedByOther 31 (.write (fpOut 31) q.wide 5 q.txMask) = false ∧ (regDesc (fpCfg 31)).txMask = 0) ∧
    (((sOpen [] { items := [.snap 0 31] }).dev.txSnaps 31)[0]? = some (0, 31) ∧ (sOpen [] { items := [.snap 0 31] }).dev.claimedByOther 31 (.tot 255 0) = false) ∧
    (let d := (sOpen [] {}).dev
     d.hasRight (d.txn 31).part (parRight 0x2FFFF) = true ∧ d.auRoom = true ∧ d.claimedByOther 31 (.par 0x2FFFF 5 { typ := 0x22 }) = false) ∧
    (let d := (sOpen [] {}).dev.fp (trHead 1 7) TrHead.HELD 1; d.isHeld 1 7 0 = true ∧ d.claimedByOther 31 (.frame 1 7 0) = false) ∧
    (countItems TxItem.isSnap [] < 16 ∧ countItems TxItem.isWrite [] < 64 ∧ countItems TxItem.isFrame [] < 4) := by
  and_intros <;> decide +kernel

/-- Furrow 15 with the roles 1 (group 0) for the positions below `n`, 2 for the others, and the state `x`. -/
def sFur (n : Nat) (x : Fur) : State := dv fun d => ((List.range 4).foldl (fun d p => d.setRole (60 + p) (if p < n then 1 else 2) 0) d).putFur 15 x

theorem test_witness_FurrowCommandsAreTaken :
    (let s := sFur 3 {}
     s.reaches who (fuCmd 15) = true ∧ s.dev.cmdRefusal 15 1 0 4 2 (some 0) 2 = none ∧ s.dev.cmdRefusal 15 5 0 8 0 (some 0) 2 = none) ∧
    ((sFur 2 {}).dev.cmdRefusal 15 2 0 4 0 (some 0) 2 = none ∧ s1.dev.cmdRefusal 0 3 0 1 0 (some 0) 2 = none ∧ s1.dev.cmdRefusal 0 4 0 8 0 (some 0) 2 = none) ∧
    s1.reaches who (fuRet 15) = true ∧ s1.reaches who (fuClk 15) = true ∧
    (let d := s1.dev.fp (fuClk 15) FuClk.RELOCK 1; d.alive = true ∧ d.ff (fuClk 15) FuClk.RELOCK = true) ∧
    ((sFur 2 { ctest := some (0, 3, 100) }).dev.alive = true ∧ ((sFur 2 { ctest := some (0, 3, 100) }).dev.fur 15).ctest = some (0, 3, 100)) := by
  and_intros <;> decide +kernel

/-- A mismatch of the group of cells 60 to 62. -/
def mis : Mis := ⟨7, 60, 0, 0x100, 0, false, false, false⟩

theorem test_witness_LockstepOutcomesFollow :
    (let d := (sFur 3 { mis := [mis] }).dev; let x := d.fur 15
     d.alive = true ∧ (62 : Fin 64).val / 4 = 15 ∧ x.mis.find? (fun m => m.cells.testBit (62 % 4) && !m.done) = some mis ∧ (d.cell 60).loads = [] ∧
       (d.cell 60).stores = [] ∧ d.txCopying 60 = false) ∧
    (let x := ((sFur 3 { mis := [{ mis with done := true }], arb := some (3, true) }).dev.fur 15)
     x.arb = some (3, true) ∧ x.turn = some { mis with done := true } ∧ (0 : Fin 4).val ≠ 3 ∧ mis.cells.testBit 0 = true) ∧
    ((sFur 3 { resume := some mis }).dev.fur 15).resume = some mis ∧ ((sFur 3 { restart := some mis }).dev.fur 15).restart = some mis ∧
    (∀ n ∈ [0, 2], ∀ auto ∈ [0, 1], let d := (sFur n { mins := [(2, some 3)] }).dev.fp (fuPol 15) FuPol.AUTOJ auto
     let e := d.putFur 15 { d.fur 15 with mins := [] }
     let t := (e.spareCell 62).spareCell 63
     (62 : Fin 64).val / 4 = 15 ∧ (d.fur 15).mins.find? (fun q => decide (q.1 = 62 % 4)) = some (62 % 4, some 3) ∧
     t.ff (fuPol 15) FuPol.AUTOJ = decide (auto = 1) ∧ t.lowestRole 15 1 = if n = 0 then none else some 0) ∧
    (let x := s1.dev; ((x.putFur 15 { restart := some mis }).fp fcRec FcRec.LIMIT 0).recover.1 = false ∧
      ((x.putFur 15 { restart := some mis }).fp fcRec FcRec.LIMIT 15).recover.1 = true) ∧
    (∀ l ∈ [[], [(aliasOf 60 + 5, (3 : BitVec 80))]],
      let s : State := { sFur 3 {} with mem := { cells := [(aliasOf 60 + 5, 9)], fills := [], flips := l } }
      (s.copyChecked 60).1 = decide (l ≠ [])) ∧
    (∀ c ∈ [1, 2, 3], let q : FurCmd := { cmd := c, src := 0, tgt := 4 }
     let d := (sFur 3 { cmd := some q }).dev
     let d := [60, 62].foldl (fun d k => d.putCell k { d.cell k with quiet := true }) d
     (d.fur 15).cmd = some q ∧ q.copy = false ∧ (d.cmdCells 15 q).all (fun c => d.drainedCell c) = true ∧ q.auto = 0) ∧
    (let q : FurCmd := { cmd := 2, src := 0, tgt := 8, copy := true }; ((sFur 3 { cmd := some q }).dev.fur 15).cmd = some q ∧ q.copy = true ∧ q.auto = 0) := by
  and_intros <;> decide +kernel

theorem test_witness_FaultsReactAndTheFaultStateEnds :
    (∀ k ∈ [0, 159, 191], let d := s1.dev.pulseSrc k 0
     d.alive = true ∧ lowestBit (d.srcPulse k) 64 = some 0 ∧ d.fg (fcCnt (k / 4)) (cntSpan k) < 510 ∧
     (let e := (({ d with pulse := Tab.set 0 d.pulse k 0 } : Dev).latch (fcPend (k / 32)) FcPend.PEND (k % 32))
      let g := (e.fp (fcCnt (k / 4)) (cntSpan k) (e.fg (fcCnt (k / 4)) (cntSpan k) + 1)).firstFault k 0 (d.faultClass k)
      e.fg (fcCnt (k / 4)) (cntSpan k) < 510 ∧ g.fg (fcCnt (k / 4)) (cntSpan k) < 510)) ∧
    (let d := ((s1.dev.fp (fcCls 0) (clsSpan 0) 1).pulseSrc 0 0).pulseSrc 191 0
     lowestBit (d.srcPulse 191) 64 = some 0 ∧ lowestBit (d.srcPulse 0) 64 = some 0 ∧ d.faultClass 0 < d.faultClass 191 ∧
     d.fills 191 = false ∧ d.fills 0 = false) ∧
    (∀ c < 4, let d := s1.dev.fp (fcCls 0) (clsSpan 0) c; d.faultClass 0 = c) ∧ 4 ≤ s1.dev.faultClass 191 ∧
    lowestBit (s1.dev.srcPulse 191) 64 = none ∧ (s1.dev.unitHere 157 1 = true ∧ 157 ≠ 153) ∧
    ((s1.dev.raiseSrc 157 1).srcLevel 157).testBit 1 = true ∧
    (let d := (({ s1.dev with tick := 60000000000, fc := { s1.dev.fc with quietAt := 0 } } : Dev).fp fcStat FcStat.FSTATE 1).fp fcRec FcRec.AUTO 1
     let d := d.fp fcRec FcRec.LIMIT 15
     d.alive = true ∧ d.quietOver = true ∧ d.ff fcRec FcRec.AUTO = true ∧ d.recover.1 = true) ∧
    (let d := ((({ s1.dev with tick := 60000000000, fc := { s1.dev.fc with quietAt := 0 } } : Dev).fp fcStat FcStat.FSTATE 1).fp fcRec FcRec.AUTO 1).fp
       fcRec FcRec.CNT 15
     d.quietOver = true ∧ d.recover.1 = false) ∧
    (let d := ({ s1.dev with tick := 6000000000 * 10080 } : Dev).fp fcRec FcRec.CNT 1
     d.alive = true ∧ d.fg fcRec FcRec.CNT ≠ 0 ∧ d.fc.winAt + min 10080 (max 1 (d.fg fcRec FcRec.WIN)) * 6000000000 ≤ d.fc.base + d.tick) ∧
    s1.reaches who fcRec = true ∧ s1.reaches who fcStat = true := by
  and_intros <;> decide +kernel

theorem test_witness_FeedAndSelfChecksAct :
    (s1.reaches who fcFeed = true ∧ s1.dev.ioPl who = 2 ∧ s1.dev.ioPart who = s1.dev.fg fcCtl FcCtl.FEEDP ∧ s1.dev.fc.feedAt = none ∧
      (if s1.dev.ff fcStat FcStat.NEXTK then 0xA5 else 0x5A) = 0x5A) ∧
    (let s := at' { x0 with st := stPL.put 0 1 }; s.reaches who fcFeed = true ∧ s.dev.ioPl who ≠ 2) ∧
    (let d := { s1.dev with tick := 10000000000, fc := { s1.dev.fc with feedAt := some 0 } }
     d.alive = true ∧ d.fc.feedAt = some 0 ∧ 0 + max 1 (d.fg fcFwin FcFwin.WMAX) * 100000 < d.fc.base + d.tick ∧ d.fc.warned = false) ∧
    (s1.reaches who fcSwf = true ∧ 2 ≤ s1.dev.ioPl who) := by
  and_intros <;> decide +kernel

/-- R477, R479: the check bits of a word of data 1 and of 2^71, and of half a word of 1, are the columns' own: an encoded word comes back as it went in,
and with one bit flipped it is corrected. -/
theorem test_check_code_word : checkWord (encodeWord 0x313233343536373839) = (0x313233343536373839, 0) := by decide +kernel
theorem test_check_code_one : flippedWord 0x313233343536373839 (BitVec.twoPow 80 71) = (0x313233343536373839, 1) := by decide +kernel
theorem test_check_code_two : flippedWord 0x313233343536373839 3 = (0x31323334353637383A, 2) := by decide +kernel
theorem test_check_code_io : flippedIo 0xF23456789 (BitVec.twoPow 43 42) = (0xF23456789, 1) ∧ flippedIo 1 3 = (2, 2) := by decide +kernel

theorem test_witness_WordsAreCheckedAndTested :
    s1.reaches who bCtl = true ∧
    (let d := s1.dev.fp bStat BStat.BUSY 1; d.ff bStat BStat.BUSY = true) ∧
    (let s := dv fun d => d.setRole 63 2 0
     let d := s.dev.wr bCtl (s.dev.newAt who bCtl (withField BCtl.GO 1 (loHalf (BCtl.UNIT.put (BCtl.TGT.put 0 0) 63))))
     s.reaches who bCtl = true ∧ s.dev.ff bStat BStat.BUSY = false ∧ (d.bistTarget (d.ioPart who) (d.ioPl who)).1.isSome = true) ∧
    (let d := s1.dev.wr bCtl (s1.dev.newAt who bCtl (withField BCtl.GO 1 (loHalf (BCtl.TGT.put 0 3))))
     (d.bistTarget (d.ioPart who) (d.ioPl who)).1 = none) ∧
    (let b : Bist := ⟨1, 15, (fsramOf 15, fsramOf 15 + 0x3FFFF), none, .const 0, none, false, true, none, 0⟩
     ({ s1.dev with bist := some b } : Dev).bist = some b ∧ s1.dev.alive = true ∧ firstOf b.fail none = none) ∧
    (let d := (sFur 3 {}).dev.fp bRot BRot.EN 1
     d.alive = true ∧ d.ff bRot BRot.EN = true ∧ d.ff bStat BStat.BUSY = false ∧ d.inFault = false ∧ d.spareFurrow = some 15) ∧
    ((sFur 3 { test := 8 }).dev.fur ((63 : Fin 64).val / 4)).test.testBit (63 % 4) = true ∧
    (let d := s1.dev.fp bScrub BScrub.EN 1; d.ff bScrub BScrub.EN = true ∧ recBase ≤ recBase + 0x3FFFFF ∧ recBase + 0x3FFFFF < recBase + 0x400000) ∧
    (let d := s1.dev.fp msCrub MsCrub.SEN 1
     ∀ a ∈ [isramOf 0, isramOf 64 - 1],
       d.ff msCrub MsCrub.SEN = true ∧ isramOf 0 ≤ a ∧ a < isramOf 64 ∧ d.cellHere ((a - isramOf 0) / 0x4000) = true ∧ d.targetOf a = none) := by
  and_intros <;> decide +kernel

/-- A word of a memory after the flips `f` of its bits: how many of them its check code found. -/
def struck (a : Nat) (f : BitVec 80) : Nat :=
  let s : State := { s1 with mem := { cells := [(isramOf 0, 9)], fills := [] }, dev := s1.dev.wr bScrub 0 }
  let x := s.strike a f
  (flippedWord (x.memWord a).1 (x.flipsAt a)).2

theorem test_witness_WordsAreCheckedAndTested_record : ([0, 1, 3] : List (BitVec 80)).map (struck recBase) = [0, 1, 2] := by decide +kernel
theorem test_witness_WordsAreCheckedAndTested_isram : ([0, 1, 3] : List (BitVec 80)).map (struck (isramOf 0)) = [0, 1, 2] := by decide +kernel

/-- The bank `w` is being measured. -/
def sBank (w : Word) : State := dv fun d => { d with rider := { d.rider with meas := true, bleed := true, bank := w } }

theorem test_witness_TheBankAndTheSupplyFollowTheirEvents :
    s1.reaches who drCtl = true ∧
    (let d := (sBank 0).dev; d.alive = true ∧ d.rider.meas = true ∧ d.rider.wait = false ∧ 4000000 < 4000001) ∧
    ({ s1.dev with rider := { s1.dev.rider with wait := true } } : Dev).rider.wait = true ∧
    (let c (us : Nat) := min (2 ^ 20 - 1) (200 * us / 2000)
     c 999 < 100 ∧ 100 ≤ c 1000 ∧ DrBank.VSET.get (0 : Word) < 2000 ∧
     (∀ p ∈ [(1, 4000000), (0xFFF, 1000)], let w : Word := fields [(p.1, 24), (2000, 11)]
       ((sBank w).dev.rider.bank = w ∧ p.2 ≤ 4000000 ∧ 100 ≤ c p.2 ∧ 2000 ≤ DrBank.VSET.get w ∧ (2000 ≤ vCharge w (c p.2) ↔ p.1 = 0xFFF)))) ∧
    (let d := { s1.dev with rider := { s1.dev.rider with bankOk := true } }
     d.alive = true ∧ d.rider.bankOk = true ∧ (d.fp drStat DrStat.CHG 1).ff drStat DrStat.CHG = true ∧ d.rider.meas = false ∧ d.rider.hold = false) ∧
    s1.dev.ff drStat DrStat.SHED = false ∧
    (∀ r ∈ [1, 2], let d := { (s1.dev.fp drStat DrStat.SHED 1) with rider := { s1.dev.rider with dram := r } }
     d.alive = true ∧ d.ff drStat DrStat.SHED = true ∧ d.rider.dram = r) ∧
    (let d := { s1.dev with boot := { on := false, step := 1 } }; d.boot.on = false ∧ d.boot.step = 1) ∧ s1.dev.boot.on = true := by
  and_intros <;> decide +kernel

/-- Step 15 of the shed plan waits, with operation `op` and argument `arg`. -/
def sShed (op arg : Nat) (x : Fur) : State := dv fun d => { d with rider := { d.rider with step := some (15, op, arg) }, furs := [(15, x)] }

theorem test_witness_TheShedPlanRunsItsSteps :
    (∀ op < 16, let d := (sShed op 0x8000 {}).dev; d.alive = true ∧ d.rider.step = some (15, op, 0x8000)) ∧
    (let d := (sShed 7 0x8000 {}).dev; ∀ f ∈ (bitsOf 0x8000 16).filter (fun f => d.furHere f), d.furBusy f = false) ∧
    (let d := (sShed 7 0x8000 { arb := some (0, false) }).dev; ∃ f ∈ (bitsOf 0x8000 16).filter (fun f => d.furHere f), d.furBusy f = true) := by
  and_intros <;> decide +kernel

theorem test_witness_SensorsThrottleAndTheDramIsKept :
    s1.dev.alive = true ∧ s1.dev.furHere 15 = true ∧ s1.dev.throttled 15 = false ∧
    (let d := (after (.junctionSensorRead 15 105) s1).dev; d.alive = true ∧ d.throttled 15 = true) ∧
    ∀ k < 16, Tab.get 0 s1.dev.refr ((63 : Fin 64).val / 16 * 16 + k) ≤ s1.dev.tick := by
  and_intros <;> decide +kernel

theorem test_witness_SluicesPermitByOneRegion :
    (let r : Req := { cls := 1, pl := 0, kind := .read, addr := 0x10 }
     r.cls ≠ 3 ∧ s1.dev.fg dbStat DbStat.STATE ≠ 3 ∧ (∃ a, s1.dev.gate 64 r = .permit a) ∧ ∃ g, (∀ q < 8, s1.dev.regionHas 64 q r.addr = true ↔ q = g) ∧ g < 8) := by
  refine ⟨by decide, by decide +kernel, ?_, 0, by decide +kernel, by decide⟩
  exact ⟨_, (by decide +kernel : s1.dev.gate 64 { cls := 1, pl := 0, kind := .read, addr := 0x10 } = .permit ⟨0, 36, false, false, 0⟩)⟩

theorem test_witness_SluiceRulesAreEdited :
    (∀ r ∈ [1, 2, 3], s1.reaches who (0x0A0000 + r + 8 * 98) = true) ∧ 2 ≤ s1.dev.ioPl who ∧
    (let s := at' { x0 with st := stPL.put 0 1 }; s.reaches who (0x0A0003 + 8 * 98) = true ∧ s.dev.ioPl who < 2) ∧
    SlAttr.EN.get (s1.dev.rd (slAttr 98 0)) ≠ 0 ∧ SlAttr.LK.get (s1.dev.rd (slAttr 98 0)) = 0 := by
  and_intros <;> decide +kernel

/-- Transmit ring 7 of port 0 has a descriptor `w` at its head, and port 0 is enabled. -/
def sRing (w : Word) : State :=
  let s := dv fun d => ((((d.fp (etCfg 0) EtCfg.EN 1).fp (trCfg 0 7) TrCfg.EN 1).fp (trTail 0 7) TrTail.TAIL 1).fp (trBase 0 7) TrBase.BASE dramBase)
  { s with mem := (s.mem.wr dramBase w).wr (dramBase + 1) 5 }

/-- The port may read the descriptor at HEAD. -/
def ringGoes (d : Dev) : Bool :=
  d.ethHere 0 && d.ff (etCfg 0) EtCfg.EN && decide (TrCfg.EN.get (d.rd (trCfg 0 7)) ≠ 0) && !(d.fg (etStat 0) EtStat.TRERR).testBit 7 &&
  !d.ff (trHead 0 7) TrHead.HELD && !(d.eth 0).ready.testBit 7 && decide (d.txHead 0 7 ≠ d.fg (trTail 0 7) TrTail.TAIL) && (!d.ethOff 0 || d.ff (etCfg 0) EtCfg.LDD) && !(d.prp && decide (0 = 1))

theorem test_witness_RingsSendOrHoldTheirFrames :
    (∀ a ∈ [trTail 1 7, rrTail 1 7, trCfg 1 7, rrCfg 1 7], s1.reaches who a = true) ∧ ringGoes s1.dev = false ∧
    (ringGoes (sRing 0).dev = true ∧ descAddr ((sRing 0).dev.rd (trBase 0 7)) ((sRing 0).dev.rd (trCfg 0 7)) ((sRing 0).dev.txHead 0 7) = dramBase ∧
      ((sRing 0).dmaRead {} 0 0 0 dramBase 2).1 = some ([0, 5], false) ∧ ((sRing 0x400000000000000000).dmaRead {} 0 0 0 dramBase 2).1 = some ([0x400000000000000000, 5], false) ∧
      ((sRing 0x600000000000000000).dmaRead {} 0 0 0 dramBase 2).1 = some ([0x600000000000000000, 5], false)) ∧
    (let s := (sRing 0).onDev (((sRing 0).dev.wr (slAttr 82 0) 0))
     ringGoes s.dev = true ∧ (s.dmaRead {} 0 0 0 dramBase 2).1.isNone = true) ∧
    (((sRing 0).dmaRead { path := 3 } 0 0 0 dramBase 2).1.map Prod.snd = some true ∧
      (let w : Word := fields [(64, 36)]
       (sRing 0).dev.fifoRoom 0 w = true ∧ ((sRing 0).dev.putEth 0 { fifo := [(7, 2048, 0)] }).fifoRoom 0 w = false)) ∧
    ((s1.dev.eth 1).wire = none ∧ ((s1.dev.putEth 1 { wire := some 7 }).eth 1).wire = some 7) ∧
    (s1.reaches who (trCmd 1 7) = true ∧ s1.dev.ff (trHead 1 7) TrHead.HELD = false ∧
      (s1.dev.fp (trHead 1 7) TrHead.HELD 1).ff (trHead 1 7) TrHead.HELD = true ∧ s1.dev.frameClaimed 1 7 (s1.dev.txHead 1 7) = false) := by
  decide +kernel

/-- A frame of 64 octets with a PRP trailer. -/
def frame : List (BitVec 8) := List.replicate 62 7 ++ [0x88, 0xFB]

theorem test_witness_FramesComeIn :
    (let f := frame.map BitVec.toNat; 60 ≤ f.length ∧ f.length ≤ 9216 ∧ octNum f 12 2 ≠ 0x8808) ∧
    (let d := s1.dev.fp (etCfg 1) EtCfg.EN 1
     let f := frame.map BitVec.toNat
     d.alive = true ∧ d.ethHere 1 = true ∧ d.ff (etCfg 1) EtCfg.EN = true ∧ d.ethOff 1 = false ∧ d.prp = false ∧ d.macsec 1 f = (some (f, false), d) ∧
       (d.headgate 1 f false 0 true 32).1.ring = none ∧ ((d.fp (hgDef 1) HgDef.ACC 1).headgate 1 f false 0 true 32).1.ring = some 0) ∧
    (let d := (s1.dev.fp (etCfg 0) EtCfg.EN 1).fp (etCfg 0) EtCfg.PRP 1
     let f := frame.map BitVec.toNat
     d.prp = true ∧ (d.prpTake f).1 = true ∧ ((d.prpTake f).2.prpTake f).1 = false) ∧
    (let d := (s1.dev.fp (msCfg 1) MsCfg.EN 1).fp (msCfg 1) MsCfg.VAL 2; (d.macsec 1 (frame.map BitVec.toNat)).1 = none) ∧
    (s1.dev.ff (etCfg 1) EtCfg.EN = false ∧ ({ s1.dev with rider := { s1.dev.rider with eth := 2 } } : Dev).ethOff 1 = true) := by
  and_intros <;> decide +kernel

theorem test_witness_SecureAndTimedPortsFollowTheirRegisters :
    (∀ a ∈ [msTxsa 1, ptAdd 1, ptStep 1], s1.reaches who a = true) ∧
    (let d := s1.dev
     let i := d.holdOf who (ptStep 1)
     let e := { d with holds := Tab.set ({} : Hold) d.holds i ⟨true, ptStep 1, 3⟩ }
     (Tab.get ({} : Hold) e.holds i).v = true ∧ (Tab.get ({} : Hold) e.holds i).addr = ptStep 1 ∧ (Tab.get ({} : Hold) d.holds i).v = false) ∧
    (let d := ({ s1.dev with tick := 1000000000000 } : Dev).fb (ptCtl 1) PtCtl.LOCK true
     d.alive = true ∧ (d.eth 1).addAt + max 1 (d.fg (ptCtl 1) PtCtl.LKTO) * 100000000 ≤ d.tick ∧ d.ff (ptCtl 1) PtCtl.LOCK = true) ∧
    s1.dev.ff (ptCtl 1) PtCtl.LOCK = false := by
  and_intros <;> decide +kernel

theorem test_witness_ResetsLeadToAStart :
    (s1.dev.boot.on = true ∧ ∀ n < 32, s1.dev.txState n = 4 → (s1.dev.txn n).done ≠ none) ∧
    (let d := (dv fun d => (d.fp (txStat 31) TxStat.STATE 4)).dev; d.boot.on = true ∧ ∃ n < 32, d.txState n = 4 ∧ (d.txn n).done = none) ∧
    ({ s1.dev with boot := { s1.dev.boot with on := false } } : Dev).boot.on = false ∧
    (let d := { s1.dev with boot := { s1.dev.boot with low := true } }; d.boot.on = true ∧ d.boot.low = true) ∧
    (let s := dv fun d => d.wr (ssKstat 3) (fields [(2, 34), (1, 32), (0x3FFF, 12)])
     s.reaches who btCmd = true ∧ s.dev.mayUpdate (s.dev.ioPart who) = true) ∧
    (s1.reaches who btCmd = true ∧ s1.dev.mayUpdate (s1.dev.ioPart who) = false) := by
  decide +kernel

/-- The machine during a start, at step `k`. -/
def sStart (k strap : Nat) : State :=
  State.reset.onDev { State.reset.dev with boot := { State.reset.dev.boot with step := k, strap := strap, cands := [1], slot := some 0 } }

theorem test_witness_AStartRunsItsStepsInOrder :
    (∀ k ∈ [2, 3, 4, 5, 6, 7, 8, 9, 10, 11, 12], (sStart k 0).dev.alive = true ∧ (sStart k 0).dev.boot.step = k ∧ (sStart k 0).dev.boot.slot = some 0) ∧
    (s1.dev.boot.step = 13 ∧ (sStart 6 0).dev.boot.strap = 0 ∧ (sStart 6 0).dev.boot.cands = [1] ∧
      ({ (sStart 6 0).dev with boot := { (sStart 6 0).dev.boot with cands := [] } } : Dev).boot.cands = []) ∧
    ((sStart 6 1).dev.boot.strap ≠ 0 ∧ (sStart 6 1).dev.boot.strap ≠ 2 ∧ (sStart 6 2).dev.boot.strap = 2 ∧ (sStart 6 2).dev.ff scStat ScStat.PROV = false ∧
      ((sStart 6 2).dev.fp scStat ScStat.PROV 1).ff scStat ScStat.PROV = true) := by
  decide +kernel

/-- Partition 0 may update, and a staging of `n` words at `dramBase` is in phase `p`. -/
def sStage (p n : Nat) (stop : Bool) : State :=
  let s := dv fun d => { (d.wr (ssKstat 3) (fields [(2, 34), (2, 32), (0x3FFF, 12)])) with
    boot := { d.boot with slot := some 0, stage := some { adr := dramBase, len := n, pl := 2, part := 0, trialn := 15, phase := p, stop := stop } } }
  { s with mem := s.mem.wr dramBase 5 }

theorem test_witness_StagingRunsItsPhases :
    (let s := dv fun d => { ((d.wr (ssKstat 3) (fields [(2, 34), (2, 32), (0x3FFF, 12)])).fp btStat BtStat.TRIAL 1) with boot := { d.boot with slot := some 0 } }
     s.reaches who btCmd = true ∧ s.dev.mayUpdate (s.dev.ioPart who) = true ∧ s.dev.boot.slot = some 0 ∧ s.dev.ff btStat BtStat.TRIAL = true ∧
       s.dev.hasRight (s.dev.ioPart who) rightUPDATE = true) ∧
    (s1.reaches who btCmd = true ∧ s1.dev.mayUpdate (s1.dev.ioPart who) = false ∧ s1.dev.hasRight (s1.dev.ioPart who) rightUPDATE = false) ∧
    (s1.dev.boot.stage = none ∧ s1.dev.alive = true) ∧
    ((sStage 1 1 false).dev.boot.stage ≠ none ∧ (sStage 5 1 true).dev.boot.stage ≠ none ∧ (sStage 2 1 true).dev.boot.stage ≠ none) ∧
    (let g : Stage := { adr := dramBase, len := 1, pl := 2, part := 0, trialn := 15, phase := 1 }
     (sStage 1 1 false).dev.boot.stage = some g ∧ ((sStage 1 1 false).bufRead g 0 1).1.isSome = true ∧
       (((sStage 1 1 false).onDev ((sStage 1 1 false).dev.wr (slAttr 82 0) 0)).bufRead g 0 1).1.isNone = true) := by
  decide +kernel

/-- The holder of a chain. -/
def holder : Holder := { role := 1, serial := 9, rights := 0x3FFF, notAft := 5, modulus := [1] }

theorem test_witness_SessionsOpenAndEnd :
    (let s := at' { x0 with st := 0 }; s.dev.ioPl who = 0 ∧ s.reaches who ssCmd = true) ∧
    (s1.reaches who ssCmd = true ∧ s1.dev.ioPl who ≠ 0 ∧ s1.dev.ioPart who ≠ 64 ∧ s1.dev.sec.check = none ∧ s1.dev.ssState 3 = 0 ∧
      s1.dev.sessionOf (s1.dev.ioPart who) = none) ∧
    (let s : State := { (dv fun d => (d.fp ssBuf SsBuf.ADR dramBase).fp ssLen SsLen.LEN 1) with mem := s1.mem.wr dramBase 5 }
     s.dev.fg ssBuf SsBuf.ADR = dramBase ∧ s.dev.fg ssLen SsLen.LEN = 1 ∧ (s.dmaRead {} 2 0 2 dramBase 1).1 = some ([5], false) ∧
       ((s.onDev (s.dev.wr (slAttr 82 0) 0)).dmaRead {} 2 0 2 dramBase 1).1.isNone = true ∧
       (({ s with mem := { s.mem with flips := [(dramBase, 3)] } } : State).dmaRead {} 2 0 2 dramBase 1).1.map Prod.snd = some true) ∧
    (let d := (s1.dev.fp (ssKstat 3) SsKstat.STATE 1)
     let e := { d with sec := { d.sec with holder := Tab.set none d.sec.holder 3 (some holder) } }
     e.ssState 3 = 1 ∧ Tab.get 0 e.sec.chalEnd 3 ≤ e.tick ∧ Tab.get none e.sec.holder 3 = some holder ∧ e.sessionOf 0 = none ∧ d.ssState 3 = 1 ∧ Tab.get none d.sec.holder 3 = none) ∧
    (let d := s1.dev.wr (ssKstat 2) (fields [(2, 34)]); (d.sessionOf 0).isSome = true) ∧
    s1.reaches who ssCfg = true ∧
    (let d := (s1.dev.fp (ssKstat 3) SsKstat.STATE 2).fp scTflr ScTflr.SEC 6
     let e := { d with sec := { d.sec with holder := Tab.set none d.sec.holder 3 (some holder) } }
     Tab.get none e.sec.holder 3 = some holder ∧ e.timely 0 holder.notAft = false ∧ e.ssState 3 = 2) ∧
    ({ s1.dev with sec := { s1.dev.sec with check := some (3, []) } } : Dev).sec.check = some (3, []) := by
  decide +kernel

/-- A job with operation `op` is the oldest. -/
def aJob (op mode len : Nat) : Job := ⟨0, op, 0, 1, mode, false, 0, false, dramBase, dramBase + 100, dramBase + 200, len, 0, 2, 0, none⟩

theorem test_witness_JobsWorkOnTheirBuffers :
    (∀ op < 20, ({ s1.dev with sec := { s1.dev.sec with jobs := [aJob op 0 16] } } : Dev).sec.jobs = [aJob op 0 16] ∧ (aJob op 0 16).op = op ∧
      (aJob op 0 16).done = none) ∧
    (3 < (aJob 1 4 16).mode ∧ (aJob 1 1 15).mode < 2 ∧ (aJob 1 1 15).len % 16 ≠ 0 ∧ (aJob 1 1 16).len % 16 = 0 ∧ (aJob 1 3 5).mode ≤ 3 ∧ ¬ (aJob 1 3 5).mode < 2) ∧
    (s1.dev.alive = true ∧ s1.dev.sec.jobs = []) := by
  decide +kernel

theorem test_witness_JobsActOnTheDeviceAndEnd :
    (∀ op ∈ [15, 16, 17, 18, 19], ({ s1.dev with sec := { s1.dev.sec with jobs := [aJob op 0 16] } } : Dev).sec.jobs = [aJob op 0 16] ∧ (aJob op 0 16).done = none) ∧
    (∀ e ∈ [0, 11], ({ s1.dev with sec := { s1.dev.sec with jobs := [{ aJob 0 0 16 with done := some e }] } } : Dev).sec.jobs = [{ aJob 0 0 16 with done := some e }]) ∧
    (s1.dev.sec.jobs = [] ∧ s1.dev.sec.ckBusy = none ∧ ({ s1.dev with sec := { s1.dev.sec with ckBusy := some [] } } : Dev).sec.ckBusy = some []) ∧
    s1.reaches who auExp = true ∧
    (let d := s1.dev
     (∀ n ∈ [0x021040000, 0x021040001], let pos (a : Nat) : Nat := (a - 0x021040000) / 12
       let e := pos (d.fg auExp AuExp.EXP)
       ((0x021040000 ≤ n ∧ (n - 0x021040000) % 12 = 0 ∧ pos n < 60074 ∧
         (pos n + 60074 - e) % 60074 ≤ (pos (d.fg auHead AuHead.HEAD) + 60074 - e) % 60074) ↔ n = 0x021040000))) := by
  decide +kernel

theorem test_witness_TamperAndDebugAct :
    (let d := (s1.dev.fp tpMesh TpMesh.LO 100).fp tpMesh TpMesh.HI 200
     let x (m : BitVec 18) (r : Bool) : TamperIn := ⟨[m, m, m, m], 0, r⟩
     s1.dev.alive = true ∧ (d.fp tpCfg TpCfg.MEN 15).alive = true ∧ lowestBit (d.tampered (d.tamperBad (x 100 false))) 7 = none ∧
       lowestBit (d.tampered (d.tamperBad (x 150 true))) 7 = some 6 ∧
       lowestBit ((d.fp tpCfg TpCfg.MEN 15).tampered ((d.fp tpCfg TpCfg.MEN 15).tamperBad (x 201 false))) 7 = some 0 ∧
       d.fg tpCfg TpCfg.FILT < (63 : BitVec 6).toNat ∧ (0 : BitVec 6).toNat ≤ d.fg tpCfg TpCfg.FILT) ∧
    s1.reaches who tpCmd = true ∧
    (let d := s1.dev.wr (ssKstat 3) (fields [(2, 34), (1, 32), (0x3FFF, 12)])
     d.tampered (d.fg tpStat TpStat.MESH + 16 * d.fg tpStat TpStat.SW + 64 * d.fg tpStat TpStat.ENV) = 0 ∧ d.hasRight 0 rightTAMPCLR = true ∧ d.auFree ≠ 0) ∧
    s1.dev.hasRight 0 rightTAMPCLR = false ∧
    (s1.dev.fg dbStat DbStat.STATE = 0 ∧ (s1.dev.fp dbStat DbStat.STATE 3).fg dbStat DbStat.STATE = 3) ∧
    (s1.dev.sec.tap.until' ≤ s1.dev.tick ∧ s1.dev.tick < (s1.dev.putTap { s1.dev.sec.tap with until' := 1 }).sec.tap.until') ∧
    (s1.dev.sec.tap.holder = none ∧ (s1.dev.putTap { s1.dev.sec.tap with holder := some holder }).sec.tap.holder = some holder) := by
  decide +kernel

/-- The debug state is `st`, the TAP has selected cell `n`, and cell 0's debug bits are as told. -/
def sTap (st n : Nat) (halted : Bool) : State :=
  let s := at' { x0 with halted := halted }
  s.onDev (((s.dev.fp dbStat DbStat.STATE st).putTap { s.dev.sec.tap with sel := n }))

theorem test_witness_TheTapReachesCellsAndMemory :
    ((sTap 0 0 false).dev.debugReaches ((sTap 0 0 false).dev.cell 0).part = false ∧ (sTap 0 0 false).dev.dbState = 0 ∧ (sTap 0 0 false).dev.alive = true) ∧
    (∀ b ∈ [false, true], let d := (sTap 2 0 b).dev
     d.alive = true ∧ d.debugReaches (d.cell (d.lead d.sec.tap.sel)).part = true ∧ d.cellHere 0 = true ∧ d.role 0 = 0 ∧ d.handsFree 0 = true ∧ d.walking 0 = false ∧
       (d.cell (d.lead 0)).halted = b ∧ d.dbState ≠ 0) ∧
    (let d := (sTap 2 0 false).dev.putFur 0 { arb := some (0, false) }; d.handsFree 0 = false) ∧
    (let d := (sTap 2 63 false).dev; d.debugReaches (d.cell (d.lead 63)).part = true ∧ d.role 63 ≠ 0 ∧ d.role 63 ≠ 1) ∧
    (let d := (sTap 2 0 false).dev
     let q := d.ask { cls := 2, pl := 2, req := 0, kind := .read, addr := dramBase }
     (match q.1 with | .permit _ => true | _ => false) = false) ∧
    (let d := (sTap 2 0 false).dev.fp (slAttr 82 0) SlAttr.DBG 1
     let q := d.ask { cls := 2, pl := 2, req := 0, kind := .write, addr := dramBase }
     (match q.1 with | .permit _ => true | _ => false) = true ∧ d.dramGone dramBase = false ∧
       ({ d with rider := { d.rider with dram := 2 } } : Dev).dramGone dramBase = true) := by
  decide +kernel

/-- Cell 0 at level `pl`, with cell record `x`. -/
def atPl (pl : Nat) (x : Cell) : State := at' { x with st := stPL.put 0 pl }

theorem test_witness_BundlesIssueTheirOps :
    s1.takes h0 ∧ (s1.ready 0 = true ∧ ({ h0 with stop := false } : OpHdr).stop = false ∧ h0.cal = .agree) ∧
    (endsBundle { h0 with pred := 7 } ∧ (s1.dev.cell 0).rf (7 : Fin 8).val = false) := by
  refine ⟨test_takes _ (by decide +kernel), ⟨by decide +kernel, rfl, rfl⟩, ⟨rfl, rfl⟩, by decide +kernel⟩

theorem test_witness_AluOpsWriteTheirResult : s1.takes h0 := test_takes _ (by decide +kernel)

theorem test_witness_ShiftsByTheirCount : s1.takes h0 ∧ 71 = (71 : Word).toNat % 128 ∧ 72 = (72 : BitVec 14).toNat % 128 := by
  refine ⟨test_takes _ (by decide +kernel), by decide, by decide⟩

theorem test_witness_FlagOpsSetTheFlags : s1.takes h0 := test_takes _ (by decide +kernel)
theorem test_witness_PredicateAndPartOpsWriteTheirResult : s1.takes h0 := test_takes _ (by decide +kernel)
theorem test_witness_MultiplyOpsAct : s1.takes h0 := test_takes _ (by decide +kernel)

/-- A long op in flight. -/
def long (f : Long) (a : BitVec 144) (b : Word) : LongE := ⟨f, 3, a, b, 0, 0, 0⟩

theorem test_witness_LongOpsStartAndComplete :
    s1.takes h0 ∧
    (∀ l ∈ [long .div 5 2, long .divt 5 0, long .divu 5 0, long .rem 5 0, long .divq 5 0, long .sqrtu 5 0, long .sqrtq 5 0, long .xmul 5 7, long .remut 5 1],
      let s := at' { x0 with longs := [l] }
      s.dev.alive = true ∧ s.dev.clockStopped 0 = false ∧ (s.dev.cell 0).closed = false ∧ (s.dev.cell 0).longs[0]? = some l) ∧
    ((long .xmult 5 7).a.toInt * (long .xmult 5 7).b.toInt < 2 ^ 143 ∧ -(2 ^ 143) ≤ (long .xmult 5 7).a.toInt * (long .xmult 5 7).b.toInt) ∧
    ¬ ((long .xmult (BitVec.ofNat 144 (2 ^ 142)) 2).a.toInt * (long .xmult (BitVec.ofNat 144 (2 ^ 142)) 2).b.toInt < 2 ^ 143) := by
  refine ⟨test_takes _ (by decide +kernel), by decide +kernel, by decide +kernel, by decide +kernel⟩

theorem test_witness_ControlOpsDirectTheCell :
    (∀ pl : Fin 3, (atPl pl.val { x0 with rdepth := 1 }).takes h0 ∧ ((atPl pl.val { x0 with rdepth := 1 }).dev.cell 0).pl = pl.val) ∧
    (let x := (s1.dev.cell 0); ¬ (x.rsw = true ∧ x.rdepth = 16)) ∧ ((atPl 2 { x0 with rdepth := 1 }).dev.cell 0).rdepth ≠ 0 ∧ (0 : Fin 4) ≠ 3 ∧
    s1.dev.brkHalts 0 = false := by
  refine ⟨fun pl => ⟨test_takes _ ?_, ?_⟩, by decide +kernel, by decide +kernel, by decide, by decide +kernel⟩
  · revert pl; decide +kernel
  · revert pl; decide +kernel

theorem test_witness_SystemOpsActAndWfeWakes :
    (∀ pl : Fin 3, (atPl pl.val x0).takes h0 ∧ ((atPl pl.val x0).dev.cell 0).pl = pl.val) ∧
    (let x := s1.dev.cell 0; (((x.rg 1).toNat : Int) + (0x1FFF : BitVec 14).toInt) % 2 ^ 36 < 0x8000) ∧ s1.dev.latched 0 = false ∧
    (s1.takes h0 ∧ (s1.onDev (s1.dev.fp (clEvt 0) ClEvt.LATCH 1)).takes h0 ∧ (s1.onDev (s1.dev.fp (clEvt 0) ClEvt.LATCH 1)).dev.latched 0 = true) ∧
    (let r := fpFlt 31
     s1.readable who r r = true ∧ (regDesc r).wide = false ∧ s1.reaches who r = true ∧ s1.dev.lockHit who r (loHalf ((s1.dev.cell 0).rg 1)) = false) ∧
    (let s := at' { x0 with wait := .wfe }; s.dev.alive = true ∧ s.dev.running 0 = true ∧ (s.dev.cell 0).closed = false ∧ (s.dev.cell 0).wait = .wfe) := by
  refine ⟨fun pl => ⟨test_takes _ ?_, ?_⟩, by decide +kernel, by decide +kernel, ⟨test_takes _ (by decide +kernel), test_takes _ (by decide +kernel), by decide +kernel⟩,
    by decide +kernel, by decide +kernel⟩
  · revert pl; decide +kernel
  · revert pl; decide +kernel

/-- R403: a threshold that LIVE has reached, and one that it has not. -/
theorem test_witness_SystemOpsActAndWfeWakes_waitc :
    s1.takes h0 ∧ 0 ≤ (s1.dev.rd (adLive 31) - (s1.dev.cell 0).rg 9).toInt ∧ ¬ 0 ≤ (s1.dev.rd (adLive 31) - (s1.dev.cell 0).rg 1).toInt ∧
    (s1.dev.rd (adConf 31) - (s1.dev.cell 0).rg 1).toInt ≤ 0 := by
  refine ⟨test_takes _ (by decide +kernel), by decide +kernel, by decide +kernel, by decide +kernel⟩

/-- R403: a WAITC whose threshold is reached ends with its bundle; one whose threshold is not reached waits at its own op address. -/
theorem test_waitc :
    (((after (.waitc h0 9 31 false false) s1).dev.cell 0).pc, ((after (.waitc h0 9 31 false false) s1).dev.cell 0).wait) = (0x101, .none) ∧
    ((after (.waitc h0 1 31 false false) s1).dev.cell 0).wait = .waitc 0x100 1 31 false false false 5 := by decide +kernel

theorem test_witness_SpecialRegistersMove :
    s1.takes h0 ∧ (atPl 1 x0).takes h0 ∧ (sprReadLevel (1 : Fin 128).val ≤ 2 ∧ ((atPl 1 x0).dev.cell 0).pl < sprReadLevel (3 : Fin 128).val) ∧
    (sprWriteLevel (1 : Fin 128).val ≤ 2 ∧ ((atPl 1 x0).dev.cell 0).pl < sprWriteLevel (3 : Fin 128).val) ∧
    (¬ ((s1.dev.cell 0).pl = 1 ∧ stPL.get ((s1.dev.cell 0).rg 1) = 2)) ∧
    (let x := (atPl 1 { x0 with g := [(1, stPL.put 0 2)] }).dev.cell 0; x.pl = 1 ∧ stPL.get (x.rg 1) = 2) := by
  refine ⟨test_takes _ (by decide +kernel), test_takes _ (by decide +kernel), by decide +kernel, by decide +kernel, by decide +kernel, by decide +kernel⟩

/-- An address in the DRAM. -/
def far : Word := 0x100000000

theorem test_witness_LoadsAndStoresIssue :
    s1.takes h0 ∧ (at' { x0 with g := [(1, far)] }).takes h0 ∧
    (let d := s1.dev; ((((d.cell 0).rg 1).toNat : Int) + (0x3FFF : BitVec 14).toInt) % 2 ^ 36 = 4 ∧ (d.ask (d.dataReq 0 2 .read 4 false)).1 = .permit ⟨0, 36, false, false, 0⟩) ∧
    (let d := (at' { x0 with g := [(1, far)] }).dev
     ((d.cell 0).rg 1).toNat = dramBase ∧ 0x4000 ≤ dramBase ∧ (d.orderOf 0 dramBase).2 = false ∧
       (d.ask (d.dataReq 0 2 .read dramBase false)).1 = .permit ⟨0, 36, false, false, 0⟩) ∧
    ((8 : Fin 16).val < 9 ∧ (3 : Fin 16).val < 4 ∧ (1 : Fin 16).val < 2) := by
  refine ⟨test_takes _ (by decide +kernel), test_takes _ (by decide +kernel), by decide +kernel, by decide +kernel, by decide⟩

/-- A load and a store on their way. -/
def ld (a : Nat) : LoadE := { addr := a, io := false, wid := .octet 8, sgn := true, d := 31, due := 2, bun := 0, depth := 0, pl := 2, sent := true, seq := 0 }
def sto (a : Nat) : StoreE := { addr := a, wid := .octet 8, val := 5, bun := 0, depth := 0, pl := 2, seq := 0 }

theorem test_witness_LoadsReturnAndStoresDrain :
    (∀ a ∈ [0, 0x3FFF, 0x100000000], let s := at' { x0 with loads := [ld a] }
     s.dev.alive = true ∧ (s.dev.cell 0).closed = false ∧ s.dev.clockStopped 0 = false ∧ (s.dev.cell 0).loads[0]? = some (ld a) ∧ (ld a).bad = false ∧
       s.dev.refreshing a = false ∧ s.dev.dramGone a = false ∧ (ld a).known = none ∧ (ld a).io = false ∧ (ld a).sent = true ∧ s.dev.loadTurn 0 (ld a) = true ∧ (ld a).cache = false) ∧
    (∀ l ∈ [{ ld 9 with io := true, known := some 7 }, { ld 9 with known := some 7 }, { ld 9 with known := some 7, poison := true },
        { ld 9 with bad := true }, { ld 0x100000000 with bad := true }],
      let s := at' { x0 with loads := [l] }
      (s.dev.cell 0).loads[0]? = some l ∧ (l.bad = true → s.dev.refreshing l.addr = false ∧ l.sent = true ∧ l.io = false)) ∧
    (let s := at' { x0 with loads := [ld 0x100000000] }
     let d : Dev := { s.dev with rider := { s.dev.rider with dram := 2 } }
     d.dramGone 0x100000000 = true ∧ d.alive = true ∧ d.loadTurn 0 (ld 0x100000000) = true) ∧
    (∀ a ∈ [0, 0x3FFF, 0x100000000], let s := at' { x0 with stores := [sto a] }
     (s.dev.cell 0).stores.find? (fun e => !e.sent) = some (sto a) ∧ s.dev.storeTurn 0 (sto a) = true ∧ s.dev.refreshing a = false ∧ s.dev.dramGone a = false ∧
       (s.dev.ask (s.dev.dataReq 0 2 .write a (decide ((sto a).wid ≠ .word)))).1 = .permit ⟨0, 36, false, false, 0⟩ ∧ (s.dev.cell 0).wayOf a = none ∧ (sto a).cache = false ∧
       s.flipsAt (busAddr 0 a) = 0) ∧
    (let s := (at' { x0 with stores := [sto 0x100000000] }).onDev ((at' { x0 with stores := [sto 0x100000000] }).dev.wr (slAttr 82 0) 0)
     (match (s.dev.ask (s.dev.dataReq 0 2 .write 0x100000000 true)).1 with | .permit _ => true | _ => false) = false ∧ s.dev.storeTurn 0 (sto 0x100000000) = true) ∧
    (s1.dev.targetOf (aliasOf 0 + 0x3FFF) = some (.localData 0) ∧ s1.dev.targetOf 0x100000000 = some .dram ∧ 0x4000 ≤ 0x100000000) ∧
    (let e := { sto 4 with sent := true }; let x := (at' { x0 with stores := [e] }).dev.cell 0; x.stores[0]? = some e ∧ e.fly = none ∧ x.walk = none) ∧
    (let e := { sto 4 with sent := true, fly := some 3, err := cDERR }; let s := at' { x0 with stores := [e] }; let x := s.dev.cell 0
     x.stores[0]? = some e ∧ s.dev.inTurn 0 e.addr 3 x.onWay = true ∧ e.err ≠ 0) ∧
    (∀ k ∈ [0, 0x7FFF], let i : IstE := ⟨k, 5, 0⟩; let x := (at' { x0 with ists := [i] }).dev.cell 0; x.ists = [i] ∧ i.at' ≤ x.bun) := by
  and_intros <;> decide +kernel

/-- A block op with `n` words to go, from 0x30 to 0x20. -/
def blk (f : Blk) (n : Nat) : BlkE := ⟨f, 10, 11, 12, 0x20, 0x30, BitVec.ofNat 72 n, 0x100, 0x100, 0, 1, none, false, none⟩

theorem test_witness_BlockOpsStepWordByWord :
    s1.takes h0 ∧ ((3 : Fin 32) ≠ 0 ∧ (1 : Fin 32) ≠ 0 ∧ (3 : Fin 32) ≠ 1) ∧
    (∀ f ∈ [Blk.bmov, .bmovd, .bfill, .crcb, .cmpb], ∀ n ∈ [1, 2], let s := at' { x0 with blk := some (blk f n) }; let x := s.dev.cell 0
     s.dev.alive = true ∧ s.dev.running 0 = true ∧ x.blk = some (blk f n) ∧ x.wait = .none ∧ x.walk = none ∧ x.late = false ∧ x.closed = false ∧ x.delay = none ∧
       x.s1On = false ∧ x.s2On = false ∧ x.loads = [] ∧ x.stores = [] ∧ (blk f n).v2.toNat % 2 ^ 36 ≠ 0 ∧ s.dev.role 0 ≠ 1 ∧
       (blk f n).dly = none ∧ (blk f n).lend = false ∧ (blk f n).trap = none) ∧
    (let s := at' { x0 with blk := some (blk .bmov 1) }; (s.onDev (s.dev.setRole 0 1 0)).dev.role 0 = 1 ∧ vectorBits 2 1 ≠ 0 ∧
      (s.onDev (s.dev.setRole 0 1 0)).dev.running 0 = true) ∧
    (∀ a ∈ [0x20, 0x30], (s1.cellWords 0 a 1 {}).2.1.testBit 0 = false) ∧
    (∀ k ∈ [Kind.read, .write], ∀ a ∈ [0x20, 0x30], (s1.dev.ask (s1.dev.dataReq 0 2 k a false)).1 = .permit ⟨0, 36, false, false, 0⟩) ∧
    (let m := (s1.mem.wr (aliasOf 0 + 0x20) 1).wr (aliasOf 0 + 0x30) 1
     m.rd (aliasOf 0 + 0x20) = m.rd (aliasOf 0 + 0x30) ∧ (m.wr (aliasOf 0 + 0x30) 2).rd (aliasOf 0 + 0x30) ≠ m.rd (aliasOf 0 + 0x20)) := by
  refine ⟨test_takes _ (by decide +kernel), by decide, by decide +kernel, by decide +kernel, by decide +kernel, by decide +kernel, by decide +kernel⟩

theorem test_witness_FetchesAndWalksReturn :
    (let s := at' { x0 with line := some ⟨0x020000000, 3, none⟩ }
     s.dev.alive = true ∧ (s.dev.cell 0).closed = false ∧ (s.dev.cell 0).line = some ⟨0x020000000, 3, none⟩ ∧ s.dev.clockStopped 0 = false ∧ s.dev.inTurn 0 0x020000000 3 (s.dev.cell 0).onWay = true ∧ s.dev.refreshing 0x020000000 = false ∧ s.dev.dramGone 0x020000000 = false) ∧
    (let s := (at' { x0 with pc := 0x020000008 }).onDev ((at' { x0 with pc := 0x020000008 }).dev.fp (clCfg 0) ClCfg.PFEN 1); let x := s.dev.cell 0
     s.dev.running 0 = true ∧ s.dev.ff (clCfg 0) ClCfg.PFEN = true ∧ x.s2On = false ∧ x.s1On = false ∧ 0x8000 ≤ x.pc ∧ x.pc < 2 ^ 36 ∧
       s.dev.opWord x.part x.pc = some 0x020000004 ∧ 4 ≤ 0x020000004 % 8 ∧ s.dev.opWord x.part ((x.pc + (16 - x.pc % 16)) % 2 ^ 36) = some 0x020000008 ∧ x.wlHolds 0x020000008 = false ∧ s.dev.role 0 ≠ 1 ∧ s.dev.clearTo 0 0x020000008 x.onWay = true ∧
       s.dev.refreshing 0x020000008 = false ∧ s.dev.dramGone 0x020000008 = false ∧
       (s.dev.ask (s.dev.dataReq 0 x.pl .prefetch 0x020000008 false)).1 = .permit ⟨0, 36, false, false, 0⟩) ∧
    (let w : Walk := { acc := 2, va := 0x9000, s1 := some (2, 0), rd := 0x100000000, fly := some 1 }
     let s := at' { x0 with walk := some w }; let x := s.dev.cell 0
     x.walk = some w ∧ w.fly = some 1 ∧ w.s1 = some (2, 0) ∧ w.s2 = none ∧ x.s2On = false ∧ s.dev.refreshing w.rd = false ∧ s.dev.dramGone w.rd = false ∧
       x.vec = none ∧ x.blk = none ∧ x.delay = none ∧ s.dev.role 0 ≠ 1 ∧ s.dev.inTurn 0 w.rd 1 x.onWay = true ∧ (s.dev.fur 0).haltW = 0 ∧ (s.dev.fur 0).clkW = none) ∧
    (let m := s1.mem.wr 0x100000000 (BitVec.ofNat 72 (2 ^ 71 + 0x10000))
     (m.rd 0x100000000).toNat / 2 ^ 70 = 2 ∧ badPage true true (m.rd 0x100000000) = false ∧ badPage false true (m.rd 0x100000000) = false) ∧
    ((s1.mem.wr 0x100000000 5).rd 0x100000000).toNat / 2 ^ 70 = 0 := by
  and_intros <;> decide +kernel

/-- R38, R478: a word that two flipped bits on its way spoil comes with its mark. -/
theorem test_spoiled_word :
    ([0, 3] : List (BitVec 80)).map (fun f => (({ s1 with mem := { cells := [(0x100000000, 5)], fills := [] } } : State).cellWords 0 0x100000000 1 { path := f }).2.1) =
      [0, 1] := by decide +kernel

/-- Events 5 and 7 are routed to cell 0, of priorities 3 and 9, and pending there. -/
def sEvent (x : Cell) (lvl : Nat) : State :=
  let s := at' { x with st := stIE.put (stPL.put 0 1) 1 }
  s.onDev (((s.dev.wr (ecRt 5) (fields [(1, 35), (3, 31), (lvl, 30)])).wr (ecRt 7) (fields [(1, 35), (9, 31), (lvl, 30)])).wr (ecPend 0 0) 0xA0)

theorem test_witness_BoundariesEnterTheHandler :
    (∀ lvl ∈ [0, 1], let s := sEvent x0 lvl; let x := s.dev.cell 0
     s.dev.alive = true ∧ s.dev.role 0 ≠ 1 ∧ x.dueCause = none ∧ s.dev.dueEvent 0 = some 7 ∧ x.blk = none ∧ x.wait = .none ∧ x.resume = false ∧ x.shadow = []) ∧
    (let q : HeldC := ⟨cDERR, 4, false, false, 0, 0, 0⟩
     let s := at' { x0 with held := [q] }; let x := s.dev.cell 0
     s.dev.atBoundary 0 = true ∧ x.dueCause = some q ∧ q.cause < 64 ∧ x.resume = false ∧ x.shadow = []) ∧
    (let n : EntryE := ⟨5, stIE.put (stPL.put 0 1) 1⟩
     let s := sEvent { x0 with entry := some n } 0
     (s.dev.cell 0).entry = some n ∧ s.dev.pick 0 n.st = some 7 ∧ s.dev.running 0 = true ∧ s.dev.fg (ecRt n.ev) EcRt.PRI < s.dev.fg (ecRt 7) EcRt.PRI ∧
       (s.dev.cell 0).pl = (if s.dev.ff (ecRt 7) EcRt.LVL then 2 else 1)) := by
  and_intros <;> decide +kernel

theorem test_witness_EventsReachTheirTargets : s1.reaches who ecDb = true ∧ s1.reaches who (ecRt 255) = true ∧ s1.reaches who 0x010803 = true ∧ s1.dev.ioPl who ≠ 0 ∧
    (let s := at' { x0 with st := 0 }; s.dev.ioPl who = 0 ∧ s.reaches who 0x010803 = true) := by decide +kernel

/-- R436: DROP discards the causes that the issuer's cell holds. -/
theorem test_drop : ((after (.drop who) (at' { x0 with held := [⟨cDERR, 4, false, false, 0, 0, 0⟩] })).dev.cell 0).held = [] := by decide +kernel

/-! The words of the worked examples of R356 and of the CRC over a sale record, and the NOP of R376. -/

theorem test_opWord_limm : bundleOf [0x23F2C0000, 0x80009A4C0] = some [{ k := .limm, slot := 1, d := 5, s1 := 2, imm := 0x9A4C0 }] := by decide +kernel
theorem test_opWord_crcb : bundleOf [0xC10190A04] = some [{ k := .blk .crcb, slot := 2, d := 3, s1 := 4, s2 := 5 }] := by decide +kernel
theorem test_opWord_xor : bundleOf [0x80018CC0A] = some [{ k := .alu .xor, slot := 0, d := 3, s1 := 3, s2 := 6 }] := by decide +kernel
theorem test_opWord_nop : bundleOf [0x800000000] = some [{ k := .alu .add, slot := 0 }] := by decide +kernel
/-- R390: a FUNC of LDWX above 3 is reserved. -/
theorem test_opWord_reserved : definedOp 0x40C000003 = true ∧ definedOp 0x40C000004 = false := by decide +kernel

end Sys2Proof.Tests
end

section
/-! The ops of a bundle that a cell takes at once, and a long op that completes: what the rules of chapter 10 say of the shifts (R379), the flags of
the A slot (R378) and the long ops (R385–R387). -/

namespace Sys2Proof.Machine

open Sys2Proof

/-! ### Shifts (R379) -/

theorem shlW_eq (a : Word) (n : Nat) : shlW a n = if 72 ≤ n then 0 else a <<< n := by
  split
  · exact BitVec.shiftLeft_eq_zero ‹_›
  · rfl

theorem shrW_eq (a : Word) (n : Nat) : shrW a n = if 72 ≤ n then 0 else a >>> n := by
  split
  · exact BitVec.ushiftRight_eq_zero ‹_›
  · rfl

/-- Every bit of the word is the sign bit. -/
def signWord (a : Word) : Word := if a.getLsbD 71 then BitVec.allOnes 72 else 0

theorem signWord_bit (a : Word) (i : Nat) (hi : i < 72) : (signWord a).getLsbD i = a.getLsbD 71 := by
  unfold signWord
  split
  · rename_i h
    rw [h, BitVec.getLsbD_allOnes, decide_eq_true hi]
  · rename_i h
    rw [Bool.eq_false_iff.2 h, BitVec.ofNat_eq_ofNat, BitVec.getLsbD_zero]

theorem sarW_eq (a : Word) (n : Nat) : sarW a n = if 72 ≤ n then signWord a else a.sshiftRight n := by
  split
  · rename_i hn
    apply BitVec.eq_of_getLsbD_eq
    intro i hi
    have hin : ¬ n + i < 72 := by omega
    rw [signWord_bit a i hi, sarW, BitVec.getLsbD_sshiftRight, if_neg hin, BitVec.msb_eq_getLsbD_last]
    simp [hi]
  · rfl

/-! ### Sums, differences and saturation as the flag ops compute them (R378) -/

theorem clampS_eq (i : Int) : clampS i = BitVec.ofInt 72 (max (-(2 ^ 71)) (min (2 ^ 71 - 1) i)) := by
  have hm : minS = -(2 ^ 71) := rfl
  have hM : maxS = 2 ^ 71 - 1 := rfl
  unfold clampS ofInt
  split
  · congr 1; omega
  · split <;> (congr 1; omega)

theorem ofNat_toNat_add (a b : Word) (k : Nat) : BitVec.ofNat 72 (a.toNat + b.toNat + k) = a + b + BitVec.ofNat 72 k := by
  simp only [BitVec.ofNat_add, BitVec.ofNat_toNat, BitVec.setWidth_eq]

theorem ofInt_sgn_sub (a b : Word) (k : Nat) : ofInt (sgn a - sgn b - k) = a - b - BitVec.ofNat 72 k := by
  simp only [ofInt, sgn, Int.sub_eq_add_neg, BitVec.ofInt_add, BitVec.ofInt_neg, BitVec.ofInt_toInt, BitVec.ofInt_natCast, BitVec.sub_eq_add_neg]

theorem addFlags_eq (f : Flags) (a b : Word) (k : Nat) : addFlags f a b k = (a + b + BitVec.ofNat 72 k,
    ⟨decide (2 ^ 72 ≤ a.toNat + b.toNat + k), outS (a.toInt + b.toInt + k), f.sv || outS (a.toInt + b.toInt + k), f.dz⟩) := by
  rw [← ofNat_toNat_add]; rfl

theorem subFlags_eq (f : Flags) (a b : Word) (k : Nat) : subFlags f a b k = (a - b - BitVec.ofNat 72 k,
    ⟨decide (a.toNat < b.toNat + k), outS (a.toInt - b.toInt - k), f.sv || outS (a.toInt - b.toInt - k), f.dz⟩) := by
  rw [← ofInt_sgn_sub]; rfl

/-- The same with no carry in: ADDF. -/
theorem addFlags_zero (f : Flags) (a b : Word) : addFlags f a b 0 = (a + b,
    ⟨decide (2 ^ 72 ≤ a.toNat + b.toNat), outS (a.toInt + b.toInt), f.sv || outS (a.toInt + b.toInt), f.dz⟩) := by
  simp [addFlags_eq]

/-- The same with no borrow in: SUBF. -/
theorem subFlags_zero (f : Flags) (a b : Word) : subFlags f a b 0 = (a - b,
    ⟨decide (a.toNat < b.toNat), outS (a.toInt - b.toInt), f.sv || outS (a.toInt - b.toInt), f.dz⟩) := by
  simp [subFlags_eq]

theorem addSat_eq (f : Flags) (a b : Word) : addSat f a b = (BitVec.ofInt 72 (max (-(2 ^ 71)) (min (2 ^ 71 - 1) (a.toInt + b.toInt))),
    ⟨f.c, outS (a.toInt + b.toInt), f.sv || outS (a.toInt + b.toInt), f.dz⟩) := by
  rw [← clampS_eq]; rfl

theorem subSat_eq (f : Flags) (a b : Word) : subSat f a b = (BitVec.ofInt 72 (max (-(2 ^ 71)) (min (2 ^ 71 - 1) (a.toInt - b.toInt))),
    ⟨f.c, outS (a.toInt - b.toInt), f.sv || outS (a.toInt - b.toInt), f.dz⟩) := by
  rw [← clampS_eq]; rfl

/-! ### A bundle of one op that its cell takes at once -/

@[simp] theorem Cell.wg_st (x : Cell) (r : Nat) (v : Word) : (x.wg r v).st = x.st := by unfold Cell.wg; split <;> rfl
@[simp] theorem Cell.wf_st (x : Cell) (k : Nat) (b : Bool) : (x.wf k b).st = x.st := by unfold Cell.wf; split <;> rfl

/-- The cell that issues a bundle shows the change that its op makes. -/
theorem State.issued_cell (s : State) (c n : Nat) (f : Cell → Cell) :
    (s.issued c n f).dev.cell c = f { s.dev.cell c with pc := opAdd (s.dev.cell c).pc n, bun := (s.dev.cell c).bun + 1 } := by
  rw [State.issued, State.issuedOn, State.onDev_dev, Dev.wr_cell, id, Dev.putCell_cell]

section
variable {s : State} {h : OpHdr} (ht : s.takes h)
include ht

/-- An ALU op whose result and flags are known of the registers and the flags as they stand. -/
theorem State.takes_alu {f : Alu} {d s1 s2 : Nat} {r : Word} {fl : Flags}
    (hf : f.eval (flagsOf (s.dev.cell h.cell.val).st) ((s.dev.cell h.cell.val).rg s1) ((s.dev.cell h.cell.val).rg s2) = (r, fl)) :
    s.rowOp h { k := .alu f, slot := 0, d := d, s1 := s1, s2 := s2 } =
      s.issued h.cell.val 1 fun y => ({ y with st := putFlags (s.dev.cell h.cell.val).st fl } : Cell).wg d r := by
  obtain ⟨hr, he, hp⟩ := ht
  rw [State.rowOp_alu s h hr he hp]
  refine State.issued_congr _ _ _ _ _ ?_
  show ({ s.dev.cell h.cell.val with
    pc := _, bun := _, st := putFlags _ (f.eval _ ((s.dev.cell h.cell.val).rg s1) ((s.dev.cell h.cell.val).rg s2)).2 } : Cell).wg d
      (f.eval _ ((s.dev.cell h.cell.val).rg s1) ((s.dev.cell h.cell.val).rg s2)).1 = _
  rw [hf]

/-- An ALU op that leaves the flags writes its result alone. -/
theorem State.takes_alu_flagless {f : Alu} {d s1 s2 : Nat} {r : Word}
    (hf : f.eval (flagsOf (s.dev.cell h.cell.val).st) ((s.dev.cell h.cell.val).rg s1) ((s.dev.cell h.cell.val).rg s2) =
      (r, flagsOf (s.dev.cell h.cell.val).st)) :
    s.rowOp h { k := .alu f, slot := 0, d := d, s1 := s1, s2 := s2 } = s.issued h.cell.val 1 fun y => y.wg d r := by
  rw [State.takes_alu ht hf, putFlags_flagsOf]
  exact State.issued_congr _ _ _ _ _ rfl

theorem State.takes_aluI {f : AluI} {d s1 imm : Nat} {r : Word} (hf : f.eval ((s.dev.cell h.cell.val).rg s1) imm = r) :
    s.rowOp h { k := .aluI f, slot := 0, d := d, s1 := s1, imm := imm } = s.issued h.cell.val 1 fun y => y.wg d r := by
  obtain ⟨hr, he, hp⟩ := ht
  rw [State.rowOp_aluI s h hr he hp, ← hf]
  exact State.issued_congr _ _ _ _ _ rfl

/-- A long op starts with its operands as they stand (R385, R387). -/
theorem State.takes_long (f : Long) (d s1 s2 : Nat) :
    s.rowOp h { k := .long f, slot := 1, d := d, s1 := s1, s2 := s2 } = s.issued h.cell.val 1 fun y =>
      { y with
        longs := y.longs ++ [⟨f, d, (s.dev.cell h.cell.val).longArg f s1, (s.dev.cell h.cell.val).rg s2, (s.dev.cell h.cell.val).bun, y.depth, y.seq⟩]
        seq := y.seq + 1 } := by
  obtain ⟨hr, he, hp⟩ := ht
  rw [State.rowOp_long s h hr he hp]
  exact State.issued_congr _ _ _ _ _ rfl

end

/-! ### The ops of the A slot that leave ST (R378) -/

/-- The outcome is a next state in which cell `c` has the ST that it has in `s`. -/
def State.LeavesSt (s : State) (c : Nat) (o : Host.Outcome State Fault Refusal) : Prop :=
  ∃ t, o = .next t ∧ (t.dev.cell c).st = (s.dev.cell c).st

/-- A bundle leaves ST where its op's change of the cell does. -/
theorem State.leavesSt_issued {s t : State} {c n : Nat} {f : Cell → Cell} (hst : ∀ y, (f y).st = y.st) (ht : t = s.issued c n f) :
    s.LeavesSt c (.next t) :=
  ⟨t, rfl, by rw [ht, State.issued_cell, hst]⟩

section
variable {s : State} {h : OpHdr} (ht : s.takes h)
include ht

theorem State.leavesSt_alu {f : Alu} {d s1 s2 : Nat} (hf : ∀ fl a b, (f.eval fl a b).2 = fl) :
    s.LeavesSt h.cell.val (.next (s.rowOp h { k := .alu f, slot := 0, d := d, s1 := s1, s2 := s2 })) :=
  State.leavesSt_issued (fun y => Cell.wg_st y _ _) (State.takes_alu_flagless ht (Prod.ext rfl (hf _ _ _)))

theorem State.leavesSt_aluI {f : AluI} {d s1 imm : Nat} :
    s.LeavesSt h.cell.val (.next (s.rowOp h { k := .aluI f, slot := 0, d := d, s1 := s1, imm := imm })) :=
  State.leavesSt_issued (fun y => Cell.wg_st y _ _) (State.takes_aluI ht rfl)

theorem State.leavesSt_cmp {f : Cmp} {d s1 s2 : Nat} :
    s.LeavesSt h.cell.val (.next (s.rowOp h { k := .cmp f, slot := 0, d := d, s1 := s1, s2 := s2 })) :=
  have ⟨hr, he, hp⟩ := ht
  State.leavesSt_issued (fun y => Cell.wf_st y _ _) (State.rowOp_cmp s h hr he hp f d s1 s2)

theorem State.leavesSt_cmpI {f : Cmp} {d s1 imm : Nat} :
    s.LeavesSt h.cell.val (.next (s.rowOp h { k := .cmpI f, slot := 0, d := d, s1 := s1, imm := imm })) :=
  have ⟨hr, he, hp⟩ := ht
  State.leavesSt_issued (fun y => Cell.wf_st y _ _) (State.rowOp_cmpI s h hr he hp f d s1 imm)

theorem State.leavesSt_predf {f : PredFn} {d s1 s2 : Nat} :
    s.LeavesSt h.cell.val (.next (s.rowOp h { k := .predf f, slot := 0, d := d, s1 := s1, s2 := s2 })) :=
  have ⟨hr, he, hp⟩ := ht
  State.leavesSt_issued (fun y => Cell.wf_st y _ _) (State.rowOp_predf s h hr he hp f d s1 s2)

theorem State.leavesSt_mff {d : Nat} : s.LeavesSt h.cell.val (.next (s.rowOp h { k := .mff, slot := 0, d := d })) :=
  have ⟨hr, he, hp⟩ := ht
  State.leavesSt_issued (fun y => Cell.wg_st y _ _) (State.rowOp_mff s h hr he hp d)

theorem State.leavesSt_mtf {s1 : Nat} : s.LeavesSt h.cell.val (.next (s.rowOp h { k := .mtf, slot := 0, s1 := s1 })) :=
  have ⟨hr, he, hp⟩ := ht
  State.leavesSt_issued (f := fun y => y.take (.fAll ((y.rg s1).toNat % 256))) (fun _ => rfl) (State.rowOp_mtf s h hr he hp s1)

theorem State.leavesSt_part {f : Part} {d s1 s2 k : Nat} :
    s.LeavesSt h.cell.val (.next (s.rowOp h { k := .part f, slot := 0, d := d, s1 := s1, s2 := s2, imm := k })) :=
  have ⟨hr, he, hp⟩ := ht
  State.leavesSt_issued (fun y => Cell.wg_st y _ _) (State.rowOp_part s h hr he hp f d s1 s2 k)

end

/-! ### What the long ops compute (R385, R386) -/

theorem sgn_eq_zero (b : Word) : sgn b = 0 ↔ b = 0 := by
  rw [sgn, ← BitVec.toInt_zero (w := 72), BitVec.toInt_inj]; rfl

theorem quotW_ne (a : Int) {b : Int} (hb : b ≠ 0) : quotW a b = BitVec.ofInt 72 (max (-(2 ^ 71)) (min (2 ^ 71 - 1) (a.tdiv b))) := by
  rw [← clampS_eq]; exact if_neg hb

theorem quotW_zero (a : Int) : quotW a 0 = if 0 ≤ a then BitVec.ofInt 72 (2 ^ 71 - 1) else BitVec.ofInt 72 (-(2 ^ 71)) :=
  (if_pos rfl).trans (apply_ite ofInt _ _ _)

theorem quotS_ne (d : Nat) (a : Int) {b : Int} (hb : b ≠ 0) :
    quotS d a b = ⟨.g d (BitVec.ofInt 72 (max (-(2 ^ 71)) (min (2 ^ 71 - 1) (a.tdiv b)))), false, outS (a.tdiv b), 0⟩ := by
  simp only [quotS, quotW_ne a hb, ne_eq, hb, not_false_eq_true, decide_false, decide_true, Bool.true_and]

theorem quotS_zero (d : Nat) (a : Int) :
    quotS d a 0 = ⟨.g d (if 0 ≤ a then BitVec.ofInt 72 (2 ^ 71 - 1) else BitVec.ofInt 72 (-(2 ^ 71))), true, false, 0⟩ := by
  rw [← quotW_zero]; rfl

theorem longREM_ne (d : Nat) (a : Word) {b : Word} (hb : b ≠ 0) :
    longREM d a b = ⟨.g d (a - BitVec.ofInt 72 (max (-(2 ^ 71)) (min (2 ^ 71 - 1) ((sgn a).tdiv (sgn b)))) * b), false, false, 0⟩ := by
  rw [longREM, quotW_ne _ (mt (sgn_eq_zero b).1 hb), decide_eq_false hb]

theorem longREM_zero (d : Nat) (a : Word) : longREM d a 0 = ⟨.g d a, true, false, 0⟩ := by
  simp [longREM]

/-- A scaled dividend has the sign of the dividend. -/
theorem longDIVQ_zero (d : Nat) (a : Word) : longDIVQ d a 0 = longDIV d a 0 := by
  have hs : (0 ≤ sgn a * 2 ^ 24) = (0 ≤ sgn a) := by simp only [eq_iff_iff]; omega
  have h0 : sgn 0 = 0 := (sgn_eq_zero 0).2 rfl
  simp only [longDIVQ, longDIV, h0, quotS_zero, hs]

theorem longDIV_zero (d : Nat) (a : Word) :
    longDIV d a 0 = ⟨.g d (if 0 ≤ a.toInt then BitVec.ofInt 72 (2 ^ 71 - 1) else BitVec.ofInt 72 (-(2 ^ 71))), true, false, 0⟩ := by
  rw [longDIV, (sgn_eq_zero 0).2 rfl, quotS_zero]; rfl

/-- The form of a divide that does not trap. -/
def Long.untrapped : Long → Long
  | .divt => .div | .divut => .divu | .remt => .rem | .remut => .remu | .divqt => .divq | f => f

/-- A trapping divide does what its other form does where the divisor is not zero. -/
theorem Long.run_untrapped (f : Long) (d : Nat) (a : BitVec 144) {b : Word} (hb : b ≠ 0) : f.run d a b = f.untrapped.run d a b := by
  cases f with
  | divt | divut | remt | remut | divqt => exact if_neg hb
  | _ => rfl

/-- Either form of a divide, of a divisor that is not zero. -/
theorem Long.run_either {f g t : Long} {d : Nat} {a : BitVec 144} {b : Word} (hf : f = g ∨ f = t) (ht : t.untrapped = g) (hb : b ≠ 0) :
    f.run d a b = g.run d a b := by
  rcases hf with rfl | rfl
  · rfl
  · rw [Long.run_untrapped _ d a hb, ht]

/-- A trapping form takes the flags of its other form's division by zero. -/
theorem trapDiv_zero {r : LongR} {e : Eff} (hr : r = ⟨e, true, false, 0⟩) : trapDiv 0 r = ⟨e, true, false, 0x0D⟩ := by
  rw [hr]; rfl

/-- A trapping divide by zero sets DZ and has the divide exception (R386). -/
theorem Long.run_trap {f : Long} (hf : f.untrapped ≠ f) (d : Nat) (a : BitVec 144) : ∃ e, f.run d a 0 = ⟨e, true, false, 0x0D⟩ := by
  cases f with
  | divt => exact ⟨_, trapDiv_zero (longDIV_zero d _)⟩
  | divut => exact ⟨_, trapDiv_zero (if_pos rfl)⟩
  | remt => exact ⟨_, trapDiv_zero (longREM_zero d _)⟩
  | remut => exact ⟨_, trapDiv_zero (if_pos rfl)⟩
  | divqt => exact ⟨_, trapDiv_zero ((longDIVQ_zero d _).trans (longDIV_zero d _))⟩
  | _ => exact absurd rfl hf

theorem longXMULT_in (d : Nat) (a : BitVec 144) (b : Word) (hp : -(2 ^ 143) ≤ a.toInt * b.toInt ∧ a.toInt * b.toInt < 2 ^ 143) :
    longXMULT d a b = longXMUL d a b :=
  if_neg (by unfold sgn; omega)

theorem longXMULT_out (d : Nat) (a : BitVec 144) (b : Word) (hp : ¬ (-(2 ^ 143) ≤ a.toInt * b.toInt ∧ a.toInt * b.toInt < 2 ^ 143)) :
    longXMULT d a b = { longXMUL d a b with exc := 0x0E } :=
  if_pos (by unfold sgn; omega)

/-- The root that is built bit by bit: from `r` on, whose square does not exceed `x`, with `n` bits to come. -/
theorem isqrt_spec (x n r : Nat) (hlo : r * r ≤ x) (hhi : x < (r + 2 ^ n) * (r + 2 ^ n)) :
    isqrt x n r * isqrt x n r ≤ x ∧ x < (isqrt x n r + 1) * (isqrt x n r + 1) := by
  induction n generalizing r with
  | zero => exact ⟨hlo, hhi⟩
  | succ n ih =>
    unfold isqrt
    split
    · rename_i hbit
      refine ih _ hbit ?_
      rwa [Nat.add_assoc, ← Nat.two_mul, ← Nat.pow_succ']
    · rename_i hbit
      exact ih r hlo (Nat.lt_of_not_le hbit)

/-- The root of a number of `2 * n` bits. -/
theorem isqrt_zero_spec (x n : Nat) (hx : x < 2 ^ (2 * n)) : isqrt x n 0 * isqrt x n 0 ≤ x ∧ x < (isqrt x n 0 + 1) * (isqrt x n 0 + 1) :=
  isqrt_spec x n 0 (Nat.zero_le x) (by rwa [Nat.zero_add, ← Nat.pow_add, ← Nat.two_mul])

/-! ### A long op that completes (R386, R387) -/

/-- The cell in which the long op `l` is no longer in flight, with the sticky bits of its result `r`. -/
def Cell.longEnds (x : Cell) (l : LongE) (r : LongR) : Cell := ({ x with longs := x.longs.filter fun q => decide (q.seq ≠ l.seq) } : Cell).sticky r

@[simp] theorem Cell.wg_closed (x : Cell) (r : Nat) (v : Word) : (x.wg r v).closed = x.closed := by unfold Cell.wg; split <;> rfl
@[simp] theorem Cell.wf_closed (x : Cell) (k : Nat) (b : Bool) : (x.wf k b).closed = x.closed := by unfold Cell.wf; split <;> rfl
theorem Cell.wp_mod (x : Cell) (k : Nat) (v : BitVec 144) : x.wp (k % 4) v = x.wp k v := by unfold Cell.wp; rw [Nat.mod_mod]

theorem Cell.take_closed (x : Cell) (e : Eff) : (x.take e).closed = x.closed := by
  cases e with
  | g r v => exact Cell.wg_closed x r v
  | f r b => exact Cell.wf_closed x r b
  | _ => rfl

/-- A held cause leaves the bundle that its cell has taken in. -/
theorem Dev.hold_closed (d : Dev) (c : Nat) (q : HeldC) : ((d.hold c q).cell c).closed = (d.cell c).closed := by
  rw [Dev.hold, Dev.heldSync, Dev.fp, Dev.wr_cell, Dev.putCell_cell]

theorem State.pump_open (s : State) (c : Nat) (h : (s.dev.cell c).closed = false) : s.pump c = s := if_neg (by simp [h])

section
variable {s : State} {c : Fin 64} {idx : Nat} {l : LongE} (ha : s.dev.alive = true) (hk : s.dev.clockStopped c = false)
  (hc : (s.dev.cell c).closed = false) (hl : (s.dev.cell c).longs[idx]? = some l)
include ha hk hc hl

/-- A long op with no exception: its cell takes its result and its sticky bits. -/
theorem exec_longOpComplete_takes {r : LongR} (hr : l.f.run l.d l.a l.b = r) (hx : r.exc = 0) :
    exec (.longOpComplete c idx) s = .next (s.cellDoes c fun x => (x.longEnds l r).take r.eff) := by
  show Host.Outcome.next (s.liveS fun s => s.longComplete c idx) = _
  rw [State.liveS_of _ _ ha, State.longComplete]
  simp only [hk, Bool.false_eq_true, if_false, hl, hr, hx, if_true]
  exact congrArg Host.Outcome.next (State.pump_open _ _ ((congrArg Cell.closed (Dev.putCell_cell ..)).trans ((Cell.take_closed _ _).trans hc)))

/-- A long op with an exception: its cell takes its sticky bits, and holds the cause. -/
theorem exec_longOpComplete_holds {r : LongR} (hr : l.f.run l.d l.a l.b = r) (hx : r.exc ≠ 0) :
    exec (.longOpComplete c idx) s =
      .next (s.onDev ((s.dev.putCell c ((s.dev.cell c).longEnds l r)).hold c ⟨r.exc, 0, false, false, l.bun, l.depth, l.seq⟩)) := by
  show Host.Outcome.next (s.liveS fun s => s.longComplete c idx) = _
  rw [State.liveS_of _ _ ha, State.longComplete]
  simp only [hk, Bool.false_eq_true, if_false, hl, hr, hx]
  exact congrArg Host.Outcome.next (State.pump_open _ _ ((Dev.hold_closed ..).trans ((congrArg Cell.closed (Dev.putCell_cell ..)).trans hc)))

end

/-! ### The statements -/

/-- Settles O34: each shift is its function of the operand and the count, and a count of 72 or more empties the word or spreads its sign. -/
theorem shiftsByTheirCount : Obligations.ShiftsByTheirCount := by
  intro s h ht d s1 s2 imm x sign n
  refine ⟨?_, ?_⟩
  · rintro rfl
    refine ⟨?_, ?_, ?_⟩
    · exact congrArg Host.Outcome.next (State.takes_alu_flagless ht (congrArg (·, _) (shlW_eq _ _)))
    · exact congrArg Host.Outcome.next (State.takes_alu_flagless ht (congrArg (·, _) (shrW_eq _ _)))
    · exact congrArg Host.Outcome.next (State.takes_alu_flagless ht (congrArg (·, _) (sarW_eq _ _)))
  · rintro rfl
    refine ⟨?_, ?_, ?_⟩
    · exact congrArg Host.Outcome.next (State.takes_aluI ht (shlW_eq _ _))
    · exact congrArg Host.Outcome.next (State.takes_aluI ht (shrW_eq _ _))
    · exact congrArg Host.Outcome.next (State.takes_aluI ht (sarW_eq _ _))

/-- Settles O35: a flag op writes its result and its flags together, and every other op of the slot writes a G or an F register alone. -/
theorem flagOpsSetTheFlags : Obligations.FlagOpsSetTheFlags := by
  intro s h ht d s1 s2 fd f1 f2 imm k9 k4 k2 x a b cin ovf sat set goes
  refine ⟨congrArg Host.Outcome.next (State.takes_alu ht (addFlags_zero _ _ _)), congrArg Host.Outcome.next (State.takes_alu ht (addFlags_eq _ _ _ _)),
    congrArg Host.Outcome.next (State.takes_alu ht (subFlags_zero _ _ _)), congrArg Host.Outcome.next (State.takes_alu ht (subFlags_eq _ _ _ _)),
    congrArg Host.Outcome.next (State.takes_alu ht (addSat_eq _ _ _)), congrArg Host.Outcome.next (State.takes_alu ht (subSat_eq _ _ _)), ?_⟩
  show ∀ i ∈ _, s.LeavesSt h.cell.val (exec i s)
  refine List.forall_mem_append.2 ⟨List.forall_mem_append.2 ⟨List.forall_mem_append.2 ⟨?_, ?_⟩, ?_⟩, ?_⟩
  · iterate 17 refine List.forall_mem_cons.2 ⟨State.leavesSt_alu ht fun _ _ _ => rfl, ?_⟩
    exact List.forall_mem_nil _
  · iterate 8 refine List.forall_mem_cons.2 ⟨State.leavesSt_aluI ht, ?_⟩
    iterate 7 refine List.forall_mem_cons.2 ⟨State.leavesSt_cmp ht, ?_⟩
    exact List.forall_mem_nil _
  · iterate 6 refine List.forall_mem_cons.2 ⟨State.leavesSt_cmpI ht, ?_⟩
    iterate 5 refine List.forall_mem_cons.2 ⟨State.leavesSt_predf ht, ?_⟩
    exact List.forall_mem_cons.2 ⟨State.leavesSt_mff ht, List.forall_mem_cons.2 ⟨State.leavesSt_mtf ht, List.forall_mem_nil _⟩⟩
  · iterate 13 refine List.forall_mem_cons.2 ⟨State.leavesSt_part ht, ?_⟩
    exact List.forall_mem_nil _

/-- Settles O38: a long op in flight holds the operands of its issue, and its completion takes what `Long.run` makes of them. -/
theorem longOpsStartAndComplete : Obligations.LongOpsStartAndComplete := by
  refine ⟨?_, ?_⟩
  · intro s h ht d s1 s2 pd ps x starts a b
    have go := fun f d s1 s2 => congrArg (Host.Outcome.next (φ := Fault) (ρ := Refusal)) (State.takes_long ht f d s1 s2)
    exact ⟨go .xmul _ _ _, go .xmult _ _ _, go .div _ _ _, go .divu _ _ _, go .rem _ _ _, go .remu _ _ _, go .divq _ _ _, go .divt _ _ _,
      go .divut _ _ _, go .remt _ _ _, go .remut _ _ _, go .divqt _ _ _, go .sqrtu _ _ 0, go .sqrtq _ _ 0⟩
  · intro s c idx l ha hk hc hl a b sat out ored gives raises
    have writes {v : Word} {sv dz : Bool} (hr : l.f.run l.d l.a b = ⟨.g l.d v, dz, sv, 0⟩) : gives v sv dz :=
      exec_longOpComplete_takes (r := ⟨.g l.d v, dz, sv, 0⟩) ha hk hc hl hr rfl
    have holds {e : Eff} {dz : Bool} {cause : Nat} (hx : cause ≠ 0) (hr : l.f.run l.d l.a b = ⟨e, dz, false, cause⟩) : raises dz cause :=
      exec_longOpComplete_holds (r := ⟨e, dz, false, cause⟩) ha hk hc hl hr hx
    refine ⟨?_, ?_, ?_, ?_, ?_, ?_, ?_, ?_, ?_, ?_, ?_, ?_, ?_⟩
    -- divisions by a divisor that is not zero
    · exact fun hf hb => writes ((Long.run_either hf rfl hb).trans (quotS_ne _ _ (mt (sgn_eq_zero b).1 hb)))
    · exact fun hf hb => writes ((Long.run_either hf rfl hb).trans (quotS_ne _ _ (mt (sgn_eq_zero b).1 hb)))
    · exact fun hf hb => writes ((Long.run_either hf rfl hb).trans (if_neg hb))
    · exact fun hf hb => writes ((Long.run_either hf rfl hb).trans (longREM_ne _ _ hb))
    · exact fun hf hb => writes ((Long.run_either hf rfl hb).trans (if_neg hb))
    -- divisions by zero, of the forms that do not trap and of those that do
    · rintro (hf | hf) hb <;> refine writes ?_ <;> rw [hf, hb]
      · exact longDIV_zero _ _
      · exact (longDIVQ_zero _ _).trans (longDIV_zero _ _)
    · intro hf hb
      refine writes ?_
      rw [hf, hb]; rfl
    · rintro (hf | hf) hb <;> refine writes ?_ <;> rw [hf, hb]
      · exact longREM_zero _ _
      · rfl
    · intro hf hb
      have ht : l.f.untrapped ≠ l.f := by rcases hf with hf | hf | hf | hf | hf <;> rw [hf] <;> decide
      obtain ⟨e, he⟩ := Long.run_trap ht l.d l.a
      exact holds (by decide) (by rw [hb]; exact he)
    -- square roots
    · intro hf
      obtain ⟨hlo, hhi⟩ := isqrt_zero_spec a.toNat 36 a.isLt
      exact ⟨_, hlo, hhi, writes (by rw [hf]; rfl)⟩
    · intro hf
      obtain ⟨hlo, hhi⟩ := isqrt_zero_spec (a.toNat * 2 ^ 24) 48 (by have := a.isLt; omega)
      exact ⟨_, hlo, hhi, writes (by rw [hf]; rfl)⟩
    -- products, in range and out of range
    · intro hf
      have hr : l.f.run l.d l.a b = longXMUL l.d l.a b := by
        rcases hf with hf | ⟨hf, hp⟩ <;> rw [hf]
        · rfl
        · exact longXMULT_in _ _ _ hp
      rw [exec_longOpComplete_takes ha hk hc hl hr rfl]
      exact congrArg (fun F => Host.Outcome.next (s.cellDoes c F)) (funext fun _ => Cell.wp_mod _ _ _)
    · exact fun hf hp => holds (by decide) (by rw [hf]; exact longXMULT_out _ _ _ hp)

end Sys2Proof.Machine
end

section
namespace Sys2Proof.Machine
open Sys2Proof
/-! What every command leaves: a next state, the queue, and the canonical form of the memories. -/

theorem State.Keeps.powered (s : State) (f : Dev → Dev) : s.Keeps (s.powered f) := .ite (.onD _ _) (.refl _)
theorem State.Keeps.poweredS (s : State) (f : State → State) (h : s.Keeps (f s)) : s.Keeps (s.poweredS f) := .ite h (.refl _)

/-- Every command ends in a next state, which keeps the queue and the canonical form of the memories. The rows fall into a few forms. -/
theorem exec_keeps (i : Instr) (s : State) : ∃ t, exec i s = .next t ∧ s.Keeps t := by
  cases i with
  -- ops of a bundle
  | add | sub | addf | subf | adc | sbc | adds | subs | and | or | xor | andn | shl | shr | sar | rol | min | max | minu | maxu | clz | popc |
    abs | addi | andi | ori | xori | shli | shri | sari | roli | cmpiEq | cmpiNe | cmpiLt | cmpiGe | cmpiLtu | cmpiGeu | extb | extbs | insb |
    extq | extqs | insq | exth | exths | insh | beqm | bswap | ladd | lsub | cmpEq | cmpNe | cmpLt | cmpGe | cmpLtu | cmpGeu | tst | pand | por |
    pxor | pandn | pnot | mff | mtf | ldw | ldh | ldhs | ldq | ldqs | ldb | ldbs | stw | sth | stq | stb | ldwx | stwx | bmov | bmovd | bfill |
    crcb | cmpb | dcinv | dcinva | muls | mulu | macs | macu | msus | mull | mfph | mfpl | mtph | mtpl | mfpx | mfpxr | xmul | xmult | div | divu
    | rem | remu | divq | divt | divut | remt | remut | divqt | sqrtu | sqrtq | limm | br | call | jr | callr | ret | retx | loop | sysc | mfs |
    mts | ioIn | ioOut | ist | isync | fence | tlbiPageS1 | tlbiAllS1 | tlbiPageS2 | tlbiPartition | tlbiAll | sev | wfe | waitc | brk |
    reservedOp | tbegin | tsel | tsw | ttot | tpar | tsnap | tapp | tfrm | tcommit | tabort =>
    exact ⟨_, rfl, State.rowOp_keeps ..⟩
  -- register accesses
  | channelEnable | channelDisable | arm | disarm | chEnd | close | safe | clear | channelRetirementClear | tamperClear | domainEnable |
    domainDisable | zero | clrrev | snap | remeas | doorbell | drop | routeWrite | feed | iclr | cfClear | softwareDeviceFatal |
    softwareChannelFatal | bistGo | split | join | stop | spare | retire | cellRetirementClear | clockChange | ringTailWrite | ringEnable | rel |
    can | txsaWrite | ptpAddWrite | ptpStep | en | dis | restore | isol | txvPush | registerWrite | highHalfWrite | lowHalfWrite | sessOpen |
    prove | closeSession | idleLimitWrite | auditExportWrite | seqStart | regionEnable | regionLock | sluiceRuleWrite | stage | confirm | restart
    | abort | reloadnow | run | tmgo | kill | journalTailWrite =>
    exact ⟨_, rfl, State.rowWrite_keeps ..⟩
  | rxdRead | rcRead | lowHalfRead | highHalfRead =>
    exact ⟨_, rfl, State.rowRead_keeps ..⟩
  -- events of the device alone
  | interlock | clockFrequencyFault | pllLockLoss | crystalLoss | tamperResponse | extest | idcode | samplePreload | bypass | authChainWord |
    authChainEnd | authSignature | authSubmit | authExit | authChallenge | trst | cellSelect | debugHalt | reg | authLockoutEnd | fuseProgramming
    | conditionedLevelChange | domainPortTick | channelLoss | integrityFault | errorWindowEnd | stall | mainsZeroCrossing | mainsLock |
    mainsLockLoss | holdEnd | slotWriteArrival | slotAction | railOutOfRegulation | bankMeasurementEnd | chargeComplete | bankLeak | throttleStep
    | dramRefresh | rowClose | faultAssert | faultDeassert | recoveryWindowEnd | feedTimeout | feedWarning | safetyReadbackFault |
    oscillatorCrossCheck | fstopPulseTest | spareTestEnd | bucketRefill | lockTimeout | networkCheckEnd | openFault | shortFault | limitFault |
    envExit | chargeWindowEnd | railFault | loopFault | retryReturn | rcntClear | hitEnd | rtdConversionEnd | loopUpdate | uartTransmitEnd |
    uartReceive | chainCheckEnd | challengeTimeout | sessionIdleEnd | sessionExpiry | checkpointSigned | timeFloorRefresh | seqHalt | seqLdi |
    seqLdh | seqMov | seqAdd | seqSub | seqAnd | seqOr | seqXor | seqShl | seqShr | seqCmp | seqAddi | seqIn | seqOut | seqSett | seqWait |
    seqWaitEnd | seqWedg | seqWedgEdge | seqWedgTimeout | seqBr | seqDjnz | seqEvt | seqFlt | seqIllegal | drained | timerUnitTick | timerZero |
    compareWriteArrival | reloadWrite | strtTrigger | rstTrigger | gateTrigger | clkTrigger | pinAction | reservationGrant | prepDurable |
    applyPortTick | doneDurable | txTimeout | systemCommit =>
    exact ⟨_, rfl, .live ..⟩
  | junctionSensorRead | accountUpdate | warn | shedEnd | shedNote | abortw | chsafe | portoffl | portoffh | railoff | clkdn | park | dramoff |
    waitx =>
    exact ⟨_, rfl, .powered ..⟩
  | powerOnWeir | nresetRelease | railRegulation | spllLock | selfTest | journalReplay | firstApplicationBundle =>
    exact ⟨_, rfl, .onD ..⟩
  | unwindEnd | unwindTimeout | arbitrationTestEnd | groupResume | minorityTestEnd | quiesceEnd | quiesceDrainTimeout | relockEnd =>
    exact ⟨_, rfl, .liveS _ _ ((State.Keeps.onD ..).trans (State.pumpFur_keeps ..))⟩
  | groupRestart => exact ⟨_, rfl, .liveS _ _ ((State.groupRestart_keeps ..).trans (State.pumpFur_keeps ..))⟩
  | joinEnd => exact ⟨_, rfl, .liveS _ _ ((State.joinEnd_keeps ..).trans (State.pumpFur_keeps ..))⟩
  | hash => exact ⟨_, rfl, .liveS _ _ (State.jobWork_keeps _ _ _ fun _ => State.jobHash_keeps ..)⟩
  | enc | dec =>
    exact ⟨_, rfl, .liveS _ _ (State.jobWork_keeps _ _ _ fun _ => State.jobAes_keeps ..)⟩
  | cmac => exact ⟨_, rfl, .liveS _ _ (State.jobWork_keeps _ _ _ fun _ => State.jobCmac_keeps ..)⟩
  | sign => exact ⟨_, rfl, .liveS _ _ (State.jobWork_keeps _ _ _ fun _ => State.jobSign_keeps ..)⟩
  | verify => exact ⟨_, rfl, .liveS _ _ (State.jobWork_keeps _ _ _ fun _ => State.jobVerify_keeps ..)⟩
  | decrypt => exact ⟨_, rfl, .liveS _ _ (State.jobWork_keeps _ _ _ fun _ => State.jobDecrypt_keeps ..)⟩
  | random => exact ⟨_, rfl, .liveS _ _ (State.jobWork_keeps _ _ _ fun _ => State.jobRandom_keeps ..)⟩
  | genaes => exact ⟨_, rfl, .liveS _ _ (State.jobWork_keeps _ _ _ fun _ => State.jobGenAes_keeps ..)⟩
  | genrsa => exact ⟨_, rfl, .liveS _ _ (State.jobWork_keeps _ _ _ fun _ => State.jobGenRsa_keeps ..)⟩
  | unwrap => exact ⟨_, rfl, .liveS _ _ (State.jobWork_keeps _ _ _ fun _ => State.jobUnwrap_keeps ..)⟩
  | pubload => exact ⟨_, rfl, .liveS _ _ (State.jobWork_keeps _ _ _ fun _ => State.jobPubLoad_keeps ..)⟩
  | pubread => exact ⟨_, rfl, .liveS _ _ (State.jobWork_keeps _ _ _ fun _ => State.jobPubRead_keeps ..)⟩
  | delete => exact ⟨_, rfl, .liveS _ _ (State.jobWork_keeps _ _ _ fun _ => State.jobDelete_keeps ..)⟩
  | attest => exact ⟨_, rfl, .liveS _ _ (State.jobWork_keeps _ _ _ fun _ => State.jobAttest_keeps ..)⟩
  | idcert => exact ⟨_, rfl, .liveS _ _ (State.jobWork_keeps _ _ _ fun _ => State.jobIdCert_keeps ..)⟩
  | ckpt => exact ⟨_, rfl, .liveS _ _ (State.jobWork_keeps _ _ _ fun _ => State.jobCheckpoint_keeps ..)⟩
  | reseal => exact ⟨_, rfl, .liveS _ _ (State.jobWork_keeps _ _ _ fun _ => State.jobReseal_keeps ..)⟩
  | revoke => exact ⟨_, rfl, .liveS _ _ (State.jobWork_keeps _ _ _ fun _ => State.jobRevoke_keeps ..)⟩
  -- events that reach the memories
  | blockWordStep => exact ⟨_, rfl, .liveS _ _ (State.blockStep_keeps ..)⟩
  | loadReturn => exact ⟨_, rfl, .liveS _ _ (State.loadReturn_keeps ..)⟩
  | storeDrain => exact ⟨_, rfl, .liveS _ _ (State.storeDrain_keeps ..)⟩
  | storeAck => exact ⟨_, rfl, .liveS _ _ (State.storeAck_keeps ..)⟩
  | fetchLineReturn => exact ⟨_, rfl, .liveS _ _ (State.lineBack_keeps ..)⟩
  | codePrefetch => exact ⟨_, rfl, .liveS _ _ (State.prefetch_keeps ..)⟩
  | longOpComplete => exact ⟨_, rfl, .liveS _ _ (State.longComplete_keeps ..)⟩
  | istWrite => exact ⟨_, rfl, .liveS _ _ (State.istWrite_keeps ..)⟩
  | wfeWake => exact ⟨_, rfl, .liveS _ _ (State.wake_keeps ..)⟩
  | debugExit | io =>
    exact ⟨_, rfl, .liveS _ _ (State.tapIo_keeps ..)⟩
  | debugResume => exact ⟨_, rfl, .liveS _ _ (State.tapResume_keeps ..)⟩
  | debugStep => exact ⟨_, rfl, .liveS _ _ ((State.Keeps.onD ..).trans (State.pump_keeps ..))⟩
  | mem => exact ⟨_, rfl, .liveS _ _ (State.tapMem_keeps ..)⟩
  | isram => exact ⟨_, rfl, .liveS _ _ (State.tapIsram_keeps ..)⟩
  | waitcComplete => exact ⟨_, rfl, .liveS _ _ (State.waitcEnd_keeps ..)⟩
  | supplyReturn => exact ⟨_, rfl, .poweredS _ _ ((State.supplyReturn_keeps s).trans (State.pumpAll_keeps _))⟩
  | cut => exact ⟨_, rfl, (State.Keeps.onD ..).trans (State.powerCut_keeps _)⟩
  | foff => exact ⟨_, rfl, .poweredS _ _ (State.shedFoff_keeps s)⟩
  | ethoff => exact ⟨_, rfl, .poweredS _ _ (State.shedEth_keeps s)⟩
  | completionCause => exact ⟨_, rfl, .liveS _ _ (State.causeBoundary_keeps ..)⟩
  | eventEntry => exact ⟨_, rfl, .liveS _ _ (State.eventBoundary_keeps ..)⟩
  | takeover => exact ⟨_, rfl, .liveS _ _ (State.takeoverBoundary_keeps ..)⟩
  | walkReadReturn => exact ⟨_, rfl, .liveS _ _ (State.walkBack_keeps ..)⟩
  | faultRestart => exact ⟨_, rfl, .liveS _ _ (State.quietRestart_keeps ..)⟩
  | bistEnd => exact ⟨_, rfl, .liveS _ _ (State.bistEnd_keeps ..)⟩
  | spareTestVisit => exact ⟨_, rfl, .liveS _ _ (State.spareVisit_keeps ..)⟩
  | mramScrub => exact ⟨_, rfl, .liveS _ _ (State.mramScrub_keeps ..)⟩
  | patrolScrub => exact ⟨_, rfl, .liveS _ _ (State.patrol_keeps ..)⟩
  | caliperTest => exact ⟨_, rfl, .liveS _ _ (State.caliperTest_keeps ..)⟩
  | descriptorRead => exact ⟨_, rfl, .liveS _ _ (State.descRead_keeps ..)⟩
  | frameSent => exact ⟨_, rfl, .liveS _ _ (State.frameSent_keeps ..)⟩
  | frameReceived => exact ⟨_, rfl, .liveS _ _ (State.frameReceived_keeps ..)⟩
  | linkChange => exact ⟨_, rfl, .liveS _ _ (.ite (State.linkChange_keeps ..) (.refl s))⟩
  | jobEnd => exact ⟨_, rfl, .liveS _ _ (State.jobEnd_keeps ..)⟩
  | nreset => exact ⟨_, rfl, State.resetLow_keeps ..⟩
  | xspiInit => exact ⟨_, rfl, State.xspiUp_keeps ..⟩
  | slotChoice => exact ⟨_, rfl, State.chooseSlot_keeps ..⟩
  | bistAtStart => exact ⟨_, rfl, State.startBist_keeps ..⟩
  | sectionLoad => exact ⟨_, rfl, State.loadSections_keeps ..⟩
  | recordsApply => exact ⟨_, rfl, State.applyRecords_keeps ..⟩
  | bindingsApply => exact ⟨_, rfl, State.applyBindings_keeps ..⟩
  | stagingPhaseEnd => exact ⟨_, rfl, .liveS _ _ (State.stagePhase_keeps ..)⟩
  | tappCopyEnd => exact ⟨_, rfl, .liveS _ _ (State.tappEnd_keeps ..)⟩
  | markDurable => exact ⟨_, rfl, .liveS _ _ ((State.markDurable_keeps ..).trans (State.heldReset_keeps _))⟩

/-- Settles O2: the step of an empty queue leaves the machine as it is, and that of any other is a command's. -/
theorem everyStepKeepsTheMemories : Obligations.EveryStepKeepsTheMemories := by
  intro s hs
  match hp : s.pending with
  | [] => exact ⟨s, by rw [step, hp], hs, hp⟩
  | i :: rest =>
    obtain ⟨t, ht, hq, hm⟩ := exec_keeps i { s with pending := rest }
    exact ⟨t, by rw [step, hp]; exact ht, hm hs, hq⟩

end Sys2Proof.Machine
end

section
/-! What an access code makes of the written bits (R12, R16, R42): a bit of a field that stands apart from the others. -/

namespace Sys2Proof.Machine

open Sys2Proof

/-- Bit `j` lies in a field of the register that shares it with no other. -/
def RegDesc.alone (q : RegDesc) (f : Fld) (j : Nat) : Prop :=
  f ∈ q.fields ∧ f.span.mask.getLsbD j = true ∧ ∀ g ∈ q.fields, g ≠ f → g.span.mask.getLsbD j = false

/-- Under a mask by access codes lies a bit of a lone field where the mask takes the field's code. -/
theorem RegDesc.alone.mask {q : RegDesc} {f : Fld} {j : Nat} (h : q.alone f j) (p : Acc → Bool) : (q.mask p).getLsbD j = p f.acc := by
  obtain ⟨hf, hj, hne⟩ := h
  rw [RegDesc.mask_bit, Bool.eq_iff_iff, List.any_eq_true]
  constructor
  · rintro ⟨g, hg, hp⟩
    by_cases he : g = f
    · rw [he, hj, Bool.and_true] at hp; exact hp
    · simp [hne g hg he] at hp
  · exact fun hp => ⟨f, hf, by rw [hp, hj]; rfl⟩

theorem RegDesc.alone_of_apart {q : RegDesc} {f : Fld} (hf : f ∈ q.fields) (hs : f.span.lo ≤ f.span.hi) (hw : f.span.hi < 36)
    (ha : ∀ g ∈ q.fields, g ≠ f → g.span.lo ≤ g.span.hi ∧ g.span.hi < 72 ∧ (g.span.hi < f.span.lo ∨ f.span.hi < g.span.lo))
    {j : Nat} (hlo : f.span.lo ≤ j) (hhi : j ≤ f.span.hi) : q.alone f j := by
  refine ⟨hf, ?_, fun g hg hne => ?_⟩
  · rw [Span.mask_bit _ ⟨hs, by omega⟩]; exact decide_eq_true ⟨hlo, hhi⟩
  · obtain ⟨h1, h2, h3⟩ := ha g hg hne
    rw [Span.mask_bit _ ⟨h1, h2⟩]; exact decide_eq_false (by omega)

/-- A bit of a lone field after a write by anyone but the loader: what the field's access code sets is the written bit, what it clears is
cleared by a written one, and the rest stands. -/
theorem Dev.newAt_bit {d : Dev} {who : Requester} {r : Nat} {f : Fld} {j : Nat} (hwho : who ≠ .loader) (habs : ∀ w, d.absentFields r w = [])
    (h : (regDesc r).alone f j) (hj : j < 36) (v : Half) :
    (d.newAt who r v).getLsbD j =
      (((d.rd (d.ioKey who r)).getLsbD j && !f.acc.sets (d.regLocked r) false || (ofHalf v).getLsbD j && f.acc.sets (d.regLocked r) false) &&
        !((ofHalf v).getLsbD j && (f.acc == .w1c))) := by
  rw [Dev.newAt, Dev.keepAbsent, habs, List.foldl_nil, Dev.merged_bit _ _ _ _ _ _ _ (by omega), h.mask, h.mask, low_bit]
  simp [hwho, hj]

/-- A write that would change a field under its lock hits the lock (R16). -/
theorem Dev.lockHit_of_ne {d : Dev} {who : Requester} {r : Nat} {f : Fld} (hwho : who ≠ .loader) (hl : d.regLocked r = true)
    (hacc : f.acc = .rwl) (hw : f.span.hi < 36) (h : ∀ j, f.span.lo ≤ j → j ≤ f.span.hi → (regDesc r).alone f j) (v : Half)
    (hne : f.span.get (d.rd (d.ioKey who r)) ≠ f.span.get (ofHalf v)) : d.lockHit who r v = true := by
  simp only [Dev.lockHit, Dev.merged, hl, hwho, decide_false, Bool.not_false, Bool.and_self, Bool.true_and, decide_eq_true_eq]
  intro hz
  refine hne (Span.get_congr _ _ _ fun j hlo hhi => ?_)
  have hb := congrArg (fun w => BitVec.getLsbD w j) hz
  have hj : j < 36 := by omega
  rw [BitVec.getLsbD_and, BitVec.getLsbD_and, low_bit, (h j hlo hhi).mask, hacc, BitVec.getLsbD_xor] at hb
  simpa [hj] using hb

/-- Settles O6: bit by bit, by the access code of the field. -/
theorem fieldsFollowTheirAccessCodes : Obligations.FieldsFollowTheirAccessCodes := by
  intro d who r v f hwho hf hs hw ha habs old new put
  have alone : ∀ j, f.span.lo ≤ j → j ≤ f.span.hi → (regDesc r).alone f j := fun j => RegDesc.alone_of_apart hf hs hw ha
  have bit := fun j hlo hhi => Dev.newAt_bit hwho habs (alone j hlo hhi) (by omega) v
  have takes : f.acc.sets (d.regLocked r) false = true → (f.acc == .w1c) = false → new = put := fun h1 h2 =>
    Span.get_congr _ _ _ fun j hlo hhi => by rw [bit j hlo hhi, h1, h2]; simp
  have keeps : f.acc.sets (d.regLocked r) false = false → (f.acc == .w1c) = false → new = old := fun h1 h2 =>
    Span.get_congr _ _ _ fun j hlo hhi => by rw [bit j hlo hhi, h1, h2]; simp
  refine ⟨?_, ?_, ?_, ?_, ?_⟩
  · rintro (h | h) <;> exact takes (by rw [h]; rfl) (by rw [h]; rfl)
  · intro h
    cases hl : d.regLocked r
    · exact takes (by rw [h, hl]; rfl) (by rw [h]; rfl)
    · exact keeps (by rw [h, hl]; rfl) (by rw [h]; rfl)
  · exact fun h hl hne => Dev.lockHit_of_ne hwho hl h hw alone v hne
  · rintro (h | h | h) <;> exact keeps (by rw [h]; rfl) (by rw [h]; rfl)
  · intro h j
    simp only [new, old, put, Span.get_bit]
    by_cases hj : j < f.span.width
    · rw [bit _ (by omega) (by unfold Span.width at hj; omega), h]
      simp [Acc.sets, hj]
    · simp [hj]

end Sys2Proof.Machine
end

section
/-! Commands as their rows give them: an effect on the device or on the machine while the device is alive, a write of a register. -/

namespace Sys2Proof.Machine

open Sys2Proof

/-- The outcome of a row whose effect is the device's alone. -/
theorem State.next_live {s : State} {f : Dev → Dev} {d : Dev} (ha : s.dev.alive = true) (h : f s.dev = d) :
    (Host.Outcome.next (s.live f) : Host.Outcome State Fault Refusal) = .next (s.onDev d) := by
  rw [State.live_of s f ha, h]

/-- The outcome of a row whose effect is the machine's. -/
theorem State.next_liveS {s t : State} {f : State → State} (ha : s.dev.alive = true) (h : f s = t) :
    (Host.Outcome.next (s.liveS f) : Host.Outcome State Fault Refusal) = .next t := by
  rw [State.liveS_of s f ha, h]

/-- The outcome of a row of the ditch rider, which acts while there is power. -/
theorem State.next_powered {s : State} {f : Dev → Dev} {d : Dev} (hon : s.dev.boot.on = true) (h : f s.dev = d) :
    (Host.Outcome.next (s.powered f) : Host.Outcome State Fault Refusal) = .next (s.onDev d) := by
  rw [State.powered, if_pos hon, h]

/-- A change of the pending bits leaves a field of any other register. -/
theorem Dev.PendOnly.fg {d e : Dev} (h : d.PendOnly e) {k : Nat} (hk : k < 0x010400 ∨ 0x010600 ≤ k) (f : Span) : e.fg k f = d.fg k f := by
  rw [Dev.fg, h.2 k hk, Dev.fg]

theorem Dev.PendOnly.tmr {d e : Dev} (h : d.PendOnly e) (n : Nat) : e.tmr n = d.tmr n := by rw [Dev.tmr, h.tmrs, Dev.tmr]
theorem Dev.PendOnly.port {d e : Dev} (h : d.PendOnly e) (n : Nat) : e.port n = d.port n := by rw [Dev.port, h.ports, Dev.port]
theorem Dev.PendOnly.cell {d e : Dev} (h : d.PendOnly e) (n : Nat) : e.cell n = d.cell n := by rw [Dev.cell, h.cells, Dev.cell]
theorem Dev.PendOnly.txn {d e : Dev} (h : d.PendOnly e) (n : Nat) : e.txn n = d.txn n := by rw [Dev.txn, h.txns, Dev.txn]

/-! ### Fields of a register -/

/-- A field set in another register. -/
theorem Dev.fg_fp_ne (d : Dev) {k j : Nat} (f g : Span) (v : Nat) (h : j ≠ k) : (d.fp k f v).fg j g = d.fg j g := Dev.fg_wr_ne d _ _ h
theorem Dev.rd_fp_ne (d : Dev) {k j : Nat} (f : Span) (v : Nat) (h : j ≠ k) : (d.fp k f v).rd j = d.rd j := Dev.rd_wr_ne d _ h
theorem Dev.fg_fp_self (d : Dev) (k : Nat) (f : Span) (v : Nat) (h : f.fits) : (d.fp k f v).fg k f = v % 2 ^ f.width := by
  rw [Dev.fp, Dev.fg_wr_self, Span.get_put_self f _ _ h]
/-- A field beside the one that is set. -/
theorem Dev.fg_fp_apart (d : Dev) (k : Nat) (f g : Span) (v : Nat) (h : f.fits) (hd : g.hi < f.lo ∨ f.hi < g.lo) : (d.fp k f v).fg k g = d.fg k g := by
  rw [Dev.fp, Dev.fg_wr_self, Span.get_put_ne f g _ _ h hd, Dev.fg]

/-! ### Fault sources -/

@[simp] theorem Dev.raiseSrc_io (d : Dev) (k u : Nat) : (d.raiseSrc k u).io = d.io := by
  rw [Dev.raiseSrc, apply_ite Dev.io]; exact ite_self _
@[simp] theorem Dev.raiseSrc_rd (d : Dev) (k u r : Nat) : (d.raiseSrc k u).rd r = d.rd r := Dev.rd_congr (Dev.raiseSrc_io ..) r

/-- A unit that has been raised is active. -/
@[simp] theorem Dev.raiseSrc_level_self (d : Dev) (k u : Nat) : ((d.raiseSrc k u).srcLevel k).testBit u = true := by
  unfold Dev.raiseSrc
  split
  · assumption
  · simp [Dev.srcLevel, Nat.testBit_or, Nat.testBit_two_pow_self]

end Sys2Proof.Machine
end

section
/-! What reaches an angle domain from its terminals, and its faults (R44-R50, R53, R116). -/

namespace Sys2Proof.Machine

open Sys2Proof

/-! ### A working copy written back -/

@[simp] theorem Dev.storeDom_stat (d : Dev) (n : Nat) (w : DomW) : (d.storeDom n w).rd (adStat n) = w.stat := by
  simp [Dev.storeDom, Dev.rd_wr, adStat, adErr, adConf, adLive, adRate, adReva, adCtl]

@[simp] theorem Dev.storeDom_level (d : Dev) (n : Nat) (w : DomW) (k : Nat) : (d.storeDom n w).srcLevel k = d.srcLevel k := rfl

/-- A change of pending bits and of a source leaves the status of a domain. -/
theorem Dev.loadDom_stat_raised (d : Dev) (n e k u : Nat) (he : e < 256) : (((d.relevel e).raiseSrc k u).loadDom n).stat = d.rd (adStat n) := by
  rw [← (Dev.relevel_only d e he).2 (adStat n) (by unfold adStat; omega)]
  exact Dev.raiseSrc_rd ..

/-! ### Losing a channel -/

/-- A domain of which one channel's lost bit is set is frozen, whatever causes are latched since. -/
theorem DomW.frozen_of_lost (w : DomW) {f : Span} (hf : f = AdStat.CHLA ∨ f = AdStat.CHLB) :
    ((((w.setStat f 1).setStat AdStat.STALL 1).cause causeSTALL).cause causeCHL).frozen = true := by
  have h : ∀ g ∈ [AdStat.STALL, AdStat.CAUSE], ∀ (x : Word) (v : Nat), f.get (g.put x v) = f.get x := by
    intro g hg x v
    simp only [List.mem_cons, List.not_mem_nil, or_false] at hg
    exact Span.get_put_ne g f x v (by rcases hg with rfl | rfl <;> decide) (by rcases hg with rfl | rfl <;> rcases hf with rfl | rfl <;> decide)
  have h1 : ∀ x : Word, f.get (f.put x 1) = 1 := fun x => by rw [Span.get_put_self f x 1 (by rcases hf with rfl | rfl <;> decide)]; rcases hf with rfl | rfl <;> rfl
  have hg : f.get ((((w.setStat f 1).setStat AdStat.STALL 1).cause causeSTALL).cause causeCHL).stat = 1 := by
    simp only [DomW.cause, DomW.setStat]
    rw [h _ (by simp), h _ (by simp), h _ (by simp), h1]
  exact decide_eq_true (hf.imp (fun e => by rw [← e, hg]; decide) (fun e => by rw [← e, hg]; decide))

section
variable {d : Dev} {n : Nat} (hen : (d.loadDom n).en = true)
include hen

/-- LOSSN edges on one channel lose the other, freeze the domain and retire its channels (R50, R145). -/
theorem Dev.domainLost_of (hn : n < 32) (hty : (d.loadDom n).type = 1) (hrun : (d.loadDom n).lossn ≤ (d.loadDom n).st.run)
    (hfr : (d.loadDom n).frozen = false) :
    let w := d.loadDom n
    let e := ((d.storeDom n ((((w.setStat (if w.st.lastCh = 0 then AdStat.CHLB else AdStat.CHLA) 1).setStat AdStat.STALL 1).cause
      causeSTALL).cause causeCHL)).relevel (32 + n)).raiseSrc (64 + n) n
    d.domainLost n = (e.channelsUnder n).foldl (fun d k => d.chRetire k none) e := by
  intro w e
  have hlost : d.channelLost n = e := if_pos (by simp [hen, hty, hrun, hfr])
  have hfrz : (e.loadDom n).frozen = true := by
    rw [DomW.frozen, Dev.loadDom_stat_raised _ _ _ _ _ (by omega), Dev.storeDom_stat]
    exact DomW.frozen_of_lost w (by split <;> simp)
  rw [Dev.domainLost, hlost]
  exact if_neg (by simp [hfr, hfrz])

/-- WERR above ERRLIM takes the channels of the domain to SAFE as its source rises (R49, R50, R145). -/
theorem Dev.domainIntegrity_of (hty : (d.loadDom n).type = 1) (herr : AdChk.ERRLIM.get (d.loadDom n).chk < AdErr.WERR.get (d.loadDom n).err)
    (hsrc : (d.srcLevel (96 + n)).testBit n = false) :
    let e := ((d.storeDom n ((d.loadDom n).cause causeINTEG)).relevel (32 + n)).raiseSrc (96 + n) n
    d.domainIntegrity n = (e.channelsUnder n).foldl (fun d k => d.chSafe k false) e := by
  intro e
  have hint : d.integrityFault n = e := if_pos (by simp [hen, hty, herr])
  have hlv : (e.srcLevel (96 + n)).testBit n = true := Dev.raiseSrc_level_self ..
  rw [Dev.domainIntegrity, hint]
  exact if_neg (by simp [hsrc, hlv])

/-- STALLT without a counted edge stalls the domain, with what follows for its slots and its channels (R53, R69, R140). -/
theorem Dev.domainStall_of (h1 : 1 ≤ (d.loadDom n).type) (h4 : (d.loadDom n).type ≤ 4) (ht : (d.loadDom n).stallTicks ≤ d.now - (d.loadDom n).st.tLast)
    (hst : (d.loadDom n).stalled = false) :
    let v := (((d.loadDom n).setStat AdStat.STALL 1).setStat AdStat.RATEV 0).cause causeSTALL
    let e := d.storeDom n { v with rate := 0, st := { v.st with ring := [] } }
    d.domainStall n = (((List.range 8).foldl (fun d k => d.earlyCheck n k) e).relevel (32 + n)).autoEnd n := by
  intro v e
  have hs : d.stallDomain n = (((List.range 8).foldl (fun d k => d.earlyCheck n k) e).relevel (32 + n), true) := by
    rw [Dev.stallDomain, if_pos (by simp [hen, h1, h4, ht, hst]), hst]
    rfl
  rw [Dev.domainStall, hs]

end

/-- A conditioned level that differs from its record enters it, and an edge is queued with the stamp of its first sample (R116). -/
theorem Dev.levelChange_of {d : Dev} {p t : Nat} {l : Bool} (hp : d.portHere p = true) (hl : d.levelAt p t ≠ l) (sub : Nat) :
    let acc := 5 * d.tick + 1 + sub
    let d0 := d.putPort p { d.port p with back := (d.port p).back.filter (fun b => decide (b.1 ≠ t)) }
    let e := d0.fp (fpIn p) FpIn.LVL (setBit (d.fg (fpIn p) FpIn.LVL) t l)
    d.levelChange p t l sub = { e with edges := e.edges ++ [⟨p, t, l, acc - d.fg (fpCfg p) FpCfg.FILT, acc⟩] } := by
  intro acc d0 e
  exact if_pos (show (d.portHere p && (d.levelAt p t != l)) = true by simp [hp, hl])

/-- Settles O8: an edge, a loss, an integrity fault, the end of a window and a stall, each where its condition holds. -/
theorem domainsTakeEdgesAndFaults : Obligations.DomainsTakeEdgesAndFaults := by
  intro s ha
  refine ⟨fun p t l sub hp hl => State.next_live ha (Dev.levelChange_of hp hl _), fun n => ⟨?_, ?_, ?_, ?_⟩⟩
  · exact fun hen hty hrun hfr => State.next_live ha (Dev.domainLost_of hen n.isLt hty hrun hfr)
  · exact fun hen hty herr hsrc => State.next_live ha (Dev.domainIntegrity_of hen hty herr hsrc)
  · exact fun hw => State.next_live ha (if_pos hw)
  · exact fun hen h1 h4 ht hst => State.next_live ha (Dev.domainStall_of hen h1 h4 ht hst)

end Sys2Proof.Machine
end

section
/-! The mains PLL (R57, R58, R609), the writes and the actions of the index plate (R64, R67) and the end of a WAITC (R70). -/

namespace Sys2Proof.Machine

open Sys2Proof

/-! ### The value of the PLL after a crossing -/

/-- The crossing that domain `w` follows: in lock the next multiple of 2^48, else the nearest one (R57). -/
def DomW.crossing (w : DomW) : Word :=
  if w.locked then w.st.mcyc + BitVec.ofNat 72 (2 ^ 48) else BitVec.ofNat 72 ((w.live.toNat + 2 ^ 47) / 2 ^ 48 * 2 ^ 48)

theorem DomW.follow_mcyc (w : DomW) (good : Bool) (free : Nat) : (w.follow good free).st.mcyc = w.crossing := rfl

/-- A word is at most `e` away from a word to which it is within `e` by construction: `k` of `2 * e + 1` places. -/
theorem toInt_within (c : Word) {e k : Nat} (he : e < 2 ^ 70) (hk : k < 2 * e + 1) :
    (c - BitVec.ofNat 72 e + BitVec.ofNat 72 k - c).toInt.natAbs ≤ e := by
  have h : c - BitVec.ofNat 72 e + BitVec.ofNat 72 k - c = BitVec.ofInt 72 (k - e) := by
    have hk : BitVec.ofInt 72 (k - e) + BitVec.ofNat 72 e = BitVec.ofNat 72 k := by
      rw [← BitVec.ofInt_natCast, ← BitVec.ofInt_add, Int.sub_add_cancel, BitVec.ofInt_natCast]
    rw [← hk]
    abel
  rw [h, BitVec.toInt_ofInt, Int.bmod_eq_of_le (by omega) (by omega)]
  omega

/-- The value is the target that the free value chooses, or stands. -/
theorem DomW.follow_live (w : DomW) (good : Bool) (free : Nat) :
    (w.follow good free).live = w.live ∨
      0 ≤ ((w.follow good free).live - w.live).toInt ∧
        (w.locked = true → ((w.follow good free).live - w.crossing).toInt.natAbs ≤ DomW.halfDegree) := by
  set e := if w.locked then DomW.halfDegree else 4 * DomW.halfDegree - 1
  set t := w.crossing - BitVec.ofNat 72 e + BitVec.ofNat 72 (free % (2 * e + 1))
  have hlive : (w.follow good free).live = if (w.locked || good) && decide (0 ≤ sgn (t - w.live)) then t else w.live := rfl
  rw [hlive]
  split
  · rename_i h
    refine .inr ⟨of_decide_eq_true (Bool.and_eq_true _ _ ▸ h).2, fun hl => ?_⟩
    have he : e = DomW.halfDegree := if_pos hl
    rw [← he]
    exact toInt_within _ (by rw [he]; decide) (Nat.mod_lt _ (by omega))
  · exact .inl rfl

/-- The value never moves back, and in lock stands within half a degree of the crossing unless it stays (R58). -/
theorem DomW.follow_bounds (w : DomW) (good : Bool) (free : Nat) :
    0 ≤ ((w.follow good free).live - w.live).toInt ∧ (w.locked = true → (w.follow good free).st.mcyc = w.st.mcyc + BitVec.ofNat 72 (2 ^ 48) ∧
      ((w.follow good free).live = w.live ∨ ((w.follow good free).live - (w.follow good free).st.mcyc).toInt.natAbs ≤ 2 ^ 48 / 720)) := by
  refine ⟨?_, fun hl => ⟨(DomW.follow_mcyc w good free).trans (if_pos hl), ?_⟩⟩
  · rcases w.follow_live good free with h | h
    · rw [h, BitVec.sub_self]; decide
    · exact h.1
  · exact (w.follow_live good free).imp_right fun h => h.2 hl

section
variable {d : Dev} {n : Nat} (hen : (d.loadDom n).en = true) (hty : (d.loadDom n).type = 5)
include hen hty

/-- A crossing of the voltage that the domain tracks: `u` is the domain as it acquires or follows it. -/
theorem Dev.mainsCrossing_of {ph : Nat} (hph : AdSrc.MPH.get (d.loadDom n).src = ph) {good : Bool} {u : DomW} {step : Nat}
    (hu : (if (d.loadDom n).st.acq then (d.loadDom n).acquire else (d.loadDom n).follow good (Config.freeWord (d.fresh + 1)).toNat) = u)
    (hs : (Config.freeWord d.fresh).toNat % 2 ^ 32 = step) :
    d.mainsCrossing n ph good = (d.storeDom n { u with st := { u.st with
      mstep := step, crossAt := d.tick, track := true } }).next.next.relevel (32 + n) := by
  subst hu hs
  exact if_pos (by simp [hen, hty, hph])

/-- The first crossing of an acquisition: the value steps to `v`. -/
theorem Dev.mainsCrossing_acquires {ph : Nat} (hph : AdSrc.MPH.get (d.loadDom n).src = ph) {good : Bool} {u : DomW} {v : Word} {step : Nat}
    (ha : (d.loadDom n).st.acq = true)
    (hu : (d.loadDom n).acquire = { u with live := v, conf := v, st := { u.st with acq := false, good := 0, mcyc := v, hold := 0 } })
    (hs : (Config.freeWord d.fresh).toNat % 2 ^ 32 = step) :
    d.mainsCrossing n ph good = (d.storeDom n { u with live := v, conf := v, st := { u.st with
      acq := false, good := 0, mcyc := v, hold := 0, mstep := step, crossAt := d.tick, track := true } }).next.next.relevel (32 + n) := by
  have h := Dev.mainsCrossing_of hen hty hph (good := good) ((if_pos ha).trans hu) hs
  exact h

theorem Dev.mainsLock_of (hg : 8 ≤ (d.loadDom n).st.good) (ha : (d.loadDom n).st.acq = false) :
    d.mainsLock n = (d.storeDom n (((d.loadDom n).setLock true).setStat AdStat.HOLD 0)).relevel (32 + n) :=
  if_pos (by simp [hen, hty, hg, ha])

omit hen hty in
theorem Dev.lockLost_of {w : DomW} {why : Nat} (h0 : why = 0 → w.st.crossAt + 4000000 ≤ d.tick)
    (h1 : why = 1 → w.st.mstep * 100000000 < 45 * 2 ^ 48 ∨ 65 * 2 ^ 48 < w.st.mstep * 100000000) : d.lockLost w why = true := by
  unfold Dev.lockLost
  split
  · exact decide_eq_true (h0 rfl)
  · exact decide_eq_true (h1 rfl)
  · rfl

theorem Dev.mainsLockLoss_of {why : Nat} (hl : (d.loadDom n).locked = true) (hw : d.lockLost (d.loadDom n) why = true) :
    let u := ((d.loadDom n).setLock false).setStat AdStat.HOLD 1
    d.mainsLockLoss n why = (d.storeDom n { u with st := { u.st with good := 0, track := false, hold := 0 } }).relevel (32 + n) :=
  if_pos (by simp [hen, hty, hl, hw])

theorem Dev.holdEnd_of (hh : (d.loadDom n).holding = true) (ha : (d.loadDom n).st.acq = false) (h8 : 8 * 2 ^ 48 ≤ (d.loadDom n).st.hold) :
    let u := ((d.loadDom n).setStat AdStat.STALL 1).cause causeSTALL
    d.holdEnd n = (d.storeDom n { u with st := { u.st with acq := true } }).relevel (32 + n) :=
  if_pos (by simp [hen, hty, hh, ha]; omega)

end

/-! ### Slots -/

/-- Slot writes that arrive: the last value and the last control count, and a new ARM loads the kept value (R64, R65). -/
theorem Dev.slotArrive_of {d : Dev} {n k : Nat} {x : Slot} {vs cs : List CmpWrite} {val ctl : Word} (hx : d.slot n k = x)
    (hvs : CmpWrite.here x.wVal = vs) (hcs : CmpWrite.here x.wCtl = cs) (hval : (vs.getLast?.map CmpWrite.val).getD x.val = val)
    (hctl : (cs.getLast?.map CmpWrite.val).getD x.ctl = ctl) (h : vs ≠ [] ∨ cs ≠ []) :
    let e := d.putSlot n k { x with
      val := val, ctl := ctl, wVal := CmpWrite.rest x.wVal, wCtl := CmpWrite.rest x.wCtl,
      ctlAt := if cs = [] then x.ctlAt else some d.tick,
      load := x.load || decide (AdSlotCtl.ARM.get ctl ≠ 0 ∧ AdSlotCtl.ARM.get x.ctl = 0), watch := none }
    d.slotArrive n k = if AdSlotCtl.ARM.get ctl ≠ 0 ∧ nearTo (max 1 ((d.rd (adRate n)).toInt.natAbs / 100000000)) x.prev val
      then e.latch (adSlst n) AdSlst.NEAR k else e := by
  intro e
  have hs : (vs.getLast?.isSome || cs.getLast?.isSome) = true := by simpa [List.getLast?_isSome] using h
  have hc : (if cs.getLast?.isSome then some d.tick else x.ctlAt) = if cs = [] then x.ctlAt else some d.tick := by
    cases cs <;> simp
  have hl : (decide (AdSlotCtl.ARM.get ctl ≠ 0) && !decide (AdSlotCtl.ARM.get x.ctl ≠ 0)) =
      decide (AdSlotCtl.ARM.get ctl ≠ 0 ∧ AdSlotCtl.ARM.get x.ctl = 0) := by
    simp
  unfold Dev.slotArrive
  simp only [hx, hvs, hcs, hval, hctl, hs, hc, hl, if_true, Bool.and_eq_true, decide_eq_true_eq]
  rfl

/-! ### Waits for a reading -/

@[simp] theorem Cell.push_closed (x : Cell) (a : Nat) : (x.push a).closed = x.closed := rfl
@[simp] theorem Cell.pop_closed (x : Cell) : x.pop.closed = x.closed := rfl
@[simp] theorem Cell.stack_closed (x : Cell) (q : Delay) (fall : Nat) : (x.stack q fall).closed = x.closed := by
  unfold Cell.stack; split <;> rfl
@[simp] theorem Cell.loopNext_closed (x : Cell) (b fall : Nat) (lend : Bool) : (x.loopNext b fall lend).1.closed = x.closed := by
  unfold Cell.loopNext
  split
  · dsimp only; split <;> rfl
  · rfl

/-- The end of a bundle leaves what the cell has taken in of the next one. -/
@[simp] theorem Cell.advance_closed (x : Cell) (b len : Nat) (dly : Option Delay) (lend : Bool) : (x.advance b len dly lend).closed = x.closed := by
  unfold Cell.advance
  dsimp only
  split
  · split <;> exact Cell.stack_closed ..
  · split <;> exact Cell.loopNext_closed ..

/-- A WAITC whose threshold the published reading has reached completes its bundle (R70, R370). -/
theorem Dev.waitcDone_of {d : Dev} {c b len dom : Nat} {conf down lend : Bool} {v : Word} (hw : (d.cell c).wait = .waitc b len dom conf down lend v)
    (hr : d.running c = true) (ht : reached down (d.waitReading dom conf) v = true) (hb : (d.cell c).blk = none) :
    d.waitcDone c = (d.putCell c (({ d.cell c with wait := .none } : Cell).advance b len none lend)).wr (clBun c) (d.rd (clBun c) + 1) := by
  simp only [Dev.waitcDone, hw, hr, ht, hb, Bool.and_self, if_true, Dev.countBundle, Dev.putCell_rd]

/-- Settles O10: the crossing of an acquisition and of a tracked one, lock and its loss, then the slots and the WAITC. -/
theorem mainsSlotsAndWaits : Obligations.MainsSlotsAndWaits := by
  intro s ha
  refine ⟨fun n ph good => ?_, fun n k => ⟨?_, ?_⟩, ?_⟩
  · intro w hen hty step
    refine ⟨fun hph hacq => ?_, fun hph hacq => ⟨?_, rfl, ?_⟩, ?_, fun why hl h0 h1 => ?_, ?_⟩
    · intro v u0 u1 u
      have hu : w.acquire = { u with live := v, conf := v, st := { u.st with acq := false, good := 0, mcyc := v, hold := 0 } } := rfl
      exact State.next_live ha (Dev.mainsCrossing_acquires hen hty hph hacq hu rfl)
    · have hc := Dev.mainsCrossing_of hen hty hph (good := good) (step := step) (if_neg (Bool.eq_false_iff.1 hacq)) rfl
      exact State.next_live ha hc
    · exact DomW.follow_bounds ..
    · exact fun hg hacq => State.next_live ha (Dev.mainsLock_of hen hty hg hacq)
    · exact State.next_live ha (Dev.mainsLockLoss_of hen hty hl (Dev.lockLost_of h0 h1))
    · intro hh hacq h8 u d
      refine State.next_live ha ?_
      show s.dev.mainsHoldEnd n.val = _
      rw [Dev.mainsHoldEnd, Dev.holdEnd_of hen hty hh hacq h8]
  · exact fun h => State.next_live ha (Dev.slotArrive_of rfl rfl rfl rfl rfl h)
  · intro t hd ht d lvl term
    refine State.next_live ha ?_
    simp only [Dev.slotAction, hd, if_neg ht]
    rfl
  · intro c b len dom conf down lend v x hw hr ht hb hcl
    refine State.next_liveS ha ?_
    rw [State.waitcEnd, Dev.waitcDone_of hw hr ht hb]
    exact State.pump_open _ _ (by rw [Dev.wr_cell, Dev.putCell_cell, Cell.advance_closed]; exact hcl)

end Sys2Proof.Machine
end

section
/-! A unit tick of a timer (R86, R87, R90, R92-R94): the count, the live compares, their matches, and what stays. -/

namespace Sys2Proof.Machine

open Sys2Proof

/-! ### Changes that leave a timer's matches -/

/-- Of the registers only the status of timer `n` and pending bits have changed, and the two matches stand. -/
structure Dev.TmFrame (n : Nat) (d e : Dev) : Prop where
  regs : ∀ k, k ≠ tmStat n → k < 0x010400 ∨ 0x010600 ≤ k → e.rd k = d.rd k
  m0 : e.ff (tmStat n) TmStat.M0 = d.ff (tmStat n) TmStat.M0
  m1 : e.ff (tmStat n) TmStat.M1 = d.ff (tmStat n) TmStat.M1

theorem Dev.TmFrame.refl (n : Nat) (d : Dev) : d.TmFrame n d := ⟨fun _ _ _ => rfl, rfl, rfl⟩

variable {n : Nat} {d e f : Dev}

theorem Dev.TmFrame.trans (h : d.TmFrame n e) (k : e.TmFrame n f) : d.TmFrame n f :=
  ⟨fun r h1 h2 => (k.regs r h1 h2).trans (h.regs r h1 h2), k.m0.trans h.m0, k.m1.trans h.m1⟩

/-- A step of the two halves of a choice. -/
theorem Dev.TmFrame.ite {p : Prop} [Decidable p] (h : d.TmFrame n e) (k : d.TmFrame n f) : d.TmFrame n (if p then e else f) := by
  split
  · exact h
  · exact k

/-- The registers are those of `d`. -/
theorem Dev.TmFrame.of_io (h : e.io = d.io) : d.TmFrame n e :=
  ⟨fun k _ _ => Dev.rd_congr h k, by rw [Dev.ff, Dev.fg_congr h, Dev.ff], by rw [Dev.ff, Dev.fg_congr h, Dev.ff]⟩

theorem Dev.TmFrame.putTmr (d : Dev) (n m : Nat) (x : Tmr) : d.TmFrame n (d.putTmr m x) := .of_io rfl

/-- A field of the status apart from the matches. -/
theorem Dev.TmFrame.fp (d : Dev) (n : Nat) {g : Span} (hg : g ∈ [TmStat.WIN, TmStat.CNTG, TmStat.GATE, TmStat.NEAR1, TmStat.NEAR0]) (v : Nat) :
    d.TmFrame n (d.fp (tmStat n) g v) := by
  have hf : g.fits ∧ TmStat.M1.hi < g.lo ∧ TmStat.M0.hi < g.lo := by revert g; decide
  exact ⟨fun k h _ => Dev.rd_fp_ne d g v h, by rw [Dev.ff, Dev.fg_fp_apart d _ _ _ _ hf.1 (.inl hf.2.2), Dev.ff],
    by rw [Dev.ff, Dev.fg_fp_apart d _ _ _ _ hf.1 (.inl hf.2.1), Dev.ff]⟩

theorem Dev.PendOnly.tmFrame (h : d.PendOnly e) (hn : n < 64) : d.TmFrame n e := by
  have hk : tmStat n < 0x010400 ∨ 0x010600 ≤ tmStat n := by unfold tmStat; omega
  exact ⟨fun k _ => h.2 k, by rw [Dev.ff, h.fg hk, Dev.ff], by rw [Dev.ff, h.fg hk, Dev.ff]⟩

theorem Dev.TmFrame.syncCntg (d : Dev) (n : Nat) : d.TmFrame n (d.syncCntg n) := .fp d n (by simp) _

/-- Order 2 of a base tick touches the gate and the count's status alone. -/
theorem Dev.TmFrame.timerWrites (d : Dev) (n : Nat) : d.TmFrame n (d.timerWrites n) := by
  have h1 : d.TmFrame n (d.reloadArrive n) := by
    unfold Dev.reloadArrive
    dsimp only
    split
    · exact .putTmr ..
    · exact .refl ..
  unfold Dev.timerWrites
  extract_lets d1 x d2
  have h2 : d.TmFrame n d2 := h1.trans (.putTmr ..)
  exact .ite h2 (h2.trans ((Dev.TmFrame.fp d2 n (by simp) _).trans (.syncCntg _ n)))

/-! ### Compare writes that arrive (R94) -/

/-- Compare `k` of a timer, its writes on their way, and a timer with another value or other writes. -/
def Tmr.cmp (x : Tmr) (k : Nat) : Word := if k = 0 then x.cmp0 else x.cmp1
def Tmr.writes (x : Tmr) (k : Nat) : List CmpWrite := if k = 0 then x.wr0 else x.wr1
def Tmr.withCmp (x : Tmr) (k : Nat) (v : Word) : Tmr := if k = 0 then { x with cmp0 := v } else { x with cmp1 := v }
def Tmr.withWrites (x : Tmr) (k : Nat) (l : List CmpWrite) : Tmr := if k = 0 then { x with wr0 := l } else { x with wr1 := l }

/-- The live value of a compare once the writes of `l` have come: the last one's. -/
def CmpWrite.last (v : Word) (l : List CmpWrite) : Word := (l.getLast?.map CmpWrite.val).getD v

@[simp] theorem Tmr.withCmp_self (x : Tmr) (k : Nat) : x.withCmp k (x.cmp k) = x := by
  unfold Tmr.withCmp Tmr.cmp; split <;> rfl
@[simp] theorem Tmr.withWrites_self (x : Tmr) (k : Nat) : x.withWrites k (x.writes k) = x := by
  unfold Tmr.withWrites Tmr.writes; split <;> rfl
@[simp] theorem Tmr.cmp_withCmp (x : Tmr) (k : Nat) (v : Word) : (x.withCmp k v).cmp k = v := by
  unfold Tmr.withCmp Tmr.cmp; split <;> rfl
@[simp] theorem Tmr.withCmp_withCmp (x : Tmr) (k : Nat) (v w : Word) : (x.withCmp k v).withCmp k w = x.withCmp k w := by
  unfold Tmr.withCmp; split <;> rfl

theorem Dev.cmpTake_tmr (d : Dev) (n k : Nat) (v : Word) : (d.cmpTake n k v).tmr n = (d.tmr n).withCmp k v := by
  unfold Dev.cmpTake
  extract_lets x d1
  have h1 : d1.tmr n = (d.tmr n).withCmp k v := Dev.putTmr_tmr ..
  have hf : ∀ g, (d1.fp (tmStat n) g 1).tmr n = d1.tmr n := fun _ => rfl
  rw [apply_ite (Dev.tmr · n), hf, ite_self, h1]

theorem Dev.TmFrame.cmpTake (d : Dev) (n k : Nat) (v : Word) : d.TmFrame n (d.cmpTake n k v) := by
  unfold Dev.cmpTake
  extract_lets x d1
  have h1 : d.TmFrame n d1 := .putTmr ..
  exact .ite (h1.trans (.fp d1 n (by split <;> simp) 1)) h1

theorem Dev.foldl_cmpTake (n k : Nat) (l : List CmpWrite) (d : Dev) :
    (l.foldl (fun d w => d.cmpTake n k w.val) d).tmr n = (d.tmr n).withCmp k (CmpWrite.last ((d.tmr n).cmp k) l) ∧
      d.TmFrame n (l.foldl (fun d w => d.cmpTake n k w.val) d) := by
  induction l generalizing d with
  | nil => exact ⟨(Tmr.withCmp_self ..).symm, .refl n d⟩
  | cons w l ih =>
    obtain ⟨ht, hf⟩ := ih (d.cmpTake n k w.val)
    refine ⟨?_, (Dev.TmFrame.cmpTake ..).trans hf⟩
    rw [List.foldl_cons, ht, Dev.cmpTake_tmr, Tmr.cmp_withCmp, Tmr.withCmp_withCmp]
    congr 1
    cases h : l.getLast? <;> simp [CmpWrite.last, List.getLast?_cons, h]

/-- What the arriving writes of one compare leave: the last of them live, and other writes on their way. -/
theorem Dev.cmpArrive_spec (hn : n < 64) (d : Dev) (k : Nat) : d.TmFrame n (d.cmpArrive n k) ∧
    ∃ ws, (d.cmpArrive n k).tmr n = ((d.tmr n).withCmp k (CmpWrite.last ((d.tmr n).cmp k) (CmpWrite.here ((d.tmr n).writes k)))).withWrites k ws := by
  have hw : (if k = 0 then (d.tmr n).wr0 else (d.tmr n).wr1) = (d.tmr n).writes k := rfl
  unfold Dev.cmpArrive
  simp only [hw]
  split
  · rename_i h
    refine ⟨.refl n d, (d.tmr n).writes k, ?_⟩
    rw [h]
    exact ((congrArg (Tmr.withWrites · k _) (Tmr.withCmp_self ..)).trans (Tmr.withWrites_self ..)).symm
  · obtain ⟨ht, hf⟩ := Dev.foldl_cmpTake n k (CmpWrite.here ((d.tmr n).writes k)) d
    have hr := fun e : Dev => Dev.relevel_only e (64 + n) (by omega)
    refine ⟨(hf.trans (.putTmr ..)).trans ((hr _).tmFrame hn), CmpWrite.rest ((d.tmr n).writes k), ?_⟩
    rw [(hr _).tmr, Dev.putTmr_tmr, ht]
    rfl

/-- Order 4 of a unit tick: both compares take what has arrived. -/
theorem Dev.cmpTick_spec (hn : n < 64) (d : Dev) : d.TmFrame n (d.cmpTick n) ∧
    ∃ w0 w1, (d.cmpTick n).tmr n = { d.tmr n with
      cmp0 := CmpWrite.last (d.tmr n).cmp0 (CmpWrite.here (d.tmr n).wr0), cmp1 := CmpWrite.last (d.tmr n).cmp1 (CmpWrite.here (d.tmr n).wr1),
      wr0 := w0, wr1 := w1 } := by
  obtain ⟨hf0, ws0, h0⟩ := Dev.cmpArrive_spec hn d 0
  obtain ⟨hf1, ws1, h1⟩ := Dev.cmpArrive_spec hn (d.cmpArrive n 0) 1
  refine ⟨(hf0.trans hf1).trans (.putTmr ..), ws0.map CmpWrite.age, ws1.map CmpWrite.age, ?_⟩
  unfold Dev.cmpTick
  dsimp only
  rw [Dev.putTmr_tmr, h1, h0]
  rfl

/-! ### The new count and its matches (R92, R93) -/

/-- An update by one step down reaches the value that it arrives at alone. -/
theorem crosses_one_down (new v : Word) : crosses true (new + 1) new v = decide (v = new) := by
  have h1 : new + 1 - new = 1 := by abel
  have h2 : (new + 1 - v).toNat = 1 ↔ v = new := by
    rw [show (1 : Nat) = (1 : Word).toNat from rfl, BitVec.toNat_inj]
    exact ⟨fun h => by rw [sub_eq_iff_eq_add, add_comm new 1] at h; exact (add_left_cancel h).symm, fun h => by rw [h]; abel⟩
  have hone : (1 : Word).toNat = 1 := rfl
  rw [crosses, if_pos rfl, h1, hone, decide_eq_decide, ← h2]
  omega

/-- A flag that is set. -/
theorem Dev.ff_fp_one (d : Dev) (k : Nat) {f : Span} (h : f.fits) : (d.fp k f 1).ff k f = true := by
  have hw : 1 % 2 ^ f.width ≠ 0 := by
    rw [Nat.mod_eq_of_lt (Nat.one_lt_two_pow (by unfold Span.width; omega))]
    decide
  rw [Dev.ff, Dev.fg_fp_self d k f 1 h, decide_eq_true_eq]
  exact hw

/-- A match latches its bit and leaves the other; `a` tells which. -/
theorem Dev.matchCmp_spec (d : Dev) (n k : Nat) :
    (∀ r, r ≠ tmStat n → (d.matchCmp n k).rd r = d.rd r) ∧
    (d.matchCmp n k).ff (tmStat n) TmStat.M0 = (d.ff (tmStat n) TmStat.M0 || decide (k = 0)) ∧
    (d.matchCmp n k).ff (tmStat n) TmStat.M1 = (d.ff (tmStat n) TmStat.M1 || decide (k ≠ 0)) ∧
    ∃ a b, (d.matchCmp n k).tmr n = { d.tmr n with c0At := a, c1At := b } := by
  by_cases hk : k = 0
  · refine ⟨fun r h => Dev.rd_fp_ne d _ _ h, ?_, ?_, d.tick + 1, (d.tmr n).c1At, ?_⟩ <;> simp only [Dev.matchCmp, hk, if_true]
    · simpa using Dev.ff_fp_one d (tmStat n) (by decide)
    · simp [Dev.ff, Dev.fg_fp_apart d (tmStat n) TmStat.M0 TmStat.M1 1 (by decide) (by decide)]
    · exact Dev.putTmr_tmr ..
  · refine ⟨fun r h => Dev.rd_fp_ne d _ _ h, ?_, ?_, (d.tmr n).c0At, d.tick + 1, ?_⟩ <;> simp only [Dev.matchCmp, hk, if_false]
    · simp [Dev.ff, Dev.fg_fp_apart d (tmStat n) TmStat.M1 TmStat.M0 1 (by decide) (by decide)]
    · simpa [hk] using Dev.ff_fp_one d (tmStat n) (by decide)
    · exact Dev.putTmr_tmr ..

/-- A match that happens where `m` holds. -/
theorem Dev.matchIf_spec (d : Dev) (n k : Nat) (m : Bool) :
    (∀ r, r ≠ tmStat n → (if m then d.matchCmp n k else d).rd r = d.rd r) ∧
    (if m then d.matchCmp n k else d).ff (tmStat n) TmStat.M0 = (d.ff (tmStat n) TmStat.M0 || (m && decide (k = 0))) ∧
    (if m then d.matchCmp n k else d).ff (tmStat n) TmStat.M1 = (d.ff (tmStat n) TmStat.M1 || (m && decide (k ≠ 0))) ∧
    ∃ a b, (if m then d.matchCmp n k else d).tmr n = { d.tmr n with c0At := a, c1At := b } := by
  cases m
  · exact ⟨fun _ _ => rfl, (Bool.or_false _).symm, (Bool.or_false _).symm, _, _, rfl⟩
  · simpa using Dev.matchCmp_spec d n k

/-- The count takes `new` from one above it: the live compares are judged, and an enabled one that equals `new` latches. -/
theorem Dev.countUpdate_spec (hn : n < 64) (d : Dev) (new : Word) :
    let x := d.tmr n
    let v0 := CmpWrite.last x.cmp0 (CmpWrite.here x.wr0)
    let v1 := CmpWrite.last x.cmp1 (CmpWrite.here x.wr1)
    let t := d.countUpdate n (new + 1) new
    t.rd (tmCnt n) = new ∧ (∃ w0 w1 a b, t.tmr n = { x with cmp0 := v0, cmp1 := v1, wr0 := w0, wr1 := w1, c0At := a, c1At := b }) ∧
    t.ff (tmStat n) TmStat.M0 = (d.ff (tmStat n) TmStat.M0 || (d.ff (tmCtl n) TmCtl.CE0 && decide (v0 = new))) ∧
    t.ff (tmStat n) TmStat.M1 = (d.ff (tmStat n) TmStat.M1 || (d.ff (tmCtl n) TmCtl.CE1 && decide (v1 = new))) ∧
    ∀ k, k ≠ tmCnt n → k ≠ tmStat n → k < 0x010400 ∨ 0x010600 ≤ k → t.rd k = d.rd k := by
  intro x v0 v1 t
  obtain ⟨hf, w0, w1, ht⟩ := Dev.cmpTick_spec hn d
  set c := (d.cmpTick n).wr (tmCnt n) new with hc
  have hcs : tmCnt n ≠ tmStat n := by unfold tmCnt tmStat; omega
  have hlc : tmCtl n ≠ tmCnt n := by unfold tmCtl tmCnt; omega
  have hls : tmCtl n ≠ tmStat n := by unfold tmCtl tmStat; omega
  have hlo : ∀ k, k ∈ [tmCtl n, tmCnt n] → k < 0x010400 ∨ 0x010600 ≤ k := by simp only [tmCtl, tmCnt, List.mem_cons, List.not_mem_nil, or_false]; omega
  have hctl : ∀ f, c.ff (tmCtl n) f = d.ff (tmCtl n) f := fun f => by
    rw [hc, Dev.ff_wr_ne _ _ _ hlc, Dev.ff, Dev.fg, hf.regs _ hls (hlo _ (by simp))]; rfl
  have hcmp0 : (c.tmr n).cmp0 = v0 := by rw [hc, Dev.wr_tmr, ht]
  have hcmp1 : (c.tmr n).cmp1 = v1 := by rw [hc, Dev.wr_tmr, ht]
  set m0 := d.ff (tmCtl n) TmCtl.CE0 && decide (v0 = new)
  set m1 := d.ff (tmCtl n) TmCtl.CE1 && decide (v1 = new)
  obtain ⟨hr1, h10, h11, a1, b1, ht1⟩ := Dev.matchIf_spec c n 0 m0
  set d1 := if m0 then c.matchCmp n 0 else c
  obtain ⟨hr2, h20, h21, a2, b2, ht2⟩ := Dev.matchIf_spec d1 n 1 m1
  set d2 := if m1 then d1.matchCmp n 1 else d1
  let d3 := if m0 then d2.fp (tmStat n) TmStat.WIN 1 else d2
  let d4 := if m1 then d3.fp (tmStat n) TmStat.WIN 0 else d3
  have he : t = d4.relevel (64 + n) := by
    show c.evalCmps n (new + 1) new = _
    unfold Dev.evalCmps
    simp only [crosses_one_down, hctl, hcmp0, hcmp1]
    rfl
  have h3 : d2.TmFrame n d3 := .ite (.fp d2 n (by simp) _) (.refl n d2)
  have h4 : d2.TmFrame n d4 := h3.trans (.ite (.fp d3 n (by simp) _) (.refl n d3))
  have hp := Dev.relevel_only d4 (64 + n) (by omega)
  have h5 : d2.TmFrame n t := by rw [he]; exact h4.trans (hp.tmFrame hn)
  have hm : ∀ f, (c.ff (tmStat n) f) = (d.cmpTick n).ff (tmStat n) f := fun f => Dev.ff_wr_ne _ _ _ hcs.symm
  have ht5 : t.tmr n = d2.tmr n := by
    rw [he, hp.tmr]
    simp only [d3, d4]
    split <;> split <;> rfl
  refine ⟨?_, ⟨w0, w1, a2, b2, ?_⟩, ?_, ?_, fun k h1 h2 h3 => ?_⟩
  · rw [h5.regs _ hcs (hlo _ (by simp)), hr2 _ hcs, hr1 _ hcs, hc, Dev.rd_wr_self]
  · rw [ht5, ht2, ht1, hc, Dev.wr_tmr, ht]
  · rw [h5.m0, h20, h10, hm, hf.m0]; simp
  · rw [h5.m1, h21, h11, hm, hf.m1]; simp
  · rw [h5.regs k h2 h3, hr2 k h2, hr1 k h2, hc, Dev.rd_wr_ne _ _ h1, hf.regs k h2 h3]

/-- A unit tick is one update of the count by one step, or to the value loaded from one above it; `y` is the timer as it goes into it. -/
theorem Dev.unitTick_eq (d0 : Dev) (n : Nat) :
    let d := d0.timerWrites n
    let x := d.tmr n
    let c := d.rd (tmCnt n)
    let mode := d.fg (tmCtl n) TmCtl.MODE
    let r := if x.rld = 0 ∧ mode ≤ 1 then 1 else x.rld
    let new := if x.ld = true ∨ (c = 0 ∧ mode ≤ 1) then r else c - 1
    x.done = false → x.ld = true ∨ (d.counting n = true ∧ d.pscExpired n = true) →
    ∃ p q, d0.unitTick n = (d.putTmr n { x with
      psc := p, div := q, ld := false, done := true, zDue := if x.ld then x.zDue else decide (c = 1) }).countUpdate n (new + 1) new := by
  intro d x c mode r new hd hl
  have hr : ∀ y : Tmr, y.rld = x.rld → (d.putTmr n y).reloadValue n = r := fun y hy => by
    unfold Dev.reloadValue
    dsimp only
    rw [Dev.putTmr_tmr, hy, Dev.putTmr_fg]
  unfold Dev.unitTick
  simp only [show (d0.timerWrites n) = d from rfl, show d.tmr n = x from rfl, hd, Bool.false_eq_true, if_false]
  by_cases hld : x.ld = true
  · refine ⟨x.psc, x.div, ?_⟩
    simp only [hld, if_true, new, true_or, Dev.loadTimer, hr { x with ld := false, done := true } rfl]
  · obtain ⟨h1, h2⟩ := hl.resolve_left hld
    refine ⟨0, d.fg (tmCtl n) TmCtl.PSC, ?_⟩
    have hx : x.ld = false := Bool.eq_false_iff.2 hld
    simp only [hx, h1, h2, Bool.and_self, if_true, if_false, Bool.false_eq_true, false_or, new]
    by_cases hc : c = 0 ∧ mode ≤ 1
    · rw [if_pos hc, if_pos hc, Dev.loadTimer]
      exact congrArg (fun v => Dev.countUpdate _ n (v + 1) v) (hr _ rfl)
    · rw [if_neg hc, if_neg hc, BitVec.sub_add_cancel]

/-- Settles O11: the writes of order 2 leave count, control and matches, and the rest is one update of the count. -/
theorem unitTicksCountAndMatch : Obligations.UnitTicksCountAndMatch := by
  intro s n ha d x c mode r new live hd hl
  have hf := Dev.TmFrame.timerWrites s.dev n.val
  have hreg : ∀ k ∈ [tmCnt n.val, tmCtl n.val], d.rd k = s.dev.rd k := fun k hk => by
    refine hf.regs k ?_ ?_ <;> simp only [List.mem_cons, List.not_mem_nil, or_false] at hk <;> rcases hk with rfl | rfl <;>
      simp only [tmCnt, tmCtl, tmStat] <;> omega
  have hctl : ∀ f, d.fg (tmCtl n.val) f = s.dev.fg (tmCtl n.val) f := fun f => congrArg f.get (hreg _ (by simp))
  obtain ⟨p, q, he⟩ := Dev.unitTick_eq s.dev n.val hd hl
  simp only [show s.dev.timerWrites n.val = d from rfl, hctl, hreg (tmCnt n.val) (by simp)] at he
  obtain ⟨h1, ⟨w0, w1, a, b, h2⟩, h3, h4, h5⟩ := Dev.countUpdate_spec n.isLt (d.putTmr n.val { x with
    psc := p, div := q, ld := false, done := true, zDue := if x.ld then x.zDue else decide (c = 1) }) new
  rw [← he] at h1 h2 h3 h4 h5
  rw [Dev.putTmr_tmr] at h2 h3 h4
  have hce : ∀ f, d.ff (tmCtl n.val) f = s.dev.ff (tmCtl n.val) f := fun f => by rw [Dev.ff, hctl, Dev.ff]
  have hm0 : d.ff (tmStat n.val) TmStat.M0 = s.dev.ff (tmStat n.val) TmStat.M0 := hf.m0
  have hm1 : d.ff (tmStat n.val) TmStat.M1 = s.dev.ff (tmStat n.val) TmStat.M1 := hf.m1
  simp only [Dev.putTmr_ff, hce, hm0, hm1] at h3 h4
  refine ⟨_, State.next_live ha rfl, rfl, rfl, h1, by rw [State.onDev_dev, h2]; rfl, by rw [State.onDev_dev, h2]; rfl, h3, h4, by rw [State.onDev_dev, h2],
    by rw [State.onDev_dev, h2], by rw [State.onDev_dev, h2], fun k hk1 hk2 hk3 => (h5 k hk1 hk2 hk3).trans (hf.regs k hk2 hk3)⟩

end Sys2Proof.Machine
end

section
/-! What leaving ACTIVE does to a field port (R121, R137, R152). -/

namespace Sys2Proof.Machine

open Sys2Proof

/-- The registers that a port's leaving writes after its sequencer's halt: FPnSTAT, FPnIN and FPRAIL. -/
theorem Dev.leaveActive_fg (d : Dev) (p s : Nat) {r : Nat} (h : r ≠ fpStat p ∧ r ≠ fpIn p ∧ r ≠ fpRail) (f : Span) :
    (d.leaveActive p s).fg r f = (if d.fpState p = 1 then (d.ejSample p).seqStop p else d).fg r f := by
  obtain ⟨hs, hi, hr⟩ := h
  simp only [Dev.leaveActive, Dev.syncRail, Dev.fg_fp_ne _ _ _ _ hr, Dev.putPort_fg, Dev.fg_fp_ne _ _ _ _ hi, Dev.fg_fp_ne _ _ _ _ hs]

theorem Dev.leaveActive_state (d : Dev) (p : Nat) (hp : p < 32) (k : Fin 4) : (d.leaveActive p k.val).fpState p = k.val := by
  have hr : fpStat p ≠ fpRail := by unfold fpStat fpRail; omega
  have hi : fpStat p ≠ fpIn p := by unfold fpStat fpIn; omega
  simp only [Dev.fpState, Dev.leaveActive, Dev.syncRail, Dev.fg_fp_ne _ _ _ _ hr, Dev.putPort_fg, Dev.fg_fp_ne _ _ _ _ hi]
  rw [Dev.fg_fp_apart _ _ FpStat.CHK FpStat.STATE _ (by decide) (by decide), Dev.fg_fp_self _ _ _ _ (by decide)]
  exact Nat.mod_eq_of_lt k.isLt

theorem Dev.leaveActive_rv (d : Dev) (p : Nat) (hp : p < 32) (s : Nat) : (d.leaveActive p s).ff (fpIn p) FpIn.RV = false := by
  have hr : fpIn p ≠ fpRail := by unfold fpIn fpRail; omega
  simp only [Dev.ff, Dev.leaveActive, Dev.syncRail, Dev.fg_fp_ne _ _ _ _ hr, Dev.putPort_fg]
  rw [Dev.fg_fp_apart _ _ FpIn.LINE FpIn.RV _ (by decide) (by decide), Dev.fg_fp_self _ _ _ _ (by decide)]
  rfl

/-- Of the port's own state, leaving ends what it drives and keeps what its sequencer is told. -/
theorem Dev.leaveActive_port (d : Dev) (p s : Nat) :
    ((d.leaveActive p s).port p).drv = 0 ∧
      ((d.leaveActive p s).port p).stop = ((if d.fpState p = 1 then (d.ejSample p).seqStop p else d).port p).stop := by
  constructor <;> simp [Dev.leaveActive, Dev.syncRail, Dev.fp]

/-- The sample that enters FPnEJ leaves the sequencer. -/
theorem Dev.ejSample_seq (d : Dev) (p : Nat) :
    ((d.ejSample p).port p).wait = (d.port p).wait ∧ (d.ejSample p).ff (fpSeqs p) FpSeqs.HLT = d.ff (fpSeqs p) FpSeqs.HLT := by
  have hej : fpSeqs p ≠ fpEj p := by unfold fpSeqs fpEj; omega
  unfold Dev.ejSample
  split
  · refine ⟨?_, ?_⟩
    · dsimp only [Dev.next]
      exact (congrArg Port.wait (Dev.putPort_port ..)).trans rfl
    · exact Dev.ff_wr_ne d _ _ hej
  · exact ⟨rfl, rfl⟩

/-- A port that is not ACTIVE drives nothing. -/
theorem Dev.inactive_of_state {d : Dev} {p : Nat} (h : d.fpState p ≠ 1) : d.active p = false := by simp [Dev.active, h]

/-- Settles O14: the state leaves ACTIVE, and so nothing is driven; the sequencer was stopped before. -/
theorem leavingActiveFloatsThePort : Obligations.LeavingActiveFloatsThePort := by
  intro d p k hk t
  have hst : t.fpState p.val = k.val := Dev.leaveActive_state d p.val p.isLt k
  have hact : t.active p.val = false := Dev.inactive_of_state (hst ▸ hk)
  obtain ⟨hdrv, hstop⟩ := Dev.leaveActive_port d p.val k.val
  obtain ⟨hw, hh⟩ := Dev.ejSample_seq d p.val
  have hseq : fpSeqs p.val ≠ fpStat p.val ∧ fpSeqs p.val ≠ fpIn p.val ∧ fpSeqs p.val ≠ fpRail := by
    unfold fpSeqs fpStat fpIn fpRail; omega
  refine ⟨hst, by simp [Dev.driven, hact], by simp [Dev.loopOut, hact], Dev.leaveActive_rv d p.val p.isLt k.val, hdrv, fun h1 hn => ?_, fun h1 hn h0 => ?_⟩
  · rw [Dev.ff, Dev.leaveActive_fg d p.val k.val hseq, if_pos h1, Dev.seqStop, if_pos (.inr (hw.trans hn)), Dev.seqHalt, Dev.putPort_fg,
      Dev.fg_fp_self _ _ _ _ (by decide)]
    rfl
  · have hgo : ¬((d.ejSample p.val).ff (fpSeqs p.val) FpSeqs.HLT = true ∨ ((d.ejSample p.val).port p.val).wait = .none) := by simp [hh, h0, hw, hn]
    rw [hstop, if_pos h1, Dev.seqStop, if_neg hgo, Dev.putPort_port]

end Sys2Proof.Machine
end

section
/-! Writes of a register by its block: the register that stands at an address, and the block's own effect of a write there. -/

namespace Sys2Proof.Machine

open Sys2Proof

/-! ### The register at an address (R17) -/

theorem regDesc_port {p o : Nat} (hp : p < 32) (ho : o < 0x100) : regDesc (0x040000 + 0x100 * p + o) = descPort o := by
  have h1 : (0x040000 + 0x100 * p + o) % 0x1000000 / 0x10000 = 4 := by omega
  have h2 : (0x040000 + 0x100 * p + o) % 0x1000000 % 0x10000 < 0x2000 := by omega
  have h3 : (0x040000 + 0x100 * p + o) % 0x1000000 % 0x10000 % 0x100 = o := by omega
  simp only [regDesc, h1, descField, h2, h3, if_true]

theorem regDesc_timer {n o : Nat} (hn : n < 64) (ho : o < 0x10) : regDesc (0x030000 + 0x10 * n + o) = descTimer o := by
  have h1 : (0x030000 + 0x10 * n + o) % 0x1000000 / 0x10000 = 3 := by omega
  have h2 : (0x030000 + 0x10 * n + o) % 0x1000000 % 0x10000 < 0x400 := by omega
  have h3 : (0x030000 + 0x10 * n + o) % 0x1000000 % 0x10000 % 0x10 = o := by omega
  simp only [regDesc, h1, h2, h3, if_true]

/-! ### The effect of a write, block by block -/

/-- A write of a register without locked fields, whose own effect, the device's alone, is `x`. -/
theorem State.rowWrite_eff (s : State) (who : Requester) (r : Nat) (v : Half) (q : RegDesc) (h : s.reaches who r = true) (hq : regDesc r = q)
    (hw : q.wide = false) (hl : q.mask (fun a => a == .rwl) = 0) (hr : r ≠ fcRec ∧ r ≠ bCtl ∧ r ≠ btCmd ∧ r ≠ ssCmd ∧ r ≠ ssCfg)
    (hg : r / 0x10000 ≠ 0xB ∨ r % 8 ≠ 4) {x : Bool × Dev}
    (hx : s.dev.regWrite who r (s.dev.ioKey who r) (s.dev.newAt who r v) (ofHalf v &&& 0xFFFFFFFFF) = x) : s.rowWrite who r v = s.wrote r x.1 x.2 := by
  rw [State.rowWrite_free s who r v q h hq hw hl hr hg, hx]

theorem Dev.regWrite_port (d : Dev) (who : Requester) {p o : Nat} (hp : p < 32) (ho : o < 0x100) (key : Nat) (new v : Word) :
    d.regWrite who (0x040000 + 0x100 * p + o) key new v = d.wrPort (0x040000 + 0x100 * p + o) new v := by
  have h1 : (0x040000 + 0x100 * p + o) / 0x10000 = 4 := by omega
  have h2 : (0x040000 + 0x100 * p + o) % 0x10000 < 0x2000 := by omega
  simp only [Dev.regWrite, h1, h2, if_true]

theorem Dev.regWrite_timers (d : Dev) (who : Requester) {r : Nat} (h : r / 0x10000 = 3) (key : Nat) (new v : Word) :
    d.regWrite who r key new v = d.wrTimer r new v := by simp only [Dev.regWrite, h]

/-- A write of a register of a field port without locked fields, whose own effect is `x`. -/
theorem State.rowWrite_port (s : State) (who : Requester) {p o : Nat} (hp : p < 32) (ho : o < 0x100) (v : Half)
    (h : s.reaches who (0x040000 + 0x100 * p + o) = true) (hw : (descPort o).wide = false) (hl : (descPort o).mask (fun a => a == .rwl) = 0)
    {x : Bool × Dev}
    (hx : s.dev.wrPort (0x040000 + 0x100 * p + o) (s.dev.newAt who (0x040000 + 0x100 * p + o) v) (ofHalf v &&& 0xFFFFFFFFF) = x) :
    s.rowWrite who (0x040000 + 0x100 * p + o) v = s.wrote (0x040000 + 0x100 * p + o) x.1 x.2 := by
  rw [State.rowWrite_free s who _ v (descPort o) h (regDesc_port hp ho) hw hl
    (by simp only [fcRec, bCtl, btCmd, ssCmd, ssCfg]; omega) (.inl (by omega)), Dev.regWrite_port _ _ hp ho, hx]

end Sys2Proof.Machine
end

section
/-! The port sequencer (R134-R137, R610): the instruction of each word, and the run of one. -/

namespace Sys2Proof.Machine

open Sys2Proof

/-! ### The words of the instructions -/

theorem seqDecode_ldi (a : Fin 8) (i : Fin 512) : seqDecode (0x1000 + 512 * a.val + i.val) = .ldi a.val i.val := by
  simp only [seqDecode, show (0x1000 + 512 * a.val + i.val) / 4096 % 16 = 1 by omega, show (0x1000 + 512 * a.val + i.val) / 512 % 8 = a.val by omega,
    show (0x1000 + 512 * a.val + i.val) % 512 = i.val by omega]

theorem seqDecode_ldh (a : Fin 8) (i : Fin 512) : seqDecode (0x2000 + 512 * a.val + i.val) = .ldh a.val i.val := by
  simp only [seqDecode, show (0x2000 + 512 * a.val + i.val) / 4096 % 16 = 2 by omega, show (0x2000 + 512 * a.val + i.val) / 512 % 8 = a.val by omega,
    show (0x2000 + 512 * a.val + i.val) % 512 = i.val by omega]

theorem seqDecode_addi (a : Fin 8) (i : Fin 512) : seqDecode (0x4000 + 512 * a.val + i.val) = .addi a.val i.val := by
  simp only [seqDecode, show (0x4000 + 512 * a.val + i.val) / 4096 % 16 = 4 by omega, show (0x4000 + 512 * a.val + i.val) / 512 % 8 = a.val by omega,
    show (0x4000 + 512 * a.val + i.val) % 512 = i.val by omega]

theorem seqDecode_alu (a b : Fin 8) {k : Nat} {f : SeqAlu} (hf : seqAlu k = some f) (hk : k < 64) :
    seqDecode (0x3000 + 512 * a.val + 64 * b.val + k) = .alu f a.val b.val := by
  simp only [seqDecode, show (0x3000 + 512 * a.val + 64 * b.val + k) / 4096 % 16 = 3 by omega,
    show (0x3000 + 512 * a.val + 64 * b.val + k) / 512 % 8 = a.val by omega, show (0x3000 + 512 * a.val + 64 * b.val + k) / 64 % 8 = b.val by omega,
    show (0x3000 + 512 * a.val + 64 * b.val + k) % 64 = k by omega, hf]

theorem seqDecode_inp (a c : Fin 8) : seqDecode (0x5000 + 512 * a.val + c.val) = .inp a.val c.val := by
  simp only [seqDecode, show (0x5000 + 512 * a.val + c.val) / 4096 % 16 = 5 by omega, show (0x5000 + 512 * a.val + c.val) / 512 % 8 = a.val by omega,
    show (0x5000 + 512 * a.val + c.val) % 512 = c.val by omega, c.isLt, if_true]

theorem seqDecode_out (a : Fin 8) {t : Nat} (ht : t < 5) : seqDecode (0x6000 + 512 * a.val + t) = .out a.val t := by
  simp only [seqDecode, show (0x6000 + 512 * a.val + t) / 4096 % 16 = 6 by omega, show (0x6000 + 512 * a.val + t) / 512 % 8 = a.val by omega,
    show (0x6000 + 512 * a.val + t) % 512 = t by omega, ht, if_true]

theorem seqDecode_sett (t : Fin 3) (v : Bool) : seqDecode (0x7000 + 1024 * t.val + 512 * b2n v) = .sett t.val v := by
  revert t v; decide

theorem seqDecode_wait (n : Fin 4096) : seqDecode (0x8000 + n.val) = .wait n.val := by
  simp only [seqDecode, show (0x8000 + n.val) / 4096 % 16 = 8 by omega, show (0x8000 + n.val) % 4096 = n.val by omega]

theorem seqDecode_wedg (t e : Fin 3) (k : Fin 8) :
    seqDecode (0x9000 + 1024 * t.val + 256 * e.val + 32 * k.val) = .wedg t.val e.val k.val := by
  revert t e k; decide

theorem seqDecode_br (c : Fin 7) (k : Fin 64) : seqDecode (0xA000 + 512 * c.val + k.val) = .br c.val k.val := by
  simp only [seqDecode, show (0xA000 + 512 * c.val + k.val) / 4096 % 16 = 10 by omega, show (0xA000 + 512 * c.val + k.val) / 512 % 8 = c.val by omega,
    show (0xA000 + 512 * c.val + k.val) / 64 % 8 = 0 by omega, show (0xA000 + 512 * c.val + k.val) % 64 = k.val by omega, c.isLt, and_self, if_true]

theorem seqDecode_djnz (a : Fin 8) (k : Fin 64) : seqDecode (0xB000 + 512 * a.val + k.val) = .djnz a.val k.val := by
  simp only [seqDecode, show (0xB000 + 512 * a.val + k.val) / 4096 % 16 = 11 by omega, show (0xB000 + 512 * a.val + k.val) / 512 % 8 = a.val by omega,
    show (0xB000 + 512 * a.val + k.val) / 64 % 8 = 0 by omega, show (0xB000 + 512 * a.val + k.val) % 64 = k.val by omega, if_true]

theorem seqDecode_evt (c : Fin 256) : seqDecode (0xC000 + c.val) = .evt c.val := by
  simp only [seqDecode, show (0xC000 + c.val) / 4096 % 16 = 12 by omega, show (0xC000 + c.val) / 256 % 16 = 0 by omega,
    show (0xC000 + c.val) % 256 = c.val by omega, if_true]

theorem seqDecode_flt (k : Fin 2) : seqDecode (0xD000 + k.val) = .flt k.val := by revert k; decide

theorem seqAlu_beyond {k : Nat} (h : 8 < k) : seqAlu k = none := by
  obtain ⟨j, rfl⟩ : ∃ j, k = j + 9 := ⟨k - 9, by omega⟩
  rfl

/-- The words that no instruction has. -/
theorem seqDecode_illegal {w : Nat} (hw : w < 0x10000)
    (h : 0xE000 ≤ w ∨ (w / 4096 = 0 ∧ w ≠ 0) ∨ (w / 4096 = 3 ∧ 8 < w % 64) ∨ (w / 4096 = 5 ∧ 8 ≤ w % 512) ∨ (w / 4096 = 6 ∧ 5 ≤ w % 512) ∨
        (w / 4096 = 7 ∧ (w / 1024 % 4 = 3 ∨ w % 512 ≠ 0)) ∨ (w / 4096 = 9 ∧ (w / 1024 % 4 = 3 ∨ w / 256 % 4 = 3 ∨ w % 32 ≠ 0)) ∨
        (w / 4096 = 0xA ∧ (w / 512 % 8 = 7 ∨ w / 64 % 8 ≠ 0)) ∨ (w / 4096 = 0xB ∧ w / 64 % 8 ≠ 0) ∨
        (w / 4096 = 0xC ∧ w / 256 % 16 ≠ 0) ∨ (w / 4096 = 0xD ∧ 2 ≤ w % 4096)) : seqDecode w = .illegal := by
  unfold seqDecode
  dsimp only
  split
  case h_4 => rw [seqAlu_beyond (by omega)]
  case h_15 => rfl
  case h_2 | h_3 | h_5 | h_9 => omega
  all_goals exact if_neg (by omega)

/-! ### The run of an instruction -/

section
variable {d e : Dev} {p : Nat} {i : SeqIns} {f : Dev → SeqIns → Option Dev}

/-- The instruction at the next slot runs in a ready sequencer, PC showing its slot. -/
theorem Dev.seqStep_of (hr : d.seqReady p = true) (hi : seqDecode (d.fg (fpPrg p (d.port p).slot) FpPrg.INS) = i)
    (hf : f (d.fp (fpSeqs p) FpSeqs.PC (d.port p).slot) i = some e) : d.seqStep p f = e := by
  rw [Dev.seqStep, if_pos hr, Dev.seqIns, Dev.seqSlot, hi, hf]
  rfl

/-- An ALU instruction of the function that the command names. -/
theorem Dev.seqAluOp_of (hr : d.seqReady p = true) {f : SeqAlu} {a b : Nat}
    (hi : seqDecode (d.fg (fpPrg p (d.port p).slot) FpPrg.INS) = .alu f a b) :
    let c := d.fp (fpSeqs p) FpSeqs.PC (d.port p).slot
    let v := f.eval (c.seqQ p a) (c.seqQ p b)
    d.seqAluOp f p = ((if f = .cmp then c else c.seqSetQ p a v).seqFlags p v).seqNext p := by
  intro c v
  exact Dev.seqStep_of hr hi (if_pos rfl)

end

end Sys2Proof.Machine
end

section
/-! The sequencer's instructions that compute, read and drive (R134, R135). -/

namespace Sys2Proof.Machine

open Sys2Proof

/-- Settles O16: each word is decoded, and the row's own case of the run is what is stated. -/
theorem sequencerComputes : Obligations.SequencerComputes := by
  intro s p ha hr slot d w q set next flags drive
  have run : ∀ {i : SeqIns} {f : Dev → SeqIns → Option Dev} {e : Dev}, seqDecode w = i → f d i = some e → s.dev.seqStep p.val f = e :=
    fun hi hf => Dev.seqStep_of hr hi hf
  have alu : ∀ {a b : Fin 8} {k : Nat} (f : SeqAlu), seqAlu k = some f → k < 64 → w = 0x3000 + 512 * a.val + 64 * b.val + k → f ≠ .cmp →
      s.dev.seqAluOp f p.val = ((set a.val (f.eval (q a.val) (q b.val))).seqFlags p.val (f.eval (q a.val) (q b.val))).seqNext p.val :=
    fun f hf hk hw hc => (Dev.seqAluOp_of hr (hw ▸ seqDecode_alu _ _ hf hk)).trans (by rw [if_neg hc]; rfl)
  refine ⟨fun a i => ⟨fun hw => ?_, fun hw => ?_, ?_⟩, fun a b => ?_, ?_, fun a t hw => ?_, fun a hw => ?_, fun a hw => ?_, fun t v hw => ?_⟩
  · exact State.next_live ha (run (hw ▸ seqDecode_ldi a i) rfl)
  · exact State.next_live ha (run (hw ▸ seqDecode_ldh a i) rfl)
  · intro hw v
    exact State.next_live ha (run (hw ▸ seqDecode_addi a i) rfl)
  · intro x y alu' word
    refine ⟨fun hw => ?_, fun hw => ?_, fun hw => ?_, fun hw => ?_, fun hw => ?_, fun hw => ?_, fun hw => ?_, fun hw => ?_, fun hw => ?_⟩
    · exact State.next_live ha (alu .mov rfl (by decide) hw (by decide))
    · exact State.next_live ha (alu .add rfl (by decide) hw (by decide))
    · exact State.next_live ha (alu .sub rfl (by decide) hw (by decide))
    · exact State.next_live ha (alu .and rfl (by decide) hw (by decide))
    · exact State.next_live ha (alu .or rfl (by decide) hw (by decide))
    · exact State.next_live ha (alu .xor rfl (by decide) hw (by decide))
    · exact State.next_live ha (alu .shl rfl (by decide) hw (by decide))
    · exact State.next_live ha (alu .shr rfl (by decide) hw (by decide))
    · exact State.next_live ha (Dev.seqAluOp_of hr (show seqDecode w = _ from hw ▸ seqDecode_alu a b (f := .cmp) rfl (by decide)))
  · intro a c hw pub v
    exact State.next_live ha (run (hw ▸ seqDecode_inp a c) rfl)
  · exact State.next_live ha (run (hw ▸ seqDecode_out a (Nat.lt_of_lt_of_le t.isLt (by decide))) (by fin_cases t <;> rfl))
  · have h : w = 0x6000 + 512 * a.val + 3 := by rw [hw]; omega
    exact State.next_live ha (run (h ▸ seqDecode_out a (by decide)) rfl)
  · have h : w = 0x6000 + 512 * a.val + 4 := by rw [hw]; omega
    exact State.next_live ha (run (h ▸ seqDecode_out a (by decide)) rfl)
  · exact State.next_live ha (run (hw ▸ seqDecode_sett t v) rfl)

end Sys2Proof.Machine
end

section
/-! The sequencer's instructions that wait, branch, tell software and halt, the end of its waits, and its start (R134-R137, R610). -/

namespace Sys2Proof.Machine

open Sys2Proof

section
variable {d : Dev} {p : Nat}

theorem Dev.seqWaits_of (h : d.active p = true ∨ (d.port p).stop = true) (hr : (d.port p).ran = false) : d.seqWaits p = true := by
  simp [Dev.seqWaits, hr, h]

/-- The time of a WAIT is over. -/
theorem Dev.seqWaitEnd_of {u : Nat} (hw : (d.port p).wait = .until u) (hs : d.seqWaits p = true) (hu : u ≤ d.tick) : d.seqWaitEnd p = d.seqResume p := by
  simp [Dev.seqWaitEnd, hw, hs, hu]

/-- A WEDG has seen its edge. -/
theorem Dev.seqEdge_of {t e : Nat} {r : Bool} {l : Option Nat} (hw : (d.port p).wait = .edge t e r l) (hs : d.seqWaits p = true)
    (he : edgeShown e r ((d.port p).pub.testBit t) = true) : d.seqEdge p = (d.fp (fpSeqs p) FpSeqs.T 0).seqOver p := by
  simp [Dev.seqEdge, hw, hs, he]

/-- The time of a WEDG is over. -/
theorem Dev.seqEdgeTimeout_of {t e u : Nat} {r : Bool} (hw : (d.port p).wait = .edge t e r (some u)) (hs : d.seqWaits p = true) (hu : u ≤ d.tick)
    (he : edgeShown e r ((d.port p).pub.testBit t) = false) : d.seqEdgeTimeout p = (d.fp (fpSeqs p) FpSeqs.T 1).seqOver p := by
  simp [Dev.seqEdgeTimeout, hw, hs, hu, he]

/-- RUN set starts a halted sequencer of an ACTIVE port. -/
theorem Dev.seqControl_of {v : Word} (hv : FpSeqc.RUN.get v = 1) :
    let e := d.wr (fpSeqc p) (v &&& (FpSeqc.RUN.mask ||| FpSeqc.TSH.mask ||| FpSeqc.ENTRY.mask))
    d.seqControl p v = if e.active p ∧ e.ff (fpSeqs p) FpSeqs.HLT = true then e.seqStart p else e := by
  intro e
  have h0 : ¬FpSeqc.RUN.get v = 0 := by rw [hv]; decide
  rw [Dev.seqControl, if_neg h0]
  exact if_congr (by rw [Bool.and_eq_true]) rfl rfl

end

/-- A write of FPnSEQC is the sequencer's control. -/
theorem Dev.wrPort_seqc (d : Dev) {p : Nat} (hp : p < 32) (new v : Word) : d.wrPort (fpSeqc p) new v = (false, d.seqControl p new) := by
  have h1 : fpSeqc p % 0x10000 / 0x100 = p := by unfold fpSeqc; omega
  have h2 : fpSeqc p % 0x100 = 0x10 := by unfold fpSeqc; omega
  simp only [Dev.wrPort, h1, h2]

/-- RUN written as 1 is 1 in the value that the register takes. -/
theorem Dev.newAt_run (d : Dev) (who : Requester) {p : Nat} (hp : p < 32) (v : Half) :
    FpSeqc.RUN.get (d.newAt who (fpSeqc p) (withField FpSeqc.RUN 1 v)) = 1 := by
  have ha : ∀ w, d.absentFields (fpSeqc p) w = [] := fun w => by
    have h1 : fpSeqc p / 0x10000 = 4 := by unfold fpSeqc; omega
    have h2 : ¬(0x4000 ≤ fpSeqc p % 0x10000) := by unfold fpSeqc; omega
    simp [Dev.absentFields, h1, h2]
  rw [Dev.newAt_rw d who _ _ FpSeqc.RUN FpSeqc.desc (regDesc_port hp (by decide)) ha (by decide) (by decide) (by decide),
    get_ofHalf_withField _ _ _ (by decide)]
  rfl

/-- Settles O17: the instructions by their words, the waits by their end, and SEQC by its control. -/
theorem sequencerControls : Obligations.SequencerControls := by
  intro s p ha x d w q unit go next tell stop halt ran
  refine ⟨fun hr => ?_, fun hact hran => ?_, fun who v h => ?_⟩
  · have run : ∀ {i : SeqIns} {f : Dev → SeqIns → Option Dev} {e : Dev}, seqDecode w = i → f d i = some e → s.dev.seqStep p.val f = e :=
      fun hi hf => Dev.seqStep_of hr hi hf
    have hlt : w < 0x10000 := Nat.mod_lt _ (by decide)
    refine ⟨fun n hw => ?_, ?_, ?_, ?_, fun c hw => ?_, fun k hw => ?_, fun hw => ?_, fun hw => ?_⟩
    · exact State.next_live ha (run (hw ▸ seqDecode_wait n) rfl)
    · intro t e k hw l
      exact State.next_live ha (run (hw ▸ seqDecode_wedg t e k) rfl)
    · intro c k hw z n t taken
      exact State.next_live ha (run (hw ▸ seqDecode_br c k) rfl)
    · intro a k hw v e
      exact State.next_live ha (run (hw ▸ seqDecode_djnz a k) rfl)
    · exact State.next_live ha (run (hw ▸ seqDecode_evt c) rfl)
    · exact State.next_live ha (run (hw ▸ seqDecode_flt k) rfl)
    · exact State.next_live ha (run (show seqDecode w = .halt by rw [hw]; rfl) rfl)
    · exact State.next_live ha (run (seqDecode_illegal hlt hw) rfl)
  · have hs : s.dev.seqWaits p.val = true := Dev.seqWaits_of hact hran
    intro fin
    refine ⟨fun u hw hu => ?_, fun t e r l hw => ?_⟩
    · intro e
      exact State.next_live ha (Dev.seqWaitEnd_of hw hs hu)
    · intro new seen
      refine ⟨fun he => State.next_live ha (Dev.seqEdge_of hw hs he), fun u hl hu he => ?_⟩
      exact State.next_live ha (Dev.seqEdgeTimeout_of (hl ▸ hw) hs hu he)
  · intro new e
    have hx := (Dev.wrPort_seqc s.dev p.isLt new (ofHalf (withField FpSeqc.RUN 1 v) &&& 0xFFFFFFFFF)).trans
      (congrArg (Prod.mk false) (Dev.seqControl_of (Dev.newAt_run s.dev who p.isLt v)))
    exact congrArg Host.Outcome.next (State.rowWrite_port s who p.isLt (by decide) _ h rfl (by decide) hx)

end Sys2Proof.Machine
end

section
/-! The commands of a field port, the end of its network check and of the delay of an automatic return (R125, R128, R131, R133). -/

namespace Sys2Proof.Machine

open Sys2Proof

/-- A write of FPnCMD with one of its four bits. -/
theorem Dev.wrPort_cmd (d : Dev) {p : Nat} (hp : p < 32) (new v : Word) :
    d.wrPort (fpCmd p) new v = (match v.toNat % 16 with
      | 8 => (d.portEN p).swap | 4 => (false, d.portDIS p) | 2 => (d.portRESTORE p).swap | 1 => (false, d.portISOL p) | 0 => (false, d) | _ => (true, d)) := by
  have h1 : fpCmd p % 0x10000 / 0x100 = p := by unfold fpCmd; omega
  have h2 : fpCmd p % 0x100 = 7 := by unfold fpCmd; omega
  simp only [Dev.wrPort, h1, h2] <;> rfl

section
variable {d : Dev} {p : Nat}

/-- The limits that an EN or a RESTORE takes, and what the settings checks say of them. -/
def Dev.refusal (d : Dev) (p : Nat) : Nat := (d.latchLimits p).enableRef p ((d.latchLimits p).port p).uo ((d.latchLimits p).port p).po

/-- What an EN (`k` = 1) or a RESTORE (`k` = 2) that the checks pass does: ACTIVE at once, or the network check of an Ex port first. -/
def Dev.admitted (d : Dev) (p k : Nat) : Dev :=
  if d.ff (fpCfg p) FpCfg.EX then ((d.fp (fpStat p) FpStat.CHK 1).putPort p { d.port p with chk := k }).syncRail
  else ((if k = 2 then d.fp (fpStat p) FpStat.RCNT 0 else d).enterActive p).dropPermanent p

theorem Dev.portEnable_refused {b : Bool} (h : d.refusal p ≠ 0) : d.portEnable p b = (d.fp (fpStat p) FpStat.REF (d.refusal p), true) := if_pos h

theorem Dev.portEnable_admitted (b : Bool) (h : ¬d.refusal p ≠ 0) :
    let e := d.latchLimits p
    d.portEnable p b = (({ e with rider := { e.rider with rail := false } } : Dev).admitted p (if b then 2 else 1), false) := by
  intro e
  refine (if_neg h).trans ?_
  rw [Dev.admitted]
  split
  · rfl
  · cases b <;> rfl

theorem Dev.portEN_of (hs : d.fpState p = 0) (hc : d.ff (fpStat p) FpStat.CHK = false) : d.portEN p = d.portEnable p false :=
  if_pos ⟨hs, by simp [hc]⟩
theorem Dev.portRESTORE_of (hs : d.fpState p = 2 ∨ d.fpState p = 3) (hc : d.ff (fpStat p) FpStat.CHK = false) :
    d.portRESTORE p = d.portEnable p true := if_pos ⟨hs, by simp [hc]⟩
theorem Dev.portISOL_of (hs : d.fpState p = 1) (hc : d.ff (fpStat p) FpStat.CHK = false) : d.portISOL p = d.leaveActive p 2 :=
  if_pos ⟨hs, by simp [hc]⟩

/-- The network check ends within a tenth of the wire's resistance, or not. -/
theorem Dev.networkEnd_of (hc : d.ff (fpStat p) FpStat.CHK = true) (r : Nat) :
    let k := (d.port p).chk
    let w := d.fg (fpWire p) FpWire.RS
    let e := (d.fp (fpStat p) FpStat.CHK 0).putPort p { d.port p with chk := 0 }
    d.networkEnd p r =
      if 9 * w ≤ 10 * r ∧ 10 * r ≤ 11 * w then (if k = 3 then (e.safeLevels p).enterActive p
        else ((if k = 2 then e.fp (fpStat p) FpStat.RCNT 0 else e).enterActive p).dropPermanent p)
      else if k = 3 then (e.fp (fpStat p) FpStat.REF 4).permanentFault p else (e.fp (fpStat p) FpStat.REF 4).syncRail := by
  intro k w e
  have hend : (match k with | 3 => e.returnActive p | 2 => (e.restored p).dropPermanent p | _ => (e.enterActive p).dropPermanent p) =
      if k = 3 then (e.safeLevels p).enterActive p
      else ((if k = 2 then e.fp (fpStat p) FpStat.RCNT 0 else e).enterActive p).dropPermanent p := by
    clear_value e k
    by_cases h3 : k = 3
    · rw [if_pos h3, h3]; rfl
    · by_cases h2 : k = 2
      · rw [if_neg h3, if_pos h2, h2]; rfl
      · rw [if_neg h3, if_neg h2]
        split
        · contradiction
        · contradiction
        · rfl
  exact (if_pos hc).trans (if_congr Iff.rfl hend rfl)

/-- The delay of an automatic return is over. -/
theorem Dev.portRetry_of {t : Nat} (hr : (d.port p).retry = some t) (hs : d.fpState p = 2) (ht : t ≤ d.tick) (hc : d.ff (fpStat p) FpStat.CHK = false) :
    let e := d.putPort p { d.port p with retry := none }
    let ref := e.enableRef p (d.port p).uo (d.port p).po
    d.portRetry p = if ref ≠ 0 then (e.fp (fpStat p) FpStat.REF ref).permanentFault p
      else if e.ff (fpCfg p) FpCfg.EX then (e.fp (fpStat p) FpStat.CHK 1).putPort p { e.port p with chk := 3 }
      else (e.safeLevels p).enterActive p := by
  intro e ref
  have hgo : ¬(d.fpState p ≠ 2 ∨ d.tick < t ∨ d.ff (fpStat p) FpStat.CHK = true) := by simp [hs, hc]; omega
  simp only [Dev.portRetry, hr, if_neg hgo]
  rfl

end

/-- Settles O13: the commands by FPnCMD's effect, the ends by their own. -/
theorem portCommandsChangeItsState : Obligations.PortCommandsChangeItsState := by
  intro s who p r chk lim x ref base go
  refine ⟨fun h => ?_, fun ha => ⟨fun hc ohms => ?_, fun t hr hs ht hc => ?_⟩⟩
  · have row : ∀ {f : Span} {a : Bool × Dev}, s.dev.wrPort (fpCmd p.val) (s.dev.newAt who (fpCmd p.val) (withField f 1 0))
          (ofHalf (withField f 1 0) &&& 0xFFFFFFFFF) = a → s.rowWrite who (fpCmd p.val) (withField f 1 0) = s.wrote r a.1 a.2 :=
      fun hx => State.rowWrite_port s who p.isLt (by decide) _ h rfl (by decide) hx
    have enable : ∀ {f : Span} (b : Bool), s.dev.wrPort (fpCmd p.val) (s.dev.newAt who (fpCmd p.val) (withField f 1 0))
          (ofHalf (withField f 1 0) &&& 0xFFFFFFFFF) = (s.dev.portEnable p.val b).swap → s.rowWrite who (fpCmd p.val) (withField f 1 0) =
        if ref ≠ 0 then s.wrote r true (s.dev.fp (fpStat p.val) FpStat.REF ref) else s.wrote r false (go (base lim) (if b then 2 else 1)) := by
      intro f b hx
      by_cases hq : ref ≠ 0
      · rw [if_pos hq, row hx, Dev.portEnable_refused hq]; rfl
      · rw [if_neg hq, row hx, Dev.portEnable_admitted b hq]; rfl
    refine ⟨fun hs hc => ?_, fun hs hc => ?_, ?_, fun hs hc => ?_⟩
    · exact congrArg Host.Outcome.next (enable (f := FpCmd.EN) false
        ((Dev.wrPort_cmd s.dev p.isLt _ _).trans (congrArg Prod.swap (Dev.portEN_of hs hc))))
    · exact congrArg Host.Outcome.next (enable (f := FpCmd.RESTORE) true
        ((Dev.wrPort_cmd s.dev p.isLt _ _).trans (congrArg Prod.swap (Dev.portRESTORE_of hs hc))))
    · exact congrArg Host.Outcome.next (row (f := FpCmd.DIS) (Dev.wrPort_cmd s.dev p.isLt _ _))
    · exact congrArg Host.Outcome.next (row (f := FpCmd.ISOL)
        ((Dev.wrPort_cmd s.dev p.isLt _ _).trans (congrArg (Prod.mk false) (Dev.portISOL_of hs hc))))
  · intro k w e
    exact State.next_live ha (Dev.networkEnd_of hc ohms)
  · intro y e ref'
    exact State.next_live ha (Dev.portRetry_of hr hs ht hc)

end Sys2Proof.Machine
end

section
/-! Field faults, readings and hit phases of an ACTIVE port, and the FIFOs of its UART (R119, R122-R124, R129, R132, R133, R153, R160). -/

namespace Sys2Proof.Machine

open Sys2Proof

section
variable {d : Dev} {p : Nat} (ha : d.active p = true)
include ha

/-- A field fault counts, and isolates the port for an automatic return or makes it FAILED (R132, R133). -/
theorem Dev.fieldFault_of (c : Nat) :
    let n := min 15 (d.fg (fpStat p) FpStat.RCNT + 1)
    let e := ((d.latch (fpStat p) FpStat.CAUSE c).relevel (128 + p)).fp (fpStat p) FpStat.RCNT n
    let e := e.putPort p { e.port p with fltAt := e.tick }
    d.fieldFault p c false = if e.ff (fpFlt p) FpFlt.AUTOR ∧ n ≤ e.fg (fpFlt p) FpFlt.RTN then
      let f := (e.leaveActive p 2).pulseSrc p p
      f.putPort p { f.port p with retry := some (f.tick + max 1 (f.fg (fpFlt p) FpFlt.RDLY) * 1000000) }
    else e.permanentFault p := by
  intro n e0 e
  exact (if_pos ha).trans (if_congr (by simp only [Bool.not_false, Bool.true_and, Bool.and_eq_true, decide_eq_true_eq]; exact Iff.rfl) rfl rfl)

theorem Dev.windowEnd_of {q : Nat} {ej : Word} (ht : (d.port p).qAt + max 1 (d.fg (fpEnv p) FpEnv.QWIN) * 100000 ≤ d.tick) :
    let e := (d.wr (fpEj p) (d.rd (fpEj p) + ej)).putPort p { d.port p with qAt := d.tick, ejAt := d.tick }
    d.windowEnd p q ej = if e.fg (fpEnv p) FpEnv.QMAX < q then e.fieldFault p causeENV false else e :=
  if_pos (by simp [ha, ht])

theorem Dev.rtdEnd_of (hm : d.fpMode p = 4) (r : Half) :
    d.rtdEnd p r = if 4000 * 65536 < r.toInt then (d.setRes p r 1).fieldFault p causeOPEN false
      else if r.toInt < 10 * 65536 then (d.setRes p r 2).fieldFault p causeSHORT false else d.setRes p r 0 :=
  if_pos (by simp [ha, hm])

/-- LINE at a current reading, by the port's mode. -/
theorem Dev.loopReading_of (hm : d.fpMode p = 1 ∨ d.fpMode p = 3 ∨ d.fpMode p = 5 ∨ d.fpMode p = 6) (i : Half) (b : Nat) :
    d.loopReading p i b = d.setRes p i (
      if d.fpMode p = 1 then max b (if 6 * 65536 < i.toInt then 2 else if 100 * i.toInt < 15 * 65536 then 1 else 0)
      else if d.fpMode p = 3 then b
      else if 10 * i.toInt < 36 * 65536 ∨ 21 * 65536 < i.toInt then 3
      else if d.fpMode p = 6 ∧ 200 * 65536 < (1000 * i.toInt - (d.loopOut p : Int) * 65536).natAbs then 1 else 0) := by
  refine (if_pos (by simp [ha, hm])).trans (congrArg (d.setRes p i) ?_)
  unfold Dev.lineState
  rcases hm with hm | hm | hm | hm <;> rw [hm] <;> rfl

end

section
variable {d : Dev} {p : Nat}

theorem Dev.rcntClear_of (h : (d.port p).fltAt + max 1 (d.fg (fpFlt p) FpFlt.RWIN) * 100000000 ≤ d.tick) :
    d.rcntClear p = d.fp (fpStat p) FpStat.RCNT 0 := if_pos h

theorem Dev.hitEnd_of {t : Nat} (ht : t < 2) (hh : (d.port p).hit.testBit t = true)
    (hd : (if t = 0 then (d.port p).hitA else (d.port p).hitB) + d.fg (fpDrv p) FpDrv.HITT * 100000 ≤ d.tick) :
    d.hitEnd p t = d.putPort p { d.port p with hit := setBit (d.port p).hit t false } := if_pos (by simp [ht, hh, hd])

theorem Dev.openFault_of (h : d.fpMode p = 1 ∨ d.fpMode p = 3 ∨ d.fpMode p = 4 ∨ d.fpMode p = 6) : d.openFault p = d.fieldFault p causeOPEN false :=
  if_pos (by simpa using h)

theorem Dev.shortFault_of (h : d.fpMode p = 1 ∨ d.fpMode p = 3 ∨ d.fpMode p = 4 ∨ d.ff (fpCfg p) FpCfg.EX = true) :
    d.shortFault p = d.fieldFault p causeSHORT false := if_pos (by simpa [or_assoc] using h)

/-! ### The UART's FIFOs (R124, R160) -/

theorem Dev.txvPush_room (h : (d.port p).tx.length < 16) {o : Nat} (ho : o < 256) :
    d.txvPush p o = d.putPort p { d.port p with tx := (d.port p).tx ++ [o], drvOn := d.uartOn p } := by
  have hu : ∀ x : Port, (d.putPort p x).uartOn p = d.uartOn p := fun _ => rfl
  refine (if_neg (by omega)).trans ?_
  rw [Dev.syncUart, Dev.putPort_port, hu, Nat.mod_eq_of_lt ho]
  simp [Dev.putPort]

theorem Dev.txvPush_full (h : 16 ≤ (d.port p).tx.length) (o : Nat) : d.txvPush p o = d.fp (fpData p) FpData.OVR 1 := if_pos h

theorem Dev.uartSent_of (hu : d.uartOn p = true) {o : Nat} {l : List Nat} (hx : (d.port p).tx = o :: l) :
    d.uartSent p = (d.putPort p { d.port p with tx := l, drvOn := decide (l ≠ []) }).relevel (128 + p) := by
  have hp : ∀ x : Port, (d.putPort p x).uartOn p = true := fun _ => hu
  refine (if_pos (by simp [hu, hx])).trans ?_
  rw [Dev.syncUart, Dev.putPort_port, hp, hx]
  simp [Dev.putPort]

theorem Dev.uartGot_room (hu : d.uartOn p = true) (ho : (d.port p).drvOn = false) (h : (d.port p).rx.length < 16) {o : Nat} (ho8 : o < 256) (err : Bool) :
    d.uartGot p o err = (d.putPort p { d.port p with rx := (d.port p).rx ++ [(o, err)] }).relevel (128 + p) := by
  refine (if_pos (by simp [hu, ho])).trans ((if_neg (by omega)).trans ?_)
  rw [Nat.mod_eq_of_lt ho8]

theorem Dev.uartGot_full (hu : d.uartOn p = true) (ho : (d.port p).drvOn = false) (h : 16 ≤ (d.port p).rx.length) (o : Nat) (err : Bool) :
    d.uartGot p o err = d.fp (fpData p) FpData.OVR 1 := (if_pos (by simp [hu, ho])).trans (if_pos h)

end

/-- A write of FPnDATA with TXV pushes its octet. -/
theorem Dev.wrPort_txv (d : Dev) {p : Nat} (hp : p < 32) (new : Word) (o : BitVec 8) :
    d.wrPort (fpData p) new (ofHalf (withField FpData.TXV 1 (withField FpData.TXD o.toNat 0)) &&& 0xFFFFFFFFF) = (false, d.txvPush p o.toNat) := by
  have h1 : fpData p % 0x10000 / 0x100 = p := by unfold fpData; omega
  have h2 : fpData p % 0x100 = 0xC := by unfold fpData; omega
  have hv : FpData.TXV.get (ofHalf (withField FpData.TXV 1 (withField FpData.TXD o.toNat 0)) &&& 0xFFFFFFFFF) ≠ 0 := by
    rw [get_withField _ _ _ (by decide)]; decide
  have hd : FpData.TXD.get (ofHalf (withField FpData.TXV 1 (withField FpData.TXD o.toNat 0)) &&& 0xFFFFFFFFF) = o.toNat := by
    rw [get_withField_ne FpData.TXV FpData.TXD _ _ (by decide) (by decide) (by decide), get_withField _ _ _ (by decide)]
    exact Nat.mod_eq_of_lt o.isLt
  simp only [Dev.wrPort, h1, h2, hd, if_pos hv]

/-- A read of FPnDATA shows the FIFO's head and takes it. -/
theorem Dev.ioRead_data (d : Dev) (who : Requester) {p : Nat} (hp : p < 32) (h : (d.askIo (d.ioReq who .read (fpData p))).1 = true)
    (hr : d.ioReg (fpData p) = some (fpData p)) : d.ioRead who (fpData p) = (loHalf (d.fpDataValue p), false, d.fpDataTake p) := by
  have h1 : fpData p / 0x10000 = 4 := by unfold fpData; omega
  have h2 : fpData p % 0x10000 < 0x2000 := by unfold fpData; omega
  have h3 : fpData p % 0x10000 % 0x100 = 0xC := by unfold fpData; omega
  have h4 : fpData p % 0x10000 / 0x100 = p := by unfold fpData; omega
  have hrail : fpData p ≠ fpRail := by unfold fpData fpRail; omega
  have hs : d.ioSample (fpData p) = d := by simp only [Dev.ioSample, hrail, h1, h3, if_false]; simp
  have hw : (regDesc (fpData p)).wide = false := congrArg RegDesc.wide (regDesc_port hp (by decide))
  have hshow : d.ioShown (fpData p) (d.ioKey who (fpData p)) = d.fpDataValue p := by simp [Dev.ioShown, h1, h2, h3, h4]
  have htake : d.ioTake (fpData p) (d.ioKey who (fpData p)) = d.fpDataTake p := by simp [Dev.ioTake, h1, h2, h3, h4]
  rw [Dev.ioRead_of d who _ _ h hr, hs, Dev.readOf, if_neg (by simp [hw]), hshow, htake]

/-- Settles O15: the faults, readings and windows by their own effect, the octets by FPnDATA's. -/
theorem portFaultsReadingsAndOctetsMove : Obligations.PortFaultsReadingsAndOctetsMove := by
  refine ⟨?_, ?_⟩
  · intro s p ha hact m fault d reading
    refine ⟨fun h => ?_, fun h => ?_, ?_, ?_, fun h => ?_, fun mv h => ?_, ?_, fun h => ?_, fun t hh ht => ?_, fun h r => ?_, fun h i other => ?_⟩
    · exact State.next_live ha ((Dev.openFault_of h).trans (Dev.fieldFault_of hact _))
    · exact State.next_live ha ((Dev.shortFault_of h).trans (Dev.fieldFault_of hact _))
    · exact State.next_live ha (Dev.fieldFault_of hact _)
    · exact State.next_live ha (Dev.fieldFault_of hact _)
    · exact State.next_live ha ((show s.dev.loopFault p.val = _ from if_pos h).trans (Dev.fieldFault_of hact _))
    · exact State.next_live ha ((show s.dev.envExit p.val mv = _ from if_pos h).trans (Dev.fieldFault_of hact _))
    · intro q ej h e
      exact State.next_live ha (Dev.windowEnd_of hact h)
    · exact State.next_live ha (Dev.rcntClear_of h)
    · exact State.next_live ha (Dev.hitEnd_of t.isLt hh ht)
    · exact State.next_live ha (Dev.rtdEnd_of hact h r)
    · exact State.next_live ha (Dev.loopReading_of hact h i other.val)
  · intro s p x
    refine ⟨fun who o h => ?_, fun ha hu => ⟨fun o l hx => ?_, fun o err ho => ⟨fun h => ?_, fun h => ?_⟩⟩, fun who h => ?_⟩
    · have row := State.rowWrite_port s who p.isLt (by decide) _ h rfl (by decide) (Dev.wrPort_txv s.dev p.isLt _ o)
      exact ⟨fun hl => congrArg Host.Outcome.next (row.trans (congrArg (s.wrote _ false) (Dev.txvPush_room hl o.isLt))),
        fun hl => congrArg Host.Outcome.next (row.trans (congrArg (s.wrote _ false) (Dev.txvPush_full hl _)))⟩
    · exact State.next_live ha (Dev.uartSent_of hu hx)
    · exact State.next_live ha (Dev.uartGot_room hu ho h o.isLt err)
    · exact State.next_live ha (Dev.uartGot_full hu ho h _ err)
    · have hr := (State.rowRead_of s who _ _ h).1
      simp only [State.readable, Bool.and_eq_true, decide_eq_true_eq] at h
      obtain ⟨⟨-, hask⟩, hreg⟩ := h
      rw [Dev.ioRead_data s.dev who p.isLt hask hreg] at hr
      exact congrArg Host.Outcome.next hr

end Sys2Proof.Machine
end

section
/-! Zero counts, arriving writes, triggers and pin actions of a timer, and the writes that start or load it (R87-R91, R94, R96, R101, R103, R104). -/

namespace Sys2Proof.Machine

open Sys2Proof

section
variable {d : Dev} {n : Nat}

/-- The count that became 0 latches Z, and ends a one-shot timer (R87). -/
theorem Dev.timerZero_of (h : (d.tmr n).zDue = true) :
    let e := (d.putTmr n { d.tmr n with zDue := false, zAt := d.tick + 1 }).fp (tmStat n) TmStat.Z 1
    d.timerZero n = (if d.fg (tmCtl n) TmCtl.MODE = 1 ∧ d.tmRun n = true
      then ((e.fp (tmCtl n) TmCtl.RUN 0).fp (tmStat n) TmStat.WIN 0).syncCntg n else e).relevel (64 + n) := by
  intro e
  have hne : tmCtl n ≠ tmStat n := by unfold tmCtl tmStat; omega
  have hctl : ∀ f, e.fg (tmCtl n) f = d.fg (tmCtl n) f := fun f => (Dev.fg_fp_ne _ _ _ _ hne).trans (Dev.putTmr_fg ..)
  have hrun : e.tmRun n = d.tmRun n := by rw [Dev.tmRun, Dev.ff, hctl, Dev.tmRun, Dev.ff]
  refine (if_pos h).trans (congrArg (Dev.relevel · (64 + n)) ?_)
  show (if e.fg (tmCtl n) TmCtl.MODE = 1 then e.clearRun n else e) = _
  rw [hctl, Dev.clearRun, hrun]
  by_cases hm : d.fg (tmCtl n) TmCtl.MODE = 1
  · simp only [hm, true_and, if_true]
  · simp only [hm, false_and, if_false]

/-- The compare writes that arrive, one after another (R94, R96). -/
theorem Dev.cmpArrive_of {k : Nat} {ws : List CmpWrite} (hk : (if k = 0 then (d.tmr n).wr0 else (d.tmr n).wr1) = ws) (h : CmpWrite.here ws ≠ []) :
    let e := (CmpWrite.here ws).foldl (fun d w => d.cmpTake n k w.val) d
    d.cmpArrive n k = (e.putTmr n (if k = 0 then { e.tmr n with wr0 := CmpWrite.rest ws } else { e.tmr n with wr1 := CmpWrite.rest ws })).relevel (64 + n) := by
  subst hk
  exact if_neg h

theorem Dev.reloadArrive_of {v : Word} (h : (d.tmr n).rldW = some v) : d.reloadArrive n = d.putTmr n { d.tmr n with rld := v, rldW := none } := by
  simp only [Dev.reloadArrive, h]

theorem Dev.strtTrigger_of (ht : d.trigFired (d.trig n TmTrg.STRT) = true) (h0 : (d.tmr n).run0 = false) (hr : d.tmRun n = false) :
    d.strtTrigger n = ((d.fp (tmCtl n) TmCtl.RUN 1).restartPsc n).syncCntg n :=
  (if_pos (by simp [ht, h0])).trans (if_neg (by simp [hr]))

/-- RUN written as 1: the prescaler restarts where it changed in a timer that does not count, and the timer is started (R88, R91). -/
theorem Dev.wrTimer_run (hn : n < 64) {new v : Word} (hrun : TmCtl.RUN.get new = 1) :
    let r := tmCtl n
    let w := if TmCtl.MODE.get new = 3 then TmCtl.MODE.put new (d.fg r TmCtl.MODE) else new
    let e := d.wr r (TmCtl.RUN.put w (b2n (d.tmRun n)))
    (d.tmRun n = true → TmCtl.MODE.get w = d.fg r TmCtl.MODE) →
    d.wrTimer r new v = (false, (if TmCtl.PSC.get w ≠ d.fg r TmCtl.PSC ∧ d.counting n = false then e.restartPsc n else e).setRun n) := by
  intro r w e hm
  have h1 : ¬(0x400 ≤ r % 0x10000) := by unfold r tmCtl; omega
  have h2 : r % 0x10000 % 0x10 = 0 := by unfold r tmCtl; omega
  have h3 : r % 0x10000 / 0x10 = n := by unfold r tmCtl; omega
  have hw : TmCtl.RUN.get w ≠ 0 := by
    have hw1 : TmCtl.RUN.get w = 1 := by
      show TmCtl.RUN.get (if TmCtl.MODE.get new = 3 then _ else new) = 1
      rw [apply_ite (TmCtl.RUN.get), Span.get_put_ne TmCtl.MODE TmCtl.RUN _ _ (by decide) (by decide), hrun, ite_self]
    rw [hw1]; decide
  have hgo : ¬((d.tmRun n && decide (TmCtl.MODE.get w ≠ d.fg r TmCtl.MODE)) = true) := by
    cases hr : d.tmRun n
    · simp
    · simp [hm hr]
  have hpsc : (TmCtl.PSC.get w ≠ d.fg r TmCtl.PSC ∧ (!d.counting n) = true) ↔ (TmCtl.PSC.get w ≠ d.fg r TmCtl.PSC ∧ d.counting n = false) := by simp
  have e1 : d.wrTimer r new v = (if d.tmRun n && decide (TmCtl.MODE.get w ≠ d.fg r TmCtl.MODE) then (true, d) else
      let d2 := if TmCtl.PSC.get w ≠ d.fg r TmCtl.PSC ∧ !d.counting n then e.restartPsc n else e
      if TmCtl.RUN.get w ≠ 0 then (false, d2.setRun n) else (false, (d2.clearRun n).putTmr n { (d2.clearRun n).tmr n with run0 := true })) := by
    simp only [Dev.wrTimer, if_neg h1, h2, h3]
    rfl
  rw [e1, if_neg hgo]
  dsimp only
  rw [if_pos hw, if_congr hpsc rfl rfl]

/-- RELOADNOW asks for a load. -/
theorem Dev.wrTimer_cmd (hn : n < 64) (new : Word) {v : Word} (h : TmCmd.RELOADNOW.get v ≠ 0) : d.wrTimer (tmCmd n) new v = (false, d.reloadNow n) := by
  have h1 : ¬(0x400 ≤ tmCmd n % 0x10000) := by unfold tmCmd; omega
  have h2 : tmCmd n % 0x10000 % 0x10 = 4 := by unfold tmCmd; omega
  have h3 : tmCmd n % 0x10000 / 0x10 = n := by unfold tmCmd; omega
  simp only [Dev.wrTimer, if_neg h1, h2, h3, if_pos h]

/-- TMGO starts the timers of its mask, where no transaction claims one of their RUN (R103). -/
theorem Dev.wrTimer_go {k : Nat} (hk : k < 2) (new : Word) {v : Word} {m : Nat} (hm : TmGo.GO.get v = m) {ts : List Nat}
    (hts : (bitsOf m 32).map (fun i => 32 * k + i) = ts) (h : ∀ t ∈ ts, d.runClaimed t = false) :
    d.wrTimer (tmGo k) new v = (false, ts.foldl (fun d t => d.setRun t) d) := by
  have h1 : 0x400 ≤ tmGo k % 0x10000 := by unfold tmGo; omega
  have h2 : tmGo k % 0x10000 - 0x400 = k := by unfold tmGo; omega
  have hany : ¬(ts.any d.runClaimed = true) := by simpa using h
  simp only [Dev.wrTimer, if_pos h1, h2, hm, hts, if_neg hany]

end

/-- RUN written as 1 is 1 in the value that TMnCTL takes. -/
theorem Dev.newAt_tmRun (d : Dev) (who : Requester) {n : Nat} (hn : n < 64) (v : Half) :
    TmCtl.RUN.get (d.newAt who (tmCtl n) (withField TmCtl.RUN 1 v)) = 1 := by
  have ha : ∀ w, d.absentFields (tmCtl n) w = [] := fun w => by
    have h1 : tmCtl n / 0x10000 = 3 := by unfold tmCtl; omega
    have h2 : tmCtl n % 0x10 ≠ 2 := by unfold tmCtl; omega
    simp [Dev.absentFields, h1, h2]
  rw [Dev.newAt_rw d who _ _ TmCtl.RUN TmCtl.desc (regDesc_timer hn (by decide)) ha (by decide) (by decide) (by decide),
    get_ofHalf_withField _ _ _ (by decide)]
  rfl

/-- A write of a register of the timers, none of which has a locked field. -/
theorem State.rowWrite_timer (s : State) (who : Requester) {r : Nat} (v : Half) (q : RegDesc) (hr : r / 0x10000 = 3) (h : s.reaches who r = true)
    (hq : regDesc r = q) (hw : q.wide = false) (hl : q.mask (fun a => a == .rwl) = 0) {x : Bool × Dev}
    (hx : s.dev.wrTimer r (s.dev.newAt who r v) (ofHalf v &&& 0xFFFFFFFFF) = x) : s.rowWrite who r v = s.wrote r x.1 x.2 := by
  refine State.rowWrite_eff s who r v q h hq hw hl ?_ (.inl (by omega)) ((Dev.regWrite_timers s.dev who hr _ _ _).trans hx)
  refine ⟨?_, ?_, ?_, ?_, ?_⟩ <;> rintro rfl <;> revert hr <;> decide

/-- Settles O12: the events by the timer's own effect, the writes by that of their register. -/
theorem timersFollowTheirEventsAndWrites : Obligations.TimersFollowTheirEventsAndWrites := by
  refine ⟨?_, ?_⟩
  · intro s n ha x d
    refine ⟨fun h => ?_, ?_, ?_, fun v h => ?_, fun ht h0 hr => ?_, fun ht => ?_, ?_, fun ht => ?_, ?_⟩
    · exact State.next_live ha (Dev.timerZero_of h)
    · intro ws take e h
      exact State.next_live ha (Dev.cmpArrive_of (k := 0) rfl h)
    · intro ws take e h
      exact State.next_live ha (Dev.cmpArrive_of (k := 1) rfl h)
    · exact State.next_live ha (Dev.reloadArrive_of h)
    · exact State.next_live ha (Dev.strtTrigger_of ht h0 hr)
    · exact State.next_live ha (if_pos ht)
    · exact State.next_live ha rfl
    · exact State.next_live ha (if_pos ht)
    · exact State.next_live ha rfl
  · intro s who n
    refine ⟨fun val h => ?_, fun k mask h => ?_, fun h => ?_⟩
    · intro r v w d hm
      have hr3 : tmCtl n.val / 0x10000 = 3 := by unfold tmCtl; omega
      exact congrArg Host.Outcome.next (State.rowWrite_timer s who _ _ hr3 h (regDesc_timer n.isLt (by decide)) rfl (by decide)
        (Dev.wrTimer_run n.isLt (Dev.newAt_tmRun s.dev who n.isLt val) hm))
    · intro ts hc
      have hr3 : tmGo k.val / 0x10000 = 3 := by unfold tmGo; omega
      have hq : regDesc (tmGo k.val) = TmGo.desc := by fin_cases k <;> rfl
      have hm : TmGo.GO.get (ofHalf (withField TmGo.GO mask.toNat 0) &&& 0xFFFFFFFFF) = mask.toNat := by
        rw [get_withField _ _ _ (by decide)]; exact Nat.mod_eq_of_lt mask.isLt
      exact congrArg Host.Outcome.next (State.rowWrite_timer s who _ _ hr3 h hq rfl (by decide) (Dev.wrTimer_go k.isLt _ hm rfl hc))
    · intro e
      have hr3 : tmCmd n.val / 0x10000 = 3 := by unfold tmCmd; omega
      have hv : TmCmd.RELOADNOW.get (ofHalf (withField TmCmd.RELOADNOW 1 0) &&& 0xFFFFFFFFF) ≠ 0 := by decide
      exact congrArg Host.Outcome.next (State.rowWrite_timer s who _ _ hr3 h (regDesc_timer n.isLt (by decide)) rfl (by decide)
        (Dev.wrTimer_cmd n.isLt _ hv))

end Sys2Proof.Machine
end

section
/-! The commands of a delivery channel, its enabling and disabling, its interlock and the clearance of its retirement (R138, R140, R141, R143, R167). -/

namespace Sys2Proof.Machine

open Sys2Proof

/-! ### The registers of a channel -/

theorem regDesc_channel {n o : Nat} (hn : n < 16) (ho : o < 0x10) : regDesc (0x044000 + 0x10 * n + o) = descChannel o := by
  have h1 : (0x044000 + 0x10 * n + o) % 0x1000000 / 0x10000 = 4 := by omega
  have h2 : ¬((0x044000 + 0x10 * n + o) % 0x1000000 % 0x10000 < 0x2000) := by omega
  have h3 : 0x4000 ≤ (0x044000 + 0x10 * n + o) % 0x1000000 % 0x10000 ∧ (0x044000 + 0x10 * n + o) % 0x1000000 % 0x10000 < 0x4100 := by omega
  have h4 : (0x044000 + 0x10 * n + o) % 0x1000000 % 0x10000 % 0x10 = o := by omega
  simp only [regDesc, h1, descField, h2, h3, h4, if_true, if_false, and_self]

theorem Dev.regWrite_channel (d : Dev) (who : Requester) {n o : Nat} (hn : n < 16) (ho : o < 0x10) (key : Nat) (new v : Word) :
    d.regWrite who (0x044000 + 0x10 * n + o) key new v = d.wrChannel who (0x044000 + 0x10 * n + o) new v := by
  have h1 : (0x044000 + 0x10 * n + o) / 0x10000 = 4 := by omega
  have h2 : ¬((0x044000 + 0x10 * n + o) % 0x10000 < 0x2000) := by omega
  have h3 : 0x4000 ≤ (0x044000 + 0x10 * n + o) % 0x10000 ∧ (0x044000 + 0x10 * n + o) % 0x10000 < 0x4100 := by omega
  simp only [Dev.regWrite, h1, h2, h3, if_false, if_true, and_self]

/-- A write of a register of a channel, whose own effect is `x`. -/
theorem State.rowWrite_channel (s : State) (who : Requester) {n o : Nat} (hn : n < 16) (ho : o < 0x10) (v : Half)
    (h : s.reaches who (0x044000 + 0x10 * n + o) = true) (hw : (descChannel o).wide = false) {x : Bool × Dev}
    (hx : s.dev.wrChannel who (0x044000 + 0x10 * n + o) (s.dev.newAt who (0x044000 + 0x10 * n + o) v) (ofHalf v &&& 0xFFFFFFFFF) = x) :
    s.rowWrite who (0x044000 + 0x10 * n + o) v =
      s.wrote (0x044000 + 0x10 * n + o) (x.1 || s.dev.lockHit who (0x044000 + 0x10 * n + o) v) x.2 := by
  have hr : 0x044000 + 0x10 * n + o ≠ fcRec ∧ 0x044000 + 0x10 * n + o ≠ bCtl ∧ 0x044000 + 0x10 * n + o ≠ btCmd ∧
      0x044000 + 0x10 * n + o ≠ ssCmd ∧ 0x044000 + 0x10 * n + o ≠ ssCfg := by simp only [fcRec, bCtl, btCmd, ssCmd, ssCfg]; omega
  rw [State.rowWrite_dev s who _ v h (by rw [regDesc_channel hn ho]; exact hw)
    (fun k n w => State.regWrite_dev _ _ _ _ _ _ hr (.inl (by omega))), Dev.regWrite_channel _ _ hn ho, hx]

/-! ### Events of a port tick (R141) -/

section
variable {d : Dev} {n : Nat}

/-- An event that a higher one of the tick does not drop. -/
theorem Dev.chEvent_of {r : Nat} {f : Dev → Option Dev} {e : Dev} (h : ¬r < (d.chan n).rank) (hf : f (d.chUndo n) = some e) : d.chEvent n r f = e := by
  rw [Dev.chEvent, if_neg h, hf]

theorem Dev.chEvent_some (r : Nat) {f : Dev → Option Dev} {e : Dev} (hf : f (d.chUndo n) = some e) :
    d.chEvent n r f = if r < (d.chan n).rank then d else e := by
  rw [Dev.chEvent, hf]

/-- A command other than SAFE. -/
theorem Dev.chCommand_of {c t : Nat} {cs : List Nat} {listed : Bool} (hc : ¬(c = 0 ∨ 7 ≤ c)) (h5 : c ≠ 5)
    (h : (d.chUndo n).chNext n c = if listed then some (t, cs) else none) :
    d.chCommand n c = if listed then (if 2 < (d.chan n).rank then d else (d.chUndo n).chTake n 2 t cs) else d.chBad n := by
  rw [Dev.chCommand, if_neg hc, if_neg h5, h]
  cases listed
  · rfl
  · exact Dev.chEvent_some 2 rfl

theorem Dev.chSafe_of {ilk : Bool} (hr : (d.chan n).rank ≤ 3) (hs : (d.chUndo n).chState n ≤ 3) :
    d.chSafe n ilk = (d.chUndo n).chTake n 3 4 (if ilk then [causeSAFE, causeILK] else [causeSAFE]) := by
  have hm : mayEnterSafe ((d.chUndo n).chState n) = true := decide_eq_true hs
  rw [Dev.chSafe, Dev.chEvent_of (e := (d.chUndo n).chTake n 3 4 (if ilk then [causeSAFE, causeILK] else [causeSAFE])) (Nat.not_lt.2 hr)
    (if_pos hm)]

/-- The command SAFE is judged by the state in which the tick began. -/
theorem Dev.chCommand_safe (hr : (d.chan n).rank ≤ 3) (h0 : (d.chan n).st0 ≤ 3) (hs : (d.chUndo n).chState n ≤ 3) :
    d.chCommand n 5 = (d.chUndo n).chTake n 3 4 [causeSAFE] := by
  rw [Dev.chCommand, if_neg (by decide), if_pos rfl, if_pos (.inl (decide_eq_true h0)), Dev.chSafe_of hr hs]
  rfl

theorem Dev.chCommand_safe_bad (hr : (d.chan n).rank ≤ 3) (h0 : 3 < (d.chan n).st0) : d.chCommand n 5 = d.chBad n := by
  rw [Dev.chCommand, if_neg (by decide), if_pos rfl, if_neg (by simp [mayEnterSafe]; omega)]

theorem Dev.chCommand_safe_late (hr : 3 < (d.chan n).rank) : d.chCommand n 5 = d := by
  rw [Dev.chCommand, if_neg (by decide), if_pos rfl, if_pos (.inr hr), Dev.chSafe, Dev.chEvent, if_pos hr]

/-! The states that list each command (R140). -/

theorem Dev.chNext_arm : d.chNext n 1 = if decide (d.chState n = 0) then some (1, []) else none := by
  unfold Dev.chNext
  rcases d.chState n with _ | s <;> rfl
theorem Dev.chNext_disarm : d.chNext n 2 = if decide (d.chState n = 1) then some (0, []) else none := by
  unfold Dev.chNext
  rcases d.chState n with _ | _ | s <;> rfl
theorem Dev.chNext_end : d.chNext n 3 = if decide (d.chState n = 1 ∨ d.chState n = 2) then some (3, []) else none := by
  unfold Dev.chNext
  rcases d.chState n with _ | _ | _ | s <;> simp
theorem Dev.chNext_close : d.chNext n 4 = if decide (d.chState n = 3) then some (0, [causeCLOSED]) else none := by
  unfold Dev.chNext
  rcases d.chState n with _ | _ | _ | _ | s <;> rfl
theorem Dev.chNext_clear : d.chNext n 6 = if decide (d.chState n = 4) && !d.interlocked n then some (0, []) else none := by
  unfold Dev.chNext
  rcases d.chState n with _ | _ | _ | _ | _ | s <;> cases d.interlocked n <;> rfl

end

/-- A write of CHnCMD is its command. -/
theorem Dev.wrChannel_cmd (d : Dev) (who : Requester) {n : Nat} (hn : n < 16) (new v : Word) {c : Nat} (hc : ChCmd.CMD.get new = c) :
    d.wrChannel who (chCmd n) new v = (false, (d.wr (chCmd n) new).chCommand n c) := by
  have h1 : (chCmd n % 0x10000 - 0x4000) / 0x10 = n := by unfold chCmd; omega
  have h2 : chCmd n % 0x10 = 3 := by unfold chCmd; omega
  simp only [Dev.wrChannel, h1, h2, hc]

theorem Dev.absentFields_channel (d : Dev) {n o : Nat} (hn : n < 16) (h0 : 1 < o) (ho : o < 0x10) (w : Word) :
    d.absentFields (0x044000 + 0x10 * n + o) w = [] := by
  have h1 : (0x044000 + 0x10 * n + o) / 0x10000 = 4 := by omega
  have h2 : (0x044000 + 0x10 * n + o) % 0x10000 % 0x10 = o := by omega
  simp only [Dev.absentFields, h1, h2, show ¬o = 0 by omega, show ¬(o = 1 ∧ 2 ^ 16 ≤ ChPorts.PM.get w) by omega, if_false, ite_self]

theorem Dev.newAt_chCmd (d : Dev) (who : Requester) {n : Nat} (hn : n < 16) {c : Nat} (hc : c < 16) :
    ChCmd.CMD.get (d.newAt who (chCmd n) (withField ChCmd.CMD c 0)) = c := by
  rw [Dev.newAt_rw d who (chCmd n) _ ChCmd.CMD ChCmd.desc (regDesc_channel hn (by decide)) (Dev.absentFields_channel d hn (by decide) (by decide)) (by decide)
    (by decide) (by decide), get_ofHalf_withField _ _ _ (by decide)]
  exact Nat.mod_eq_of_lt hc

/-- Settles O18: each command by the states that list it. -/
theorem channelCommandsMoveIt : Obligations.ChannelCommandsMoveIt := by
  intro s who n h d u st rank bad fin cmd
  have row : ∀ {c : Nat} {e : Dev}, c < 16 → (d c).chCommand n.val c = e → s.rowWrite who (chCmd n.val) (withField ChCmd.CMD c 0) = fin e := by
    intro c e hc he
    have hx := Dev.wrChannel_cmd s.dev who n.isLt _ (ofHalf (withField ChCmd.CMD c 0) &&& 0xFFFFFFFFF) (Dev.newAt_chCmd s.dev who n.isLt hc)
    have hl : s.dev.lockHit who (chCmd n.val) (withField ChCmd.CMD c 0) = false :=
      Dev.lockHit_free _ _ _ _ ChCmd.desc (regDesc_channel n.isLt (by decide)) (by decide)
    have hrow := State.rowWrite_channel s who n.isLt (o := 3) (by decide) (withField ChCmd.CMD c 0) h rfl hx
    rw [← he]
    exact hrow.trans (congrArg (fun b => s.wrote (chCmd n.val) b ((d c).chCommand n.val c)) ((Bool.false_or _).trans hl))
  refine ⟨?_, ?_, ?_, ?_, ?_, fun hr h0 hs => ?_, fun hr h0 => ?_, fun hr => ?_⟩
  · exact congrArg Host.Outcome.next ((row (by decide) (Dev.chCommand_of (by decide) (by decide) Dev.chNext_arm)).trans rfl)
  · exact congrArg Host.Outcome.next ((row (by decide) (Dev.chCommand_of (by decide) (by decide) Dev.chNext_disarm)).trans rfl)
  · exact congrArg Host.Outcome.next ((row (by decide) (Dev.chCommand_of (by decide) (by decide) Dev.chNext_end)).trans rfl)
  · exact congrArg Host.Outcome.next ((row (by decide) (Dev.chCommand_of (by decide) (by decide) Dev.chNext_close)).trans rfl)
  · exact congrArg Host.Outcome.next ((row (by decide) (Dev.chCommand_of (by decide) (by decide) Dev.chNext_clear)).trans rfl)
  · exact congrArg Host.Outcome.next (row (by decide) (Dev.chCommand_safe hr h0 hs))
  · exact congrArg Host.Outcome.next (row (by decide) (Dev.chCommand_safe_bad hr h0))
  · exact congrArg Host.Outcome.next (row (by decide) (Dev.chCommand_safe_late hr))

end Sys2Proof.Machine
end

section
/-! Enabling and disabling a channel, its interlock, and the clearance of its retirement (R138, R140, R143, R190). -/

namespace Sys2Proof.Machine

open Sys2Proof

/-- EN is no field that names an absent resource. -/
theorem Dev.newAt_chEn (d : Dev) (who : Requester) {n : Nat} (hn : n < 16) (b : Nat) (v : Half) :
    ChCtl.EN.get (d.newAt who (chCtl n) (withField ChCtl.EN b v)) = b % 2 := by
  have h1 : chCtl n / 0x10000 = 4 := by unfold chCtl; omega
  have h2 : chCtl n % 0x10000 % 0x10 = 0 := by unfold chCtl; omega
  have ha : ∀ w, ∀ g ∈ d.absentFields (chCtl n) w, g.fits ∧ (ChCtl.EN.hi < g.lo ∨ g.hi < ChCtl.EN.lo) := by
    intro w g hg
    have hi : g = ChCtl.ILKP := by
      simp only [Dev.absentFields, h1, h2, if_true] at hg
      repeat' split at hg
      all_goals simp_all
    rw [hi]; decide
  rw [Dev.newAt_takes d who (chCtl n) _ ChCtl.EN ChCtl.desc (regDesc_channel (o := 0) hn (by decide)) ha (by decide) ?_ (by decide),
    get_ofHalf_withField _ _ _ (by decide)]
  · rfl
  · generalize (d.regLocked (chCtl n) && !decide (who = Requester.loader)) = lk
    revert lk; decide

section
variable {d : Dev} {n : Nat}

/-- EN written as 1 over 0: the enabling, refused where another enabled channel has the meter domain (R138). -/
theorem Dev.wrChannel_enable (who : Requester) (hn : n < 16) {new v : Word} (hen : ChCtl.EN.get new = 1) (h0 : d.ff (chCtl n) ChCtl.EN = false) :
    d.wrChannel who (chCtl n) new v = orRefused d ((d.wr (chCtl n) (ChCtl.EN.put new 0)).chEnable n) := by
  have h1 : (chCtl n % 0x10000 - 0x4000) / 0x10 = n := by unfold chCtl; omega
  have h2 : chCtl n % 0x10 = 0 := by unfold chCtl; omega
  simp only [Dev.wrChannel, h1, h2, hen, h0, Bool.false_and, Bool.false_eq_true, if_false]
  rfl

/-- EN written as 0 over 1, the bindings kept: the disabling (R140). -/
theorem Dev.wrChannel_disable (who : Requester) (hn : n < 16) {new v : Word} (hen : ChCtl.EN.get new = 0) (h0 : d.ff (chCtl n) ChCtl.EN = true)
    (hb : (new ^^^ d.rd (chCtl n)) &&& chBinding = 0) :
    d.wrChannel who (chCtl n) new v = orRefused d ((d.wr (chCtl n) (ChCtl.EN.put new 1)).chDisable n) := by
  have h1 : (chCtl n % 0x10000 - 0x4000) / 0x10 = n := by unfold chCtl; omega
  have h2 : chCtl n % 0x10 = 0 := by unfold chCtl; omega
  simp only [Dev.wrChannel, h1, h2, hen, h0, hb, ne_eq, not_true_eq_false, decide_false, Bool.and_false, Bool.false_eq_true, if_false]
  rfl

/-- A write of CHnRET with CLR is a retirement clear. -/
theorem Dev.wrChannel_ret (who : Requester) (hn : n < 16) (new : Word) {v : Word} (hv : ChRet.CLR.get v ≠ 0) :
    d.wrChannel who (chRet n) new v = orRefused d (d.chRetClear n (d.ioPart who)) := by
  have h1 : (chRet n % 0x10000 - 0x4000) / 0x10 = n := by unfold chRet; omega
  have h2 : chRet n % 0x10 = 4 := by unfold chRet; omega
  simp only [Dev.wrChannel, h1, h2, if_pos hv]

/-- The enabling acts as a command does (R140, R141). -/
theorem Dev.chEnable_of {clash : Bool} (hc : ((List.range 16).any fun k =>
      decide (k ≠ n) && d.ff (chCtl k) ChCtl.EN && decide (d.fg (chCtl k) ChCtl.MDOM = d.fg (chCtl n) ChCtl.MDOM)) = clash) :
    let u := d.chUndo n
    d.chEnable n = if clash then none else some (if 2 < (d.chan n).rank then d else if u.ff (chCtl n) ChCtl.EN then u
      else ((u.rsUsed (latchWord n) 1).fp (chCtl n) ChCtl.EN 1).chTake n 2 (if u.retireLatch n then 5 else 0) []) := by
  intro u
  rw [Dev.chEnable, hc]
  refine if_congr Iff.rfl rfl (congrArg some (Dev.chEvent_some 2 ?_))
  exact (apply_ite some _ _ _).symm

theorem Dev.chDisable_of : let u := d.chUndo n
    d.chDisable n = if u.chState n = 0 ∨ u.chState n = 4 then some (if 2 < (d.chan n).rank then d
      else if u.ff (chCtl n) ChCtl.EN then (u.fp (chCtl n) ChCtl.EN 0).chTake n 2 7 [] else u) else none := by
  intro u
  refine if_congr Iff.rfl (congrArg some (Dev.chEvent_some 2 ?_)) rfl
  exact (apply_ite some _ _ _).symm

/-- The interlock takes a channel to SAFE (R140). -/
theorem Dev.chInterlock_safe (hi : d.interlocked n = true) (hc : ¬((d.chan n).rank = 2 ∧ (d.chan n).st0 = 4 ∧ d.chState n = 0))
    (hr : (d.chan n).rank ≤ 3) (hs : (d.chUndo n).chState n ≤ 3) : d.chInterlock n = (d.chUndo n).chTake n 3 4 [causeSAFE, causeILK] :=
  (if_pos hi).trans ((if_neg hc).trans (Dev.chSafe_of hr hs))

/-- The interlock refuses a CLEAR of the same tick (R140). -/
theorem Dev.chInterlock_cleared (hi : d.interlocked n = true) (hc : (d.chan n).rank = 2 ∧ (d.chan n).st0 = 4 ∧ d.chState n = 0) :
    d.chInterlock n = (d.chUndo n).chBad n := (if_pos hi).trans (if_pos hc)

/-- The clearance of a retirement is a system commit under the installer's right (R143, R190). -/
theorem Dev.chRetClear_of (p : Nat) :
    let e := d.sessionActs p
    d.chRetClear n p = if d.installer p rightRETCLR = true ∧ d.auRoom = true then
      some (if d.retireLatch n = true ∨ d.chState n = 5 then { e with sysq := e.sysq ++ [{ addr := latchWord n, val := 1, audit :=
        { typ := 0x31, part := p, role := (d.actor p).1, serial := (d.actor p).2, subj := n }, set := false }] } else e)
      else none := by
  intro e
  refine if_congr (by rw [Bool.and_eq_true]) (congrArg some (if_congr ?_ rfl rfl)) rfl
  rw [Bool.or_eq_true, decide_eq_true_eq]

end

/-- A refusal, or an effect, as the write that brings it answers. -/
theorem State.wrote_orRefused (s : State) (r : Nat) (c : Prop) [Decidable c] (l : Bool) (e : Dev) :
    s.wrote r ((orRefused s.dev (if c then none else some e)).1 || l) (orRefused s.dev (if c then none else some e)).2 =
      if c then s.wrote r true s.dev else s.wrote r l e := by
  split <;> simp [orRefused]

theorem State.wrote_orRefused_not (s : State) (r : Nat) (c : Prop) [Decidable c] (l : Bool) (e : Dev) :
    s.wrote r ((orRefused s.dev (if c then some e else none)).1 || l) (orRefused s.dev (if c then some e else none)).2 =
      if c then s.wrote r l e else s.wrote r true s.dev := by
  split <;> simp [orRefused]

/-- Settles O19: EN by the enabling and disabling, the interlock by its event, CLR by its system commit. -/
theorem channelsAreEnabledAndCleared : Obligations.ChannelsAreEnabledAndCleared := by
  intro s n
  refine ⟨fun who v h h0 => ?_, fun who v h h1 => ?_, fun ha hi => ?_, fun who h => ?_⟩
  · intro new e u clash
    have hrow := State.rowWrite_channel s who n.isLt (o := 0) (by decide) _ h rfl
      (Dev.wrChannel_enable (v := ofHalf (withField ChCtl.EN 1 v) &&& 0xFFFFFFFFF) who n.isLt (Dev.newAt_chEn s.dev who n.isLt 1 v) h0)
    rw [Dev.chEnable_of rfl, State.wrote_orRefused] at hrow
    exact congrArg Host.Outcome.next hrow
  · intro new e u hb
    have hrow := State.rowWrite_channel s who n.isLt (o := 0) (by decide) _ h rfl
      (Dev.wrChannel_disable (v := ofHalf (withField ChCtl.EN 0 v) &&& 0xFFFFFFFFF) who n.isLt (Dev.newAt_chEn s.dev who n.isLt 0 v) h1 hb)
    rw [Dev.chDisable_of, State.wrote_orRefused_not] at hrow
    exact congrArg Host.Outcome.next hrow
  · intro u cleared
    exact ⟨fun hc hr hs => State.next_live ha (Dev.chInterlock_safe hi hc hr hs), fun hc => State.next_live ha (Dev.chInterlock_cleared hi hc)⟩
  · intro p e entry
    have hl : s.dev.lockHit who (chRet n.val) (withField ChRet.CLR 1 0) = false :=
      Dev.lockHit_free _ _ _ _ ChRet.desc (regDesc_channel n.isLt (by decide)) (by decide)
    have hrow := State.rowWrite_channel s who n.isLt (o := 4) (by decide) _ h rfl
      (Dev.wrChannel_ret who n.isLt _ (v := ofHalf (withField ChRet.CLR 1 0) &&& 0xFFFFFFFFF) (by decide))
    rw [Dev.chRetClear_of, State.wrote_orRefused_not] at hrow
    refine congrArg Host.Outcome.next (hrow.trans (if_congr Iff.rfl ?_ rfl))
    exact congrArg (fun b => s.wrote (chRet n.val) b _) hl

end Sys2Proof.Machine
end

section
/-! What the journal, the accounts and an abort leave of transactions, cells and the registers of the transaction unit (R183, R188-R193). -/

namespace Sys2Proof.Machine

open Sys2Proof

/-- The cells, the transactions and the registers of the transaction unit stand, and so does what starts and stops the cells. -/
structure Dev.TxuKept (d e : Dev) : Prop where
  cells : e.cells = d.cells
  txns : e.txns = d.txns
  regs : ∀ k, 0x050000 ≤ k → k < 0x060000 → e.rd k = d.rd k
  run : e.run = d.run
  boot : e.boot = d.boot

variable {d e f : Dev}

theorem Dev.TxuKept.refl (d : Dev) : d.TxuKept d := ⟨rfl, rfl, fun _ _ _ => rfl, rfl, rfl⟩
theorem Dev.TxuKept.trans (h : d.TxuKept e) (k : e.TxuKept f) : d.TxuKept f :=
  ⟨k.cells.trans h.cells, k.txns.trans h.txns, fun r h1 h2 => (k.regs r h1 h2).trans (h.regs r h1 h2), k.run.trans h.run,
    k.boot.trans h.boot⟩
theorem Dev.TxuKept.ite {p : Prop} [Decidable p] (h : d.TxuKept e) (k : d.TxuKept f) : d.TxuKept (if p then e else f) := by
  split
  · exact h
  · exact k
theorem Dev.TxuKept.foldl {α : Type} (l : List α) (g : Dev → α → Dev) (d : Dev) (hg : ∀ d a, Dev.TxuKept d (g d a)) : d.TxuKept (l.foldl g d) := by
  induction l generalizing d with
  | nil => exact .refl d
  | cons a l ih => exact (hg d a).trans (ih _)

theorem Dev.TxuKept.cell (h : d.TxuKept e) (c : Nat) : e.cell c = d.cell c := by rw [Dev.cell, h.cells, Dev.cell]
theorem Dev.TxuKept.txn (h : d.TxuKept e) (n : Nat) : e.txn n = d.txn n := by rw [Dev.txn, h.txns, Dev.txn]
theorem Dev.TxuKept.fg (h : d.TxuKept e) {k : Nat} (h1 : 0x050000 ≤ k) (h2 : k < 0x060000) (g : Span) : e.fg k g = d.fg k g := by
  rw [Dev.fg, h.regs k h1 h2, Dev.fg]

/-- A write of a register of another block. -/
theorem Dev.TxuKept.wr (d : Dev) {k : Nat} (h : k < 0x050000 ∨ 0x060000 ≤ k) (w : Word) : d.TxuKept (d.wr k w) :=
  ⟨rfl, rfl, fun _ _ _ => Dev.rd_wr_ne d w (by omega), rfl, rfl⟩
theorem Dev.TxuKept.fp (d : Dev) {k : Nat} (h : k < 0x050000 ∨ 0x060000 ≤ k) (g : Span) (v : Nat) : d.TxuKept (d.fp k g v) := .wr d h _
theorem Dev.PendOnly.txuKept (h : d.PendOnly e) : d.TxuKept e := ⟨h.cells, h.txns, fun k h1 _ => h.2 k (.inr (by omega)), h.run, h.boot⟩
theorem Dev.TxuKept.relevel (d : Dev) {k : Nat} (h : k < 256) : d.TxuKept (d.relevel k) := (Dev.relevel_only d k h).txuKept

theorem Dev.TxuKept.accounts (d : Dev) : d.TxuKept d.accounts := by
  have hb : d.accounts.run = d.run ∧ d.accounts.boot = d.boot := by
    obtain ⟨u, o, r, a, h | h⟩ := d.accounts_eq
    · rw [h]; exact ⟨rfl, rfl⟩
    · have hl := Dev.relevel_only ((((((d.wr drUse u).wr drObl o).wr drResv r).wr drAvl a).latch drStat DrStat.CAUSE 3)) 187 (by decide)
      rw [h]; exact ⟨hl.run, hl.boot⟩
  refine ⟨Dev.accounts_cells d, Dev.accounts_txns d, fun k h1 h2 => ?_, hb.1, hb.2⟩
  exact Dev.accounts_rd d k (by unfold drUse; omega) (by unfold drObl; omega) (by unfold drResv; omega) (by unfold drAvl; omega)
    (by unfold drStat; omega) (.inr (by omega))

/-! ### The record store and its journal -/

theorem Dev.TxuKept.rsCount (d : Dev) (n : Nat) : d.TxuKept (d.rsCount n) := .wr d (by unfold drAct; omega) _
theorem Dev.TxuKept.rsWrite (d : Dev) (a : Nat) (w : Word) : d.TxuKept (d.rsWrite a w) :=
  ⟨rfl, rfl, (Dev.TxuKept.rsCount d 1).regs, rfl, rfl⟩
theorem Dev.TxuKept.pulseSrc (d : Dev) (k u : Nat) : d.TxuKept (d.pulseSrc k u) := ⟨rfl, rfl, fun _ _ _ => rfl, rfl, rfl⟩
theorem Dev.TxuKept.rsCheck (d : Dev) (a : Nat) : d.TxuKept (d.rsCheck a) := by
  unfold Dev.rsCheck
  split
  · exact .refl d
  · exact .pulseSrc ..
  · exact .pulseSrc ..
theorem Dev.TxuKept.rsUsed (d : Dev) (a n : Nat) : d.TxuKept (d.rsUsed a n) := (Dev.TxuKept.rsCount d n).trans (.foldl _ _ _ fun d _ => .rsCheck d _)
theorem Dev.TxuKept.jWrite (ws : List Word) (d : Dev) (a : Nat) : d.TxuKept (d.jWrite a ws) := by
  induction ws generalizing d a with
  | nil => exact .refl d
  | cons w ws ih => exact (Dev.TxuKept.rsWrite d a w).trans (ih _ _)
theorem Dev.TxuKept.jMark (d : Dev) : d.TxuKept d.jMark :=
  .ite ((Dev.TxuKept.fp d (by unfold rsStat; omega) _ _).trans (.relevel _ (by decide))) (.refl d)
theorem Dev.TxuKept.withJnl (d : Dev) (j : Journal) : d.TxuKept { d with jnl := j } := ⟨rfl, rfl, fun _ _ _ => rfl, rfl, rfl⟩
theorem Dev.TxuKept.jAlloc (d : Dev) (n : Nat) : d.TxuKept (d.jAlloc n).2 :=
  ((Dev.TxuKept.fp d (by unfold rsJhead; omega) _ _).trans (.withJnl _ _)).trans (.jMark _)
theorem Dev.TxuKept.doneLimit (d : Dev) : d.TxuKept d.doneLimit := by
  unfold Dev.doneLimit
  split <;> exact .fp d (by unfold rsJlim; omega) _ _

/-! ### Aborts (R183) -/

/-- The DISCARD entry is the journal's. -/
theorem Dev.TxuKept.txDiscard (d : Dev) (n : Nat) : d.TxuKept (d.txDiscard n) := by
  unfold Dev.txDiscard
  extract_lets x
  split
  · exact .refl d
  · rename_i a lap hp
    extract_lets d0 j0 d1 r d2
    have h0 : d.TxuKept d0 := .ite (.refl d) (.jWrite ..)
    have h1 : d.TxuKept d1 := h0.trans (.withJnl _ _)
    have h2 : d.TxuKept d2 := (h1.trans (.jAlloc ..)).trans (.rsWrite ..)
    exact (h2.trans (.withJnl _ _)).trans (.doneLimit _)

theorem Dev.TxuKept.txEvent (d : Dev) {n : Nat} (hn : n < 32) : d.TxuKept (d.txEvent n) := (Dev.raiseIf_only d _ _ (by omega)).txuKept

/-- What an abort of an open, preparing or waiting transaction leaves: its state and its codes, the rest of the transactions, and its cell's codes. -/
theorem Dev.txAbort_spec {n : Nat} (hn : n < 32) (h1 : 1 ≤ d.txState n) (h3 : d.txState n ≤ 3) {code : Nat} (hc : code < 32) :
    let t := d.txAbort n code
    t.txState n = 0 ∧ t.fg (txStat n) TxStat.RES = 2 ∧ t.fg (txStat n) TxStat.ABC = code ∧ t.fg (txRes n) TxRes.RES = 0 ∧
    t.txn n = { strayAt := (d.txn n).strayAt } ∧ (∀ m ≠ n, t.txn m = d.txn m) ∧
    (let o := d.fg (txStat n) TxStat.CELL
     t.cells = Tab.set {} d.cells o { d.cell o with txAbc := code, txAbn := n }) ∧ t.run = d.run ∧ t.boot = d.boot := by
  intro t
  have hgo : ¬(d.txState n = 0 ∨ 4 ≤ d.txState n) := by omega
  let o := d.fg (txStat n) TxStat.CELL
  let d1 := d.txDiscard n
  let d2 := ((d1.fp (txStat n) TxStat.STATE 0).fp (txStat n) TxStat.RES 2).fp (txStat n) TxStat.ABC code
  let d3 := (d2.fp (txRes n) TxRes.RES 0).putTxn n { strayAt := (d.txn n).strayAt }
  let d4 := d3.putCell o { d3.cell o with txAbc := code, txAbn := n }
  have ht : t = (d4.accounts).txEvent n := if_neg hgo
  have hk : d4.TxuKept t := by rw [ht]; exact (Dev.TxuKept.accounts d4).trans (.txEvent _ hn)
  have hd : d.TxuKept d1 := .txDiscard d n
  have hsr : txStat n ≠ txRes n := by unfold txStat txRes; omega
  have hs : 0x050000 ≤ txStat n ∧ txStat n < 0x060000 := by unfold txStat; omega
  have hr : 0x050000 ≤ txRes n ∧ txRes n < 0x060000 := by unfold txRes; omega
  have hst : ∀ g, t.fg (txStat n) g = d2.fg (txStat n) g := fun g => by
    rw [hk.fg hs.1 hs.2]
    exact Dev.fg_fp_ne d2 _ _ _ hsr
  have hd4 : d1.run = d4.run ∧ d1.boot = d4.boot := ⟨rfl, rfl⟩
  refine ⟨?_, ?_, ?_, ?_, ?_, fun m hm => ?_, ?_, ?_, ?_⟩
  · rw [Dev.txState, hst, Dev.fg_fp_apart _ _ _ _ _ (by decide) (by decide), Dev.fg_fp_apart _ _ _ _ _ (by decide) (by decide),
      Dev.fg_fp_self _ _ _ _ (by decide)]; rfl
  · rw [hst, Dev.fg_fp_apart _ _ _ _ _ (by decide) (by decide), Dev.fg_fp_self _ _ _ _ (by decide)]; rfl
  · rw [hst, Dev.fg_fp_self _ _ _ _ (by decide)]; exact Nat.mod_eq_of_lt hc
  · rw [hk.fg hr.1 hr.2]
    exact (Dev.fg_fp_self d2 (txRes n) _ _ (by decide)).trans rfl
  · rw [hk.txn]; exact Dev.putTxn_txn ..
  · rw [hk.txn]; exact (Dev.putTxn_txn_ne _ _ hm).trans (hd.txn m)
  · intro o'
    have hcell : d3.cell o = d.cell o := hd.cell o
    rw [hk.cells]
    show Tab.set {} d1.cells o { d3.cell o with txAbc := code, txAbn := n } = _
    rw [hd.cells, hcell]
  · rw [hk.run, ← hd4.1, hd.run]
  · rw [hk.boot, ← hd4.2, hd.boot]

/-- Settles O22: an abort's effect where it has one. -/
theorem anAbortFreesTheTransaction : Obligations.AnAbortFreesTheTransaction := by
  intro d n code
  refine ⟨fun h => if_pos h, fun h1 h3 => ?_⟩
  intro t
  obtain ⟨hst, hres, habc, htr, htxn, -⟩ := Dev.txAbort_spec n.isLt h1 h3 code.isLt
  exact ⟨hst, hres, habc, htxn, htr⟩

end Sys2Proof.Machine
end

section
/-! A preparing transaction: the grant of its reservation, its PREP entry's place and write, and the time limit of its wait (R169, R178, R187, R191). -/

namespace Sys2Proof.Machine

open Sys2Proof

/-! ### The journal's bookkeeping -/

@[simp] theorem Dev.rsCheck_jnl (d : Dev) (a : Nat) : (d.rsCheck a).jnl = d.jnl := by
  unfold Dev.rsCheck
  split <;> rfl
@[simp] theorem Dev.rsUsed_jnl (d : Dev) (a n : Nat) : (d.rsUsed a n).jnl = d.jnl := by
  have h : ∀ (l : List Nat) (d : Dev), (l.foldl (fun d k => d.rsCheck (a + k)) d).jnl = d.jnl := by
    intro l
    induction l with
    | nil => intro d; rfl
    | cons k l ih => intro d; exact (ih _).trans (Dev.rsCheck_jnl ..)
  exact h _ _
@[simp] theorem Dev.jMark_jnl (d : Dev) : d.jMark.jnl = d.jnl := by
  unfold Dev.jMark
  split
  · exact (Dev.relevel_only _ _ (by decide)).jnl
  · rfl
/-- An entry's place moves the head, with the lap where it wraps. -/
theorem Dev.jAlloc_jnl (d : Dev) (n : Nat) :
    (d.jAlloc n).2.jnl.aside = d.jnl.aside ∧ (d.jAlloc n).2.jnl.opens = d.jnl.opens := by
  have h : (d.jAlloc n).2.jnl = { d.jnl with lap := (d.jAlloc n).2.jnl.lap } := by
    simp only [Dev.jAlloc, Dev.jMark_jnl]
    rfl
  rw [h]
  exact ⟨rfl, rfl⟩
@[simp] theorem Dev.doneLimit_jnl (d : Dev) : d.doneLimit.jnl = d.jnl := by
  unfold Dev.doneLimit
  split <;> rfl

theorem Dev.foldl_jnl {α : Type} {f : Dev → α → Dev} (hf : ∀ d i, (f d i).jnl = d.jnl) (l : List α) (d : Dev) : (l.foldl f d).jnl = d.jnl := by
  induction l generalizing d with
  | nil => rfl
  | cons i l ih => rw [List.foldl_cons, ih, hf]

section
variable {d : Dev} {n : Nat} (hs : d.txState n = 2)
include hs

theorem Dev.txGrant_energy (hp : (d.txn n).prep = none) (hg : d.mayGrant (d.txCost (d.txn n).items) = false) :
    d.txGrant n = ((d.latch drStat DrStat.CAUSE 6).relevel 190).txAbort n abcENERGY :=
  (if_neg (by simp [hs, hp])).trans (if_pos (by simp [hg]))

/-- The machine with the reservation of a transaction granted. -/
def Dev.reservedFor (d : Dev) (n e : Nat) : Dev := ((d.fp (txRes n) TxRes.RES e).putTxn n { d.txn n with cost := e }).accounts

theorem Dev.txGrant_full (hp : (d.txn n).prep = none) (hg : d.mayGrant (d.txCost (d.txn n).items) = true)
    (hj : (d.reservedFor n (d.txCost (d.txn n).items)).jFree < wPrep (d.txn n).items + wMark (d.txn n).items + 1) :
    d.txGrant n = (((d.reservedFor n (d.txCost (d.txn n).items)).latch rsStat RsStat.CAUSE 0).relevel 244).txAbort n abcJFULL :=
  (if_neg (by simp [hs, hp])).trans ((if_neg (by simp [hg])).trans (if_pos hj))

/-- The grant of a reservation `g` gives the PREP entry its place; `r` is the machine with the totalizers read. -/
theorem Dev.txGrant_eq {g : Dev} (hp : (d.txn n).prep = none) (hg : d.mayGrant (d.txCost (d.txn n).items) = true)
    (hgd : g = d.reservedFor n (d.txCost (d.txn n).items)) (hj : ¬g.jFree < wPrep (d.txn n).items + wMark (d.txn n).items + 1) :
    let e := g.fp rsSeq RsSeq.SEQ (g.fg rsSeq RsSeq.SEQ + 1)
    let a := Dev.jAlloc { e with jnl := { e.jnl with aside := e.jnl.aside + wMark (d.txn n).items + 1 } } (wPrep (d.txn n).items)
    ∃ r : Dev, r.jnl = a.2.jnl ∧ ∃ ws t0s, d.txGrant n = Dev.doneLimit { r.putTxn n { d.txn n with
      cost := d.txCost (d.txn n).items, seq := g.fg rsSeq RsSeq.SEQ, prep := some a.1, prepWs := ws, t0s := t0s } with
        jnl := { r.jnl with opens := r.jnl.opens ++ [(g.fg rsSeq RsSeq.SEQ, a.1)] } } := by
  intro e a
  have hst : ¬(d.txState n ≠ 2 ∨ (d.txn n).prep ≠ none) := by simp [hs, hp]
  have hmay : ¬(!d.mayGrant (d.txCost (d.txn n).items)) = true := by simp [hg]
  subst hgd
  refine ⟨?r, ?read, ?ws, ?t0s, ?place⟩
  case place =>
    rw [Dev.txGrant]
    dsimp only
    rw [if_neg hst, if_neg hmay]
    exact if_neg hj
  case read => exact Dev.foldl_jnl (fun d i => by cases i <;> simp) _ _

/-- The PREP entry takes the next SEQ and the journal's head. -/
theorem Dev.txGrant_place (hp : (d.txn n).prep = none) (hg : d.mayGrant (d.txCost (d.txn n).items) = true) {g : Dev}
    (hgd : g = d.reservedFor n (d.txCost (d.txn n).items)) (hj : wPrep (d.txn n).items + wMark (d.txn n).items + 1 ≤ g.jFree) :
    ∃ ws t0s, ((d.txGrant n).txn n = { d.txn n with
        cost := d.txCost (d.txn n).items, seq := g.fg rsSeq RsSeq.SEQ, prep := some (g.fg rsJhead RsJhead.HEAD, g.jnl.lap % 2), prepWs := ws, t0s := t0s }) ∧
      (d.txGrant n).jnl.aside = g.jnl.aside + wMark (d.txn n).items + 1 ∧
      (d.txGrant n).jnl.opens = g.jnl.opens ++ [(g.fg rsSeq RsSeq.SEQ, g.fg rsJhead RsJhead.HEAD, g.jnl.lap % 2)] := by
  obtain ⟨r, hr, ws, t0s, he⟩ := Dev.txGrant_eq hs hp hg hgd (Nat.not_lt.2 hj)
  set e := g.fp rsSeq RsSeq.SEQ (g.fg rsSeq RsSeq.SEQ + 1)
  obtain ⟨haside, hopens⟩ := Dev.jAlloc_jnl { e with jnl := { e.jnl with aside := e.jnl.aside + wMark (d.txn n).items + 1 } } (wPrep (d.txn n).items)
  have hhead : e.fg rsJhead RsJhead.HEAD = g.fg rsJhead RsJhead.HEAD := Dev.fg_fp_ne g _ _ _ (by decide)
  have hplace : (Dev.jAlloc { e with jnl := { e.jnl with aside := e.jnl.aside + wMark (d.txn n).items + 1 } } (wPrep (d.txn n).items)).1 =
      (g.fg rsJhead RsJhead.HEAD, g.jnl.lap % 2) := Prod.ext hhead rfl
  rw [hplace] at he
  refine ⟨ws, t0s, ?_, ?_, ?_⟩
  · rw [he, (Dev.TxuKept.doneLimit _).txn]
    exact Dev.putTxn_txn r n _
  · rw [he, Dev.doneLimit_jnl]
    exact (congrArg Journal.aside hr).trans haside
  · rw [he, Dev.doneLimit_jnl]
    exact congrArg (· ++ _) ((congrArg Journal.opens hr).trans hopens)

/-- The PREP entry is durable: the transaction applies, or waits for its trigger (R178). -/
theorem Dev.txPrepDurable_ok {a k : Nat} (hp : (d.txn n).prep = some (a, k)) (hr : (d.txn n).ready = false) :
    let p := (d.jWrite a (d.txn n).prepWs).wr (txPrep n) (BitVec.ofNat 72 a)
    d.txPrepDurable n true = if (d.txn n).mode = 0 ∨ (d.txn n).trig = true then p.putTxn n { d.txn n with ready := true }
      else (p.fp (txStat n) TxStat.STATE 3).putTxn n { d.txn n with ready := true, waitAt := p.tick } := by
  intro p
  have hgo : ¬(d.txState n ≠ 2 ∨ (d.txn n).ready = true) := by simp [hs, hr]
  simp only [Dev.txPrepDurable, hp, if_neg hgo, if_true]
  by_cases hm : (d.txn n).mode = 0
  · simp only [hm, if_true, true_or]; rfl
  · simp only [hm, if_false, false_or]; rfl

theorem Dev.txPrepDurable_failed {a k : Nat} (hp : (d.txn n).prep = some (a, k)) (hr : (d.txn n).ready = false) :
    d.txPrepDurable n false = (((d.latch rsStat RsStat.CAUSE 2).count rsWerr RsWerr.CNT).relevel 244).txAbort n abcRSERR := by
  have hgo : ¬(d.txState n ≠ 2 ∨ (d.txn n).ready = true) := by simp [hs, hr]
  simp only [Dev.txPrepDurable, hp, if_neg hgo, Bool.false_eq_true, if_false]

end

/-- Settles O20: the grant by its three ends, the PREP entry by its write, the wait by its time. -/
theorem preparingEndsInAPlaceOrAnAbort : Obligations.PreparingEndsInAPlaceOrAnAbort := by
  intro s n ha d x e g w
  refine ⟨fun hs hp => ⟨fun hg => ?_, fun hg hj => ?_, fun hg hj => ?_⟩, fun a k hs hp hr => ?_, fun hs h0 ht htr => ?_⟩
  · exact State.next_live ha (Dev.txGrant_energy hs hp hg)
  · exact State.next_live ha (Dev.txGrant_full hs hp hg hj)
  · obtain ⟨ws, t0s, htxn, haside, hopens⟩ := Dev.txGrant_place hs hp hg (g := g) rfl hj
    refine ⟨_, State.next_live ha rfl, rfl, rfl, ?_, ?_, ?_, ?_, haside, hopens⟩ <;> rw [State.onDev_dev, htxn]
  · intro p
    exact ⟨State.next_live ha (Dev.txPrepDurable_ok hs hp hr), State.next_live ha (Dev.txPrepDurable_failed hs hp hr)⟩
  · exact State.next_live ha (if_pos ⟨hs, h0, ht, by simpa using htr⟩)

end Sys2Proof.Machine
end

section
/-! MARK and DONE entries, KILL, the journal's tail, system commits and TAPP copies (R169, R176, R180, R183, R189, R190, R203). -/

namespace Sys2Proof.Machine

open Sys2Proof

/-- The MARK entry is durable: frames are released, the home writes are carried out, and the DONE entry gets its place (R169). -/
theorem State.markDurable_of {s : State} {n a k : Nat} (hs : s.dev.txState n = 4) (hm : (s.dev.txn n).mark = some (a, k)) (hd : (s.dev.txn n).done = none) :
    let x := s.dev.txn n
    let m := (s.dev.jWrite a x.markWs).wr (txMark n) (BitVec.ofNat 72 a)
    let f := x.frames.foldl (fun s p => s.release p.1 p.2 true) (s.onDev m)
    let h := f.dev.homeWrites x.seq x.totals x.params
    let r := Dev.jAlloc { h with jnl := { h.jnl with aside := h.jnl.aside - 1 } } 1
    s.markDurable n = f.onDev (r.2.putTxn n { x with done := some r.1 }) := by
  intro x m f h r
  have hgo : ¬s.dev.txState n ≠ 4 := by simp [hs]
  unfold State.markDurable
  dsimp only
  split
  case h_1 a' k' _ hm' hd' =>
    obtain ⟨rfl, rfl⟩ := Prod.mk.inj (Option.some.inj (hm.symm.trans hm'))
    exact if_neg hgo
  case h_2 hno => exact absurd hd (hno a k hm)

/-- The DONE entry is durable: the transaction reaches its result (R180, R181). -/
theorem Dev.doneDurable_of {d : Dev} {n a k : Nat} {p : Nat × Nat} (hs : d.txState n = 4) (hd : (d.txn n).done = some (a, k)) (hp : (d.txn n).prep = some p) :
    let x := d.txn n
    let w := d.rsWrite a (fields [(3, 68), (1, 56), (n, 51), (k, 48), (x.seq, 0)])
    let e := Dev.doneLimit { w with jnl := { w.jnl with opens := w.jnl.opens.filter (fun e => decide (e ≠ (x.seq, p))) } }
    let f := ((e.fp (txStat n) TxStat.STATE 0).fp (txStat n) TxStat.RES 1).fp (txStat n) TxStat.ABC 0
    d.doneDurable n = (((f.fp (txRes n) TxRes.RES 0).putTxn n { strayAt := x.strayAt }).accounts.txEvent n) := by
  intro x w e f
  have hgo : ¬d.txState n ≠ 4 := by simp [hs]
  unfold Dev.doneDurable
  dsimp only
  split
  case h_1 a' k' p' hd' hp' =>
    obtain ⟨rfl, rfl⟩ := Prod.mk.inj (Option.some.inj (hd.symm.trans hd'))
    obtain rfl := Option.some.inj (hp.symm.trans hp')
    exact if_neg hgo
  case h_2 hno => exact absurd hp (hno a k p hd)

/-- The next write of the oldest system commit (R190). -/
theorem Dev.sysRun_of {d : Dev} {q : SysCommit} {l : List SysCommit} (h : d.sysq = q :: l) :
    let e : Dev := { d with sysq := if q.half then l else { q with half := true } :: l }
    d.sysRun = if q.set = q.half then e.audit q.audit else e.sysWord q := by
  intro e
  simp only [Dev.sysRun, h]
  rfl

/-- The end of a TAPP copy whose owner's stores have drained (R173, R176). -/
theorem State.tappEnd_of {s : State} {n : Nat} (fl : Flips) {k : TappCopy} (hc : (s.dev.txn n).copy = some k)
    (hst : (s.dev.cell (s.dev.txn n).owner).stores = []) :
    let d := s.dev
    let x := d.txn n
    let r : Req := { cls := clsCELL, pl := k.pl, pg := (d.cell x.owner).pgrp, part := x.part, req := x.owner, kind := .read, addr := k.addr, n := k.len }
    s.tappEnd n fl = State.pump (match d.ask r with
      | (.permit _, e) =>
        let q := (s.onDev (e.touch k.addr k.len)).takeWords k.addr k.len (some dpTXU) fl
        if d.dramGone k.addr then s.onDev ((e.touch k.addr k.len).txAppEnd n (some []) true)
        else q.2.2.onDev (q.2.2.dev.txAppEnd n (some q.1) (decide (q.2.1 ≠ 0)))
      | (_, e) => s.onDev (e.txAppEnd n none false)) x.owner := by
  intro d x r
  have hgo : ¬(s.dev.cell (s.dev.txn n).owner).stores ≠ [] := by simp [hst]
  simp only [State.tappEnd, hc, if_neg hgo]
  generalize s.dev.ask _ = v
  obtain ⟨v, e⟩ := v
  cases v <;> rfl

/-- A write of the transaction unit's registers without locked fields, whose own effect is `x`. -/
theorem State.rowWrite_txu (s : State) (who : Requester) {r : Nat} (v : Half) (q : RegDesc) (hr : r / 0x10000 = 5 ∨ r / 0x10000 = 6)
    (h : s.reaches who r = true) (hq : regDesc r = q) (hw : q.wide = false) (hl : q.mask (fun a => a == .rwl) = 0) {x : Bool × Dev}
    (hx : s.dev.wrTxu r (s.dev.newAt who r v) (ofHalf v &&& 0xFFFFFFFFF) = x) : s.rowWrite who r v = s.wrote r x.1 x.2 := by
  refine State.rowWrite_eff s who r v q h hq hw hl ?_ (.inl (by omega)) ?_
  · refine ⟨?_, ?_, ?_, ?_, ?_⟩ <;> rintro rfl <;> revert hr <;> decide
  · rw [← hx, Dev.regWrite]
    rcases hr with hr | hr <;> rw [hr] <;> rfl

/-- KILL aborts the transaction that it names. -/
theorem Dev.wrTxu_kill (d : Dev) (n : Fin 32) (new : Word) :
    d.wrTxu txCmd new (ofHalf (withField TxCmd.KILL 1 (withField TxCmd.TXN n.val 0)) &&& 0xFFFFFFFFF) = (false, d.txAbort n.val abcKILL) := by
  have hk : TxCmd.KILL.get (ofHalf (withField TxCmd.KILL 1 (withField TxCmd.TXN n.val 0)) &&& 0xFFFFFFFFF) ≠ 0 := by
    rw [get_withField _ _ _ (by decide)]; decide
  have hn : TxCmd.TXN.get (ofHalf (withField TxCmd.KILL 1 (withField TxCmd.TXN n.val 0)) &&& 0xFFFFFFFFF) = n.val := by
    rw [get_withField_ne TxCmd.KILL TxCmd.TXN _ _ (by decide) (by decide) (by decide), get_withField _ _ _ (by decide)]
    exact Nat.mod_eq_of_lt n.isLt
  rw [Dev.wrTxu, if_pos rfl, if_pos hk, hn]

theorem Dev.newAt_tail (d : Dev) (who : Requester) (v : Half) : RsJtail.TAIL.get (d.newAt who rsJtail v) = RsJtail.TAIL.get (ofHalf v) :=
  Dev.newAt_rw d who rsJtail v RsJtail.TAIL RsJtail.desc rfl (fun w => by simp [Dev.absentFields, rsJtail]) (by decide) (by decide) (by decide)

/-- RSJTAIL takes the address of an entry on the way to the limit, and no other (R203). -/
theorem Dev.wrTxu_tail {d : Dev} {new : Word} (v : Word) {t : Nat} (ht : RsJtail.TAIL.get new = t) :
    d.wrTxu rsJtail new v = if d.headerAt t (d.fg rsJlim RsJlim.LIM) jSize (d.fg rsJtail RsJtail.TAIL)
      then (false, ((d.jUsed t 1).fp rsJtail RsJtail.TAIL t).writeControl) else (true, d) := by
  have h0 : rsJtail ≠ txCmd := by decide
  rw [Dev.wrTxu, if_neg h0, if_pos rfl, ht, Dev.tailWrite]
  split <;> rfl

/-- Settles O21: each entry by its write, KILL and the tail by their register's. -/
theorem commitsComplete : Obligations.CommitsComplete := by
  intro s n d x
  refine ⟨fun ha => ⟨fun a k hs hm hd => ?_, fun a k p hs hd hp => ?_, fun q l hq => ?_, fun k fl hc hst => ?_⟩, fun who h => ?_, fun who v h => ?_⟩
  · intro m f h r
    exact State.next_liveS ha (congrArg State.heldReset (State.markDurable_of hs hm hd))
  · intro w e f
    exact State.next_live ha (Dev.doneDurable_of hs hd hp)
  · intro e w
    exact State.next_live ha (Dev.sysRun_of hq)
  · intro r
    refine State.next_liveS ha ((State.tappEnd_of fl hc hst).trans ?_)
    generalize s.dev.ask _ = v
    obtain ⟨v, e⟩ := v
    cases v <;> rfl
  · have hrow := State.rowWrite_txu s who (withField TxCmd.KILL 1 (withField TxCmd.TXN n.val 0)) TxCmd.desc (.inl (by decide)) h rfl rfl (by decide)
      (Dev.wrTxu_kill s.dev n _)
    exact congrArg Host.Outcome.next hrow
  · intro t
    have hrow := State.rowWrite_txu s who v RsJtail.desc (.inr (by decide)) h rfl rfl (by decide) (Dev.wrTxu_tail _ (Dev.newAt_tail s.dev who v))
    refine congrArg Host.Outcome.next (hrow.trans ?_)
    split <;> rfl

end Sys2Proof.Machine
end

section
/-! The transaction ops at a bundle (R172-R178, R409): what each leaves of its cell, of the transactions and of TXnSTAT. -/

namespace Sys2Proof.Machine

open Sys2Proof

/-- The op word of a transaction op. -/
def txWord (f : TxFn) (r q : Nat) : Op := { k := .tx f, slot := 3, s1 := r, s2 := q }

/-- The cell with the registers of the transaction ops changed. -/
def Cell.withTx (x : Cell) (u : Option Nat) (e a b : Nat) : Cell := { x with txCur := u, txErr := e, txAbc := a, txAbn := b }

/-- What a bundle of one transaction op leaves: `e` is the device as the op itself leaves it. -/
structure State.DidTx (s : State) (c : Nat) (e : Dev) (u : Option Nat) (r a b : Nat) (t : State) : Prop where
  pending : t.pending = s.pending
  mem : t.mem = s.mem
  others : ∀ k ≠ c, t.dev.cell k = s.dev.cell k
  own : t.dev.cell c = { s.dev.cell c with pc := (s.dev.cell c).pc + 1, bun := (s.dev.cell c).bun + 1, txCur := u, txErr := r, txAbc := a, txAbn := b }
  txn : ∀ n, t.dev.txn n = e.txn n
  stat : ∀ n < 32, ∀ g, t.dev.fg (txStat n) g = e.fg (txStat n) g

theorem Cell.opAdd_idle (x : Cell) (h : x.idle = true) : opAdd x.pc 1 = x.pc + 1 := by
  obtain ⟨h1, h2, h3, h4, h5, h6, h7, h8, h9, h10, h11, h12, h13, h14, h15, h16, h17, h18, h19, h20, h21, h22, h23, h24, h25⟩ :=
    (Cell.idle_iff _).1 h
  unfold opAdd; omega

/-- The data access of a transaction op, as the ditch takes it: TAPP's buffer. -/
def txVa (f : TxFn) (v1 : Word) : Nat := match f with | .tapp => addr36 v1 0 | _ => 0

theorem Dev.dataAll_tx (d : Dev) (c : Nat) (f : TxFn) (r q p a : Nat) (h1 : (d.cell c).s1On = false) (h2 : (d.cell c).s2On = false) :
    d.dataAll c [({ txWord f r q with pred := p }, a)] = .ok [({ txWord f r q with pred := p }, a, txVa f ((d.cell c).rg r))] := by
  cases f
  case tapp => exact Dev.dataAll_some d c _ a 0 _ rfl h1 h2
  all_goals exact Dev.dataAll_none d c _ a rfl

/-- A transaction op of a ready cell has the effect of `Dev.issueTx`, and its bundle ends at once. -/
theorem State.rowOp_tx (s : State) (h : OpHdr) (hs : s.takes h) (f : TxFn) (r q : Nat) (e : Dev) (u : Option Nat) (x a b : Nat)
    (he : (s.dev.putCell h.cell.val ((s.dev.cell h.cell.val).holds { txWord f r q with pred := h.pred.val })).issueTx h.cell.val f
      ((s.dev.cell h.cell.val).rg r) ((s.dev.cell h.cell.val).rg q) (txVa f ((s.dev.cell h.cell.val).rg r)) = e)
    (hc : e.cells = Tab.set {} s.dev.cells h.cell.val
      (((s.dev.cell h.cell.val).holds { txWord f r q with pred := h.pred.val }).withTx u x a b))
    (hrun : e.run = s.dev.run) (hboot : e.boot = s.dev.boot) :
    ∃ t, s.rowOp h (txWord f r q) = t ∧ s.DidTx h.cell.val e u x a b t := by
  obtain ⟨hr, hend, hpr⟩ := hs
  have hid := ((State.ready_iff s _).1 hr).2.2.1
  have hun := Cell.idle_unended (s.dev.cell h.cell.val) { txWord f r q with pred := h.pred.val } hid
  obtain ⟨h1, h2, h3, h4, h5, h6, h7, h8, h9, h10, h11, h12, h13, h14, h15, h16, h17, h18, h19, h20, h21, h22, h23, h24, h25⟩ :=
    (Cell.idle_iff _).1 hid
  generalize hy : ((s.dev.cell h.cell.val).holds { txWord f r q with pred := h.pred.val }).withTx u x a b = y at hc
  have hput : e.putCell h.cell.val y = e := by
    show ({ e with cells := Tab.set {} e.cells h.cell.val y } : Dev) = e
    rw [hc, Tab.set_set, ← hc]
  have hrow := State.rowOp_plain s h (txWord f r q) y e s.mem (txVa f ((s.dev.cell h.cell.val).rg r)) hr hend rfl (Nat.le_of_ble_eq_true rfl) hpr
    (Cell.opFault_holds _ _ hid rfl rfl rfl (fun hk => nomatch hk))
    (by
      have := Dev.dataAll_tx (s.dev.putCell h.cell.val ((s.dev.cell h.cell.val).holds { txWord f r q with pred := h.pred.val })) h.cell.val
        f r q h.pred.val (s.dev.cell h.cell.val).pc (by rw [Dev.putCell_cell]; exact h23) (by rw [Dev.putCell_cell]; exact h24)
      rw [Dev.putCell_cell] at this
      exact this)
    rfl (by rw [hput, ← he]; rfl) (by rw [hrun, hboot]) (by rw [← hy]; exact ⟨h21, h22⟩) (by rw [← hy]; exact h11) (by rw [← hy]; exact hun)
  have hpass : y.passed (opAdd (s.dev.cell h.cell.val).pc (txWord f r q).words) ((s.dev.cell h.cell.val).bun + 1)
      = { s.dev.cell h.cell.val with pc := (s.dev.cell h.cell.val).pc + 1, bun := (s.dev.cell h.cell.val).bun + 1, txCur := u, txErr := x, txAbc := a, txAbn := b } := by
    have h := congrArg (fun z : Cell => z.withTx u x a b)
      (Cell.passed_idle (s.dev.cell h.cell.val) { txWord f r q with pred := h.pred.val } ((s.dev.cell h.cell.val).pc + 1) ((s.dev.cell h.cell.val).bun + 1) hid)
    rw [← hy]
    refine Eq.trans ?_ h
    rw [show (txWord f r q).words = 1 from rfl, Cell.opAdd_idle _ hid]
    rfl
  rw [Cell.ends_plain _ (by rw [hpass]; exact h4) (by rw [hpass]; exact h10), hpass] at hrow
  have hother : ∀ k ≠ h.cell.val, e.cell k = s.dev.cell k := fun k hk => by
    rw [Dev.cell, hc, Tab.get_set_ne _ _ _ _ hk]; rfl
  generalize hz : ({ s.dev.cell h.cell.val with
    pc := (s.dev.cell h.cell.val).pc + 1, bun := (s.dev.cell h.cell.val).bun + 1, txCur := u, txErr := x, txAbc := a, txAbn := b } : Cell) = z at hrow
  generalize e.rd (clBun h.cell.val) + 1 = w at hrow
  have hne : ∀ n < 32, txStat n ≠ clBun h.cell.val := fun n hn => by unfold txStat clBun; omega
  generalize clBun h.cell.val = k at hrow hne
  refine ⟨_, hrow, rfl, rfl, fun j hk => ?_, ?_, fun n => ?_, fun n hn g => ?_⟩
  · exact (Dev.wr_cell (e.putCell h.cell.val z) k w j).trans ((Dev.putCell_cell_ne e z hk).trans (hother j hk))
  · exact (Dev.wr_cell (e.putCell h.cell.val z) k w _).trans ((Dev.putCell_cell e h.cell.val z).trans hz.symm)
  · exact Dev.wr_txn (e.putCell h.cell.val z) k w n
  · exact Dev.fg_wr_ne (e.putCell h.cell.val z) _ g (hne n hn)

end Sys2Proof.Machine
end

section
/-! What the transaction ops of an open transaction stage, abort and refuse (R172-R178). -/

namespace Sys2Proof.Machine

open Sys2Proof

/-! ### The device part of an op -/

section
variable {d : Dev} {c n : Nat} {l : List Nat} {f : Dev → Nat → Dev}

/-- A group without a current transaction. -/
theorem Dev.txOp_none (h : (d.cell c).txCur = none) : d.txOp c l f = d.txRefuse c errNOCUR := by
  unfold Dev.txOp; rw [h]

/-- The group's current transaction is its own, in a state that the op permits. -/
theorem Dev.txOp_open (h : (d.cell c).txCur = some n) (hcell : d.fg (txStat n) TxStat.CELL = c) (hown : (d.txn n).owner = c)
    (hst : l.contains (d.txState n) = true) : d.txOp c l f = f (d.txRefuse c 0) n := by
  unfold Dev.txOp
  rw [h]
  simp only [hown, hcell, hst, ne_eq, not_true_eq_false, and_false, if_false, and_self, if_true]
end

/-- Every op but TBEGIN and TSEL needs a current transaction. -/
theorem Dev.issueTx_none {d : Dev} {c : Nat} (h : (d.cell c).txCur = none) (f : TxFn) (hf : f ≠ .tbegin ∧ f ≠ .tsel) (v1 v2 : Word) (pa : Nat) :
    d.issueTx c f v1 v2 pa = d.txRefuse c errNOCUR := by
  cases f
  case tbegin => exact absurd rfl hf.1
  case tsel => exact absurd rfl hf.2
  all_goals
    simp only [Dev.issueTx, Dev.txSw, Dev.txTot, Dev.txPar, Dev.txSnap, Dev.txApp, Dev.txFrm, Dev.txCommit, Dev.txUser]
    exact Dev.txOp_none h

theorem Dev.askIo_putCell (d : Dev) (c : Nat) (x : Cell) (r : Req) : ((d.putCell c x).askIo r).1 = (d.askIo r).1 := by
  have hg : ∀ k, (d.putCell c x).gate k r = d.gate k r := fun _ => rfl
  unfold Dev.askIo
  split
  · rfl
  · split
    · rfl
    · rw [hg]; split <;> rfl

theorem Dev.TxuKept.sessionActs (d : Dev) (p : Nat) : d.TxuKept (d.sessionActs p) := by
  unfold Dev.sessionActs
  split
  · exact ⟨rfl, rfl, fun _ _ _ => rfl, rfl, rfl⟩
  · exact .refl d

/-- A write that no other transaction claims, and for which there is room, is staged. -/
theorem Dev.txStageWrite_room {d : Dev} {n : Nat} {j : TxItem} (h1 : d.claimedByOther n j = false)
    (h2 : countItems TxItem.isWrite (d.txn n).items < 64) : d.txStageWrite n j = d.txStage n j := by
  unfold Dev.txStageWrite
  rw [h1, if_neg (by decide), if_neg (by omega)]

/-- Staging adds the item to its transaction, and leaves the states, the other transactions and the cells. -/
theorem Dev.txStage_spec (d : Dev) (n : Nat) (j : TxItem) :
    (d.txStage n j).txn n = { d.txn n with items := (d.txn n).items ++ [j] } ∧ (∀ m ≠ n, (d.txStage n j).txn m = d.txn m) ∧
    (d.txStage n j).txState n = d.txState n ∧ (d.txStage n j).cells = d.cells ∧ (d.txStage n j).run = d.run ∧
    (d.txStage n j).boot = d.boot := by
  have hne : txStat n ≠ txItems n := by unfold txStat txItems; omega
  obtain ⟨w, hw⟩ : ∃ w, d.txStage n j = (d.putTxn n { d.txn n with items := (d.txn n).items ++ [j] }).wr (txItems n) w := ⟨_, rfl⟩
  rw [hw, Dev.txState, Dev.txState, Dev.fg_wr_ne _ _ _ hne]
  simp only [Dev.wr_txn, Dev.wr_cells, Dev.wr_run, Dev.wr_boot]
  exact ⟨Dev.putTxn_txn .., fun m hm => Dev.putTxn_txn_ne _ _ hm, rfl, rfl, rfl, rfl⟩

theorem busAddr_lt {c va : Nat} (hc : c < 64) (h : va < 2 ^ 36) : busAddr c va < 2 ^ 36 := by
  unfold busAddr aliasOf; split <;> omega

theorem addr36_zero (g : Word) : addr36 g 0 = g.toNat % 2 ^ 36 := by
  show ((((g.toNat % 2 ^ 36 : Nat) : Int) + 0) % 2 ^ 36).toNat = _
  omega

/-! ### Ops that change their cell alone -/

/-- A transaction op that sets registers of its cell alone. -/
theorem State.rowOp_txSets (s : State) (h : OpHdr) (hs : s.takes h) (f : TxFn) (hf : f ≠ .tapp) (r q : Nat) (u : Cell → Option Nat) (e : Nat)
    (hu : ∀ y pc b, u (Cell.passed y pc b) = u y)
    (he : ∀ y : Cell, y.rg r = (s.dev.cell h.cell.val).rg r → y.part = (s.dev.cell h.cell.val).part → y.txCur = (s.dev.cell h.cell.val).txCur →
      (s.dev.putCell h.cell.val y).issueTx h.cell.val f ((s.dev.cell h.cell.val).rg r) ((s.dev.cell h.cell.val).rg q) 0
        = s.dev.putCell h.cell.val { y with txCur := u y, txErr := e }) :
    s.rowOp h (txWord f r q) = s.issued h.cell.val 1 fun y => { y with txCur := u y, txErr := e } := by
  obtain ⟨hr, hend, hpr⟩ := hs
  refine State.rowOp_change s h (txWord f r q) 0 (fun y => { y with txCur := u y, txErr := e }) (fun y => { y with txCur := u y, txErr := e }) hr hend rfl rfl rfl hpr rfl
    (fun hk => nomatch hk) (Dev.dataAll_none _ _ _ _ ?_) rfl
    (congrArg s.onDev (he ((s.dev.cell h.cell.val).holds { txWord f r q with pred := h.pred.val }) rfl rfl rfl)) ?_ ?_
  · cases f
    case tapp => exact absurd rfl hf
    all_goals rfl
  · exact fun y => ⟨fun h => h, rfl, rfl, fun h => h, rfl, rfl⟩
  · intro y pc
    have := hu y pc (y.bun + 1)
    simp only [this]
    rfl

/-- A refused op sets ERR alone. -/
theorem State.rowOp_txRefuses (s : State) (h : OpHdr) (hs : s.takes h) (f : TxFn) (hf : f ≠ .tapp) (r q e : Nat)
    (he : ∀ y : Cell, y.rg r = (s.dev.cell h.cell.val).rg r → y.part = (s.dev.cell h.cell.val).part → y.txCur = (s.dev.cell h.cell.val).txCur →
      (s.dev.putCell h.cell.val y).issueTx h.cell.val f ((s.dev.cell h.cell.val).rg r) ((s.dev.cell h.cell.val).rg q) 0
        = (s.dev.putCell h.cell.val y).txRefuse h.cell.val e) :
    s.rowOp h (txWord f r q) = s.issued h.cell.val 1 fun y => { y with txErr := e } := by
  refine State.rowOp_txSets s h hs f hf r q Cell.txCur e (fun _ _ _ => rfl) fun y h1 h2 h3 => ?_
  rw [he y h1 h2 h3, Dev.txRefuse, Dev.putCell_cell, Dev.putCell_putCell]

/-! ### Ops of the current transaction -/

/-- What every op on the current, open transaction `n` leaves alone. -/
def State.OnlyTxn (s t : State) (c n : Nat) : Prop :=
  (t.pending = s.pending ∧ t.mem = s.mem ∧ (∀ k ≠ c, t.dev.cell k = s.dev.cell k) ∧ (t.dev.cell c).g = (s.dev.cell c).g ∧
    (t.dev.cell c).pc = (s.dev.cell c).pc + 1) ∧ ∀ m ≠ n, t.dev.txn m = s.dev.txn m

/-- The device as an accepted op finds it: ERR is NONE. -/
def Dev.accepts (d : Dev) (c : Nat) (y : Cell) : Dev := d.putCell c { y with txErr := 0 }

theorem Dev.accepts_fg (d : Dev) (c : Nat) (y : Cell) (k : Nat) (g : Span) : (d.accepts c y).fg k g = d.fg k g := Dev.putCell_fg ..
theorem Dev.accepts_txState (d : Dev) (c : Nat) (y : Cell) (n : Nat) : (d.accepts c y).txState n = d.txState n := Dev.accepts_fg ..
theorem Dev.accepts_txn (d : Dev) (c : Nat) (y : Cell) (n : Nat) : (d.accepts c y).txn n = d.txn n := Dev.putCell_txn ..
theorem Dev.putCell_txRefuse (d : Dev) (c : Nat) (y : Cell) (e : Nat) : (d.putCell c y).txRefuse c e = d.putCell c { y with txErr := e } := by
  rw [Dev.txRefuse, Dev.putCell_cell, Dev.putCell_putCell]

section
variable {s : State} {h : OpHdr} {f : TxFn} {r q n : Nat}

/-- The cell as it holds the op. -/
def State.txHolds (s : State) (h : OpHdr) (f : TxFn) (r q : Nat) : Cell := (s.dev.cell h.cell.val).holds { txWord f r q with pred := h.pred.val }

/-- The effect of the op, before its bundle ends. -/
def State.txIssues (s : State) (h : OpHdr) (f : TxFn) (r q : Nat) : Dev :=
  (s.dev.putCell h.cell.val (s.txHolds h f r q)).issueTx h.cell.val f ((s.dev.cell h.cell.val).rg r) ((s.dev.cell h.cell.val).rg q)
    (txVa f ((s.dev.cell h.cell.val).rg r))

/-- An op that ends in a change of transaction `n`, of its state and of nothing else. -/
theorem State.rowOp_txOn (hs : s.takes h) (e : Dev) (a b : Nat) (he : s.txIssues h f r q = e)
    (hc : e.cells = Tab.set {} s.dev.cells h.cell.val ((s.txHolds h f r q).withTx (s.dev.cell h.cell.val).txCur 0 a b))
    (hrun : e.run = s.dev.run) (hboot : e.boot = s.dev.boot) (hm : ∀ m ≠ n, e.txn m = s.dev.txn m) :
    ∃ t, s.rowOp h (txWord f r q) = t ∧ s.OnlyTxn t h.cell.val n ∧ t.dev.txn n = e.txn n ∧
      (n < 32 → ∀ g, t.dev.fg (txStat n) g = e.fg (txStat n) g) ∧
      (t.dev.cell h.cell.val).txErr = 0 ∧ (t.dev.cell h.cell.val).txAbc = a ∧ (t.dev.cell h.cell.val).txAbn = b := by
  obtain ⟨t, ht, hd⟩ := State.rowOp_tx s h hs f r q e _ 0 a b he hc hrun hboot
  have hx := hd.own
  refine ⟨t, ht, ⟨⟨hd.pending, hd.mem, hd.others, by rw [hx], by rw [hx]⟩, fun m hm' => (hd.txn m).trans (hm m hm')⟩, hd.txn n,
    fun hn => hd.stat n hn, by rw [hx], by rw [hx], by rw [hx]⟩

/-- An op that stages an item on the device `d1`, which is the one that the op found but for what the record store counts. -/
theorem State.rowOp_txStages (hs : s.takes h) (hn : n < 32) (hst : s.dev.txState n = 1) (j : TxItem) (d1 : Dev)
    (hk : (s.dev.accepts h.cell.val (s.txHolds h f r q)).TxuKept d1) (he : s.txIssues h f r q = d1.txStage n j) :
    ∃ t, s.rowOp h (txWord f r q) = t ∧ s.OnlyTxn t h.cell.val n ∧ (t.dev.txn n).items = (s.dev.txn n).items ++ [j] ∧ t.dev.txState n = 1 ∧
      (t.dev.cell h.cell.val).txErr = 0 := by
  obtain ⟨h1, h2, h3, k1, k2, k3⟩ := Dev.txStage_spec d1 n j
  obtain ⟨t, ht, ho, hx, hg, hr, -⟩ := State.rowOp_txOn (n := n) hs (d1.txStage n j) (s.dev.cell h.cell.val).txAbc (s.dev.cell h.cell.val).txAbn he (k1.trans hk.cells)
    (k2.trans hk.run) (k3.trans hk.boot) (fun m hm => (h2 m hm).trans ((hk.txn m).trans (Dev.accepts_txn ..)))
  refine ⟨t, ht, ho, ?_, ?_, hr⟩
  · rw [hx, h1, hk.txn, Dev.accepts_txn]
  · have hk' := hk.fg (k := txStat n) (by unfold txStat; omega) (by unfold txStat; omega) TxStat.STATE
    rw [Dev.accepts_fg] at hk'
    exact (hg hn _).trans (h3.trans (hk'.trans hst))

/-- An op that aborts its transaction. -/
theorem State.rowOp_txAborts (hs : s.takes h) (hn : n < 32) (hst : s.dev.txState n = 1) (hcell : s.dev.fg (txStat n) TxStat.CELL = h.cell.val)
    {code : Nat} (hc : code < 32) (he : s.txIssues h f r q = (s.dev.accepts h.cell.val (s.txHolds h f r q)).txAbort n code) :
    ∃ t, s.rowOp h (txWord f r q) = t ∧ s.OnlyTxn t h.cell.val n ∧ t.dev.txn n = { strayAt := (s.dev.txn n).strayAt } ∧ t.dev.txState n = 0 ∧
      t.dev.fg (txStat n) TxStat.RES = 2 ∧ t.dev.fg (txStat n) TxStat.ABC = code ∧ (t.dev.cell h.cell.val).txAbc = code ∧
      (t.dev.cell h.cell.val).txAbn = n := by
  rw [← Dev.accepts_txState s.dev h.cell.val (s.txHolds h f r q)] at hst
  have hcell' := (Dev.accepts_fg s.dev h.cell.val (s.txHolds h f r q) (txStat n) TxStat.CELL).trans hcell
  obtain ⟨g0, gres, gabc, -, gtxn, goth, gcells, grun, gboot⟩ := 
    Dev.txAbort_spec (d := s.dev.accepts h.cell.val (s.txHolds h f r q)) hn (by omega) (by omega) hc
  obtain ⟨t, ht, ho, hx, hg, -, ha, hb⟩ := State.rowOp_txOn (n := n) hs _ code n he
    (by
      rw [gcells, hcell', Dev.accepts, Dev.putCell_cell]
      exact Tab.set_set ..) grun gboot (fun m hm => (goth m hm).trans (Dev.accepts_txn ..))
  exact ⟨t, ht, ho, (hx.trans gtxn).trans (by rw [Dev.accepts_txn]), (hg hn _).trans g0, (hg hn _).trans gres, (hg hn _).trans gabc, ha, hb⟩

end

/-! ### The ops of the open current transaction -/

section
variable {s : State} {h : OpHdr} {n r q : Nat}

/-- Transaction `n` is open, the current one of the op's group and its own. -/
structure State.TxMine (s : State) (c n : Nat) : Prop where
  lt : n < 32
  cur : (s.dev.cell c).txCur = some n
  cell : s.dev.fg (txStat n) TxStat.CELL = c
  owner : (s.dev.txn n).owner = c
  state : s.dev.txState n = 1

/-- The device as the op of `f` finds it, ERR at NONE. -/
def State.txTakes (s : State) (h : OpHdr) (f : TxFn) (r q : Nat) : Dev := s.dev.accepts h.cell.val (s.txHolds h f r q)

theorem State.TxMine.txOp (hm : s.TxMine h.cell.val n) (f : TxFn) (l : List Nat) (g : Dev → Nat → Dev) (hl : l.contains 1 = true) :
    (s.dev.putCell h.cell.val (s.txHolds h f r q)).txOp h.cell.val l g = g (s.txTakes h f r q) n := by
  rw [Dev.txOp_open (d := s.dev.putCell h.cell.val (s.txHolds h f r q)) (n := n) (by rw [Dev.putCell_cell]; exact hm.cur) hm.cell hm.owner,
    Dev.putCell_txRefuse]
  · rfl
  · exact (congrArg l.contains hm.state).trans hl

theorem State.txTakes_cellReq (f : TxFn) (k : Kind) (a m : Nat) :
    (s.txTakes h f r q).cellReq h.cell.val k a m = s.dev.cellReq h.cell.val k a m := by
  rw [Dev.cellReq, State.txTakes, Dev.accepts, Dev.putCell_cell]; rfl

/-- What an op of the transaction stages. -/
def State.TxStages (s : State) (c n : Nat) (i : Instr) (j : TxItem) : Prop :=
  ∃ t, exec i s = .next t ∧ s.OnlyTxn t c n ∧ (t.dev.txn n).items = (s.dev.txn n).items ++ [j] ∧ t.dev.txState n = 1 ∧ (t.dev.cell c).txErr = 0

/-- An op of the transaction that aborts it. -/
def State.TxAborts (s : State) (c n : Nat) (i : Instr) (code : Nat) : Prop :=
  ∃ t, exec i s = .next t ∧ s.OnlyTxn t c n ∧ t.dev.txn n = { strayAt := (s.dev.txn n).strayAt } ∧ t.dev.txState n = 0 ∧
    t.dev.fg (txStat n) TxStat.RES = 2 ∧ t.dev.fg (txStat n) TxStat.ABC = code ∧ (t.dev.cell c).txAbc = code ∧ (t.dev.cell c).txAbn = n

variable {i : Instr} {f : TxFn}

theorem State.TxMine.stages (hm : s.TxMine h.cell.val n) (hs : s.takes h) (hi : exec i s = .next (s.rowOp h (txWord f r q))) (j : TxItem) (d1 : Dev)
    (hk : (s.txTakes h f r q).TxuKept d1) (he : s.txIssues h f r q = d1.txStage n j) : s.TxStages h.cell.val n i j := by
  obtain ⟨t, ht, hx⟩ := State.rowOp_txStages hs hm.lt hm.state j d1 hk he
  exact ⟨t, hi.trans (congrArg _ ht), hx⟩

theorem State.TxMine.aborts (hm : s.TxMine h.cell.val n) (hs : s.takes h) (hi : exec i s = .next (s.rowOp h (txWord f r q))) {code : Nat}
    (hc : code < 32) (he : s.txIssues h f r q = (s.txTakes h f r q).txAbort n code) : s.TxAborts h.cell.val n i code := by
  obtain ⟨t, ht, hx⟩ := State.rowOp_txAborts hs hm.lt hm.state hm.cell hc he
  exact ⟨t, hi.trans (congrArg _ ht), hx⟩

/-- TSW of a register whose fields a transaction may write, at a sluice that permits it (R175). -/
theorem State.TxMine.tsw (hm : s.TxMine h.cell.val n) (j : TxItem)
    (hq : (regDesc (((s.dev.cell h.cell.val).rg r).toNat % 2 ^ 24)).txMask ≠ 0) (hH : s.dev.isH = false)
    (hj : j = .write (((s.dev.cell h.cell.val).rg r).toNat % 2 ^ 24) (regDesc (((s.dev.cell h.cell.val).rg r).toNat % 2 ^ 24)).wide
      (if (regDesc (((s.dev.cell h.cell.val).rg r).toNat % 2 ^ 24)).wide then (s.dev.cell h.cell.val).rg q else (s.dev.cell h.cell.val).rg q &&& 0xFFFFFFFFF)
      (regDesc (((s.dev.cell h.cell.val).rg r).toNat % 2 ^ 24)).txMask)
    (hask : (s.dev.askIo (s.dev.cellReq h.cell.val .write (((s.dev.cell h.cell.val).rg r).toNat % 2 ^ 24) 1)).1 = true)
    (hno : (s.dev.txn n).items.any (fun k => k.clashes j) = false) (hcl : s.dev.claimedByOther n j = false)
    (hrm : countItems TxItem.isWrite (s.dev.txn n).items < 64) :
    s.txIssues h .tsw r q = (s.txTakes h .tsw r q).txStage n j := by
  rw [State.txIssues, Dev.issueTx, Dev.txSw, hm.txOp .tsw [1] _ rfl]
  have hask' := (Dev.askIo_putCell s.dev h.cell.val { s.txHolds h .tsw r q with txErr := 0 } _).trans hask
  have hp := Dev.askIo_permit _ _ hask'
  have hgo : ¬((regDesc (((s.dev.cell h.cell.val).rg r).toNat % 2 ^ 24)).txMask = 0 ∨
      ((s.txTakes h .tsw r q).isH && absentOnH (((s.dev.cell h.cell.val).rg r).toNat % 2 ^ 24)) = true) := by
    rw [show (s.txTakes h .tsw r q).isH = s.dev.isH from rfl, hH]
    exact fun hx => hx.elim hq fun hx => nomatch hx
  dsimp only
  rw [if_neg hgo, State.txTakes_cellReq, State.txTakes, Dev.accepts, hp, ← hj]
  dsimp only
  rw [if_neg (by decide), Dev.putCell_txn, hno, if_neg (by decide)]
  exact Dev.txStageWrite_room hcl hrm

theorem State.TxMine.tsw_notx (hm : s.TxMine h.cell.val n) (hq : (regDesc (((s.dev.cell h.cell.val).rg r).toNat % 2 ^ 24)).txMask = 0) :
    s.txIssues h .tsw r q = (s.txTakes h .tsw r q).txAbort n abcNOTX := by
  rw [State.txIssues, Dev.issueTx, Dev.txSw, hm.txOp .tsw [1] _ rfl]
  exact if_pos (.inl hq)

theorem State.TxMine.ttot (hm : s.TxMine h.cell.val n) {k : Nat}
    (hk : (s.dev.txSnaps n)[((s.dev.cell h.cell.val).rg r).toNat / 256 % 16]? = some (0, k))
    (hcl : s.dev.claimedByOther n (.tot (((s.dev.cell h.cell.val).rg r).toNat % 256) (((s.dev.cell h.cell.val).rg r).toNat / 256 % 16)) = false)
    (hrm : countItems TxItem.isWrite (s.dev.txn n).items < 64) :
    s.txIssues h .ttot r q = (s.txTakes h .ttot r q).txStage n
      (.tot (((s.dev.cell h.cell.val).rg r).toNat % 256) (((s.dev.cell h.cell.val).rg r).toNat / 256 % 16)) := by
  rw [State.txIssues, Dev.issueTx, Dev.txTot, hm.txOp .ttot [1] _ rfl]
  have hk' : ((s.txTakes h .ttot r q).txSnaps n)[((s.dev.cell h.cell.val).rg r).toNat / 256 % 16]? = some (0, k) := hk
  dsimp only
  rw [hk']
  exact Dev.txStageWrite_room hcl hrm

theorem State.TxMine.tpar_item (hm : s.TxMine h.cell.val n) (ho : 0x30000 ≤ ((s.dev.cell h.cell.val).rg r).toNat % 2 ^ 18) :
    s.txIssues h .tpar r q = (s.txTakes h .tpar r q).txAbort n abcITEM := by
  rw [State.txIssues, Dev.issueTx, Dev.txPar, hm.txOp .tpar [1] _ rfl]
  exact if_pos ho

/-- TPAR of a parameter word whose class the group's session may write (R177, R190). -/
theorem State.TxMine.tpar (hm : s.TxMine h.cell.val n) (o : Nat) (hoe : o = ((s.dev.cell h.cell.val).rg r).toNat % 2 ^ 18)
    (ho : o < 0x30000) (hx : ¬(0x1FFE0 ≤ o ∧ o < 0x20000)) (hr : s.dev.hasRight (s.dev.txn n).part (parRight o) = true)
    (hau : s.dev.auRoom = true) (j : TxItem)
    (hj : j = .par o ((s.dev.cell h.cell.val).rg q)
      { typ := 0x20 + o / 0x10000, part := (s.dev.txn n).part, role := (s.dev.actor (s.dev.txn n).part).1,
        serial := (s.dev.actor (s.dev.txn n).part).2, subj := o, old := s.dev.rsRead (parBase + o), new := (s.dev.cell h.cell.val).rg q })
    (hcl : s.dev.claimedByOther n j = false) (hrm : countItems TxItem.isWrite (s.dev.txn n).items < 64) :
    ∃ d1, (s.txTakes h .tpar r q).TxuKept d1 ∧ s.txIssues h .tpar r q = d1.txStage n j := by
  have hk : (s.txTakes h .tpar r q).TxuKept (((s.txTakes h .tpar r q).rsUsed (parBase + o) 1).sessionActs (s.dev.txn n).part) :=
    (Dev.TxuKept.rsUsed ..).trans (.sessionActs ..)
  refine ⟨_, hk, ?_⟩
  rw [State.txIssues, Dev.issueTx, Dev.txPar, hm.txOp .tpar [1] _ rfl]
  have h3 : (s.txTakes h .tpar r q).txn n = s.dev.txn n := Dev.accepts_txn ..
  dsimp only
  rw [← hoe, if_neg (by omega), if_neg hx, h3, if_neg]
  · refine Eq.trans (congrArg (Dev.txStageWrite _ n) hj.symm) (Dev.txStageWrite_room ?_ ?_)
    · rw [Dev.claimedByOther, hk.txns]; exact hcl
    · rw [hk.txn, h3]; exact hrm
  · have h1 : (s.txTakes h .tpar r q).hasRight (s.dev.txn n).part (parRight o) = true := hr
    have h2 : (s.txTakes h .tpar r q).auRoom = true := hau
    rw [h1, h2]; decide

theorem State.TxMine.tsnap (hm : s.TxMine h.cell.val n) {k : Nat} (hk : ((s.dev.cell h.cell.val).rg r).toNat / 64 % 4 = k)
    (hu : k = 1 ∨ k = 0 ∧ ((s.dev.cell h.cell.val).rg r).toNat % 64 < 32) (hrm : countItems TxItem.isSnap (s.dev.txn n).items < 16) :
    s.txIssues h .tsnap r q = (s.txTakes h .tsnap r q).txStage n (.snap k (((s.dev.cell h.cell.val).rg r).toNat % 64)) := by
  rw [State.txIssues, Dev.issueTx, Dev.txSnap, hm.txOp .tsnap [1] _ rfl]
  have hr' : ¬ 16 ≤ countItems TxItem.isSnap ((s.txTakes h .tsnap r q).txn n).items := Nat.not_le.2 hrm
  dsimp only
  rw [hk]
  obtain rfl | ⟨rfl, hu⟩ := hu
  · exact (if_neg (by simp)).trans (if_neg hr')
  · exact (if_neg (by simp [hu])).trans (if_neg hr')

theorem State.TxMine.tfrm (hm : s.TxMine h.cell.val n) (v : Nat) (hv : v = ((s.dev.cell h.cell.val).rg r).toNat)
    (hh : s.dev.isHeld (v / 2 ^ 19 % 2) (v / 2 ^ 16 % 8) (v % 65536) = true)
    (hcl : s.dev.claimedByOther n (.frame (v / 2 ^ 19 % 2) (v / 2 ^ 16 % 8) (v % 65536)) = false)
    (hrm : countItems TxItem.isFrame (s.dev.txn n).items < 4) :
    s.txIssues h .tfrm r q = (s.txTakes h .tfrm r q).txStage n (.frame (v / 2 ^ 19 % 2) (v / 2 ^ 16 % 8) (v % 65536)) := by
  rw [State.txIssues, Dev.issueTx, Dev.txFrm, hm.txOp .tfrm [1] _ rfl]
  have hh' : (s.dev.putCell h.cell.val (s.txHolds h .tfrm r q)).isHeld (v / 2 ^ 19 % 2) (v / 2 ^ 16 % 8) (v % 65536) = true := hh
  have hcl' : (s.txTakes h .tfrm r q).claimedByOther n (.frame (v / 2 ^ 19 % 2) (v / 2 ^ 16 % 8) (v % 65536)) = false := hcl
  dsimp only
  rw [← hv, hh', hcl', if_neg (by decide), if_neg (by decide)]
  exact if_neg (Nat.not_le.2 hrm)

theorem State.TxMine.tcommit (hm : s.TxMine h.cell.val n) (v : Nat) (hv : v = ((s.dev.cell h.cell.val).rg r).toNat) (h2 : v % 4 < 2) :
    s.txIssues h .tcommit r q = ((s.txTakes h .tcommit r q).fp (txStat n) TxStat.STATE 2).putTxn n
      { (s.txTakes h .tcommit r q).txn n with mode := v % 4, wto := v / 4 % 2 ^ 20 } := by
  rw [State.txIssues, Dev.issueTx, Dev.txCommit, hm.txOp .tcommit [1] _ rfl]
  dsimp only
  rw [← hv]
  exact if_neg (by omega)

theorem State.TxMine.tcommit_item (hm : s.TxMine h.cell.val n) (h2 : 2 ≤ ((s.dev.cell h.cell.val).rg r).toNat % 4) :
    s.txIssues h .tcommit r q = (s.txTakes h .tcommit r q).txAbort n abcITEM := by
  rw [State.txIssues, Dev.issueTx, Dev.txCommit, hm.txOp .tcommit [1] _ rfl]
  exact if_pos h2

theorem State.TxMine.tabort (hm : s.TxMine h.cell.val n) : s.txIssues h .tabort r q = (s.txTakes h .tabort r q).txAbort n abcUSER := by
  rw [State.txIssues, Dev.issueTx, Dev.txUser, hm.txOp .tabort [1, 2, 3] _ rfl]

/-- TAPP begins its copy, as the buffer of a cell that does not translate (R173, R176). -/
theorem State.TxMine.tapp (hm : s.TxMine h.cell.val n) (hs : s.takes h) (len : Nat) (hlen : len = ((s.dev.cell h.cell.val).rg q).toNat % 1024)
    (h0 : len ≠ 0) (h8 : ((s.dev.txn n).items.filterMap TxItem.recWords).length < 8)
    (h512 : ((s.dev.txn n).items.filterMap TxItem.recWords).sum + len ≤ 512) :
    s.txIssues h .tapp r q = (s.txTakes h .tapp r q).putTxn n { s.dev.txn n with
      copy := some ⟨busAddr h.cell.val (((s.dev.cell h.cell.val).rg r).toNat % 2 ^ 36), len, ((s.dev.cell h.cell.val).rg q).toNat / 1024 % 65536,
        (s.dev.cell h.cell.val).pl⟩ } := by
  have hid := ((State.ready_iff s _).1 hs.1).2.2.1
  obtain ⟨h1, h2, h3, h4, h5, h6, h7, h8', h9, h10, h11, h12, h13, h14, h15, h16, h17, h18, h19, h20, h21, h22, h23, h24, h25⟩ :=
    (Cell.idle_iff _).1 hid
  have hva : txVa .tapp ((s.dev.cell h.cell.val).rg r) = ((s.dev.cell h.cell.val).rg r).toNat % 2 ^ 36 := addr36_zero _
  have hlt : busAddr h.cell.val (((s.dev.cell h.cell.val).rg r).toNat % 2 ^ 36) < 2 ^ 36 := busAddr_lt h.cell.isLt (Nat.mod_lt _ (by decide))
  have hcell : (s.txTakes h .tapp r q).cell h.cell.val = { s.txHolds h .tapp r q with txErr := 0 } := Dev.putCell_cell ..
  have hs1 : ((s.dev.putCell h.cell.val (s.txHolds h .tapp r q)).cell h.cell.val).s1On = false := by rw [Dev.putCell_cell]; exact h23
  have hs2 : ((s.dev.putCell h.cell.val (s.txHolds h .tapp r q)).cell h.cell.val).s2On = false := by rw [Dev.putCell_cell]; exact h24
  have htx : (s.txTakes h .tapp r q).txn n = s.dev.txn n := Dev.accepts_txn ..
  rw [State.txIssues, Dev.issueTx, Dev.txApp, hm.txOp .tapp [1] _ rfl, hva]
  dsimp only
  rw [htx, ← hlen, if_neg (by omega), if_neg (by rw [hs1, hs2]; simp), hcell, BitVec.toNat_ofNat, Nat.mod_eq_of_lt (a := busAddr _ _) (by omega),
    Nat.mod_eq_of_lt hlt]
  rfl
end

/-- What a change of one transaction and of its STATE leaves alone. -/
theorem Dev.fp_putTxn_spec (d : Dev) (n v : Nat) (x : Txn) :
    ((d.fp (txStat n) TxStat.STATE v).putTxn n x).txState n = v % 8 ∧ ((d.fp (txStat n) TxStat.STATE v).putTxn n x).txn n = x ∧
    (∀ m ≠ n, ((d.fp (txStat n) TxStat.STATE v).putTxn n x).txn m = d.txn m) ∧ ((d.fp (txStat n) TxStat.STATE v).putTxn n x).cells = d.cells ∧
    ((d.fp (txStat n) TxStat.STATE v).putTxn n x).run = d.run ∧ ((d.fp (txStat n) TxStat.STATE v).putTxn n x).boot = d.boot := by
  refine ⟨?_, Dev.putTxn_txn _ _ _, fun m hm => (Dev.putTxn_txn_ne _ _ hm).trans ?_, ?_, ?_, ?_⟩
  · rw [Dev.txState, Dev.putTxn_fg, Dev.fg_fp_self _ _ _ _ (by decide)]; rfl
  all_goals simp only [Dev.fp, Dev.wr_txn, Dev.putTxn_cells, Dev.wr_cells, Dev.putTxn_run, Dev.wr_run, Dev.putTxn_boot, Dev.wr_boot]

/-! ### TBEGIN and TSEL (R172) -/

/-- TXnSTAT as TBEGIN writes it is OPEN. -/
theorem txStat_open {b p c : Nat} (hb : b < 2) (hp : p < 64) (hc : c < 64) : TxStat.STATE.get (fields [(1, 33), (b, 25), (p, 17), (c, 11)]) = 1 := by
  simp only [Span.get, fields, List.foldl_cons, List.foldl_nil, TxStat.STATE, Span.width, BitVec.toNat_ofNat, Nat.shiftRight_eq_div_pow]
  omega

/-- The registers and the transaction that a TBEGIN leaves. -/
def Dev.txOpens (d : Dev) (n : Nat) (w : Word) (x : Txn) : Dev :=
  (((((d.wr (txStat n) w).wr (txItems n) 0).wr (txRes n) 0).wr (txPrep n) 0).wr (txMark n) 0).putTxn n x


/-- What a TBEGIN that is taken opens. -/
def Dev.txBegun (d : Dev) (c n b : Nat) : Dev :=
  d.txOpens n (fields [(1, 33), (b, 25), ((d.cell c).part, 17), (c, 11)])
    { owner := c, part := (d.cell c).part, pl := (d.cell c).pl, strayAt := (d.txn n).strayAt }

theorem Dev.txOpens_spec (d : Dev) (n : Nat) (w : Word) (x : Txn) : 
    (d.txOpens n w x).fg (txStat n) TxStat.STATE = TxStat.STATE.get w ∧ (d.txOpens n w x).txn n = x ∧
    (∀ m ≠ n, (d.txOpens n w x).txn m = d.txn m) ∧ (d.txOpens n w x).cells = d.cells ∧ (d.txOpens n w x).run = d.run ∧
    (d.txOpens n w x).boot = d.boot := by
  have h1 : txStat n ≠ txItems n := by unfold txStat txItems; omega
  have h2 : txStat n ≠ txRes n := by unfold txStat txRes; omega
  have h3 : txStat n ≠ txPrep n := by unfold txStat txPrep; omega
  have h4 : txStat n ≠ txMark n := by unfold txStat txMark; omega
  unfold Dev.txOpens
  refine ⟨?_, Dev.putTxn_txn _ _ _, fun m hm => (Dev.putTxn_txn_ne _ _ hm).trans ?_, ?_, ?_, ?_⟩
  · rw [Dev.putTxn_fg, Dev.fg_wr_ne _ _ _ h4, Dev.fg_wr_ne _ _ _ h3, Dev.fg_wr_ne _ _ _ h2, Dev.fg_wr_ne _ _ _ h1, Dev.fg, Dev.rd_wr_self]
  all_goals simp only [Dev.wr_txn, Dev.putTxn_cells, Dev.wr_cells, Dev.putTxn_run, Dev.wr_run, Dev.putTxn_boot, Dev.wr_boot]

theorem Dev.txBegin_free {d : Dev} {c v : Nat} (hmine : d.txAllowed (v % 32) (d.cell c).part = true) (hst : d.txState (v % 32) = 0) :
    d.txBegin c v = (d.txBegun c (v % 32) (v / 32 % 2)).putCell c
      { (d.txBegun c (v % 32) (v / 32 % 2)).cell c with txCur := some (v % 32), txErr := 0 } := by
  unfold Dev.txBegin Dev.txBegun Dev.txOpens
  dsimp only
  rw [hmine, if_neg (by decide), if_neg (by omega)]

theorem Dev.txAllowed_part {d : Dev} {n p : Nat} (h : d.txAllowed n p = true) : p < 64 := by
  simp only [Dev.txAllowed, Bool.and_eq_true, decide_eq_true_eq] at h
  exact h.2 ▸ TxOwn.PART.get_lt _

/-- TBEGIN of a free number that the group's partition may use. -/
theorem State.rowOp_tbegin {s : State} {h : OpHdr} (hs : s.takes h) (r : Nat) (n : Nat) (hn : n = ((s.dev.cell h.cell.val).rg r).toNat % 32)
    (hmine : s.dev.txAllowed n (s.dev.cell h.cell.val).part = true) (hst : s.dev.txState n = 0) :
    ∃ t, s.rowOp h (txWord .tbegin r 0) = t ∧ s.OnlyTxn t h.cell.val n ∧ t.dev.txState n = 1 ∧
      t.dev.txn n = { owner := h.cell.val, part := (s.dev.cell h.cell.val).part, pl := (s.dev.cell h.cell.val).pl, strayAt := (s.dev.txn n).strayAt } ∧
      (t.dev.cell h.cell.val).txCur = some n ∧ (t.dev.cell h.cell.val).txErr = 0 := by
  subst hn
  obtain ⟨v, hv⟩ : ∃ v, v = ((s.dev.cell h.cell.val).rg r).toNat := ⟨_, rfl⟩
  rw [← hv] at hmine hst ⊢
  obtain ⟨d0, hd0⟩ : ∃ d0, d0 = s.dev.putCell h.cell.val (s.txHolds h .tbegin r 0) := ⟨_, rfl⟩
  have hcell : d0.cell h.cell.val = s.txHolds h .tbegin r 0 := by rw [hd0]; exact Dev.putCell_cell ..
  have hb := Dev.txBegin_free (d := d0) (c := h.cell.val) (v := v) (by rw [hcell, hd0]; exact hmine) (by rw [hd0]; exact hst)
  obtain ⟨d1, hd1⟩ : ∃ d1, d1 = d0.txBegun h.cell.val (v % 32) (v / 32 % 2) := ⟨_, rfl⟩
  obtain ⟨h1, h2, h3, h4, h5, h6⟩ := Dev.txOpens_spec d0 (v % 32) (fields [(1, 33), (v / 32 % 2, 25), ((d0.cell h.cell.val).part, 17), (h.cell.val, 11)])
    { owner := h.cell.val, part := (d0.cell h.cell.val).part, pl := (d0.cell h.cell.val).pl, strayAt := (d0.txn (v % 32)).strayAt }
  rw [Dev.txBegun] at hd1 hb
  rw [← hd1] at h1 h2 h3 h4 h5 h6 hb
  have hcell1 : d1.cell h.cell.val = s.txHolds h .tbegin r 0 := by rw [← hcell, Dev.cell, h4, Dev.cell]
  rw [hcell1] at hb
  rw [hcell] at h1 h2
  have hcells : d0.cells = Tab.set {} s.dev.cells h.cell.val (s.txHolds h .tbegin r 0) := by rw [hd0]; rfl
  have h3' : ∀ m, d0.txn m = s.dev.txn m := fun m => by rw [hd0, Dev.putCell_txn]
  rw [h3'] at h2
  rw [hd0, hv] at hb
  obtain ⟨t, ht, hd⟩ := State.rowOp_tx s h hs .tbegin r 0 _ (some (v % 32)) 0 (s.dev.cell h.cell.val).txAbc (s.dev.cell h.cell.val).txAbn hb
    (by
      unfold Dev.putCell
      dsimp only
      rw [h4, hcells, Tab.set_set, ← hv]
      rfl) (h5.trans (by rw [hd0]; rfl)) (h6.trans (by rw [hd0]; rfl))
  have hx := hd.own
  refine ⟨t, ht, ⟨⟨hd.pending, hd.mem, hd.others, by rw [hx], by rw [hx]⟩, fun m hm => (hd.txn m).trans ((h3 m hm).trans (h3' m))⟩, ?_, (hd.txn _).trans h2,
    by rw [hx], by rw [hx]⟩
  refine (hd.stat _ (by omega) _).trans (h1.trans (txStat_open (by omega) (Dev.txAllowed_part hmine) h.cell.isLt))

/-- Settles O23: the effect of each op on the device, taken through its bundle. -/
theorem transactionOpsStage : Obligations.TransactionOpsStage := by
  intro s h hs s1 s2 n c x a keeps refuses mine
  have refused : ∀ (f : TxFn) (r q e : Nat) (i : Instr), f ≠ .tapp → exec i s = .next (s.rowOp h (txWord f r q)) →
      (∀ y : Cell, y.rg r = x.rg r → y.part = x.part → y.txCur = x.txCur →
        (s.dev.putCell c y).issueTx c f (x.rg r) (x.rg q) 0 = (s.dev.putCell c y).txRefuse c e) → refuses i e :=
    fun f r q e i hf hi he => hi.trans (congrArg _ (State.rowOp_txRefuses s h hs f hf r q e he))
  have part : ∀ y : Cell, y.part = x.part → (s.dev.putCell c y).txAllowed (a % 32) ((s.dev.putCell c y).cell c).part = mine := fun y hy => by
    rw [Dev.putCell_cell, hy]; rfl
  refine ⟨fun hmine hst => ?_, fun hmine => ⟨?_, ?_⟩, fun hmine hst => ⟨?_, fun hown => ?_⟩, fun hmine hst hown => ?_, fun hmine hst => ?_,
    fun hcur i hi => ?_, fun hn hcur hcell hown hst => ?_⟩
  · obtain ⟨t, ht, ho, h1, h2, h3, h4⟩ := State.rowOp_tbegin hs s1.val (a % 32) rfl hmine hst
    exact ⟨t, congrArg _ ht, ho.1, h1, h2, h3, h4⟩
  · exact refused .tbegin s1.val 0 _ _ (by decide) rfl fun y _ hy _ => if_pos (by rw [part y hy, hmine]; rfl)
  · exact refused .tsel s1.val 0 _ _ (by decide) rfl fun y _ hy _ => if_pos (by rw [part y hy, hmine]; rfl)
  · exact refused .tbegin s1.val 0 _ _ (by decide) rfl fun y _ hy _ => (if_neg (by rw [part y hy, hmine]; decide)).trans (if_pos hst)
  · exact refused .tsel s1.val 0 _ _ (by decide) rfl fun y _ hy _ =>
      (if_neg (by rw [part y hy, hmine]; decide)).trans ((if_neg hst).trans (if_pos hown))
  · refine congrArg Host.Outcome.next (State.rowOp_txSets s h hs .tsel (by decide) s1.val 0 (fun _ => some (a % 32)) 0 (fun _ _ _ => rfl) fun y _ hy _ => ?_)
    refine ((if_neg (by rw [part y hy, hmine]; decide)).trans ((if_neg hst).trans (if_neg (not_not.2 hown)))).trans ?_
    rw [Dev.putCell_cell, Dev.putCell_putCell]
  · exact refused .tsel s1.val 0 _ _ (by decide) rfl fun y _ hy _ => (if_neg (by rw [part y hy, hmine]; decide)).trans (if_pos hst)
  · have none : ∀ (f : TxFn) (r q : Nat) (i : Instr), f ≠ .tapp → f ≠ .tbegin ∧ f ≠ .tsel → exec i s = .next (s.rowOp h (txWord f r q)) →
        refuses i errNOCUR := fun f r q i hf hf' hi =>
      refused f r q _ i hf hi fun y _ _ hy => Dev.issueTx_none (by rw [Dev.putCell_cell, hy]; exact hcur) f hf' _ _ _
    simp only [List.mem_cons, List.not_mem_nil, or_false] at hi
    obtain rfl | rfl | rfl | rfl | rfl | rfl | rfl := hi
    · exact none .tsw s1.val s2.val _ (by decide) (by decide) rfl
    · exact none .ttot s1.val 0 _ (by decide) (by decide) rfl
    · exact none .tpar s1.val s2.val _ (by decide) (by decide) rfl
    · exact none .tsnap s1.val 0 _ (by decide) (by decide) rfl
    · exact none .tfrm s1.val 0 _ (by decide) (by decide) rfl
    · exact none .tcommit s1.val 0 _ (by decide) (by decide) rfl
    · exact none .tabort 0 0 _ (by decide) (by decide) rfl
  · have hm : s.TxMine c n := ⟨hn, hcur, hcell, hown, hst⟩
    intro items others stages aborts room
    refine ⟨?_, fun hq => hm.aborts hs rfl (by decide) (hm.tsw_notx hq), fun k hk hrm => hm.stages hs rfl _ _ (.refl _) (hm.ttot hk hrm.1 hrm.2),
      fun ho => hm.aborts hs rfl (by decide) (hm.tpar_item ho), ?_, fun hk hrm => hm.stages hs rfl _ _ (.refl _) (hm.tsnap hk (.inl rfl) hrm),
      fun hk hu hrm => hm.stages hs rfl _ _ (.refl _) (hm.tsnap hk (.inr ⟨rfl, hu⟩) hrm), ?_, fun h2 => ?_,
      fun h2 => hm.aborts hs rfl (by decide) (hm.tcommit_item h2), hm.aborts hs rfl (by decide) hm.tabort, ?_⟩
    · intro r q v j hq hH hask hno hrm
      exact hm.stages hs rfl _ _ (.refl _) (hm.tsw j hq hH rfl hask hno hrm.1 hrm.2)
    · intro o p j ho hx hr hau hrm
      obtain ⟨d1, hk, he⟩ := hm.tpar o rfl ho hx hr hau j rfl hrm.1 hrm.2
      exact hm.stages hs rfl _ d1 hk he
    · intro j hh hcl hrm
      exact hm.stages hs rfl _ _ (.refl _) (hm.tfrm a rfl hh hcl hrm)
    · have he := hm.tcommit (r := s1.val) (q := 0) a rfl h2
      rw [State.txTakes, Dev.accepts_txn] at he
      obtain ⟨g1, g2, g3, g4, g5, g6⟩ := Dev.fp_putTxn_spec (s.dev.accepts c (s.txHolds h .tcommit s1.val 0)) n 2
        { s.dev.txn n with mode := a % 4, wto := a / 4 % 2 ^ 20 }
      obtain ⟨t, ht, ho, hx, hg, hr, -⟩ := State.rowOp_txOn (n := n) hs _ x.txAbc x.txAbn he g4 g5 g6 (fun m hm' => (g3 m hm').trans (Dev.accepts_txn ..))
      exact ⟨t, congrArg _ ht, ho, (hg hn _).trans g1, hx.trans g2, hr⟩
    · intro len recs h0 h8 h512 va hva
      have he := hm.tapp (r := s1.val) (q := s2.val) hs len rfl h0 h8 h512
      obtain ⟨t, ht, ho, hx, hg, hr, -⟩ := State.rowOp_txOn (n := n) hs _ x.txAbc x.txAbn he rfl rfl rfl
        (fun m hm' => (Dev.putTxn_txn_ne _ _ hm').trans (Dev.accepts_txn ..))
      rw [← hva]
      exact ⟨t, congrArg _ ht, ho, hx.trans (Dev.putTxn_txn ..), hr⟩

end Sys2Proof.Machine
end

section
/-! The step takes the queue's front command. -/

namespace Sys2Proof.Machine

open Sys2Proof

/-- Settles O1: `step` is a match on the queue. -/
theorem stepTakesTheFrontCommand : Obligations.StepTakesTheFrontCommand := by
  refine ⟨fun _ _ => rfl, fun i l s hs => ?_, fun s hs => ?_⟩
  · rw [step, hs]
  · rw [step, hs]

end Sys2Proof.Machine
end

section
/-! The ops of the A and M slots that a cell takes at once: arithmetic and logic (R377), comparisons and predicate ops (R328, R381), parts and lanes
(R380), multiplies, moves of product registers and LIMM (R356, R382-R384). -/

namespace Sys2Proof.Machine

open Sys2Proof

/-! ### Immediates and counts -/

theorem sxNat_toNat {n : Nat} (hn : 0 < n) (v : BitVec n) : sxNat n v.toNat = v.toInt := by
  have hp : 2 ^ n = 2 * 2 ^ (n - 1) := by rw [← Nat.pow_succ', Nat.succ_eq_add_one, Nat.sub_add_cancel hn]
  rw [sxNat, Nat.mod_eq_of_lt v.isLt, BitVec.toInt_eq_toNat_cond]
  by_cases h : v.toNat < 2 ^ (n - 1)
  · rw [if_pos h, if_pos (by omega)]
  · rw [if_neg h, if_neg (by omega)]; push_cast; rfl

theorem sxImm_toNat (imm : BitVec 14) : sxImm imm.toNat = imm.signExtend 72 := by
  rw [sxImm, sxNat_toNat (by decide)]; rfl

theorem zxImm_toNat {n : Nat} (imm : BitVec n) : BitVec.ofNat 72 (imm.toNat % 2 ^ n) = imm.zeroExtend 72 := by
  rw [Nat.mod_eq_of_lt imm.isLt, BitVec.ofNat_toNat]

theorem popCount_countP (m n : Nat) : popCount m n = (List.range n).countP fun i => m.testBit i := by
  induction n with
  | zero => rfl
  | succ n ih =>
    rw [popCount, ih, List.range_succ, List.countP_append, List.countP_singleton]
    rfl

theorem clzW_spec (a : Word) : clzW a ≤ 72 ∧ a.toNat < 2 ^ (72 - clzW a) ∧ (clzW a < 72 → 2 ^ (71 - clzW a) ≤ a.toNat) := by
  unfold clzW
  split
  · rename_i h
    exact ⟨Nat.le_refl _, by rw [h]; decide, fun hc => absurd hc (Nat.lt_irrefl _)⟩
  · rename_i h
    have hlog : a.toNat.log2 < 72 := (Nat.log2_lt h).2 a.isLt
    refine ⟨by omega, ?_, fun _ => ?_⟩
    · rw [show 72 - (72 - (a.toNat.log2 + 1)) = a.toNat.log2 + 1 by omega]
      exact Nat.lt_log2_self
    · rw [show 71 - (72 - (a.toNat.log2 + 1)) = a.toNat.log2 by omega]
      exact Nat.log2_self_le h

theorem zero_sub_word (a : Word) : (0 : Word) - a = -a := BitVec.zero_sub a

section
variable {s : State} {h : OpHdr} (ht : s.takes h)
include ht

/-- An ALU op that leaves the flags, by the value that it writes of the cell. -/
theorem State.takes_aluOf {f : Alu} {d s1 s2 : Nat} (F : Cell → Word) (hF : ∀ (y : Cell) pc bun, F { y with pc := pc, bun := bun } = F y)
    (hf : f.eval (flagsOf (s.dev.cell h.cell.val).st) ((s.dev.cell h.cell.val).rg s1) ((s.dev.cell h.cell.val).rg s2) =
      (F (s.dev.cell h.cell.val), flagsOf (s.dev.cell h.cell.val).st)) :
    Host.Outcome.next (φ := Fault) (ρ := Refusal) (s.rowOp h { k := .alu f, slot := 0, d := d, s1 := s1, s2 := s2 }) =
      .next (s.issued h.cell.val 1 fun x => x.wg d (F x)) := by
  rw [State.takes_alu_flagless ht hf]
  exact congrArg Host.Outcome.next (State.issued_congr _ _ _ _ _ (congrArg (Cell.wg _ d) (hF _ _ _).symm))

theorem State.takes_aluIOf {f : AluI} {d s1 imm : Nat} (F : Cell → Word) (hF : ∀ (y : Cell) pc bun, F { y with pc := pc, bun := bun } = F y)
    (hf : f.eval ((s.dev.cell h.cell.val).rg s1) imm = F (s.dev.cell h.cell.val)) :
    Host.Outcome.next (φ := Fault) (ρ := Refusal) (s.rowOp h { k := .aluI f, slot := 0, d := d, s1 := s1, imm := imm }) =
      .next (s.issued h.cell.val 1 fun x => x.wg d (F x)) := by
  rw [State.takes_aluI ht hf]
  exact congrArg Host.Outcome.next (State.issued_congr _ _ _ _ _ (congrArg (Cell.wg _ d) (hF _ _ _).symm))
end

/-- Settles O33: each op is its function of the registers, whose bundle changes nothing else. -/
theorem aluOpsWriteTheirResult : Obligations.AluOpsWriteTheirResult := by
  intro s h ht d s1 s2 imm
  refine ⟨?_, ?_, ?_, ?_, ?_, ?_, ?_, ?_, ?_, ?_, ?_, ?_, ?_, ?_, ?_, ?_, ?_, ?_, ?_⟩
  case refine_13 =>
    exact State.takes_aluOf ht (fun x => BitVec.ofNat 72 ((List.range 72).countP fun i => (x.rg s1).getLsbD i)) (fun _ _ _ => rfl)
      (congrArg (fun n => (BitVec.ofNat 72 n, _)) (popCount_countP _ _))
  case refine_14 =>
    obtain ⟨h1, h2, h3⟩ := clzW_spec ((s.dev.cell h.cell.val).rg s1)
    exact ⟨_, h1, h2, h3, congrArg Host.Outcome.next (State.takes_alu_flagless ht rfl)⟩
  case refine_12 =>
    exact State.takes_aluOf ht (fun x => if (x.rg s1).toInt < 0 then - x.rg s1 else x.rg s1) (fun _ _ _ => rfl)
      (by rw [← zero_sub_word]; rfl)
  case refine_15 => exact State.takes_aluIOf ht (fun x => x.rg s1 + imm.signExtend 72) (fun _ _ _ => rfl) (by rw [← sxImm_toNat]; rfl)
  case refine_16 => exact State.takes_aluIOf ht (fun x => x.rg s1 &&& imm.zeroExtend 72) (fun _ _ _ => rfl) (by rw [← zxImm_toNat]; rfl)
  case refine_17 => exact State.takes_aluIOf ht (fun x => x.rg s1 ||| imm.zeroExtend 72) (fun _ _ _ => rfl) (by rw [← zxImm_toNat]; rfl)
  case refine_18 => exact State.takes_aluIOf ht (fun x => x.rg s1 ^^^ imm.zeroExtend 72) (fun _ _ _ => rfl) (by rw [← zxImm_toNat]; rfl)
  case refine_19 => exact State.takes_aluIOf ht (fun x => (x.rg s1).rotateLeft (imm.toNat % 128 % 72)) (fun _ _ _ => rfl) rfl
  all_goals exact State.takes_aluOf ht _ (fun _ _ _ => rfl) rfl

end Sys2Proof.Machine
end

section
/-! The comparisons, the predicate ops and the part and lane ops (R328, R380, R381). -/

namespace Sys2Proof.Machine

open Sys2Proof

/-! ### Parts of a word (R380) -/

theorem Wid.bits_pos (w : Wid) : 0 < w.bits := by cases w <;> exact Nat.zero_lt_succ _

theorem Wid.extract_false (w : Wid) (a : Word) : w.extract false a = (a.extractLsb' w.low w.bits).zeroExtend 72 := by
  apply BitVec.eq_of_toNat_eq
  simp [Wid.extract, BitVec.extractLsb']

theorem Wid.extract_true (w : Wid) (a : Word) : w.extract true a = (a.extractLsb' w.low w.bits).signExtend 72 := by
  have h := sxNat_toNat w.bits_pos (a.extractLsb' w.low w.bits)
  rw [BitVec.extractLsb'_toNat] at h
  rw [Wid.extract, if_pos rfl, h]; rfl

theorem Wid.extract_false_bit (w : Wid) (a : Word) (j : Nat) (hj : j < 72) :
    (w.extract false a).getLsbD j = if j < w.bits then a.getLsbD (w.low + j) else false := by
  rw [Wid.extract_false, BitVec.zeroExtend, BitVec.getLsbD_setWidth, BitVec.getLsbD_extractLsb']
  simp [hj]

theorem Wid.extract_true_bit (w : Wid) (a : Word) (j : Nat) (hj : j < 72) :
    (w.extract true a).getLsbD j = if j < w.bits then a.getLsbD (w.low + j) else a.getLsbD (w.low + w.bits - 1) := by
  have hp := w.bits_pos
  rw [Wid.extract_true, BitVec.getLsbD_signExtend, BitVec.msb_eq_getLsbD_last, BitVec.getLsbD_extractLsb', BitVec.getLsbD_extractLsb']
  have hm : w.low + (w.bits - 1) = w.low + w.bits - 1 := by omega
  have hb : w.bits - 1 < w.bits := by omega
  split <;> rename_i hjb <;> simp [hj, hjb, hm, hb]

theorem Wid.insert_bit (w : Wid) (hw : w.low + w.bits ≤ 72) (x v : Word) (j : Nat) :
    (w.insert x v).getLsbD j = if w.low ≤ j ∧ j < w.low + w.bits then v.getLsbD (j - w.low) else x.getLsbD j := by
  have hp := w.bits_pos
  have hf : (⟨w.low + w.bits - 1, w.low⟩ : Span).fits := by unfold Span.fits; dsimp only; omega
  rw [Wid.insert, Span.put_bit _ hf]
  have he : (w.low ≤ j ∧ j ≤ w.low + w.bits - 1) ↔ (w.low ≤ j ∧ j < w.low + w.bits) := by omega
  simp only [he]
  rfl

/-! ### Lanes (R8, R380) -/

theorem lane_toNat (a : Word) (j : Nat) : (a.extractLsb' (64 - 8 * j) 8).toNat = lane a j := by
  rw [BitVec.extractLsb'_toNat]; rfl

theorem lane_lt (a : Word) (j : Nat) : lane a j < 256 := Nat.mod_lt _ (by decide)

/-- A word built lane by lane has those lanes. -/
theorem lane_lanes (f : Nat → Nat) (j : Nat) (hj : j < 9) : lane (lanes f) j = f j % 256 := by
  have h : (List.range 9) = [0, 1, 2, 3, 4, 5, 6, 7, 8] := rfl
  simp only [lane, lanes, h, List.foldl_cons, List.foldl_nil, BitVec.toNat_ofNat, Nat.shiftRight_eq_div_pow]
  have hl : ∀ k, f k % 256 < 256 := fun k => Nat.mod_lt _ (by decide)
  have h0 := hl 0; have h1 := hl 1; have h2 := hl 2; have h3 := hl 3; have h4 := hl 4
  have h5 := hl 5; have h6 := hl 6; have h7 := hl 7; have h8 := hl 8
  interval_cases j <;> omega

theorem lanes_eq {f : Nat → Nat} {j : Nat} {b : BitVec 8} (hj : j < 9) (hf : f j % 256 = b.toNat) :
    (lanes f).extractLsb' (64 - 8 * j) 8 = b := by
  apply BitVec.eq_of_toNat_eq
  rw [lane_toNat, lane_lanes f j hj, hf]

/-- The bits of a sum of powers of two. -/
theorem testBit_foldl_range (p : Nat → Bool) (n j : Nat) :
    ((List.range n).foldl (fun m k => m + b2n (p k) * 2 ^ k) 0 < 2 ^ n) ∧
    ((List.range n).foldl (fun m k => m + b2n (p k) * 2 ^ k) 0).testBit j = (decide (j < n) && p j) := by
  induction n with
  | zero => exact ⟨Nat.zero_lt_one, by simp⟩
  | succ n ih =>
    obtain ⟨hlt, hb⟩ := ih
    rw [List.range_succ, List.foldl_append, List.foldl_cons, List.foldl_nil]
    generalize (List.range n).foldl (fun m k => m + b2n (p k) * 2 ^ k) 0 = m at hlt hb
    cases hp : p n with
    | false =>
      have h2 : m + b2n false * 2 ^ n = m := by simp [b2n]
      rw [h2]
      refine ⟨by rw [Nat.pow_succ]; omega, ?_⟩
      rw [hb]
      by_cases hj : j = n
      · subst hj; simp [hp]
      · have : decide (j < n + 1) = decide (j < n) := by simp only [decide_eq_decide]; omega
        rw [this]
    | true =>
      have h2 : m + b2n true * 2 ^ n = 2 ^ n + m := by simp [b2n, Nat.add_comm]
      rw [h2]
      refine ⟨by rw [Nat.pow_succ]; omega, ?_⟩
      by_cases hj : j = n
      · subst hj
        rw [Nat.testBit_two_pow_add_eq, Nat.testBit_lt_two_pow hlt]; simp [hp]
      · by_cases hlj : j < n
        · rw [Nat.testBit_two_pow_add_gt hlj, hb]; simp [hlj, Nat.lt_succ_of_lt hlj]
        · have hle : 2 ^ n + m < 2 ^ j := by
            have : 2 ^ (n + 1) ≤ 2 ^ j := Nat.pow_le_pow_right (by decide) (by omega)
            rw [Nat.pow_succ] at this; omega
          rw [Nat.testBit_lt_two_pow hle]
          simp only [Bool.false_eq, Bool.and_eq_false_imp, decide_eq_true_eq]
          omega

theorem beqm_bit (a b : Word) (k j : Nat) (hj : j < 72) :
    (Part.beqm.eval k a b).getLsbD j = decide (j < 9 ∧ (a.extractLsb' (64 - 8 * j) 8 : BitVec 8) = b.extractLsb' (64 - 8 * j) 8) := by
  have he : ((a.extractLsb' (64 - 8 * j) 8 : BitVec 8) = b.extractLsb' (64 - 8 * j) 8) ↔ lane a j = lane b j := by
    rw [← BitVec.toNat_inj, lane_toNat, lane_toNat]
  show (BitVec.ofNat 72 ((List.range 9).foldl (fun m j => m + b2n (decide (lane a j = lane b j)) * 2 ^ j) 0)).getLsbD j = _
  rw [BitVec.getLsbD_ofNat, (testBit_foldl_range (fun j => decide (lane a j = lane b j)) 9 j).2]
  simp only [he, hj, decide_true, Bool.true_and, Bool.decide_and]

/-! ### MFF and MTF (R328) -/

theorem Cell.mff_bit (x : Cell) (k : Nat) : x.mff.getLsbD k = (decide (k < 8) && x.rf k) := by
  unfold Cell.mff Cell.rf
  rw [BitVec.getLsbD_ofNat]
  cases k with
  | zero => simp
  | succ k =>
    rw [Nat.testBit_succ, show (x.f / 2 % 128 * 2 + 1) / 2 = x.f / 2 % 2 ^ 7 by omega, Nat.testBit_mod_two_pow, ← Nat.testBit_succ]
    by_cases hk : k + 1 < 8
    · have h1 : k < 7 := by omega
      have h2 : k + 1 < 72 := by omega
      have h3 : (k + 1) % 8 = k + 1 := by omega
      simp [hk, h1, h2, h3]
    · have h1 : ¬ k < 7 := by omega
      simp [hk, h1]

theorem mtf_bit (a : Word) (k : Nat) : (a.toNat % 256 % 256 / 2 * 2).testBit k = (decide (1 ≤ k ∧ k < 8) && a.getLsbD k) := by
  cases k with
  | zero => simp
  | succ k =>
    rw [Nat.testBit_succ, show a.toNat % 256 % 256 / 2 * 2 / 2 = a.toNat / 2 % 2 ^ 7 by omega, Nat.testBit_mod_two_pow, ← Nat.testBit_succ, BitVec.getLsbD]
    have : decide (1 ≤ k + 1 ∧ k + 1 < 8) = decide (k < 7) := by simp only [decide_eq_decide]; omega
    rw [this]

/-! ### The ops -/

section
variable {s : State} {h : OpHdr} (ht : s.takes h)
include ht

theorem State.takes_cmp {f : Cmp} {d s1 s2 : Nat} {r : Prop} (hr : f.eval ((s.dev.cell h.cell.val).rg s1) ((s.dev.cell h.cell.val).rg s2) = true ↔ r) :
    ∃ v : Bool, (v = true ↔ r) ∧ Host.Outcome.next (φ := Fault) (ρ := Refusal) (s.rowOp h { k := .cmp f, slot := 0, d := d, s1 := s1, s2 := s2 }) =
      .next (s.issued h.cell.val 1 fun y => y.wf d v) := by
  obtain ⟨ha, he, hp⟩ := ht
  refine ⟨_, hr, congrArg _ ?_⟩
  rw [State.rowOp_cmp s h ha he hp]
  exact State.issued_congr _ _ _ _ _ rfl

theorem State.takes_cmpI {f : Cmp} {d s1 imm : Nat} {r : Prop} (hr : f.eval ((s.dev.cell h.cell.val).rg s1) (f.imm imm) = true ↔ r) :
    ∃ v : Bool, (v = true ↔ r) ∧ Host.Outcome.next (φ := Fault) (ρ := Refusal) (s.rowOp h { k := .cmpI f, slot := 0, d := d, s1 := s1, imm := imm }) =
      .next (s.issued h.cell.val 1 fun y => y.wf d v) := by
  obtain ⟨ha, he, hp⟩ := ht
  refine ⟨_, hr, congrArg _ ?_⟩
  rw [State.rowOp_cmpI s h ha he hp]
  exact State.issued_congr _ _ _ _ _ rfl

theorem State.takes_predf {f : PredFn} {d s1 s2 : Nat} {r : Prop} (hr : f.eval ((s.dev.cell h.cell.val).rf s1) ((s.dev.cell h.cell.val).rf s2) = true ↔ r) :
    ∃ v : Bool, (v = true ↔ r) ∧ Host.Outcome.next (φ := Fault) (ρ := Refusal) (s.rowOp h { k := .predf f, slot := 0, d := d, s1 := s1, s2 := s2 }) =
      .next (s.issued h.cell.val 1 fun y => y.wf d v) := by
  obtain ⟨ha, he, hp⟩ := ht
  refine ⟨_, hr, congrArg _ ?_⟩
  rw [State.rowOp_predf s h ha he hp]
  exact State.issued_congr _ _ _ _ _ rfl

theorem State.takes_part {f : Part} {d s1 s2 k : Nat} {p : Word → Prop} (hp : p (f.eval k ((s.dev.cell h.cell.val).rg s1) ((s.dev.cell h.cell.val).rg s2))) :
    ∃ v : Word, p v ∧ Host.Outcome.next (φ := Fault) (ρ := Refusal) (s.rowOp h { k := .part f, slot := 0, d := d, s1 := s1, s2 := s2, imm := k }) =
      .next (s.issued h.cell.val 1 fun y => y.wg d v) := by
  obtain ⟨ha, he, hpr⟩ := ht
  refine ⟨_, hp, congrArg _ ?_⟩
  rw [State.rowOp_part s h ha he hpr]
  exact State.issued_congr _ _ _ _ _ rfl

end

/-- Settles O36: each op is its function of the registers, bit by bit where it takes parts. -/
theorem predicateAndPartOpsWriteTheirResult : Obligations.PredicateAndPartOpsWriteTheirResult := by
  refine ⟨?_, ?_⟩
  · intro s h ht fd f1 f2 d s1 s2 imm x a b si zi goes
    have hsi : sxImm imm.toNat = si := sxImm_toNat imm
    have hzi : BitVec.ofNat 72 (imm.toNat % 2 ^ 14) = zi := zxImm_toNat imm
    refine ⟨State.takes_cmp ht decide_eq_true_iff, State.takes_cmp ht decide_eq_true_iff, State.takes_cmp ht decide_eq_true_iff,
      State.takes_cmp ht decide_eq_true_iff, State.takes_cmp ht decide_eq_true_iff, State.takes_cmp ht decide_eq_true_iff,
      State.takes_cmp ht decide_eq_true_iff, State.takes_cmpI ht ?_, State.takes_cmpI ht ?_, State.takes_cmpI ht ?_, State.takes_cmpI ht ?_,
      State.takes_cmpI ht ?_, State.takes_cmpI ht ?_, State.takes_predf ht (Bool.and_eq_true_iff), State.takes_predf ht Bool.or_eq_true_iff,
      State.takes_predf ht ?_, State.takes_predf ht ?_, State.takes_predf ht (s2 := 0) ?_, ?_, ?_⟩
    · exact hsi ▸ decide_eq_true_iff
    · exact hsi ▸ decide_eq_true_iff
    · exact hsi ▸ decide_eq_true_iff
    · exact hsi ▸ decide_eq_true_iff
    · exact hzi ▸ decide_eq_true_iff
    · exact hzi ▸ decide_eq_true_iff
    · exact bne_iff_ne
    · show (x.rf f1 && !x.rf f2) = true ↔ _
      simp
    · show (!x.rf f1) = true ↔ _
      simp
    · obtain ⟨ha, he, hp⟩ := ht
      refine ⟨_, Cell.mff_bit x, congrArg Host.Outcome.next ?_⟩
      rw [State.rowOp_mff s h ha he hp]
      exact State.issued_congr _ _ _ _ _ rfl
    · obtain ⟨ha, he, hp⟩ := ht
      refine ⟨_, mtf_bit a, congrArg Host.Outcome.next ?_⟩
      rw [State.rowOp_mtf s h ha he hp]
      exact State.issued_congr _ _ _ _ _ rfl
  · intro s h ht d s1 s2 k9 k4 k2 x a b goes ext exts ins lane
    have ext_of : ∀ (w : Wid) (f : Part) (k : Nat), f.eval k a b = w.extract false a → ext w.low w.bits (f.eval k a b) := fun w f k hf j hj => by
      rw [hf, Wid.extract_false_bit w a j hj]
    have exts_of : ∀ (w : Wid) (f : Part) (k : Nat), f.eval k a b = w.extract true a → exts w.low w.bits (f.eval k a b) := fun w f k hf j hj => by
      rw [hf, Wid.extract_true_bit w a j hj]
    have ins_of : ∀ (w : Wid) (f : Part) (k : Nat), w.low + w.bits ≤ 72 → f.eval k a b = w.insert b a → ins w.low w.bits (f.eval k a b) :=
      fun w f k hw hf j _ => by rw [hf, Wid.insert_bit w hw]
    have hlow9 : (Wid.octet k9.val).low + (Wid.octet k9.val).bits ≤ 72 := by show 64 - 8 * k9.val + 8 ≤ 72; omega
    have hlow4 : (Wid.quarter k4.val).low + (Wid.quarter k4.val).bits ≤ 72 := by show 54 - 18 * k4.val + 18 ≤ 72; omega
    have hlow2 : (Wid.half k2.val).low + (Wid.half k2.val).bits ≤ 72 := by show 36 - 36 * k2.val + 36 ≤ 72; omega
    refine ⟨State.takes_part ht (ext_of (.octet k9.val) .extb _ rfl), State.takes_part ht (exts_of (.octet k9.val) .extbs _ rfl),
      State.takes_part ht (ins_of (.octet k9.val) .insb _ hlow9 rfl), State.takes_part ht (ext_of (.quarter k4.val) .extq _ rfl),
      State.takes_part ht (exts_of (.quarter k4.val) .extqs _ rfl), State.takes_part ht (ins_of (.quarter k4.val) .insq _ hlow4 rfl),
      State.takes_part ht (ext_of (.half k2.val) .exth _ rfl), State.takes_part ht (exts_of (.half k2.val) .exths _ rfl),
      State.takes_part ht (ins_of (.half k2.val) .insh _ hlow2 rfl), State.takes_part ht (beqm_bit a b 0), State.takes_part ht fun j hj => ?_,
      State.takes_part ht fun j hj => ?_, State.takes_part ht fun j hj => ?_⟩
    · exact lanes_eq hj (by rw [lane_toNat]; exact Nat.mod_eq_of_lt (lane_lt _ _))
    · exact lanes_eq hj (by rw [BitVec.toNat_add, lane_toNat, lane_toNat])
    · refine lanes_eq hj ?_
      rw [BitVec.toNat_sub, lane_toNat, lane_toNat]
      have hb := lane_lt b j
      show (Machine.lane a j + 256 - Machine.lane b j) % 256 = _
      omega

end Sys2Proof.Machine
end

section
/-! The ops of the M slot but the long ops (R356, R382-R384). -/

namespace Sys2Proof.Machine

open Sys2Proof

theorem limm_high (w : BitVec 52) : BitVec.ofNat 72 (w.toNat % 2 ^ 52 * 2 ^ 20) = w ++ (0 : BitVec 20) := by
  have hw := w.isLt
  apply BitVec.eq_of_toNat_eq
  rw [BitVec.toNat_ofNat, BitVec.toNat_append, Nat.mod_eq_of_lt hw, Nat.shiftLeft_eq]
  rw [Nat.mod_eq_of_lt (by omega)]
  simp

/-- The constant of mode 3 keeps bits [19:0] of its destination (R356). -/
theorem limm_keep (w : BitVec 52) (old : Word) : BitVec.ofNat 72 (w.toNat % 2 ^ 52 * 2 ^ 20 + old.toNat % 2 ^ 20) = w ++ old.extractLsb' 0 20 := by
  have hw := w.isLt
  have ho : old.toNat % 2 ^ 20 < 2 ^ 20 := Nat.mod_lt _ (by decide)
  apply BitVec.eq_of_toNat_eq
  rw [BitVec.toNat_ofNat, BitVec.toNat_append, Nat.mod_eq_of_lt hw, BitVec.extractLsb'_toNat, Nat.shiftRight_zero, ← Nat.shiftLeft_add_eq_or_of_lt ho,
    Nat.shiftLeft_eq, Nat.mod_eq_of_lt (by omega)]

section
variable {s : State} {h : OpHdr} (ht : s.takes h)
include ht

/-- A multiply: its effect, of the operands as they stand, is due four bundles on (R382, R411). -/
theorem State.takes_mul {f : Mul} {d s1 s2 : Nat} {e : Eff} (he : f.eff d ((s.dev.cell h.cell.val).rg s1) ((s.dev.cell h.cell.val).rg s2) = e) :
    Host.Outcome.next (φ := Fault) (ρ := Refusal) (s.rowOp h { k := .mul f, slot := 1, d := d, s1 := s1, s2 := s2 }) =
      .next (s.issued h.cell.val 1 fun y => { y with due := [⟨(s.dev.cell h.cell.val).bun + 4, 1, e⟩] }) := by
  obtain ⟨ha, hen, hp⟩ := ht
  rw [State.rowOp_mul s h ha hen hp, ← he]
  exact congrArg Host.Outcome.next (State.issued_congr _ _ _ _ _ rfl)

/-- A move of a product register takes its effect in its bundle (R383, R384). -/
theorem State.takes_pmov {f : PMov} {d s1 n : Nat} (F : Cell → Cell)
    (hF : ∀ y : Cell, (y.rp s1 = (s.dev.cell h.cell.val).rp s1) → y.rg s1 = (s.dev.cell h.cell.val).rg s1 → y.p = (s.dev.cell h.cell.val).p →
      y.take (f.eff d n (y.rp s1) (y.rg s1)) = F y) :
    Host.Outcome.next (φ := Fault) (ρ := Refusal) (s.rowOp h { k := .pmov f, slot := 1, d := d, s1 := s1, imm := n }) =
      .next (s.issued h.cell.val 1 F) := by
  obtain ⟨ha, hen, hp⟩ := ht
  rw [State.rowOp_pmov s h ha hen hp]
  exact congrArg Host.Outcome.next (State.issued_congr _ _ _ _ _ (hF _ rfl rfl rfl))

theorem State.takes_limm {d mode v : Nat} {r : Word} (hr : limmVal mode v ((s.dev.cell h.cell.val).rg d) = r) :
    Host.Outcome.next (φ := Fault) (ρ := Refusal) (s.rowOp h { k := .limm, slot := 1, d := d, s1 := mode, imm := v }) =
      .next (s.issued h.cell.val 2 fun y => y.wg d r) := by
  obtain ⟨ha, hen, hp⟩ := ht
  rw [State.rowOp_limm s h ha hen hp, ← hr]
  exact congrArg Host.Outcome.next (State.issued_congr _ _ _ _ _ rfl)

end

/-- Settles O37: each op schedules or takes its effect on the registers as they stand. -/
theorem multiplyOpsAct : Obligations.MultiplyOpsAct := by
  intro s h ht d s1 s2 pd ps n m w x a b p sp up in4 reg lim
  have hpd : pd.val % 4 = pd.val := Nat.mod_eq_of_lt pd.isLt
  refine ⟨State.takes_mul ht ?_, State.takes_mul ht ?_, State.takes_mul ht ?_, State.takes_mul ht ?_, State.takes_mul ht ?_, State.takes_mul ht rfl,
    State.takes_pmov ht (fun y => y.wg d (p.extractLsb' 72 72)) fun y hp _ _ => ?_, State.takes_pmov ht (fun y => y.wg d (p.extractLsb' 0 72)) fun y hp _ _ => ?_,
    State.takes_pmov ht (fun y => y.wg d (BitVec.ofInt 72 (p.toInt / 2 ^ n.val))) fun y hp _ _ => ?_,
    State.takes_pmov ht (fun y => y.wg d (BitVec.ofInt 72 ((p.toInt + 2 ^ m.val) / 2 ^ (m.val + 1)))) fun y hp _ _ => ?_,
    State.takes_pmov ht (fun y => y.wp pd (a ++ (x.rp pd).extractLsb' 0 72)) fun y _ hg hp => ?_,
    State.takes_pmov ht (fun y => y.wp pd ((x.rp pd).extractLsb' 72 72 ++ a)) fun y _ hg hp => ?_,
    fun _ => State.takes_limm ht ?_, fun _ => State.takes_limm ht ?_, fun _ => State.takes_limm ht ?_, fun _ => State.takes_limm ht ?_⟩
  case refine_1 | refine_2 => show Eff.p (pd.val % 4) _ = _; rw [hpd]; rfl
  case refine_3 | refine_4 => show Eff.pAdd (pd.val % 4) _ = _; rw [hpd]; rfl
  case refine_5 => show Eff.pAdd (pd.val % 4) (0 - prodS a b) = _; rw [hpd]; exact congrArg _ (BitVec.zero_sub sp)
  case refine_6 | refine_7 | refine_8 | refine_9 => rw [hp]; rfl
  case refine_10 =>
    show y.wp (pd.val % 4) (y.rg s1 ++ (y.rp (pd.val % 4)).extractLsb' 0 72) = _
    rw [hpd, hg, Cell.rp, hp]; rfl
  case refine_11 =>
    show y.wp (pd.val % 4) ((y.rp (pd.val % 4)).extractLsb' 72 72 ++ y.rg s1) = _
    rw [hpd, hg, Cell.rp, hp]; rfl
  case refine_12 => exact congrArg ofInt (sxNat_toNat (by decide) w)
  case refine_13 => exact zxImm_toNat w
  case refine_14 => exact limm_high w
  case refine_15 => exact limm_keep w _

end Sys2Proof.Machine
end

section
/-! What an entry leaves in its cell (R438, R441, R443): ST, the vector, the saved pair and the registers. -/

namespace Sys2Proof.Machine

open Sys2Proof

theorem Cell.pl_eq (x : Cell) : x.pl = stPL.get x.st := by
  rw [Span.get, Nat.shiftRight_eq_div_pow]; rfl

theorem and_low36 (w : Word) : (w &&& 0xFFFFFFFFF).toNat = w.toNat % 2 ^ 36 :=
  Nat.and_two_pow_sub_one_eq_mod w.toNat 36

/-- The saved word is its cause, its four marks and the low bits of ST (R334). -/
theorem estatWord_toNat (e : Entry) (b : Bool) (st : Word) (hc : e.cause < 256) : (estatWord e b st).toNat =
    e.cause * 2 ^ 64 + b2n e.dslot * 2 ^ 63 + b2n e.resume * 2 ^ 62 + b2n e.imprecise * 2 ^ 61 + b2n b * 2 ^ 60 + st.toNat % 2 ^ 36 := by
  have h1 : b2n e.dslot ≤ 1 := by cases e.dslot <;> decide
  have h2 : b2n e.resume ≤ 1 := by cases e.resume <;> decide
  have h3 : b2n e.imprecise ≤ 1 := by cases e.imprecise <;> decide
  have h4 : b2n b ≤ 1 := by cases b <;> decide
  have hst : st.toNat % 2 ^ 36 < 2 ^ 60 := by omega
  rw [estatWord, BitVec.toNat_or, and_low36, BitVec.toNat_ofNat, Nat.mod_eq_of_lt (by omega)]
  rw [show e.cause * 2 ^ 64 + b2n e.dslot * 2 ^ 63 + b2n e.resume * 2 ^ 62 + b2n e.imprecise * 2 ^ 61 + b2n b * 2 ^ 60 =
    (e.cause * 2 ^ 4 + b2n e.dslot * 2 ^ 3 + b2n e.resume * 2 ^ 2 + b2n e.imprecise * 2 + b2n b) <<< 60 by rw [Nat.shiftLeft_eq]; omega]
  exact (Nat.shiftLeft_add_eq_or_of_lt hst _).symm

/-- ST after an entry: the level, IE and LEN at 0 (R441). -/
theorem stEntered_fields (e : Entry) (st : Word) (hl : e.lvl < 4) :
    stPL.get (stEntered e st) = e.lvl ∧ stIE.get (stEntered e st) = 0 ∧ stLEN.get (stEntered e st) = 0 := by
  have h1 : ∀ w : Word, stPL.get (stLEN.put (stIE.put (stPL.put w e.lvl) 0) 0) = e.lvl ∧ stIE.get (stLEN.put (stIE.put (stPL.put w e.lvl) 0) 0) = 0 ∧
      stLEN.get (stLEN.put (stIE.put (stPL.put w e.lvl) 0) 0) = 0 := fun w => by
    refine ⟨?_, ?_, Span.get_put_self _ _ _ (by decide)⟩
    · rw [Span.get_put_ne _ _ _ _ (by decide) (by decide), Span.get_put_ne _ _ _ _ (by decide) (by decide), Span.get_put_self _ _ _ (by decide)]
      exact Nat.mod_eq_of_lt hl
    · rw [Span.get_put_ne _ _ _ _ (by decide) (by decide), Span.get_put_self _ _ _ (by decide)]; rfl
  have hput : ∀ (f : Span) (w : Word) (v : Nat), f.fits → (∀ g ∈ [stPL, stIE, stLEN], g.hi < f.lo ∨ f.hi < g.lo) →
      stPL.get (f.put w v) = stPL.get w ∧ stIE.get (f.put w v) = stIE.get w ∧ stLEN.get (f.put w v) = stLEN.get w := fun f w v hf hg =>
    ⟨Span.get_put_ne _ _ _ _ hf (hg _ (by simp)), Span.get_put_ne _ _ _ _ hf (hg _ (by simp)), Span.get_put_ne _ _ _ _ hf (hg _ (by simp))⟩
  unfold stEntered
  extract_lets s1 s2
  have h2 : stPL.get s2 = e.lvl ∧ stIE.get s2 = 0 ∧ stLEN.get s2 = 0 := by
    unfold s2
    split
    · obtain ⟨a, b, c⟩ := hput stIPL s1 _ (by decide) (by decide)
      obtain ⟨a', b', c'⟩ := h1 st
      exact ⟨a.trans a', b.trans b', c.trans c'⟩
    · exact h1 st
  split
  · obtain ⟨a, b, c⟩ := hput stTE s2 0 (by decide) (by decide)
    obtain ⟨a', b', c'⟩ := h2
    exact ⟨a.trans a', b.trans b', c.trans c'⟩
  · exact h2

/-- What every entry keeps: the registers. -/
theorem Cell.enter_regs (x : Cell) (e : Entry) : (x.enter e).g = x.g ∧ (x.enter e).f = x.f ∧ (x.enter e).p = x.p := by
  unfold Cell.enter
  dsimp only
  split <;> exact ⟨rfl, rfl, rfl⟩

theorem Cell.enter_st (x : Cell) (e : Entry) : (x.enter e).st = stEntered e x.st := by
  unfold Cell.enter
  dsimp only
  split <;> rfl

theorem Cell.enter_pc (x : Cell) (e : Entry) : (x.enter e).pc = e.vector x.evb := by
  unfold Cell.enter
  dsimp only
  split <;> rfl

theorem Cell.enter_pl (x : Cell) (e : Entry) (hl : e.lvl < 4) : (x.enter e).pl = e.lvl := by
  rw [Cell.pl_eq, Cell.enter_st]; exact (stEntered_fields e x.st hl).1

/-- An entry at M saves to the M pair, any other to the S pair (R441). -/
theorem Cell.enter_saved (x : Cell) (e : Entry) (hs : x.shadow = []) :
    if e.lvl = 2 then (x.enter e).mepc = e.epc ∧ (x.enter e).epc = x.epc ∧ (x.enter e).mestat = estatWord e false x.st ∧ (x.enter e).estat = x.estat
    else (x.enter e).epc = e.epc ∧ (x.enter e).mepc = x.mepc ∧ (x.enter e).estat = estatWord e false x.st ∧ (x.enter e).mestat = x.mestat := by
  unfold Cell.enter
  dsimp only
  rw [hs]
  split <;> exact ⟨rfl, rfl, rfl, rfl⟩

theorem Cell.rg_congr {x y : Cell} (h : x.g = y.g) (k : Nat) : x.rg k = y.rg k := by rw [Cell.rg, h, Cell.rg]
theorem Cell.rp_congr {x y : Cell} (h : x.p = y.p) (k : Nat) : x.rp k = y.rp k := by rw [Cell.rp, h, Cell.rp]
theorem Cell.rf_congr {x y : Cell} (h : x.f = y.f) (k : Nat) : x.rf k = y.rf k := by rw [Cell.rf, h, Cell.rf]

theorem State.issued_mem (s : State) (c n : Nat) (f : Cell → Cell) : (s.issued c n f).mem = s.mem := by
  rw [State.issued, State.issuedOn, State.onDev_mem]
theorem State.issued_pending (s : State) (c n : Nat) (f : Cell → Cell) : (s.issued c n f).pending = s.pending := by
  rw [State.issued, State.issuedOn, State.onDev_pending]
theorem State.issued_cell_ne (s : State) {c k : Nat} (n : Nat) (f : Cell → Cell) (h : k ≠ c) : (s.issued c n f).dev.cell k = s.dev.cell k := by
  rw [State.issued, State.issuedOn, State.onDev_dev, Dev.wr_cell, id, Dev.putCell_cell_ne _ _ h]

end Sys2Proof.Machine
end

section
/-! The control ops (R358, R398-R401, R408): where a branch goes, and what LOOP, SYSC and BRK leave. -/

namespace Sys2Proof.Machine

open Sys2Proof

theorem addr36_sx {n : Nat} (hn : 0 < n) (g : Word) (off : BitVec n) : addr36 g (sxNat n off.toNat) = (((g.toNat : Int) + off.toInt) % 2 ^ 36).toNat := by
  rw [sxNat_toNat hn]
  show ((((g.toNat % 2 ^ 36 : Nat) : Int) + off.toInt) % 2 ^ 36).toNat = _
  congr 1
  push_cast
  exact Int.emod_add_emod ..

theorem addr36_pc {n : Nat} (hn : 0 < n) {pc : Nat} (hp : pc < 0x8000) (off : BitVec n) :
    addr36 (BitVec.ofNat 72 pc) (sxNat n off.toNat) = (((pc : Int) + off.toInt) % 2 ^ 36).toNat := by
  rw [addr36_sx hn, BitVec.toNat_ofNat, Nat.mod_eq_of_lt (by omega)]

/-- A CALL with room on the stack, a RET with an entry on it: no fault (R339, R340, R434). -/
theorem Cell.opFault_stack (x : Cell) (o : Op) (hi : x.idle = true) (hp : x.rf o.pred = true)
    (hk : (o.k = .call ∨ o.k = .callr) ∧ ¬(x.rsw = true ∧ x.rdepth = 16) ∨ o.k = .ret ∧ x.rdepth ≠ 0) : (x.holds o).opFault = none := by
  obtain ⟨h1, h2, h3, h4, h5, h6, h7, h8, h9, h10, h11, h12, h13, h14, h15, h16, h17, h18, h19, h20, h21, h22, h23, h24, h25⟩ := (Cell.idle_iff _).1 hi
  have hlive := Cell.live_holds x o h12 hp
  have hrsw : (x.holds o).rsw = x.rsw := rfl
  rcases hk with ⟨hk | hk, hf⟩ | ⟨hk, hf⟩
  all_goals
    have hib : (x.holds o).illegalBundle = false := by simp [Cell.illegalBundle, slotsRise, h11, h22, hk]
    simp [Cell.opFault, hib, hlive, Op.illegal, Op.denied, hk, hrsw]
  · exact fun hr => decide_eq_false fun hd => hf ⟨hr, hd⟩
  · exact fun hr => decide_eq_false fun hd => hf ⟨hr, hd⟩
  · exact hf

section
variable {s : State} {h : OpHdr} (ht : s.takes h)
include ht

theorem State.takes_pc : (s.dev.cell h.cell.val).pc + 8 < 0x8000 := by
  obtain ⟨h1, h2, h3, h4, h5, h6, h7, h8, h9, h10, h11, h12, h13, h14, h15, h16, h17, h18, h19, h20, h21, h22, h23, h24, h25⟩ :=
    (Cell.idle_iff _).1 ((State.ready_iff s _).1 ht.1).2.2.1
  exact h25

/-- A branch notes its target for the end of its delay bundle. -/
theorem State.takes_delay {o : Op} (hd : o.delays = true) {q : Delay} (hf : ((s.dev.cell h.cell.val).holds { o with pred := h.pred.val }).opFault = none)
    (hq : (⟨(s.dev.cell h.cell.val).pc, (s.dev.cell h.cell.val).target o (s.dev.cell h.cell.val).pc, (s.dev.cell h.cell.val).restores o, o.stackOp⟩ : Delay) = q) :
    Host.Outcome.next (φ := Fault) (ρ := Refusal) (s.rowOp h o) = .next (s.issued h.cell.val 1 fun y => { y with delay := some q }) := by
  obtain ⟨hr, he, hp⟩ := ht
  rw [State.rowOp_delays s h o hr he hp hd hf, hq]

/-- A branch or a RETX whose bundle is free of faults, whatever its operand. -/
theorem State.takes_calm {o : Op} (hc : o.calm = true) (hl : o.illegal = false) (hd : o.denied (s.dev.cell h.cell.val).pl ((s.dev.cell h.cell.val).rg o.s1) = false)
    (hist : o.k ≠ .ist) : ((s.dev.cell h.cell.val).holds { o with pred := h.pred.val }).opFault = none :=
  Cell.opFault_holds _ _ ((State.ready_iff s _).1 ht.1).2.2.1 hc hl hd (fun hk => absurd hk hist)

end

/-- The cell of a bundle of one op word, as the next bundle finds it. -/
theorem State.takes_issued_cell {s : State} {h : OpHdr} (ht : s.takes h) (f : Cell → Cell) : (s.issued h.cell.val 1 f).dev.cell h.cell.val =
    f { s.dev.cell h.cell.val with pc := (s.dev.cell h.cell.val).pc + 1, bun := (s.dev.cell h.cell.val).bun + 1 } := by
  rw [State.issued_cell, Cell.opAdd_idle _ ((State.ready_iff s _).1 ht.1).2.2.1]

/-- What an entry into the handler of `cause` leaves of the machine: the handler runs at `lvl`, and `epc` is saved. -/
def State.Enters (s t : State) (c lvl cause epc : Nat) : Prop :=
  let x := s.dev.cell c
  t.mem = s.mem ∧ t.pending = s.pending ∧ (∀ k ≠ c, t.dev.cell k = s.dev.cell k) ∧
    (t.dev.cell c).pl = lvl ∧ (t.dev.cell c).pc = (x.evb * 1024 + (if lvl = 2 then 0x100 else 0) + 4 * cause) % 2 ^ 36 ∧ stIE.get (t.dev.cell c).st = 0 ∧
    (if lvl = 2 then (t.dev.cell c).mepc = epc ∧ (t.dev.cell c).epc = x.epc ∧ (t.dev.cell c).mestat.toNat = cause * 2 ^ 64 + x.st.toNat % 2 ^ 36
     else (t.dev.cell c).epc = epc ∧ (t.dev.cell c).mepc = x.mepc ∧ (t.dev.cell c).estat.toNat = cause * 2 ^ 64 + x.st.toNat % 2 ^ 36) ∧
    (∀ k, (t.dev.cell c).rg k = x.rg k ∧ (t.dev.cell c).rp k = x.rp k ∧ (t.dev.cell c).rf k = x.rf k)

/-- A cell that enters a handler, from a state `y` that has the registers, the ST and the saved pairs of `x`. -/
theorem State.enters_of {s t : State} {c lvl cause epc : Nat} {y : Cell} (hm : t.mem = s.mem) (hp : t.pending = s.pending)
    (hc : ∀ k ≠ c, t.dev.cell k = s.dev.cell k) (ht : t.dev.cell c = y.enter { lvl := lvl, cause := cause, epc := epc })
    (hy : y.g = (s.dev.cell c).g ∧ y.f = (s.dev.cell c).f ∧ y.p = (s.dev.cell c).p ∧ y.st = (s.dev.cell c).st ∧ y.epc = (s.dev.cell c).epc ∧
      y.mepc = (s.dev.cell c).mepc ∧ y.evb = (s.dev.cell c).evb ∧ y.shadow = []) (hl : lvl < 4) (hca : cause < 256) : s.Enters t c lvl cause epc := by
  obtain ⟨hg, hf, hpr, hst, hepc, hmepc, hevb, hsh⟩ := hy
  obtain ⟨rg, rf, rp⟩ := Cell.enter_regs y { lvl := lvl, cause := cause, epc := epc }
  have hw : (estatWord { lvl := lvl, cause := cause, epc := epc } false y.st).toNat = cause * 2 ^ 64 + (s.dev.cell c).st.toNat % 2 ^ 36 := by
    rw [estatWord_toNat _ _ _ hca, hst]; simp [b2n]
  have hsave := Cell.enter_saved y { lvl := lvl, cause := cause, epc := epc } hsh
  unfold State.Enters
  rw [ht]
  refine ⟨hm, hp, hc, Cell.enter_pl _ _ hl, ?_, ?_, ?_, fun k => ⟨Cell.rg_congr (rg.trans hg) k, Cell.rp_congr (rp.trans hpr) k, Cell.rf_congr (rf.trans hf) k⟩⟩
  · rw [Cell.enter_pc, hevb]
    show ((s.dev.cell c).evb * 1024 + (if lvl = 2 then 0x100 + 4 * cause else 4 * cause)) % 2 ^ 36 = _
    by_cases h2 : lvl = 2
    · rw [if_pos h2, if_pos h2, Nat.add_assoc]
    · rw [if_neg h2, if_neg h2, Nat.add_zero]
  · rw [Cell.enter_st]; exact (stEntered_fields _ _ hl).2.1
  · by_cases h2 : lvl = 2
    · rw [if_pos h2] at hsave ⊢
      obtain ⟨a, b, c, -⟩ := hsave
      exact ⟨a, b.trans hepc, (congrArg BitVec.toNat c).trans hw⟩
    · rw [if_neg h2] at hsave ⊢
      obtain ⟨a, b, c, -⟩ := hsave
      exact ⟨a, b.trans hmepc, (congrArg BitVec.toNat c).trans hw⟩

/-- Settles O39: each control op by what it notes, sets or enters. -/
theorem controlOpsDirectTheCell : Obligations.ControlOpsDirectTheCell := by
  intro s h ht s1 gc off o17 m lv c x rel goes enters
  have hpc := State.takes_pc ht
  have hid := ((State.ready_iff s _).1 ht.1).2.2.1
  obtain ⟨hr, he, hp⟩ := ht
  have ht : s.takes h := ⟨hr, he, hp⟩
  have hsh : x.shadow = [] := by
    obtain ⟨h1, h2, h3, h4, h5, h6, h7, h8, h9, h10, h11, h12, h13, h14, h15, h16, h17, h18, h19, h20, h21, h22, h23, h24, h25⟩ := (Cell.idle_iff _).1 hid
    exact h10
  have hrel : addr36 (BitVec.ofNat 72 x.pc) (sxNat 24 off.toNat) = rel off.toInt := addr36_pc (by decide) (Nat.lt_of_le_of_lt (Nat.le_add_right _ 8) hpc) off
  refine ⟨?_, ?_, fun hs => ⟨?_, ?_⟩, fun hd => ?_, fun hl => ?_, fun hl => ?_, fun hlv => ?_, fun hm => ?_, fun hm hl => ?_, fun hb => ?_⟩
  · exact State.takes_delay ht rfl (State.takes_calm ht rfl rfl rfl (by simp)) (congrArg (fun a => (⟨x.pc, some a, none, none⟩ : Delay)) hrel)
  · exact State.takes_delay ht rfl (State.takes_calm ht rfl rfl rfl (by simp)) rfl
  · exact State.takes_delay ht rfl (Cell.opFault_stack _ _ hid hp (.inl ⟨.inl rfl, hs⟩)) (congrArg (fun a => (⟨x.pc, some a, none, some true⟩ : Delay)) hrel)
  · exact State.takes_delay ht rfl (Cell.opFault_stack _ _ hid hp (.inl ⟨.inr rfl, hs⟩)) rfl
  · exact State.takes_delay ht rfl (Cell.opFault_stack _ _ hid hp (.inr ⟨rfl, hd⟩)) rfl
  · have hx : (s.dev.cell h.cell.val).pl = 1 := hl
    refine State.takes_delay ht rfl (State.takes_calm ht rfl rfl (by simp [Op.denied, hx]) (by simp)) ?_
    simp [Cell.target, Cell.restores, Op.stackOp, hx, x, c]
  · have hx : (s.dev.cell h.cell.val).pl = 2 := hl
    refine State.takes_delay ht rfl (State.takes_calm ht rfl rfl (by simp [Op.denied, hx]) (by simp)) ?_
    simp [Cell.target, Cell.restores, Op.stackOp, hx, x, c]
  · refine congrArg Host.Outcome.next ((State.rowOp_loop s h hr he hp gc lv o17.toNat (by omega)).trans (State.issued_congr _ _ _ _ _ ?_))
    rfl
  · refine ⟨_, congrArg Host.Outcome.next (State.rowOp_sysc s h hr he hp (b2n m) (by rw [hm]; exact fun h0 => absurd h0 (by decide))), ?_⟩
    rw [hm]
    exact State.enters_of (y := { x with pc := x.pc + 1, bun := x.bun + 1 }) (State.issued_mem ..) (State.issued_pending ..) (fun k hk => State.issued_cell_ne s _ _ hk) (State.takes_issued_cell ht _) ⟨rfl, rfl, rfl, rfl, rfl, rfl, rfl, hsh⟩ (by decide) (by decide)
  · refine ⟨_, congrArg Host.Outcome.next (State.rowOp_sysc s h hr he hp (b2n m) (fun _ => hl)), ?_⟩
    rw [hm]
    exact State.enters_of (y := { x with pc := x.pc + 1, bun := x.bun + 1 }) (State.issued_mem ..) (State.issued_pending ..) (fun k hk => State.issued_cell_ne s _ _ hk) (State.takes_issued_cell ht _) ⟨rfl, rfl, rfl, rfl, rfl, rfl, rfl, hsh⟩ (by decide) (by decide)
  · refine ⟨_, congrArg Host.Outcome.next (State.rowOp_brk s h hr he hp hb), ?_⟩
    have hd : x.delay = none := by
      obtain ⟨h1, h2, h3, h4, h5, h6, h7, h8, h9, h10, h11, h12, h13, h14, h15, h16, h17, h18, h19, h20, h21, h22, h23, h24, h25⟩ := (Cell.idle_iff _).1 hid
      exact h11
    have hr : x.resume = false := by
      obtain ⟨h1, h2, h3, h4, h5, h6, h7, h8, h9, h10, h11, h12, h13, h14, h15, h16, h17, h18, h19, h20, h21, h22, h23, h24, h25⟩ := (Cell.idle_iff _).1 hid
      exact h12
    have hx : x.fault cBRK = x.enter { lvl := if x.pl = 2 then 2 else 1, cause := cBRK, epc := x.pc } := by
      unfold Cell.fault
      rw [hd, hr]
      rfl
    refine State.enters_of (y := x) rfl rfl (fun k hk => Dev.putCell_cell_ne _ _ hk) ((Dev.putCell_cell ..).trans hx) ⟨rfl, rfl, rfl, rfl, rfl, rfl, rfl, hsh⟩ ?_ (by decide)
    split <;> decide

end Sys2Proof.Machine
end

section
/-! The system ops (R403): what an IN is answered with, and why it is not always what its register showed before it. -/

namespace Sys2Proof.Machine

open Sys2Proof

/-- An IN that its block answers at once with `v`, and that leaves the cells alone, is its cell's one load, which knows that value. -/
theorem State.rowOp_in (s : State) (h : OpHdr) (hs : s.takes h) (d r imm : Nat) (v : Half) (bad : Bool) (e : Dev)
    (he : (s.dev.putCell h.cell.val ((s.dev.cell h.cell.val).holds { k := .ioIn, slot := 3, d := d, s1 := r, imm := imm, pred := h.pred.val })).ioRead
      (.cell (Fin.ofNat 64 h.cell.val)) (addr24 ((s.dev.cell h.cell.val).rg r) imm) = (v, bad, e))
    (hc : e.cells = Tab.set {} s.dev.cells h.cell.val
      ((s.dev.cell h.cell.val).holds { k := .ioIn, slot := 3, d := d, s1 := r, imm := imm, pred := h.pred.val }))
    (hrun : e.run = s.dev.run) (hboot : e.boot = s.dev.boot) :
    ∃ l, ((s.rowOp h { k := .ioIn, slot := 3, d := d, s1 := r, imm := imm }).dev.cell h.cell.val).loads = [l] ∧ l.known = some (ofHalf v) := by
  obtain ⟨hr, hend, hpr⟩ := hs
  have hid := ((State.ready_iff s _).1 hr).2.2.1
  have hun := Cell.idle_unended (s.dev.cell h.cell.val) { k := .ioIn, slot := 3, d := d, s1 := r, imm := imm, pred := h.pred.val } hid
  obtain ⟨h1, h2, h3, h4, h5, h6, h7, h8, h9, h10, h11, h12, h13, h14, h15, h16, h17, h18, h19, h20, h21, h22, h23, h24, h25⟩ :=
    (Cell.idle_iff _).1 hid
  generalize hx : (s.dev.cell h.cell.val).holds { k := .ioIn, slot := 3, d := d, s1 := r, imm := imm, pred := h.pred.val } = x at he hc hun
  have hloads : x.loads = [] := by rw [← hx]; exact h5
  have hstores : x.stores = [] := by rw [← hx]; exact h6
  have hcell : e.cell h.cell.val = x := by rw [Dev.cell, hc]; exact Tab.get_set_self ..
  obtain ⟨l, hl, hadd⟩ : ∃ l : LoadE, l.known = some (ofHalf v) ∧ (s.dev.putCell h.cell.val x).issueIn h.cell.val
      (addr24 ((s.dev.cell h.cell.val).rg r) imm) d = e.addLoad h.cell.val l := by
    refine ⟨{ addr := addr24 ((s.dev.cell h.cell.val).rg r) imm, io := true, wid := .word, sgn := false, d := d,
              due := x.bun + (s.dev.putCell h.cell.val x).inLatency h.cell.val, bun := x.bun, depth := x.depth, seq := x.seq,
              known := some (ofHalf v), bad := bad, sent := true }, rfl, ?_⟩
    have hso : x.strongOut = false := by simp [Cell.strongOut, hloads, hstores]
    unfold Dev.issueIn
    dsimp only
    rw [Dev.putCell_cell, hso, if_neg (by decide), he]
  have hrow := State.rowOp_plain s h { k := .ioIn, slot := 3, d := d, s1 := r, imm := imm } { x with loads := x.loads ++ [l], seq := x.seq + 1 } e s.mem 0
    hr hend rfl (Nat.le_of_ble_eq_true rfl) hpr (Cell.opFault_holds _ _ hid rfl rfl rfl (fun hk => nomatch hk))
    (Dev.dataAll_none _ _ _ _ rfl)
    (by
      rw [hx]
      simp [Dev.opHolds, Dev.putCell_cell, Cell.strongOut, hloads, hstores])
    (by
      rw [hx]
      have hi : (s.onDev (s.dev.putCell h.cell.val x)).issueOp h.cell.val x { k := .ioIn, slot := 3, d := d, s1 := r, imm := imm, pred := h.pred.val }
          (s.dev.cell h.cell.val).pc 0 = s.onDev ((s.dev.putCell h.cell.val x).issueIn h.cell.val (addr24 (x.rg r) imm) d) := rfl
      have hg : x.rg r = (s.dev.cell h.cell.val).rg r := by rw [← hx]; rfl
      rw [hi, hg, hadd, Dev.addLoad, hcell]
      rfl)
    (by rw [hrun, hboot]) ⟨by rw [← hx]; exact h21, by rw [← hx]; exact h22⟩ (by rw [← hx]; exact h11) hun
  refine ⟨l, ?_, hl⟩
  rw [hrow, Cell.ends_plain]
  · exact (congrArg Cell.loads ((Dev.wr_cell _ _ _ _).trans (Dev.putCell_cell ..))).trans (congrArg (· ++ [l]) hloads)
  · rw [← hx]; exact h4
  · rw [← hx]; exact h10

/-- A field of the low half is that of the word. -/
theorem get_low_half (f : Span) (w : Word) (hf : f.hi < 36) : f.get (ofHalf (loHalf w)) = f.get w := by
  refine Span.get_congr _ _ _ fun j h1 h2 => ?_
  rw [ofHalf_bit, loHalf, BitVec.getLsbD_extractLsb']
  simp [show j < 36 by omega]

/-- A machine whose field rail shows a load of `k`: cell 0 runs, and may read the block of the field ports. -/
def railShows (k : Nat) : State :=
  let d : Dev := { run := true, cells := [(0, { g := [(1, 0x046000)] })] }
  { dev := ((((d.fp (fuMode 0) (roleSpan 0) 0).wr (slAttr 86 0) (fields [(1, 35), (24, 29)])).wr (slBase 86 0) 0).wr (slPerm 86 0)
      (fields [(0x1FF, 27), (1, 11), (1, 10)])).fp fpRail FpRail.LOAD k }

def railHdr : OpHdr := { cell := 0, pred := 0, stop := true, cal := .agree }

theorem railShows_cell (k : Nat) : (railShows k).dev.cell 0 = { g := [(1, 0x046000)] } := by
  simp only [railShows, Dev.fp, Dev.wr_cell]
  rfl

theorem railShows_ready (k : Nat) (hk : k < 2) : (railShows k).ready 0 = true ∧ (railShows k).readable (.cell 0) 0x046000 fpRail = true := by
  interval_cases k <;> decide

/-- The machine's IN of the load of the field rail is answered with a fresh value of it. -/
theorem railShows_reads (k : Nat) (hk : k < 2) (x : Cell) 
    (hp : x.pl = ((railShows k).dev.cell 0).pl ∧ x.pgrp = ((railShows k).dev.cell 0).pgrp ∧ x.part = ((railShows k).dev.cell 0).part) :
    ∃ e, ((railShows k).dev.putCell 0 x).ioRead (.cell (Fin.ofNat 64 0)) 0x046000 =
      (loHalf (FpRail.LOAD.put ((railShows k).dev.rd fpRail) ((Config.freeWord 0).toNat % 4096)), false, e) ∧
      e.cells = Tab.set {} (railShows k).dev.cells 0 x ∧ e.run = (railShows k).dev.run ∧ e.boot = (railShows k).dev.boot := by
  obtain ⟨d, hd⟩ : ∃ d, d = (railShows k).dev := ⟨_, rfl⟩
  rw [← hd] at hp ⊢
  have hlead : d.lead 0 = 0 := by rw [hd]; interval_cases k <;> decide
  have hfresh : d.fresh = 0 := by rw [hd]; rfl
  have hread := (railShows_ready k hk).2
  rw [State.readable, ← hd] at hread
  simp only [Bool.and_eq_true, decide_eq_true_eq] at hread
  obtain ⟨⟨-, hask⟩, hreg⟩ := hread
  have hreq : (d.putCell 0 x).ioReq (.cell (Fin.ofNat 64 0)) .read 0x046000 = d.ioReq (.cell 0) .read 0x046000 := by
    show (d.putCell 0 x).cellReq (d.lead 0) .read 0x046000 1 = d.cellReq (d.lead 0) .read 0x046000 1
    rw [hlead, Dev.cellReq, Dev.putCell_cell, Dev.cellReq, hp.1, hp.2.1, hp.2.2]
  rw [Dev.ioRead_of (d.putCell 0 x) _ _ fpRail (by rw [hreq, Dev.askIo_putCell]; exact hask) hreg]
  refine ⟨((d.putCell 0 x).ioSample fpRail).ioTake fpRail fpRail, ?_, rfl, rfl, rfl⟩
  have hs : (d.putCell 0 x).ioSample fpRail = ((d.putCell 0 x).fp fpRail FpRail.LOAD ((Config.freeWord 0).toNat % 4096)).next := by
    rw [← hfresh]; rfl
  have hv : ((((d.putCell 0 x).fp fpRail FpRail.LOAD ((Config.freeWord 0).toNat % 4096)).next).ioShown fpRail fpRail) =
      FpRail.LOAD.put (d.rd fpRail) ((Config.freeWord 0).toNat % 4096) := Dev.rd_wr_self ..
  rw [hs, Dev.readOf, if_neg (by decide), ← hv]
  rfl

/-- Refutes O40: the load of the field rail is measured as an IN reads it (R168), and its answer is not the value that the register showed before. -/
theorem not_systemOpsActAndWfeWakes : ¬ Obligations.SystemOpsActAndWfeWakes := by
  intro hall
  have key : ∀ k, k < 2 → (Config.freeWord 0).toNat % 4096 = k := fun k hk => by
    obtain ⟨hready, hread⟩ := railShows_ready k hk
    have hs : (railShows k).takes railHdr := ⟨hready, ⟨rfl, rfl⟩, rfl⟩
    have hclause := hall.1 (railShows k) railHdr hs 2 1 0 0 0 0 0 false false
    obtain ⟨-, -, -, -, -, -, -, -, -, -, -, -, -, hin, -⟩ := hclause
    obtain ⟨t, l, hexec, -, -, hloads, -, -, -, -, -, hknown⟩ := hin
    obtain ⟨e, he, hcells, hrun, hboot⟩ := railShows_reads k hk
      (((railShows k).dev.cell 0).holds { k := .ioIn, slot := 3, d := 2, s1 := 1, imm := 0, pred := 0 }) ⟨rfl, rfl, rfl⟩
    have haddr' : ((((((railShows k).dev.cell 0).rg 1).toNat : Int) + (0 : BitVec 14).toInt) % 2 ^ 24).toNat = 0x046000 := by
      rw [railShows_cell]; decide
    have haddr : addr24 (((railShows k).dev.cell 0).rg 1) 0 = 0x046000 := by rw [railShows_cell]; decide
    obtain ⟨l', hl', hv⟩ := State.rowOp_in (railShows k) railHdr hs 2 1 0 _ _ e (by rw [← he, ← haddr]; rfl) hcells hrun hboot
    have ht : (railShows k).rowOp railHdr { k := .ioIn, slot := 3, d := 2, s1 := 1, imm := 0 } = t := Host.Outcome.next.inj hexec
    rw [ht] at hl'
    have hll : l' = l := by
      have := hl'.symm.trans hloads
      simpa using this
    obtain ⟨hkn, -⟩ := hknown fpRail ((congrArg (fun a => (railShows k).readable (.cell 0) a fpRail) haddr').trans hread) rfl
    rw [← hll, hv] at hkn
    have hload := congrArg FpRail.LOAD.get (Option.some.inj hkn)
    rw [get_low_half _ _ (by decide), get_low_half _ _ (by decide), Span.get_put_self _ _ _ (by decide)] at hload
    have hshown : FpRail.LOAD.get ((railShows k).dev.ioShown fpRail ((railShows k).dev.ioKey (.cell 0) fpRail)) = k % 2 ^ 12 :=
      Dev.fg_fp_self _ _ _ _ (by decide)
    have h12 : (Config.freeWord 0).toNat % 4096 % 2 ^ 12 = k % 2 ^ 12 := hload.trans hshown
    omega
  have h0 := key 0 (by decide)
  have h1 := key 1 (by decide)
  omega

end Sys2Proof.Machine
end

section
/-! The special registers: MFS and MTS at the level that they need, and what each register keeps of a written value (R330-R337, R402, R471, R472). -/

namespace Sys2Proof.Machine

open Sys2Proof

/-- An op below the level that it needs: the privilege exception, at its bundle. -/
theorem State.rowOp_denied {s : State} {h : OpHdr} (ht : s.takes h) (o : Op) (hw : ({ o with pred := h.pred.val } : Op).words ≤ 8)
    (hb : ((s.dev.cell h.cell.val).holds { o with pred := h.pred.val }).illegalBundle = false) (hl : ({ o with pred := h.pred.val } : Op).illegal = false)
    (hd : ({ o with pred := h.pred.val } : Op).denied (s.dev.cell h.cell.val).pl ((s.dev.cell h.cell.val).rg o.s1) = true) :
    s.rowOp h o = s.onDev (s.dev.putCell h.cell.val ((s.dev.cell h.cell.val).fault cPRIV)) := by
  obtain ⟨hr, he, hp⟩ := ht
  have hid := ((State.ready_iff s _).1 hr).2.2.1
  obtain ⟨h1, h2, h3, h4, h5, h6, h7, h8, h9, h10, h11, h12, h13, h14, h15, h16, h17, h18, h19, h20, h21, h22, h23, h24, h25⟩ := (Cell.idle_iff _).1 hid
  have hf : ((s.dev.cell h.cell.val).holds { o with pred := h.pred.val }).opFault = some (cPRIV, 0) := by
    unfold Cell.opFault
    simp only [Cell.live_holds _ { o with pred := h.pred.val } h12 hp]
    rw [hb, if_neg (by decide), if_neg (by simp [hl]), if_pos]
    exact (Bool.or_false _).trans hd
  rw [State.rowOp_faults s h o cPRIV 0 hr he hw hf (fun h => absurd h (by decide))]
  unfold Dev.faultAt
  rw [Dev.putCell_cell]
  have hv : ((s.dev.cell h.cell.val).holds { o with pred := h.pred.val }).vec = none := h16
  dsimp only
  rw [if_neg (by decide), hv]
  dsimp only
  rw [Dev.putCell_putCell]
  congr 2

/-- A fault of a ready cell: its handler's level, the saved pair, and the registers as they were. -/
theorem Cell.fault_idle {x : Cell} (hid : x.idle = true) (cause : Nat) (hc : cause < 256) : (x.fault cause).g = x.g ∧ (x.fault cause).pl = (if x.pl = 2 then 2 else 1) ∧
    if x.pl = 2 then (x.fault cause).mepc = x.pc ∧ (x.fault cause).epc = x.epc ∧ (x.fault cause).mestat.toNat / 2 ^ 64 = cause
    else (x.fault cause).epc = x.pc ∧ (x.fault cause).mepc = x.mepc ∧ (x.fault cause).estat.toNat / 2 ^ 64 = cause := by
  obtain ⟨h1, h2, h3, h4, h5, h6, h7, h8, h9, h10, h11, h12, h13, h14, h15, h16, h17, h18, h19, h20, h21, h22, h23, h24, h25⟩ := (Cell.idle_iff _).1 hid
  have hx : x.fault cause = x.enter { lvl := if x.pl = 2 then 2 else 1, cause := cause, epc := x.pc } := by
    unfold Cell.fault
    rw [h11, h12]
    rfl
  have hw : ∀ e : Entry, e.cause = cause → e.dslot = false → e.resume = false → e.imprecise = false → (estatWord e false x.st).toNat / 2 ^ 64 = cause := by
    intro e e1 e2 e3 e4
    rw [estatWord_toNat e false x.st (by omega), e1, e2, e3, e4]
    simp only [b2n, Bool.false_eq_true, if_false]
    omega
  have hsave := Cell.enter_saved x { lvl := if x.pl = 2 then 2 else 1, cause := cause, epc := x.pc } h10
  rw [hx]
  refine ⟨(Cell.enter_regs ..).1, Cell.enter_pl _ _ (by dsimp only; split <;> decide), ?_⟩
  by_cases h2 : x.pl = 2
  · simp only [h2, if_true] at hsave ⊢
    obtain ⟨a, b, c, -⟩ := hsave
    exact ⟨a, b, (congrArg (·.toNat / 2 ^ 64) c).trans (hw _ rfl rfl rfl rfl)⟩
  · simp only [h2, if_false, show (1 : Nat) ≠ 2 by decide] at hsave ⊢
    obtain ⟨a, b, c, -⟩ := hsave
    exact ⟨a, b, (congrArg (·.toNat / 2 ^ 64) c).trans (hw _ rfl rfl rfl rfl)⟩

/-! ### What a register keeps of a written value -/

theorem and_span (n hi lo : Nat) : n &&& ((2 ^ (hi - lo) - 1) <<< lo) = n % 2 ^ hi / 2 ^ lo * 2 ^ lo := by
  apply Nat.eq_of_testBit_eq
  intro i
  rw [Nat.testBit_and, Nat.testBit_shiftLeft, Nat.testBit_two_pow_sub_one, Nat.testBit_mul_two_pow, Nat.testBit_div_two_pow, Nat.testBit_mod_two_pow]
  by_cases hi' : lo ≤ i
  · have h1 : i - lo + lo = i := by omega
    have h2 : (i - lo < hi - lo) ↔ i < hi := by omega
    simp [hi', h1, h2, Bool.and_comm]
  · simp [hi']

/-- A register that keeps bits `lo` to `hi - 1` of a word. -/
theorem keeps_span (v m : Word) (hi lo : Nat) (hm : m.toNat = (2 ^ (hi - lo) - 1) <<< lo) :
    BitVec.ofNat 72 (v.toNat % 2 ^ hi / 2 ^ lo * 2 ^ lo) = v &&& m := by
  apply BitVec.eq_of_toNat_eq
  rw [BitVec.toNat_and, hm, ← and_span, BitVec.toNat_ofNat]
  exact Nat.mod_eq_of_lt (Nat.lt_of_le_of_lt Nat.and_le_left v.isLt)

theorem keeps_36 (v : Word) : BitVec.ofNat 72 (v.toNat % 2 ^ 36 % 2 ^ 36) = v &&& 0xFFFFFFFFF := by
  rw [Nat.mod_mod, ← keeps_span v 0xFFFFFFFFF 36 0 (by decide), Nat.pow_zero, Nat.div_one, Nat.mul_one]

theorem bit_toNat (v : Word) (k : Nat) : b2n (v.getLsbD k) = v.toNat / 2 ^ k % 2 := by
  rw [BitVec.getLsbD, Nat.testBit_eq_decide_div_mod_eq]
  rcases Nat.mod_two_eq_zero_or_one (v.toNat / 2 ^ k) with h | h <;> rw [h] <;> rfl

theorem keeps_bit (v m : Word) (k : Nat) (hm : m.toNat = 1 <<< k) : fields [(b2n (v.getLsbD k), k)] = v &&& m := by
  rw [← keeps_span v m (k + 1) k (by rw [hm]; simp), bit_toNat]
  simp only [fields, List.foldl_cons, List.foldl_nil, Nat.zero_add]
  rw [Nat.pow_succ, Nat.mod_mul_right_div_self]

theorem keeps_hilat (v : Word) : fields [(b2n (decide (hlV.get v ≠ 0)), 71), (hlADDR.get v, 36), ((loHalf v).toNat, 0)] = v &&& 0x800FFFFFFFFFFFFFFF := by
  have hv : hlV.get v = v.toNat / 2 ^ 71 % 2 := by rw [Span.get, Nat.shiftRight_eq_div_pow]; rfl
  have ha : hlADDR.get v = v.toNat / 2 ^ 36 % 2 ^ 24 := by rw [Span.get, Nat.shiftRight_eq_div_pow]; rfl
  have hl : (loHalf v).toNat = v.toNat % 2 ^ 36 := by rw [loHalf, BitVec.extractLsb'_toNat, Nat.shiftRight_zero]
  have hb : b2n (decide (hlV.get v ≠ 0)) = v.toNat / 2 ^ 71 % 2 := by
    rw [hv]
    rcases Nat.mod_two_eq_zero_or_one (v.toNat / 2 ^ 71) with h | h <;> rw [h] <;> rfl
  have hm : (0x800FFFFFFFFFFFFFFF : Word) = 0x800000000000000000 ||| 0xFFFFFFFFFFFFFFF := by decide
  have h1 := keeps_span v 0x800000000000000000 72 71 (by decide)
  have h2 := keeps_span v 0xFFFFFFFFFFFFFFF 60 0 (by decide)
  have hlt := v.isLt
  apply BitVec.eq_of_toNat_eq
  rw [hm, BitVec.and_or_distrib_left, ← h1, ← h2, hb, ha, hl, BitVec.toNat_or, BitVec.toNat_ofNat, BitVec.toNat_ofNat]
  have e1 : (v.toNat % 2 ^ 72 / 2 ^ 71 * 2 ^ 71) % 2 ^ 72 = (v.toNat / 2 ^ 71 * 2 ^ 11) <<< 60 := by
    rw [Nat.shiftLeft_eq]; omega
  rw [e1, ← Nat.shiftLeft_add_eq_or_of_lt (by omega), Nat.shiftLeft_eq]
  simp only [fields, List.foldl_cons, List.foldl_nil, BitVec.toNat_ofNat]
  omega

/-- A register that no MTS writes reads as before. -/
theorem Dev.sprRead_putSame (d : Dev) (c n : Nat) : (d.putCell c (d.cell c)).sprRead c n = d.sprRead c n := by
  unfold Dev.sprRead Dev.txstat
  simp only [Dev.putCell_cell]
  rfl

theorem Cell.loop_putLoop (x : Cell) (k : Nat) (l : Loop) : (x.putLoop k l).loop k = l := Tab.get_set_self ..

/-- A register of addresses keeps the low 36 bits. -/
theorem Dev.sprRead_put36 (d : Dev) (c : Nat) (v : Word) (n : Nat)
    (hn : n ∈ [1, 3, 54, 55, 56] ∨ (16 ≤ n ∧ n ≤ 18) ∨ (20 ≤ n ∧ n ≤ 22) ∨ (24 ≤ n ∧ n ≤ 26) ∨ (32 ≤ n ∧ n ≤ 47)) :
    (d.putCell c ((d.cell c).sprPut n v)).sprRead c n = v &&& 0xFFFFFFFFF := by
  refine Eq.trans ?_ (keeps_36 v)
  rcases hn with hn | ⟨ha, hb⟩ | ⟨ha, hb⟩ | ⟨ha, hb⟩ | ⟨ha, hb⟩
  · simp only [List.mem_cons, List.not_mem_nil, or_false] at hn
    rcases hn with rfl | rfl | rfl | rfl | rfl <;> simp only [Dev.sprRead, Dev.putCell_cell, Cell.sprPut]
  · interval_cases n <;> simp [Dev.sprRead, Cell.sprPut, Cell.loop_putLoop]
  · interval_cases n <;> simp [Dev.sprRead, Cell.sprPut, Cell.loop_putLoop]
  · interval_cases n <;> simp [Dev.sprRead, Cell.sprPut, Cell.loop_putLoop]
  · interval_cases n <;> simp [Dev.sprRead, Cell.sprPut]

/-- A register in units of 2 ^ `lo` words keeps the bits from `lo` up. -/
theorem keeps_units (v m : Word) (lo : Nat) (hm : m.toNat = (2 ^ (36 - lo) - 1) <<< lo) : BitVec.ofNat 72 (v.toNat % 2 ^ 36 / 2 ^ lo * 2 ^ lo) = v &&& m :=
  keeps_span v m 36 lo hm

/-- Settles O41: MFS and MTS by the level of their register, and each register by the bits that it keeps. -/
theorem specialRegistersMove : Obligations.SpecialRegistersMove := by
  refine ⟨?_, ?_⟩
  · intro s h ht d s1 n c x faults
    obtain ⟨hr, he, hp⟩ := ht
    have hid := ((State.ready_iff s _).1 hr).2.2.1
    obtain ⟨h1, h2, h3, h4, h5, h6, h7, h8, h9, h10, h11, h12, h13, h14, h15, h16, h17, h18, h19, h20, h21, h22, h23, h24, h25⟩ := (Cell.idle_iff _).1 hid
    have hn : n.val % 128 = n.val := Nat.mod_eq_of_lt n.isLt
    have hfault : ∀ o : Op, (o.k = .mfs ∨ o.k = .mts) → o.slot = 3 → o.denied x.pl (x.rg o.s1) = true →
        let t := s.rowOp h o
        t.pending = s.pending ∧ t.mem = s.mem ∧ (t.dev.cell c).g = x.g ∧ (t.dev.cell c).pl = (if x.pl = 2 then 2 else 1) ∧
        if x.pl = 2 then (t.dev.cell c).mepc = x.pc ∧ (t.dev.cell c).epc = x.epc ∧ (t.dev.cell c).mestat.toNat / 2 ^ 64 = cPRIV
        else (t.dev.cell c).epc = x.pc ∧ (t.dev.cell c).mepc = x.mepc ∧ (t.dev.cell c).estat.toNat / 2 ^ 64 = cPRIV := by
      intro o hk hs hd t
      have hib : (x.holds { o with pred := h.pred.val }).illegalBundle = false := by
        rcases hk with hk | hk <;> simp [Cell.illegalBundle, slotsRise, hk, hs, x, c, h11, h22]
      have hil : ({ o with pred := h.pred.val } : Op).illegal = false := by rcases hk with hk | hk <;> simp [Op.illegal, hk]
      have ht : t = s.onDev (s.dev.putCell c (x.fault cPRIV)) :=
        State.rowOp_denied ⟨hr, he, hp⟩ o (by rcases hk with hk | hk <;> simp [Op.words, hk]) hib hil (by rcases hk with hk | hk <;> simpa [Op.denied, hk] using hd)
      rw [ht]
      refine ⟨rfl, rfl, ?_⟩
      rw [State.onDev_dev, Dev.putCell_cell]
      exact Cell.fault_idle hid cPRIV (by decide)
    refine ⟨fun hl => ?_, fun hl => ?_, fun h0 hl => ?_, fun hl => ?_, fun hl => ?_⟩
    · have hden : sprReadDenied x.pl (n.val % 128) = false := by rw [hn]; exact decide_eq_false (by omega)
      have hrow := State.rowOp_mfs s h hr he hp d.val n.val hden
      rw [hn] at hrow
      exact congrArg Host.Outcome.next hrow
    · exact ⟨_, rfl, hfault _ (.inl rfl) rfl (by simp only [Op.denied, hn]; exact decide_eq_true hl)⟩
    · have h0' : n.val ≠ 0 := fun h => h0 (Fin.ext h)
      have hden : sprWriteDenied x.pl (n.val % 128) (x.rg s1) = false := by
        rw [hn, sprWriteDenied, decide_eq_false (by omega), decide_eq_false (fun h => h0' h.1)]; rfl
      have hrow := State.rowOp_mts s h hr he hp s1.val n.val (by rwa [hn]) hden
      rw [hn] at hrow
      exact congrArg Host.Outcome.next (hrow.trans (State.issued_congr _ _ _ _ _ rfl))
    · have hden : sprWriteDenied x.pl (0 % 128) (x.rg s1) = false := by
        rw [sprWriteDenied, decide_eq_false (show ¬ x.pl < sprWriteLevel (0 % 128) from Nat.not_lt_zero _), decide_eq_false (fun h => hl h.2)]; rfl
      exact congrArg Host.Outcome.next ((State.rowOp_mts_st s h hr he hp s1.val 0 rfl hden).trans (State.issued_congr _ _ _ _ _ rfl))
    · refine ⟨_, rfl, hfault _ (.inr rfl) rfl ?_⟩
      simp only [Op.denied, hn, sprWriteDenied, Bool.or_eq_true, decide_eq_true_eq]
      exact hl.imp id fun ⟨a, b, c⟩ => ⟨congrArg Fin.val a, b, c⟩
  · intro d c v x back
    refine ⟨Dev.sprRead_put36 d c v, ?_, ?_, ?_, ?_, ?_, ?_, ?_, ?_, ?_⟩
    · intro n hn
      simp only [List.mem_cons, List.not_mem_nil, or_false] at hn
      rcases hn with rfl | rfl
      · exact congrArg Cell.estat (Dev.putCell_cell ..)
      · exact congrArg Cell.mestat (Dev.putCell_cell ..)
    · exact (by simp only [back, Dev.sprRead, Dev.putCell_cell, Cell.sprPut] : _ = BitVec.ofNat 72 (v.toNat % 2 ^ 36 / 1024 * 1024)).trans (keeps_units v _ 10 (by decide))
    · intro n hn
      simp only [List.mem_cons, List.not_mem_nil, or_false] at hn
      refine Eq.trans ?_ (keeps_units v _ 8 (by decide))
      rcases hn with rfl | rfl | rfl | rfl <;> simp [back, Dev.sprRead, Cell.sprPut]
    · exact (by simp only [back, Dev.sprRead, Dev.putCell_cell, Cell.sprPut] : _ = fields [(b2n (v.getLsbD 35), 35)]).trans (keeps_bit v _ 35 (by decide))
    · simp only [back, Dev.sprRead, Dev.putCell_cell, Cell.sprPut]; rfl
    · refine Eq.trans ?_ ((keeps_span v 0x3F 6 0 (by decide)))
      simp [back, Dev.sprRead, Cell.sprPut]
    · simp only [back, Dev.sprRead, Dev.putCell_cell, Cell.sprPut]
    · exact (by simp only [back, Dev.sprRead, Dev.putCell_cell, Cell.sprPut] : _ = fields [(b2n (decide (hlV.get v ≠ 0)), 71), (hlADDR.get v, 36), ((loHalf v).toNat, 0)]).trans (keeps_hilat v)
    · intro n hn
      simp only [List.mem_cons, List.not_mem_nil, or_false] at hn
      rcases hn with rfl | rfl | rfl | rfl | rfl | rfl <;> exact Dev.sprRead_putSame d c _

end Sys2Proof.Machine
end

section
/-! What a sluice permits (R483, R484, R486, R487): its region check by the one region that holds the first word. -/

namespace Sys2Proof.Machine

open Sys2Proof

/-- The checks that region `g` makes of a request (R484, R486). -/
def Dev.regionGrants (d : Dev) (s g : Nat) (r : Req) : Prop :=
  let attr := d.rd (slAttr s g)
  let perm := d.rd (slPerm s g)
  ¬ d.fg (slBase s g) SlBase.BASE + 2 ^ regK attr < r.addr + r.n ∧
  ¬ (r.kind = .walk ∧ (SlAttr.WALK.get attr = 0 ∨ regOrd attr = 2)) ∧
  classBit r.cls perm attr = true ∧
  ¬ (r.cls ≠ clsDEBUG ∧ ¬ (SlPerm.PGM.get perm).testBit r.pg) ∧
  ¬ (r.cls = clsDEBUG ∧ SlAttr.SEAL.get attr ≠ 0 ∧ ¬ d.makerDebug) ∧
  r.allowed (SlPerm.RIGHTS.get perm) = true

/-- Outside the fixed rules a sluice permits just what the one region that holds the first word grants. -/
theorem Dev.gate_permits_iff (d : Dev) (s : Nat) (r : Req) (hc : r.cls ≠ clsSYSTEM) (hd : d.fg dbStat DbStat.STATE ≠ 3) :
    (∃ a, d.gate s r = .permit a) ↔ r.fixed s = false ∧ ∃ g, d.regionsAt s r.addr = [g] ∧ d.regionGrants s g r := by
  unfold Dev.gate Dev.regionGrants
  rw [if_neg hc]
  by_cases hf : r.fixed s = true
  · simp [hf]
  rw [if_neg hf, if_neg (fun h => hd h.2)]
  match d.regionsAt s r.addr with
  | [] => simp
  | g :: g' :: more => simp
  | [g] =>
    dsimp only
    rw [if_neg (by simp)]
    constructor
    · rintro ⟨a, ha⟩
      refine ⟨Bool.eq_false_iff.2 hf, g, rfl, ?_⟩
      split at ha
      · nomatch ha
      · next h1 =>
        split at ha
        · nomatch ha
        · next h2 =>
          split at ha
          · nomatch ha
          · next h3 =>
            split at ha
            · nomatch ha
            · next h4 =>
              split at ha
              · nomatch ha
              · next h5 =>
                split at ha
                · nomatch ha
                · next h6 => exact ⟨h1, h2, by simpa using h3, h4, h5, by simpa using h6⟩
    · rintro ⟨-, g', hg, h1, h2, h3, h4, h5, h6⟩
      obtain rfl : g = g' := by simpa using hg
      exact ⟨_, by rw [if_neg h1, if_neg h2, if_neg (by simp [h3]), if_neg h4, if_neg h5, if_neg (by simp [h6])]⟩

/-- One enabled region holds an address: the list of those that do is that one. -/
theorem Dev.regionsAt_one (d : Dev) (s a g : Nat) : d.regionsAt s a = [g] ↔ (∀ q < 8, d.regionHas s q a = true ↔ q = g) ∧ g < 8 := by
  unfold Dev.regionsAt
  constructor
  · intro h
    have hm : ∀ q, q < 8 ∧ d.regionHas s q a = true ↔ q = g := fun q => by
      rw [← List.mem_singleton (b := g), ← h, List.mem_filter, List.mem_range]
    exact ⟨fun q hq => ⟨fun hh => (hm q).1 ⟨hq, hh⟩, fun hh => ((hm q).2 hh).2⟩, ((hm g).2 rfl).1⟩
  · rintro ⟨h, hg⟩
    refine List.Perm.singleton_eq ?_ |>.symm
    refine (List.perm_ext_iff_of_nodup (List.nodup_singleton g) (List.nodup_range.filter _)).2 fun q => ?_
    rw [List.mem_singleton, List.mem_filter, List.mem_range]
    exact ⟨fun e => e ▸ ⟨hg, (h g hg).2 rfl⟩, fun ⟨hq, hh⟩ => (h q hq).1 hh⟩

/-- A region grants the kinds of a request whose rights it gives at the level. -/
theorem Req.allowed_iff (r : Req) (m : Nat) : r.allowed m = true ↔
    (∀ i, i = (match r.kind with | .read => 0 | .walk => 0 | .write => 1 | .fetch => 2 | .prefetch => 2) → m.testBit (8 - 3 * min 2 r.pl - i) = true) ∧
    (r.kind = .write → r.part' = true → m.testBit (8 - 3 * min 2 r.pl) = true) := by
  unfold Req.allowed rightBit
  cases r.kind <;> simp
  cases r.part' <;> simp

theorem classBit_iff (cls : Nat) (perm attr : Word) : classBit cls perm attr = true ↔
    (cls = 0 → SlPerm.CELL.get perm ≠ 0) ∧ (cls = 1 → SlPerm.DMA.get perm ≠ 0) ∧ (cls = 2 → SlAttr.DBG.get attr ≠ 0) := by
  match cls with
  | 0 => simp [classBit]
  | 1 => simp [classBit]
  | 2 => simp [classBit]
  | n + 3 => simp [classBit]

theorem Req.fixed_iff (r : Req) (s : Nat) (hc : r.cls ≠ clsSYSTEM) : r.fixed s = false ↔ ¬ (r.kind = .write ∧ (s = 80 ∨ s = 81)) := by
  simp [Req.fixed, hc]

theorem Dev.ff_iff (d : Dev) (k : Nat) (f : Span) : d.ff k f = true ↔ ¬ f.get (d.rd k) = 0 := decide_eq_true_iff

/-- Settles O48: the checks of the one region, each in the words of its fields. -/
theorem sluicesPermitByOneRegion : Obligations.SluicesPermitByOneRegion := by
  intro d s r hc hd
  rw [Dev.gate_permits_iff d s r hc hd, Req.fixed_iff r s hc]
  unfold Dev.regionGrants
  simp only [Dev.regionsAt_one, Req.allowed_iff, classBit_iff, Dev.ff_iff, Dev.fg, regK, regOrd, Dev.makerDebug, clsDEBUG, ne_eq]
  constructor
  · rintro ⟨hf, g, ⟨hone, hg⟩, h1, h2, ⟨h3, h4, h5⟩, h6, h7, h8, h9⟩
    refine ⟨g, hone, hg, hf, by omega, fun hk => ?_, h3, h4, fun h => ⟨h5 h, fun hs => by_contra fun hn => h7 ⟨h, hs, mt of_decide_eq_true hn⟩⟩,
      fun hn => by_contra fun ht => h6 ⟨hn, ht⟩, h8, h9⟩
    exact ⟨fun hw => h2 ⟨hk, .inl hw⟩, by by_contra ho; exact h2 ⟨hk, .inr (by omega)⟩⟩
  · rintro ⟨g, hone, hg, hf, h1, h2, h3, h4, h5, h6, h8, h9⟩
    refine ⟨hf, g, ⟨hone, hg⟩, by omega, fun ⟨hk, ho⟩ => ?_, ⟨h3, h4, fun h => (h5 h).1⟩, fun ⟨hn, ht⟩ => ht (h6 hn), fun ⟨h, hs, hn⟩ => hn (decide_eq_true ((h5 h).2 hs)), h8, h9⟩
    obtain ⟨hw, ho'⟩ := h2 hk
    exact ho.elim hw (by omega)

end Sys2Proof.Machine
end

section
/-! The editing of a sluice's rules (R492-R497): the writes that are refused, and what an accepted one leaves in the sluices of the group. -/

namespace Sys2Proof.Machine

open Sys2Proof

theorem regDesc_sluice {n k : Nat} (hn : n < 99) (hk : k < 8) : regDesc (0x0A0000 + k + 8 * n) = descSluice (8 * n + k) := by
  have h1 : (0x0A0000 + k + 8 * n) % 0x1000000 / 0x10000 = 10 := by omega
  have h2 : (0x0A0000 + k + 8 * n) % 0x1000000 % 0x10000 = 8 * n + k := by omega
  simp only [regDesc, h1, h2]

theorem Dev.regWrite_sluice (d : Dev) (who : Requester) {n k : Nat} (hn : n < 99) (hk : k < 8) (key : Nat) (new v : Word) :
    d.regWrite who (0x0A0000 + k + 8 * n) key new v = d.wrSluice who (0x0A0000 + k + 8 * n) new v := by
  have h1 : (0x0A0000 + k + 8 * n) / 0x10000 = 10 := by omega
  simp only [Dev.regWrite, h1]

/-- A write of a rule register of sluice `n`, whose own effect is `x`. -/
theorem State.rowWrite_sluice (s : State) (who : Requester) {n k : Nat} (hn : n < 99) (hk : k = 1 ∨ k = 2 ∨ k = 3) (v : Half)
    (h : s.reaches who (0x0A0000 + k + 8 * n) = true) {x : Bool × Dev}
    (hx : ∀ new, s.dev.wrSluice who (0x0A0000 + k + 8 * n) new (ofHalf v &&& 0xFFFFFFFFF) = x) :
    s.rowWrite who (0x0A0000 + k + 8 * n) v = s.wrote (0x0A0000 + k + 8 * n) x.1 x.2 := by
  have hk8 : k < 8 := by omega
  have hm : (8 * n + k) % 8 = k := by omega
  have ho : 8 * n + k < 0x318 := by omega
  have hd : (descSluice (8 * n + k)).wide = false ∧ (descSluice (8 * n + k)).mask (fun a => a == .rwl) = 0 := by
    unfold descSluice
    rw [if_pos ho, hm]
    rcases hk with rfl | rfl | rfl <;> decide
  exact State.rowWrite_eff s who _ v _ h (regDesc_sluice hn hk8) hd.1 hd.2 (by simp only [fcRec, bCtl, btCmd, ssCmd, ssCfg]; omega) (.inl (by omega))
    ((Dev.regWrite_sluice _ _ hn hk8 ..).trans (hx _))

/-- The effect of a write of a rule register, below and from supervisor level. -/
theorem Dev.wrSluice_low (d : Dev) (who : Requester) {n k : Nat} (hn : n < 99) (hk : k < 8) (new v : Word) (hl : d.ioPl who < 2) :
    d.wrSluice who (0x0A0000 + k + 8 * n) new v = (true, d) := by
  unfold Dev.wrSluice
  rw [if_pos (by omega), if_pos hl]

theorem Dev.wrSluice_rule (d : Dev) (who : Requester) {n : Nat} (hn : n < 99) (new v : Word) (hl : ¬ d.ioPl who < 2) :
    d.wrSluice who (0x0A0001 + 8 * n) new v = orRefused d (d.slWrite n slBase true v) ∧
    d.wrSluice who (0x0A0002 + 8 * n) new v = orRefused d (d.slWrite n slPerm false v) ∧
    d.wrSluice who (0x0A0003 + 8 * n) new v = orRefused d (d.slAttrWrite n v) := by
  have h : ∀ k, 1 ≤ k → k < 4 → 0x0A0000 + k + 8 * n < 0x0A0320 ∧ (0x0A0000 + k + 8 * n) % 8 = k ∧ (0x0A0000 + k + 8 * n - 0x0A0000) / 8 = n := fun k h1 h2 => by omega
  unfold Dev.wrSluice
  obtain ⟨a1, b1, c1⟩ := h 1 (by decide) (by decide)
  obtain ⟨a2, b2, c2⟩ := h 2 (by decide) (by decide)
  obtain ⟨a3, b3, c3⟩ := h 3 (by decide) (by decide)
  refine ⟨?_, ?_, ?_⟩
  · rw [if_pos a1, if_neg hl, b1, c1]; rfl
  · rw [if_pos a2, if_neg hl, b2, c2]; rfl
  · rw [if_pos a3, if_neg hl, b3, c3]; rfl

/-- Every sluice of the group takes the written value, and notes what is in flight (R495, R496). -/
def Dev.slPut (d : Dev) (s : Nat) (key : Nat → Nat → Nat) (w : Word) : Dev :=
  (d.slPeers s).foldl (fun e q => (e.wr (key q (d.fg (slIdx s) SlIdx.IDX)) w).noteFlight q) d

/-- A rejected enable: EN stays 0, with its reason, and the sluices' event (R493). -/
def Dev.slReject (d : Dev) (s bad : Nat) (w : Word) : Dev :=
  ((((d.slPut s slAttr (SlAttr.EN.put w 0)).fp (slIdx s) SlIdx.REJ bad).fp (slIdx s) SlIdx.REJIDX (d.fg (slIdx s) SlIdx.IDX)).latch slGev SlGev.CAUSE
    (slGroup s)).relevel (220 + slGroup s)

/-- A write of SLATTR by its cases; the fields that it does not keep play no part. -/
theorem Dev.slAttrWrite_cases (d : Dev) (s : Nat) (u : Half) :
    let old := d.rd (slAttr s (d.fg (slIdx s) SlIdx.IDX))
    let w := ofHalf u &&& 0xFFFE00000
    let bad := d.enableReason s (d.fg (slIdx s) SlIdx.IDX) w
    d.slAttrWrite s (ofHalf u &&& 0xFFFFFFFFF) =
      if SlAttr.LK.get old ≠ 0 then none
      else if SlAttr.EN.get old ≠ 0 ∧ SlAttr.K.get w ≠ SlAttr.K.get old then none
      else if SlAttr.EN.get w = 0 ∨ SlAttr.EN.get old ≠ 0 ∨ bad = 0 then some (d.slPut s slAttr w) else some (d.slReject s bad w) := by
  intro old w bad
  have hw : ofHalf u &&& 0xFFFFFFFFF &&& 0xFFFE00000 = w := by rw [BitVec.and_assoc]; rfl
  have hk : regK (ofHalf u &&& 0xFFFFFFFFF) = SlAttr.K.get w := by
    rw [← hw]
    refine Span.get_congr SlAttr.K _ _ fun j h1 h2 => ?_
    have h1' : 29 ≤ j := h1
    have h2' : j ≤ 34 := h2
    rw [BitVec.getLsbD_and (x := ofHalf u &&& 0xFFFFFFFFF)]
    have : (0xFFFE00000 : Word).getLsbD j = true := by interval_cases j <;> rfl
    rw [this, Bool.and_true]
  unfold Dev.slAttrWrite
  dsimp only
  rw [hw, hk, show regK (d.rd (slAttr s (d.fg (slIdx s) SlIdx.IDX))) = SlAttr.K.get old from rfl]
  have hl : (d.slLocked s (d.fg (slIdx s) SlIdx.IDX) = true) ↔ SlAttr.LK.get old ≠ 0 := decide_eq_true_iff
  by_cases h1 : SlAttr.LK.get old ≠ 0
  · rw [if_pos (hl.2 h1), if_pos h1]
  rw [if_neg (mt hl.1 h1), if_neg h1]
  by_cases h2 : SlAttr.EN.get old ≠ 0 ∧ SlAttr.K.get w ≠ SlAttr.K.get old
  · rw [if_pos h2, if_pos h2]
  rw [if_neg h2, if_neg h2]
  by_cases h3 : SlAttr.EN.get w ≠ 0 ∧ SlAttr.EN.get old = 0
  · rw [if_pos h3]
    by_cases h4 : bad = 0
    · rw [if_pos h4, if_pos h4, if_pos (.inr (.inr h4))]; rfl
    · rw [if_neg h4, if_neg h4, if_neg (fun h => h.elim h3.1 (·.elim (fun h => h h3.2) h4))]; rfl
  · have h3' : SlAttr.EN.get w = 0 ∨ SlAttr.EN.get old ≠ 0 := by
      by_contra hc
      exact h3 ⟨fun h => hc (.inl h), by by_contra h; exact hc (.inr h)⟩
    rw [if_neg h3, if_pos rfl, if_pos rfl, if_pos (h3'.imp id .inl)]; rfl

/-- A write of SLBASE or SLPERM by its cases. -/
theorem Dev.slWrite_cases (d : Dev) (s : Nat) (u : Half) :
    let r := d.fg (slIdx s) SlIdx.IDX
    let old := d.rd (slAttr s r)
    let p := ofHalf u &&& (SlPerm.RIGHTS.mask ||| SlPerm.PGM.mask ||| SlPerm.CELL.mask ||| SlPerm.DMA.mask)
    let b := ofHalf u &&& SlBase.BASE.mask
    (d.slWrite s slBase true (ofHalf u &&& 0xFFFFFFFFF) = if SlAttr.LK.get old ≠ 0 ∨ (SlAttr.EN.get old ≠ 0 ∧ b ≠ d.rd (slBase s r)) then none else some (d.slPut s slBase b)) ∧
    d.slWrite s slPerm false (ofHalf u &&& 0xFFFFFFFFF) = if SlAttr.LK.get old ≠ 0 then none else some (d.slPut s slPerm p) := by
  intro r old p b
  have hb : ofHalf u &&& 0xFFFFFFFFF &&& SlBase.BASE.mask = b := by rw [BitVec.and_assoc]; rfl
  have hp : ofHalf u &&& 0xFFFFFFFFF &&& (SlPerm.RIGHTS.mask ||| SlPerm.PGM.mask ||| SlPerm.CELL.mask ||| SlPerm.DMA.mask) = p := by rw [BitVec.and_assoc]; rfl
  have hl : (d.slLocked s r = true) ↔ SlAttr.LK.get old ≠ 0 := decide_eq_true_iff
  have he : (d.ff (slAttr s r) SlAttr.EN = true) ↔ SlAttr.EN.get old ≠ 0 := decide_eq_true_iff
  unfold Dev.slWrite
  simp only [if_true, Bool.false_eq_true, if_false, hb, hp]
  refine ⟨?_, ?_⟩
  · by_cases h1 : SlAttr.LK.get old ≠ 0
    · rw [if_pos (hl.2 h1), if_pos (.inl h1)]
    rw [if_neg (mt hl.1 h1)]
    by_cases h2 : SlAttr.EN.get old ≠ 0 ∧ b ≠ d.rd (slBase s r)
    · rw [if_pos (by simpa using ⟨he.2 h2.1, h2.2⟩), if_pos (.inr h2)]
    · rw [if_neg (by simpa using fun h => by by_contra hn; exact h2 ⟨he.1 h, hn⟩), if_neg (fun h => h.elim h1 h2)]; rfl
  · by_cases h1 : SlAttr.LK.get old ≠ 0
    · rw [if_pos (hl.2 h1), if_pos h1]
    · rw [if_neg (mt hl.1 h1), if_neg h1, if_neg (by simp)]; rfl

/-- Settles O49: each rule register by the cases of its write, and DRAINED by the noted requests. -/
theorem sluiceRulesAreEdited : Obligations.SluiceRulesAreEdited := by
  intro s who sl v d no g old all attr
  have hsl := sl.isLt
  have hattr : ¬ d.ioPl who < 2 → s.reaches who (0x0A0003 + 8 * sl.val) = true → ∀ u : Half,
      s.rowWrite who (0x0A0003 + 8 * sl.val) u = attr u := by
    intro hl h u
    refine (State.rowWrite_sluice s who hsl (k := 3) (by decide) u h (x := orRefused d (d.slAttrWrite sl.val (ofHalf u &&& 0xFFFFFFFFF)))
      fun new => (Dev.wrSluice_rule d who hsl new _ hl).2.2).trans ?_
    rw [Dev.slAttrWrite_cases]
    unfold attr
    dsimp only
    split
    · rfl
    · split
      · rfl
      · split <;> rfl
  refine ⟨fun h => ⟨fun hl => ?_, fun hl => ?_⟩, fun h => ?_, fun h => ?_, fun ha => ?_⟩
  · have hlow : ∀ u : Half, s.rowWrite who (0x0A0003 + 8 * sl.val) u = no (0x0A0003 + 8 * sl.val) := fun u =>
      State.rowWrite_sluice s who hsl (k := 3) (by decide) u h (x := (true, d)) fun new => Dev.wrSluice_low d who hsl (by decide) new _ hl
    refine ⟨congrArg Host.Outcome.next (hlow _), congrArg Host.Outcome.next (hlow _), ?_⟩
    have e : 0x0A0001 + 8 * sl.val + 2 = 0x0A0003 + 8 * sl.val := by omega
    exact congrArg Host.Outcome.next ((congrArg (fun r => s.rowWrite who r v) e).trans (hlow v))
  · have hl : ¬ d.ioPl who < 2 := by omega
    refine ⟨congrArg Host.Outcome.next (hattr hl h _), congrArg Host.Outcome.next (hattr hl h _), ?_⟩
    have e : 0x0A0001 + 8 * sl.val + 2 = 0x0A0003 + 8 * sl.val := by omega
    exact congrArg Host.Outcome.next ((congrArg (fun r => s.rowWrite who r v) e).trans (hattr hl h v))
  · dsimp only
    refine congrArg Host.Outcome.next ?_
    show s.rowWrite who (0x0A0001 + 8 * sl.val) v = _
    by_cases hl : d.ioPl who < 2
    · rw [if_pos (.inl hl)]
      exact State.rowWrite_sluice s who hsl (k := 1) (by decide) v h (x := (true, d)) fun new => Dev.wrSluice_low d who hsl (by decide) new _ hl
    · refine (State.rowWrite_sluice s who hsl (k := 1) (by decide) v h (x := orRefused d (d.slWrite sl.val slBase true (ofHalf v &&& 0xFFFFFFFFF)))
        fun new => (Dev.wrSluice_rule d who hsl new _ hl).1).trans ?_
      rw [(Dev.slWrite_cases d sl.val v).1]
      by_cases hc : SlAttr.LK.get old ≠ 0 ∨ (SlAttr.EN.get old ≠ 0 ∧ ofHalf v &&& SlBase.BASE.mask ≠ d.rd (slBase sl.val g))
      · rw [if_pos hc, if_pos (.inr hc)]; rfl
      · rw [if_neg hc, if_neg (fun h => h.elim hl hc)]; rfl
  · dsimp only
    refine congrArg Host.Outcome.next ?_
    have e : 0x0A0001 + 8 * sl.val + 1 = 0x0A0002 + 8 * sl.val := by omega
    refine (congrArg (fun r => s.rowWrite who r v) e).trans ?_
    by_cases hl : d.ioPl who < 2
    · rw [if_pos (.inl hl)]
      exact State.rowWrite_sluice s who hsl (k := 2) (by decide) v h (x := (true, d)) fun new => Dev.wrSluice_low d who hsl (by decide) new _ hl
    · refine (State.rowWrite_sluice s who hsl (k := 2) (by decide) v h (x := orRefused d (d.slWrite sl.val slPerm false (ofHalf v &&& 0xFFFFFFFFF)))
        fun new => (Dev.wrSluice_rule d who hsl new _ hl).2.1).trans ?_
      rw [(Dev.slWrite_cases d sl.val v).2]
      by_cases hc : SlAttr.LK.get old ≠ 0
      · rw [if_pos hc, if_pos (.inr hc)]; rfl
      · rw [if_neg hc, if_neg (fun h => h.elim hl hc)]; rfl
  · have hn : s.dev.noted.any (fun e => decide (e.1 = sl.val)) = true ↔ ∃ e ∈ s.dev.noted, e.1 = sl.val := by simp [List.any_eq_true]
    by_cases hc : ∃ e ∈ d.noted, e.1 = sl.val
    · exact (State.next_live (f := fun d => d.drained sl.val) (d := s.dev) ha (if_pos (hn.2 hc))).trans (congrArg Host.Outcome.next (if_pos hc).symm)
    · exact (State.next_live (f := fun d => d.drained sl.val) ha (if_neg (mt hn.1 hc))).trans (congrArg Host.Outcome.next (if_neg hc).symm)

end Sys2Proof.Machine
end

section
/-! The entry of events and completion causes at a boundary, and the takeover of an entry by a higher event (R435, R441, R447, R451). -/

namespace Sys2Proof.Machine

open Sys2Proof

/-- A single cell, and a group on which the caliper agrees, goes on. -/
theorem State.ifJudged_of (s : State) (c : Nat) {cal : Caliper} (k : State → Nat → State) (h : s.dev.role c ≠ 1 ∨ cal = .agree) :
    s.ifJudged c cal k = k s c := by
  rcases h with h | rfl
  · have : s.dev.judged c cal = (some c, s.dev) := if_pos h
    unfold State.ifJudged
    rw [this]
  · exact State.ifJudged_agree s c k

theorem ite_agree {s : State} {c : Nat} {cal : Caliper} (h : s.dev.role c ≠ 1 ∨ cal = .agree) (p : Prop) [Decidable p] :
    s.dev.role c ≠ 1 ∨ (if p then cal else .agree) = .agree := h.imp id fun e => by rw [e, ite_self]

/-! ### What an entry leaves -/

theorem Cell.enter_closed (x : Cell) (e : Entry) : (x.enter e).closed = false := by
  unfold Cell.enter
  dsimp only
  split <;> rfl

theorem Cell.enter_entry (x : Cell) (e : Entry) : (x.enter e).entry = e.ev.map (fun q => ⟨q.1, x.st⟩) := by
  unfold Cell.enter
  dsimp only
  split <;> rfl

theorem Cell.enter_held (x : Cell) (e : Entry) : (x.enter e).held = x.held := by
  unfold Cell.enter
  dsimp only
  split <;> rfl

/-- The interrupt level of an event entry is the event's priority (R441). -/
theorem stEntered_ipl (e : Entry) (n p : Nat) (st : Word) (he : e.ev = some (n, p)) (hp : p < 16) : stIPL.get (stEntered e st) = p := by
  have h1 : ∀ w : Word, stIPL.get (stIPL.put w p) = p := fun w => (Span.get_put_self _ _ _ (by decide)).trans (Nat.mod_eq_of_lt hp)
  unfold stEntered
  rw [he]
  dsimp only
  split
  · rw [Span.get_put_ne _ _ _ _ (by decide) (by decide), h1]
  · exact h1 _

theorem Cell.enter_ipl (x : Cell) (e : Entry) (n p : Nat) (he : e.ev = some (n, p)) (hp : p < 16) : (x.enter e).ipl = p := by
  rw [Cell.ipl, Cell.enter_st, stEntered_ipl e n p x.st he hp]

theorem Cell.enter_ie (x : Cell) (e : Entry) (hl : e.lvl < 4) : (x.enter e).ie = false := by
  rw [Cell.ie, Cell.enter_st, (stEntered_fields e x.st hl).2.1]; rfl

theorem fields_four (a b c d i j k l : Nat) : fields [(a, i), (b, j), (c, k), (d, l)] = BitVec.ofNat 72 (a * 2 ^ i + b * 2 ^ j + c * 2 ^ k + d * 2 ^ l) := by
  simp [fields]

/-- The fields of a window register's word. -/
theorem curWord_fields (e p t : Nat) (hp : p < 16) (ht : t < 2) :
    EcCur.EV.get (fields [(1, 35), (e, 27), (p, 23), (t, 22)]) = e % 256 ∧ EcCur.TKO.get (fields [(1, 35), (e, 27), (p, 23), (t, 22)]) = t := by
  have hev : ∀ w, EcCur.EV.get w = w.toNat / 2 ^ 27 % 2 ^ 8 := fun w => by rw [Span.get, Nat.shiftRight_eq_div_pow]; rfl
  have htk : ∀ w, EcCur.TKO.get w = w.toNat / 2 ^ 22 % 2 ^ 1 := fun w => by rw [Span.get, Nat.shiftRight_eq_div_pow]; rfl
  rw [hev, htk, fields_four, BitVec.toNat_ofNat]
  omega

/-- The window register of an event entry names the event, and whether it took another over (R455). -/
theorem Dev.noteEvent_cur (d : Dev) (c e : Nat) (tko : Bool) :
    (d.noteEvent c e tko).fg (ecCur c) EcCur.EV = e % 256 ∧ (d.noteEvent c e tko).ff (ecCur c) EcCur.TKO = tko := by
  obtain ⟨h1, h2⟩ := curWord_fields e (d.fg (ecRt e) EcRt.PRI) (b2n tko) (Span.get_lt EcRt.PRI _) (by cases tko <;> decide)
  unfold Dev.noteEvent Dev.ff
  generalize ecCur c = k
  generalize fields [(1, 35), (e, 27), (d.fg (ecRt e) EcRt.PRI, 23), (b2n tko, 22)] = w at h1 h2 ⊢
  rw [Dev.fg, Dev.fg, Dev.rd_wr_self, h1, h2]
  refine ⟨rfl, ?_⟩
  cases tko <;> rfl

theorem Dev.noteEvent_cell (d : Dev) (c e k : Nat) (tko : Bool) : (d.noteEvent c e tko).cell k = d.cell k := by
  unfold Dev.noteEvent
  rw [Dev.wr_cell]

theorem Dev.fp_cell (d : Dev) (k n : Nat) (f : Span) (v : Nat) : (d.fp k f v).cell n = d.cell n := by
  unfold Dev.fp
  rw [Dev.wr_cell]

theorem Dev.fb_cell (d : Dev) (k n : Nat) (f : Span) (b : Bool) : (d.fb k f b).cell n = d.cell n := Dev.fp_cell ..

theorem Dev.recordFault_cell (d : Dev) (c cause addr k : Nat) (w io : Bool) : (d.recordFault c cause addr w io).cell k = d.cell k := by
  unfold Dev.recordFault
  generalize ecFinf c = q
  dsimp only
  rw [Dev.fb_cell, Dev.fb_cell, Dev.fp_cell, Dev.fp_cell, Dev.wr_cell]

theorem Dev.heldSync_cell (d : Dev) (c k : Nat) : (d.heldSync c).cell k = d.cell k := by
  unfold Dev.heldSync
  rw [Dev.fp_cell]

theorem Cell.enter_reads (x : Cell) (e : Entry) (k : Nat) : (x.enter e).rg k = x.rg k ∧ (x.enter e).rp k = x.rp k ∧ (x.enter e).rf k = x.rf k := by
  obtain ⟨hg, hf, hp⟩ := Cell.enter_regs x e
  exact ⟨Cell.rg_congr hg k, Cell.rp_congr hp k, Cell.rf_congr hf k⟩

/-- An entry outside a delay bundle and the shadow bundles of an MTS saves the next bundle and ST, in the pair of its level alone. -/
theorem Cell.enter_saves (x : Cell) (e : Entry) (hs : x.shadow = []) (hd : e.dslot = false) (hr : e.resume = false) (hc : e.cause < 256) :
    if e.lvl = 2 then (x.enter e).mepc = e.epc ∧ (x.enter e).mestat.toNat = e.cause * 2 ^ 64 + b2n e.imprecise * 2 ^ 61 + x.st.toNat % 2 ^ 36 ∧
      (x.enter e).epc = x.epc ∧ (x.enter e).estat = x.estat
    else (x.enter e).epc = e.epc ∧ (x.enter e).estat.toNat = e.cause * 2 ^ 64 + b2n e.imprecise * 2 ^ 61 + x.st.toNat % 2 ^ 36 ∧
      (x.enter e).mepc = x.mepc ∧ (x.enter e).mestat = x.mestat := by
  have hw : (estatWord e false x.st).toNat = e.cause * 2 ^ 64 + b2n e.imprecise * 2 ^ 61 + x.st.toNat % 2 ^ 36 := by
    rw [estatWord_toNat _ _ _ hc, hd, hr]; simp [b2n]
  have h := Cell.enter_saved x e hs
  by_cases h2 : e.lvl = 2
  · rw [if_pos h2] at h ⊢
    obtain ⟨a, b, c, d⟩ := h
    exact ⟨a, (congrArg BitVec.toNat c).trans hw, b, d⟩
  · rw [if_neg h2] at h ⊢
    obtain ⟨a, b, c, d⟩ := h
    exact ⟨a, (congrArg BitVec.toNat c).trans hw, b, d⟩

/-- The entry that an event makes at the cell's boundary. -/
def Dev.eventEntry (d : Dev) (c e : Nat) : Entry :=
  { lvl := if d.ff (ecRt e) EcRt.LVL then 2 else 1, cause := cEVENT, epc := (d.cell c).pc, ev := some (e, d.fg (ecRt e) EcRt.PRI) }

/-- The boundary takes the event that is due (R451). -/
theorem Dev.takeEvent_of (d : Dev) (c e : Nat) (hq : (d.cell c).dueCause = none) (he : d.dueEvent c = some e) (hb : (d.cell c).blk = none)
    (hw : (d.cell c).wait = .none) (hr : (d.cell c).resume = false) :
    d.takeEvent c = (d.putCell c ((d.cell c).enter (d.eventEntry c e))).noteEvent c e false := by
  unfold Dev.takeEvent
  rw [if_neg (not_not_intro hq), he]
  dsimp only
  unfold Dev.enterEvent
  dsimp only
  rw [hb, hw, hr]
  rfl

/-- The entry that a completion cause makes at the cell's boundary. -/
def Cell.causeEntry (x : Cell) (q : HeldC) : Entry :=
  { lvl := x.entryLevel, cause := q.cause, epc := x.pc, resume := x.resume, imprecise := decide (q.bun + 1 < x.bun) }

/-- The cell that no longer holds the cause `q`. -/
def Cell.without (x : Cell) (q : HeldC) : Cell := { x with held := x.held.filter (fun r => decide (r.seq ≠ q.seq)) }

/-- The boundary raises the completion cause that is due (R435): the cause's cell enters, and no other changes. -/
theorem Dev.raiseCause_cell (d : Dev) (c : Nat) (q : HeldC) (ha : d.atBoundary c = true) (hq : (d.cell c).dueCause = some q) :
    (d.raiseCause c).cell c = ((d.cell c).without q).enter ((d.cell c).causeEntry q) ∧ ∀ k ≠ c, (d.raiseCause c).cell k = d.cell k := by
  have h : ∀ k, (if q.cause = cDACC ∨ q.cause = cDERR ∨ q.cause = cIO then d.recordFault c q.cause q.addr q.w q.io else d).cell k = d.cell k := by
    intro k
    split
    · exact Dev.recordFault_cell ..
    · rfl
  unfold Dev.raiseCause
  simp only [ha, if_true, hq, Dev.heldSync_cell]
  exact ⟨Dev.putCell_cell .., fun k hk => (Dev.putCell_cell_ne _ _ hk).trans (h k)⟩

/-- The cell that event `e`, of priority `pri` and level `lvl`, takes over: its level and, where that changes, the pair that it had saved (R447). -/
def Cell.takenOver (x : Cell) (n : EntryE) (e pri lvl : Nat) : Cell :=
  let y : Cell := if lvl = stPL.get x.st then { x with st := stIPL.put x.st pri }
    else if lvl = 2 then { x with st := stTE.put (stIPL.put (stPL.put x.st 2) pri) 0, mepc := x.epc, mestat := x.estat }
    else { x with st := stTE.put (stIPL.put (stPL.put x.st 1) pri) (stTE.get n.st), epc := x.mepc, estat := x.mestat }
  { y with entry := some ⟨e, n.st⟩, pc := opAdd (x.evb * 1024) (0x400 + 4 * e) }

theorem Dev.takeover_of (d : Dev) (c e : Nat) (n : EntryE) (hn : (d.cell c).entry = some n) (he : d.pick c n.st = some e)
    (hr : d.running c = true) (hp : d.fg (ecRt n.ev) EcRt.PRI < d.fg (ecRt e) EcRt.PRI) :
    d.takeover c = (d.putCell c ((d.cell c).takenOver n e (d.fg (ecRt e) EcRt.PRI) (if d.ff (ecRt e) EcRt.LVL then 2 else 1))).noteEvent c e true := by
  unfold Dev.takeover Cell.takenOver
  dsimp only
  split
  · next h => rw [hn] at h; nomatch h
  · next m h =>
    obtain rfl : n = m := Option.some.inj (hn.symm.trans h)
    rw [he]
    dsimp only
    rw [if_pos ⟨hr, hp⟩]

/-- What a takeover keeps, and what it sets. -/
theorem Cell.takenOver_fields (x : Cell) (n : EntryE) (e pri lvl : Nat) (hp : pri < 16) :
    let y := x.takenOver n e pri lvl
    (y.g = x.g ∧ y.f = x.f ∧ y.p = x.p) ∧ y.pc = opAdd (x.evb * 1024) (0x400 + 4 * e) ∧ y.entry = some ⟨e, n.st⟩ ∧ y.depth = x.depth ∧ y.ipl = pri ∧
      (stPL.get x.st = lvl → y.epc = x.epc ∧ y.mepc = x.mepc ∧ y.estat = x.estat ∧ y.mestat = x.mestat) := by
  intro y
  have h1 : ∀ w : Word, stIPL.get (stIPL.put w pri) = pri := fun w => (Span.get_put_self _ _ _ (by decide)).trans (Nat.mod_eq_of_lt hp)
  have h2 : ∀ (w : Word) (v : Nat), stIPL.get (stTE.put w v) = stIPL.get w := fun w v => Span.get_put_ne _ _ _ _ (by decide) (by decide)
  unfold y Cell.takenOver
  generalize opAdd (x.evb * 1024) (0x400 + 4 * e) = pc
  dsimp only
  split
  · exact ⟨⟨rfl, rfl, rfl⟩, rfl, rfl, rfl, h1 _, fun _ => ⟨rfl, rfl, rfl, rfl⟩⟩
  · next hne =>
    split
    · exact ⟨⟨rfl, rfl, rfl⟩, rfl, rfl, rfl, (h2 _ _).trans (h1 _), fun h => absurd h.symm hne⟩
    · exact ⟨⟨rfl, rfl, rfl⟩, rfl, rfl, rfl, (h2 _ _).trans (h1 _), fun h => absurd h.symm hne⟩

/-- Settles O46: the entry of the due event, of the due cause, and the takeover of an entry. -/
theorem boundariesEnterTheHandler : Obligations.BoundariesEnterTheHandler := by
  intro s c cal ha hcal x same saves vector
  refine ⟨fun e hq he hb hw hr hs => ?_, fun q hab hq hcz hr hs => ?_, fun n e hn he hrun hp => ?_⟩
  · obtain ⟨E, hE⟩ : ∃ E, E = s.dev.eventEntry c.val e := ⟨_, rfl⟩
    have hl : E.lvl = if s.dev.ff (ecRt e) EcRt.LVL then 2 else 1 := by rw [hE]; rfl
    have hl4 : E.lvl < 4 := by rw [hl]; split <;> decide
    have hEv : E.ev = some (e, s.dev.fg (ecRt e) EcRt.PRI) := by rw [hE]; rfl
    have ht := Dev.takeEvent_of s.dev c.val e hq he hb hw hr
    rw [← hE] at ht
    have hc : ∀ k, (s.dev.takeEvent c.val).cell k = (s.dev.putCell c.val (x.enter E)).cell k := fun k => by rw [ht, Dev.noteEvent_cell]
    have hcc : (s.dev.takeEvent c.val).cell c.val = x.enter E := (hc _).trans (Dev.putCell_cell ..)
    refine ⟨s.onDev (s.dev.takeEvent c.val), State.next_liveS (t := s.onDev (s.dev.takeEvent c.val)) ha ?_, ⟨rfl, rfl, fun k hk => ?_, fun k => ?_⟩, ?_, ?_, ?_, ?_, ?_, ?_, ?_⟩
    · exact (State.ifJudged_of _ _ _ (ite_agree hcal _)).trans (State.pump_open _ _ ((congrArg Cell.closed hcc).trans (Cell.enter_closed ..)))
    · exact (hc k).trans (Dev.putCell_cell_ne _ _ hk)
    · rw [State.onDev_dev, hcc]; exact Cell.enter_reads x E k
    · have hcau : E.cause = cEVENT := by rw [hE]; rfl
      have h := Cell.enter_saves x E hs (by rw [hE]; rfl) (by rw [hE]; rfl) (hcau ▸ by decide)
      have hepc : E.epc = x.pc := by rw [hE]; rfl
      have him : E.imprecise = false := by rw [hE]; rfl
      have hca : E.cause * 2 ^ 64 + b2n E.imprecise * 2 ^ 61 = cEVENT * 2 ^ 64 := by
        rw [hcau, him, show b2n false = 0 from rfl, Nat.zero_mul, Nat.add_zero]
      rw [hl, hepc, hca] at h
      unfold saves
      rw [State.onDev_dev, hcc]
      dsimp only
      cases hb : s.dev.ff (ecRt e) EcRt.LVL <;> rw [hb] at h <;> exact h
    · rw [State.onDev_dev, hcc, Cell.enter_pc, hE]; rfl
    · rw [State.onDev_dev, hcc, Cell.enter_pl _ _ hl4, hl]
    · rw [State.onDev_dev, hcc, Cell.enter_ipl _ _ _ _ hEv (Span.get_lt EcRt.PRI _)]
    · rw [State.onDev_dev, hcc, Cell.enter_ie _ _ hl4]
    · rw [State.onDev_dev, hcc, Cell.enter_entry, hEv]; rfl
    · rw [State.onDev_dev, ht]; exact (Dev.noteEvent_cur ..).1
  · obtain ⟨hcc, hck⟩ := Dev.raiseCause_cell s.dev c.val q hab hq
    obtain ⟨E, hE⟩ : ∃ E, E = x.causeEntry q := ⟨_, rfl⟩
    have hl : E.lvl = if x.pl = 2 then 2 else 1 := by rw [hE]; rfl
    have hl4 : E.lvl < 4 := by rw [hl]; split <;> decide
    have hcc : (s.dev.raiseCause c.val).cell c.val = (x.without q).enter E := by rw [hE]; exact hcc
    refine ⟨s.onDev (s.dev.raiseCause c.val), State.next_liveS (t := s.onDev (s.dev.raiseCause c.val)) ha ?_, ⟨rfl, rfl, hck, fun k => ?_⟩, ?_, ?_, ?_, ?_⟩
    · exact (State.ifJudged_of _ _ _ (ite_agree hcal _)).trans (State.pump_open _ _ ((congrArg Cell.closed hcc).trans (Cell.enter_closed ..)))
    · rw [State.onDev_dev, hcc]; exact Cell.enter_reads (x.without q) E k
    · rw [State.onDev_dev, hcc, Cell.enter_held]; rfl
    · have h := Cell.enter_saves (x.without q) E hs (by rw [hE]; rfl) (by rw [hE]; exact hr) (by rw [hE]; exact Nat.lt_trans hcz (by decide))
      have hepc : E.epc = x.pc := by rw [hE]; rfl
      have hca : E.cause * 2 ^ 64 + b2n E.imprecise * 2 ^ 61 = q.cause * 2 ^ 64 + if q.bun + 1 < x.bun then 2 ^ 61 else 0 := by
        have h1 : E.cause = q.cause := by rw [hE]; rfl
        have h2 : E.imprecise = decide (q.bun + 1 < x.bun) := by rw [hE]; rfl
        rw [h1, h2]
        by_cases hi : q.bun + 1 < x.bun
        · rw [if_pos hi, decide_eq_true hi]; rfl
        · rw [if_neg hi, decide_eq_false hi]; rfl
      rw [hl, hepc, hca] at h
      unfold saves
      rw [State.onDev_dev, hcc]
      dsimp only
      by_cases h2 : x.pl = 2
      · rw [decide_eq_true h2, if_pos rfl]
        rwa [if_pos h2, if_pos rfl] at h
      · rw [decide_eq_false h2, if_neg (by decide)]
        rwa [if_neg h2, if_neg (by decide)] at h
    · have hca : E.cause = q.cause := by rw [hE]; rfl
      have hev : E.ev = none := by rw [hE]; rfl
      rw [State.onDev_dev, hcc, Cell.enter_pc, Entry.vector, hev, hca, hl]
      unfold vector
      show (x.evb * 1024 + _) % 2 ^ 36 = _
      congr 2
      by_cases h2 : x.pl = 2
      · rw [if_pos h2, if_pos h2, if_pos rfl]
      · rw [if_neg h2, if_neg h2, if_neg (by decide), Nat.zero_add]
    · rw [State.onDev_dev, hcc, Cell.enter_pl _ _ hl4, hl]
  · have ht := Dev.takeover_of s.dev c.val e n hn he hrun hp
    obtain ⟨⟨hg, hf, hpp⟩, hpc, hent, hdep, hipl, hkeep⟩ := Cell.takenOver_fields x n e (s.dev.fg (ecRt e) EcRt.PRI) (if s.dev.ff (ecRt e) EcRt.LVL then 2 else 1) (Span.get_lt EcRt.PRI _)
    obtain ⟨z, hz⟩ : ∃ z, z = x.takenOver n e (s.dev.fg (ecRt e) EcRt.PRI) (if s.dev.ff (ecRt e) EcRt.LVL then 2 else 1) := ⟨_, rfl⟩
    rw [← hz] at ht hg hf hpp hpc hent hdep hipl hkeep
    have hc : ∀ k, (s.dev.takeover c.val).cell k = (s.dev.putCell c.val z).cell k := fun k => by rw [ht, Dev.noteEvent_cell]
    have hcc : (s.dev.takeover c.val).cell c.val = z := (hc _).trans (Dev.putCell_cell ..)
    refine ⟨s.onDev (s.dev.takeover c.val), State.next_liveS (t := s.onDev (s.dev.takeover c.val)) ha ?_, ⟨rfl, rfl, fun k hk => ?_, fun k => ?_⟩, ?_, ?_, ?_, ?_, fun hpl => ?_, ?_⟩
    · exact State.ifJudged_of _ _ _ (ite_agree hcal _)
    · exact (hc k).trans (Dev.putCell_cell_ne _ _ hk)
    · rw [State.onDev_dev, hcc]; exact ⟨Cell.rg_congr hg k, Cell.rp_congr hpp k, Cell.rf_congr hf k⟩
    · rw [State.onDev_dev, hcc]; exact hpc
    · rw [State.onDev_dev, hcc]; exact hent
    · rw [State.onDev_dev, hcc]; exact hipl
    · rw [State.onDev_dev, hcc]; exact hdep
    · rw [State.onDev_dev, hcc]; exact hkeep ((Cell.pl_eq x).symm.trans hpl)
    · rw [State.onDev_dev, ht]; exact (Dev.noteEvent_cur ..).2

end Sys2Proof.Machine
end

section
/-! Events and their targets: a raise, the doorbell, the routes and DROP (R236, R436, R449, R450, R453, R455). -/

namespace Sys2Proof.Machine

open Sys2Proof

/-- The pending bits after one is set. -/
theorem Dev.isPend_setPend (d : Dev) {e e' c c' : Nat} (he : e < 256) (he' : e' < 256) :
    (d.setPend e c').isPend e' c = (d.isPend e' c || decide (e' = e ∧ c = c')) := by
  unfold Dev.isPend Dev.setPend Dev.latch Dev.fp Dev.fg
  by_cases hk : ecPend c (e' / 32) = ecPend c' (e / 32)
  · have h1 : c = c' ∧ e' / 32 = e / 32 := by unfold ecPend at hk; omega
    obtain ⟨rfl, hq⟩ := h1
    have he32 : e' % 32 = e % 32 ↔ e' = e := by omega
    rw [hq, Dev.rd_wr_self, Span.get_put_self _ _ _ (by decide), Nat.testBit_mod_two_pow, Nat.testBit_or, Nat.testBit_two_pow]
    have hw : e' % 32 < EcPend.PEND.width := Nat.mod_lt _ (by decide)
    simp only [hw, decide_true, Bool.true_and, and_true]
    rw [show decide (e % 32 = e' % 32) = decide (e' = e) from decide_eq_decide.2 (eq_comm.trans he32)]
  · have h1 : ¬ (e' = e ∧ c = c') := fun h => hk (by rw [h.1, h.2])
    rw [Dev.rd_wr_ne _ _ hk, decide_eq_false h1, Bool.or_false]

theorem Dev.isPend_setPends (e e' c : Nat) (he : e < 256) (he' : e' < 256) : ∀ (l : List Nat) (d : Dev),
    (l.foldl (fun d c => d.setPend e c) d).isPend e' c = (d.isPend e' c || decide (e' = e ∧ c ∈ l)) := by
  intro l
  induction l with
  | nil => simp
  | cons a l ih =>
    intro d
    rw [List.foldl_cons, ih, Dev.isPend_setPend d he he', Bool.or_assoc]
    congr 1
    by_cases h : e' = e <;> by_cases ha : c = a <;> simp [h, ha]

theorem Dev.mem_eventTargets (d : Dev) (e c : Nat) : c ∈ d.eventTargets e ↔ d.ff (ecRt e) EcRt.EN = true ∧
    if d.ff (ecRt e) EcRt.MODE then c < 64 ∧ d.takesEvents c = true ∧ d.lead c = c ∧ (d.cell c).part = d.fg (ecRt e) EcRt.TGT
    else (d.takesEvents (d.fg (ecRt e) EcRt.TGT) = true ∨ d.joining (d.fg (ecRt e) EcRt.TGT) = true) ∧ c = d.lead (d.fg (ecRt e) EcRt.TGT) := by
  unfold Dev.eventTargets
  cases d.ff (ecRt e) EcRt.EN
  · simp
  cases d.ff (ecRt e) EcRt.MODE
  · simp only [if_true, Bool.false_eq_true, if_false, true_and]
    by_cases ht : d.takesEvents (d.fg (ecRt e) EcRt.TGT) = true ∨ d.joining (d.fg (ecRt e) EcRt.TGT) = true
    · rw [if_pos (by simpa using ht), List.mem_singleton]; exact ⟨fun h => ⟨ht, h⟩, And.right⟩
    · rw [if_neg (by simpa using ht)]; exact iff_of_false List.not_mem_nil fun h => ht h.1
  · simp only [if_true, true_and, List.mem_filter, List.mem_range, Bool.and_eq_true, decide_eq_true_eq]

/-! ### The registers of the event block -/

theorem Dev.regWrite_event (d : Dev) (who : Requester) {o : Nat} (ho : o < 0x10000) (key : Nat) (new v : Word) :
    d.regWrite who (0x010000 + o) key new v = d.wrEvent who (0x010000 + o) key new v := by
  have h1 : (0x010000 + o) / 0x10000 = 1 := by omega
  simp only [Dev.regWrite, h1]

theorem regDesc_event {o : Nat} (ho : o < 0x10000) : regDesc (0x010000 + o) = descEvent o := by
  have h1 : (0x010000 + o) % 0x1000000 / 0x10000 = 1 := by omega
  have h2 : (0x010000 + o) % 0x1000000 % 0x10000 = o := by omega
  simp only [regDesc, h1, h2]

/-- A write of a register of the event block without locked fields, whose own effect is `x`. -/
theorem State.rowWrite_event (s : State) (who : Requester) {o : Nat} (ho : o < 0x10000) (v : Half) (h : s.reaches who (0x010000 + o) = true)
    (hw : (descEvent o).wide = false) (hl : (descEvent o).mask (fun a => a == .rwl) = 0) {x : Bool × Dev}
    (hx : ∀ new, s.dev.wrEvent who (0x010000 + o) (s.dev.ioKey who (0x010000 + o)) new (ofHalf v &&& 0xFFFFFFFFF) = x) :
    s.rowWrite who (0x010000 + o) v = s.wrote (0x010000 + o) x.1 x.2 :=
  State.rowWrite_eff s who _ v _ h (regDesc_event ho) hw hl (by simp only [fcRec, bCtl, btCmd, ssCmd, ssCfg]; omega) (.inl (by omega))
    ((Dev.regWrite_event _ _ ho ..).trans (hx _))

/-- The doorbell rings for each written bit, above U (R453). -/
theorem Dev.wrEvent_ring (d : Dev) (who : Requester) (key : Nat) (new v : Word) : d.wrEvent who ecDb key new v =
    if d.ioPl who = 0 then (true, d) else (false, (bitsOf (EcDb.RING.get v) 8).foldl (fun d k => d.raise (236 + k)) d) := by
  unfold Dev.wrEvent
  dsimp only
  rw [if_neg (by decide), if_pos rfl]
  by_cases h : d.ioPl who = 0
  · rw [if_pos h, if_pos (decide_eq_true h)]
  · rw [if_neg h, if_neg (by simp [h])]

/-- DROP discards the held causes of the issuer's cell, above U (R436). -/
theorem Dev.wrEvent_drop (d : Dev) (who : Requester) (key : Nat) (new v : Word) (hv : EcXctl.DROP.get v ≠ 0) : d.wrEvent who 0x010803 key new v =
    if d.ioPl who = 0 then (true, d) else (false, d.dropHeld (d.ioCell who)) := by
  unfold Dev.wrEvent
  dsimp only
  rw [if_neg (by decide), if_neg (by decide), if_neg (by decide), if_pos rfl, if_pos hv]
  by_cases h : d.ioPl who = 0
  · rw [if_pos h, if_pos (decide_eq_true h)]
  · rw [if_neg h, if_neg (by simp [h])]

/-- A route is in force as its write completes (R450). -/
theorem Dev.wrEvent_route (d : Dev) (who : Requester) {e : Nat} (he : e < 256) (key : Nat) (new v : Word) :
    d.wrEvent who (0x010000 + e) key new v = (false, (d.wr key new).relevel e) := by
  unfold Dev.wrEvent
  dsimp only
  rw [if_neg (by omega), if_neg (by unfold ecDb; omega), if_neg (by omega), if_neg (by omega), if_pos (by omega), Nat.add_sub_cancel_left]

theorem Dev.ioKey_route (d : Dev) (who : Requester) {e : Nat} (he : e < 256) : d.ioKey who (0x010000 + e) = 0x010000 + e := by
  unfold Dev.ioKey perCell
  rw [if_neg (by simp; omega), if_neg (by omega), if_neg (by omega)]

/-- Settles O47: the pending bits of a raise, its targets, and the writes of the doorbell, of a route and of DROP. -/
theorem eventsReachTheirTargets : Obligations.EventsReachTheirTargets := by
  refine ⟨fun d e e' c => (Dev.isPend_setPends _ _ _ e.isLt e'.isLt _ d).trans (congrArg _ (decide_eq_decide.2 (and_congr_left' Fin.ext_iff.symm))), fun d e c => Dev.mem_eventTargets d e.val c, fun s who mask h => ?_,
    fun s who e v h => ?_, fun s who h => ?_⟩
  · have hv : EcDb.RING.get (ofHalf (withField EcDb.RING mask.toNat 0) &&& 0xFFFFFFFFF) = mask.toNat :=
      (get_withField _ _ _ (by decide)).trans (Nat.mod_eq_of_lt mask.isLt)
    have hrow := State.rowWrite_event s who (o := 0x200) (by decide) (withField EcDb.RING mask.toNat 0) h (by decide) (by decide)
      (fun new => Dev.wrEvent_ring s.dev who _ new _)
    rw [hv] at hrow
    refine congrArg Host.Outcome.next (hrow.trans ?_)
    by_cases hl : s.dev.ioPl who = 0
    · rw [if_pos hl, if_pos hl]; rfl
    · rw [if_neg hl, if_neg hl]; rfl
  · have hw : (regDesc (0x010000 + e.val)).wide = false := by
      rw [regDesc_event (by omega)]
      unfold descEvent
      rw [if_pos e.isLt]; rfl
    have hrow := State.rowWrite_dev s who (0x010000 + e.val) v h hw
      (fun k n w => State.regWrite_dev _ _ _ _ _ _ (by simp only [fcRec, bCtl, btCmd, ssCmd, ssCfg]; omega) (.inl (by omega)))
    rw [Dev.regWrite_event _ _ (by omega), Dev.wrEvent_route _ _ e.isLt, Dev.ioKey_route _ _ e.isLt] at hrow
    exact congrArg Host.Outcome.next (hrow.trans (congrArg (fun b => s.wrote _ b _) (Bool.false_or _)))
  · have hv : EcXctl.DROP.get (ofHalf (withField EcXctl.DROP 1 0) &&& 0xFFFFFFFFF) ≠ 0 := by
      rw [get_withField _ _ _ (by decide)]; decide
    have hrow := State.rowWrite_event s who (o := 0x803) (by decide) (withField EcXctl.DROP 1 0) h (by decide) (by decide)
      (fun new => Dev.wrEvent_drop s.dev who _ new _ hv)
    refine congrArg Host.Outcome.next (hrow.trans ?_)
    by_cases hl : s.dev.ioPl who = 0
    · rw [if_pos hl, if_pos hl]
    · rw [if_neg hl, if_neg hl]

end Sys2Proof.Machine
end

section
/-! Loads and stores as they issue (R349, R389, R390, R412, R422): the address, and what joins the loads or the store buffer. -/

namespace Sys2Proof.Machine

open Sys2Proof

theorem State.issuedOn_congr (s : State) (c n : Nat) (f f' : Cell → Cell) (g : Dev → Dev)
    (h : f { s.dev.cell c with pc := opAdd (s.dev.cell c).pc n, bun := (s.dev.cell c).bun + 1 } =
      f' { s.dev.cell c with pc := opAdd (s.dev.cell c).pc n, bun := (s.dev.cell c).bun + 1 }) : s.issuedOn c n f g = s.issuedOn c n f' g := by
  unfold State.issuedOn; simp only [h]

/-! ### The address of an access (R389, R390) -/

theorem Cell.dataOf_word (x : Cell) (o : Op) (imm : BitVec 14) (k : Nat) (hi : o.imm = imm.toNat)
    (hk : (∃ sg, o.k = .ld .word sg ∧ k = 0) ∨ (o.k = .st .word ∧ k = 1)) :
    x.dataOf o = some (k, ((((x.rg o.s1).toNat : Int) + imm.toInt) % 2 ^ 36).toNat) := by
  rw [← addr36_sx (by decide) (x.rg o.s1) imm, ← hi]
  rcases hk with ⟨sg, hk, rfl⟩ | ⟨hk, rfl⟩ <;> rw [Cell.dataOf, hk]

theorem Cell.dataOf_part (x : Cell) (o : Op) (w : Wid) (woff : BitVec 10) (j : Fin 16) (k : Nat) (hi : o.imm = woff.toNat * 16 + j.val) (hw : w ≠ .word)
    (hk : (∃ sg, o.k = .ld w sg ∧ k = 0) ∨ (o.k = .st w ∧ k = 1)) :
    x.dataOf o = some (k, ((((x.rg o.s1).toNat : Int) + woff.toInt) % 2 ^ 36).toNat) := by
  have hq : o.imm / 16 = woff.toNat := by omega
  rw [← addr36_sx (by decide) (x.rg o.s1) woff, ← hq]
  rcases hk with ⟨sg, hk, rfl⟩ | ⟨hk, rfl⟩
  · cases w with
    | word => exact absurd rfl hw
    | _ => rw [Cell.dataOf, hk]
  · cases w with
    | word => exact absurd rfl hw
    | _ => rw [Cell.dataOf, hk]

theorem Cell.dataOf_index (x : Cell) (o : Op) (sh : Fin 4) (k : Nat) (hi : o.imm = sh.val) (hk : (o.k = .ldx ∧ k = 0) ∨ (o.k = .stx ∧ k = 1)) :
    x.dataOf o = some (k, ((x.rg o.s1).toNat + (x.rg o.s2).toNat * 2 ^ sh.val) % 2 ^ 36) := by
  have hq : o.imm % 4 = sh.val := by omega
  rw [← hq]
  rcases hk with ⟨hk, rfl⟩ | ⟨hk, rfl⟩ <;> rw [Cell.dataOf, hk]

/-- The place that a part access names. -/
theorem Wid.withK_of (woff : BitVec 10) (k : Fin 16) : (Wid.octet 0).withK (woff.toNat * 16 + k.val) = .octet k.val ∧
    (Wid.quarter 0).withK (woff.toNat * 16 + k.val) = .quarter k.val ∧ (Wid.half 0).withK (woff.toNat * 16 + k.val) = .half k.val := by
  have h : (woff.toNat * 16 + k.val) % 16 = k.val := by omega
  refine ⟨?_, ?_, ?_⟩ <;> rw [Wid.withK, h]

/-! ### What joins the cell's accesses -/

/-- A load of the own SRAM with its word, due two bundles on. -/
def LoadE.near (y : Cell) (va : Nat) (w : Wid) (sg : Bool) (d : Nat) (r : Word × Bool × State) : LoadE :=
  { addr := va, io := false, wid := w, sgn := sg, d := d, due := y.bun + 2, bun := y.bun - 1, depth := y.depth, pl := y.pl, known := some r.1,
    poison := r.2.1, sent := true, ord := 3, seq := y.seq }

/-- A load that goes to another target. -/
def State.farLoad (s : State) (c : Nat) (y : Cell) (va : Nat) (w : Wid) (sg : Bool) (d : Nat) (a : Attr) : LoadE :=
  { addr := va, io := false, wid := w, sgn := sg, d := d, due := y.bun - 1 + (if (s.dev.orderOf c va).2 then 5 else s.dev.loadLatency c va), bun := y.bun - 1,
    depth := y.depth, pl := y.pl, sent := true, fly := some s.dev.reqId, ord := (s.dev.orderOf c va).1, cache := (s.dev.orderOf c va).2,
    attr := some a.entry, seq := y.seq }

/-- A store with the value that it writes. -/
def State.storeOf (s : State) (c : Nat) (y : Cell) (va : Nat) (w : Wid) (d : Nat) : StoreE :=
  { addr := va, wid := w, val := (s.dev.cell c).rg d, bun := y.bun - 1, depth := y.depth, pl := y.pl, ord := (s.dev.orderOf c va).1,
    cache := (s.dev.orderOf c va).2 && (match (s.dev.cell c).attrAt va with | some e => e.wa | none => false), seq := y.seq }

section
variable {s : State} {h : OpHdr} (ht : s.takes h)
include ht

theorem State.takes_empty : (s.dev.cell h.cell.val).loads = [] ∧ (s.dev.cell h.cell.val).stores = [] := by
  obtain ⟨h1, h2, h3, h4, h5, h6, h7, h8, h9, h10, h11, h12, h13, h14, h15, h16, h17, h18, h19, h20, h21, h22, h23, h24, h25⟩ :=
    (Cell.idle_iff _).1 ((State.ready_iff s _).1 ht.1).2.2.1
  exact ⟨h5, h6⟩

theorem State.takes_load_near (o : Op) {w : Wid} {sg : Bool} {va : Nat} {a : Attr} (ho : o.loads w sg) (hd : (s.dev.cell h.cell.val).dataOf o = some (0, va))
    (hperm : (s.dev.ask (s.dev.dataReq h.cell.val (s.dev.cell h.cell.val).pl .read va false)).1 = .permit a) (hva : va < 0x4000) :
    s.rowOp h o = s.issuedOn h.cell.val 1 (fun y => { y with loads := [LoadE.near y va w sg o.d (s.memWord (aliasOf h.cell.val + va))], seq := y.seq + 1 })
      fun _ => (s.memWord (aliasOf h.cell.val + va)).2.2.dev := by
  obtain ⟨hr, he, hp⟩ := ht
  have hb : busAddr h.cell.val va = aliasOf h.cell.val + va := if_pos hva
  refine ((State.rowOp_load_own s h hr he hp o w sg va a ho hd hva hperm).trans ?_)
  rw [hb]
  refine State.issuedOn_congr _ _ _ _ _ _ ?_
  dsimp only
  rw [(State.takes_empty ⟨hr, he, hp⟩).1]
  rfl

theorem State.takes_load_far (o : Op) {w : Wid} {sg : Bool} {va : Nat} {a : Attr} (ho : o.loads w sg) (hd : (s.dev.cell h.cell.val).dataOf o = some (0, va))
    (hperm : (s.dev.ask (s.dev.dataReq h.cell.val (s.dev.cell h.cell.val).pl .read va false)).1 = .permit a) (hva : 0x4000 ≤ va)
    (hmiss : (s.dev.orderOf h.cell.val va).2 = true → (s.dev.cell h.cell.val).hit va = none) :
    s.rowOp h o = s.issuedOn h.cell.val 1 (fun y => { y with loads := [s.farLoad h.cell.val y va w sg o.d a], seq := y.seq + 1 })
      fun d => ((d.touch (if (s.dev.orderOf h.cell.val va).2 then lineOf va else va) (if (s.dev.orderOf h.cell.val va).2 then 8 else 1)).fly (d.sluiceOf va)).2 := by
  obtain ⟨hr, he, hp⟩ := ht
  refine ((State.rowOp_load_far s h hr he hp o w sg va a ho hd hva hperm hmiss).trans ?_)
  refine State.issuedOn_congr _ _ _ _ _ _ ?_
  dsimp only
  rw [(State.takes_empty ⟨hr, he, hp⟩).1]
  rfl

theorem State.takes_store (w : Wid) (d s1 imm : Nat) {va : Nat} (hv : (w.withK imm).valid = true)
    (ha : (s.dev.cell h.cell.val).dataOf { k := .st w, slot := 2, d := d, s1 := s1, imm := imm } = some (1, va)) :
    s.rowOp h { k := .st w, slot := 2, d := d, s1 := s1, imm := imm } =
      s.issued h.cell.val 1 fun y => { y with stores := [s.storeOf h.cell.val y va (w.withK imm) d], seq := y.seq + 1 } := by
  obtain ⟨hr, he, hp⟩ := ht
  refine (State.rowOp_st s h hr he hp w d s1 imm va hv ha).trans (State.issued_congr _ _ _ _ _ ?_)
  dsimp only
  rw [(State.takes_empty ⟨hr, he, hp⟩).2]
  rfl

theorem State.takes_store_index (d s1 s2 sh : Nat) {va : Nat}
    (ha : (s.dev.cell h.cell.val).dataOf { k := .stx, slot := 2, d := d, s1 := s1, s2 := s2, imm := sh } = some (1, va)) :
    s.rowOp h { k := .stx, slot := 2, d := d, s1 := s1, s2 := s2, imm := sh } =
      s.issued h.cell.val 1 fun y => { y with stores := [s.storeOf h.cell.val y va .word d], seq := y.seq + 1 } := by
  obtain ⟨hr, he, hp⟩ := ht
  refine (State.rowOp_stx s h hr he hp d s1 s2 sh va ha).trans (State.issued_congr _ _ _ _ _ ?_)
  dsimp only
  rw [(State.takes_empty ⟨hr, he, hp⟩).2]
  rfl

end

/-- Settles O42: each load by its target, each store by its width. -/
theorem loadsAndStoresIssue : Obligations.LoadsAndStoresIssue := by
  intro s h ht d s1 s2 woff k imm sh a c x adr adx word near oc far asks loads enters stores
  have ld : ∀ (i : Instr) (o : Op) {va : Nat} {w : Wid} {sg : Bool}, exec i s = .next (s.rowOp h o) → o.d = d.val → o.loads w sg → x.dataOf o = some (0, va) →
      loads i va w sg := fun i o va w sg hi hd ho ha hperm => by
    refine ⟨fun hva => hi.trans (congrArg Host.Outcome.next ?_), fun hva hmiss => hi.trans (congrArg Host.Outcome.next ?_)⟩
    · have h1 := State.takes_load_near ht o ho ha hperm hva
      rw [hd] at h1
      exact h1
    · have h1 := State.takes_load_far ht o ho ha hperm hva hmiss
      rw [hd] at h1
      exact h1
  obtain ⟨wo, wq, wh⟩ := Wid.withK_of woff k
  have st : ∀ (i : Instr) (w w' : Wid), w ≠ .word → w.withK (woff.toNat * 16 + k.val) = w' → w'.valid = true →
      exec i s = .next (s.rowOp h { k := .st w, slot := 2, d := d, s1 := s1, imm := woff.toNat * 16 + k.val }) → stores i (adr woff.toInt) w' := by
    intro i w w' hw hk hv hi
    have h1 := State.takes_store ht w d s1 (woff.toNat * 16 + k.val) (by rw [hk]; exact hv) (Cell.dataOf_part x _ w woff k 1 rfl hw (.inr ⟨rfl, rfl⟩))
    rw [hk] at h1
    exact hi.trans (congrArg Host.Outcome.next h1)
  have ldp : ∀ (i : Instr) (w w' : Wid) (sg : Bool), w ≠ .word → w.withK (woff.toNat * 16 + k.val) = w' → w'.valid = true →
      exec i s = .next (s.rowOp h { k := .ld w sg, slot := 2, d := d, s1 := s1, imm := woff.toNat * 16 + k.val }) → loads i (adr woff.toInt) w' sg := by
    intro i w w' sg hw hk hv hi
    exact ld i { k := .ld w sg, slot := 2, d := d, s1 := s1, imm := woff.toNat * 16 + k.val } hi rfl (.inl ⟨w, rfl, hk.symm, hv⟩)
      (Cell.dataOf_part x _ w woff k 0 rfl hw (.inl ⟨sg, rfl, rfl⟩))
  refine ⟨?_, ?_, ?_, ?_, fun hk => ⟨?_, ?_, ?_⟩, fun hk => ⟨?_, ?_, ?_⟩, fun hk => ⟨?_, ?_, ?_⟩⟩
  · exact ld _ { k := .ld .word false, slot := 2, d := d, s1 := s1, imm := imm.toNat } rfl rfl (.inl ⟨.word, rfl, rfl, rfl⟩)
      (Cell.dataOf_word x _ imm 0 rfl (.inl ⟨false, rfl, rfl⟩))
  · exact ld _ { k := .ldx, slot := 2, d := d, s1 := s1, s2 := s2, imm := sh } rfl rfl (.inr ⟨rfl, rfl, rfl⟩) (Cell.dataOf_index x _ sh 0 rfl (.inl ⟨rfl, rfl⟩))
  · exact congrArg Host.Outcome.next (State.takes_store ht .word d s1 imm.toNat rfl (Cell.dataOf_word x _ imm 1 rfl (.inr ⟨rfl, rfl⟩)))
  · exact congrArg Host.Outcome.next (State.takes_store_index ht d s1 s2 sh (Cell.dataOf_index x _ sh 1 rfl (.inr ⟨rfl, rfl⟩)))
  · exact ldp _ (.octet 0) _ _ (by decide) wo (decide_eq_true hk) rfl
  · exact ldp _ (.octet 0) _ _ (by decide) wo (decide_eq_true hk) rfl
  · exact st _ (.octet 0) _ (by decide) wo (decide_eq_true hk) rfl
  · exact ldp _ (.quarter 0) _ _ (by decide) wq (decide_eq_true hk) rfl
  · exact ldp _ (.quarter 0) _ _ (by decide) wq (decide_eq_true hk) rfl
  · exact st _ (.quarter 0) _ (by decide) wq (decide_eq_true hk) rfl
  · exact ldp _ (.half 0) _ _ (by decide) wh (decide_eq_true hk) rfl
  · exact ldp _ (.half 0) _ _ (by decide) wh (decide_eq_true hk) rfl
  · exact st _ (.half 0) _ (by decide) wh (decide_eq_true hk) rfl

end Sys2Proof.Machine
end

section
/-! Words that reach a requester (R37, R38, R478): what their checks leave of the machine, and that a permitted request does not see it. -/

namespace Sys2Proof.Machine

open Sys2Proof

/-- `t` is `s` but for the bits that have flipped in its memories and the fault sources that pulsed. -/
def State.Reads (s t : State) : Prop :=
  t.pending = s.pending ∧ (∀ a, t.mem.rd a = s.mem.rd a) ∧ ∃ p r, t.dev = { s.dev with pulse := p, rsFlips := r }

theorem State.Reads.refl (s : State) : s.Reads s := ⟨rfl, fun _ => rfl, _, _, rfl⟩

theorem State.Reads.trans {s t u : State} (h : s.Reads t) (k : t.Reads u) : s.Reads u := by
  obtain ⟨hp, hm, p, r, hd⟩ := h
  obtain ⟨kp, km, p', r', kd⟩ := k
  exact ⟨kp.trans hp, fun a => (km a).trans (hm a), p', r', by rw [kd, hd]⟩

theorem State.Reads.cell {s t : State} (h : s.Reads t) (k : Nat) : t.dev.cell k = s.dev.cell k := by
  obtain ⟨-, -, p, r, hd⟩ := h
  rw [hd]; rfl

theorem Dev.found_reads (d : Dev) (e k u : Nat) : ∃ p, d.found e k u = { d with pulse := p } := by
  unfold Dev.found
  split
  · exact ⟨_, rfl⟩
  · exact ⟨_, rfl⟩
  · exact ⟨_, rfl⟩

theorem State.reads_found (s : State) (e k u : Nat) : s.Reads { s with dev := s.dev.found e k u } := by
  obtain ⟨p, hp⟩ := Dev.found_reads s.dev e k u
  exact ⟨rfl, fun _ => rfl, p, s.dev.rsFlips, hp⟩

theorem State.strike_reads (s : State) (a : Nat) (f : BitVec 80) : s.Reads (s.strike a f) := by
  unfold State.strike
  split
  · exact .refl s
  · split
    · exact ⟨rfl, fun _ => rfl, _, _, rfl⟩
    · exact ⟨rfl, fun _ => rfl, _, _, rfl⟩

theorem State.memWord_reads (s : State) (a : Nat) : s.Reads (s.memWord a).2.2 := State.reads_found ..

theorem State.takeWord_reads (s : State) (a : Nat) (p : Option Nat) (f : BitVec 80) : s.Reads (s.takeWord a p f).2.2 := by
  unfold State.takeWord
  cases p with
  | none => exact State.memWord_reads s a
  | some q =>
    dsimp only
    split
    · exact State.memWord_reads s a
    · exact (State.memWord_reads s a).trans (State.reads_found ..)

theorem State.takeWords_reads (s : State) (a n : Nat) (p : Option Nat) (f : Flips) : s.Reads (s.takeWords a n p f).2.2 := by
  unfold State.takeWords
  suffices h : ∀ (l : List Nat) (q : List Word × Nat × State), q.2.2.Reads (l.foldl (fun r k =>
      let q := (r.2.2.strike (a + k) (flipOn f f.mem k)).takeWord (a + k) p (flipOn f f.path k)
      (r.1 ++ [q.1], if q.2.1 then r.2.1 + 2 ^ k else r.2.1, q.2.2)) q).2.2 from h _ ([], 0, s)
  intro l
  induction l with
  | nil => exact fun q => .refl _
  | cons k l ih => exact fun q => ((State.strike_reads ..).trans (State.takeWord_reads ..)).trans (ih _)

theorem State.cellWords_reads (s : State) (c a n : Nat) (fl : Flips) : s.Reads (s.cellWords c a n fl).2.2 := State.takeWords_reads ..

/-- A permitted request changes nothing. -/
theorem Dev.ask_permit {d : Dev} {r : Req} {a : Attr} (h : (d.ask r).1 = .permit a) : d.ask r = (.permit a, d) := by
  unfold Dev.ask at h ⊢
  split at h
  · split at h <;> nomatch h
  · split at h
    · next q hq => rw [show q = a from Gate.permit.inj h]
    · nomatch h
    · split at h <;> nomatch h

/-- The sluices do not see pulses and flipped bits. -/
theorem Dev.ask_reads {d : Dev} {r : Req} {a : Attr} (p : Tab Nat) (q : Tab (BitVec 80)) (h : (d.ask r).1 = .permit a) :
    ({ d with pulse := p, rsFlips := q } : Dev).ask r = (.permit a, { d with pulse := p, rsFlips := q }) := by
  refine Dev.ask_permit ?_
  have hg : ∀ s, ({ d with pulse := p, rsFlips := q } : Dev).gate s r = d.gate s r := fun s => rfl
  have ht : ({ d with pulse := p, rsFlips := q } : Dev).targetOf r.addr = d.targetOf r.addr := rfl
  unfold Dev.ask at h ⊢
  rw [ht]
  split at h
  · split at h <;> nomatch h
  · next t ht =>
    rw [hg]
    split at h
    · next q hq => exact h
    · nomatch h
    · split at h <;> nomatch h

end Sys2Proof.Machine
end

section
/-! The block ops (R370, R392-R396): how they begin, and what a word step leaves in their cell. -/

namespace Sys2Proof.Machine

open Sys2Proof

/-! ### A step's own accesses, in the own SRAM (R393, R395, R423) -/

/-- `t` is `s` but that cell `c` is now `y`, and for the registers and checks that no cell shows. -/
def State.CellTo (s t : State) (c : Nat) (y : Cell) : Prop :=
  t.pending = s.pending ∧ (∀ a, t.mem.rd a = s.mem.rd a) ∧ t.dev.cell c = y ∧ ∀ k ≠ c, t.dev.cell k = s.dev.cell k

theorem State.CellTo.put {s t : State} {c : Nat} {x : Cell} (h : s.CellTo t c x) (y : Cell) : s.CellTo (t.onDev (t.dev.putCell c y)) c y := by
  obtain ⟨hp, hm, -, hk⟩ := h
  exact ⟨hp, hm, Dev.putCell_cell .., fun k hc => (Dev.putCell_cell_ne _ _ hc).trans (hk k hc)⟩

theorem State.Reads.cellTo {s t : State} (h : s.Reads t) (c : Nat) : s.CellTo t c (s.dev.cell c) :=
  ⟨h.1, h.2.1, h.cell c, fun k _ => h.cell k⟩

/-- The cell of a block op that steps: no wait, no branch, no access on its way. -/
structure Cell.Stepping (x : Cell) : Prop where
  wait : x.wait = .none
  closed : x.closed = false
  delay : x.delay = none
  loads : x.loads = []

theorem Cell.Stepping.wg {x : Cell} (h : x.Stepping) (r : Nat) (v : Word) : (x.wg r v).Stepping := by
  unfold Cell.wg
  split
  · exact h
  · exact ⟨h.wait, h.closed, h.delay, h.loads⟩

theorem targetOf_low (d : Dev) {p : Nat} (hp : p < 0x4000) : d.targetOf p = none := by
  unfold Dev.targetOf dramBase
  rw [if_neg (by omega), if_neg (by omega), if_neg (by omega), if_neg (by omega), if_neg (by omega)]

theorem stepAddr_low (d : Dev) (c acc : Nat) {p : Nat} (hp : p < 0x4000) : d.stepAddr c acc p = .ok p := by
  unfold Dev.stepAddr Cell.translate
  rw [if_pos (by exact hp)]

theorem clearTo_low (d : Dev) (c : Nat) {p : Nat} (hp : p < 0x4000) (l : List (Nat × Nat)) : d.clearTo c p l = true := by
  have h : ∀ b, d.samePort c b p = false := fun b => by
    unfold Dev.samePort Dev.onDitch
    rw [decide_eq_false (fun h => absurd h.1 (by omega) : ¬ (0x4000 ≤ p ∧ _)), Bool.and_false, Bool.false_and]
  simp [Dev.clearTo, h]

theorem Dev.orderOf_low (d : Dev) (c : Nat) {p : Nat} (hp : p < 0x4000) : d.orderOf c p = (3, false) := if_pos hp

/-- A step reads a word of the own SRAM that its sluice permits. -/
theorem State.stepRead_near (s : State) (c : Nat) {p : Nat} {q : Attr} (fl : Flips) (hp : p < 0x4000) (hl : (s.dev.cell c).loads = []) (hs : (s.dev.cell c).stores = [])
    (hq : (s.dev.ask (s.dev.dataReq c (s.dev.cell c).pl .read p false)).1 = .permit q) (hg : (s.cellWords c p 1 fl).2.1.testBit 0 = false) :
    s.stepRead c p fl = .ok ((s.cellWords c p 1 fl).1.getD 0 0, (s.cellWords c p 1 fl).2.2) := by
  have hm : (s.dev.cell c).mayIssue 3 = true := by simp [Cell.mayIssue, Cell.strongOut, hl, hs]
  have hf : (s.dev.cell c).forward p .word = .free := by simp [Cell.forward, Cell.overlaps, hs]
  have hr : s.dev.refreshing p = false := decide_eq_false fun h => by rw [targetOf_low s.dev hp] at h; exact nomatch h.1
  have hd : s.dev.dramGone p = false := decide_eq_false fun h => by rw [targetOf_low s.dev hp] at h; exact nomatch h.2
  have ht : ∀ l : LoadE, l.fly = none → s.dev.loadTurn c l = true := fun l hl' => by simp [Dev.loadTurn, hl, hs, hl']
  unfold State.stepRead
  dsimp only
  rw [stepAddr_low _ _ _ hp]
  dsimp only
  rw [Dev.orderOf_low _ _ hp, hm, hf]
  simp only [Bool.not_true, Bool.false_eq_true, if_false]
  rw [ht _ rfl, clearTo_low _ _ hp, hr]
  simp only [Bool.not_true, Bool.or_self, Bool.false_eq_true, if_false]
  rw [Dev.ask_permit hq]
  dsimp only
  rw [if_pos hp, hd]
  simp only [Bool.false_eq_true, if_false, Nat.sub_zero]
  rw [if_neg (by rw [hg]; decide)]

/-- A step writes a word of the own SRAM that its sluice permits: the store joins the buffer. -/
theorem State.stepWrite_near (s : State) (c : Nat) {p : Nat} {q : Attr} (v : Word) (b : BlkE) (hp : p < 0x4000) (hl : (s.dev.cell c).loads = []) (hs : (s.dev.cell c).stores = [])
    (hq : (s.dev.ask (s.dev.dataReq c (s.dev.cell c).pl .write p false)).1 = .permit q) :
    s.stepWrite c p v b = .ok (s.onDev (s.dev.issueStore c p .word v b.bun)) := by
  have hm : (s.dev.cell c).mayIssue 3 = true := by simp [Cell.mayIssue, Cell.strongOut, hl, hs]
  unfold State.stepWrite
  dsimp only
  rw [stepAddr_low _ _ _ hp]
  dsimp only
  rw [Dev.orderOf_low _ _ hp, hm, hs, if_neg (by simp), Dev.ask_permit hq]
  rfl

/-- The cell with the store of a step in its store buffer. -/
def Cell.puts (x : Cell) (p : Nat) (v : Word) (bun : Nat) : Cell :=
  { x with stores := [{ addr := p, wid := .word, val := v, bun := bun, depth := x.depth, pl := x.pl, ord := 3, cache := false, seq := x.seq }], seq := x.seq + 1 }

theorem State.CellTo.store {s t : State} {c : Nat} {x : Cell} (h : s.CellTo t c x) {p : Nat} (hp : p < 0x4000) (hs : x.stores = []) (v : Word) (bun : Nat) :
    s.CellTo (t.onDev (t.dev.issueStore c p .word v bun)) c (x.puts p v bun) := by
  have hx := h.2.2.1
  have e : t.dev.issueStore c p .word v bun = t.dev.putCell c (x.puts p v bun) := by
    unfold Dev.issueStore Cell.puts
    dsimp only
    rw [Dev.orderOf_low _ _ hp, hx, hs]
    rfl
  rw [e]
  exact h.put _

/-! ### The progress of an op and its end (R392, R393) -/

theorem Cell.advance_next (x : Cell) (b len : Nat) (hd : x.delay = none) : x.advance b len none false = { x with pc := opAdd b len } := by
  unfold Cell.advance
  dsimp only
  split
  · next h => rw [hd] at h; nomatch h
  · rfl

/-- The cell whose block op has ended. -/
def Cell.blkEnds (x : Cell) (b : BlkE) : Cell := { x with blk := none, pc := (b.b + b.len) % 2 ^ 36 }

theorem State.CellTo.blockEnd {s t : State} {c : Nat} {x : Cell} (h : s.CellTo t c x) (hx : x.Stepping) (b : BlkE) (hd : b.dly = none) (hl : b.lend = false)
    (ht : b.trap = none) : s.CellTo (t.blockEnd c b) c (x.blkEnds b) := by
  obtain ⟨hp, hm, hc, hk⟩ := h
  have e : t.blockEnd c b = t.onDev ((t.dev.putCell c (x.blkEnds b)).countBundle c) := by
    have ha : (({ x with blk := none } : Cell).advance b.b b.len b.dly b.lend).trap b.trap = x.blkEnds b := by
      rw [hd, hl, ht]
      exact Cell.advance_next _ _ _ hx.delay
    unfold State.blockEnd
    dsimp only
    rw [hc]
    split
    · next h => rw [hx.wait] at h; nomatch h
    · rw [ha]
      refine State.pump_open _ _ ?_
      dsimp only
      unfold Dev.countBundle
      rw [Dev.wr_cell, Dev.putCell_cell]
      exact hx.closed
  rw [e]
  refine ⟨(State.onDev_pending ..).trans hp, fun a => by rw [State.onDev_mem]; exact hm a, ?_, fun k hkc => ?_⟩
  · rw [State.onDev_dev]
    unfold Dev.countBundle
    rw [Dev.wr_cell, Dev.putCell_cell]
  · rw [State.onDev_dev]
    unfold Dev.countBundle
    rw [Dev.wr_cell, Dev.putCell_cell_ne _ _ hkc, hk k hkc]

/-- The cell of an op that has moved on by a word, `y` with its registers written, and ends with its count. -/
def Cell.moves (y : Cell) (b : BlkE) (vd v1 : Word) : Cell :=
  let n := b.v2.toNat % 2 ^ 36
  let z : Cell := { y with blk := some { b with vd := vd, v1 := v1, v2 := BitVec.ofNat 72 ((n + 2 ^ 36 - 1) % 2 ^ 36) } }
  if n = 1 then z.blkEnds b else z

/-- A register written, where the op changes it. -/
def Cell.putOpt (x : Cell) (r : Nat) (v : Option Word) : Cell := match v with | some w => x.wg r w | none => x

theorem Cell.Stepping.putOpt {x : Cell} (h : x.Stepping) (r : Nat) (v : Option Word) : (x.putOpt r v).Stepping := by
  cases v with
  | none => exact h
  | some w => exact h.wg r w

theorem State.CellTo.stepDone {s t : State} {c : Nat} {x : Cell} (h : s.CellTo t c x) (hx : x.Stepping) (b : BlkE) (nd n1 : Option Word) (hd : b.dly = none)
    (hl : b.lend = false) (ht : b.trap = none) (hn : b.v2.toNat % 2 ^ 36 ≠ 0) :
    s.CellTo (t.stepDone c b nd n1) c ((((x.putOpt b.d nd).putOpt b.s1 n1).wg b.s2 (BitVec.ofNat 72 ((b.v2.toNat % 2 ^ 36 + 2 ^ 36 - 1) % 2 ^ 36))).moves b
      (nd.getD b.vd) (n1.getD b.v1)) := by
  have hw : w36 (b.v2.toNat % 2 ^ 36 - 1) = BitVec.ofNat 72 ((b.v2.toNat % 2 ^ 36 + 2 ^ 36 - 1) % 2 ^ 36) := by
    have hm : (b.v2.toNat % 2 ^ 36 - 1) % 2 ^ 36 = (b.v2.toNat % 2 ^ 36 + 2 ^ 36 - 1) % 2 ^ 36 := by omega
    rw [w36, hm]
  have hz : BitVec.ofNat 72 ((b.v2.toNat % 2 ^ 36 + 2 ^ 36 - 1) % 2 ^ 36) = 0 ↔ b.v2.toNat % 2 ^ 36 = 1 := by
    rw [← BitVec.toNat_inj, BitVec.toNat_ofNat]
    show _ = 0 ↔ _
    omega
  have hz' : (BitVec.ofNat 72 ((b.v2.toNat % 2 ^ 36 + 2 ^ 36 - 1) % 2 ^ 36)).toNat % 2 ^ 36 = b.v2.toNat % 2 ^ 36 - 1 := by
    rw [BitVec.toNat_ofNat]; omega
  have hstep := ((hx.putOpt b.d nd).putOpt b.s1 n1).wg b.s2 (BitVec.ofNat 72 ((b.v2.toNat % 2 ^ 36 + 2 ^ 36 - 1) % 2 ^ 36))
  unfold State.stepDone Cell.moves
  dsimp only
  rw [hw, h.2.2.1]
  generalize BitVec.ofNat 72 ((b.v2.toNat % 2 ^ 36 + 2 ^ 36 - 1) % 2 ^ 36) = n2 at *
  have hput : s.CellTo _ c _ := h.put { (((x.putOpt b.d nd).putOpt b.s1 n1).wg b.s2 n2) with blk := some { b with vd := nd.getD b.vd, v1 := n1.getD b.v1, v2 := n2 } }
  by_cases h1 : b.v2.toNat % 2 ^ 36 = 1
  · rw [if_pos (hz.2 h1), if_pos h1]
    exact hput.blockEnd ⟨hstep.wait, hstep.closed, hstep.delay, hstep.loads⟩ { b with vd := nd.getD b.vd, v1 := n1.getD b.v1, v2 := n2 } hd hl ht
  · rw [if_neg (mt hz.1 h1), if_neg h1]
    exact hput

theorem State.Reads.asks {s t : State} (h : s.Reads t) {c pl p : Nat} {k : Kind} {q : Attr}
    (hq : (s.dev.ask (s.dev.dataReq c pl k p false)).1 = .permit q) : (t.dev.ask (t.dev.dataReq c pl k p false)).1 = .permit q := by
  obtain ⟨-, -, pu, r, hd⟩ := h
  rw [hd]
  exact congrArg Prod.fst (Dev.ask_reads pu r hq)

/-! ### One word of each op -/

section
variable {s : State} {c : Nat} {b : BlkE} {fl flD : Flips} (hx : (s.dev.cell c).Stepping) (hs : (s.dev.cell c).stores = []) (hd : b.dly = none)
  (hl : b.lend = false) (ht : b.trap = none) (hn : b.v2.toNat % 2 ^ 36 ≠ 0)
include hx hs hd hl ht hn

/-- A copied word: read, stored, and the registers moved. -/
theorem State.copies {a t : Nat} {q q' : Attr} (ha : a < 0x4000) (htt : t < 0x4000)
    (hq : (s.dev.ask (s.dev.dataReq c (s.dev.cell c).pl .read a false)).1 = .permit q)
    (hq' : (s.dev.ask (s.dev.dataReq c (s.dev.cell c).pl .write t false)).1 = .permit q') (hg : (s.cellWords c a 1 fl).2.1.testBit 0 = false) (nd n1 : Word) :
    ∃ u, (match s.stepRead c a fl with
      | .error s1 => s1
      | .ok (v, s1) => match s1.stepWrite c t v b with
        | .error s2 => s2
        | .ok s2 => s2.stepDone c b (some nd) (some n1)) = u ∧
      s.CellTo u c ((((((s.dev.cell c).puts t ((s.cellWords c a 1 fl).1.getD 0 0) b.bun).wg b.d nd).wg b.s1 n1).wg b.s2
        (BitVec.ofNat 72 ((b.v2.toNat % 2 ^ 36 + 2 ^ 36 - 1) % 2 ^ 36))).moves b nd n1) := by
  have hr := State.cellWords_reads s c a 1 fl
  have hc := hr.cell c
  refine ⟨_, rfl, ?_⟩
  rw [State.stepRead_near s c fl ha hx.loads hs hq hg]
  dsimp only
  rw [State.stepWrite_near _ c _ b htt (by rw [hc]; exact hx.loads) (by rw [hc]; exact hs) (by rw [hc]; exact hr.asks hq')]
  dsimp only
  exact ((hr.cellTo c).store htt hs _ b.bun).stepDone ⟨hx.wait, hx.closed, hx.delay, hx.loads⟩ b (some nd) (some n1) hd hl ht hn

/-- A filled word: stored, and the registers moved. -/
theorem State.fills {t : Nat} {q : Attr} (htt : t < 0x4000) (hq : (s.dev.ask (s.dev.dataReq c (s.dev.cell c).pl .write t false)).1 = .permit q) (v nd : Word) :
    ∃ u, (match s.stepWrite c t v b with
      | .error s1 => s1
      | .ok s1 => s1.stepDone c b (some nd) none) = u ∧
      s.CellTo u c (((((s.dev.cell c).puts t v b.bun).wg b.d nd).wg b.s2 (BitVec.ofNat 72 ((b.v2.toNat % 2 ^ 36 + 2 ^ 36 - 1) % 2 ^ 36))).moves b nd b.v1) := by
  refine ⟨_, rfl, ?_⟩
  rw [State.stepWrite_near _ c _ b htt hx.loads hs hq]
  dsimp only
  exact (((State.Reads.refl s).cellTo c).store htt hs _ b.bun).stepDone ⟨hx.wait, hx.closed, hx.delay, hx.loads⟩ b (some nd) none hd hl ht hn

/-- A word that enters a sum: read, and the registers moved. -/
theorem State.sums {a : Nat} {q : Attr} (ha : a < 0x4000) (hq : (s.dev.ask (s.dev.dataReq c (s.dev.cell c).pl .read a false)).1 = .permit q)
    (hg : (s.cellWords c a 1 fl).2.1.testBit 0 = false) (f : Word → Word) (n1 : Word) :
    ∃ u, (match s.stepRead c a fl with
      | .error s1 => s1
      | .ok (v, s1) => s1.stepDone c b (some (f v)) (some n1)) = u ∧
      s.CellTo u c (((((s.dev.cell c).wg b.d (f ((s.cellWords c a 1 fl).1.getD 0 0))).wg b.s1 n1).wg b.s2
        (BitVec.ofNat 72 ((b.v2.toNat % 2 ^ 36 + 2 ^ 36 - 1) % 2 ^ 36))).moves b (f ((s.cellWords c a 1 fl).1.getD 0 0)) n1) := by
  have hr := State.cellWords_reads s c a 1 fl
  refine ⟨_, rfl, ?_⟩
  rw [State.stepRead_near s c fl ha hx.loads hs hq hg]
  dsimp only
  exact (hr.cellTo c).stepDone hx b (some _) (some n1) hd hl ht hn

/-- A compared pair: equal words move the registers, different ones end the op. -/
theorem State.compares {a t : Nat} {q q' : Attr} (ha : a < 0x4000) (htt : t < 0x4000)
    (hq : (s.dev.ask (s.dev.dataReq c (s.dev.cell c).pl .read a false)).1 = .permit q)
    (hq' : (s.dev.ask (s.dev.dataReq c (s.dev.cell c).pl .read t false)).1 = .permit q') (hgt : (s.cellWords c t 1 flD).2.1.testBit 0 = false)
    (hga : ((s.cellWords c t 1 flD).2.2.cellWords c a 1 fl).2.1.testBit 0 = false) (nd n1 : Word) :
    ∃ u, (match s.stepRead c t flD with
      | .error s1 => s1
      | .ok (v, s1) => match s1.stepRead c a fl with
        | .error s2 => s2
        | .ok (w, s2) => if v = w then s2.stepDone c b (some nd) (some n1) else s2.blockEnd c b) = u ∧
      s.CellTo u c (if (s.cellWords c t 1 flD).1.getD 0 0 = ((s.cellWords c t 1 flD).2.2.cellWords c a 1 fl).1.getD 0 0
        then ((((s.dev.cell c).wg b.d nd).wg b.s1 n1).wg b.s2 (BitVec.ofNat 72 ((b.v2.toNat % 2 ^ 36 + 2 ^ 36 - 1) % 2 ^ 36))).moves b nd n1
        else (s.dev.cell c).blkEnds b) := by
  have hr := State.cellWords_reads s c t 1 flD
  have hc := hr.cell c
  have hr' := hr.trans (State.cellWords_reads _ c a 1 fl)
  refine ⟨_, rfl, ?_⟩
  rw [State.stepRead_near s c flD htt hx.loads hs hq' hgt]
  dsimp only
  rw [State.stepRead_near _ c fl ha (by rw [hc]; exact hx.loads) (by rw [hc]; exact hs) (by rw [hc]; exact hr.asks hq) hga]
  dsimp only
  split
  · exact (hr'.cellTo c).stepDone hx b (some _) (some n1) hd hl ht hn
  · exact (hr'.cellTo c).blockEnd hx b hd hl ht

end

/-- A word step of a group that the caliper lets go on. -/
theorem State.blockStep_word {s : State} {c : Nat} {b : BlkE} {cal : Caliper} (fl flD : Flips) (hb : (s.dev.cell c).blk = some b) (hr : s.dev.running c = true)
    (hw : (s.dev.cell c).walk = none) (hl : (s.dev.cell c).late = false) (hwt : (s.dev.cell c).wait ≠ .wfe) (hc : s.dev.role c ≠ 1 ∨ cal = .agree) :
    s.blockStep c fl flD cal = s.blockWord c b fl flD := by
  unfold State.blockStep
  dsimp only
  rw [if_neg (by simp [hb, hr, hw, hl, hwt]), State.ifJudged_of _ _ _ hc, hb]

/-- Settles O44: a block op by the count that it begins with, and each step by its op. -/
theorem blockOpsStepWordByWord : Obligations.BlockOpsStepWordByWord := by
  refine ⟨fun s h ht d s1 s2 hd0 hs0 hds => ?_, fun s c b fl flD cal ha hr => ?_⟩
  · intro c x begins
    have hne : ∀ a b : Fin 32, a ≠ b → a.val ≠ b.val := fun a b h h' => h (Fin.ext h')
    have go : ∀ (i : Instr) (f : Blk), exec i s = .next (s.rowOp h { k := .blk f, slot := 2, d := d, s1 := s1, s2 := s2 }) →
        distinctRegs (blkRegs f d s1 s2) = true → begins i f := by
      intro i f hi hdist
      refine hi.trans (congrArg Host.Outcome.next ?_)
      obtain ⟨hr, he, hp⟩ := ht
      by_cases h0 : (x.rg s2).toNat % 2 ^ 36 = 0
      · rw [if_pos h0]
        exact (State.rowOp_blk_none s h hr he hp f d s1 s2 h0 hdist).trans (State.issued_congr _ _ _ _ _ rfl)
      · rw [if_neg h0]
        exact State.rowOp_blk s h hr he hp f d s1 s2 h0 hdist
    have hd0' := hne _ _ hd0
    have hs0' := hne _ _ hs0
    have hds' := hne _ _ hds
    refine ⟨go _ _ rfl (by simp only [blkRegs, distinctRegs]; simp; omega), fun h10 hd1 h12 => ?_⟩
    have h10' := hne _ _ h10
    have hd1' := hne _ _ hd1
    have h12' := hne _ _ h12
    have h3 : distinctRegs [d.val, s1.val, s2.val] = true := by simp only [distinctRegs]; simp; omega
    exact ⟨go _ _ rfl h3, go _ _ rfl h3, go _ _ rfl h3, go _ _ rfl h3⟩
  · intro x hb hw hl hwt
    refine ⟨fun port bits hrole hv => ?_, fun hcal hwait hcl hdel _ _ hlo hst hdly hlend htr hn => ?_⟩
    · refine State.next_liveS ha ?_
      have hj : s.dev.judged c.val (.differ port bits) = (none, s.dev.mismatch c.val port.val (vectorBits port.val bits.toNat)) := by
        unfold Dev.judged
        rw [if_neg (not_not_intro hrole)]
        exact if_neg hv
      unfold State.blockStep State.ifJudged
      dsimp only
      rw [if_neg (by simp [hr, show (s.dev.cell c.val).blk = some b from hb, show (s.dev.cell c.val).walk = none from hw,
        show (s.dev.cell c.val).late = false from hl, show (s.dev.cell c.val).wait ≠ .wfe from hwt]), hj]
      rfl
    · intro a t n word good rA rD rB ok w36' ends puts moves does regs
      have hx : (s.dev.cell c.val).Stepping := ⟨hwait, hcl, hdel, hlo⟩
      have step : ∀ (y : Cell) (u : State), s.blockWord c.val b fl flD = u → s.CellTo u c.val y → does y := fun y u hu hc =>
        ⟨u, State.next_liveS ha ((State.blockStep_word fl flD hb hr hw hl hwt hcal).trans hu), hc.1, hc.2.1, hc.2.2.1, hc.2.2.2⟩
      refine ⟨fun hf ⟨ha, q, hq⟩ ⟨ht, q', hq'⟩ hg => ?_, fun hf ⟨ha, q, hq⟩ ⟨ht, q', hq'⟩ hg => ?_, fun hf ⟨ht, q, hq⟩ => ?_, fun hf ⟨ha, q, hq⟩ hg => ?_,
        fun hf ⟨ha, q, hq⟩ ⟨ht, q', hq'⟩ hgt hga heq => ?_, fun hf ⟨ha, q, hq⟩ ⟨ht, q', hq'⟩ hgt hga hne => ?_⟩
      · obtain ⟨u, hu, hc⟩ := State.copies hx hst hdly hlend htr hn ha ht hq hq' hg (w36' (t + 1)) (w36' (a + 1))
        exact step _ u (by rw [← hu]; unfold State.blockWord; rw [hf]; rfl) hc
      · obtain ⟨u, hu, hc⟩ := State.copies hx hst hdly hlend htr hn ha ht hq hq' hg (w36' (t + 2 ^ 36 - 1)) (w36' (a + 2 ^ 36 - 1))
        exact step _ u (by rw [← hu]; unfold State.blockWord; rw [hf]; rfl) hc
      · obtain ⟨u, hu, hc⟩ := State.fills (c := c.val) hx hst hdly hlend htr hn ht hq b.v1 (w36' (t + 1))
        exact step _ u (by rw [← hu]; unfold State.blockWord; rw [hf]; rfl) hc
      · obtain ⟨u, hu, hc⟩ := State.sums hx hst hdly hlend htr hn ha hq hg (fun v => BitVec.ofNat 72 (crcWord b.vd.toNat v)) (w36' (a + 1))
        exact step _ u (by rw [← hu]; unfold State.blockWord; rw [hf]; rfl) hc
      · obtain ⟨u, hu, hc⟩ := State.compares hx hst hdly hlend htr hn ha ht hq hq' hgt hga (w36' (t + 1)) (w36' (a + 1))
        rw [if_pos heq.symm] at hc
        exact step _ u (by rw [← hu]; unfold State.blockWord; rw [hf]; rfl) hc
      · obtain ⟨u, hu, hc⟩ := State.compares hx hst hdly hlend htr hn ha ht hq hq' hgt hga (w36' (t + 1)) (w36' (a + 1))
        rw [if_neg (Ne.symm hne)] at hc
        exact step _ u (by rw [← hu]; unfold State.blockWord; rw [hf]; rfl) hc

end Sys2Proof.Machine
end

section
/-! What memory accesses see of the device (R29, R38, R483), and what refused requests and stores leave. -/

namespace Sys2Proof.Machine

open Sys2Proof

/-- `e` has the groups, the targets and the record store of `d`. -/
structure Dev.Places (d e : Dev) : Prop where
  target : ∀ a, e.targetOf a = d.targetOf a
  mates : ∀ k, e.mates k = d.mates k
  rs : e.rs = d.rs
  rsFlips : e.rsFlips = d.rsFlips

theorem Dev.Places.refl (d : Dev) : d.Places d := ⟨fun _ => rfl, fun _ => rfl, rfl, rfl⟩

theorem Dev.Places.lead {d e : Dev} (h : d.Places e) (k : Nat) : e.lead k = d.lead k := by rw [Dev.lead, h.mates, Dev.lead]

theorem Dev.places_wr (d : Dev) {k : Nat} (w : Word) (hi : k ≠ idCode) (hm : ∀ f, k ≠ fuMode f) : d.Places (d.wr k w) := by
  have hh : (d.wr k w).isH = d.isH := by unfold Dev.isH; rw [Dev.fg_wr_ne _ _ _ (Ne.symm hi)]
  have hr : ∀ c, (d.wr k w).role c = d.role c := fun c => Dev.fg_wr_ne _ _ _ (Ne.symm (hm _))
  have hg : ∀ c, (d.wr k w).grp c = d.grp c := fun c => Dev.fg_wr_ne _ _ _ (Ne.symm (hm _))
  have hf : ∀ f, (d.wr k w).fur f = d.fur f := fun _ => rfl
  refine ⟨fun a => ?_, fun c => ?_, rfl, rfl⟩
  · unfold Dev.targetOf Dev.cellHere Dev.furHere Dev.dramSize
    simp only [hh]
  · unfold Dev.mates Dev.groupCells
    simp only [hr, hg, hf]

theorem Dev.Places.trans {d e f : Dev} (h : d.Places e) (k : e.Places f) : d.Places f :=
  ⟨fun a => (k.target a).trans (h.target a), fun c => (k.mates c).trans (h.mates c), k.rs.trans h.rs, k.rsFlips.trans h.rsFlips⟩

theorem Dev.Places.symm {d e : Dev} (h : d.Places e) : e.Places d := ⟨fun a => (h.target a).symm, fun c => (h.mates c).symm, h.rs.symm, h.rsFlips.symm⟩

theorem Dev.touch_places (d : Dev) (a n : Nat) : d.Places (d.touch a n) := by
  have hc : ∀ t, d.Places (d.countTarget t n) := by
    intro t
    unfold Dev.countTarget
    have hne : ∀ j < 3, drAct j ≠ idCode ∧ ∀ f, drAct j ≠ fuMode f := fun j hj => by unfold drAct idCode fuMode; exact ⟨by omega, fun f => by omega⟩
    split
    · exact Dev.places_wr _ _ (hne 0 (by decide)).1 (hne 0 (by decide)).2
    · exact Dev.places_wr _ _ (hne 1 (by decide)).1 (hne 1 (by decide)).2
    · exact Dev.places_wr _ _ (hne 2 (by decide)).1 (hne 2 (by decide)).2
    · exact .refl d
  unfold Dev.touch Dev.portAccess
  split
  · split
    · exact (hc _).trans ⟨fun _ => rfl, fun _ => rfl, rfl, rfl⟩
    · exact hc _
  · exact .refl d

theorem Dev.fly_places (d : Dev) (s : Nat) : d.Places (d.fly s).2 := ⟨fun _ => rfl, fun _ => rfl, rfl, rfl⟩

theorem Dev.putCell_places (d : Dev) (c : Nat) (x : Cell) : d.Places (d.putCell c x) := ⟨fun _ => rfl, fun _ => rfl, rfl, rfl⟩

/-! ### What a check sees -/

/-- `t` has the memories of `s`. -/
def State.Alike (s t : State) : Prop := t.mem = s.mem ∧ s.dev.Places t.dev

theorem Dev.found_places (d : Dev) (e k u : Nat) : d.Places (d.found e k u) := by
  obtain ⟨p, hp⟩ := Dev.found_reads d e k u
  rw [hp]
  exact ⟨fun _ => rfl, fun _ => rfl, rfl, rfl⟩

section
variable {s t : State} (h : s.Alike t)
include h

theorem State.Alike.homeOf (a : Nat) : t.dev.homeOf a = s.dev.homeOf a := by
  unfold Dev.homeOf
  rw [h.2.target]
  simp only [h.2.lead]

theorem State.Alike.flipsAt (a : Nat) : t.flipsAt a = s.flipsAt a := by
  unfold State.flipsAt Dev.rsFlipped
  rw [h.homeOf, h.2.rsFlips, h.1]

theorem State.Alike.rdWord (a : Nat) : t.rdWord a = s.rdWord a := by
  unfold State.rdWord Dev.rsRead Dev.rsFlipped
  rw [h.2.target, h.2.rsFlips, h.2.rs, h.1]
  simp only [h.2.lead]

theorem State.Alike.memWord (a : Nat) : (t.memWord a).1 = (s.memWord a).1 ∧ (t.memWord a).2.1 = (s.memWord a).2.1 := by
  unfold State.memWord
  rw [h.rdWord, h.flipsAt, h.2.rs]
  exact ⟨rfl, rfl⟩

theorem State.Alike.strike (a : Nat) (f : BitVec 80) : (s.strike a f).Alike (t.strike a f) := by
  unfold State.strike
  by_cases hf : f = 0
  · rw [if_pos hf, if_pos hf]; exact h
  rw [if_neg hf, if_neg hf]
  by_cases hr : recBase ≤ a ∧ a < recBase + 0x400000
  · rw [if_pos hr, if_pos hr]
    unfold Dev.rsFlipped
    refine ⟨h.1, h.2.target, h.2.mates, h.2.rs, ?_⟩
    dsimp only
    rw [h.2.rsFlips]
  · rw [if_neg hr, if_neg hr]
    refine ⟨?_, h.2⟩
    dsimp only
    rw [h.homeOf, h.flipsAt, h.1]

end

/-- The words that a requester takes do not depend on the rest of the device. -/
theorem State.Alike.takeWord {s t : State} (h : s.Alike t) (a : Nat) (p : Option Nat) (f : BitVec 80) :
    (t.takeWord a p f).1 = (s.takeWord a p f).1 ∧ (t.takeWord a p f).2.1 = (s.takeWord a p f).2.1 ∧ (s.takeWord a p f).2.2.Alike (t.takeWord a p f).2.2 := by
  obtain ⟨h1, h2⟩ := h.memWord a
  have hm : (s.memWord a).2.2.Alike (t.memWord a).2.2 := ⟨h.1, ((Dev.found_places s.dev ..).symm.trans h.2).trans (Dev.found_places ..)⟩
  unfold State.takeWord
  cases p with
  | none => exact ⟨h1, h2, hm⟩
  | some q =>
    dsimp only
    rw [h2]
    split
    · exact ⟨h1, h2, hm⟩
    · rw [h1]
      exact ⟨rfl, rfl, hm.1, ((Dev.found_places _ ..).symm.trans hm.2).trans (Dev.found_places ..)⟩

theorem State.Alike.takeWords {s t : State} (h : s.Alike t) (a n : Nat) (p : Option Nat) (f : Flips) :
    (t.takeWords a n p f).1 = (s.takeWords a n p f).1 ∧ (t.takeWords a n p f).2.1 = (s.takeWords a n p f).2.1 := by
  unfold State.takeWords
  suffices hl : ∀ (l : List Nat) (q r : List Word × Nat × State), r.1 = q.1 → r.2.1 = q.2.1 → q.2.2.Alike r.2.2 →
      let go := fun (r : List Word × Nat × State) (k : Nat) =>
        let q := (r.2.2.strike (a + k) (flipOn f f.mem k)).takeWord (a + k) p (flipOn f f.path k)
        (r.1 ++ [q.1], if q.2.1 then r.2.1 + 2 ^ k else r.2.1, q.2.2)
      (l.foldl go r).1 = (l.foldl go q).1 ∧ (l.foldl go r).2.1 = (l.foldl go q).2.1 from hl _ ([], 0, s) ([], 0, t) rfl rfl h
  intro l
  induction l with
  | nil => exact fun q r h1 h2 _ => ⟨h1, h2⟩
  | cons k l ih =>
    intro q r h1 h2 hq
    obtain ⟨e1, e2, e3⟩ := (hq.strike (a + k) (flipOn f f.mem k)).takeWord (a + k) p (flipOn f f.path k)
    refine ih _ _ ?_ ?_ e3
    · dsimp only; rw [h1, e1]
    · dsimp only; rw [h2, e2]

theorem State.Alike.cellWords {s t : State} (h : s.Alike t) (c a n : Nat) (fl : Flips) :
    (t.cellWords c a n fl).1 = (s.cellWords c a n fl).1 ∧ (t.cellWords c a n fl).2.1 = (s.cellWords c a n fl).2.1 := by
  have hp : t.dev.cellPort c a = s.dev.cellPort c a := by
    unfold Dev.cellPort Dev.onDitch
    rw [h.2.target]
  unfold State.cellWords
  rw [hp]
  exact h.takeWords ..

/-- What a store's sink makes of the part, whatever the device. -/
theorem Dev.sinkWord_fst (d e : Dev) (a : Nat) (w : Wid) (v : Word) (f : BitVec 80) : (e.sinkWord a w v f).1 = (d.sinkWord a w v f).1 := by
  unfold Dev.sinkWord
  split <;> rfl

theorem Dev.sinkWord_places (d : Dev) (a : Nat) (w : Wid) (v : Word) (f : BitVec 80) : d.Places (d.sinkWord a w v f).2 := by
  unfold Dev.sinkWord
  split
  · exact .refl d
  · exact Dev.found_places ..

theorem State.sinkWord_reads (s : State) (a : Nat) (w : Wid) (v : Word) (f : BitVec 80) : s.Reads (s.onDev (s.dev.sinkWord a w v f).2) := by
  unfold Dev.sinkWord
  split
  · exact .refl s
  · exact State.reads_found ..

/-- Whether a part can be stored does not depend on the rest of the device. -/
theorem State.Alike.storePart {s t : State} (h : s.Alike t) (a : Nat) (w : Wid) (v : Word) (f : BitVec 80) : (t.storePart a w v f).1 = (s.storePart a w v f).1 := by
  have h1 := Dev.sinkWord_fst s.dev t.dev a w v f
  have h2 : (s.onDev (s.dev.sinkWord a w v f).2).Alike (t.onDev (t.dev.sinkWord a w v f).2) := by
    refine ⟨h.1, ?_⟩
    exact ((Dev.sinkWord_places s.dev a w v f).symm.trans h.2).trans (Dev.sinkWord_places t.dev a w v f)
  unfold State.storePart
  generalize s.dev.sinkWord a w v f = p at h1 h2
  generalize t.dev.sinkWord a w v f = q at h1 h2
  obtain ⟨p1, p2⟩ := p
  obtain ⟨q1, q2⟩ := q
  obtain rfl : q1 = p1 := h1
  cases q1 with
  | none => rfl
  | some u =>
    have hm := (h2.memWord a).2
    dsimp only at hm ⊢
    split
    · rfl
    · rw [hm]; split <;> rfl

/-- Where the part cannot be stored, nothing is. -/
theorem State.storePart_reads (s : State) (a : Nat) (w : Wid) (v : Word) (f : BitVec 80) (h : (s.storePart a w v f).1 = false) :
    s.Reads (s.storePart a w v f).2 := by
  have hs := State.sinkWord_reads s a w v f
  unfold State.storePart at h ⊢
  generalize s.dev.sinkWord a w v f = p at h hs
  obtain ⟨p1, p2⟩ := p
  cases p1 with
  | none => exact hs
  | some u =>
    dsimp only at h hs ⊢
    split at h
    · nomatch h
    · next hw =>
      rw [if_neg hw]
      split at h
      · next hp => rw [if_pos hp]; exact hs.trans (State.memWord_reads ..)
      · nomatch h

/-! ### A refused request -/

theorem Dev.violate_cells (d : Dev) (s : Nat) (r : Req) (k g : Nat) : (d.violate s r k g).cells = d.cells := by
  have hg : 220 + slGroup s < 256 := by
    unfold slGroup
    split_ifs <;> decide
  unfold Dev.violate Dev.pulseSrc
  dsimp only
  split
  · rw [Dev.count, Dev.fp, Dev.wr_cells]
  · generalize fields _ = w
    rw [(Dev.relevel_only _ _ hg).cells, Dev.latch, Dev.fp, Dev.wr_cells, Dev.fp, Dev.wr_cells, Dev.wr_cells]

theorem Dev.ask_cell (d : Dev) (r : Req) (k : Nat) : (d.ask r).2.cell k = d.cell k := by
  have hr : ∀ s v g, (d.refused s r v g).cell k = d.cell k := by
    intro s v g
    have hv : (d.violate s r v g).cell k = d.cell k := by rw [Dev.cell, Dev.violate_cells, Dev.cell]
    unfold Dev.refused
    split
    · rfl
    · split
      · rfl
      · exact hv
  unfold Dev.ask
  split
  · exact hr ..
  · split
    · rfl
    · rfl
    · exact hr ..

end Sys2Proof.Machine
end

section
/-! What comes back to a cell (R38, R39, R345, R412, R421, R422, R432): loads, the drain and the acknowledgement of stores, queued ISTs. -/

namespace Sys2Proof.Machine

open Sys2Proof

theorem State.CellTo.refl (s : State) (c : Nat) : s.CellTo s c (s.dev.cell c) := ⟨rfl, fun _ => rfl, rfl, fun _ _ => rfl⟩

theorem State.CellTo.reads {s t u : State} {c : Nat} {x : Cell} (h : s.CellTo t c x) (k : t.Reads u) : s.CellTo u c x := by
  obtain ⟨hp, hm, hc, hk⟩ := h
  exact ⟨k.1.trans hp, fun a => (k.2.1 a).trans (hm a), (k.cell c).trans hc, fun j hj => (k.cell j).trans (hk j hj)⟩

/-- A change of the device that leaves every cell. -/
theorem State.CellTo.dev {s t : State} {c : Nat} {x : Cell} (h : s.CellTo t c x) {d : Dev} (hd : ∀ k, d.cell k = t.dev.cell k) : s.CellTo (t.onDev d) c x := by
  obtain ⟨hp, hm, hc, hk⟩ := h
  exact ⟨hp, hm, (hd c).trans hc, fun j hj => (hd j).trans (hk j hj)⟩

theorem Dev.land_cell (d : Dev) (o : Option Nat) (k : Nat) : (match o with | some id => d.land id | none => d).cell k = d.cell k := by
  cases o <;> rfl

theorem Cell.learn_keeps (x : Cell) (a : Option AttrE) : (x.learn a).closed = x.closed ∧ (x.learn a).held = x.held ∧ (x.learn a).bun = x.bun ∧
    (x.learn a).due = x.due ∧ (x.learn a).walk = x.walk := by
  unfold Cell.learn
  split
  · exact ⟨rfl, rfl, rfl, rfl, rfl⟩
  · split <;> exact ⟨rfl, rfl, rfl, rfl, rfl⟩

/-- A cause joins those that its cell holds. -/
theorem State.CellTo.hold {s t : State} {c : Nat} {x : Cell} (h : s.CellTo t c x) (y : Cell) (q : HeldC) :
    s.CellTo (t.onDev ((t.dev.putCell c y).hold c q)) c { y with held := insHeld q y.held } := by
  have hp := h.put { y with held := insHeld q y.held }
  have e : (t.dev.putCell c y).hold c q = (t.dev.putCell c { y with held := insHeld q y.held }).heldSync c := by
    unfold Dev.hold
    dsimp only
    rw [Dev.putCell_cell, Dev.putCell_putCell]
  rw [e]
  exact hp.dev fun k => Dev.heldSync_cell ..

/-! ### Loads (R38, R345, R412, R432) -/

/-- The cell whose load `l` is no longer outstanding. -/
def Cell.loadEnds (x : Cell) (l : LoadE) : Cell := { x.learn l.attr with loads := x.loads.filter (fun q => decide (q.seq ≠ l.seq)) }

/-- The cell that holds the cause of a load. -/
def Cell.loadHolds (x : Cell) (l : LoadE) (cause : Nat) : Cell :=
  { x.loadEnds l with held := insHeld ⟨cause, l.addr, false, l.io, l.bun, l.depth, l.seq⟩ x.held }

/-- The cell to which the value of a load comes. -/
def Cell.loadComes (x : Cell) (l : LoadE) (slot : Nat) (v : Word) : Cell :=
  if l.due ≤ x.bun then (x.loadEnds l).wg l.d v else { x.loadEnds l with due := x.due ++ [⟨l.due, slot, .g l.d v⟩] }

theorem State.CellTo.loadEnd_holds {s t : State} {c : Nat} {x : Cell} (h : s.CellTo t c x) (l : LoadE) (w : Word) {cause : Nat} (hc : cause ≠ 0) :
    s.CellTo (t.loadEnd c l w cause) c (x.loadHolds l cause) := by
  have hx := h.2.2.1
  unfold State.loadEnd
  dsimp only
  rw [if_pos hc, hx]
  have hd := h.dev (Dev.land_cell t.dev l.fly)
  have hh := hd.hold (x.loadEnds l) ⟨cause, l.addr, false, l.io, l.bun, l.depth, l.seq⟩
  have e : (x.loadEnds l).held = x.held := (Cell.learn_keeps x l.attr).2.1
  rw [e] at hh
  exact hh

theorem State.CellTo.loadEnd_comes {s t : State} {c : Nat} {x : Cell} (h : s.CellTo t c x) (l : LoadE) (w : Word) :
    s.CellTo (t.loadEnd c l w 0) c (x.loadComes l (if l.io then 3 else 2) (if l.io then w else l.wid.extract l.sgn w)) := by
  have hx := h.2.2.1
  have hd := h.dev (Dev.land_cell t.dev l.fly)
  obtain ⟨-, -, hb, hdue, -⟩ := Cell.learn_keeps x l.attr
  unfold State.loadEnd
  dsimp only
  rw [if_neg (not_not_intro rfl), hx]
  by_cases hl : l.due ≤ x.bun
  · rw [if_pos (by rw [hb]; exact hl), Cell.loadComes, if_pos hl]
    exact hd.put _
  · rw [if_neg (by rw [hb]; exact hl), Cell.loadComes, if_neg hl, hdue]
    exact hd.put _

theorem Cell.loadHolds_closed (x : Cell) (l : LoadE) (cause : Nat) : (x.loadHolds l cause).closed = x.closed := (Cell.learn_keeps x l.attr).1

theorem Cell.loadComes_closed (x : Cell) (l : LoadE) (slot : Nat) (v : Word) : (x.loadComes l slot v).closed = x.closed := by
  unfold Cell.loadComes
  split
  · exact (Cell.wg_closed ..).trans (Cell.learn_keeps x l.attr).1
  · exact (Cell.learn_keeps x l.attr).1

theorem State.CellTo.pump {s t : State} {c : Nat} {x : Cell} (h : s.CellTo t c x) (hx : x.closed = false) : s.CellTo (t.pump c) c x := by
  rw [State.pump_open t c ((congrArg Cell.closed h.2.2.1).trans hx)]; exact h

/-- What the response of a load of the data space leaves. -/
theorem State.loadReturn_data {s : State} {c n : Nat} {l : LoadE} (fl : Flips) (hl : (s.dev.cell c).loads[n]? = some l) (hio : l.io = false)
    (hk : s.dev.clockStopped c = false) (hr : s.dev.refreshing l.addr = false ∨ l.known ≠ none) (hs : l.sent = true ∨ l.known ≠ none) :
    s.loadReturn c n fl = (s.loadTake c l fl).pump c := by
  unfold State.loadReturn
  dsimp only
  rw [hl]
  dsimp only
  rw [if_neg (by rw [hk]; decide), if_neg (by rw [hio]; decide), if_neg, if_pos hs]
  rintro ⟨h1, h2⟩
  rcases hr with hr | hr
  · rw [hr] at h2; nomatch h2
  · exact hr h1

section
variable {s : State} {c : Nat} (l : LoadE) (fl : Flips)

theorem State.loadTake_bad (hb : l.bad = true) : s.CellTo (s.loadTake c l fl) c ((s.dev.cell c).loadHolds l cDACC) := by
  unfold State.loadTake
  rw [if_pos hb]
  exact (State.CellTo.refl s c).loadEnd_holds l 0 (by decide)

theorem State.loadTake_known {w : Word} (hb : l.bad = false) (hio : l.io = false) (hk : l.known = some w) :
    s.CellTo (s.loadTake c l fl) c (if l.poison then (s.dev.cell c).loadHolds l cDERR else (s.dev.cell c).loadComes l 2 (l.wid.extract l.sgn w)) := by
  unfold State.loadTake
  dsimp only
  rw [if_neg (by rw [hb]; decide), hk]
  dsimp only
  split
  · exact (State.CellTo.refl s c).loadEnd_holds l 0 (by decide)
  · have h := (State.CellTo.refl s c).loadEnd_comes l w
    rw [hio] at h
    exact h

theorem State.loadTake_gone (hb : l.bad = false) (hk : l.known = none) (ht : s.dev.loadTurn c l = true) (hg : s.dev.dramGone l.addr = true) :
    s.CellTo (s.loadTake c l fl) c ((s.dev.cell c).loadHolds l cDERR) := by
  unfold State.loadTake
  dsimp only
  rw [if_neg (by rw [hb]; decide), hk]
  dsimp only
  rw [if_neg (by rw [ht]; decide), if_pos hg]
  exact (State.CellTo.refl s c).loadEnd_holds l 0 (by decide)

theorem State.loadTake_far (hb : l.bad = false) (hio : l.io = false) (hk : l.known = none) (hc : l.cache = false) (ht : s.dev.loadTurn c l = true)
    (hg : s.dev.dramGone l.addr = false) :
    s.CellTo (s.loadTake c l fl) c (if (s.cellWords c l.addr 1 fl).2.1.testBit 0 then (s.dev.cell c).loadHolds l cDERR
      else (s.dev.cell c).loadComes l 2 (l.wid.extract l.sgn ((s.cellWords c l.addr 1 fl).1.getD 0 0))) := by
  have hr := (State.CellTo.refl s c).reads (State.cellWords_reads s c l.addr 1 fl)
  unfold State.loadTake
  dsimp only
  rw [if_neg (by rw [hb]; decide), hk]
  dsimp only
  rw [if_neg (by rw [ht]; decide), if_neg (by rw [hg]; decide)]
  simp only [hc, Bool.false_eq_true, if_false, Nat.sub_zero]
  split
  · exact hr.loadEnd_holds l 0 (by decide)
  · have h := hr.loadEnd_comes l ((s.cellWords c l.addr 1 fl).1.getD 0 0)
    rw [hio] at h
    exact h

/-- The value of an IN, as the I/O ditch gives it (R35, R479). -/
theorem State.inBack_cell (hio : l.io = true) (v : Half) (f : BitVec 43) : s.CellTo (s.inBack c l v l.bad f) c
    (if l.bad = true ∨ (flippedIo v f).2 = 2 then (s.dev.cell c).loadHolds l cIO else (s.dev.cell c).loadComes l 3 (ofHalf (flippedIo v f).1)) := by
  have hr := (State.CellTo.refl s c).reads (State.reads_found s (flippedIo v f).2 171 0)
  unfold State.inBack
  dsimp only
  by_cases hb : l.bad = true ∨ (flippedIo v f).2 = 2
  · rw [if_pos hb, if_pos (by simpa using hb)]
    exact hr.loadEnd_holds l _ (by decide)
  · rw [if_neg hb, if_neg (by simpa using hb)]
    have h := hr.loadEnd_comes l (ofHalf (flippedIo v f).1)
    rw [hio] at h
    exact h

end

/-! ### Stores (R39, R345, R421, R422) -/

theorem Dev.touch_reqId (d : Dev) (a n : Nat) : (d.touch a n).reqId = d.reqId := by
  unfold Dev.touch
  split
  · next t _ => cases t <;> rfl
  · rfl

/-- The device as a permitted store goes to its target. -/
def Dev.sends (d : Dev) (c a : Nat) : Dev := ((d.touch a 1).fly (d.sluiceOf (busAddr c a))).2

theorem Dev.sends_places (d : Dev) (c a : Nat) : d.Places (d.sends c a) := (Dev.touch_places ..).trans (Dev.fly_places ..)

theorem Dev.sends_cell (d : Dev) (c a k : Nat) : (d.sends c a).cell k = d.cell k := Dev.touch_cell ..

theorem State.sends_alike (s : State) (c a : Nat) : s.Alike (s.onDev (s.dev.sends c a)) := ⟨rfl, Dev.sends_places ..⟩

/-- The entry of a store that has gone to its target. -/
def State.sentStore (s : State) (e : StoreE) (a : Attr) : StoreE :=
  { e with sent := true, fly := some s.dev.reqId, attr := if e.addr < 0x4000 then none else some a.entry }

section
variable {s : State} {c : Nat} {e : StoreE} (fl : Flips) (hf : (s.dev.cell c).stores.find? (fun e => !e.sent) = some e) (hk : s.dev.clockStopped c = false)
  (ht : s.dev.storeTurn c e = true) (hr : s.dev.refreshing e.addr = false)
include hf hk ht hr

/-- The drain of a store that its sluice permits. -/
theorem State.storeDrain_permit {a : Attr} (hq : (s.dev.ask (s.dev.dataReq c e.pl .write e.addr (decide (e.wid ≠ .word)))).1 = .permit a) :
    s.storeDrain c fl = if s.dev.dramGone e.addr
      then s.onDev ((s.dev.sends c e.addr).putCell c (((s.dev.sends c e.addr).cell c).storeSent { s.sentStore e a with err := cDERR }))
      else (s.onDev (s.dev.sends c e.addr)).storeIn c (s.sentStore e a) fl := by
  unfold State.storeDrain
  dsimp only
  rw [hf]
  dsimp only
  rw [if_neg (by rw [hk, ht, hr]; decide), Dev.ask_permit hq]
  dsimp only
  rw [show ((s.dev.touch e.addr 1).fly (s.dev.sluiceOf (busAddr c e.addr))).1 = s.dev.reqId from Dev.touch_reqId ..]
  rfl

/-- The drain of a store that its sluice refuses. -/
theorem State.storeDrain_refused (hq : ∀ a, (s.dev.ask (s.dev.dataReq c e.pl .write e.addr (decide (e.wid ≠ .word)))).1 ≠ .permit a) :
    s.CellTo (s.storeDrain c fl) c ((s.dev.cell c).storeSent { e with sent := true, err := cDACC }) := by
  have hc := Dev.ask_cell s.dev (s.dev.dataReq c e.pl .write e.addr (decide (e.wid ≠ .word)))
  unfold State.storeDrain
  dsimp only
  rw [hf]
  dsimp only
  rw [if_neg (by rw [hk, ht, hr]; decide)]
  generalize s.dev.ask (s.dev.dataReq c e.pl .write e.addr (decide (e.wid ≠ .word))) = q at hq hc
  obtain ⟨g, d1⟩ := q
  cases g with
  | permit a => exact absurd rfl (hq a)
  | decline =>
    dsimp only at hc ⊢
    rw [hc]
    exact ((State.CellTo.refl s c).dev hc).put _
  | refuse k r =>
    dsimp only at hc ⊢
    rw [hc]
    exact ((State.CellTo.refl s c).dev hc).put _

end

/-- A store that cannot be stored leaves its error, and no word. -/
theorem State.storeIn_fails {s t : State} {c : Nat} {x : Cell} (h : s.CellTo t c x) (e : StoreE) (fl : Flips)
    (hp : ((t.strike (busAddr c e.addr) fl.mem).storePart (busAddr c e.addr) e.wid e.val (if (t.dev.cellPort c e.addr).isSome then fl.path else 0)).1 = false) :
    s.CellTo (t.storeIn c e fl) c (x.storeSent { e with err := cDERR }) := by
  have hr := h.reads ((State.strike_reads t (busAddr c e.addr) fl.mem).trans (State.storePart_reads _ _ _ _ _ hp))
  unfold State.storeIn
  dsimp only
  rw [if_pos (by rw [hp]; rfl), hr.2.2.1]
  exact hr.put _

/-- The memories after a store, no bit having flipped: the part is merged into the word that its memory holds. -/
theorem State.storePart_clean (t : State) (a : Nat) (w : Wid) (v : Word) (hf : t.flipsAt a = 0) (hr : ¬ (recBase ≤ a ∧ a < recBase + 0x400000)) :
    t.storePart a w v 0 = (true, t.wrWord a (w.insert (t.rdWord a) v)) := by
  have hs : t.dev.sinkWord a w v 0 = (some v, t.dev) := if_pos rfl
  have hm : t.memWord a = (t.rdWord a, false, t) := by
    unfold State.memWord flippedWord
    rw [hf, if_pos rfl, if_neg hr]
    rfl
  unfold State.storePart
  rw [hs]
  dsimp only
  split
  · next hw =>
    subst hw
    have : Wid.word.insert (t.rdWord a) v = v := by
      apply BitVec.eq_of_getLsbD_eq
      intro j hj
      unfold Wid.insert
      rw [Span.put_bit _ (by decide)]
      have h2 : (⟨Wid.word.low + Wid.word.bits - 1, Wid.word.low⟩ : Span).lo = 0 := rfl
      have h3 : (⟨Wid.word.low + Wid.word.bits - 1, Wid.word.low⟩ : Span).hi = 71 := rfl
      rw [h2, h3, if_pos ⟨Nat.zero_le _, by omega⟩]
      rfl
    rw [this]
    rfl
  · rw [show t.onDev t.dev = t from rfl, hm]
    rfl

/-- A store that is performed, with no line of it in the data cache. -/
theorem State.storeIn_clean {t : State} {c : Nat} {x : Cell} (hc : t.dev.cell c = x) (e : StoreE) (hf : t.flipsAt (busAddr c e.addr) = 0)
    (hr : ¬ (recBase ≤ busAddr c e.addr ∧ busAddr c e.addr < recBase + 0x400000)) (hw : x.wayOf e.addr = none) (hca : e.cache = false) {m : Mem}
    (hm : t.wrWord (busAddr c e.addr) (e.wid.insert (t.rdWord (busAddr c e.addr)) e.val) = { t with mem := m }) :
    t.storeIn c e {} = { t with mem := m, dev := t.dev.putCell c (x.storeSent e) } := by
  have hs : t.strike (busAddr c e.addr) ({} : Flips).mem = t := if_pos rfl
  have hp : (if (t.dev.cellPort c e.addr).isSome then ({} : Flips).path else 0) = 0 := ite_self 0
  unfold State.storeIn
  dsimp only
  rw [hs, hp, State.storePart_clean t _ _ _ hf hr, hm]
  have hway : (x.storeSent e).wayOf e.addr = none := hw
  dsimp only
  rw [hc, hway, hca]
  rfl

/-- `t` is `s` with the words `w` at the addresses `l`, and cell `c` now `y`. -/
def State.StoresTo (s t : State) (c : Nat) (y : Cell) (l : List Nat) (w : Nat → Word) : Prop :=
  t.pending = s.pending ∧ t.dev.cell c = y ∧ (∀ k ≠ c, t.dev.cell k = s.dev.cell k) ∧ ∀ a, t.mem.rd a = if a ∈ l then w a else s.mem.rd a

theorem State.CellTo.storesNone {s t : State} {c : Nat} {y : Cell} (h : s.CellTo t c y) : s.StoresTo t c y [] fun _ => 0 :=
  ⟨h.1, h.2.2.1, h.2.2.2, fun a => (h.2.1 a).trans (if_neg List.not_mem_nil).symm⟩

section
variable {s : State} {c : Nat} {e : StoreE} {a : Attr} (hf : s.flipsAt (busAddr c e.addr) = 0) (hw : (s.dev.cell c).wayOf e.addr = none) (hca : e.cache = false)
include hf hw hca

/-- A store that reaches local data SRAM: in every member of its group (R29). -/
theorem State.storeIn_local {j : Nat} (hT : s.dev.targetOf (busAddr c e.addr) = some (.localData j)) :
    s.StoresTo ((s.onDev (s.dev.sends c e.addr)).storeIn c (s.sentStore e a) {}) c ((s.dev.cell c).storeSent (s.sentStore e a))
      ((s.dev.mates j).map fun k => aliasOf k + busAddr c e.addr % 0x4000)
      fun _ => e.wid.insert (s.mem.rd (aliasOf (s.dev.lead j) + busAddr c e.addr % 0x4000)) e.val := by
  have hal := State.sends_alike s c e.addr
  have hr : ¬ (recBase ≤ busAddr c e.addr ∧ busAddr c e.addr < recBase + 0x400000) := by
    unfold Dev.targetOf at hT
    unfold recBase
    split at hT
    · omega
    · split at hT
      · omega
      · split at hT
        · nomatch hT
        · split at hT
          · nomatch hT
          · omega
  have hrd : s.rdWord (busAddr c e.addr) = s.mem.rd (aliasOf (s.dev.lead j) + busAddr c e.addr % 0x4000) := by
    unfold State.rdWord
    rw [if_neg (by unfold recBase at hr; omega), hT]
  have hm : ∀ w, (s.onDev (s.dev.sends c e.addr)).wrWord (busAddr c e.addr) w = { s.onDev (s.dev.sends c e.addr) with
      mem := (s.dev.mates j).foldl (fun m k => m.wr (aliasOf k + busAddr c e.addr % 0x4000) w) s.mem } := fun w => by
    unfold State.wrWord
    rw [hal.2.target, hT]
    dsimp only
    rw [hal.2.mates]
    rfl
  have hst := State.storeIn_clean (Dev.sends_cell ..) (s.sentStore e a) ((hal.flipsAt _).trans hf) hr hw hca (hm _)
  refine ⟨by rw [hst]; rfl, ?_, fun k hk => ?_, fun b => ?_⟩
  · rw [hst]; exact Dev.putCell_cell ..
  · rw [hst]; exact (Dev.putCell_cell_ne _ _ hk).trans (Dev.sends_cell ..)
  · rw [hst, show (s.sentStore e a).addr = e.addr from rfl, hal.rdWord, hrd]
    have hmap : ∀ (l : List Nat) (m : Mem) (f : Nat → Nat) (w : Word), l.foldl (fun m k => m.wr (f k) w) m = (l.map f).foldl (fun m a => m.wr a w) m :=
      fun l m f w => by rw [List.foldl_map]
    dsimp only
    rw [hmap, Mem.rd_foldl_wr]
    rfl

/-- A store that reaches any other memory but the record store. -/
theorem State.storeIn_far {T : Target} (hT : s.dev.targetOf (busAddr c e.addr) = some T) (hl : ∀ k, T ≠ .localData k) (hre : T ≠ .record) :
    s.StoresTo ((s.onDev (s.dev.sends c e.addr)).storeIn c (s.sentStore e a) {}) c ((s.dev.cell c).storeSent (s.sentStore e a))
      [busAddr c e.addr] fun _ => e.wid.insert (s.mem.rd (busAddr c e.addr)) e.val := by
  have hal := State.sends_alike s c e.addr
  have hr : ¬ (recBase ≤ busAddr c e.addr ∧ busAddr c e.addr < recBase + 0x400000) := by
    intro hr
    unfold recBase at hr
    unfold Dev.targetOf at hT
    rw [if_neg (by omega), if_neg (by omega), if_neg (by omega), if_pos (by omega)] at hT
    exact hre (Option.some.inj hT).symm
  have hrd : s.rdWord (busAddr c e.addr) = s.mem.rd (busAddr c e.addr) := by
    unfold State.rdWord
    rw [if_neg (by unfold recBase at hr; omega), hT]
    cases T with
    | localData k => exact absurd rfl (hl k)
    | _ => rfl
  have hm : ∀ w, (s.onDev (s.dev.sends c e.addr)).wrWord (busAddr c e.addr) w = { s.onDev (s.dev.sends c e.addr) with
      mem := s.mem.wr (busAddr c e.addr) w } := fun w => by
    unfold State.wrWord
    rw [hal.2.target, hT]
    cases T with
    | localData k => exact absurd rfl (hl k)
    | record => exact absurd rfl hre
    | _ => rfl
  have hst := State.storeIn_clean (Dev.sends_cell ..) (s.sentStore e a) ((hal.flipsAt _).trans hf) hr hw hca (hm _)
  refine ⟨by rw [hst]; rfl, ?_, fun k hk => ?_, fun b => ?_⟩
  · rw [hst]; exact Dev.putCell_cell ..
  · rw [hst]; exact (Dev.putCell_cell_ne _ _ hk).trans (Dev.sends_cell ..)
  · rw [hst, show (s.sentStore e a).addr = e.addr from rfl, hal.rdWord, hrd]
    dsimp only
    rw [Mem.rd_wr]
    simp only [List.mem_singleton]
    rfl

end

/-- An acknowledged store leaves the buffer; its error is held (R422, R432). -/
theorem State.storeAck_frees {s : State} {c n : Nat} {e : StoreE} (he : (s.dev.cell c).stores[n]? = some e) (hs : e.sent = true) (hk : s.dev.clockStopped c = false)
    (ht : ∀ k, e.fly = some k → s.dev.inTurn c e.addr k (s.dev.cell c).onWay = true) (hw : (s.dev.cell c).walk = none) (hcl : (s.dev.cell c).closed = false) :
    let y : Cell := { (s.dev.cell c).learn e.attr with stores := (s.dev.cell c).stores.filter fun q => decide (q.seq ≠ e.seq) }
    s.CellTo (s.storeAck c n) c (if e.err = 0 then y else { y with held := insHeld ⟨e.err, e.addr, true, false, e.bun, e.depth, e.seq⟩ (s.dev.cell c).held }) := by
  intro y
  obtain ⟨h1, h2, -, -, h5⟩ := Cell.learn_keeps (s.dev.cell c) e.attr
  have hd := ((State.CellTo.refl s c).dev (Dev.land_cell s.dev e.fly))
  have hfin : ∀ {d2 : Dev} {z : Cell}, s.CellTo (s.onDev d2) c z → z.walk = none → z.closed = false →
      s.CellTo (({ s with dev := (match (d2.cell c).walk with
        | some w => if w.fly = none ∧ (d2.cell c).forward w.rd .word = .free then d2.walkSend c w else d2
        | none => d2) } : State).pump c) c z := by
    intro d2 z hz hzw hzc
    have hcell : (d2.cell c).walk = none := (congrArg Cell.walk hz.2.2.1).trans hzw
    rw [hcell]
    exact hz.pump hzc
  unfold State.storeAck
  dsimp only
  rw [he]
  dsimp only
  rw [if_neg (by
    rw [hs, hk]
    cases h : e.fly with
    | none => simp
    | some k => simp [ht k h])]
  by_cases h0 : e.err = 0
  · rw [if_pos h0, if_pos h0]
    exact hfin (hd.put y) (h5.trans hw) (h1.trans hcl)
  · rw [if_neg h0, if_neg h0]
    have hh := hd.hold y ⟨e.err, e.addr, true, false, e.bun, e.depth, e.seq⟩
    rw [show y.held = (s.dev.cell c).held from h2] at hh
    exact hfin hh (h5.trans hw) (h1.trans hcl)

/-! ### Queued ISTs (R421) -/

/-- A half of a word replaced. -/
theorem insert_half (x : Word) (h : Half) (k : Nat) : (Wid.half (k % 2)).insert x (ofHalf h) =
    if k % 2 = 0 then ofHalf h <<< 36 ||| x &&& 0xFFFFFFFFF else ofHalf h ||| x &&& 0xFFFFFFFFF000000000 := by
  have hb : ∀ j, (ofHalf h).toNat.testBit j = (decide (j < 36) && h.getLsbD j) := fun j => ofHalf_bit h j
  have hhi : ∀ j < 72, (0xFFFFFFFFF000000000 : Word).getLsbD j = decide (36 ≤ j) := by decide
  apply BitVec.eq_of_getLsbD_eq
  intro j hj
  unfold Wid.insert
  rcases Nat.mod_two_eq_zero_or_one k with hk | hk
  · rw [if_pos hk, hk, Span.put_bit _ (by decide), BitVec.getLsbD_or, BitVec.getLsbD_and, BitVec.getLsbD_shiftLeft, low_bit]
    have h1 : (⟨(Wid.half 0).low + (Wid.half 0).bits - 1, (Wid.half 0).low⟩ : Span).lo = 36 := rfl
    have h2 : (⟨(Wid.half 0).low + (Wid.half 0).bits - 1, (Wid.half 0).low⟩ : Span).hi = 71 := rfl
    rw [h1, h2]
    by_cases h36 : 36 ≤ j
    · rw [if_pos ⟨h36, by omega⟩]
      simp [hj, show ¬ j < 36 by omega]
      rfl
    · rw [if_neg (by omega)]
      simp [show j < 36 by omega]
  · rw [if_neg (by omega), hk, Span.put_bit _ (by decide), BitVec.getLsbD_or, BitVec.getLsbD_and, hhi j hj]
    have h1 : (⟨(Wid.half 1).low + (Wid.half 1).bits - 1, (Wid.half 1).low⟩ : Span).lo = 0 := rfl
    have h2 : (⟨(Wid.half 1).low + (Wid.half 1).bits - 1, (Wid.half 1).low⟩ : Span).hi = 35 := rfl
    rw [h1, h2]
    by_cases h36 : 36 ≤ j
    · rw [if_neg (by omega), ofHalf_bit]
      simp [h36, show ¬ j < 36 by omega]
    · rw [if_pos (by omega)]
      simp [show ¬ 36 ≤ j by omega]
      rfl

/-- Writes that replace a part of a word, at several places: a place met again keeps its word. -/
theorem Mem.rd_foldl_part (f : Word → Word) (hf : ∀ x, f (f x) = f x) (a : Nat → Nat) (l : List Nat) (m : Mem) (b : Nat) :
    (l.foldl (fun m k => m.wr (a k) (f (m.rd (a k)))) m).rd b = if b ∈ l.map a then f (m.rd b) else m.rd b := by
  induction l generalizing m with
  | nil => simp
  | cons k l ih =>
    rw [List.foldl_cons, ih, Mem.rd_wr]
    by_cases h2 : b = a k
    · subst h2
      simp [hf]
    · simp [h2]

theorem State.istWrite_puts {s : State} {c : Nat} {i : IstE} {l : List IstE} (hi : (s.dev.cell c).ists = i :: l) (hb : i.at' ≤ (s.dev.cell c).bun)
    (hk : s.dev.clockStopped c = false) : s.StoresTo (s.istWrite c) c { s.dev.cell c with ists := l } ((s.dev.mates c).map fun k => isramOf k + i.addr / 2)
      fun a => if i.addr % 2 = 0 then ofHalf i.op <<< 36 ||| s.mem.rd a &&& 0xFFFFFFFFF else ofHalf i.op ||| s.mem.rd a &&& 0xFFFFFFFFF000000000 := by
  have e : s.istWrite c = { s with
      mem := (s.dev.mates c).foldl (fun m k => m.wr (isramOf k + i.addr / 2) ((Wid.half (i.addr % 2)).insert (m.rd (isramOf k + i.addr / 2)) (ofHalf i.op))) s.mem,
      dev := s.dev.putCell c { s.dev.cell c with ists := l } } := by
    unfold State.istWrite
    dsimp only
    split
    · next h => rw [hi] at h; nomatch h
    · next j l' h =>
      obtain ⟨rfl, rfl⟩ := List.cons.inj (hi.symm.trans h)
      rw [if_neg (fun h => h.elim (by omega) (by rw [hk]; decide))]
  rw [e]
  refine ⟨rfl, Dev.putCell_cell .., fun k hk => Dev.putCell_cell_ne _ _ hk, fun b => ?_⟩
  have hff : ∀ x, (Wid.half (i.addr % 2)).insert ((Wid.half (i.addr % 2)).insert x (ofHalf i.op)) (ofHalf i.op) = (Wid.half (i.addr % 2)).insert x (ofHalf i.op) := by
    intro x
    unfold Wid.insert
    refine Span.put_put _ _ _ _ ?_
    rcases Nat.mod_two_eq_zero_or_one i.addr with h | h <;> rw [h] <;> decide
  exact (Mem.rd_foldl_part (fun x => (Wid.half (i.addr % 2)).insert x (ofHalf i.op)) hff (fun k => isramOf k + i.addr / 2) _ s.mem b).trans
    (by dsimp only; rw [insert_half])

/-- Settles O43: each response by its cause or its value, the store by its target, its answer and its acknowledgement, the IST by its half. -/
theorem loadsReturnAndStoresDrain : Obligations.LoadsReturnAndStoresDrain := by
  intro s c ha hcl hk fl n x writes does ends holds comes far got
  have step : ∀ {i : Instr} {f : State → State} {y : Cell} {l : List Nat} {w : Nat → Word}, exec i s = .next (s.liveS f) → s.StoresTo (f s) c.val y l w →
      writes i l w y := fun hi h => ⟨_, hi.trans (State.next_liveS ha rfl), h.1, h.2.1, h.2.2.1, h.2.2.2⟩
  have hlc : ∀ l cause, (x.loadHolds l cause).closed = false := fun l cause => (Cell.loadHolds_closed ..).trans hcl
  have hcc : ∀ l k v, (x.loadComes l k v).closed = false := fun l k v => (Cell.loadComes_closed ..).trans hcl
  refine ⟨fun l hl hio hb hr hs => ?_, fun l w hl hio hb hw => ?_, fun l hl ⟨hio, hb, hkn, hs, hca, ht, hr⟩ hg => ?_,
    fun l hl ⟨hio, hb, hkn, hs, hca, ht, hr⟩ hg => ?_, fun l w hl hio hw => ?_, fun e a hf ht hr hq => ?_, fun e hf ht hr hq => ?_,
    fun e he hs ht hw => ?_, fun i l hi hb => ?_⟩
  · refine step rfl ?_
    rw [State.loadReturn_data fl hl hio hk hr (.inl hs)]
    exact ((State.loadTake_bad l fl hb).pump (hlc _ _)).storesNone
  · refine step rfl ?_
    rw [State.loadReturn_data fl hl hio hk (.inr (by rw [hw]; simp)) (.inr (by rw [hw]; simp))]
    refine ((State.loadTake_known l fl hb hio hw).pump ?_).storesNone
    split
    · exact hlc _ _
    · exact hcc _ _ _
  · refine step rfl ?_
    rw [State.loadReturn_data fl hl hio hk (.inl hr) (.inl hs)]
    exact ((State.loadTake_gone l fl hb hkn ht hg).pump (hlc _ _)).storesNone
  · refine step rfl ?_
    rw [State.loadReturn_data fl hl hio hk (.inl hr) (.inl hs)]
    refine ((State.loadTake_far l fl hb hio hkn hca ht hg).pump ?_).storesNone
    split
    · exact hlc _ _
    · exact hcc _ _ _
  · have hret : s.loadReturn c.val n fl = (s.inBack c.val l (loHalf w) l.bad (fl.path.extractLsb' 0 43)).pump c.val := by
      unfold State.loadReturn
      dsimp only
      rw [show (s.dev.cell c.val).loads[n]? = some l from hl]
      dsimp only
      rw [if_neg (by rw [hk]; decide), if_pos hio, hw]
    refine step rfl ?_
    rw [hret]
    refine ((State.inBack_cell l hio (loHalf w) _).pump ?_).storesNone
    split
    · exact hlc _ _
    · exact hcc _ _ _
  · have hd := State.storeDrain_permit fl hf hk ht hr hq
    have hal := State.sends_alike s c.val e.addr
    have hcell := (State.CellTo.refl s c.val).dev (Dev.sends_cell s.dev c.val e.addr)
    refine ⟨fun hp => step rfl ?_, fun hg hfl hfa hw hca => ?_⟩
    · refine State.CellTo.storesNone ?_
      rw [hd]
      by_cases hg : s.dev.dramGone e.addr = true
      · rw [if_pos hg, show (s.dev.sends c.val e.addr).cell c.val = x from Dev.sends_cell s.dev c.val e.addr c.val]
        exact hcell.put _
      · rw [if_neg hg]
        refine State.storeIn_fails hcell (s.sentStore e a) fl ?_
        have hport : (s.dev.sends c.val e.addr).cellPort c.val e.addr = s.dev.cellPort c.val e.addr := by
          unfold Dev.cellPort Dev.onDitch
          rw [(Dev.sends_places s.dev c.val e.addr).target]
        have := ((hal.strike (busAddr c.val e.addr) fl.mem).storePart (busAddr c.val e.addr) e.wid e.val
          (if (s.dev.cellPort c.val e.addr).isSome then fl.path else 0)).trans (hp.resolve_left hg)
        rw [← hport] at this
        exact this
    · subst hfl
      rw [if_neg (by rw [hg]; decide)] at hd
      refine ⟨fun j hT => step rfl ?_, fun T hT hl hre => step rfl ?_⟩
      · rw [hd]; exact State.storeIn_local hfa hw hca hT
      · rw [hd]; exact State.storeIn_far hfa hw hca hT hl hre
  · exact step rfl (State.storeDrain_refused fl hf hk ht hr hq).storesNone
  · exact step rfl (State.storeAck_frees he hs hk ht hw hcl).storesNone
  · exact step rfl (State.istWrite_puts hi hb hk)

end Sys2Proof.Machine
end

section
/-! What comes back to fetch and translation (R416, R418, R424, R461-R467, R478): lines, prefetched lines and page words. -/

namespace Sys2Proof.Machine

open Sys2Proof

/-! ### Lines (R416, R418) -/

/-- A line that its cell waits for enters the wide-line buffer. -/
theorem State.lineReturn_fills {s : State} {c : Nat} {l : FetchE} (fl : Flips) (hl : (s.dev.cell c).line = some l) (hr : s.dev.refreshing l.addr = false)
    (ht : s.dev.inTurn c l.addr l.fly (s.dev.cell c).onWay = true) (hg : s.dev.dramGone l.addr = false) :
    s.CellTo (s.lineReturn c fl) c ((({ (s.dev.cell c).learn l.attr with line := none } : Cell)).wlFill l.addr (s.cellWords c l.addr 8 fl).1
      (s.cellWords c l.addr 8 fl).2.1) := by
  have hc := ((State.CellTo.refl s c).reads (State.cellWords_reads s c l.addr 8 fl)).dev (Dev.land_cell _ (some l.fly))
  unfold State.lineReturn
  dsimp only
  rw [hl]
  dsimp only
  rw [if_neg (by rw [hr, ht]; decide), if_neg (by rw [hg]; decide)]
  exact hc.put _

theorem State.lineBack_fills {s : State} {c : Nat} {l : FetchE} (fl : Flips) (cal : Caliper) (hcl : (s.dev.cell c).closed = false)
    (hk : s.dev.clockStopped c = false) (hl : (s.dev.cell c).line = some l) (hr : s.dev.refreshing l.addr = false)
    (ht : s.dev.inTurn c l.addr l.fly (s.dev.cell c).onWay = true) (hg : s.dev.dramGone l.addr = false) :
    s.CellTo (s.lineBack c fl cal) c ((({ (s.dev.cell c).learn l.attr with line := none } : Cell)).wlFill l.addr (s.cellWords c l.addr 8 fl).1
      (s.cellWords c l.addr 8 fl).2.1) := by
  have h := State.lineReturn_fills fl hl hr ht hg
  have hc : ((({ (s.dev.cell c).learn l.attr with line := none } : Cell)).wlFill l.addr (s.cellWords c l.addr 8 fl).1
      (s.cellWords c l.addr 8 fl).2.1).closed = false := (Cell.learn_keeps (s.dev.cell c) l.attr).1.trans hcl
  generalize ((({ (s.dev.cell c).learn l.attr with line := none } : Cell)).wlFill l.addr (s.cellWords c l.addr 8 fl).1
      (s.cellWords c l.addr 8 fl).2.1) = y at h hc
  unfold State.lineBack
  dsimp only
  rw [if_neg (by rw [hk]; decide), h.2.2.1, if_pos (.inr (by rw [hc]; rfl))]
  exact (h.put y).pump hc

theorem Cell.translate_off {x : Cell} (h1 : x.s1On = false) (h2 : x.s2On = false) (ins : Bool) (acc va : Nat) : x.translate ins acc va = .pa va := by
  unfold Cell.translate
  simp only [h1, h2, Bool.false_eq_true, if_false, ite_self]

/-- A line prefetched ahead of the pc enters the wide-line buffer. -/
theorem State.prefetchLine_fills {s : State} {c m n : Nat} {q : Attr} (fl : Flips) (hrun : s.dev.running c = true) (hp : s.dev.ff (clCfg c) ClCfg.PFEN = true)
    (h2 : (s.dev.cell c).s2On = false) (h1 : (s.dev.cell c).s1On = false)
    (hm : s.dev.opWord (s.dev.cell c).part (s.dev.cell c).pc = some m) (hm4 : 4 ≤ m % 8)
    (hn : s.dev.opWord (s.dev.cell c).part (((s.dev.cell c).pc + (16 - (s.dev.cell c).pc % 16)) % 2 ^ 36) = some n)
    (hw : (s.dev.cell c).wlHolds n = false) (hr : s.dev.refreshing n = false) (ht : s.dev.clearTo c n (s.dev.cell c).onWay = true)
    (hg : s.dev.dramGone n = false) (hq : (s.dev.ask (s.dev.dataReq c (s.dev.cell c).pl .prefetch n false)).1 = .permit q) :
    s.CellTo (s.prefetchLine c fl) c (((s.dev.cell c).learn (some q.entry)).wlFill n (s.cellWords c (n / 8 * 8) 8 fl).1 (s.cellWords c (n / 8 * 8) 8 fl).2.1) := by
  obtain ⟨d1, hd1⟩ : ∃ d1, d1 = s.dev.putCell c ((s.dev.cell c).learn (some q.entry)) := ⟨_, rfl⟩
  have hcell : s.CellTo (s.onDev d1) c ((s.dev.cell c).learn (some q.entry)) := by rw [hd1]; exact (State.CellTo.refl s c).put _
  have ht1 : s.CellTo (s.onDev (d1.touch (lineOf n) 8)) c ((s.dev.cell c).learn (some q.entry)) := hcell.dev fun k => Dev.touch_cell ..
  have hal : s.Alike (s.onDev (d1.touch (lineOf n) 8)) := ⟨rfl, by rw [hd1]; exact (Dev.putCell_places ..).trans (Dev.touch_places ..)⟩
  obtain ⟨e1, e2⟩ := hal.cellWords c (lineOf n) 8 fl
  have hrd := ht1.reads (State.cellWords_reads _ c (lineOf n) 8 fl)
  have hgone : d1.dramGone n = false := by rw [hd1]; exact hg
  have hln : lineOf n = n / 8 * 8 := rfl
  unfold State.prefetchLine
  dsimp only
  rw [if_pos (by rw [hrun, hp]; rfl), Cell.translate_off h1 h2]
  dsimp only
  rw [hm]
  dsimp only
  rw [if_neg (by omega), Cell.translate_off h1 h2]
  dsimp only
  rw [show s.dev.opWord (s.dev.cell c).part (opAdd (s.dev.cell c).pc (16 - (s.dev.cell c).pc % 16)) = some n from hn]
  dsimp only
  rw [if_neg (by rw [hw, hr, ht]; decide), Dev.ask_permit hq]
  dsimp only
  rw [← hd1, hgone, if_neg (by decide)]
  have hput := hrd.put (((s.dev.cell c).learn (some q.entry)).wlFill n (s.cellWords c (lineOf n) 8 fl).1 (s.cellWords c (lineOf n) 8 fl).2.1)
  rw [← hln, show ({ s with dev := d1.touch (lineOf n) 8 } : State) = s.onDev (d1.touch (lineOf n) 8) from rfl, hrd.2.2.1, e1, e2]
  exact hput

/-! ### Page words (R461-R467) -/

theorem State.CellTo.handEnd {s t : State} {c : Nat} {x : Cell} (h : s.CellTo t c x) {f : Nat} (hh : (t.dev.fur f).haltW = 0) (hk : (t.dev.fur f).clkW = none) :
    s.CellTo (t.onDev (t.dev.handEnd f)) c x := by
  refine h.dev fun k => ?_
  unfold Dev.handEnd
  split
  · simp only [hh, hk, show bitsOf 0 4 = [] from rfl, List.filter_nil, List.foldl_nil]
    rfl
  · rfl

/-- The response of a walk's read: the furrow has no halt and no clock change that waits for the walk. -/
theorem State.walkBack_cell {s : State} {c : Nat} {t : State} {z : Cell} {d : Dev} (fl : Flips) {cal : Caliper} (hw : (s.dev.cell c).walk ≠ none)
    (hk : s.dev.clockStopped c = false) (hcal : s.dev.role c ≠ 1 ∨ cal = .agree) (hh : (s.dev.fur (c / 4)).haltW = 0) (hck : (s.dev.fur (c / 4)).clkW = none)
    (ht : s.Reads t) (hd : ∀ k, d.cell k = t.dev.cell k) (hf : d.furs = t.dev.furs) (hr : s.walkReturn c fl = t.onDev (d.putCell c z)) (hzc : z.closed = false) :
    s.CellTo (s.walkBack c fl cal) c z := by
  have hto : s.CellTo (t.onDev (d.putCell c z)) c z := (((State.CellTo.refl s c).reads ht).dev hd).put z
  have hfur : (d.putCell c z).fur (c / 4) = s.dev.fur (c / 4) := by
    obtain ⟨-, -, p, r, hdev⟩ := ht
    have h1 : t.dev.furs = s.dev.furs := by rw [hdev]
    unfold Dev.fur
    rw [show (d.putCell c z).furs = d.furs from rfl, hf, h1]
  unfold State.walkBack
  rw [if_neg (by rw [hk]; simpa using hw), State.ifJudged_of _ _ _ hcal]
  dsimp only
  rw [hr, State.pump_open _ _ ((congrArg Cell.closed hto.2.2.1).trans hzc)]
  split
  · exact hto.handEnd (by rw [State.onDev_dev, hfur]; exact hh) (by rw [State.onDev_dev, hfur]; exact hck)
  · exact hto

theorem State.walkReturn_of {s : State} {c id : Nat} {w : Walk} (fl : Flips) (hw : (s.dev.cell c).walk = some w) (hf : w.fly = some id) (hr : s.dev.refreshing w.rd = false)
    (ht : s.dev.inTurn c w.rd id (s.dev.cell c).onWay = true) :
    let r := s.cellWords c w.rd 1 fl
    let d1 := (r.2.2.dev.land id).putCell c ((s.dev.cell c).learn w.attr)
    s.walkReturn c fl = r.2.2.onDev (if r.2.1 ≠ 0 ∨ s.dev.dramGone w.rd = true then d1.trFault c w.acc w.va (w.fault 4)
      else d1.walkTake c { w with fly := none } (r.1.headD 0)) := by
  intro r d1
  unfold State.walkReturn
  dsimp only
  rw [hw]
  dsimp only
  rw [hf]
  dsimp only
  rw [if_neg (by rw [hr, ht]; decide)]
  split <;> rfl

/-- A page word enters the TLB. -/
theorem Dev.walkTake_page (d : Dev) (c t : Nat) (w : Walk) (e : Word) (h1 : w.s1 = some (2, t)) (h2 : w.s2 = none) (hs : (d.cell c).s2On = false)
    (he : e.toNat / 2 ^ 70 = 2) (hb : badPage w.ins true e = false) :
    d.walkTake c w e = d.putCell c { (d.cell c).tlbFill false w.ins w.va e with walk := none } := by
  unfold Dev.walkTake
  dsimp only
  have hn : ¬ (2 ≠ if (Option.map Prod.fst (some (2, t))).getD 0 < 2 then 1 else 2) := not_not_intro rfl
  have hl : ¬ (Option.map Prod.fst (some (2, t))).getD 0 < 2 := Nat.lt_irrefl 2
  rw [he, h1, h2, hs]
  dsimp only
  rw [if_neg (by decide), if_neg hn, if_neg hl, if_neg (by rw [show (!false) = true from rfl, hb]; decide)]

/-- An empty table word is a translation fault. -/
theorem Dev.walkTake_empty (d : Dev) (c : Nat) (w : Walk) (e : Word) (he : e.toNat / 2 ^ 70 = 0) : d.walkTake c w e = d.trFault c w.acc w.va (w.fault 0) := by
  unfold Dev.walkTake
  dsimp only
  rw [he, if_pos (.inl rfl)]

theorem Entry.vector_cause (e : Entry) (evb : Nat) (h : e.ev = none) :
    e.vector evb = (evb * 1024 + (if e.lvl = 2 then 0x100 else 0) + 4 * e.cause) % 2 ^ 36 := by
  have : (if e.lvl = 2 then 0x100 + 4 * e.cause else 4 * e.cause) = (if e.lvl = 2 then 0x100 else 0) + 4 * e.cause := by split <;> omega
  rw [Entry.vector, h, opAdd, Nat.add_assoc, ← this]

/-- A fault outside a delay bundle: what it keeps, and where its handler is. -/
theorem Cell.fault_fields (x : Cell) (cause : Nat) (hd : x.delay = none) : (x.fault cause).closed = false ∧ (x.fault cause).walk = none ∧
    (x.fault cause).trfva = x.trfva ∧ (x.fault cause).pc = (x.evb * 1024 + (if x.pl = 2 then 0x100 else 0) + 4 * cause) % 2 ^ 36 := by
  have hent : ∀ (y : Cell) (e : Entry), (y.enter e).walk = none ∧ (y.enter e).trfva = y.trfva := by
    intro y e
    unfold Cell.enter
    dsimp only
    split <;> exact ⟨rfl, rfl⟩
  obtain ⟨E, hE⟩ : ∃ E : Entry, E = { lvl := x.entryLevel, cause := cause, epc := x.pc, resume := x.resume } := ⟨_, rfl⟩
  have hx : x.fault cause = x.enter E := by
    unfold Cell.fault
    rw [hd, hE]
  have hl : E.lvl = if x.pl = 2 then 2 else 1 := by rw [hE]; rfl
  rw [hx]
  refine ⟨Cell.enter_closed .., (hent x E).1, (hent x E).2, ?_⟩
  rw [Cell.enter_pc, Entry.vector_cause E _ (by rw [hE]), hl, show E.cause = cause by rw [hE]]
  by_cases h : x.pl = 2
  · rw [if_pos h, if_pos rfl, if_pos h]
  · rw [if_neg h, if_neg (by decide), if_neg h]

/-- The word that TRFR shows of a translation fault (R463). -/
def Cell.trWord (x : Cell) (acc : Nat) (f : TrFault) : Word :=
  fields [(1, 35), (f.stage, 33), (f.lvl, 31), (f.kind, 28), (b2n (decide (acc = 2)), 27), (acc, 25), (x.pl, 23), (b2n f.s1lvl.isSome, 22), (f.s1lvl.getD 0, 20)]

/-- The cell with a translation fault noted (R463). -/
def Cell.trNotes (x : Cell) (w : Word) (va : Nat) (f : TrFault) : Cell := { x with walk := none, trfr := w, trfva := va, trfia := f.ia, trfta := f.ta }

theorem Cell.trNotes_keeps (x : Cell) (w : Word) (va : Nat) (f : TrFault) : (x.trNotes w va f).pl = x.pl ∧ (x.trNotes w va f).evb = x.evb ∧
    (x.trNotes w va f).trfva = va ∧ (x.trNotes w va f).delay = x.delay := ⟨rfl, rfl, rfl, rfl⟩

/-- The cell that a translation fault enters (R434, R441, R463). -/
def Cell.trEnters (x : Cell) (acc va : Nat) (f : TrFault) : Cell := (x.trNotes (x.trWord acc f) va f).fault (if acc = 2 then cTFETCH else cTDATA)

theorem Dev.trFault_of (d : Dev) (c acc va : Nat) (f : TrFault) (hv : (d.cell c).vec = none) (hb : (d.cell c).blk = none) :
    d.trFault c acc va f = d.putCell c ((d.cell c).trEnters acc va f) := by
  have hc : ¬ ((if acc = 2 then cTFETCH else cTDATA) = cFETCH ∨ (if acc = 2 then cTFETCH else cTDATA) = cIACC ∨ (if acc = 2 then cTFETCH else cTDATA) = cDACC ∨
      (if acc = 2 then cTFETCH else cTDATA) = cDERR) := by split <;> decide
  unfold Dev.trFault
  dsimp only
  rw [hb]
  dsimp only
  unfold Dev.faultAt
  dsimp only
  rw [if_neg hc, Dev.putCell_cell, hv]
  dsimp only
  rw [Dev.putCell_putCell]
  rfl

theorem Cell.trEnters_fields (x : Cell) (acc va : Nat) (f : TrFault) (hd : x.delay = none) : (x.trEnters acc va f).closed = false ∧
    (x.trEnters acc va f).walk = none ∧ (x.trEnters acc va f).trfva = va ∧
    (x.trEnters acc va f).pc = (x.evb * 1024 + (if x.pl = 2 then 0x100 else 0) + 4 * (if acc = 2 then 6 else 7)) % 2 ^ 36 := by
  have hcause : (if acc = 2 then cTFETCH else cTDATA) = if acc = 2 then 6 else 7 := by split <;> rfl
  obtain ⟨hpl, hevb, hva, hdy⟩ := Cell.trNotes_keeps x (x.trWord acc f) va f
  unfold Cell.trEnters
  rw [hcause]
  generalize x.trNotes (x.trWord acc f) va f = y at hpl hevb hva hdy ⊢
  rw [← hpl, ← hevb, ← hva]
  exact Cell.fault_fields y _ (hdy.trans hd)

theorem Cell.learn_flow (x : Cell) (a : Option AttrE) : (x.learn a).vec = x.vec ∧ (x.learn a).blk = x.blk ∧ (x.learn a).delay = x.delay ∧ (x.learn a).st = x.st ∧
    (x.learn a).evb = x.evb ∧ (x.learn a).trs2c = x.trs2c := by
  unfold Cell.learn
  split
  · exact ⟨rfl, rfl, rfl, rfl, rfl, rfl⟩
  · split <;> exact ⟨rfl, rfl, rfl, rfl, rfl, rfl⟩

theorem Cell.s2On_congr {x y : Cell} (h1 : y.st = x.st) (h2 : y.trs2c = x.trs2c) : y.s2On = x.s2On := by
  unfold Cell.s2On Cell.pl Cell.te
  rw [h1, h2]

/-- Settles O45: a line by its fill, a page word by its type, an empty or a poisoned one by the fault. -/
theorem fetchesAndWalksReturn : Obligations.FetchesAndWalksReturn := by
  intro s c fl cal ha hcl hk x does fills op
  have step : ∀ {i : Instr} {f : State → State} {y : Cell}, exec i s = .next (s.liveS f) → s.CellTo (f s) c.val y → does i y := fun hi h =>
    ⟨_, hi.trans (State.next_liveS ha rfl), h.1, h.2.1, h.2.2.1, h.2.2.2⟩
  refine ⟨fun l hl hr ht hg => ?_, fun m n q hcal hrun hp h2 h1 _ _ hm hm4 hn hw hr ht hg hq => ?_, fun w id hw hf hcal hr ht hh hck => ?_⟩
  · exact step rfl (State.lineBack_fills fl cal hcl hk hl hr ht hg)
  · refine step rfl ?_
    have h := State.prefetchLine_fills fl hrun hp h2 h1 hm hm4 hn hw hr ht hg hq
    have e : s.prefetch c.val fl cal = s.prefetchLine c.val fl := State.ifJudged_of _ _ _ (ite_agree hcal (s.dev.running c.val = true))
    rw [e]
    exact h
  · intro r e gone
    have hret := State.walkReturn_of fl hw hf hr ht
    have hrd := State.cellWords_reads s c.val w.rd 1 fl
    obtain ⟨l1, l2, l3, l4, l5, l6⟩ := Cell.learn_flow x w.attr
    have hlc : (x.learn w.attr).closed = false := (Cell.learn_keeps x w.attr).1.trans hcl
    have hwne : (s.dev.cell c.val).walk ≠ none := by rw [show (s.dev.cell c.val).walk = some w from hw]; simp
    have back : ∀ {z : Cell}, s.walkReturn c.val fl = r.2.2.onDev ((r.2.2.dev.land id).putCell c.val z) → z.closed = false → s.CellTo (s.walkBack c.val fl cal) c.val z :=
      fun hz hzc => State.walkBack_cell fl hwne hk hcal hh hck hrd (fun k => Dev.land_cell _ (some id) k) rfl hz hzc
    refine ⟨fun t h1 h2 hs hgone he hb => step rfl (back (z := { (x.learn w.attr).tlbFill false w.ins w.va e with walk := none }) ?_ hlc), fun hv hb hd hbad => ?_⟩
    · rw [hret, if_neg hgone, Dev.walkTake_page _ c.val t { w with fly := none } e h1 h2 (by rw [Dev.putCell_cell]; exact (Cell.s2On_congr l4 l6).trans hs) he hb,
        Dev.putCell_cell, Dev.putCell_putCell]
      rfl
    · obtain ⟨f, hfault⟩ : ∃ f, s.walkReturn c.val fl = r.2.2.onDev ((r.2.2.dev.land id).putCell c.val ((x.learn w.attr).trEnters w.acc w.va f)) := by
        have htr : ∀ f, ((r.2.2.dev.land id).putCell c.val (x.learn w.attr)).trFault c.val w.acc w.va f =
            (r.2.2.dev.land id).putCell c.val ((x.learn w.attr).trEnters w.acc w.va f) := fun f => by
          rw [Dev.trFault_of _ _ _ _ _ (by rw [Dev.putCell_cell]; exact l1.trans hv) (by rw [Dev.putCell_cell]; exact l2.trans hb), Dev.putCell_cell, Dev.putCell_putCell]
        by_cases hgo : gone
        · exact ⟨w.fault 4, by rw [hret, if_pos hgo, htr]⟩
        · exact ⟨_, by rw [hret, if_neg hgo, Dev.walkTake_empty _ _ _ _ (hbad.resolve_left hgo)]; exact congrArg _ (htr _)⟩
      obtain ⟨f1, f2, f3, f4⟩ := Cell.trEnters_fields (x.learn w.attr) w.acc w.va f (l3.trans hd)
      have h := back hfault f1
      have hpl : (x.learn w.attr).pl = x.pl := by unfold Cell.pl; rw [l4]
      refine ⟨_, State.next_liveS ha rfl, h.1, h.2.1, ?_, ?_, ?_⟩
      · rw [h.2.2.1]; exact f2
      · rw [h.2.2.1]; exact f3
      · rw [h.2.2.1, f4, l5, hpl]

end Sys2Proof.Machine
end

section
/-! The check codes (R477, R479): a check sees only the flipped bits, through the exclusive OR of their columns. Columns are distinct and of odd
weight, so one flipped bit is found by its column, and two give an even column that no bit has. -/

namespace Sys2Proof.Machine

open Sys2Proof

/-! ### The columns of flipped bits -/

/-- One step of `checkBits`, with its columns numbered from `m` on. -/
def checkFrom (v : Nat) (cols : List Nat) (m c : Nat) : Nat := (cols.zipIdx m).foldl (fun c p => if v.testBit p.2 then c ^^^ p.1 else c) c

theorem checkFrom_cons (v h : Nat) (cols : List Nat) (m c : Nat) :
    checkFrom v (h :: cols) m c = checkFrom v cols (m + 1) (if v.testBit m then c ^^^ h else c) := rfl

theorem checkFrom_xor (u v : Nat) (cols : List Nat) (m a b : Nat) : checkFrom (u ^^^ v) cols m (a ^^^ b) = checkFrom u cols m a ^^^ checkFrom v cols m b := by
  induction cols generalizing m a b with
  | nil => rfl
  | cons h cols ih =>
    rw [checkFrom_cons, checkFrom_cons, checkFrom_cons, ← ih, Nat.testBit_xor]
    congr 1
    cases u.testBit m <;> cases v.testBit m <;> simp [Nat.xor_comm, Nat.xor_left_comm]

theorem checkBits_xor (cols : List Nat) (u v : Nat) : checkBits cols (u ^^^ v) = checkBits cols u ^^^ checkBits cols v := checkFrom_xor u v cols 0 0 0

theorem checkFrom_past (cols : List Nat) {i m : Nat} (h : i < m) (c : Nat) : checkFrom (2 ^ i) cols m c = c := by
  induction cols generalizing m with
  | nil => rfl
  | cons a cols ih => 
    rw [checkFrom_cons, Nat.testBit_two_pow_of_ne (by omega), if_neg (by decide), ih (by omega)]

theorem checkFrom_bit (cols : List Nat) (k m c : Nat) : checkFrom (2 ^ (m + k)) cols m c = c ^^^ cols.getD k 0 := by
  induction cols generalizing k m c with
  | nil => exact (Nat.xor_zero c).symm
  | cons a cols ih =>
    rw [checkFrom_cons]
    cases k with
    | zero => rw [Nat.add_zero, Nat.testBit_two_pow_self, if_pos rfl, checkFrom_past cols (by omega)]; rfl
    | succ k => rw [Nat.testBit_two_pow_of_ne (by omega), show m + (k + 1) = m + 1 + k by omega, ih]; rfl

/-- The check bits of a single data bit are its column. -/
theorem checkBits_bit (cols : List Nat) (k : Nat) : checkBits cols (2 ^ k) = cols.getD k 0 := by
  have h := checkFrom_bit cols k 0 0
  rw [Nat.zero_add, Nat.zero_xor] at h
  exact h

theorem checkBits_zero (cols : List Nat) : checkBits cols 0 = 0 := by
  have h := checkBits_xor cols 0 0
  rw [Nat.xor_self, Nat.xor_self] at h
  exact h

/-! ### Weights -/

theorem popCount_xor (u v n : Nat) : popCount (u ^^^ v) n % 2 = (popCount u n + popCount v n) % 2 := by
  induction n with
  | zero => rfl
  | succ n ih =>
    simp only [popCount, Nat.testBit_xor]
    cases u.testBit n <;> cases v.testBit n <;> simp only [b2n, Bool.xor_false, Bool.xor_true, Bool.not_false, Bool.not_true, if_true, Bool.false_eq_true, if_false] <;> omega

/-- A code of `n` data bits and `k` check bits: the columns of all its bits, those of the check bits last, are distinct and of odd weight. -/
structure IsCode (cols : List Nat) (n k : Nat) : Prop where
  length : cols.length = n
  nodup : (cols ++ (List.range k).map (2 ^ ·)).Nodup
  odd : ∀ h ∈ cols ++ (List.range k).map (2 ^ ·), popCount h k % 2 = 1

theorem wordCode : IsCode wordCols 72 8 := ⟨by decide +kernel, by decide +kernel, by decide +kernel⟩

theorem ioCode : IsCode ioCols 36 7 := ⟨by decide +kernel, by decide +kernel, by decide +kernel⟩

/-- The column of bit `i` of a code word. -/
def bitCol (cols : List Nat) (k i : Nat) : Nat := (cols ++ (List.range k).map (2 ^ ·)).getD i 0

theorem bitCol_data {cols : List Nat} {n k i : Nat} (hc : IsCode cols n k) (hi : i < n) : bitCol cols k i = cols.getD i 0 := by
  unfold bitCol
  rw [List.getD_append _ _ _ _ (by rw [hc.length]; exact hi)]

theorem bitCol_check {cols : List Nat} {n k i : Nat} (hc : IsCode cols n k) (hi : i < k) : bitCol cols k (n + i) = 2 ^ i := by
  unfold bitCol
  rw [List.getD_append_right _ _ _ _ (by rw [hc.length]; omega), hc.length, Nat.add_sub_cancel_left, List.getD_eq_getElem _ _ (by simpa using hi)]
  simp

theorem bitCol_mem {cols : List Nat} {n k i : Nat} (hc : IsCode cols n k) (hi : i < k + n) : bitCol cols k i ∈ cols ++ (List.range k).map (2 ^ ·) := by
  unfold bitCol
  rw [List.getD_eq_getElem _ _ (by simp [hc.length]; omega)]
  exact List.getElem_mem _

theorem bitCol_inj {cols : List Nat} {n k i j : Nat} (hc : IsCode cols n k) (hi : i < k + n) (hj : j < k + n) (h : bitCol cols k i = bitCol cols k j) : i = j := by
  unfold bitCol at h
  rw [List.getD_eq_getElem _ _ (by simp [hc.length]; omega), List.getD_eq_getElem _ _ (by simp [hc.length]; omega)] at h
  exact (hc.nodup.getElem_inj_iff).1 h

/-! ### Words with flipped bits -/

/-- The column that a check finds where the bits `f` have flipped. -/
def flipCol {n k : Nat} (cols : List Nat) (f : BitVec (k + n)) : Nat := checkBits cols (f.extractLsb' 0 n).toNat ^^^ (f.extractLsb' n k).toNat

theorem flipCol_xor {n k : Nat} (cols : List Nat) (f g : BitVec (k + n)) : flipCol cols (f ^^^ g) = flipCol cols f ^^^ flipCol cols g := by
  unfold flipCol
  rw [BitVec.extractLsb'_xor, BitVec.extractLsb'_xor, BitVec.toNat_xor, BitVec.toNat_xor, checkBits_xor]
  ac_rfl

theorem extract_twoPow (w start len i : Nat) (h : start + len ≤ w) :
    (BitVec.twoPow w i).extractLsb' start len = if start ≤ i ∧ i < start + len then BitVec.twoPow len (i - start) else 0 := by
  ext j hj
  rw [BitVec.getElem_extractLsb']
  split
  · rw [BitVec.getLsbD_twoPow, BitVec.getElem_twoPow, decide_eq_true (by omega : i < w), Bool.true_and]
    exact decide_eq_decide.2 (by omega)
  · rw [BitVec.getLsbD_twoPow, show (0 : BitVec len)[j] = false from BitVec.getElem_zero hj]
    simp only [Bool.and_eq_false_imp, decide_eq_true_eq, decide_eq_false_iff_not]
    omega

/-- One flipped bit is found by its column. -/
theorem flipCol_bit {cols : List Nat} {n k i : Nat} (hc : IsCode cols n k) (hi : i < k + n) : flipCol cols (BitVec.twoPow (k + n) i) = bitCol cols k i := by
  unfold flipCol
  rw [extract_twoPow _ _ _ _ (by omega), extract_twoPow _ _ _ _ (by omega)]
  by_cases h : i < n
  · rw [if_pos (by omega), if_neg (by omega), BitVec.toNat_twoPow_of_lt (by omega), Nat.sub_zero, checkBits_bit, bitCol_data hc h]
    exact Nat.xor_zero _
  · obtain ⟨j, rfl⟩ : ∃ j, i = n + j := ⟨i - n, by omega⟩
    rw [if_neg (by omega), if_pos (by omega), BitVec.toNat_twoPow_of_lt (by omega), Nat.add_sub_cancel_left, bitCol_check hc (by omega)]
    exact (congrArg (· ^^^ 2 ^ j) (checkBits_zero cols)).trans (Nat.zero_xor _)

/-- A value with its check bits, generally: `encodeWord` and `encodeIo` are this for their columns. -/
def encoded (cols : List Nat) (k : Nat) {n : Nat} (v : BitVec n) : BitVec (k + n) := BitVec.ofNat k (checkBits cols v.toNat) ++ v

/-- The check of a value with its check bits, generally: `checkWord` and `checkIo` are this for their columns. -/
def checkedVec (cols : List Nat) {n k : Nat} (x : BitVec (k + n)) : BitVec n × Nat :=
  let r := checked cols k (x.extractLsb' 0 n).toNat (x.extractLsb' n k).toNat
  (BitVec.ofNat n r.1, r.2)

/-- What a check of flipped bits finds, from the column of the flips. -/
theorem checkedVec_flipped {cols : List Nat} {n k : Nat} (hlt : ∀ u, checkBits cols u < 2 ^ k) (v : BitVec n) (f : BitVec (k + n)) {u : BitVec n}
    (hx : u = v ^^^ f.extractLsb' 0 n) : checkedVec cols (encoded cols k v ^^^ f) = if flipCol cols f = 0 then (u, 0)
      else match cols.findIdx? (fun h => decide (h = flipCol cols f)) with
      | some i => (BitVec.ofNat n (setBit u.toNat i (!u.toNat.testBit i)), 1)
      | none => if (List.range k).any (fun j => decide (2 ^ j = flipCol cols f)) then (u, 1) else (u, 2) := by
  have hlo : (encoded cols k v ^^^ f).extractLsb' 0 n = u := by
    rw [BitVec.extractLsb'_xor, show (encoded cols k v).extractLsb' 0 n = v from BitVec.extractLsb'_append_eq_right, ← hx]
  have hhi : ((encoded cols k v ^^^ f).extractLsb' n k).toNat = checkBits cols v.toNat ^^^ (f.extractLsb' n k).toNat := by
    rw [BitVec.extractLsb'_xor, show (encoded cols k v).extractLsb' n k = BitVec.ofNat k (checkBits cols v.toNat) from BitVec.extractLsb'_append_eq_left,
      BitVec.toNat_xor, BitVec.toNat_ofNat, Nat.mod_eq_of_lt (hlt _)]
  have hs : checkBits cols u.toNat ^^^ (checkBits cols v.toNat ^^^ (f.extractLsb' n k).toNat) = flipCol cols f := by
    rw [hx, BitVec.toNat_xor, checkBits_xor, flipCol]
    rw [Nat.xor_comm (checkBits cols v.toNat), Nat.xor_assoc, ← Nat.xor_assoc (checkBits cols v.toNat), Nat.xor_self, Nat.zero_xor]
  have hu : BitVec.ofNat n u.toNat = u := by simp
  unfold checkedVec checked
  dsimp only
  rw [hlo, hhi, hs]
  split
  · rw [hu]
  · cases cols.findIdx? (fun h => decide (h = flipCol cols f)) with
    | some i => rfl
    | none =>
      dsimp only
      split <;> rw [hu]

theorem checkFrom_lt (v : Nat) {cols : List Nat} {k : Nat} (h : ∀ a ∈ cols, a < 2 ^ k) (m : Nat) {c : Nat} (hc : c < 2 ^ k) : checkFrom v cols m c < 2 ^ k := by
  induction cols generalizing m c with
  | nil => exact hc
  | cons a cols ih =>
    rw [checkFrom_cons]
    refine ih (fun b hb => h b (List.mem_cons_of_mem _ hb)) _ ?_
    split
    · exact Nat.xor_lt_two_pow hc (h a List.mem_cons_self)
    · exact hc

theorem checkBits_lt {cols : List Nat} {k : Nat} (h : ∀ a ∈ cols, a < 2 ^ k) (u : Nat) : checkBits cols u < 2 ^ k :=
  checkFrom_lt u h 0 (Nat.two_pow_pos k)

/-! ### A bit that is set -/

/-- To set a bit that is clear is to flip it. -/
theorem add_two_pow_of_clear {n i : Nat} (h : n.testBit i = false) : n + 2 ^ i = n ^^^ 2 ^ i := by
  obtain ⟨w, hw⟩ : ∃ w, w = n + i + 1 := ⟨_, rfl⟩
  have hn : n < 2 ^ w := Nat.lt_trans (by omega) Nat.lt_two_pow_self
  have hi : i < w := by omega
  have hy : (BitVec.ofNat w n).toNat = n := by rw [BitVec.toNat_ofNat, Nat.mod_eq_of_lt hn]
  have hand : BitVec.ofNat w n &&& BitVec.twoPow w i = 0#w := by
    rw [BitVec.and_twoPow, BitVec.getLsbD, hy, h]
    rfl
  have hsum := BitVec.toNat_add_of_and_eq_zero hand
  have hxor : BitVec.ofNat w n + BitVec.twoPow w i = BitVec.ofNat w n ^^^ BitVec.twoPow w i := by
    rw [BitVec.add_eq_or_of_and_eq_zero _ _ hand]
    ext j hj
    have hb := congrArg (fun x => x.getLsbD j) hand
    simp only [BitVec.getLsbD_and, BitVec.getLsbD_zero] at hb
    rw [BitVec.getElem_or, BitVec.getElem_xor]
    rw [BitVec.getLsbD_eq_getElem hj, BitVec.getLsbD_eq_getElem hj] at hb
    generalize (BitVec.ofNat w n)[j] = a at hb ⊢
    generalize (BitVec.twoPow w i)[j] = b at hb ⊢
    cases a <;> cases b <;> simp_all
  rw [hxor, BitVec.toNat_xor, hy, BitVec.toNat_twoPow_of_lt hi] at hsum
  exact hsum.symm

/-- To set a bit to what it is not is to flip it. -/
theorem setBit_not (n i : Nat) : setBit n i (!n.testBit i) = n ^^^ 2 ^ i := by
  unfold setBit
  cases hb : n.testBit i with
  | false => rw [if_neg (by decide), Bool.not_false, if_pos rfl, add_two_pow_of_clear hb]
  | true =>
    have hm : (n ^^^ 2 ^ i).testBit i = false := by rw [Nat.testBit_xor, hb, Nat.testBit_two_pow_self]; rfl
    have hn : n = (n ^^^ 2 ^ i) + 2 ^ i := by rw [add_two_pow_of_clear hm, Nat.xor_assoc, Nat.xor_self, Nat.xor_zero]
    rw [if_neg (by decide), Bool.not_true, if_neg (by decide)]
    omega

theorem testBit_setBit (n i : Nat) (b : Bool) (j : Nat) : (setBit n i b).testBit j = if j = i then b else n.testBit j := by
  by_cases h : n.testBit i = b
  · have hs : setBit n i b = n := if_pos h
    rw [hs]
    split
    · next e => rw [e, h]
    · rfl
  · obtain rfl : b = !n.testBit i := by cases b <;> simp_all
    rw [setBit_not, Nat.testBit_xor]
    split
    · next e => rw [e, Nat.testBit_two_pow_self, Bool.xor_true]
    · next e => rw [Nat.testBit_two_pow_of_ne (Ne.symm e), Bool.xor_false]

theorem setBit_lt {n i w : Nat} (b : Bool) (hn : n < 2 ^ w) (hi : i < w) : setBit n i b < 2 ^ w := by
  refine Nat.lt_pow_two_of_testBit _ fun j hj => ?_
  rw [testBit_setBit, if_neg (by omega)]
  exact Nat.testBit_lt_two_pow (Nat.lt_of_lt_of_le hn (Nat.pow_le_pow_right (by decide) hj))

theorem ofNat_setBit_not {n i : Nat} (u : BitVec n) (hi : i < n) : BitVec.ofNat n (setBit u.toNat i (!u.toNat.testBit i)) = u ^^^ BitVec.twoPow n i := by
  rw [setBit_not]
  refine BitVec.eq_of_toNat_eq ?_
  rw [BitVec.toNat_ofNat, BitVec.toNat_xor, BitVec.toNat_twoPow_of_lt hi]
  exact Nat.mod_eq_of_lt (Nat.xor_lt_two_pow u.isLt (Nat.pow_lt_pow_right (by decide) hi))

/-! ### What a check finds -/

theorem checkedVec_whole {cols : List Nat} {n k : Nat} (hlt : ∀ a ∈ cols, a < 2 ^ k) (v : BitVec n) : checkedVec cols (encoded cols k v) = (v, 0) := by
  have h := checkedVec_flipped (checkBits_lt hlt) v (0 : BitVec (k + n)) rfl
  have h0 : flipCol cols (0 : BitVec (k + n)) = 0 := by
    have := flipCol_xor cols (0 : BitVec (k + n)) 0
    rwa [BitVec.xor_self, Nat.xor_self] at this
  rw [if_pos h0, show (0 : BitVec (k + n)) = 0#(k + n) from rfl, BitVec.xor_zero, BitVec.extractLsb'_zero, BitVec.xor_zero] at h
  exact h

section Code
variable {cols : List Nat} {n k : Nat} (hc : IsCode cols n k) (hlt : ∀ a ∈ cols, a < 2 ^ k) (v : BitVec n)
include hc hlt

/-- One flipped bit is corrected. -/
theorem checkedVec_one {i : Nat} (hi : i < k + n) : checkedVec cols (encoded cols k v ^^^ BitVec.twoPow (k + n) i) = (v, 1) := by
  have h := checkedVec_flipped (checkBits_lt hlt) v (BitVec.twoPow (k + n) i) rfl
  have hodd := hc.odd _ (bitCol_mem hc hi)
  have hne : bitCol cols k i ≠ 0 := fun e => by
    rw [e] at hodd
    have : ∀ m, popCount 0 m = 0 := fun m => by
      induction m with
      | zero => rfl
      | succ m ih => rw [popCount, ih, Nat.zero_testBit]; rfl
    rw [this] at hodd
    exact absurd hodd (by decide)
  rw [flipCol_bit hc hi, if_neg hne] at h
  rw [h, extract_twoPow _ _ _ _ (by omega)]
  by_cases hn : i < n
  · have hf : cols.findIdx? (fun h => decide (h = bitCol cols k i)) = some i := by
      rw [List.findIdx?_eq_some_iff_getElem]
      have hl : i < cols.length := by rw [hc.length]; exact hn
      refine ⟨hl, ?_, fun j hj => ?_⟩
      · rw [bitCol_data hc hn, List.getD_eq_getElem _ _ hl]; exact decide_eq_true rfl
      · have hjl : j < cols.length := by omega
        have : cols[j] = bitCol cols k j := by rw [bitCol_data hc (by omega), List.getD_eq_getElem _ _ hjl]
        rw [this]
        simp only [decide_eq_true_eq]
        exact fun e => absurd (bitCol_inj hc (by omega) hi e) (by omega)
    rw [hf, if_pos (by omega)]
    dsimp only
    rw [ofNat_setBit_not _ hn, Nat.sub_zero, BitVec.xor_assoc, BitVec.xor_self, BitVec.xor_zero]
  · have hf : cols.findIdx? (fun h => decide (h = bitCol cols k i)) = none := by
      rw [List.findIdx?_eq_none_iff]
      intro a ha
      obtain ⟨j, hj, rfl⟩ := List.mem_iff_getElem.1 ha
      have hjn : j < n := hc.length ▸ hj
      have : cols[j] = bitCol cols k j := by rw [bitCol_data hc hjn, List.getD_eq_getElem _ _ hj]
      rw [this]
      simp only [decide_eq_false_iff_not]
      exact fun e => absurd (bitCol_inj hc (by omega) hi e) (by omega)
    obtain ⟨j, rfl⟩ : ∃ j, i = n + j := ⟨i - n, by omega⟩
    have hany : (List.range k).any (fun m => decide (2 ^ m = bitCol cols k (n + j))) = true :=
      List.any_eq_true.2 ⟨j, List.mem_range.2 (by omega), by rw [bitCol_check hc (by omega)]; exact decide_eq_true rfl⟩
    rw [hf, if_neg (by omega)]
    dsimp only
    rw [if_pos hany]
    exact congrArg (·, 1) BitVec.xor_zero

/-- Two flipped bits are found, and the data stay as found. -/
theorem checkedVec_two {i j : Nat} (hi : i < k + n) (hj : j < k + n) (hij : i ≠ j) :
    checkedVec cols (encoded cols k v ^^^ (BitVec.twoPow (k + n) i ^^^ BitVec.twoPow (k + n) j)) =
      (v ^^^ (BitVec.twoPow (k + n) i ^^^ BitVec.twoPow (k + n) j).extractLsb' 0 n, 2) := by
  have h := checkedVec_flipped (checkBits_lt hlt) v (BitVec.twoPow (k + n) i ^^^ BitVec.twoPow (k + n) j) rfl
  have hcol : flipCol cols (BitVec.twoPow (k + n) i ^^^ BitVec.twoPow (k + n) j) = bitCol cols k i ^^^ bitCol cols k j := by
    rw [flipCol_xor, flipCol_bit hc hi, flipCol_bit hc hj]
  have heven : popCount (bitCol cols k i ^^^ bitCol cols k j) k % 2 = 0 := by
    rw [popCount_xor, Nat.add_mod, hc.odd _ (bitCol_mem hc hi), hc.odd _ (bitCol_mem hc hj)]
  have hnot : bitCol cols k i ^^^ bitCol cols k j ∉ cols ++ (List.range k).map (2 ^ ·) := fun hm => by
    have := hc.odd _ hm
    omega
  have hne : bitCol cols k i ^^^ bitCol cols k j ≠ 0 := fun e => hij (bitCol_inj hc hi hj (Nat.xor_eq_zero_iff.1 e))
  have hf : cols.findIdx? (fun h => decide (h = bitCol cols k i ^^^ bitCol cols k j)) = none := by
    rw [List.findIdx?_eq_none_iff]
    exact fun a ha => decide_eq_false fun e => hnot (e ▸ List.mem_append_left _ ha)
  have hany : (List.range k).any (fun m => decide (2 ^ m = bitCol cols k i ^^^ bitCol cols k j)) = false := by
    rw [List.any_eq_false]
    intro m hm
    simp only [decide_eq_true_eq]
    exact fun e => hnot (e ▸ List.mem_append_right _ (List.mem_map_of_mem hm))
  rw [hcol, if_neg hne, hf] at h
  dsimp only at h
  rw [h, hany, if_neg (by decide)]

end Code

theorem wordCols_lt : ∀ a ∈ wordCols, a < 2 ^ 8 := by decide +kernel

theorem ioCols_lt : ∀ a ∈ ioCols, a < 2 ^ 7 := by decide +kernel

theorem xor_bits_ne_zero {w : Nat} {i j : Fin w} (h : i ≠ j) : BitVec.twoPow w i.val ^^^ BitVec.twoPow w j.val ≠ 0 := fun e => h (by
  have hp := congrArg BitVec.toNat (BitVec.xor_eq_zero_iff.1 e)
  rw [BitVec.toNat_twoPow_of_lt i.2, BitVec.toNat_twoPow_of_lt j.2] at hp
  exact Fin.ext (Nat.pow_right_injective (Nat.le_refl 2) hp))

theorem twoPow_ne_zero {w : Nat} (i : Fin w) : BitVec.twoPow w i.val ≠ 0 := fun e => by
  have hp := congrArg BitVec.toNat e
  rw [BitVec.toNat_twoPow_of_lt i.2] at hp
  exact absurd hp (by simp)

/-- A word comes back corrected of one flipped bit; of two it is known to be wrong (R477). -/
theorem flippedWord_judges (w : Word) {i j : Fin 80} (h : i ≠ j) : checkWord (encodeWord w) = (w, 0) ∧ flippedWord w 0 = (w, 0) ∧
    flippedWord w (BitVec.twoPow 80 i.val) = (w, 1) ∧ flippedWord w (BitVec.twoPow 80 i.val ^^^ BitVec.twoPow 80 j.val) =
      (w ^^^ (BitVec.twoPow 80 i.val ^^^ BitVec.twoPow 80 j.val).extractLsb' 0 72, 2) :=
  ⟨checkedVec_whole wordCols_lt w, if_pos rfl, (if_neg (twoPow_ne_zero i)).trans (checkedVec_one wordCode wordCols_lt w i.2),
    (if_neg (xor_bits_ne_zero h)).trans (checkedVec_two wordCode wordCols_lt w i.2 j.2 fun e => h (Fin.ext e))⟩

/-- So does a transfer of the I/O ditch (R479). -/
theorem flippedIo_judges (v : Half) {i j : Fin 43} (h : i ≠ j) : checkIo (encodeIo v) = (v, 0) ∧ flippedIo v 0 = (v, 0) ∧
    flippedIo v (BitVec.twoPow 43 i.val) = (v, 1) ∧ flippedIo v (BitVec.twoPow 43 i.val ^^^ BitVec.twoPow 43 j.val) =
      (v ^^^ (BitVec.twoPow 43 i.val ^^^ BitVec.twoPow 43 j.val).extractLsb' 0 36, 2) :=
  ⟨checkedVec_whole ioCols_lt v, if_pos rfl, (if_neg (twoPow_ne_zero i)).trans (checkedVec_one ioCode ioCols_lt v i.2),
    (if_neg (xor_bits_ne_zero h)).trans (checkedVec_two ioCode ioCols_lt v i.2 j.2 fun e => h (Fin.ext e))⟩

end Sys2Proof.Machine
end

section
/-! What the check codes leave of a word, and the work of the BIST engine and the scrubs (R276-R283, R477, R479, R480). -/

namespace Sys2Proof.Machine

open Sys2Proof

/-! ### The march on command (R280) -/

/-- A GO write of BCTL. -/
theorem State.rowWrite_bist {s : State} {who : Requester} (v : Half) (h : s.reaches who bCtl = true) :
    s.rowWrite who bCtl (withField BCtl.GO 1 v) =
      let t := s.bistGo (s.dev.newAt who bCtl (withField BCtl.GO 1 v)) (s.dev.ioPart who) (s.dev.ioPl who)
      t.wrote bCtl false t.dev := by
  have hgo : BCtl.GO.get (ofHalf (withField BCtl.GO 1 v) &&& 0xFFFFFFFFF) ≠ 0 := by
    rw [get_withField _ _ _ (by decide)]
    decide
  rw [State.rowWrite_narrow s who bCtl _ h (by decide), Dev.lockHit_free _ _ _ _ _ rfl (by decide)]
  unfold State.regWrite
  rw [if_neg (by decide), if_pos ⟨rfl, hgo⟩]
  rfl

theorem State.bistGo_busy {s : State} (v : Word) (part pl : Nat) (h : s.dev.ff bStat BStat.BUSY = true) :
    s.bistGo v part pl = s.onDev (s.dev.fp bStat BStat.RES 4) := if_pos h

theorem State.bistGo_refused {s : State} {v : Word} {part pl : Nat} (h : s.dev.ff bStat BStat.BUSY = false)
    (ht : ((s.dev.wr bCtl v).bistTarget part pl).1 = none) :
    s.bistGo v part pl = s.onDev ((((s.dev.wr bCtl v).bistTarget part pl).2.wr bCtl (s.dev.rd bCtl)).fp bStat BStat.RES 4) := by
  unfold State.bistGo
  rw [if_neg (by rw [h]; decide)]
  generalize (s.dev.wr bCtl v).bistTarget part pl = q at ht ⊢
  obtain ⟨q, d⟩ := q
  subst ht
  rfl

theorem State.bistGo_begins {s : State} {v : Word} {part pl : Nat} {t : Arrays} (h : s.dev.ff bStat BStat.BUSY = false)
    (ht : ((s.dev.wr bCtl v).bistTarget part pl).1 = some t) :
    s.bistGo v part pl =
      let d1 := ((s.dev.wr bCtl v).bistTarget part pl).2
      let f := (s.onDev { ((d1.fp bStat BStat.BUSY 1).fp bStat BStat.RES 0).next with bist := some ((s.onDev d1).bistPlan t) }).lose t.1.1 t.1.2
      match t.2 with
      | some r => f.lose r.1 r.2
      | none => f := by
  unfold State.bistGo
  rw [if_neg (by rw [h]; decide)]
  generalize (s.dev.wr bCtl v).bistTarget part pl = q at ht ⊢
  obtain ⟨q, d⟩ := q
  subst ht
  rfl

/-! ### Scrubs (R283, R480) -/

/-- What follows a scrub: nothing, a correction told by `fix`, or an error told by `note`. -/
def scrubbed (q : Nat × State) (fix note : State → State) : State :=
  match q.1 with
  | 0 => q.2
  | 1 => fix q.2
  | _ => note q.2

/-- A scrub that nobody comes before, by what the check of the word finds. -/
theorem State.scrubbed_of (s : State) (a : Nat) (f : BitVec 80) (fix note : State → State) :
    let x := s.strike a f
    let r := x.memWord a
    let e := (flippedWord r.1 (x.flipsAt a)).2
    (e = 0 → scrubbed (s.scrubWord a f false) fix note = r.2.2) ∧
    (e = 1 → scrubbed (s.scrubWord a f false) fix note = fix (r.2.2.strike a (x.flipsAt a))) ∧
    (1 < e → scrubbed (s.scrubWord a f false) fix note = note r.2.2) := by
  intro x r e
  have hs : s.scrubWord a f false = (e, if e = 1 ∧ (!false) = true then r.2.2.strike a (x.flipsAt a) else r.2.2) := rfl
  rw [hs]
  generalize e = e
  refine ⟨fun h => ?_, fun h => ?_, fun h => ?_⟩
  · subst h
    rfl
  · subst h
    rfl
  · obtain ⟨k, rfl⟩ : ∃ k, e = k + 2 := ⟨e - 2, by omega⟩
    rw [if_neg (by omega)]
    rfl

/-- The MRAM scrub of a word of the record store. -/
theorem State.mramScrub_of {s : State} {a : Nat} (f : BitVec 80) (h1 : recBase ≤ a) (h2 : a < recBase + 0x400000) (h : s.dev.ff bScrub BScrub.EN = true) :
    s.mramScrub a f false =
      scrubbed ((s.onDev (s.dev.rsCount 1)).scrubWord a f false) (fun s => s.onDev ((s.dev.count bScrub BScrub.CORR).rsCount 1))
        (fun s => s.onDev (s.dev.count bScrub BScrub.UNC)) := by
  unfold State.mramScrub
  simp only [h, h1, h2, and_self, decide_true, Bool.true_or, Bool.not_true, Bool.or_false, Bool.false_eq_true, if_false, if_true]
  rfl

/-- A patrol of a cell's instruction SRAM. -/
theorem State.patrol_isram {s : State} {a : Nat} (f : BitVec 80) (h1 : isramOf 0 ≤ a) (h2 : a < isramOf 64)
    (hc : s.dev.cellHere ((a - isramOf 0) / 0x4000) = true) (ht : s.dev.targetOf a = none) (h : s.dev.ff msCrub MsCrub.SEN = true) :
    s.patrol a f false =
      scrubbed (s.scrubWord a f false) (fun s => s.onDev (s.dev.count msCnt MsCnt.CORR)) (fun s => s.onDev (s.dev.count msCnt MsCnt.UNC)) := by
  unfold State.patrol
  simp only [h, h1, h2, hc, ht, and_self, decide_true, Bool.true_and, Bool.true_or, Bool.not_true, Bool.false_eq_true, if_false, reduceCtorEq, decide_false]
  rfl

/-! ### The ends of marches and tests (R279-R281) -/

/-- The end of a march. -/
theorem State.bistEnd_of {s : State} {b : Bist} (hb : s.dev.bist = some b) (n : Nat) (fail : Option BistFail) :
    let f := s.leave b.data b.pat b.last
    let g := match b.code with | some r => f.leave r b.pat b.last | none => f
    let e : Dev := { g.dev.fp bStat BStat.BUSY 0 with bist := none }
    let tell (e : Dev) : State := g.onDev ((e.raiseIf b.ie 245).raiseIf (b.ie && (firstOf b.fail fail).isSome) 246)
    let ended := e.fp bStat BStat.RES (if b.bad then 5 else if (firstOf b.fail fail).isSome then 2 else 1)
    s.bistEnd n fail = tell (match firstOf b.fail fail with
      | none => ended
      | some x =>
        let h := (ended.fp bStat BStat.FCNT (min 511 (e.fg bStat BStat.FCNT + (b.count + n)))).bistRecord x
        match b.tgt with
        | 0 => h.pulseSrc 185 b.unit
        | 1 => h.pulseSrc 186 b.unit
        | _ => h.pulseSrc 186 (16 + (x.adr.val - dramBase) / 128 % 4)) := by
  unfold State.bistEnd
  rw [hb]
  rfl

theorem State.spareVisit_of {s : State} {f : Nat} (h1 : s.dev.ff bRot BRot.EN = true) (h2 : s.dev.ff bStat BStat.BUSY = false) (h3 : s.dev.inFault = false)
    (hf : s.dev.spareFurrow = some f) :
    let ts := (posCells f 15).filter (fun c => decide (s.dev.role c = 2))
    let e := ts.foldl (fun d c => d.setRole c 5 0) s.dev
    s.spareVisit = ts.foldl (fun s c => s.loseLocal c) (s.onDev (
      ((e.putFur f { e.fur f with test := posMask ts }).fp bRot BRot.NEXT (f + 1)).fp bStat BStat.BUSY 1)) := by
  unfold State.spareVisit
  dsimp only
  rw [h1, h2, h3, if_neg (by decide), hf]
  rfl

/-- Settles O28: the codes by their columns, the engine's commands by the branch that their state takes. -/
theorem wordsAreCheckedAndTested : Obligations.WordsAreCheckedAndTested := by
  refine ⟨⟨fun w i j h => flippedWord_judges w h, fun v i j h => flippedIo_judges v h⟩, fun s => ?_⟩
  intro d
  refine ⟨fun who v hreach => ?_, fun ha b hb n fail => ?_, fun ha h1 h2 h3 f hf => ?_, fun ha c pass ht => ?_, fun ha => ⟨?_, ?_⟩⟩
  · intro r asked
    have go : ∀ {t : State}, s.bistGo (d.newAt who bCtl r) (d.ioPart who) (d.ioPl who) = t → exec (.bistGo who v) s = .next (t.wrote bCtl false t.dev) := fun ht =>
      congrArg Host.Outcome.next (ht ▸ State.rowWrite_bist v hreach)
    exact ⟨fun h => go (State.bistGo_busy _ _ _ h), fun h => ⟨fun ht => go (State.bistGo_refused h ht), fun t ht => go (State.bistGo_begins h ht)⟩⟩
  · intro f g e first tell
    have hend := State.bistEnd_of hb n fail
    refine ⟨fun h => State.next_liveS ha (hend.trans (congrArg tell ?_)), fun x h => State.next_liveS ha (hend.trans (congrArg tell ?_))⟩
    · rw [show firstOf b.fail fail = none from h, Option.isSome_none, if_neg Bool.false_ne_true] <;> rfl
    · rw [show firstOf b.fail fail = some x from h, Option.isSome_some, if_pos rfl] <;> rfl
  · exact State.next_liveS ha (State.spareVisit_of h1 h2 h3 hf)
  · exact State.next_live ha (if_pos ht)
  · intro a f h1 h2 h
    have hscrub := State.mramScrub_of f h1 h2 h
    obtain ⟨none', one, two⟩ := State.scrubbed_of (s.onDev (d.rsCount 1)) a.val f (fun s => s.onDev ((s.dev.count bScrub BScrub.CORR).rsCount 1))
      (fun s => s.onDev (s.dev.count bScrub BScrub.UNC))
    exact ⟨fun h => State.next_liveS ha (hscrub.trans (none' h)), fun h => State.next_liveS ha (hscrub.trans (one h)),
      fun h => State.next_liveS ha (hscrub.trans (two h))⟩
  · intro a f h1 h2 hc ht h
    have hscrub := State.patrol_isram f h1 h2 hc ht h
    obtain ⟨none', one, two⟩ := State.scrubbed_of s a.val f (fun s => s.onDev (s.dev.count msCnt MsCnt.CORR)) (fun s => s.onDev (s.dev.count msCnt MsCnt.UNC))
    exact ⟨fun h => State.next_liveS ha (hscrub.trans (none' h)), fun h => State.next_liveS ha (hscrub.trans (one h)),
      fun h => State.next_liveS ha (hscrub.trans (two h))⟩

end Sys2Proof.Machine
end

section
/-! The fault collector (R253-R275): what one cycle samples, what ends the fault state, and the writes that clear it. -/

namespace Sys2Proof.Machine

open Sys2Proof

/-! ### The sources of one cycle (R255, R259) -/

theorem filter_range_pair {a b : Nat} (h : a < b) (n : Nat) :
    (List.range n).filter (fun x => decide (x = a ∨ x = b)) = (if a < n then [a] else []) ++ (if b < n then [b] else []) := by
  induction n with
  | zero => rfl
  | succ n ih =>
    rw [List.range_succ, List.filter_append, ih, List.filter_singleton]
    by_cases h1 : n = a
    · rw [if_neg (by omega), if_neg (by omega), if_pos (by omega), if_neg (by omega), decide_eq_true (.inl h1), h1]; rfl
    · by_cases h2 : n = b
      · rw [if_pos (by omega), if_neg (by omega), if_pos (by omega), if_pos (by omega), decide_eq_true (.inr h2), h2]; rfl
      · rw [decide_eq_false (by omega)]
        simp only [Bool.cond_false, List.append_nil, show (a < n + 1) = (a < n) from propext (by omega), show (b < n + 1) = (b < n) from propext (by omega)]

theorem filter_range_one {a n : Nat} (h : a < n) : (List.range n).filter (fun x => decide (x = a)) = [a] := by
  induction n with
  | zero => omega
  | succ n ih =>
    rw [List.range_succ, List.filter_append, List.filter_singleton]
    by_cases h1 : n = a
    · have : (List.range n).filter (fun x => decide (x = a)) = [] := List.filter_eq_nil_iff.2 fun x hx => by
        have := List.mem_range.1 hx
        simp only [decide_eq_true_eq]
        omega
      rw [this, decide_eq_true h1, h1]; rfl
    · rw [ih (by omega), decide_eq_false h1]; rfl

theorem sampled_one {k : Nat} (h : k < 192) : (List.range 192).filter [k].contains = [k] := by
  refine (List.filter_congr fun x _ => ?_).trans (filter_range_one h)
  rw [Bool.eq_iff_iff, List.contains_iff_mem, decide_eq_true_eq, List.mem_singleton]

theorem sampled_two {k k' : Nat} (h : k < 192) (h' : k' < 192) (hne : k ≠ k') : (List.range 192).filter [k, k'].contains = [min k k', max k k'] := by
  have hp := filter_range_pair (show min k k' < max k k' by omega) 192
  rw [if_pos (by omega), if_pos (by omega)] at hp
  rw [show [min k k', max k k'] = [min k k'] ++ [max k k'] from rfl, ← hp]
  refine List.filter_congr fun x _ => ?_
  rw [Bool.eq_iff_iff, List.contains_iff_mem, decide_eq_true_eq, List.mem_cons, List.mem_singleton]
  omega

/-- What the collector does with an assertion: the pulse is taken, latched and counted. -/
def Dev.sampled (d : Dev) (k : Nat) : Dev := ({ d with pulse := Tab.set 0 d.pulse k 0 } : Dev).noteFault k

theorem Dev.collect_none {d : Dev} {k : Nat} (hk : k < 192) (h : lowestBit (d.srcPulse k) 64 = none) : d.collect [k] = d := by
  unfold Dev.collect Dev.asserted
  rw [sampled_one hk, List.filterMap_cons_none (by rw [h]; rfl)]
  rfl

/-- One source alone. -/
theorem Dev.collect_one {d : Dev} {k u : Nat} (hk : k < 192) (h : lowestBit (d.srcPulse k) 64 = some u) (hf : d.fills k = false) :
    d.collect [k] = ((d.sampled k).firstFault k u (d.faultClass k)).react k u (d.faultClass k) := by
  have hl : d.asserted [k] = [(k, u, d.faultClass k, false)] := by
    unfold Dev.asserted
    rw [sampled_one hk, List.filterMap_cons_some (by rw [h, hf]; rfl)]
    rfl
  unfold Dev.collect
  rw [hl]
  simp only [List.foldl_cons, List.foldl_nil, Nat.zero_max, List.filter_cons, decide_true, if_true, List.filter_nil, Bool.false_and, Bool.false_eq_true, if_false]
  rfl

/-- Two sources: the one of the higher class alone is recorded and reacts (R259). -/
theorem Dev.collect_two {d : Dev} {k k' u u' : Nat} (hk : k < 192) (hk' : k' < 192) (h : lowestBit (d.srcPulse k) 64 = some u)
    (h' : lowestBit (d.srcPulse k') 64 = some u') (hc : d.faultClass k' < d.faultClass k) (hf : d.fills k = false) (hf' : d.fills k' = false) :
    d.collect [k, k'] = ((((d.sampled (min k k')).sampled (max k k')).firstFault k u (d.faultClass k))).react k u (d.faultClass k) := by
  have hne : k ≠ k' := fun e => by subst e; omega
  have hlow : decide (d.faultClass k' = d.faultClass k) = false := decide_eq_false (by omega)
  unfold Dev.collect Dev.asserted
  rw [sampled_two hk hk' hne]
  rcases Nat.lt_or_gt_of_ne hne with hlt | hlt
  · rw [Nat.min_eq_left (by omega), Nat.max_eq_right (by omega)]
    simp only [List.filterMap_cons, List.filterMap_nil, h, h', hf, hf', Option.map_some, List.foldl_cons, List.foldl_nil, Nat.zero_max,
      Nat.max_eq_left (Nat.le_of_lt hc), List.filter_cons, List.filter_nil, decide_true, hlow, if_true, Bool.false_and, Bool.false_eq_true, if_false]
    rfl
  · rw [Nat.min_eq_right (by omega), Nat.max_eq_left (by omega)]
    simp only [List.filterMap_cons, List.filterMap_nil, h, h', hf, hf', Option.map_some, List.foldl_cons, List.foldl_nil, Nat.zero_max,
      Nat.max_eq_right (Nat.le_of_lt hc), List.filter_cons, List.filter_nil, decide_true, hlow, if_true, Bool.false_and, Bool.false_eq_true, if_false]
    rfl

/-- An assertion that leaves its counter below its maximum. -/
theorem Dev.sampled_below {d : Dev} {k : Nat} :
    let e := (({ d with pulse := Tab.set 0 d.pulse k 0 } : Dev).latch (fcPend (k / 32)) FcPend.PEND (k % 32))
    e.fg (fcCnt (k / 4)) (cntSpan k) < 510 →
    d.sampled k = e.fp (fcCnt (k / 4)) (cntSpan k) (e.fg (fcCnt (k / 4)) (cntSpan k) + 1) := by
  intro e h
  unfold Dev.sampled Dev.noteFault
  dsimp only
  rw [if_neg (Nat.ne_of_lt h), Nat.min_eq_right (Nat.le_of_lt (Nat.lt_of_lt_of_le (Nat.succ_lt_succ h) (by decide)))]

theorem Dev.react_fatal {d : Dev} {k u c : Nat} (h : 4 ≤ c) : d.react k u c = d.enterFaultState.quietRestart := by
  obtain ⟨n, rfl⟩ : ∃ n, c = n + 4 := ⟨c - 4, by omega⟩
  rfl

/-! ### The end of the fault state (R268-R273) -/

theorem State.quietRestart_of {s : State} (h1 : s.dev.quietOver = true) (h2 : s.dev.ff fcRec FcRec.AUTO = true) :
    (s.dev.recover.1 = true → s.quietRestart = (s.onDev s.dev.recover.2).faultRestart) ∧
    (s.dev.recover.1 = false → s.quietRestart = s.onDev s.dev.recover.2) := by
  unfold State.quietRestart
  rw [h1, h2, if_pos (by decide)]
  generalize s.dev.recover = q
  obtain ⟨b, d⟩ := q
  exact ⟨fun h => by subst h; rfl, fun h => by subst h; rfl⟩

/-- The installer clears a latched fault state (R273). -/
theorem State.iclrWrite_of (s : State) (p : Nat) :
    let e := s.dev
    let a := e.actor p
    let c := (((e.sessionActs p).audit { typ := 0x34, part := p, role := a.1, serial := a.2 }).fp fcRec FcRec.CNT 0).fp fcStat FcStat.LATCH 0
    s.iclrWrite p = if e.installer p rightFLTCLR = true ∧ e.auRoom = true
      then some (if c.syncBalls.quietOver then (s.onDev c.syncBalls).faultRestart else s.onDev c.syncBalls) else none := by
  intro e a c
  unfold State.iclrWrite Dev.iclr
  by_cases h : e.installer p rightFLTCLR = true ∧ e.auRoom = true
  · rw [if_pos h, if_pos (by rw [Bool.and_eq_true]; exact h)]
    rfl
  · rw [if_neg h, if_neg (by rw [Bool.and_eq_true]; exact h)]

theorem State.rowWrite_iclr {s : State} {who : Requester} (v : Half) (h : s.reaches who fcRec = true) :
    let r := withField FcRec.ICLR 1 v
    let e := s.dev.wr fcRec (s.dev.newAt who fcRec r)
    (∀ t, (s.onDev e).iclrWrite (s.dev.ioPart who) = some t → s.rowWrite who fcRec r = t.wrote fcRec (s.dev.lockHit who fcRec r) t.dev) ∧
    ((s.onDev e).iclrWrite (s.dev.ioPart who) = none → s.rowWrite who fcRec r = s.wrote fcRec true e) := by
  intro r e
  have hi : FcRec.ICLR.get (ofHalf r &&& 0xFFFFFFFFF) ≠ 0 := by
    rw [get_withField _ _ _ (by decide)]
    decide
  have hw : s.rowWrite who fcRec r =
      let a : Bool × State := match (s.onDev e).iclrWrite (s.dev.ioPart who) with
        | some s2 => (false, s2)
        | none => (true, s.onDev e)
      a.2.wrote fcRec (a.1 || s.dev.lockHit who fcRec r) a.2.dev := by
    rw [State.rowWrite_narrow s who fcRec r h (by decide)]
    unfold State.regWrite
    dsimp only
    rw [if_pos rfl, if_pos hi]
    rfl
  exact ⟨fun t ht => by rw [hw, ht]; rfl, fun ht => by rw [hw, ht]; rfl⟩

theorem State.rowWrite_cf {s : State} {who : Requester} (v : Half) (h : s.reaches who fcStat = true) :
    let r := withField FcStat.CF 1 v
    let e := s.dev.wr fcStat (FcStat.CF.put (s.dev.newAt who fcStat r) (s.dev.fg fcStat FcStat.CF))
    s.rowWrite who fcStat r = s.wrote fcStat (s.dev.lockHit who fcStat r) e.cfClear := by
  intro r e
  have hi : FcStat.CF.get (ofHalf r &&& 0xFFFFFFFFF) ≠ 0 := by
    rw [get_withField _ _ _ (by decide)]
    decide
  have heff : ∀ key, s.dev.regWrite who fcStat key (s.dev.newAt who fcStat r) (ofHalf r &&& 0xFFFFFFFFF) = (false, e.cfClear) := fun key => by
    have h9 : s.dev.regWrite who fcStat key (s.dev.newAt who fcStat r) (ofHalf r &&& 0xFFFFFFFFF) =
      s.dev.wrFault who fcStat (s.dev.newAt who fcStat r) (ofHalf r &&& 0xFFFFFFFFF) := rfl
    rw [h9]
    unfold Dev.wrFault
    dsimp only
    rw [if_neg (by decide), if_pos rfl, if_pos hi]
  rw [State.rowWrite_dev s who fcStat r h (by decide) (fun k n w => State.regWrite_dev _ _ _ _ _ _ (by decide) (by decide))]
  simp only [heff, Bool.false_or]

/-- Settles O26: the collector by the sources of its cycle, the writes by their own effect. -/
theorem faultsReactAndTheFaultStateEnds : Obligations.FaultsReactAndTheFaultStateEnds := by
  refine ⟨fun s k ha => ?_, fun s who v => ?_⟩
  · intro d
    refine ⟨fun u hu hcnt => ?_, fun h => ?_, fun u k' u' hu hu' hc hf hf' => ?_, fun u same hh hk => ?_, fun u hu => ?_⟩
    · intro e c g hcnt'
      have hcol : ∀ {x : Dev}, g.react k.val u c = x → exec (.faultAssert ⟨k, []⟩ none) s = .next (s.onDev x) := fun hx => by
        refine State.next_live ha ((Dev.collect_one k.2 hu (decide_eq_false (Nat.ne_of_lt hcnt))).trans ?_)
        rw [Dev.sampled_below hcnt']
        exact hx
      refine ⟨fun h => hcol ?_, fun h => hcol ?_, fun h => hcol ?_, fun h => hcol ?_, fun h => hcol (Dev.react_fatal h)⟩ <;> rw [h] <;> rfl
    · exact (State.next_live ha (Dev.collect_none k.2 h)).trans rfl
    · exact State.next_live ha (Dev.collect_two k.2 k'.2 hu hu' hc hf hf')
    · refine State.next_live ha ?_
      unfold Dev.faultAssert
      dsimp only [Option.map_some]
      rw [if_neg (by rw [hh]; decide), if_neg hk]
    · exact State.next_live ha (if_pos hu)
  · intro d
    refine ⟨fun ha h1 h2 => ?_, fun ha h1 h2 => ?_, fun hreach => ?_, fun hreach => ?_⟩
    · obtain ⟨yes, no⟩ := State.quietRestart_of h1 h2
      exact ⟨fun h => State.next_liveS ha (yes h), fun h => State.next_liveS ha (no h)⟩
    · exact State.next_live ha (if_pos ⟨h1, h2⟩)
    · intro r e p a c t
      obtain ⟨cleared, refused⟩ := State.rowWrite_iclr v hreach
      have hi := State.iclrWrite_of (s.onDev e) p
      refine congrArg Host.Outcome.next ?_
      by_cases h : e.installer p rightFLTCLR = true ∧ e.auRoom = true
      · rw [if_pos h]
        exact cleared _ (hi.trans (if_pos h))
      · rw [if_neg h]
        exact refused (hi.trans (if_neg h))
    · exact congrArg Host.Outcome.next (State.rowWrite_cf v hreach)

end Sys2Proof.Machine
end

section
/-! The bank (R300-R302, R320, R321), WARN and the return (R304, R313-R315), the accounts (R298, R307), the weirs and CUT. -/

namespace Sys2Proof.Machine

open Sys2Proof

/-! ### The bank -/

/-- A REMEAS write of DRCTL. -/
theorem State.rowWrite_remeas {s : State} {who : Requester} (v : Half) (h : s.reaches who drCtl = true) :
    let r := withField DrCtl.REMEAS 1 v
    s.rowWrite who drCtl r = s.wrote drCtl (s.dev.lockHit who drCtl r) (s.dev.wr drCtl (s.dev.newAt who drCtl r)).accounts.remeas := by
  intro r
  have hi : DrCtl.REMEAS.get (ofHalf r &&& 0xFFFFFFFFF) ≠ 0 := by
    rw [get_withField _ _ _ (by decide)]
    decide
  have heff : ∀ key, s.dev.regWrite who drCtl key (s.dev.newAt who drCtl r) (ofHalf r &&& 0xFFFFFFFFF) =
      (false, (s.dev.wr drCtl (s.dev.newAt who drCtl r)).accounts.remeas) := fun key => by
    have h7 : s.dev.regWrite who drCtl key (s.dev.newAt who drCtl r) (ofHalf r &&& 0xFFFFFFFFF) =
      s.dev.wrRider drCtl (s.dev.newAt who drCtl r) (ofHalf r &&& 0xFFFFFFFFF) := rfl
    rw [h7]
    unfold Dev.wrRider
    dsimp only
    rw [if_pos ⟨rfl, hi⟩]
  rw [State.rowWrite_dev s who drCtl r h (by decide) (fun k n w => State.regWrite_dev _ _ _ _ _ _ (by decide) (by decide))]
  simp only [heff, Bool.false_or]

/-- The device once a measurement of the bank has its result. -/
def Dev.bankMeasured (d : Dev) (us : Nat) : Dev :=
  let i := if d.rider.bleed then 200 else d.rider.ich
  let x : Dev := { d with rider := { d.rider with meas := false, late := decide (4000000 < us) } }
  (x.fp drBstat DrBstat.CAP (min (2 ^ 20 - 1) (i * us / 2000))).fp drStat DrStat.CHG 0

theorem Dev.measureEnd_of {d : Dev} (us : Nat) (h : d.rider.meas = true) :
    d.measureEnd us = if d.rider.wait then d.bankMeasured us else (d.bankMeasured us).bankDecide d.rider.bank := by
  unfold Dev.measureEnd
  rw [if_pos h]
  rfl

/-- C_m as the measurement leaves it. -/
theorem Dev.bankMeasured_cap (d : Dev) (us : Nat) :
    (d.bankMeasured us).fg drBstat DrBstat.CAP = min (2 ^ 20 - 1) ((if d.rider.bleed then 200 else d.rider.ich) * us / 2000) := by
  unfold Dev.bankMeasured
  dsimp only
  rw [Dev.fg_fp_ne _ _ _ _ (by decide), Dev.fg_fp_self _ _ _ _ (by decide)]
  exact Nat.mod_eq_of_lt (by simp only [show DrBstat.CAP.width = 20 from rfl]; omega)

theorem Dev.bankMeasured_hold (d : Dev) (us : Nat) : (d.bankMeasured us).fg drMeas DrMeas.HOLD = d.fg drMeas DrMeas.HOLD := by
  unfold Dev.bankMeasured
  dsimp only
  rw [Dev.fg_fp_ne _ _ _ _ (by decide), Dev.fg_fp_ne _ _ _ _ (by decide)]
  rfl

/-- A bank is refused for the reason `r`. -/
def Dev.bankRefuse (e : Dev) (r v : Nat) : Dev :=
  let g : Dev := { e with rider := { e.rider with bankOk := false } }
  ((((((g.fp drBstat DrBstat.VCHG v).fp drStat DrStat.BREF r).fp drStat DrStat.CHG 0).bankState false true).pulseSrc 176 0).accounts)

theorem Dev.bankDecide_refused {e : Dev} {w : Word} {r : Nat} (h : bankRefusal w (e.fg drBstat DrBstat.CAP) e.rider.late = r) (hr : r ≠ 0) :
    e.bankDecide w = e.bankRefuse r (vCharge w (e.fg drBstat DrBstat.CAP)) := by
  unfold Dev.bankDecide
  dsimp only
  rw [h, if_neg hr]
  exact rfl

theorem Dev.bankDecide_accepted {e : Dev} {w : Word} (h : bankRefusal w (e.fg drBstat DrBstat.CAP) e.rider.late = 0) :
    e.bankDecide w =
      let v := vCharge w (e.fg drBstat DrBstat.CAP)
      let g : Dev := { e with rider := { e.rider with bankOk := true } }
      let k := ((g.fp drBstat DrBstat.VCHG v).fp drStat DrStat.BREF 0).fb drStat DrStat.CHG (!e.rider.hold)
      (k.bankState (decide (e.fg drMeas DrMeas.HOLD ≤ v * 10)) false).accounts := by
  have hd : ∀ a b : Nat, (!decide (a < b)) = decide (b ≤ a) := fun a b => by
    rw [← decide_not]
    exact decide_eq_decide.2 Nat.not_lt
  unfold Dev.bankDecide
  dsimp only
  rw [h, if_pos rfl, hd]

theorem bankRefusal_zero {w : Word} {cm : Nat} (h1 : 100 ≤ cm) (h2 : 2000 ≤ DrBank.VSET.get w) (h3 : 2000 ≤ vCharge w cm) : bankRefusal w cm false = 0 := by
  unfold bankRefusal
  rw [if_neg (by decide), if_neg (by omega), if_neg (by omega), if_neg (by omega)]

theorem bankRefusal_pos {w : Word} {cm : Nat} : bankRefusal w cm true = 3 ∧ (cm < 100 → bankRefusal w cm false = 1) ∧
    (100 ≤ cm → DrBank.VSET.get w < 2000 → bankRefusal w cm false = 5) ∧
    (100 ≤ cm → 2000 ≤ DrBank.VSET.get w → vCharge w cm < 2000 → bankRefusal w cm false = 2) := by
  unfold bankRefusal
  refine ⟨if_pos rfl, fun h => ?_, fun h1 h2 => ?_, fun h1 h2 h3 => ?_⟩
  · rw [if_neg (by decide), if_pos h]
  · rw [if_neg (by decide), if_neg (by omega), if_pos h2]
  · rw [if_neg (by decide), if_neg (by omega), if_neg (by omega), if_pos h3]

/-! ### The supply -/

/-- The return of a supply that WARN had found missing (R314, R315). -/
theorem State.supplyReturn_of {s : State} (h : s.dev.ff drStat DrStat.SHED = true) :
    let d := s.dev
    let r := d.rider
    let x : Dev := { d with rider := { r with step := none, hold := false, foff := 0, clkdn := 0, eth := 0, dram := 0 } }
    let e := ((((x.fp drStat DrStat.SHED 0).fp drShed DrShed.RUN 0).dropSrc 177 0).drCause 1).fb drStat DrStat.CHG (r.bankOk && !d.boot.low)
    let u := (List.range 16).foldl (fun d f => d.parkCells f false) e
    let g := (bitsOf r.foff 16).foldl (fun d f => (d.applyImage f).startCells f cSUPRST) u
    let k := (bitsOf r.clkdn 16).foldl (fun d f => d.reclock f) g
    s.supplyReturn = if r.dram = 2 then (s.onDev (k.fp drStat DrStat.DLOST 1).accounts).lose dramBase (dramBase + d.dramSize - 1)
      else s.onDev k.accounts := by
  intro d r x e u g k
  unfold State.supplyReturn
  dsimp only
  rw [if_neg (by rw [h]; decide)]
  by_cases hr : s.dev.rider.dram = 2
  · rw [if_pos hr, if_pos hr]
    exact (if_pos hr).symm
  · rw [if_neg hr, if_neg hr]
    exact (if_neg hr).symm

/-- WARN of a supply that was there sheds (R304). -/
theorem Dev.warn_sheds {d : Dev} (h : d.ff drStat DrStat.SHED = false) :
    let g := d.boot.stage.map fun (g : Stage) => { g with stop := true }
    let x : Dev := { d with rider := { d.rider with hold := true, warnAt := d.tick, warned := 0 }, boot := { d.boot with stage := g } }
    let e := (((x.fp drStat DrStat.SHED 1).fp drStat DrStat.CHG 0).raiseSrc 177 0).drCause 0
    let g := ((e.fp drShed DrShed.RUN 1).fp drShed DrShed.END 0).fp drShed DrShed.TW 0
    d.warn = (g.planWait 0).accounts := if_neg (by rw [h]; decide)

theorem Dev.planWait_next (d : Dev) {k : Nat} (h : k < 16) :
    d.planWait k = ({ d with rider := { d.rider with step := some (k, d.fg (drSp k) DrSp.OP, d.fg (drSp k) DrSp.ARG), stepEj := d.fg (drSp k) DrSp.EJ } } : Dev).fp drShed DrShed.STEP k := if_neg (Nat.not_le.2 h)

/-! ### CUT -/

theorem Dev.ejSample_boot (d : Dev) (p : Nat) : (d.ejSample p).boot = d.boot := by
  unfold Dev.ejSample
  split <;> rfl

theorem Dev.foldl_boot {α : Type} (f : Dev → α → Dev) (hf : ∀ d a, (f d a).boot = d.boot) (l : List α) (d : Dev) : (l.foldl f d).boot = d.boot := by
  induction l generalizing d with
  | nil => rfl
  | cons a l ih => exact (ih _).trans (hf d a)

theorem Dev.txCauseSet_boot (d : Dev) (f : Span) {n : Nat} (h : n < 32) : (d.txCauseSet f n).boot = d.boot :=
  (Dev.relevel_only _ _ (by omega)).boot

theorem Dev.jAlloc_boot (d : Dev) (n : Nat) : (d.jAlloc n).2.boot = d.boot := by
  unfold Dev.jAlloc Dev.jMark
  dsimp only
  split
  · exact (Dev.relevel_only _ 244 (by decide)).boot
  · rfl

theorem Dev.putTxn_fb_boot (d : Dev) (k : Nat) (f : Span) (b : Bool) (n : Nat) (x : Txn) : ((d.fb k f b).putTxn n x).boot = d.boot := rfl

theorem Dev.txMark'_boot (d : Dev) {n : Nat} (h : n < 32) : (d.txMark' n).boot = d.boot := by
  obtain ⟨e, he⟩ : ∃ e, e = (d.txSnaps n).foldl (fun d p => if p.1 = 2 then d.ejSample p.2 else d) d := ⟨_, rfl⟩
  have heb : e.boot = d.boot := by
    rw [he]
    exact Dev.foldl_boot _ (fun d p => by split; exacts [Dev.ejSample_boot _ _, rfl]) _ _
  unfold Dev.txMark'
  dsimp only
  rw [← he]
  split
  · exact (Dev.txCauseSet_boot _ _ h).trans ((Dev.putTxn_fb_boot ..).trans ((Dev.jAlloc_boot _ _).trans heb))
  · exact (Dev.putTxn_fb_boot ..).trans ((Dev.jAlloc_boot _ _).trans heb)

/-- The snapshots of a port tick leave the start alone. -/
theorem Dev.applyEnd_boot (d : Dev) : d.applyEnd.boot = d.boot := by
  unfold Dev.applyEnd
  have hl : ∀ n ∈ (List.range 32).filter (fun n => decide (d.txState n = 4 ∧ (d.txn n).mark = none)), n < 32 := fun n hn =>
    List.mem_range.1 (List.mem_filter.1 hn).1
  generalize (List.range 32).filter (fun n => decide (d.txState n = 4 ∧ (d.txn n).mark = none)) = l at hl
  induction l generalizing d with
  | nil => rfl
  | cons n l ih => exact (ih _ fun m hm => hl m (List.mem_cons_of_mem _ hm)).trans (Dev.txMark'_boot d (hl n List.mem_cons_self))

theorem State.powerCut_of {s : State} (h : s.dev.boot.on = true) :
    s.powerCut.dev.boot = { on := false, step := 1 } ∧ s.powerCut.dev.alive = false ∧ (s.dev.boot.stage = none → s.powerCut.mem.nor = s.mem.nor) := by
  unfold State.powerCut
  rw [if_neg (by rw [h]; decide)]
  refine ⟨rfl, rfl, fun hs => ?_⟩
  unfold State.resetAll State.stageCut
  rw [hs]
  rfl

/-- Settles O29: each event by the branch that the bank's and the supply's state gives. -/
theorem theBankAndTheSupplyFollowTheirEvents : Obligations.TheBankAndTheSupplyFollowTheirEvents := by
  refine ⟨fun s => ?_, fun s => ?_⟩
  · intro d
    refine ⟨fun who v hreach => ?_, fun ha us hm => ?_, fun ha h1 h2 h3 => ?_, fun ha h1 h2 => ?_⟩
    · exact congrArg Host.Outcome.next (State.rowWrite_remeas v hreach)
    · intro i c x e w no
      have hend := Dev.measureEnd_of us hm
      have hcap : e.fg drBstat DrBstat.CAP = c := Dev.bankMeasured_cap d us
      have judged : ∀ {y : Dev}, d.rider.wait = false → e.bankDecide w = y → exec (.bankMeasurementEnd us) s = .next (s.onDev y) := fun hw hy =>
        State.next_live ha (hend.trans ((if_neg (by rw [hw]; decide)).trans hy))
      have refused : ∀ r, d.rider.wait = false → bankRefusal w c (decide (4000000 < us)) = r → r ≠ 0 → exec (.bankMeasurementEnd us) s = .next (no r) :=
        fun r hw h hr => judged hw ((Dev.bankDecide_refused (by rw [hcap]; exact h) hr).trans (by rw [hcap]; rfl))
      obtain ⟨late, small, low, short⟩ := @bankRefusal_pos w c
      have early : us ≤ 4000000 → decide (4000000 < us) = false := fun h => decide_eq_false (Nat.not_lt.2 h)
      refine ⟨fun hw => State.next_live ha (hend.trans (if_pos hw)), fun hw h => refused 3 hw (by rw [decide_eq_true h]; exact late) (by decide),
        fun hw h h1 => refused 1 hw (by rw [early h]; exact small h1) (by decide), fun hw h h1 h2 => refused 5 hw (by rw [early h]; exact low h1 h2) (by decide),
        fun hw h h1 h2 h3 => refused 2 hw (by rw [early h]; exact short h1 h2 h3) (by decide), fun hw h h1 h2 h3 => ?_⟩
      intro g k
      have hz : bankRefusal w (e.fg drBstat DrBstat.CAP) e.rider.late = 0 := by
        rw [hcap, show e.rider.late = decide (4000000 < us) from rfl, early h]
        exact bankRefusal_zero h1 h2 h3
      refine judged hw ((Dev.bankDecide_accepted hz).trans ?_)
      rw [hcap, show e.fg drMeas DrMeas.HOLD = d.fg drMeas DrMeas.HOLD from Dev.bankMeasured_hold d us] <;> rfl
    · exact State.next_live ha (if_pos (by rw [h1, h2, h3]; rfl))
    · exact State.next_live ha (if_pos (by rw [h1, h2]; rfl))
  · intro d
    refine ⟨fun ha u => State.next_live ha rfl, fun hon h => ?_, fun hon h => ?_, fun hon h => ?_, fun hon h => ?_, fun hon vin hold pin iin => ?_,
      fun hoff hs => ?_, fun hon => ?_, fun hon => ?_⟩
    · exact (State.next_powered (f := Dev.warn) (d := d) hon (if_pos h)).trans rfl
    · intro g x e g' p
      refine State.next_powered hon ((Dev.warn_sheds h).trans ?_)
      exact congrArg Dev.accounts (Dev.planWait_next _ (by decide))
    · exact congrArg Host.Outcome.next ((if_pos hon).trans (congrArg State.pumpAll (if_pos (by rw [h]; rfl))))
    · intro r x e u g k
      have hret := State.supplyReturn_of h
      refine ⟨fun hr => congrArg Host.Outcome.next ((if_pos hon).trans (congrArg State.pumpAll (hret.trans (if_neg hr)))),
        fun hr => congrArg Host.Outcome.next ((if_pos hon).trans (congrArg State.pumpAll (hret.trans (if_pos hr))))⟩
    · exact State.next_powered hon rfl
    · exact congrArg (fun d => Host.Outcome.next (s.onDev d)) (if_pos (by rw [hoff, hs]; rfl))
    · exact congrArg (fun d => Host.Outcome.next (s.onDev d)) (if_neg (by rw [hon, Bool.not_true, Bool.false_and]; decide))
    · have hb := Dev.applyEnd_boot s.dev
      obtain ⟨h1, h2, h3⟩ := State.powerCut_of (s := s.onDev s.dev.applyEnd) ((congrArg Boot.on hb).trans hon)
      exact ⟨_, rfl, h1, h2, fun hs => h3 ((congrArg Boot.stage hb).trans hs), (State.powerCut_keeps _).1⟩

end Sys2Proof.Machine
end

section
/-! The steps of the shed plan (R311, R312): a step whose wait is over acts, is recorded, and the next one waits. -/

namespace Sys2Proof.Machine

open Sys2Proof

theorem Dev.stepDone_of (e : Dev) (k : Nat) : e.stepDone k =
    let e1 := (e.fp drShed DrShed.STEP k).drCause 2
    if 15 ≤ k then e1.planEnd
    else ({ e1 with rider := { e1.rider with
      step := some (k + 1, e1.fg (drSp (k + 1)) DrSp.OP, e1.fg (drSp (k + 1)) DrSp.ARG), stepEj := e1.fg (drSp (k + 1)) DrSp.EJ } } : Dev).fp
      drShed DrShed.STEP (k + 1) := by
  dsimp only
  by_cases h : 15 ≤ k
  · rw [if_pos h]
    exact if_pos (Nat.succ_le_succ h)
  · rw [if_neg h]
    exact if_neg fun h' => h (Nat.le_of_succ_le_succ h')

section Plan
variable {d : Dev} {k op arg : Nat} (hs : d.rider.step = some (k, op, arg))
include hs

theorem Dev.planStop_of (h : op = 0 ∨ 13 ≤ op) : d.planStop = ((d.fp drShed DrShed.STEP k).drCause 2).planEnd := by
  unfold Dev.planStop
  rw [hs]
  exact if_pos (decide_eq_true h)

theorem Dev.planStep_of {p : Nat → Bool} {act : Dev → Nat → Option Dev} {e : Dev} (hp : p op = true) (ha : act d arg = some e) :
    d.planStep p act = e.stepDone k := by
  unfold Dev.planStep
  rw [hs]
  dsimp only
  rw [if_pos hp, ha]

/-- A step that must wait on, or that is not the command's. -/
theorem Dev.planStep_waits {p : Nat → Bool} {act : Dev → Nat → Option Dev} (h : p op = false ∨ act d arg = none) : d.planStep p act = d := by
  unfold Dev.planStep
  rw [hs]
  dsimp only
  split
  · rw [h.resolve_left (by simp [*])]
  · rfl

end Plan

/-- The furrows of a mask that are present. -/
def Dev.furrowsIn (d : Dev) (arg : Nat) : List Nat := (bitsOf arg 16).filter fun f => d.furHere f

theorem Dev.busy_false {d : Dev} {l : List Nat} (h : ∀ f ∈ l, d.furBusy f = false) : ¬ (l.any fun f => d.furBusy f) = true := by
  rw [List.any_eq_true]
  rintro ⟨f, hf, hb⟩
  rw [h f hf] at hb
  exact Bool.noConfusion hb

theorem Dev.busy_true {d : Dev} {l : List Nat} (h : ∃ f ∈ l, d.furBusy f = true) : (l.any fun f => d.furBusy f) = true := List.any_eq_true.2 h

theorem Dev.shedFurrows_free {d : Dev} {arg : Nat} (f : Dev → Nat → Dev) (h : ∀ f ∈ d.furrowsIn arg, d.furBusy f = false) :
    d.shedFurrows arg f = some ((d.furrowsIn arg).foldl (fun d k => f (d.abandonTest k) k) d) := if_neg (Dev.busy_false h)

theorem Dev.shedFurrows_busy {d : Dev} {arg : Nat} (f : Dev → Nat → Dev) (h : ∃ f ∈ d.furrowsIn arg, d.furBusy f = true) : d.shedFurrows arg f = none :=
  if_pos (Dev.busy_true h)

/-- FOFF of furrows of which none is busy. -/
theorem State.shedFoff_free {s : State} {k arg : Nat} (hs : s.dev.rider.step = some (k, 9, arg)) (h : ∀ f ∈ s.dev.furrowsIn arg, s.dev.furBusy f = false) :
    s.shedFoff =
      let t := (s.dev.furrowsIn arg).foldl (fun s f => (s.onDev (s.dev.abandonTest f)).foff f) s
      t.onDev (t.dev.stepDone k) := by
  unfold State.shedFoff
  rw [hs]
  exact if_neg (Dev.busy_false h)

/-- FOFF waits on for a busy furrow; a step of another operation is none of its. -/
theorem State.shedFoff_waits {s : State} {k op arg : Nat} (hs : s.dev.rider.step = some (k, op, arg)) (h : ∃ f ∈ s.dev.furrowsIn arg, s.dev.furBusy f = true) :
    s.shedFoff = s := by
  unfold State.shedFoff
  rw [hs]
  split
  · next k' m e =>
    cases e
    exact if_pos (Dev.busy_true h)
  · rfl

theorem State.shedEth_of {s : State} {k arg : Nat} (hs : s.dev.rider.step = some (k, 11, arg)) :
    s.shedEth =
      let t := ((bitsOf arg 2).filter fun p => s.dev.ethHere p).foldl (fun s p => s.linkChange p false false)
        (s.onDev { s.dev with rider := { s.dev.rider with eth := s.dev.rider.eth ||| arg % 4 } })
      t.onDev (t.dev.stepDone k) := by
  unfold State.shedEth
  rw [hs] <;> rfl

theorem Dev.shedPorts_low (d : Dev) (m : Nat) : d.shedPorts m 0 = (bitsOf m 16).foldl (fun d p => d.portDIS p) d := by
  unfold Dev.shedPorts
  simp only [Nat.zero_add]

/-- Settles O30: each operation by what its step does and the end of the step. -/
theorem theShedPlanRunsItsSteps : Obligations.TheShedPlanRunsItsSteps := by
  intro s k op arg hon hs d fs free on stop
  have hdone : ∀ e : Dev, e.stepDone k = on e := fun e => Dev.stepDone_of e k
  have step : ∀ {p : Nat → Bool} {act : Dev → Nat → Option Dev} {e : Dev}, p op = true → act d arg = some e →
      (Host.Outcome.next (s.powered fun d => d.planStep p act) : Host.Outcome State Fault Refusal) = .next (s.onDev (on e)) := fun hp ha =>
    State.next_powered hon ((Dev.planStep_of hs hp ha).trans (hdone _))
  have waits : ∀ {p : Nat → Bool} {act : Dev → Nat → Option Dev}, p op = false ∨ act d arg = none →
      (Host.Outcome.next (s.powered fun d => d.planStep p act) : Host.Outcome State Fault Refusal) = .next s := fun h =>
    (State.next_powered hon (Dev.planStep_waits hs h)).trans rfl
  refine ⟨fun h => State.next_powered hon (Dev.planStop_of hs h), fun h => step (decide_eq_true h) rfl, fun h => step (decide_eq_true h) rfl,
    fun h => step (decide_eq_true h) rfl, fun h => step (decide_eq_true h) (congrArg some (Dev.shedPorts_low d arg)), fun h => step (decide_eq_true h) rfl,
    fun h => step (decide_eq_true h) rfl, fun h hf => step (decide_eq_true h) (Dev.shedFurrows_free _ hf),
    fun h hf => step (decide_eq_true h) (Dev.shedFurrows_free _ hf), fun h hf => ?_, fun _ hb => ⟨?_, ?_, ?_⟩, fun h => step (decide_eq_true h) rfl, fun h => ?_,
    fun h => step (decide_eq_true h) rfl⟩
  · subst h
    exact congrArg Host.Outcome.next ((if_pos hon).trans (State.shedFoff_free hs hf))
  · exact waits (.inr (Dev.shedFurrows_busy _ hb))
  · exact waits (.inr (Dev.shedFurrows_busy _ hb))
  · exact congrArg Host.Outcome.next ((if_pos hon).trans (State.shedFoff_waits hs hb))
  · subst h
    exact congrArg Host.Outcome.next ((if_pos hon).trans (State.shedEth_of hs))

end Sys2Proof.Machine
end

section
/-! Sensors and throttling (R317, R318), the refresh of the DRAM and the rows that close (R475). -/

namespace Sys2Proof.Machine

open Sys2Proof

/-! ### What throttling leaves alone -/

/-- Every register but the rider's throttle and status registers, the fault state's and the pending events stands. -/
def Dev.ThermKept (d e : Dev) : Prop := ∀ r, r ≠ drStat → r ≠ fcStat → (r < 0x010400 ∨ 0x010600 ≤ r) → r ≠ drThr → e.rd r = d.rd r

theorem Dev.ThermKept.refl (d : Dev) : d.ThermKept d := fun _ _ _ _ _ => rfl
theorem Dev.ThermKept.trans {d e f : Dev} (h : d.ThermKept e) (h' : e.ThermKept f) : d.ThermKept f := fun r h1 h2 h3 h4 =>
  (h' r h1 h2 h3 h4).trans (h r h1 h2 h3 h4)

theorem Dev.ThermKept.temp {d e : Dev} (h : d.ThermKept e) {i : Nat} (hi : i < 20) : e.temp i = d.temp i := by
  unfold Dev.temp
  rw [h (drTemp (i / 4)) (by unfold drTemp drStat; omega) (by unfold drTemp fcStat; omega) (by unfold drTemp; omega) (by unfold drTemp drThr; omega)]

theorem Dev.ThermKept.anyTemp {d e : Dev} (h : d.ThermKept e) {f : Nat} (hf : f < 16) (p : Int → Bool) : e.anyTemp f p = d.anyTemp f p := by
  unfold Dev.anyTemp
  simp only [List.any_cons, List.any_nil, h.temp (show f < 20 by omega), h.temp (show 16 < 20 by decide), h.temp (show 17 < 20 by decide),
    h.temp (show 18 < 20 by decide), h.temp (show 19 < 20 by decide)]

theorem Dev.ThermKept.furHere {d e : Dev} (h : d.ThermKept e) (f : Nat) : e.furHere f = d.furHere f := by
  unfold Dev.furHere Dev.isH Dev.fg
  rw [h idCode (by decide) (by decide) (by decide) (by decide)]

/-- A cause of the rider's leaves every register but its status. -/
theorem Dev.drCause_rd (d : Dev) {i r : Nat} (hi : i < 8) (h1 : r ≠ drStat) (h2 : r < 0x010400 ∨ 0x010600 ≤ r) : (d.drCause i).rd r = d.rd r := by
  unfold Dev.drCause
  rw [(Dev.relevel_only _ _ (by omega)).2 r h2, Dev.latch, Dev.rd_fp_ne _ _ _ h1]

theorem Dev.dropSrc_rd (d : Dev) (k u : Nat) {r : Nat} (h : r ≠ fcStat) : (d.dropSrc k u).rd r = d.rd r := by
  unfold Dev.dropSrc
  split
  · dsimp only
    split
    · exact (Dev.rd_fp_ne _ _ _ h).trans rfl
    · rfl
  · rfl

/-! ### One furrow after the other -/

/-- What the rider decides of furrow `f` (R317). -/
def Dev.thermStep (d : Dev) (f : Nat) : Dev :=
  if !d.furHere f then d
  else
    let now := d.anyTemp f (fun t => decide (105 ≤ t))
    if now = d.throttled f then d
    else (d.fp drThr DrThr.THF (setBit (d.fg drThr DrThr.THF) f now)).drCause 5

theorem Dev.thermStep_kept (d : Dev) (f : Nat) : d.ThermKept (d.thermStep f) := by
  intro r h1 h2 h3 h4
  unfold Dev.thermStep
  split
  · rfl
  · dsimp only
    split
    · rfl
    · rw [Dev.drCause_rd _ (by decide) h1 h3, Dev.rd_fp_ne _ _ _ h4]

theorem Dev.throttled_congr {d e : Dev} (h : e.rd drThr = d.rd drThr) (f : Nat) : e.throttled f = d.throttled f := by
  unfold Dev.throttled Dev.fg
  rw [h]

theorem Dev.thermStep_throttled (d : Dev) {f : Nat} (hf : f < 16) (k : Nat) : (d.thermStep f).throttled k =
    if k = f ∧ d.furHere f = true then d.anyTemp f (fun t => decide (105 ≤ t)) else d.throttled k := by
  unfold Dev.thermStep
  cases hh : d.furHere f with
  | false => rw [Bool.not_false, if_pos rfl, if_neg fun q => Bool.noConfusion q.2]
  | true =>
    rw [Bool.not_true, if_neg (by decide)]
    dsimp only
    generalize d.anyTemp f (fun t => decide (105 ≤ t)) = now
    by_cases hn : now = d.throttled f
    · rw [if_pos hn]
      split
      · next q => rw [q.1, hn]
      · rfl
    · rw [if_neg hn, Dev.throttled_congr (Dev.drCause_rd _ (by decide) (by decide) (by decide))]
      have hlt : setBit (d.fg drThr DrThr.THF) f now < 2 ^ 16 := setBit_lt now (Span.get_lt DrThr.THF _) hf
      unfold Dev.throttled
      rw [Dev.fg_fp_self _ _ _ _ (by decide), show DrThr.THF.width = 16 from rfl, Nat.mod_eq_of_lt hlt, testBit_setBit]
      by_cases hk : k = f
      · rw [if_pos hk, if_pos ⟨hk, rfl⟩]
      · rw [if_neg hk, if_neg fun q => hk q.1]

/-- A furrow is throttled just while a sensor that affects it reads 105 °C or more. -/
theorem Dev.thermSteps_throttled (d : Dev) (n : Nat) (hn : n ≤ 16) :
    d.ThermKept ((List.range n).foldl Dev.thermStep d) ∧ ∀ f < n, d.furHere f = true →
      ((List.range n).foldl Dev.thermStep d).throttled f = d.anyTemp f (fun t => decide (105 ≤ t)) := by
  induction n with
  | zero => exact ⟨.refl d, fun f hf => absurd hf (Nat.not_lt_zero f)⟩
  | succ n ih =>
    obtain ⟨hk, hall⟩ := ih (by omega)
    rw [List.range_succ, List.foldl_append, List.foldl_cons, List.foldl_nil]
    refine ⟨hk.trans (Dev.thermStep_kept _ n), fun f hf hh => ?_⟩
    rw [Dev.thermStep_throttled _ (by omega), hk.furHere, hk.anyTemp (by omega)]
    split
    · next q => rw [q.1]
    · next q => exact hall f (by rcases Nat.lt_or_eq_of_le (Nat.le_of_lt_succ hf) with h | h; exacts [h, absurd ⟨h, h ▸ hh⟩ q]) hh

theorem Dev.thermal_throttled (d : Dev) {f : Nat} (hf : f < 16) (hh : d.furHere f = true) :
    d.thermal.throttled f = d.anyTemp f (fun t => decide (105 ≤ t)) := by
  obtain ⟨-, hall⟩ := Dev.thermSteps_throttled d 16 (Nat.le_refl _)
  rw [← hall f hf hh]
  refine Dev.throttled_congr ?_ f
  have tell : ∀ (b : Bool) (e : Dev) (k : Nat), (if b then e.raiseSrc k 0 else e.faultDeassert k 0).rd drThr = e.rd drThr := fun b e k => by
    cases b with
    | false => exact Dev.dropSrc_rd e k 0 (by decide)
    | true => exact Dev.raiseSrc_rd e k 0 drThr
  have cold : ∀ (p : Prop) [Decidable p] (e : Dev) (k : Nat), (if p then e.raiseSrc k 0 else e.faultDeassert k 0).rd drThr = e.rd drThr := fun p _ e k => by
    have := tell (decide p) e k
    simpa only [decide_eq_true_eq] using this
  exact (tell _ _ 179).trans (cold _ _ 178)

/-! ### A reading -/

theorem tempSpan_fits (i : Nat) : (tempSpan i).fits ∧ (tempSpan i).width = 9 := by
  have h : i % 4 < 4 := Nat.mod_lt _ (by decide)
  generalize hk : i % 4 = k at h
  unfold tempSpan
  rw [hk]
  interval_cases k <;> exact ⟨by decide, rfl⟩

/-- A sensor's register shows what the sensor read. -/
theorem Dev.temp_read (d : Dev) {i : Nat} (hi : i < 20) (t : BitVec 9) (m : Nat) :
    ((d.fp (drTemp (i / 4)) (tempSpan i) (t.toInt.emod 512).toNat).fp drThr DrThr.TMAX m).temp i = t.toInt := by
  obtain ⟨hfit, hw⟩ := tempSpan_fits i
  have hv : (t.toInt.emod 512).toNat = t.toNat := by
    have h := BitVec.toInt_eq_toNat_bmod t
    have hl := t.isLt
    rw [h]
    change ((Int.bmod t.toNat 512) % ((512 : Nat) : Int)).toNat = _
    rw [Int.bmod_emod]
    omega
  unfold Dev.temp
  rw [Dev.rd_fp_ne _ _ _ (by unfold drTemp drThr; omega), hv]
  have hg := Dev.fg_fp_self d (drTemp (i / 4)) (tempSpan i) t.toNat hfit
  rw [Dev.fg, hw, Nat.mod_eq_of_lt t.isLt] at hg
  rw [hg, sxNat_toNat (by decide)]

/-- Settles O31: readings by the fields of their registers, throttling furrow by furrow. -/
theorem sensorsThrottleAndTheDramIsKept : Obligations.SensorsThrottleAndTheDramIsKept := by
  intro s d
  refine ⟨fun hon i t hh => ?_, fun ha f h => State.next_live ha ?_, fun ha f h => State.next_live ha ?_, fun ha b h => State.next_live ha (if_neg ?_),
    fun ha b => State.next_live ha rfl⟩
  · intro e m g
    refine ⟨State.next_powered hon (if_neg ?_), Dev.temp_read d i.2 t _, fun f hf => Dev.thermal_throttled g f.2 hf⟩
    rintro ⟨h16, hn⟩
    exact hn (hh h16)
  · unfold Dev.throttleStep
    rw [h]
    rfl
  · unfold Dev.throttleStep
    rw [h]
    rfl
  · rw [List.any_eq_true]
    rintro ⟨k, hk, hlt⟩
    exact absurd (of_decide_eq_true hlt) (Nat.not_lt.2 (h k (List.mem_range.1 hk)))

end Sys2Proof.Machine
end

section
/-! The outcomes of the lockstep machinery (R216-R236): how an unwinding, an arbitration, a minority test, a quiesce and a JOIN end. -/

namespace Sys2Proof.Machine

open Sys2Proof

/-! ### Unwinding and arbitration (R216, R219-R223) -/

/-- The mismatch `m` of furrow `f` is unwound. -/
def Dev.unwound (e : Dev) (f : Nat) (m : Mis) (lost : Bool) : Dev :=
  (e.putFur f { e.fur f with mis := (e.fur f).mis.map fun q => if q = m then { m with done := true, lost := lost } else q }).furNext f

section Unwind
variable {d : Dev} {c : Nat} {m : Mis} (hm : (d.fur (c / 4)).mis.find? (fun m => m.cells.testBit (c % 4) && !m.done) = some m)
include hm

theorem Dev.unwindEnd_done (h1 : (d.cell m.lead).loads = []) (h2 : (d.cell m.lead).stores = []) (h3 : d.txCopying m.lead = false) :
    d.unwindEnd c false = d.unwound (c / 4) m false := by
  unfold Dev.unwindEnd
  dsimp only
  rw [hm]
  dsimp only
  rw [h1, h2, h3, if_neg (by simp)]
  rfl

theorem Dev.unwindEnd_lost : d.unwindEnd c true =
    (((((d.cell m.lead).loads.filterMap LoadE.fly ++ (d.cell m.lead).stores.filterMap StoreE.fly).foldl (fun d i => d.land i) d).putCell m.lead
      { d.cell m.lead with loads := [], stores := [] }).unwound (c / 4) m true) := by
  unfold Dev.unwindEnd
  dsimp only
  rw [hm]
  rfl

end Unwind

section Arbitration
variable {d : Dev} {f a : Nat} {taken : Bool} {m : Mis} (ha : (d.fur f).arb = some (a, taken)) (hm : (d.fur f).turn = some m)
include ha hm

theorem Dev.arbitrationEnd_agree : d.arbitrationEnd f .agree =
    ((((d.putFur f { d.fur f with arb := none, suspects := 0 }).arbiterBack f a taken).toRestart f m 2 true).furNext f) := by
  unfold Dev.arbitrationEnd
  dsimp only
  rw [ha, hm]

theorem Dev.arbitrationEnd_noMajority : d.arbitrationEnd f .noMajority =
    ((((d.putFur f { d.fur f with arb := none, suspects := 0 }).retireCell (4 * f + a) true).toRestart f m 2 true).furNext f) := by
  unfold Dev.arbitrationEnd
  dsimp only
  rw [ha, hm]

theorem Dev.arbitrationEnd_blamed {p : Fin 4} (hp : p.val ≠ a) (hmem : m.cells.testBit p.val = true) :
    let e := d.putFur f { d.fur f with arb := none, suspects := 0 }
    let bad := 4 * f + p.val
    let sur := (((bitsOf m.cells 4).map (fun q => 4 * f + q)).filter (fun c => decide (c ≠ bad))).headD bad
    let g := (((e.relead m.lead sur).retireCell bad true).pointRoutes [bad] sur).clearPends (4 * f + a)
    let duo : Mis := { m with cells := posMask [sur, 4 * f + a], lead := sur }
    d.arbitrationEnd f (.blamed p) =
      if g.ff (fuPol f) FuPol.RESUME then
        (((g.setRole sur 1 m.grp).putFur f { g.fur f with
          cmd := some { cmd := 2, src := sur % 4, tgt := 2 ^ a, nrole := b2n taken, copy := true, auto := 1 } }).fp (fuStat f) FuStat.OUT 1).fp (fuStat f) FuStat.ARB 1
      else (Dev.toRestart (g.putFur f { g.fur f with mis := (g.fur f).mis.map (fun q => if q = m then duo else q) }) f duo 2 true).furNext f := by
  unfold Dev.arbitrationEnd
  dsimp only
  rw [ha, hm]
  dsimp only
  rw [if_neg hp, if_neg (by rw [hmem]; decide)]

end Arbitration

/-! ### Restarts and tests (R223-R225) -/

theorem Dev.groupResume_of {d : Dev} {f : Nat} {m : Mis} (h : (d.fur f).resume = some m) :
    let c := d.lead (4 * f + m.lead % 4)
    let e := d.putFur f { d.fur f with resume := none }
    d.groupResume f = (e.putCell c { (e.cell c).enter { lvl := 2, cause := cCALIPER, epc := m.pc, imprecise := m.impr } with frozen := false }).furNext f := by
  unfold Dev.groupResume
  rw [h]

/-- The restart of a group that waits for it (R224, R233, R271). -/
theorem State.groupRestart_of {s : State} {f : Nat} {m : Mis} (h : (s.dev.fur f).restart = some m) (bad : Bool) :
    let x := s.dev.fur f
    let r := (s.dev.putFur f { x with restart := none, mis := x.mis.filter (fun q => decide (q ≠ m)) }).recover
    let cells := (bitsOf m.cells 4).map (fun p => 4 * f + p)
    let q := (s.onDev (r.2.count (fuCnt f) FuCnt.RSC)).copyChecked m.lead
    let j := q.2.joinCopy [m.lead] (cells.filter (fun c => decide (c ≠ m.lead))) m.grp
    let g := (cells.foldl (fun d c => d.dropHolds c) j.dev).restart (cells.foldl min 63) cCALRST (r.2.fg (fuMmpc f) FuMmpc.PC) m.st true
    let lost (e : Dev) : State := q.2.onDev (((e.furCause f 1).groupLost f m cells).furNext f)
    (r.1 = false → s.groupRestart f bad = s.onDev (((r.2.noteFault 144).firstFault 144 f 4).furNext f)) ∧
    (r.1 = true → bad = true → s.groupRestart f bad = lost (q.2.dev.pulseSrc 160 m.lead)) ∧
    (r.1 = true → bad = false → q.1 = true → s.groupRestart f bad = lost q.2.dev) ∧
    (r.1 = true → bad = false → q.1 = false → s.groupRestart f bad = j.onDev (g.furNext f)) := by
  intro x r cells q j g lost
  have hx : s.groupRestart f bad = if r.1 = true then
      if (bad || q.1) = true then lost (if bad then q.2.dev.pulseSrc 160 m.lead else q.2.dev) else j.onDev (g.furNext f)
    else s.onDev (((r.2.noteFault 144).firstFault 144 f 4).furNext f) := by
    unfold State.groupRestart
    dsimp only
    rw [h] <;> rfl
  rw [hx]
  refine ⟨fun hr => if_neg (by rw [hr]; decide), fun hr hb => ?_, fun hr hb hq => ?_, fun hr hb hq => ?_⟩
  · rw [if_pos hr, hb, Bool.true_or, if_pos rfl, if_pos rfl]
  · rw [if_pos hr, hb, hq, Bool.false_or, if_pos rfl, if_neg (by decide)]
  · rw [if_pos hr, hb, hq, Bool.false_or, if_neg (by decide)]

theorem Dev.minorityEnd_of {d : Dev} {c : Nat} {sp : Option Nat} (h : (d.fur (c / 4)).mins.find? (fun q => decide (q.1 = c % 4)) = some (c % 4, sp)) (fails : Bool) :
    let e := d.putFur (c / 4) { d.fur (c / 4) with mins := (d.fur (c / 4)).mins.filter (fun q => decide (q.1 ≠ c % 4)) }
    let g := if fails then e.retireCell c true else e.spareCell c
    let t := match sp with | some p => g.spareCell (4 * (c / 4) + p) | none => g
    (t.ff (fuPol (c / 4)) FuPol.AUTOJ = false ∨ t.lowestRole (c / 4) 1 = none → d.minorityEnd c fails = t.furNext (c / 4)) ∧
    (∀ p, t.ff (fuPol (c / 4)) FuPol.AUTOJ = true → t.lowestRole (c / 4) 1 = some p →
      d.minorityEnd c fails = (t.putFur (c / 4) { t.fur (c / 4) with autoj := some (t.grp (4 * (c / 4) + p)) }).furNext (c / 4)) := by
  intro e g t
  have hx : d.minorityEnd c fails = match (if t.ff (fuPol (c / 4)) FuPol.AUTOJ = true then t.lowestRole (c / 4) 1 else none) with
      | some p => (t.putFur (c / 4) { t.fur (c / 4) with autoj := some (t.grp (4 * (c / 4) + p)) }).furNext (c / 4)
      | none => t.furNext (c / 4) := by
    unfold Dev.minorityEnd
    dsimp only
    rw [h] <;> rfl
  rw [hx]
  refine ⟨fun ho => ?_, fun p ha hp => ?_⟩
  · rcases ho with ho | ho
    · rw [ho, if_neg (by decide)]
    · rw [ho, ite_self]
  · rw [if_pos ha, hp]

/-! ### Commands (R229-R234) -/

section Command
variable {d : Dev} {f : Nat} {q : FurCmd} (hq : (d.fur f).cmd = some q) (hcopy : q.copy = false)
include hq hcopy

theorem Dev.quiesceEnd_of (hall : (d.cmdCells f q).all (fun c => d.drainedCell c) = true) (n : Nat) :
    let free := d.putFur f { d.fur f with cmd := none }
    (q.cmd = 1 → d.quiesceEnd f n = if n % 2 ^ portWidth 3 ≠ 0 then d.mismatch (d.lead (4 * f + q.src)) 3 (n % 2 ^ portWidth 3)
      else ((free.splitNow f q).cmdResult f 0).furNext f) ∧
    (q.cmd = 2 → q.auto = 0 → d.quiesceEnd f n =
      let e := d.txAbortOwner (d.lead (4 * f + q.src)) abcOWNER
      e.putFur f { e.fur f with cmd := some { q with copy := true } }) ∧
    (q.cmd = 3 → q.auto = 0 → d.quiesceEnd f n = ((free.stopNow (posCells f q.tgt)).cmdResult f 0).furNext f) := by
  have hgo : ¬ (q.copy = true ∨ (!(d.cmdCells f q).all (fun c => d.drainedCell c)) = true) := by rw [hcopy, hall]; decide
  unfold Dev.quiesceEnd
  rw [hq]
  dsimp only
  rw [if_neg hgo]
  refine ⟨fun h => ?_, fun h h0 => ?_, fun h h0 => ?_⟩
  · rw [h] <;> rfl
  · rw [h, if_pos (show q.auto = 0 ∨ q.auto = 2 from .inl h0)] <;> rfl
  · rw [h, if_neg (show ¬ q.auto = 3 by rw [h0]; decide)] <;> rfl

theorem Dev.quiesceTimeout_of (h0 : q.auto = 0) :
    d.quiesceTimeout f = (((d.askQuiet (d.cmdCells f q) false).putFur f { d.fur f with cmd := none }).cmdResult f 5).furNext f := by
  unfold Dev.quiesceTimeout
  rw [hq]
  dsimp only
  rw [if_neg (by rw [hcopy]; decide), h0] <;> rfl

end Command

/-- The end of a JOIN that a command asked for (R231-R233). -/
theorem State.joinEnd_of {s : State} {f : Nat} {q : FurCmd} (hq : (s.dev.fur f).cmd = some q) (hcopy : q.copy = true) (h0 : q.auto = 0) (bad : Bool) :
    let d := s.dev
    let src := 4 * f + q.src
    let c := (s.onDev (d.putFur f { d.fur f with cmd := none })).copyChecked (d.lead src)
    let g := if d.role src = 1 then d.grp src else d.freeGroup f
    let j := c.2.joinCopy (d.mates src) (posCells f q.tgt) g
    let fail (e : Dev) : State := c.2.onDev ((((e.furCause f 1).askQuiet [src] false).cmdResult f 6).furNext f)
    s.joinEnd f bad = if (bad || c.1) = true then fail (if bad then c.2.dev.pulseSrc 160 (d.lead src) else c.2.dev)
      else j.onDev ((j.dev.cmdResult f 0).furNext f) := by
  unfold State.joinEnd
  dsimp only
  rw [hq]
  dsimp only
  rw [if_neg (by rw [hcopy]; decide), h0] <;> rfl

/-- Settles O25: each outcome by the branch that the furrow's state selects, then what the furrow does next. -/
theorem lockstepOutcomesFollow : Obligations.LockstepOutcomesFollow := by
  intro s f ha d x on free
  have step : ∀ {i : Instr} {g : State → State} {t : State}, exec i s = .next (s.liveS fun s => (g s).pumpFur f.val) → g s = t → exec i s = .next (t.pumpFur f.val) :=
    fun hi hg => hi.trans (State.next_liveS ha (congrArg (fun t => State.pumpFur t f.val) hg))
  have dev : ∀ {i : Instr} {g : Dev → Dev} {e : Dev}, exec i s = .next (s.liveS fun s => (s.onDev (g s.dev)).pumpFur f.val) → g d = e → exec i s = .next (on e) :=
    fun hi hg => hi.trans (State.next_liveS ha (congrArg on hg))
  refine ⟨fun c m hc hm => ?_, fun a taken m harb hturn => ?_, fun m hm => ?_, fun m hm => ?_, fun c sp hc hm fails => ?_, fun q hq hcopy => ?_,
    fun q hq hcopy h0 => ?_⟩
  · intro y settle
    have hm' : (d.fur (c.val / 4)).mis.find? (fun m => m.cells.testBit (c.val % 4) && !m.done) = some m := by rw [hc]; exact hm
    have row : ∀ b, (Host.Outcome.next (s.liveS fun s => (s.onDev (s.dev.unwindEnd c.val b)).pumpFur (c.val / 4)) : Host.Outcome State Fault Refusal) =
        .next (s.liveS fun s => (s.onDev (s.dev.unwindEnd c.val b)).pumpFur f.val) := fun b => by rw [hc]
    refine ⟨fun h1 h2 h3 => dev (g := fun d => d.unwindEnd c.val false) (row false) ?_, dev (g := fun d => d.unwindEnd c.val true) (row true) ?_⟩
    · have h := Dev.unwindEnd_done hm' h1 h2 h3
      rw [hc] at h
      exact h
    · have h := Dev.unwindEnd_lost hm'
      rw [hc] at h
      exact h
  · have judge : ∀ v {e : Dev}, d.arbitrationEnd f.val v = e → exec (.arbitrationTestEnd f v) s = .next (on e) := fun v e h =>
      dev (g := fun d => d.arbitrationEnd f.val v) rfl h
    exact ⟨judge _ (Dev.arbitrationEnd_agree harb hturn), judge _ (Dev.arbitrationEnd_noMajority harb hturn),
      fun p hp hmem => judge _ (Dev.arbitrationEnd_blamed harb hturn hp hmem)⟩
  · exact dev (g := fun d => d.groupResume f.val) rfl (Dev.groupResume_of hm)
  · obtain ⟨limit, -⟩ := State.groupRestart_of hm false
    obtain ⟨limit', bad, -⟩ := State.groupRestart_of hm true
    obtain ⟨-, -, lost, joined⟩ := State.groupRestart_of hm false
    have restarts : ∀ b {t : State}, s.groupRestart f.val b = t → exec (.groupRestart ⟨f, b⟩) s = .next (t.pumpFur f.val) := fun b t h =>
      step (g := fun s => s.groupRestart f.val b) rfl h
    refine ⟨fun hr b => ?_, fun hr => restarts true (bad hr rfl), fun hr hq => restarts false (lost hr rfl hq), fun hr hq => restarts false (joined hr rfl hq)⟩
    cases b with
    | false => exact restarts false (limit hr)
    | true => exact restarts true (limit' hr)
  · have hm' : (d.fur (c.val / 4)).mins.find? (fun q => decide (q.1 = c.val % 4)) = some (c.val % 4, sp) := by rw [hc]; exact hm
    have row : (Host.Outcome.next (s.liveS fun s => (s.onDev (s.dev.minorityEnd c.val fails)).pumpFur (c.val / 4)) : Host.Outcome State Fault Refusal) =
        .next (s.liveS fun s => (s.onDev (s.dev.minorityEnd c.val fails)).pumpFur f.val) := by rw [hc]
    have h := Dev.minorityEnd_of hm' fails
    rw [hc] at h
    exact ⟨fun ho => dev (g := fun d => d.minorityEnd c.val fails) row (h.1 ho), fun p ha hp => dev (g := fun d => d.minorityEnd c.val fails) row (h.2 p ha hp)⟩
  · refine ⟨fun hall => ?_, fun h0 => dev (g := fun d => d.quiesceTimeout f.val) rfl (Dev.quiesceTimeout_of hq hcopy h0)⟩
    have h := fun b : BitVec 101 => Dev.quiesceEnd_of hq hcopy hall b.toNat
    have ends : ∀ b {e : Dev}, d.quiesceEnd f.val b.toNat = e → exec (.quiesceEnd f b) s = .next (on e) := fun b e h =>
      dev (g := fun d => d.quiesceEnd f.val b.toNat) rfl h
    exact ⟨fun h1 b => ends b ((h b).1 h1), fun h2 h0 b => ends b ((h b).2.1 h2 h0), fun h3 h0 b => ends b ((h b).2.2 h3 h0)⟩
  · have h := fun b => State.joinEnd_of hq hcopy h0 b
    have ends : ∀ b {t : State}, s.joinEnd f.val b = t → exec (.joinEnd f b) s = .next (t.pumpFur f.val) := fun b t h =>
      step (g := fun s => s.joinEnd f.val b) rfl h
    refine ⟨fun hc => ends false ((h false).trans (if_neg ?_)), fun hc => ends false ((h false).trans (if_pos ?_)), ends true (h true)⟩
    · rw [Bool.false_or]
      exact Bool.not_eq_true _ ▸ hc
    · exact hc

end Sys2Proof.Machine
end

section
/-! A start's steps (R526-R529, R539-R550): the xSPI clock that step 5 notes has one bit less in BTXCFG than the command's operand. -/

namespace Sys2Proof.Machine

open Sys2Proof

/-- A device at step 5 of a start with the recovery straps. -/
def xspiStart : State := { pending := [], mem := {}, dev := { boot := { on := true, step := 5, strap := 1 } } }

/-- FMHZ keeps the low eight bits of the clock. -/
theorem xspiStart_fmhz (n dummy : Nat) : (xspiStart.xspiUp false false n dummy).dev.fg btXcfg BtXcfg.FMHZ = n % 2 ^ 8 := by
  have h : xspiStart.xspiUp false false n dummy =
      xspiStart.onDev (((xspiStart.dev.fp btXcfg BtXcfg.FMHZ n).fp btXcfg BtXcfg.DUMMY dummy).toStep 6) := by
    unfold State.xspiUp
    dsimp only
    rw [if_pos (by decide), if_pos (by decide)] <;> rfl
  rw [h]
  exact (Dev.fg_fp_apart _ _ _ _ _ (by decide) (by decide)).trans (Dev.fg_fp_self _ _ _ _ (by decide))

/-- Refutes O54: of a clock of 256 MHz, an operand of nine bits, FMHZ shows 0, since the field has eight bits. -/
theorem not_aStartRunsItsStepsInOrder : ¬ Obligations.AStartRunsItsStepsInOrder := by
  intro h
  obtain ⟨-, -, -, -, -, -, -, -, -, -, -, -, -, -, step5, -⟩ := h xspiStart 0 true false false false ⟨[], 0, false⟩ 256 0 0 0 0
  obtain ⟨t, ht, -, hf, -⟩ := step5 ⟨rfl, rfl⟩
  have hrow : exec (.xspiInit false false 256 0) xspiStart = .next (xspiStart.xspiUp false false 256 0) := rfl
  rw [hrow] at ht
  cases ht
  rw [xspiStart_fmhz] at hf
  exact absurd hf (by decide)

end Sys2Proof.Machine
end

section
/-! Tamper responses (R576-R578), the instructions of the TAP by debug state (R580, R581), and AUTH with its lockout (R582, R583). -/

namespace Sys2Proof.Machine

open Sys2Proof

/-! ### Tamper -/

theorem Dev.tamperSample_quiet {d : Dev} {x : TamperIn} {n : Nat} (h : lowestBit (d.tampered (d.tamperBad x)) 7 = none ∨ n ≤ d.fg tpCfg TpCfg.FILT) :
    d.tamperSample x n = d.tamperInputs (d.tamperBad x) := by
  unfold Dev.tamperSample
  dsimp only
  split
  · rfl
  · next i hi =>
    rcases h with h | h
    · rw [hi] at h
      nomatch h
    · rw [if_neg (Nat.not_lt.2 h)]

theorem Dev.tamperSample_responds {d : Dev} {x : TamperIn} {n i : Nat} (h : lowestBit (d.tampered (d.tamperBad x)) 7 = some i) (hn : d.fg tpCfg TpCfg.FILT < n) :
    d.tamperSample x n = (d.tamperInputs (d.tamperBad x)).tamperResponse i := by
  unfold Dev.tamperSample
  dsimp only
  rw [h]
  exact if_pos hn

/-- TPCMD.CLR (R578, R569). -/
theorem Dev.tamperClear_of (d : Dev) (p bad : Nat) :
    d.tamperClear p bad = if d.tampered bad = 0 ∧ d.hasRight p rightTAMPCLR = true ∧ d.auFree ≠ 0 then
      some ((((d.tamperInputs bad).sessionActs p).audit { typ := 0x62, part := p, role := (d.actor p).1, serial := (d.actor p).2 }).fp tpStat TpStat.LATCH 0)
    else none := by
  unfold Dev.tamperClear
  dsimp only
  by_cases h : d.tampered bad = 0 ∧ d.hasRight p rightTAMPCLR = true ∧ d.auFree ≠ 0
  · rw [if_pos h, if_pos (by simp [h])]
  · rw [if_neg h, if_neg (by simpa [and_assoc] using h)]

/-- A CLR write of TPCMD. -/
theorem State.rowWrite_tamperClear {s : State} {who : Requester} (h : s.reaches who tpCmd = true) :
    s.rowWrite who tpCmd (withField TpCmd.CLR 1 0) =
      s.wrote tpCmd (orRefused s.dev (s.dev.tamperClear (s.dev.ioPart who) s.dev.tamperNow)).1
        (orRefused s.dev (s.dev.tamperClear (s.dev.ioPart who) s.dev.tamperNow)).2 := by
  have hi : TpCmd.CLR.get (ofHalf (withField TpCmd.CLR 1 0) &&& 0xFFFFFFFFF) ≠ 0 := by
    rw [get_withField _ _ _ (by decide)]
    decide
  refine State.rowWrite_eff s who tpCmd _ _ h rfl (by decide) (by decide) (by decide) (by decide) ?_
  have hd : ∀ key new v, s.dev.regWrite who tpCmd key new v = s.dev.wrSecurity who tpCmd key new v := fun _ _ _ => rfl
  rw [hd]
  unfold Dev.wrSecurity
  rw [if_neg (by decide), if_neg (by decide), if_neg (by decide), if_pos rfl, if_pos hi]

/-! ### AUTH -/

theorem Dev.tapAuth_blocked {d : Dev} (h : d.tick < d.sec.tap.until') (f : Dev → Dev) : d.tapAuth f = d := if_pos (decide_eq_true h)

theorem Dev.tapAuth_free {d : Dev} (h : d.sec.tap.until' ≤ d.tick) (f : Dev → Dev) : d.tapAuth f = f (d.putTap { d.sec.tap with ir := 0x10 }) :=
  if_neg (by unfold Dev.authBlocked; rw [decide_eq_true_eq]; exact Nat.not_lt.2 h)

/-- The end of a chain: its holder is challenged, or the chain fails. -/
theorem Dev.tapChainEnd_of {d : Dev} (h : d.sec.tap.until' ≤ d.tick) :
    let x := d.putTap { d.sec.tap with ir := 0x10 }
    (∀ q, x.chainCheck d.sec.tap.chain = (0, some q) → d.tapChainEnd = if q.rights.testBit rightDBGI = true ∨ q.rights.testBit rightDBGM = true
      then (x.random 32).2.putTap { d.sec.tap with ir := 0x10, chain := [], holder := some q, chal := (x.random 32).1, next := 0 } else x.tapFails) ∧
    ((∀ q, x.chainCheck d.sec.tap.chain ≠ (0, some q)) → d.tapChainEnd = x.tapFails) := by
  intro x
  have hx : d.tapChainEnd = match x.chainCheck d.sec.tap.chain with
      | (0, some h) => if (h.rights.testBit rightDBGI || h.rights.testBit rightDBGM) = true then
          (x.random 32).2.putTap { d.sec.tap with ir := 0x10, chain := [], holder := some h, chal := (x.random 32).1, next := 0 } else x.tapFails
      | _ => x.tapFails := Dev.tapAuth_free h _
  rw [hx]
  refine ⟨fun q hq => ?_, fun hn => ?_⟩
  · rw [hq]
    simp only [Bool.or_eq_true]
  · split
    · next q e => exact absurd e (hn q)
    · rfl

theorem Dev.tapSubmit_of {d : Dev} (h : d.sec.tap.until' ≤ d.tick) :
    let x := d.putTap { d.sec.tap with ir := 0x10 }
    (d.sec.tap.holder = none → d.tapSubmit = x.tapFails) ∧
    ∀ q, d.sec.tap.holder = some q → d.tapSubmit =
      if (q.rights.testBit rightDBGM && x.tapSigned q 2) = true then x.tapEnter q 2
      else if (q.rights.testBit rightDBGI && x.tapSigned q 1) = true then x.tapEnter q 1 else x.tapFails := by
  intro x
  have hx : x.sec.tap.holder = d.sec.tap.holder := rfl
  refine ⟨fun hn => (Dev.tapAuth_free h _).trans ?_, fun q hq => (Dev.tapAuth_free h _).trans ?_⟩
  · dsimp only
    rw [show (d.putTap { d.sec.tap with ir := 0x10 }).sec.tap.holder = none from hx.trans hn]
  · dsimp only
    rw [show (d.putTap { d.sec.tap with ir := 0x10 }).sec.tap.holder = some q from hx.trans hq]

theorem State.onDev_ite (s : State) {p : Prop} [Decidable p] (d e : Dev) : s.onDev (if p then d else e) = if p then s.onDev d else s.onDev e := by
  split <;> rfl

/-- Settles O59: samples by the filter, the instructions by the debug state, AUTH by its lockout. -/
theorem tamperAndDebugAct : Obligations.TamperAndDebugAct := by
  intro s d st tap t denied leave
  refine ⟨fun ha => ⟨fun x n h => ?_, fun x n i h hn => ?_⟩, fun who hreach => ?_, fun ha => ?_⟩
  · exact State.next_live ha (Dev.tamperSample_quiet h)
  · exact State.next_live ha (Dev.tamperSample_responds h hn)
  · intro p now a ok
    have hw := State.rowWrite_tamperClear hreach
    have hc := Dev.tamperClear_of d p now
    refine ⟨fun h => congrArg Host.Outcome.next (hw.trans ?_), fun h => congrArg Host.Outcome.next (hw.trans ?_)⟩
    · rw [show s.dev.tamperClear (s.dev.ioPart who) s.dev.tamperNow = _ from hc.trans (if_pos h)] <;> rfl
    · rw [show s.dev.tamperClear (s.dev.ioPart who) s.dev.tamperNow = _ from hc.trans (if_neg h)] <;> rfl
  · have row : ∀ {f : Dev → Dev} {e : Dev}, f s.dev = e → (Host.Outcome.next (s.live f) : Host.Outcome State Fault Refusal) = .next (s.onDev e) := fun h =>
      State.next_live ha h
    refine ⟨fun h => ⟨row (if_neg fun q => h (of_decide_eq_true q)), fun g => row (if_neg fun q => h (of_decide_eq_true q))⟩,
      fun h => ⟨row (if_pos (decide_eq_true h)), fun g => row (if_pos (decide_eq_true h))⟩, row rfl, row rfl, row rfl,
      fun h c => row (if_neg fun q => (of_decide_eq_true q : d.dbState ≠ 0) h), fun h c => row (if_pos (decide_eq_true h)), fun h => row ?_, fun h => row ?_, fun h => ?_, fun h => ?_⟩
    · have he : d.tapExit = d := if_pos h
      unfold Dev.tapReset
      rw [show s.dev.tapExit = d from he]
    · have he : d.tapExit = leave d := if_neg h
      unfold Dev.tapReset
      rw [show s.dev.tapExit = leave d from he]
    · have stays : ∀ {f : Dev → Dev}, (Host.Outcome.next (s.live fun d => d.tapAuth f) : Host.Outcome State Fault Refusal) = .next s := fun {f} =>
        (row (Dev.tapAuth_blocked h f)).trans rfl
      exact ⟨fun w => ⟨stays, stays⟩, stays, stays, stays, stays,
        (row (f := Dev.lockoutEnd) (e := d) (if_pos (decide_eq_true h))).trans rfl⟩
    · intro x fails
      have free : ∀ {f : Dev → Dev} {e : Dev}, f x = e → (Host.Outcome.next (s.live fun d => d.tapAuth f) : Host.Outcome State Fault Refusal) = .next (s.onDev e) :=
        fun {f e} hf => row ((Dev.tapAuth_free h f).trans hf)
      obtain ⟨none', some'⟩ := Dev.tapSubmit_of h
      refine ⟨row (if_neg fun q => Nat.not_lt.2 h (of_decide_eq_true q)), fun w => ⟨free rfl, free rfl⟩, free rfl, fun h3 => free (if_pos h3), fun h3 => free (if_neg h3), ?_,
        fun hn => row (none' hn), fun q hq => (row (some' q hq)).trans ?_⟩
      · obtain ⟨good, bad⟩ := Dev.tapChainEnd_of h
        generalize hc : x.chainCheck t.chain = c
        match c, hc with
        | (0, some q), hc =>
          refine (row (good q hc)).trans ?_
          rw [State.onDev_ite]
          exact apply_ite Host.Outcome.next _ _ _
        | (0, none), hc => exact row (bad fun q e => nomatch hc.symm.trans e)
        | (n + 1, o), hc => exact row (bad fun q e => nomatch hc.symm.trans e)
      · rw [State.onDev_ite, State.onDev_ite]
        rfl

end Sys2Proof.Machine
end

section
/-! The TAP's accesses to cells, memory and registers (R238, R580, R581, R584, R587), as the debug state permits. -/

namespace Sys2Proof.Machine

open Sys2Proof

/-! ### RUN -/

theorem Dev.tapIf_no {d : Dev} {ok : Bool} (h : ok = false) (f : Dev → Dev) : d.tapIf ok f = d.tapDenied := if_neg (by rw [h]; decide)

theorem Dev.tapIf_yes {d : Dev} {ok : Bool} (h : ok = true) (f : Dev → Dev) : d.tapIf ok f = f d := if_pos h

/-- The selected cell runs software, or is a suspect of an arbitration. -/
def Dev.tapRuns (d : Dev) : Prop :=
  d.cellHere d.sec.tap.sel = true ∧ (d.role d.sec.tap.sel = 0 ∨ d.role d.sec.tap.sel = 1 ∨ (d.fur (d.sec.tap.sel / 4)).suspects.testBit (d.sec.tap.sel % 4) = true)

theorem Dev.tapRun_of {d : Dev} (hm : d.tapMay = true) (n : Nat) (f : Dev → Nat → Dev) :
    (d.tapRuns → d.tapRun n f = f (d.tapShows 0x12 n) d.tapLead) ∧ (¬ d.tapRuns → d.tapRun n f = d.tapShows 0x12 n) := by
  have hr : d.tapRun n f = _ := Dev.tapIf_yes hm _
  exact ⟨fun h => hr.trans (if_pos h), fun h => hr.trans (if_neg h)⟩

theorem Dev.tapRun_no {d : Dev} (hm : d.tapMay = false) (n : Nat) (f : Dev → Nat → Dev) : d.tapRun n f = d.tapDenied := Dev.tapIf_no hm _

/-- RUN halt of a group that runs. -/
theorem Dev.tapHalt_of {d : Dev} (hm : d.tapMay = true) (hr : d.tapRuns) :
    let c := d.tapLead
    let x := d.tapShows 0x12 1
    let free := d.handsFree (c / 4) = true ∧ d.walking c = false
    (free → (d.cell c).halted = false → d.tapHalt = (x.haltGroup c).raise 253) ∧ (free → (d.cell c).halted = true → d.tapHalt = x) ∧
    (¬ free → d.tapHalt = x.putFur (c / 4) { d.fur (c / 4) with haltW := (d.fur (c / 4)).haltW ||| 2 ^ (c % 4) }) := by
  intro c x free
  have hx : d.tapHalt = if (!d.handsFree (c / 4) || d.walking c) = true then
      x.putFur (c / 4) { d.fur (c / 4) with haltW := (d.fur (c / 4)).haltW ||| 2 ^ (c % 4) }
    else if (d.cell c).halted then x else (x.haltGroup c).raise 253 := (Dev.tapRun_of hm 1 _).1 hr
  have hf : free → ¬ (!d.handsFree (c / 4) || d.walking c) = true := fun h => by rw [h.1, h.2]; decide
  rw [hx]
  refine ⟨fun h h2 => ?_, fun h h2 => ?_, fun h => if_pos ?_⟩
  · rw [if_neg (hf h), if_neg (by rw [h2]; decide)]
  · rw [if_neg (hf h), if_pos h2]
  · cases h1 : d.handsFree (c / 4) with
    | false => rfl
    | true => exact (Bool.eq_false_or_eq_true _).resolve_right fun h2 => h ⟨h1, h2⟩

/-! ### REG and ISRAM -/

theorem Dev.tapReg_of {d : Dev} (hm : d.tapMay = true) (wr : Bool) (i : Nat) (v : Word) :
    let c := d.tapLead
    ((d.cell c).halted = false → d.tapReg wr i v = d) ∧
    ((d.cell c).halted = true → d.tapReg wr i v = (if wr then d.putCell c ((d.cell c).tapWrite i v) else d).tapShows 0x13
      (b2n wr * 2 ^ 80 + i * 2 ^ 72 + (if wr then v else d.tapRead c i).toNat)) := by
  intro c
  have hr : d.tapReg wr i v = _ := Dev.tapIf_yes hm _
  exact ⟨fun h => hr.trans (if_pos (by rw [h]; rfl)), fun h => hr.trans (if_neg (by rw [h]; decide))⟩

theorem State.tapIsram_of {s : State} (hm : s.dev.tapMay = true) (wr : Bool) (i : Nat) (v : Word) :
    let c := s.dev.tapLead
    ((s.dev.cell c).halted = false → s.tapIsram wr i v = s) ∧
    ((s.dev.cell c).halted = true → s.tapIsram wr i v =
      { s with mem := if wr then (s.dev.mates c).foldl (fun m k => m.wr (isramOf k + i) v) s.mem else s.mem,
               dev := s.dev.tapShows 0x16 (b2n wr * 2 ^ 86 + i * 2 ^ 72 + (if wr then v else s.mem.rd (isramOf c + i)).toNat) }) := by
  intro c
  unfold State.tapIsram
  dsimp only
  rw [hm, if_neg (by decide)]
  exact ⟨fun h => if_pos (by rw [show (s.dev.cell s.dev.tapLead).halted = false from h]; rfl),
    fun h => if_neg (by rw [show (s.dev.cell s.dev.tapLead).halted = true from h]; decide)⟩

/-- A word written for every member of a list of cells. -/
theorem Mem.rd_foldl_isram (l : List Nat) (i : Nat) (v : Word) (m : Mem) (a : Nat) :
    (l.foldl (fun m k => m.wr (isramOf k + i) v) m).rd a = if ∃ k ∈ l, a = isramOf k + i then v else m.rd a := by
  induction l generalizing m with
  | nil => exact (if_neg fun ⟨k, hk, _⟩ => List.not_mem_nil hk).symm
  | cons b l ih =>
    rw [List.foldl_cons, ih, Mem.rd_wr]
    by_cases h : ∃ k ∈ l, a = isramOf k + i
    · obtain ⟨k, hk, e⟩ := h
      rw [if_pos ⟨k, hk, e⟩, if_pos ⟨k, List.mem_cons_of_mem _ hk, e⟩]
    · rw [if_neg h]
      by_cases hb : a = isramOf b + i
      · rw [if_pos hb, if_pos ⟨b, List.mem_cons_self, hb⟩]
      · rw [if_neg hb, if_neg]
        rintro ⟨k, hk, e⟩
        rcases List.mem_cons.1 hk with rfl | hk
        · exact hb e
        · exact h ⟨k, hk, e⟩

/-! ### MEM and IO -/

/-- The TAP shows what an access to a data word gave. -/
def State.tapMemShows (s : State) (wr : Bool) (a : Nat) (bad : Bool) (w : Word) : State :=
  s.onDev (s.dev.tapShows 0x14 (b2n wr * 2 ^ 109 + b2n bad * 2 ^ 108 + a * 2 ^ 72 + w.toNat))

theorem State.tapMem_of {s : State} (h : s.dev.dbState ≠ 0) (wr : Bool) (a : Nat) (v : Word) (fl : Flips) {q : Gate × Dev}
    (hq : s.dev.ask { cls := clsDEBUG, pl := 2, req := s.dev.tapLead, kind := if wr then .write else .read, addr := a } = q) :
    let g := s.onDev (q.2.touch a 1)
    let wrote := (g.strike a fl.mem).storePart a .word v fl.path
    let taken := g.takeWords a 1 (some dpDEBUG) fl
    ((∀ t, q.1 ≠ .permit t) → s.tapMem wr a v fl = (s.onDev q.2).tapMemShows wr a true 0) ∧
    ∀ t, q.1 = .permit t →
      (s.dev.dramGone a = true → s.tapMem wr a v fl = g.tapMemShows wr a true 0) ∧
      (s.dev.dramGone a = false →
        (wr = true → s.tapMem wr a v fl = if wrote.1 then wrote.2.tapMemShows wr a false v else wrote.2.tapMemShows wr a true 0) ∧
        (wr = false → s.tapMem wr a v fl =
          if taken.2.1 = 0 then taken.2.2.tapMemShows wr a false (taken.1.headD 0) else taken.2.2.tapMemShows wr a true 0)) := by
  intro g wrote taken
  unfold State.tapMem
  dsimp only
  rw [if_neg h, hq]
  obtain ⟨r, d1⟩ := q
  refine ⟨fun hn => ?_, fun t ht => ?_⟩
  · cases r with
    | permit t => exact absurd rfl (hn t)
    | _ => rfl
  · obtain rfl : r = .permit t := ht
    refine ⟨fun hg => if_pos hg, fun hg => ?_⟩
    dsimp only
    rw [if_neg (by rw [hg]; decide)]
    refine ⟨fun hw => (if_pos hw).trans ?_, fun hw => (if_neg (by rw [hw]; decide)).trans ?_⟩
    · change wrote.2.tapMemShows wr a (!wrote.1) (if wrote.1 = true then v else 0) = _
      cases wrote.1 <;> rfl
    · change taken.2.2.tapMemShows wr a (decide (taken.2.1 ≠ 0)) (if taken.2.1 ≠ 0 then 0 else taken.1.headD 0) = _
      by_cases h0 : taken.2.1 = 0
      · rw [if_pos h0, if_neg (not_not_intro h0), decide_eq_false (not_not_intro h0)]
      · rw [if_neg h0, if_pos h0, decide_eq_true h0]

/-- The TAP shows what an access to a register gave. -/
def State.tapIoShows (s : State) (wr : Bool) (a : Nat) (bad : Bool) (v : Half) : State :=
  s.onDev (s.dev.tapShows 0x15 (b2n wr * 2 ^ 61 + b2n bad * 2 ^ 60 + a * 2 ^ 36 + v.toNat))

theorem State.tapIo_write {s : State} (h : s.dev.dbState ≠ 0) (a : Nat) (v : Half) (f : BitVec 43) :
    let sent := flippedIo v f
    let t := s.onDev (s.dev.found sent.2 171 0)
    let q := t.ioWrite .debug a sent.1
    s.tapIo true a v f = if sent.2 = 2 then t.tapIoShows true a true v else q.2.tapIoShows true a q.1 v := by
  intro sent t q
  have ht : s.tapIo true a v f = (let r : Half × Bool × State := if sent.2 = 2 then (v, true, t) else (v, q.1, q.2)
      r.2.2.tapIoShows true a r.2.1 r.1) := if_neg h
  rw [ht]
  by_cases h2 : sent.2 = 2
  · rw [if_pos h2, if_pos h2]
  · rw [if_neg h2, if_neg h2]

theorem State.tapIo_read {s : State} (h : s.dev.dbState ≠ 0) (a : Nat) (v : Half) (f : BitVec 43) :
    let r := s.dev.ioRead .debug a
    let back := flippedIo r.1 f
    s.tapIo false a v f = (s.onDev (r.2.2.found back.2 171 0)).tapIoShows false a (r.2.1 || decide (back.2 = 2)) back.1 := if_neg h

theorem b2n_true_mul (n : Nat) : b2n true * n = n := Nat.one_mul n

/-- Settles O60: each instruction by the debug state, then by the state of the selected group. -/
theorem theTapReachesCellsAndMemory : Obligations.TheTapReachesCellsAndMemory := by
  intro s wr ha d t c may runs free denied x
  have row : ∀ {f : Dev → Dev} {e : Dev}, f s.dev = e → (Host.Outcome.next (s.live f) : Host.Outcome State Fault Refusal) = .next (s.onDev e) := fun h =>
    State.next_live ha h
  have rowS : ∀ {f : State → State} {u : State}, f s = u → (Host.Outcome.next (s.liveS f) : Host.Outcome State Fault Refusal) = .next u := fun h =>
    State.next_liveS ha h
  have resume : ∀ {e : Dev}, (d.tapRun 2 fun d c => if (d.cell c).halted then (d.releaseGroup c).raise 253 else d) = e →
      exec .debugResume s = .next ((s.onDev e).pump c) := fun h => rowS (congrArg (fun e => State.pump (s.onDev e) c) h)
  have step : ∀ {e : Dev}, d.tapStep = e → exec .debugStep s = .next ((s.onDev e).pump c) := fun h => rowS (congrArg (fun e => State.pump (s.onDev e) c) h)
  refine ⟨fun hm => ⟨row (Dev.tapRun_no (d := d) hm 1 _), resume (Dev.tapRun_no (d := d) hm 2 _), step (Dev.tapRun_no (d := d) hm 3 _), fun i v => row (Dev.tapIf_no hm _), fun i v => rowS ?_⟩,
    fun hm hr => ?_, fun hm hr => ?_, fun hm hh => ⟨fun i v => ?_, fun i v => rowS ?_⟩, fun hm hh => ⟨fun i v => ⟨row ?_, row ?_⟩, fun i v => ?_, fun i v => rowS ?_⟩,
    fun h0 => ?_, fun h0 => ⟨fun a v f => ?_, fun a v f => ⟨rowS (State.tapIo_write h0 _ _ _), rowS (State.tapIo_read h0 _ _ _)⟩, fun v => rowS ?_⟩⟩
  · exact if_pos (by rw [show s.dev.tapMay = false from hm]; rfl)
  · obtain ⟨h1, h2, h3⟩ := Dev.tapHalt_of (d := d) hm hr
    refine ⟨fun hf hh => row (h1 hf hh), fun hf hh => row (h2 hf hh), fun hf => row (h3 hf), fun hh => ⟨resume ?_, step ?_⟩, fun hh => ⟨resume ?_, step ?_⟩⟩
    · exact ((Dev.tapRun_of hm 2 _).1 hr).trans (if_pos hh)
    · exact ((Dev.tapRun_of hm 3 _).1 hr).trans (if_pos hh)
    · exact ((Dev.tapRun_of hm 2 _).1 hr).trans (if_neg (by rw [show ((d.tapShows 0x12 2).cell d.tapLead).halted = false from hh]; decide))
    · exact ((Dev.tapRun_of hm 3 _).1 hr).trans (if_neg (by rw [show ((d.tapShows 0x12 3).cell d.tapLead).halted = false from hh]; decide))
  · exact ⟨row ((Dev.tapRun_of hm 1 _).2 hr), resume ((Dev.tapRun_of hm 2 _).2 hr), step ((Dev.tapRun_of hm 3 _).2 hr)⟩
  · exact (row ((Dev.tapReg_of (d := d) hm wr i.toNat v).1 hh)).trans rfl
  · exact (State.tapIsram_of hm wr i.toNat v).1 hh
  · refine ((Dev.tapReg_of (d := d) hm true i.toNat v).2 hh).trans ?_
    rw [b2n_true_mul, if_pos rfl, if_pos rfl]
    rfl
  · refine ((Dev.tapReg_of (d := d) hm false i.toNat v).2 hh).trans ?_
    rw [show b2n false * 2 ^ 80 = 0 from Nat.zero_mul _, Nat.zero_add, if_neg (by decide), if_neg (by decide)]
    rfl
  · refine ⟨_, rowS ((State.tapIsram_of hm true i.toNat v).2 hh), fun a => ?_, ?_⟩
    · exact Mem.rd_foldl_isram (d.mates c) i.toNat v s.mem a
    · dsimp only
      rw [b2n_true_mul, if_pos rfl]
  · refine ((State.tapIsram_of hm false i.toNat v).2 hh).trans ?_
    rw [show b2n false * 2 ^ 86 = 0 from Nat.zero_mul _, Nat.zero_add, if_neg (by decide), if_neg (by decide)]
    rfl
  · exact ⟨fun a v e => rowS (if_pos h0), fun a v f => rowS (if_pos h0), fun v => rowS (if_pos h0)⟩
  · intro q g shows wrote taken
    obtain ⟨no, yes⟩ := State.tapMem_of (s := s) h0 wr a.toNat v f rfl
    exact ⟨fun hn => rowS (no hn), fun at' hp => ⟨fun hg => rowS ((yes at' hp).1 hg), fun hg => ⟨fun hw => rowS (((yes at' hp).2 hg).1 hw),
      fun hw => rowS (((yes at' hp).2 hg).2 hw)⟩⟩⟩
  · have hs : flippedIo (withField DbCtl.EXIT 1 v) 0 = (withField DbCtl.EXIT 1 v, 0) := if_pos rfl
    refine (State.tapIo_write h0 dbCtl (withField DbCtl.EXIT 1 v) 0).trans ?_
    rw [hs, if_neg (show ¬ (0 : Nat) = 2 by decide)]
    unfold State.tapIoShows
    rw [b2n_true_mul] <;> rfl

end Sys2Proof.Machine
end

section
/-! The commands of a furrow, the clearance of a retirement, the clock code and the end of a caliper test (R222, R228-R236, R240, R241, R249). -/

namespace Sys2Proof.Machine

open Sys2Proof

/-! ### The registers of a furrow -/

theorem regDesc_furrow {f o : Nat} (hf : f < 16) (h0 : o < 0x20) :
    regDesc (0x080000 + 0x20 * f + o) = descFurrow (0x20 * f + o) := by
  have h1 : (0x080000 + 0x20 * f + o) % 0x1000000 / 0x10000 = 8 := by omega
  have h2 : (0x080000 + 0x20 * f + o) % 0x1000000 % 0x10000 = 0x20 * f + o := by omega
  simp only [regDesc, h1, h2]

theorem descFurrow_of {f o : Nat} (hf : f < 16) (ho : o < 0x20) : descFurrow (0x20 * f + o) = descFurrow o := by
  have h1 : 0x20 * f + o ≠ 0x400 := by omega
  have h2 : 0x20 * f + o < 0x200 := by omega
  have h3 : (0x20 * f + o) % 0x20 = o := by omega
  have h4 : o ≠ 0x400 := by omega
  have h5 : o < 0x200 := by omega
  have h6 : o % 0x20 = o := by omega
  simp only [descFurrow, if_neg h1, if_pos h2, h3, if_neg h4, if_pos h5, h6]

/-- A write of a register of a furrow without locked fields, whose own effect is `x`. -/
theorem State.rowWrite_furrow (s : State) (who : Requester) {f o : Nat} (hf : f < 16) (ho : o < 0x20) (v : Half)
    (h : s.reaches who (0x080000 + 0x20 * f + o) = true) (hw : (descFurrow o).wide = false) (hl : (descFurrow o).mask (fun a => a == .rwl) = 0)
    {x : Bool × Dev}
    (hx : s.dev.wrFurrow who (0x080000 + 0x20 * f + o) (s.dev.newAt who (0x080000 + 0x20 * f + o) v) (ofHalf v &&& 0xFFFFFFFFF) = x) :
    s.rowWrite who (0x080000 + 0x20 * f + o) v = s.wrote (0x080000 + 0x20 * f + o) x.1 x.2 := by
  refine State.rowWrite_eff s who _ v _ h ((regDesc_furrow hf ho).trans (descFurrow_of hf ho)) hw hl
    (by simp only [fcRec, bCtl, btCmd, ssCmd, ssCfg]; omega) (.inl (by omega)) ?_
  have h1 : (0x080000 + 0x20 * f + o) / 0x10000 = 8 := by omega
  simp only [Dev.regWrite, h1]
  exact hx

/-- The partition that FnCMD judges a requester by: only a cell has one. -/
def Dev.furPart (d : Dev) (who : Requester) : Option Nat := match who with | .cell _ => some (d.ioPart who) | _ => none

section
variable (d : Dev) (who : Requester) {f : Nat} (hf : f < 16) (new v : Word)
include hf

theorem Dev.wrFurrow_cmd : d.wrFurrow who (fuCmd f) new v =
    (false, d.furCommand f (FuCmd.CMD.get v) (FuCmd.SRC.get v) (FuCmd.TGT.get v) (FuCmd.NROLE.get v) (d.furPart who) (d.ioPl who)) := by
  have h0 : fuCmd f ≠ furLock := by unfold fuCmd furLock; omega
  have h1 : fuCmd f % 0x10000 / 0x20 = f := by unfold fuCmd; omega
  have h2 : fuCmd f % 0x20 = 1 := by unfold fuCmd; omega
  simp only [Dev.wrFurrow, if_neg h0, h1, h2] <;> rfl

theorem Dev.wrFurrow_ret (hv : FuRet.CLR.get v ≠ 0) :
    d.wrFurrow who (fuRet f) new v = orRefused d (d.cellRetClear f (FuRet.CLRM.get v) (d.ioPart who)) := by
  have h0 : fuRet f ≠ furLock := by unfold fuRet furLock; omega
  have h1 : fuRet f % 0x10000 / 0x20 = f := by unfold fuRet; omega
  have h2 : fuRet f % 0x20 = 7 := by unfold fuRet; omega
  simp only [Dev.wrFurrow, if_neg h0, h1, h2, if_pos hv]

theorem Dev.wrFurrow_clk : d.wrFurrow who (fuClk f) new v = (false, d.clockWrite f (FuClk.FREQ.get new)) := by
  have h0 : fuClk f ≠ furLock := by unfold fuClk furLock; omega
  have h1 : fuClk f % 0x10000 / 0x20 = f := by unfold fuClk; omega
  have h2 : fuClk f % 0x20 = 8 := by unfold fuClk; omega
  simp only [Dev.wrFurrow, if_neg h0, h1, h2]

end

theorem Dev.newAt_freq (d : Dev) (who : Requester) {f : Nat} (hf : f < 16) (v : Fin 16) :
    FuClk.FREQ.get (d.newAt who (fuClk f) (withField FuClk.FREQ v.val 0)) = v.val := by
  have ha : ∀ w, d.absentFields (fuClk f) w = [] := fun w => by
    have h1 : fuClk f / 0x10000 = 8 := by unfold fuClk; omega
    simp only [Dev.absentFields, h1, ite_self]
  rw [Dev.newAt_rw d who (fuClk f) _ FuClk.FREQ FuClk.desc ((regDesc_furrow hf (by decide)).trans (descFurrow_of hf (by decide))) ha (by decide)
    (by decide) (by decide), get_ofHalf_withField _ _ _ (by decide)]
  exact Nat.mod_eq_of_lt v.isLt

/-- The word of FnCMD. -/
def furWordOf (cmd src tgt nrole : Nat) : Half :=
  withField FuCmd.CMD cmd (withField FuCmd.SRC src (withField FuCmd.TGT tgt (withField FuCmd.NROLE nrole 0)))

theorem furWordOf_get {cmd src tgt nrole : Nat} (h1 : cmd < 16) (h2 : src < 4) (h3 : tgt < 16) (h4 : nrole < 4) :
    let v := ofHalf (furWordOf cmd src tgt nrole) &&& 0xFFFFFFFFF
    FuCmd.CMD.get v = cmd ∧ FuCmd.SRC.get v = src ∧ FuCmd.TGT.get v = tgt ∧ FuCmd.NROLE.get v = nrole := by
  dsimp only
  unfold furWordOf
  refine ⟨?_, ?_, ?_, ?_⟩
  · rw [get_withField _ _ _ (by decide)]
    exact Nat.mod_eq_of_lt h1
  · rw [get_withField_ne FuCmd.CMD FuCmd.SRC _ _ (by decide) (by decide) (by decide), get_withField _ _ _ (by decide)]
    exact Nat.mod_eq_of_lt h2
  · rw [get_withField_ne FuCmd.CMD FuCmd.TGT _ _ (by decide) (by decide) (by decide),
      get_withField_ne FuCmd.SRC FuCmd.TGT _ _ (by decide) (by decide) (by decide), get_withField _ _ _ (by decide)]
    exact Nat.mod_eq_of_lt h3
  · rw [get_withField_ne FuCmd.CMD FuCmd.NROLE _ _ (by decide) (by decide) (by decide),
      get_withField_ne FuCmd.SRC FuCmd.NROLE _ _ (by decide) (by decide) (by decide),
      get_withField_ne FuCmd.TGT FuCmd.NROLE _ _ (by decide) (by decide) (by decide), get_withField _ _ _ (by decide)]
    exact Nat.mod_eq_of_lt h4

/-! ### FnCMD -/

/-- A command is named in LAST, and a spare test of a target of it is abandoned. -/
def Dev.furLed (d : Dev) (f cmd tgt : Nat) : Dev :=
  if (posCells f tgt).any (fun c => ((d.fp (fuStat f) FuStat.LAST cmd).fur f).test.testBit (c % 4)) then (d.fp (fuStat f) FuStat.LAST cmd).abandonTest f
  else d.fp (fuStat f) FuStat.LAST cmd

/-- What an accepted command begins. -/
def Dev.furBegun (d : Dev) (f cmd src tgt nrole : Nat) : Dev :=
  let ts := posCells f tgt
  match cmd with
  | 4 => (ts.foldl (fun d c => d.spareCell c) d).cmdResult f 0
  | 5 => (ts.foldl (fun d c => d.retireCell c false) d).cmdResult f 0
  | _ =>
    let e := if cmd = 2 then ts.foldl (fun d c => d.clearPends c) d else d
    (e.askQuiet (if cmd = 3 then ts else [4 * f + src]) true).putFur f
      { e.fur f with cmd := some { cmd := cmd, src := src, tgt := tgt, nrole := nrole } }

theorem Dev.furCommand_of (d : Dev) {f cmd : Nat} (h : cmd ≠ 0) (src tgt nrole : Nat) (part : Option Nat) (pl : Nat) :
    d.furCommand f cmd src tgt nrole part pl =
      match (d.furLed f cmd tgt).cmdRefusal f cmd src tgt nrole part pl with
      | some r => (d.furLed f cmd tgt).fp (fuStat f) FuStat.RSLT r
      | none => (d.furLed f cmd tgt).furBegun f cmd src tgt nrole := by
  unfold Dev.furCommand Dev.furLed Dev.furBegun
  rw [if_neg h] <;> rfl

theorem State.rowWrite_furCmd {s : State} {who : Requester} {f : Nat} (hf : f < 16) (h : s.reaches who (fuCmd f) = true) {cmd src tgt nrole : Nat}
    (h0 : cmd ≠ 0) (h1 : cmd < 16) (h2 : src < 4) (h3 : tgt < 16) (h4 : nrole < 4) :
    s.rowWrite who (fuCmd f) (furWordOf cmd src tgt nrole) = s.wrote (fuCmd f) false (
      match (s.dev.furLed f cmd tgt).cmdRefusal f cmd src tgt nrole (s.dev.furPart who) (s.dev.ioPl who) with
      | some r => (s.dev.furLed f cmd tgt).fp (fuStat f) FuStat.RSLT r
      | none => (s.dev.furLed f cmd tgt).furBegun f cmd src tgt nrole) := by
  obtain ⟨g1, g2, g3, g4⟩ := furWordOf_get h1 h2 h3 h4
  have hrow := State.rowWrite_furrow s who hf (o := 1) (by decide) (furWordOf cmd src tgt nrole) h rfl (by decide) (Dev.wrFurrow_cmd s.dev who hf _ _)
  rw [g1, g2, g3, g4, Dev.furCommand_of _ h0] at hrow
  exact hrow

/-- Settles O24: each command by the branch of FnCMD that takes it, the other writes by their register. -/
theorem furrowCommandsAreTaken : Obligations.FurrowCommandsAreTaken := by
  intro s who f part led go quiet
  refine ⟨fun h src tgt nrole => ?_, fun h m => ?_, fun h v => ?_, fun ha hr => ?_, fun ha grp port bit hc a b => ?_⟩
  · have row : ∀ {cmd src nrole : Nat} (begun : Dev → Dev), cmd ≠ 0 → cmd < 16 → src < 4 → nrole < 4 →
        (∀ d : Dev, d.furBegun f.val cmd src tgt.toNat nrole = begun d) →
        s.rowWrite who (fuCmd f.val) (furWordOf cmd src tgt.toNat nrole) = go cmd src tgt.toNat nrole begun := by
      intro cmd src nrole begun h0 h1 h2 h4 hb
      have hrow := State.rowWrite_furCmd f.isLt h h0 h1 h2 tgt.isLt h4
      rw [hb] at hrow
      exact hrow
    exact ⟨congrArg Host.Outcome.next (row _ (by decide) (by decide) src.isLt nrole.isLt fun d => rfl),
      congrArg Host.Outcome.next (row _ (by decide) (by decide) src.isLt (by decide) fun d => rfl),
      congrArg Host.Outcome.next (row _ (by decide) (by decide) (by decide) (by decide) fun d => rfl),
      congrArg Host.Outcome.next (row _ (by decide) (by decide) (by decide) (by decide) fun d => rfl),
      congrArg Host.Outcome.next (row _ (by decide) (by decide) (by decide) (by decide) fun d => rfl)⟩
  · have hc : FuRet.CLR.get (ofHalf (withField FuRet.CLR 1 (withField FuRet.CLRM m.toNat 0)) &&& 0xFFFFFFFFF) ≠ 0 := by
      rw [get_withField _ _ _ (by decide)]; decide
    have hm : FuRet.CLRM.get (ofHalf (withField FuRet.CLR 1 (withField FuRet.CLRM m.toNat 0)) &&& 0xFFFFFFFFF) = m.toNat := by
      rw [get_withField_ne FuRet.CLR FuRet.CLRM _ _ (by decide) (by decide) (by decide), get_withField _ _ _ (by decide)]
      exact Nat.mod_eq_of_lt m.isLt
    have hrow := State.rowWrite_furrow s who f.isLt (o := 7) (by decide) _ h rfl (by decide) (Dev.wrFurrow_ret s.dev who f.isLt _ _ hc)
    rw [hm] at hrow
    refine congrArg Host.Outcome.next (hrow.trans ?_)
    unfold Dev.cellRetClear
    by_cases hi : s.dev.installer (s.dev.ioPart who) rightRETCLR = true ∧ s.dev.auRoom = true
    · rw [if_pos hi, if_pos (by rw [hi.1, hi.2]; rfl)] <;> rfl
    · rw [if_neg hi, if_neg (by rw [Bool.and_eq_true]; exact hi)] <;> rfl
  · have hrow := State.rowWrite_furrow s who f.isLt (o := 8) (by decide) _ h rfl (by decide) (Dev.wrFurrow_clk s.dev who f.isLt
      (s.dev.newAt who (fuClk f.val) (withField FuClk.FREQ v.val 0)) (ofHalf (withField FuClk.FREQ v.val 0) &&& 0xFFFFFFFFF))
    rw [Dev.newAt_freq _ _ f.isLt] at hrow
    exact congrArg Host.Outcome.next hrow
  · refine State.next_liveS ha ?_
    rw [show s.dev.relockEnd f.val = _ from if_pos hr]
  · refine State.next_liveS ha ?_
    change s.onDev (s.dev.ctestEnd f.val a.toNat b.toNat) = _
    unfold Dev.ctestEnd
    rw [hc] <;> rfl

end Sys2Proof.Machine
end

section
/-! The alive feed and its time limits, the software sources and the self-checks (R258, R260, R261, R263, R264). -/

namespace Sys2Proof.Machine

open Sys2Proof

/-- A write of a register of the fault collector but FCREC without locked fields, whose own effect is `x`. -/
theorem State.rowWrite_fault (s : State) (who : Requester) {o : Nat} (ho : o < 0x10000) (h2 : o ≠ 2) (v : Half) (h : s.reaches who (0x090000 + o) = true)
    (hw : (descFault o).wide = false) (hl : (descFault o).mask (fun a => a == .rwl) = 0) {x : Bool × Dev}
    (hx : ∀ new, s.dev.wrFault who (0x090000 + o) new (ofHalf v &&& 0xFFFFFFFFF) = x) : s.rowWrite who (0x090000 + o) v = s.wrote (0x090000 + o) x.1 x.2 := by
  have hq : regDesc (0x090000 + o) = descFault o := by
    have h1 : (0x090000 + o) % 0x1000000 / 0x10000 = 9 := by omega
    have h3 : (0x090000 + o) % 0x1000000 % 0x10000 = o := by omega
    simp only [regDesc, h1, h3]
  refine State.rowWrite_eff s who _ v _ h hq hw hl (by simp only [fcRec, bCtl, btCmd, ssCmd, ssCfg]; omega) (.inl (by omega)) ?_
  have h1 : (0x090000 + o) / 0x10000 = 9 := by omega
  simp only [Dev.regWrite, h1]
  exact hx _

/-! ### The alive feed -/

/-- A feed with this key comes in time and is the one that is due. -/
def Dev.feedGood (d : Dev) (key : Nat) : Prop :=
  key = (if d.ff fcStat FcStat.NEXTK then 0xA5 else 0x5A) ∧ match d.fc.feedAt with
    | none => True
    | some t => t + d.fg fcFwin FcFwin.WMIN * 100000 ≤ d.fcNow ∧ d.fcNow ≤ t + max 1 (d.fg fcFwin FcFwin.WMAX) * 100000

theorem Dev.feed_refused {d : Dev} {part pl : Nat} (h : pl ≠ 2 ∨ part ≠ d.fg fcCtl FcCtl.FEEDP) (key : Nat) : d.feed part pl key = none := if_pos h

theorem Dev.feed_of {d : Dev} {part pl : Nat} (h1 : pl = 2) (h2 : part = d.fg fcCtl FcCtl.FEEDP) (key : Nat) :
    let e := (d.fp fcStat FcStat.FEEDV 1).fb fcStat FcStat.NEXTK (!d.ff fcStat FcStat.NEXTK)
    let g := if d.inFault then e else e.fb fcStat FcStat.SAFEB (!d.ff fcStat FcStat.SAFEB)
    (d.feedGood key → d.feed part pl key = some ({ g with fc := { g.fc with feedAt := some d.fcNow, warned := false } } : Dev).syncBalls) ∧
    (¬ d.feedGood key → d.feed part pl key = some d.feedBad) := by
  intro e g
  have hn : ¬(pl ≠ 2 ∨ part ≠ d.fg fcCtl FcCtl.FEEDP) := fun h => h.elim (fun k => k h1) fun k => k h2
  unfold Dev.feed
  dsimp only
  rw [if_neg hn]
  unfold Dev.feedGood
  cases d.fc.feedAt with
  | none => exact ⟨fun h => if_pos (by simpa using h), fun h => if_neg (by simpa using h)⟩
  | some t => exact ⟨fun h => if_pos (by simpa using h), fun h => if_neg (by simpa using h)⟩

theorem Dev.feedTimeout_of {d : Dev} {t : Nat} (h : d.fc.feedAt = some t) (ht : t + max 1 (d.fg fcFwin FcFwin.WMAX) * 100000 < d.fcNow) :
    d.feedTimeout = d.feedBad := by
  unfold Dev.feedTimeout
  rw [h]
  exact if_pos ht

theorem Dev.feedWarning_of {d : Dev} {t : Nat} (h : d.fc.feedAt = some t) (hw : d.fc.warned = false)
    (ht : t + max 1 (d.fg fcFwin FcFwin.WMAX) * 75000 ≤ d.fcNow) :
    d.feedWarning = ({ d with fc := { d.fc with warned := true } } : Dev).fcEvent 5 := by
  unfold Dev.feedWarning
  rw [h]
  exact if_pos ⟨by rw [hw]; rfl, ht⟩

theorem Dev.wrFault_feed (d : Dev) (who : Requester) (new v : Word) {key : Nat} (hk : FcFeed.KEY.get v = key) :
    d.wrFault who fcFeed new v = orRefused d (d.feed (d.ioPart who) (d.ioPl who) key) := by
  rw [Dev.wrFault, if_neg (by decide), if_neg (by decide), if_pos rfl, hk]

/-! ### The software sources -/

theorem Dev.wrFault_swf {d : Dev} {who : Requester} (hp : 2 ≤ d.ioPl who) (new v : Word) :
    d.wrFault who fcSwf new v = (false, if FcSwf.CH.get v ≠ 0 then (if FcSwf.DEV.get v ≠ 0 then d.swfDev else d).swfCh (FcSwf.CHM.get v)
      else if FcSwf.DEV.get v ≠ 0 then d.swfDev else d) := by
  rw [Dev.wrFault, if_neg (by decide), if_neg (by decide), if_neg (by decide), if_pos rfl, if_neg (by omega)]

theorem swfDev_get : let v := ofHalf (withField FcSwf.DEV 1 0) &&& 0xFFFFFFFFF
    FcSwf.DEV.get v ≠ 0 ∧ FcSwf.CH.get v = 0 := by
  decide

theorem swfCh_get (m : BitVec 16) : let v := ofHalf (withField FcSwf.CH 1 (withField FcSwf.CHM m.toNat 0)) &&& 0xFFFFFFFFF
    FcSwf.DEV.get v = 0 ∧ FcSwf.CH.get v ≠ 0 ∧ FcSwf.CHM.get v = m.toNat := by
  intro v
  refine ⟨?_, ?_, ?_⟩
  · rw [get_withField_ne FcSwf.CH FcSwf.DEV _ _ (by decide) (by decide) (by decide),
      get_withField_ne FcSwf.CHM FcSwf.DEV _ _ (by decide) (by decide) (by decide)]
    decide
  · rw [get_withField _ _ _ (by decide)]
    decide
  · rw [get_withField_ne FcSwf.CH FcSwf.CHM _ _ (by decide) (by decide) (by decide), get_withField _ _ _ (by decide)]
    exact Nat.mod_eq_of_lt m.isLt

/-- Settles O27: the feed by its judgement, the limits by the time, the writes by their register. -/
theorem feedAndSelfChecksAct : Obligations.FeedAndSelfChecksAct := by
  intro s who d now max' bad
  refine ⟨fun h key => ?_, fun ha t ht => ⟨fun hlt => ?_, fun hw hle => ?_⟩, fun h hp => ⟨?_, fun m => ?_⟩, fun ha => ⟨fun u => ?_, ?_, ?_, ?_⟩⟩
  · have hk : FcFeed.KEY.get (ofHalf (withField FcFeed.KEY key.toNat 0) &&& 0xFFFFFFFFF) = key.toNat := by
      rw [get_withField _ _ _ (by decide)]
      exact Nat.mod_eq_of_lt key.isLt
    have hrow := State.rowWrite_fault s who (o := 3) (by decide) (by decide) _ h rfl (by decide) fun new => Dev.wrFault_feed s.dev who new _ hk
    have row : ∀ {a : Option Dev}, s.dev.feed (s.dev.ioPart who) (s.dev.ioPl who) key.toNat = a →
        exec (.feed who key) s = .next (s.wrote fcFeed (orRefused s.dev a).1 (orRefused s.dev a).2) := fun e =>
      congrArg Host.Outcome.next (hrow.trans (by rw [e] <;> rfl))
    refine ⟨fun hr => row (Dev.feed_refused hr _), fun h1 h2 => ?_⟩
    obtain ⟨good, no⟩ := Dev.feed_of (d := s.dev) h1 h2 key.toNat
    exact ⟨fun ok => row (good ok), fun ok => row (no ok)⟩
  · exact State.next_live ha (Dev.feedTimeout_of ht hlt)
  · exact State.next_live ha (Dev.feedWarning_of ht hw hle)
  · have hrow := State.rowWrite_fault s who (o := 8) (by decide) (by decide) (withField FcSwf.DEV 1 0) h rfl (by decide) fun new =>
      Dev.wrFault_swf hp new _
    obtain ⟨h1, h2⟩ := swfDev_get
    rw [if_neg (not_not_intro h2), if_pos h1] at hrow
    exact congrArg Host.Outcome.next hrow
  · have hrow := State.rowWrite_fault s who (o := 8) (by decide) (by decide) (withField FcSwf.CH 1 (withField FcSwf.CHM m.toNat 0)) h rfl (by decide)
      fun new => Dev.wrFault_swf hp new _
    obtain ⟨h1, h2, h3⟩ := swfCh_get m
    rw [if_pos h2, if_neg (not_not_intro h1), h3] at hrow
    exact congrArg Host.Outcome.next hrow
  · refine State.next_live ha ?_
    simp only [Dev.ballFault, Bool.not_eq_true'] <;> rfl
  · exact State.next_live ha rfl
  · exact State.next_live ha rfl
  · exact State.next_live ha rfl

end Sys2Proof.Machine
end

section
/-! A write that reaches a 36-bit register (R12, R16, R608). -/

namespace Sys2Proof.Machine

open Sys2Proof

/-- A write of a register that has no effect of its own takes the value. -/
theorem State.rowWrite_plain (s : State) (who : Requester) (r : Nat) (v : Half) (h : s.reaches who r = true) (hw : (regDesc r).wide = false)
    (hr : r ≠ fcRec ∧ r ≠ bCtl ∧ r ≠ btCmd ∧ r ≠ ssCmd ∧ r ≠ ssCfg) (hg : r / 0x10000 ≠ 0xB)
    (hp : ∀ key new w, s.dev.regWrite who r key new w = (false, s.dev.wr r new)) :
    s.rowWrite who r v = s.wrote r (s.dev.lockHit who r v) (s.dev.wr r (s.dev.newAt who r v)) := by
  rw [State.rowWrite_dev s who r v h hw (fun k n w => State.regWrite_dev _ _ _ _ _ _ hr (.inl hg))]
  dsimp only
  rw [hp, Bool.false_or]

theorem Dev.wrPort_flt (d : Dev) (n : Nat) (new v : Word) : d.wrPort (fpFlt n) new v = (false, d.wr (fpFlt n) new) := by
  have h : fpFlt n % 0x100 = 0xA := by unfold fpFlt; omega
  simp only [Dev.wrPort, h, show ¬((0x18 ≤ 0xA ∧ 0xA < 0x20) ∨ 0x40 ≤ 0xA) by decide, if_false]

theorem Dev.wrTimer_pin (d : Dev) {n : Nat} (hn : n < 64) (new v : Word) : d.wrTimer (tmPin n) new v = (false, d.wr (tmPin n) new) := by
  have h1 : ¬ 0x400 ≤ tmPin n % 0x10000 := by unfold tmPin; omega
  have h2 : tmPin n % 0x10000 % 0x10 = 2 := by unfold tmPin; omega
  simp only [Dev.wrTimer, if_neg h1, h2]

/-- Settles O4: the write by its register's own effect, of which a fault register of a port and a pin register of a timer have none. -/
theorem registerWritesLand : Obligations.RegisterWritesLand := by
  intro s who a v h hw x
  refine ⟨congrArg Host.Outcome.next (State.rowWrite_narrow s who _ v h hw), fun n hn => congrArg Host.Outcome.next ?_,
    fun n hn => congrArg Host.Outcome.next ?_⟩
  · refine State.rowWrite_plain s who _ v h hw ?_ ?_ ?_
    · rw [hn]; simp only [fpFlt, fcRec, bCtl, btCmd, ssCmd, ssCfg]; omega
    · rw [hn]; unfold fpFlt; omega
    · intro key new w
      rw [hn]
      exact (Dev.regWrite_port s.dev who n.isLt (o := 0xA) (by decide) key new w).trans (Dev.wrPort_flt _ _ _ _)
  · refine State.rowWrite_plain s who _ v h hw ?_ ?_ ?_
    · rw [hn]; simp only [tmPin, fcRec, bCtl, btCmd, ssCmd, ssCfg]; omega
    · rw [hn]; unfold tmPin; omega
    · intro key new w
      rw [hn]
      exact (Dev.regWrite_timers s.dev who (by unfold tmPin; omega) key new w).trans (Dev.wrTimer_pin _ n.isLt _ _)

end Sys2Proof.Machine
end

section
/-! The halves of a 72-bit register (R10, R13, R97, R98). -/

namespace Sys2Proof.Machine

open Sys2Proof

section
variable {d : Dev} {who : Requester} {a r : Nat}

theorem Dev.readOf_low (hw : (regDesc r).wide = true) (ha : a = r) :
    d.readOf who a r = (loHalf (d.ioShown r (d.ioKey who r)), false,
      (d.ioTake r (d.ioKey who r)).putHilat who ⟨true, r + 1, hiHalf (d.ioShown r (d.ioKey who r))⟩) := by
  rw [Dev.readOf, if_pos hw, if_pos ha]

theorem Dev.readOf_high (hw : (regDesc r).wide = true) (ha : a ≠ r) (h2 : r ≠ 2) :
    d.readOf who a r = if (d.hilatOf who).v ∧ (d.hilatOf who).addr = a then ((d.hilatOf who).data, false, d.putHilat who { d.hilatOf who with v := false })
      else (hiHalf (d.ioShown r (d.ioKey who r)), false, d) := by
  rw [Dev.readOf, if_pos hw, if_neg ha, if_neg h2]

theorem Dev.readOf_narrow (hw : (regDesc r).wide = false) :
    d.readOf who a r = (loHalf (d.ioShown r (d.ioKey who r)), false, d.ioTake r (d.ioKey who r)) := by
  rw [Dev.readOf, if_neg (by rw [hw]; decide)]

end

/-- A read that a register answers, by what the sampled register gives. -/
theorem State.rowRead_readOf {s : State} {who : Requester} {a r : Nat} (h : s.readable who a r = true) {x : Half} {e : Bool} {d : Dev}
    (hx : (s.dev.ioSample r).readOf who a r = (x, e, d)) : s.rowRead who a = s.didRead x d := by
  have h3 : (s.dev.askIo (s.dev.ioReq who .read a)).1 = true ∧ s.dev.ioReg a = some r := by
    unfold State.readable at h
    simp only [Bool.and_eq_true, decide_eq_true_eq] at h
    exact ⟨h.1.2, h.2⟩
  rw [(State.rowRead_of s who a r h).1, Dev.ioRead_of _ _ _ _ h3.1 h3.2, hx]

/-- A read that has no other effect clears the read-to-clear fields. -/
theorem Dev.ioTake_clears {d : Dev} {r k : Nat} (h2 : r ≠ 2) (h6 : r ≠ 6) (hb : r ≠ btUstat) (hp : ∀ p : Fin 32, r ≠ fpData p.val) :
    d.ioTake r k = d.wr k (d.rd k &&& ~~~ ((regDesc r).mask (fun c => c == .rc))) := by
  unfold Dev.ioTake
  dsimp only
  rw [if_neg, if_neg]
  · exact fun h => h.elim h2 fun h => h.elim h6 hb
  · rintro ⟨h4, ho, hx⟩
    refine hp ⟨r % 0x10000 / 0x100, by omega⟩ ?_
    unfold fpData
    dsimp only
    omega

section
variable {s : State} {who : Requester} {a r : Nat} {v : Half}
variable (ha : (s.dev.alive && s.dev.mayAsk who) = true) (hq : (s.dev.askIo (s.dev.ioReq who .write a)).1 = true) (hr : s.dev.ioReg a = some r)
  (hw : (regDesc r).wide = true)
include ha hq hr hw

/-- A write access to a 72-bit register that the sluice permits. -/
theorem State.rowWrite_wide : s.rowWrite who a v =
    let x : Bool × State :=
      if a = r then
        if (Tab.get {} s.dev.holds (s.dev.holdOf who r)).v = true ∧ (Tab.get {} s.dev.holds (s.dev.holdOf who r)).addr = r then
          (s.onDev { s.dev with holds := Tab.set {} s.dev.holds (s.dev.holdOf who r) {} }).ioCommit who r
            (joinHalves (Tab.get {} s.dev.holds (s.dev.holdOf who r)).data v) (BitVec.allOnes 72)
        else s.ioCommit who r (ofHalf v) 0xFFFFFFFFF
      else if r < 0x10000 ∧ s.dev.ioPl who = 0 then (true, s)
      else (false, s.onDev { s.dev with holds := Tab.set {} s.dev.holds (s.dev.holdOf who r) ⟨true, r, v⟩ })
    x.2.onDev { x.2.dev with resp := ⟨0, x.1⟩ } := by
  unfold State.rowWrite State.writeAccess State.ioWrite
  rw [if_pos ha, Dev.askIo_permit _ _ hq]
  dsimp only
  rw [hr]
  dsimp only
  rw [if_pos hw] <;> rfl

end

/-- Settles O5: a read by the half that it asks for, a write by the half and the holding register. -/
theorem wideRegistersGoByHalves : Obligations.WideRegistersGoByHalves := by
  refine ⟨fun s who a r h => ?_, fun s who a r v ha hm hq hr hw => ?_⟩
  · intro d k w hl
    refine ⟨fun hw ha => ?_, fun hw ha h2 => ?_, fun hw => ⟨?_, fun h6 hb hp => ?_⟩⟩
    · exact congrArg Host.Outcome.next (State.rowRead_readOf h (Dev.readOf_low hw ha))
    · have hx := Dev.readOf_high (d := d) (who := who) hw ha h2
      refine congrArg Host.Outcome.next ?_
      by_cases hh : hl.v = true ∧ hl.addr = a.toNat
      · rw [if_pos hh]
        exact State.rowRead_readOf h (hx.trans (if_pos hh))
      · rw [if_neg hh]
        exact State.rowRead_readOf h (hx.trans (if_neg hh))
    · exact congrArg Host.Outcome.next (State.rowRead_readOf h (Dev.readOf_narrow hw))
    · refine Dev.ioTake_clears (fun h2 => ?_) h6 hb hp
      rw [h2] at hw
      exact absurd hw (by decide)
  · intro k barred h done
    have row := State.rowWrite_wide (v := v) (by rw [ha, hm]; rfl) hq hr hw
    dsimp only at row
    refine ⟨fun hn hb => congrArg Host.Outcome.next (row.trans ?_), fun hn hb => congrArg Host.Outcome.next (row.trans ?_),
      fun he hv hx => congrArg Host.Outcome.next (row.trans ?_), fun he hx => congrArg Host.Outcome.next (row.trans ?_)⟩
    · rw [if_neg hn, if_pos hb]
    · rw [if_neg hn, if_neg hb] <;> rfl
    · rw [if_pos he, if_pos ⟨hv, hx⟩] <;> rfl
    · have hno : ¬(h.v = true ∧ h.addr = r) := fun hh => hx.elim (fun hf => absurd hh.1 (by rw [hf]; decide)) fun hn => hn hh.2
      rw [if_pos he, if_neg hno] <;> rfl

end Sys2Proof.Machine
end

section
/-! The clock faults, and the order of a port tick (R24, R62, R104, R255, R257). -/

namespace Sys2Proof.Machine

open Sys2Proof

/-- A clock fault of a unit that the device has. -/
theorem Dev.clockFault_of {d : Dev} {k u : Nat} (h0 : k ≠ 4 → k ≠ 5 → u = 0) (h4 : k = 4 → d.furHere u = true) (h5 : k = 5 → d.ethHere u = true) :
    d.clockFault k u = ({ d with fc := { d.fc with spll := d.fc.spll || decide (k = 1) } } : Dev).raiseSrc (152 + k) u := by
  refine if_pos ?_
  by_cases e4 : k = 4
  · rw [if_pos e4, h4 e4]
  · rw [if_neg e4]
    by_cases e5 : k = 5
    · rw [if_pos e5, h5 e5]
    · rw [if_neg e5, h0 e4 e5]
      rfl

/-- Settles O7: the clock faults by their unit; the tick is its definition, in both rows. -/
theorem clockFaultsAssertAndTicksRun : Obligations.ClockFaultsAssertAndTicksRun := by
  refine ⟨fun s ha => ⟨fun k u h0 h4 h5 => ?_, fun k u h0 h3 h4 => ?_, State.next_live ha rfl⟩, fun s ts a b ha => ⟨State.next_live ha rfl, State.next_live ha rfl⟩⟩
  · refine State.next_live ha ((Dev.clockFault_of (fun e4 e5 => h0 (by omega)) h4 h5).trans ?_)
    rw [beq_eq_decide]
  · refine State.next_live ha ((Dev.clockFault_of (k := k.val + 1) (fun e4 e5 => h0 (by omega)) (fun e => h3 (by omega)) fun e => h4 (by omega)).trans ?_)
    rw [beq_eq_decide, show 152 + (k.val + 1) = 153 + k.val by omega, decide_eq_decide.2 (show k.val + 1 = 1 ↔ k.val = 0 by omega)]

end Sys2Proof.Machine
end

section
/-! The machine after reset (R16, R206): each family of registers holds its Reset column. -/

namespace Sys2Proof.Machine

open Sys2Proof

/-- No cell runs after reset, and every one is STOPPED. -/
theorem State.reset_cells : ∀ c < 64, State.reset.dev.running c = false ∧ State.reset.dev.role c = 3 := by decide

theorem State.reset_transactions : ∀ n < 32, State.reset.dev.txState n = 0 := by decide

theorem State.reset_domains : ∀ n < 32, State.reset.dev.fg (adCtl n) AdCtl.EN = 0 ∧ State.reset.dev.fg (adCtl n) AdCtl.STALLT = 100 ∧
    State.reset.dev.fg (adInc n) AdInc.INC = 0x1000000 ∧ State.reset.dev.fg (adChk n) AdChk.LOSSN = 64 := by decide

theorem State.reset_timers : ∀ n < 64, State.reset.dev.fg (tmCtl n) TmCtl.RUN = 0 ∧ State.reset.dev.fg (tmPin n) TmPin.TERM = 3 := by decide

theorem State.reset_ports : ∀ p < 32, State.reset.dev.fg (fpStat p) FpStat.STATE = 0 ∧ State.reset.dev.fg (fpCfg p) FpCfg.THR = 0x32 ∧
    State.reset.dev.fg (fpFlt p) FpFlt.RTN = 3 := by decide

theorem State.reset_channels : ∀ n < 16, State.reset.dev.fg (chStat n) ChStat.STATE = 7 := by decide

theorem State.reset_cellBlocks : ∀ c < 64, State.reset.dev.rd (clBun c) = 0 ∧ State.reset.dev.fg (clCfg c) ClCfg.DCEN = 1 := by decide

theorem State.reset_sluices : ∀ s < 99, State.reset.dev.fg (slIdx s) SlIdx.DRAINED = 1 := by decide

/-- Settles O3: the memories after reset are canonical, and each family of registers holds its Reset column. -/
theorem resetLeavesTheBlockQuiet : Obligations.ResetLeavesTheBlockQuiet := by
  unfold Obligations.ResetLeavesTheBlockQuiet
  exact ⟨rfl, by unfold State.Inv; decide, State.reset_cells, State.reset_transactions, State.reset_domains, State.reset_timers, State.reset_ports,
    State.reset_channels, by decide, by decide, by decide, by decide, by decide, State.reset_cellBlocks, State.reset_sluices, by decide⟩

end Sys2Proof.Machine
end

section
/-! Transmit SAs, the rate of the PTP clock with its bounds and lock, and its steps (R517, R518, R520). -/

namespace Sys2Proof.Machine

open Sys2Proof

/-! ### The registers of a PTP clock -/

theorem regDesc_ptp {p o : Nat} (hp : p < 2) (ho : o < 0x20) : regDesc (0x0C0000 + 0x20 * p + o) = descPtp o := by
  have h1 : (0x0C0000 + 0x20 * p + o) % 0x1000000 / 0x10000 = 12 := by omega
  have h2 : (0x0C0000 + 0x20 * p + o) % 0x1000000 % 0x10000 < 0x40 := by omega
  have h3 : (0x0C0000 + 0x20 * p + o) % 0x1000000 % 0x10000 % 0x20 = o := by omega
  simp only [regDesc, h1, if_pos h2, h3]

theorem Dev.regWrite_ptp (d : Dev) (who : Requester) {p o : Nat} (hp : p < 2) (ho : o < 0x20) (key : Nat) (new v : Word) :
    d.regWrite who (0x0C0000 + 0x20 * p + o) key new v = d.wrPtp (0x0C0000 + 0x20 * p + o) new v := by
  have h1 : (0x0C0000 + 0x20 * p + o) / 0x10000 = 12 := by omega
  simp only [Dev.regWrite, h1]

/-- A write of a 36-bit register of a PTP clock without locked fields, whose own effect is `x`. -/
theorem State.rowWrite_ptp (s : State) (who : Requester) {p o : Nat} (hp : p < 2) (ho : o < 0x20) (v : Half)
    (h : s.reaches who (0x0C0000 + 0x20 * p + o) = true) (hw : (descPtp o).wide = false) (hl : (descPtp o).mask (fun a => a == .rwl) = 0) {x : Bool × Dev}
    (hx : s.dev.wrPtp (0x0C0000 + 0x20 * p + o) (s.dev.newAt who (0x0C0000 + 0x20 * p + o) v) (ofHalf v &&& 0xFFFFFFFFF) = x) :
    s.rowWrite who (0x0C0000 + 0x20 * p + o) v = s.wrote (0x0C0000 + 0x20 * p + o) x.1 x.2 :=
  State.rowWrite_eff s who _ v _ h (regDesc_ptp hp ho) hw hl (by simp only [fcRec, bCtl, btCmd, ssCmd, ssCfg]; omega) (.inl (by omega))
    ((Dev.regWrite_ptp s.dev who hp ho _ _ _).trans hx)

theorem Dev.wrPtp_add (d : Dev) {p : Nat} (hp : p < 2) (new v : Word) : d.wrPtp (ptAdd p) new v = (false, d.ptpAddWrite p (PtAdd.ADD.get new)) := by
  have h1 : ptAdd p % 0x10000 / 0x20 = p := by unfold ptAdd; omega
  have h2 : ptAdd p % 0x20 = 2 := by unfold ptAdd; omega
  simp only [Dev.wrPtp, h1, h2]

theorem Dev.wrPtp_step (d : Dev) {p : Nat} (hp : p < 2) (new v : Word) : d.wrPtp (ptStep p) new v = (false, d.ptpStepWrite p v) := by
  have h1 : ptStep p % 0x10000 / 0x20 = p := by unfold ptStep; omega
  have h2 : ptStep p % 0x20 = 6 := by unfold ptStep; omega
  simp only [Dev.wrPtp, h1, h2]

/-! ### PTpADD -/

/-- PTpADD takes a value, and the time of the write is noted. -/
def Dev.ptpAddSet (d : Dev) (p x : Nat) : Dev := (d.fp (ptAdd p) PtAdd.ADD x).putEth p { d.eth p with addAt := d.tick }

theorem Dev.ptpAddWrite_of (d : Dev) (p v : Nat) :
    let clamp (e : Dev) : Dev := ((e.latch (ptStat p) PtStat.CAUSE 0).relevel (208 + p)).ptpLock p false
    d.ptpAddWrite p v = if v < 17162689315 then clamp (d.ptpAddSet p 17162689315)
      else if 17197049053 < v then clamp (d.ptpAddSet p 17197049053) else d.ptpAddSet p v := by
  intro clamp
  unfold Dev.ptpAddWrite
  dsimp only
  by_cases h1 : v < 17162689315
  · rw [if_pos h1, if_pos (.inl h1), show min 17197049053 (max 17162689315 v) = 17162689315 by omega] <;> rfl
  · rw [if_neg h1]
    by_cases h2 : 17197049053 < v
    · rw [if_pos h2, if_pos (.inr h2), show min 17197049053 (max 17162689315 v) = 17197049053 by omega] <;> rfl
    · rw [if_neg h2, if_neg (by omega), show min 17197049053 (max 17162689315 v) = v by omega] <;> rfl

/-! ### The transmit SA -/

theorem regDesc_txsa {p : Nat} (hp : p < 2) : regDesc (msTxsa p) = MsTxsa.desc := by
  have h1 : msTxsa p % 0x1000000 / 0x10000 = 11 := by unfold msTxsa; omega
  have h2 : msTxsa p % 0x1000000 % 0x10000 < 0x800 := by unfold msTxsa; omega
  have h3 : msTxsa p % 0x1000000 % 0x10000 % 0x400 = 0x204 := by unfold msTxsa; omega
  simp only [regDesc, h1, if_pos h2, h3]
  rfl

theorem Dev.regWrite_txsa (d : Dev) (who : Requester) {p : Nat} (hp : p < 2) (key : Nat) (new v : Word) :
    d.regWrite who (msTxsa p) key new v = (false, d.txSaWrite p new) := by
  have h1 : msTxsa p / 0x10000 = 11 := by unfold msTxsa; omega
  have h2 : msTxsa p % 0x10000 / 0x400 = p := by unfold msTxsa; omega
  have h3 : msTxsa p % 0x10000 % 0x400 = 0x204 := by unfold msTxsa; omega
  have h4 : ¬ 0x800 ≤ msTxsa p % 0x10000 := by unfold msTxsa; omega
  simp only [Dev.regWrite, h1]
  unfold Dev.wrEther
  dsimp only
  rw [h2, h3, if_neg h4] <;> rfl

theorem Dev.newAt_txsa (d : Dev) (who : Requester) {p : Nat} (hp : p < 2) (v : Half) :
    MsTxsa.V.get (d.newAt who (msTxsa p) (withField MsTxsa.V 1 v)) = 1 := by
  have ha : ∀ w, d.absentFields (msTxsa p) w = [] := fun w => by
    have h1 : msTxsa p / 0x10000 = 11 := by unfold msTxsa; omega
    simp only [Dev.absentFields, h1, ite_self]
  rw [Dev.newAt_rw d who _ _ MsTxsa.V MsTxsa.desc (regDesc_txsa hp) ha (by decide) (by decide) (by decide), get_ofHalf_withField _ _ _ (by decide)]
  rfl

theorem Dev.eth_wr (d : Dev) (r : Nat) (w : Word) (p : Nat) : (d.wr r w).eth p = d.eth p := rfl

/-- A transmit SA that is made valid. -/
theorem Dev.txSaWrite_valid (d : Dev) (p : Nat) {v : Word} (h : MsTxsa.V.get v = 1) :
    d.txSaWrite p v = ((d.wr (msTxsa p) (v &&& (MsTxsa.V.mask ||| MsTxsa.AN.mask ||| MsTxsa.KSLOT.mask))).fp (msTxpn p) MsTxpn.PN 1).putEth p
      { d.eth p with pnOut := false } := by
  unfold Dev.txSaWrite
  dsimp only
  rw [if_neg (by rw [h]; decide), Dev.eth_wr]

theorem State.rowWrite_txsa {s : State} {who : Requester} {p : Nat} (hp : p < 2) (h : s.reaches who (msTxsa p) = true) (v : Half) :
    s.rowWrite who (msTxsa p) v = s.wrote (msTxsa p) false (s.dev.txSaWrite p (s.dev.newAt who (msTxsa p) v)) := by
  have hr : msTxsa p ≠ fcRec ∧ msTxsa p ≠ bCtl ∧ msTxsa p ≠ btCmd ∧ msTxsa p ≠ ssCmd ∧ msTxsa p ≠ ssCfg := by
    simp only [msTxsa, fcRec, bCtl, btCmd, ssCmd, ssCfg]; omega
  have hg : ¬(0x0B0040 ≤ msTxsa p ∧ msTxsa p < 0x0B0800 ∧ 0x40 ≤ msTxsa p % 0x400 ∧ msTxsa p % 0x400 < 0x80 ∧ msTxsa p % 8 = 4) := by
    unfold msTxsa; omega
  rw [State.rowWrite_dev s who _ v h (by rw [regDesc_txsa hp]; rfl) (fun k n w => by
      unfold State.regWrite
      rw [if_neg hr.1, if_neg (fun q => hr.2.1 q.1), if_neg hg, if_neg hr.2.2.1, if_neg hr.2.2.2.1, if_neg hr.2.2.2.2]),
    Dev.lockHit_free _ _ _ _ _ (regDesc_txsa hp) (by decide), Dev.regWrite_txsa _ _ hp] <;> rfl

/-! ### PTpSTEP -/

theorem ofHalf_low (v : Half) : ofHalf v &&& 0xFFFFFFFFF = ofHalf v := by
  refine BitVec.eq_of_getLsbD_eq fun j _ => ?_
  rw [BitVec.getLsbD_and, ofHalf_bit, low_bit]
  cases decide (j < 36) <;> simp

/-- The commit of a write of PTpSTEP leaves the written bits as the step that waits. -/
theorem State.ioCommit_ptpStep {s : State} {p : Nat} (hp : p < 2) (hc : s.dev.claimedMask (ptStep p) = 0) (who : Requester) (w m : Word) :
    s.ioCommit who (ptStep p) w m =
      (false, s.onDev ((s.dev.putEth p { s.dev.eth p with step := some (w &&& m) }).relevelAt (ptStep p))) := by
  have hl : ∀ d : Dev, (d.merged who (ptStep p) (d.ioKey who (ptStep p)) w m).2 = false := fun d => by
    unfold Dev.merged
    dsimp only
    rw [show regDesc (ptStep p) = PtStep.desc from regDesc_ptp hp (by decide), show PtStep.desc.mask (fun a => a == .rwl) = 0 by decide]
    simp
  unfold State.ioCommit
  dsimp only
  rw [if_neg (by rw [hc]; simp), hl,
    State.regWrite_dev _ _ _ _ _ _ (by simp only [ptStep, fcRec, bCtl, btCmd, ssCmd, ssCfg]; omega) (.inl (by unfold ptStep; omega)),
    show ∀ key new v, s.dev.regWrite who (ptStep p) key new v = (false, s.dev.ptpStepWrite p v) from fun key new v =>
      (Dev.regWrite_ptp s.dev who hp (o := 6) (by decide) key new v).trans (Dev.wrPtp_step s.dev hp new v)] <;> rfl

/-- A write access of PTpSTEP, with the high half that waits for it or alone. -/
theorem State.rowWrite_ptpStep {s : State} {who : Requester} {p : Nat} (hp : p < 2) (h : s.reaches who (ptStep p) = true) (v : Half) {x : Hold}
    (hx : Tab.get {} s.dev.holds (s.dev.holdOf who (ptStep p)) = x) {e : Dev}
    (he : { s.dev with holds := Tab.set {} s.dev.holds (s.dev.holdOf who (ptStep p)) {} } = e) :
    (x.v = true ∧ x.addr = ptStep p → s.rowWrite who (ptStep p) v =
      s.wrote (ptStep p) false (e.putEth p { e.eth p with step := some (joinHalves x.data v) })) ∧
    (¬(x.v = true ∧ x.addr = ptStep p) → s.rowWrite who (ptStep p) v =
      s.wrote (ptStep p) false (s.dev.putEth p { s.dev.eth p with step := some (ofHalf v) })) := by
  have hr : (((s.dev.alive = true ∧ s.dev.mayAsk who = true) ∧ (s.dev.askIo (s.dev.ioReq who .write (ptStep p))).1 = true) ∧
      s.dev.ioReg (ptStep p) = some (ptStep p)) ∧ s.dev.claimedMask (ptStep p) = 0 := by
    unfold State.reaches at h
    simpa only [Bool.and_eq_true, decide_eq_true_eq] using h
  obtain ⟨⟨⟨⟨h1, h2⟩, h3⟩, h4⟩, h5⟩ := hr
  have h6 : e.claimedMask (ptStep p) = 0 := by rw [← he]; exact h5
  rw [State.rowWrite_wide (v := v) (by rw [h1, h2]; rfl) h3 h4 (by rw [show regDesc (ptStep p) = PtStep.desc from regDesc_ptp hp (by decide)]; rfl)]
  dsimp only
  rw [if_pos rfl, hx, he]
  refine ⟨fun hh => ?_, fun hh => ?_⟩
  · rw [if_pos hh, State.ioCommit_ptpStep (s := s.onDev e) hp h6, BitVec.and_allOnes] <;> rfl
  · rw [if_neg hh, State.ioCommit_ptpStep hp h5, ofHalf_low] <;> rfl

/-- Settles O52: each write by its register's own effect. -/
theorem secureAndTimedPortsFollowTheirRegisters : Obligations.SecureAndTimedPortsFollowTheirRegisters := by
  intro s who p v d
  refine ⟨fun h => ?_, fun h => ?_, fun h => ?_, fun ha => ?_⟩
  · intro u w e
    refine congrArg Host.Outcome.next ((State.rowWrite_txsa p.isLt h u).trans ?_)
    rw [Dev.txSaWrite_valid s.dev p.val (Dev.newAt_txsa s.dev who p.isLt v)]
  · intro n lo hi set clamp
    have hrow := State.rowWrite_ptp s who p.isLt (o := 2) (by decide) v h rfl (by decide)
      ((Dev.wrPtp_add s.dev p.isLt _ _).trans (congrArg (Prod.mk false) (Dev.ptpAddWrite_of s.dev p.val _)))
    exact congrArg Host.Outcome.next hrow
  · intro r i hld step
    obtain ⟨both, alone⟩ := State.rowWrite_ptpStep p.isLt h v rfl rfl
    exact ⟨fun hh => congrArg Host.Outcome.next (both hh), fun hn => congrArg Host.Outcome.next (alone hn)⟩
  · intro late
    refine ⟨fun hn => State.next_live (d := s.dev) ha ?_, fun hl hk => State.next_live ha ?_⟩
    · unfold Dev.ptpTimeout Dev.ptpLock
      rcases hn with hn | hn
      · exact if_neg hn
      · rw [if_pos hn, ite_self]
    · exact (if_pos hl).trans (if_neg (by rw [hk]; decide))

end Sys2Proof.Machine
end

section
/-! nRESET, its release and the RESTART of an update (R269, R270, R526, R528, R602). -/

namespace Sys2Proof.Machine

open Sys2Proof

/-! ### BTCMD -/

/-- A write that reaches BTCMD is its command. -/
theorem State.rowWrite_boot {s : State} {who : Requester} (h : s.reaches who btCmd = true) (v : Half) {a : Bool × State}
    (ha : s.wrBoot who (ofHalf v &&& 0xFFFFFFFFF) = a) : s.rowWrite who btCmd v = a.2.wrote btCmd a.1 a.2.dev := by
  rw [State.rowWrite_narrow s who btCmd v h (by decide), Dev.lockHit_free _ _ _ _ BtCmd.desc (by decide) (by decide)]
  dsimp only
  unfold State.regWrite
  rw [if_neg (by decide), if_neg (fun q => absurd q.1 (by decide)), if_neg (by decide), if_pos rfl, ha, Bool.or_false]

/-- A command of BTCMD that may be refused. -/
theorem State.wrote_orKept {s : State} {r : Nat} (o : Option State) :
    (orKept s o).2.wrote r (orKept s o).1 (orKept s o).2.dev = match o with
      | some t => t.wrote r false t.dev
      | none => s.wrote r true s.dev := by
  cases o <;> rfl

section
variable (s : State) (who : Requester)

theorem btCmd_get {f g : Span} (hf : f.lo ≤ f.hi ∧ f.hi < 36) (hg : g.hi < 36) (hd : g.hi < f.lo ∨ f.hi < g.lo) :
    g.get (ofHalf (withField f 1 0) &&& 0xFFFFFFFFF) = 0 := by
  rw [get_withField_ne f g _ _ hf hg hd]
  unfold Span.get
  rw [show ofHalf 0 &&& 0xFFFFFFFFF = (0 : Word) by decide]
  simp

theorem State.wrBoot_restart : s.wrBoot who (ofHalf (withField BtCmd.RESTART 1 0) &&& 0xFFFFFFFFF) =
    orKept s (s.restartCommand (s.dev.ioPart who)) := by
  unfold State.wrBoot
  dsimp only
  rw [if_neg (not_not_intro (btCmd_get (by decide) (by decide) (by decide))), if_neg (not_not_intro (btCmd_get (by decide) (by decide) (by decide))),
    if_pos (by rw [get_withField _ _ _ (by decide)]; decide)]

theorem State.wrBoot_confirm : s.wrBoot who (ofHalf (withField BtCmd.CONFIRM 1 0) &&& 0xFFFFFFFFF) =
    orKept s (s.stageConfirm (s.dev.ioPart who)) := by
  unfold State.wrBoot
  dsimp only
  rw [if_neg (not_not_intro (btCmd_get (by decide) (by decide) (by decide))), if_pos (by rw [get_withField _ _ _ (by decide)]; decide)]

theorem State.wrBoot_abort : s.wrBoot who (ofHalf (withField BtCmd.ABORT 1 0) &&& 0xFFFFFFFFF) =
    if s.dev.hasRight (s.dev.ioPart who) rightUPDATE then (false, s.onDev (s.dev.sessionActs (s.dev.ioPart who)).stageStop) else (true, s) := by
  unfold State.wrBoot
  dsimp only
  rw [if_neg (not_not_intro (btCmd_get (by decide) (by decide) (by decide))), if_neg (not_not_intro (btCmd_get (by decide) (by decide) (by decide))),
    if_neg (not_not_intro (btCmd_get (by decide) (by decide) (by decide))), if_pos (by rw [get_withField _ _ _ (by decide)]; decide)] <;> rfl

theorem State.wrBoot_stage (n : Fin 16) : s.wrBoot who (ofHalf (withField BtCmd.STAGE 1 (withField BtCmd.TRIALN n.val 0)) &&& 0xFFFFFFFFF) =
    match s.dev.stageStart (s.dev.ioPart who) (s.dev.ioPl who) n.val with
    | some d => (false, s.onDev d)
    | none => (true, s) := by
  have hn : BtCmd.TRIALN.get (ofHalf (withField BtCmd.STAGE 1 (withField BtCmd.TRIALN n.val 0)) &&& 0xFFFFFFFFF) = n.val := by
    rw [get_withField_ne BtCmd.STAGE BtCmd.TRIALN _ _ (by decide) (by decide) (by decide), get_withField _ _ _ (by decide)]
    exact Nat.mod_eq_of_lt n.isLt
  unfold State.wrBoot
  dsimp only
  rw [if_pos (by rw [get_withField _ _ _ (by decide)]; decide), hn] <;> rfl

end

/-! ### nRESET -/

theorem Dev.markPending_iff (d : Dev) : d.markPending = true ↔ ∃ n < 32, d.txState n = 4 ∧ (d.txn n).done = none := by
  unfold Dev.markPending
  simp only [List.any_eq_true, List.mem_range, decide_eq_true_eq]

section
variable {s : State}

theorem State.resetLow_off (h : s.dev.boot.on = false) : s.resetLow = s := if_pos (by rw [h]; rfl)

theorem State.resetLow_held (h : s.dev.boot.on = true) (hm : s.dev.markPending = true) :
    s.resetLow = s.onDev { s.dev with boot := { s.dev.boot with held := true } } := by
  unfold State.resetLow
  dsimp only
  rw [if_neg (by rw [h]; decide), if_pos hm] <;> rfl

theorem State.resetLow_now (h : s.dev.boot.on = true) (hm : s.dev.markPending = false) :
    let r := s.resetAll true s.dev.inFault false 3
    let e := r.dev.fp drStat DrStat.CHG 0
    let g : Dev := { e with boot := { e.boot with low := true } }
    s.resetLow = r.onDev (if s.dev.inFault then (g.fp fcStat FcStat.FRST 1).syncBalls else g) := by
  intro r e g
  unfold State.resetLow
  dsimp only
  rw [if_neg (by rw [h]; decide), if_neg (by rw [hm]; decide)] <;> rfl

end

theorem Dev.resetHigh_of {d : Dev} (h : d.boot.on = true) (hl : d.boot.low = true) (strap : Nat) :
    d.resetHigh strap = { d with boot := { d.boot with low := false, strap := strap, step := 3, t0 := d.tick } } :=
  if_pos (by rw [h, hl]; rfl)

/-- Settles O53: nRESET by its three cases, RESTART by its register. -/
theorem resetsLeadToAStart : Obligations.ResetsLeadToAStart := by
  intro s who strap d
  refine ⟨fun hon hm => congrArg Host.Outcome.next (State.resetLow_held hon (s.dev.markPending_iff.2 hm)), fun hon hm => ?_,
    fun hoff => congrArg Host.Outcome.next (State.resetLow_off hoff),
    fun hon hl => congrArg (fun e => Host.Outcome.next (s.onDev e)) (Dev.resetHigh_of hon hl _), fun h => ?_⟩
  · refine congrArg Host.Outcome.next (State.resetLow_now hon ?_)
    cases hp : s.dev.markPending with
    | false => rfl
    | true =>
      obtain ⟨n, hn, h4, hd⟩ := s.dev.markPending_iff.1 hp
      exact absurd hd (hm n hn h4)
  · intro p a e t
    have row := (State.rowWrite_boot h _ (State.wrBoot_restart s who)).trans (State.wrote_orKept _)
    unfold State.restartCommand at row
    dsimp only at row
    refine ⟨fun hu => congrArg Host.Outcome.next (row.trans ?_), fun hu => congrArg Host.Outcome.next (row.trans ?_)⟩
    · rw [if_pos hu] <;> rfl
    · rw [if_neg (by rw [hu]; decide)]

end Sys2Proof.Machine
end

section
/-! STAGE, CONFIRM and ABORT, and the phases of a staging (R551-R553). -/

namespace Sys2Proof.Machine

open Sys2Proof

/-! ### BTCMD -/

section
variable {d : Dev} {p : Nat}

theorem Dev.stageStart_refused (h : d.mayUpdate p = false) (pl n : Nat) : d.stageStart p pl n = none := if_neg (by rw [h]; decide)

theorem Dev.stageStart_begun (h : d.mayUpdate p = true) (pl n : Nat) :
    let e := (d.sessionActs p).wr btUstat (fields [(1, 35), (1, 32)])
    d.stageStart p pl n = some { e with boot := { e.boot with
      stage := some { adr := d.fg btUadr BtUadr.ADR, len := d.fg btUlen BtUlen.LEN, pl := pl, part := p, trialn := n } } } := if_pos h

end

section
variable {s : State} {p : Nat}

theorem State.stageConfirm_refused (h : s.dev.boot.slot = none ∨ s.dev.mayUpdate p = false ∨ s.dev.ff btStat BtStat.TRIAL = false) :
    s.stageConfirm p = none := by
  unfold State.stageConfirm
  dsimp only
  cases hk : s.dev.boot.slot with
  | none => rfl
  | some k =>
    dsimp only
    refine if_neg ?_
    rw [Bool.and_eq_true]
    rintro ⟨hu, ht⟩
    rcases h with h | h | h
    · rw [hk] at h; cases h
    · rw [h] at hu; cases hu
    · rw [h] at ht; cases ht

theorem State.stageConfirm_done {k : Nat} (hk : s.dev.boot.slot = some k) (hu : s.dev.mayUpdate p = true) (ht : s.dev.ff btStat BtStat.TRIAL = true) :
    let a := s.dev.actor p
    let svn := s.dev.fg btSvn BtSvn.SVN
    let e := (s.dev.sessionActs p).audit { typ := 0x41, part := p, role := a.1, serial := a.2, subj := svn, new := s.dev.rd btGen }
    let adv := match manifestOf (s.mem.slotWord k) with | some l => imgADVSVN l | none => false
    let g := if adv then e.fp btSvn BtSvn.MIN (max svn (e.fg btSvn BtSvn.MIN)) else e
    s.stageConfirm p = some { s with mem := s.mem.program k 3 0, dev := g.fp btStat BtStat.TRIAL 0 } := by
  intro a svn e adv g
  unfold State.stageConfirm
  dsimp only
  rw [hk]
  dsimp only
  rw [if_pos (by rw [hu, ht]; rfl)] <;> rfl

end

/-! ### Phases -/

/-- A staging ends with its result. -/
def State.stageEnds (t : State) (g : Stage) (res rej : Nat) : State := t.onDev (t.dev.stageEnd g res rej)

/-- A staging's next phase begins. -/
def State.stageNext (t : State) (g : Stage) : State :=
  t.onDev { t.dev.fp btUstat BtUstat.PHASE (g.phase + 1) with boot := { t.dev.boot with stage := some { g with phase := g.phase + 1 } } }

/-- What a staging reads of its buffer in its present phase. -/
def State.stageRead (s : State) (g : Stage) : Option (List Word) × State :=
  if g.phase = 1 ∨ g.phase = 3 ∨ g.phase = 4 then s.bufRead g 0 g.len else (some [], s)

/-- The reason that phase 1 rejects a file for. -/
def Dev.stageReason (d : Dev) (g : Stage) (f : Nat → Word) : Nat :=
  if headerReason f true ≠ 0 then headerReason f true else if g.len < hdTLEN f then rjSIZE else
    if (d.manifestReason f).1 ≠ 0 then (d.manifestReason f).1 else dataReason f (d.manifestReason f).2

section
variable {s : State} {bad : Bool} {n : Nat} {g : Stage} {r : Option (List Word) × State}

theorem State.stagePhase_idle (h : s.dev.boot.stage = none) : s.stagePhase bad n = s := by
  unfold State.stagePhase
  rw [h]

/-- What phase `k` of a staging does that goes through; `f` are the words that it read. -/
def State.stageDone (t : State) (g : Stage) (slot : Nat) (f : Nat → Word) (k : Nat) : State :=
  match k with
  | 1 => if t.dev.stageReason g f ≠ 0 then t.stageEnds g 2 (t.dev.stageReason g f) else t.stageNext g
  | 2 => State.stageNext { t with mem := t.mem.eraseSlot slot 0 slotSize } g
  | 3 => State.stageNext { t with mem := (t.dev.stagePlan g f).foldl (fun m p => m.program slot p.1 p.2) t.mem } g
  | 4 => if (t.dev.stagePlan g f).all (fun p => decide (t.mem.slotWord slot p.1 = p.2)) then t.stageNext g else t.stageEnds g 2 rjHASH
  | _ => State.stageEnds { t with mem := t.mem.program slot 1 (t.dev.stageH1 g) } g 1 0

/-- What phase `k` of a staging that is to stop has done of its work, `n` words at the most. -/
def State.stageStopped (t : State) (g : Stage) (slot : Nat) (f : Nat → Word) (n k : Nat) : State :=
  match k with
  | 2 => { t with mem := t.mem.eraseSlot slot 0 (min n slotSize) }
  | 3 => { t with mem := ((t.dev.stagePlan g f).take n).foldl (fun m p => m.program slot p.1 p.2) t.mem }
  | _ => t

variable (hg : s.dev.boot.stage = some g) (hr : s.stageRead g = r)
include hg hr

/-- A phase that its staging ends in. -/
theorem State.stagePhase_stop (h : g.stop = true) :
    s.stagePhase bad n = (r.2.stageStopped g s.dev.stageSlot (fun k => (r.1.getD []).getD k 0) n g.phase).stageEnds g 3 0 := by
  unfold State.stagePhase
  rw [hg]
  dsimp only
  rw [show (if g.phase = 1 ∨ g.phase = 3 ∨ g.phase = 4 then s.bufRead g 0 g.len else (some [], s)) = r from hr, if_pos h]
  unfold State.stageStopped
  rcases g.phase with _ | _ | _ | _ | k <;> rfl

/-- A phase whose buffer or memory fails. -/
theorem State.stagePhase_fails (h : g.stop = false) :
    (r.1 = none → s.stagePhase bad n = r.2.stageEnds g 2 rjREAD) ∧
    (r.1 ≠ none → bad = true → s.stagePhase bad n = r.2.stageEnds g 2 (if g.phase = 4 then rjHASH else rjREAD)) := by
  unfold State.stagePhase
  rw [hg]
  dsimp only
  rw [show (if g.phase = 1 ∨ g.phase = 3 ∨ g.phase = 4 then s.bufRead g 0 g.len else (some [], s)) = r from hr, if_neg (by rw [h]; decide)]
  refine ⟨fun hn => if_pos (by rw [hn]; rfl), fun hn hb => (if_neg ?_).trans (if_pos hb)⟩
  rwa [Option.isNone_iff_eq_none]

/-- A phase that goes through. -/
theorem State.stagePhase_done (h : g.stop = false) (hn : r.1 ≠ none) (hb : bad = false) :
    s.stagePhase bad n = r.2.stageDone g s.dev.stageSlot (fun k => (r.1.getD []).getD k 0) g.phase := by
  unfold State.stagePhase
  rw [hg]
  dsimp only
  rw [show (if g.phase = 1 ∨ g.phase = 3 ∨ g.phase = 4 then s.bufRead g 0 g.len else (some [], s)) = r from hr, if_neg (by rw [h]; decide),
    if_neg (by rwa [Option.isNone_iff_eq_none]), if_neg (by rw [hb]; decide)]
  unfold State.stageDone State.stageNext
  rcases g.phase with _ | _ | _ | _ | _ | k <;> rfl

end

/-- Settles O55: the commands by BTCMD, each phase by its own branch. -/
theorem stagingRunsItsPhases : Obligations.StagingRunsItsPhases := by
  intro s who d p no
  refine ⟨fun h => ⟨fun n => ?_, fun k hk hu ht => ?_, fun hn => ?_, fun hr => ?_, fun hr => ?_⟩, fun ha bad n => ⟨fun hn => ?_, fun g hg => ?_⟩⟩
  · intro g e
    have row := State.rowWrite_boot h _ (State.wrBoot_stage s who n)
    refine ⟨fun hu => congrArg Host.Outcome.next (row.trans ?_), fun hu => congrArg Host.Outcome.next (row.trans ?_)⟩
    · rw [Dev.stageStart_begun hu] <;> rfl
    · rw [Dev.stageStart_refused hu]
  · intro a svn e adv g t
    have row := (State.rowWrite_boot h _ (State.wrBoot_confirm s who)).trans (State.wrote_orKept _)
    rw [State.stageConfirm_done hk hu ht] at row
    exact congrArg Host.Outcome.next row
  · have row := (State.rowWrite_boot h _ (State.wrBoot_confirm s who)).trans (State.wrote_orKept _)
    rw [State.stageConfirm_refused hn] at row
    exact congrArg Host.Outcome.next row
  · have row := State.rowWrite_boot h _ (State.wrBoot_abort s who)
    rw [if_pos hr] at row
    exact congrArg Host.Outcome.next row
  · have row := State.rowWrite_boot h _ (State.wrBoot_abort s who)
    rw [if_neg (by rw [hr]; decide)] at row
    exact congrArg Host.Outcome.next row
  · exact State.next_liveS ha (State.stagePhase_idle hn)
  · intro r t f slot fail on
    have stopped : ∀ {k : Nat} {u : State}, g.stop = true → g.phase = k → t.stageStopped g slot f n k = u →
        exec (.stagingPhaseEnd bad n) s = .next (u.stageEnds g 3 0) := fun h hk hu =>
      State.next_liveS ha ((State.stagePhase_stop hg rfl h).trans (congrArg (fun u => State.stageEnds u g 3 0)
        ((congrArg (t.stageStopped g slot f n) hk).trans hu)))
    refine ⟨fun h hn => ?_, fun h hn hb => ?_, fun h hn hb => ?_, fun h h2 h3 => ?_, fun h h2 => ?_, fun h h3 => ?_⟩
    · exact State.next_liveS ha ((State.stagePhase_fails hg rfl h).1 hn)
    · exact State.next_liveS ha ((State.stagePhase_fails hg rfl h).2 hn hb)
    · have done : ∀ {k : Nat} {u : State}, g.phase = k → t.stageDone g slot f k = u → exec (.stagingPhaseEnd bad n) s = .next u := fun hk hu =>
        State.next_liveS ha ((State.stagePhase_done hg rfl h hn hb).trans ((congrArg (t.stageDone g slot f) hk).trans hu))
      refine ⟨fun h1 => ?_, fun h2 => done h2 rfl, fun h3 => done h3 rfl, fun h4 => ?_, fun h5 => done h5 rfl⟩
      · intro hh m e
        by_cases he : e ≠ 0
        · rw [if_pos he]
          exact done h1 (if_pos he)
        · rw [if_neg he]
          exact done h1 (if_neg he)
      · have hall : ((t.dev.stagePlan g f).all fun p => decide (t.mem.slotWord slot p.1 = p.2)) = true ↔
            ∀ p ∈ t.dev.stagePlan g f, t.mem.slotWord slot p.1 = p.2 := by
          simp only [List.all_eq_true, decide_eq_true_eq]
        by_cases hp : ∀ p ∈ t.dev.stagePlan g f, t.mem.slotWord slot p.1 = p.2
        · rw [if_pos hp]
          exact done h4 (if_pos (hall.2 hp))
        · rw [if_neg hp]
          exact done h4 (if_neg fun hh => hp (hall.1 hh))
    · refine stopped h rfl ?_
      unfold State.stageStopped
      split
      · contradiction
      · contradiction
      · rfl
    · exact stopped h h2 rfl
    · exact stopped h h3 rfl

end Sys2Proof.Machine
end

section
/-! Sessions: OPEN with its chain check, PROVE, and the ways in which a session ends (R558, R560, R561, R587). -/

namespace Sys2Proof.Machine

open Sys2Proof

/-! ### SSCMD and SSCFG -/

/-- A write that reaches SSCMD is its command. -/
theorem State.rowWrite_session {s : State} {who : Requester} (h : s.reaches who ssCmd = true) (v : Half) {a : Bool × State}
    (ha : s.wrSession who (ofHalf v &&& 0xFFFFFFFFF) = a) : s.rowWrite who ssCmd v = a.2.wrote ssCmd a.1 a.2.dev := by
  rw [State.rowWrite_narrow s who ssCmd v h (by decide), Dev.lockHit_free _ _ _ _ SsCmd.desc (by decide) (by decide)]
  dsimp only
  unfold State.regWrite
  rw [if_neg (by decide), if_neg (fun q => absurd q.1 (by decide)), if_neg (by decide), if_neg (by decide), if_pos rfl, ha, Bool.or_false]

theorem State.regWrite_idle (s : State) (who : Requester) (key : Nat) (new v : Word) :
    s.regWrite who ssCfg key new v = (false, s.onDev ((s.dev.wr ssCfg new).idleAll)) := by
  unfold State.regWrite
  rw [if_neg (by decide), if_neg (fun q => absurd q.1 (by decide)), if_neg (by decide), if_neg (by decide), if_neg (by decide), if_pos rfl] <;> rfl

theorem State.rowWrite_idle {s : State} {who : Requester} (h : s.reaches who ssCfg = true) (v : Half) :
    s.rowWrite who ssCfg v = s.wrote ssCfg (s.dev.lockHit who ssCfg v) ((s.dev.wr ssCfg (s.dev.newAt who ssCfg v)).idleAll) := by
  rw [State.rowWrite_narrow s who ssCfg v h (by decide)]
  generalize s.dev.newAt who ssCfg v = new
  dsimp only
  rw [State.regWrite_idle, Bool.false_or]
  exact State.wrote_dev s _ _ _

section
variable {s : State} {who : Requester} {k : Fin 4}

/-- The slot that a command of SSCMD names. -/
theorem ssCmd_slot {f : Span} (hf : f.lo ≤ f.hi ∧ f.hi < 36) (hd : SsCmd.SLOT.hi < f.lo ∨ f.hi < SsCmd.SLOT.lo) :
    SsCmd.SLOT.get (ofHalf (withField f 1 (withField SsCmd.SLOT k.val 0)) &&& 0xFFFFFFFFF) = k.val := by
  rw [get_withField_ne f SsCmd.SLOT _ _ hf (by decide) hd, get_withField _ _ _ (by decide)]
  exact Nat.mod_eq_of_lt k.isLt

/-- The other commands of a write of SSCMD. -/
theorem ssCmd_other {f g : Span} (hf : f.lo ≤ f.hi ∧ f.hi < 36) (hg : g.hi < 36) (hd : g.hi < f.lo ∨ f.hi < g.lo)
    (hs : g.hi < SsCmd.SLOT.lo ∨ SsCmd.SLOT.hi < g.lo) : g.get (ofHalf (withField f 1 (withField SsCmd.SLOT k.val 0)) &&& 0xFFFFFFFFF) = 0 := by
  rw [get_withField_ne f g _ _ hf hg hd, get_withField_ne SsCmd.SLOT g _ _ (by decide) hg hs]
  unfold Span.get
  rw [show ofHalf 0 &&& 0xFFFFFFFFF = (0 : Word) by decide]
  simp

theorem State.wrSession_refused (h : s.dev.ioPl who = 0 ∨ s.dev.ioPart who = 64) (v : Word) : s.wrSession who v = (true, s) := if_pos h

variable (h1 : s.dev.ioPl who ≠ 0) (h2 : s.dev.ioPart who ≠ 64)
include h1 h2

theorem State.wrSession_open : s.wrSession who (ofHalf (withField SsCmd.OPEN 1 (withField SsCmd.SLOT k.val 0)) &&& 0xFFFFFFFFF) =
    (false, s.ssOpen (s.dev.ioPart who) (s.dev.ioPl who) k.val) := by
  unfold State.wrSession
  dsimp only
  rw [if_neg (fun h => h.elim h1 h2), if_pos (by rw [get_withField _ _ _ (by decide)]; decide), ssCmd_slot (by decide) (by decide)]

theorem State.wrSession_prove : s.wrSession who (ofHalf (withField SsCmd.PROVE 1 (withField SsCmd.SLOT k.val 0)) &&& 0xFFFFFFFFF) =
    (false, s.ssProve (s.dev.ioPart who) (s.dev.ioPl who) k.val) := by
  unfold State.wrSession
  dsimp only
  rw [if_neg (fun h => h.elim h1 h2), if_neg (not_not_intro (ssCmd_other (by decide) (by decide) (by decide) (by decide))),
    if_pos (by rw [get_withField _ _ _ (by decide)]; decide), ssCmd_slot (by decide) (by decide)]

theorem State.wrSession_close : s.wrSession who (ofHalf (withField SsCmd.CLOSE 1 (withField SsCmd.SLOT k.val 0)) &&& 0xFFFFFFFFF) =
    (false, s.onDev (s.dev.ssClose (s.dev.ioPart who) k.val)) := by
  unfold State.wrSession
  dsimp only
  rw [if_neg (fun h => h.elim h1 h2), if_neg (not_not_intro (ssCmd_other (by decide) (by decide) (by decide) (by decide))),
    if_neg (not_not_intro (ssCmd_other (by decide) (by decide) (by decide) (by decide))),
    if_pos (by rw [get_withField _ _ _ (by decide)]; decide), ssCmd_slot (by decide) (by decide)] <;> rfl

end

/-! ### OPEN and PROVE -/

section
variable {s : State} {part pl k : Nat}

/-- The buffer that the unit reads, where the read is refused or arrives poisoned, and where it is not. -/
theorem State.secRead_of {a n : Nat} {r : Option (List Word × Bool) × State} (hr : s.dmaRead {} pl part 2 a n = r) :
    ((∀ ws, r.1 ≠ some (ws, false)) → s.secRead pl part a n = (none, r.2)) ∧
    (∀ ws, r.1 = some (ws, false) → s.secRead pl part a n = (some ws, r.2)) := by
  unfold State.secRead
  rw [hr]
  obtain ⟨_ | ⟨ws, _ | _⟩, t⟩ := r
  · exact ⟨fun _ => rfl, fun _ h => nomatch h⟩
  · exact ⟨fun h => absurd rfl (h ws), fun ws' h => by cases h; rfl⟩
  · exact ⟨fun _ => rfl, fun _ h => nomatch h⟩

theorem State.ssOpen_busy (h : s.dev.sec.check ≠ none ∨ s.dev.ssState k ≠ 0 ∨ (s.dev.sessionOf part).isSome) :
    s.ssOpen part pl k = s.onDev (s.dev.ssResult ssBUSY k) := if_pos h

theorem State.ssOpen_of (h1 : s.dev.sec.check = none) (h2 : s.dev.ssState k = 0) (h3 : s.dev.sessionOf part = none)
    {r : Option (List Word × Bool) × State} (hr : s.dmaRead {} pl part 2 (s.dev.fg ssBuf SsBuf.ADR) (s.dev.fg ssLen SsLen.LEN) = r) :
    ((∀ ws, r.1 ≠ some (ws, false)) → s.ssOpen part pl k = r.2.onDev (r.2.dev.ssResult ssACCESS k)) ∧
    (∀ ws, r.1 = some (ws, false) →
      let e := r.2.dev.wr ssRes (fields [(1, 35), (k, 29)])
      s.ssOpen part pl k = r.2.onDev { e with sec := { e.sec with check := some (k, ws) } }) := by
  obtain ⟨no, yes⟩ := State.secRead_of hr
  have hn : ¬(s.dev.sec.check ≠ none ∨ s.dev.ssState k ≠ 0 ∨ (s.dev.sessionOf part).isSome = true) := by
    rw [h1, h2, h3]
    decide
  unfold State.ssOpen
  dsimp only
  rw [if_neg hn]
  exact ⟨fun h => by rw [no h] <;> rfl, fun ws h => by rw [yes ws h] <;> rfl⟩

theorem State.ssProve_none (h : s.dev.ssState k ≠ 1 ∨ Tab.get none s.dev.sec.holder k = none) : s.ssProve part pl k = s := by
  unfold State.ssProve
  dsimp only
  cases hk : Tab.get none s.dev.sec.holder k with
  | none => rfl
  | some x => exact if_pos (h.resolve_right fun e => by rw [hk] at e; cases e)

variable {x : Holder} (hx : Tab.get none s.dev.sec.holder k = some x) (h1 : s.dev.ssState k = 1)
include hx h1

theorem State.ssProve_busy (h : (s.dev.sessionOf part).isSome) : s.ssProve part pl k = s.onDev (s.dev.proveFails k ssBUSY) := by
  unfold State.ssProve
  dsimp only
  rw [hx]
  dsimp only
  rw [if_neg (not_not_intro h1), if_pos h] <;> rfl

/-- What an accepted PROVE leaves. -/
def Dev.proved (d : Dev) (x : Holder) (part k : Nat) : Dev :=
  let e := d.audit { typ := 0x10, part := part, role := x.role, serial := x.serial, subj := k }
  let g := (e.wr (ssKstat k) (fields [(2, 34), (x.role, 32), (part, 26), (x.rights % 2 ^ 14, 12)])).wr (ssKser k) (fields [(x.serial, 8)])
  let y : Dev := { g with sec := { g.sec with chal := Tab.set [] g.sec.chal k [], acted := Tab.set 0 g.sec.acted k g.tick } }
  (y.ssResult ssOK k).scCause 1

theorem State.ssProve_of (h3 : s.dev.sessionOf part = none) {r : Option (List Word × Bool) × State}
    (hr : s.dmaRead {} pl part 2 (s.dev.fg ssBuf SsBuf.ADR) 43 = r) :
    ((∀ ws, r.1 ≠ some (ws, false)) → s.ssProve part pl k = r.2.onDev (r.2.dev.proveFails k ssACCESS)) ∧
    (∀ ws, r.1 = some (ws, false) →
      let ok := pssVerify x.modulus (r.2.dev.proofMessage (Tab.get [] r.2.dev.sec.chal k) part) ((wordOctets ws).take 384)
      s.ssProve part pl k = if ok = false then r.2.onDev (r.2.dev.proveFails k ssSIG) else if r.2.dev.auFree = 0 then
        r.2.onDev (r.2.dev.proveFails k ssAUDIT) else r.2.onDev (r.2.dev.proved x part k)) := by
  obtain ⟨no, yes⟩ := State.secRead_of hr
  unfold State.ssProve
  dsimp only
  rw [hx]
  dsimp only
  rw [if_neg (not_not_intro h1), if_neg (by rw [h3]; decide)]
  refine ⟨fun h => by rw [no h] <;> rfl, fun ws h => ?_⟩
  rw [yes ws h]
  dsimp only
  cases pssVerify x.modulus (r.2.dev.proofMessage (Tab.get [] r.2.dev.sec.chal k) part) ((wordOctets ws).take 384)
  · rw [if_pos rfl, if_pos (by decide)] <;> rfl
  · rw [if_neg (show ¬(!true) = true by decide), if_neg (show ¬true = false by decide)] <;> rfl

end

/-! ### The ends of a session -/

/-- What the end of an open session leaves. -/
def Dev.ssEnded (d : Dev) (k reason : Nat) : Dev :=
  let p := d.fg (ssKstat k) SsKstat.PART
  let a := (d.fg (ssKstat k) SsKstat.ROLE, d.fg (ssKser k) SsKser.SER)
  (((d.ssFree k).audit { typ := 0x11, part := p, role := a.1, serial := a.2, subj := k * 16 + reason }).stageLost p).scCause 1

section
variable {d : Dev} {k : Nat}

theorem Dev.ssEnd_of (r : Nat) : d.ssEnd k r = if d.ssState k = 2 then d.ssEnded k r else d := by
  unfold Dev.ssEnd
  by_cases h : d.ssState k = 2
  · rw [if_pos h, if_neg (not_not_intro h)] <;> rfl
  · rw [if_neg h, if_pos h]

theorem Dev.ssClose_of (p : Nat) : d.ssClose p k = if d.fg (ssKstat k) SsKstat.PART = p ∧ d.ssState k = 2 then d.ssEnded k 0 else d := by
  rw [Dev.ssClose, Dev.ssEnd_of, ite_and]

theorem Dev.idleEnd_of : d.idleEnd k = if d.idleLimit ≤ d.idleTime k ∧ d.ssState k = 2 then d.ssEnded k 1 else d := by
  unfold Dev.idleEnd
  rw [Dev.ssEnd_of]
  by_cases h : d.idleLimit ≤ d.idleTime k
  · rw [if_pos h]
    by_cases h2 : d.ssState k = 2
    · rw [if_pos h2, if_pos ⟨h, h2⟩]
    · rw [if_neg h2, if_neg fun q => h2 q.2]
  · rw [if_neg h, if_neg fun q => h q.1]

theorem Dev.expireSession_of {h : Holder} (hh : Tab.get none d.sec.holder k = some h) (ht : d.timely 0 h.notAft = false) (h2 : d.ssState k = 2) :
    d.expireSession k = d.ssEnded k 2 := by
  unfold Dev.expireSession
  rw [hh]
  dsimp only
  rw [ht, Dev.ssEnd_of, if_pos h2]
  exact if_neg (by decide)

end

/-! ### The chain check -/

section
variable {d : Dev} {k : Nat} {ws : List Word}

theorem Dev.chainEnd_none (h : d.sec.check = none) : d.chainEnd = d := by
  unfold Dev.chainEnd
  rw [h]

theorem Dev.chainEnd_fails (h : d.sec.check = some (k, ws)) {e : Nat} {o : Option Holder} (ho : e ≠ 0 ∨ o = none)
    (hc : ({ d with sec := { d.sec with check := none } } : Dev).chainCheck ws = (e, o)) :
    d.chainEnd = ({ d with sec := { d.sec with check := none } } : Dev).wr ssRes (fields [(e, 31), (k, 29)]) := by
  unfold Dev.chainEnd
  rw [h]
  dsimp only
  rw [hc]
  rcases e with _ | e
  · rw [ho.resolve_left fun h => h rfl] <;> rfl
  · rfl

/-- The words of a challenge go to their registers alone. -/
theorem Dev.chalWords_keep : ∀ (l : List (Word × Nat)) (d : Dev),
    let e := l.foldl (fun d p => d.wr (ssChal p.2) p.1) d
    e.sec = d.sec ∧ e.tick = d.tick ∧ e.rd ssCfg = d.rd ssCfg := by
  intro l
  induction l with
  | nil => exact fun d => ⟨rfl, rfl, rfl⟩
  | cons p l ih =>
    intro d
    obtain ⟨h1, h2, h3⟩ := ih (d.wr (ssChal p.2) p.1)
    exact ⟨h1, h2, h3.trans (Dev.rd_wr_ne _ _ (by unfold ssCfg ssChal; omega))⟩

/-- A slot is challenged with the octets `r` until the tick `n`: `e` is the device once their words stand in its registers. -/
def Dev.challenged (e : Dev) (k : Nat) (x : Holder) (r : List Nat) (n : Nat) : Dev :=
  { e with sec := { e.sec with
    chal := Tab.set [] e.sec.chal k r, holder := Tab.set none e.sec.holder k (some x),
    chalEnd := Tab.set 0 e.sec.chalEnd k n } }

/-- A chain that passes: its slot is challenged. -/
theorem Dev.chainEnd_challenges (h : d.sec.check = some (k, ws)) {x : Holder} {e : Dev} (he : { d with sec := { d.sec with check := none } } = e)
    (hc : e.chainCheck ws = (0, some x)) {r : List Nat × Dev} (hr : e.random 32 = r) {g : Dev}
    (hg : (packOctets r.1 4).zipIdx.foldl (fun d p => d.wr (ssChal p.2) p.1) r.2 = g) :
    d.chainEnd = ((g.challenged k x r.1 (g.tick + g.chalLife)).fp (ssKstat k) SsKstat.STATE 1).ssResult ssOK k := by
  unfold Dev.chainEnd
  rw [h]
  dsimp only
  rw [he, hc, hr, hg] <;> rfl

theorem Dev.sec_wr (d : Dev) (r : Nat) (w : Word) : (d.wr r w).sec = d.sec := rfl

/-- What a challenge leaves in its slot. -/
theorem Dev.challenged_slot (e : Dev) (k : Nat) (x : Holder) (r : List Nat) (n : Nat) :
    let t := ((e.challenged k x r n).fp (ssKstat k) SsKstat.STATE 1).ssResult ssOK k
    t.ssState k = 1 ∧ t.sec.check = e.sec.check ∧ Tab.get none t.sec.holder k = some x ∧
    Tab.get 0 t.sec.chalEnd k = n ∧ Tab.get [] t.sec.chal k = r ∧ t.rd ssRes = fields [(0, 31), (k, 29)] := by
  intro t
  have hne : ssKstat k ≠ ssRes := by unfold ssKstat ssRes; omega
  have hs : t.sec = (e.challenged k x r n).sec := by
    change ((((e.challenged k x r n).fp (ssKstat k) SsKstat.STATE 1).wr ssRes (fields [(ssOK, 31), (k, 29)]))).sec = _
    rw [Dev.sec_wr, Dev.fp, Dev.sec_wr]
  refine ⟨?_, ?_, ?_, ?_, ?_, ?_⟩
  · change (((e.challenged k x r n).fp (ssKstat k) SsKstat.STATE 1).wr ssRes (fields [(ssOK, 31), (k, 29)])).fg (ssKstat k) SsKstat.STATE = 1
    generalize fields [(ssOK, 31), (k, 29)] = w
    rw [Dev.fg_wr_ne _ _ _ hne, Dev.fg_fp_self _ _ _ _ (by decide)]
    rfl
  · rw [hs] <;> rfl
  · rw [hs]
    exact Tab.get_set_self none e.sec.holder k (some x)
  · rw [hs]
    exact Tab.get_set_self 0 _ k _
  · rw [hs]
    exact Tab.get_set_self [] _ k r
  · exact Dev.rd_wr_self _ _ _

theorem Dev.chainEnd_passes (h : d.sec.check = some (k, ws)) {x : Holder}
    (hc : ({ d with sec := { d.sec with check := none } } : Dev).chainCheck ws = (0, some x)) :
    d.chainEnd.ssState k = 1 ∧ d.chainEnd.sec.check = none ∧ Tab.get none d.chainEnd.sec.holder k = some x ∧
    Tab.get 0 d.chainEnd.sec.chalEnd k = d.tick + max 1 (d.fg ssCfg SsCfg.CHTO) * 100000000 ∧ (Tab.get [] d.chainEnd.sec.chal k).length = 32 ∧
    d.chainEnd.rd ssRes = fields [(0, 31), (k, 29)] := by
  generalize hr : ({ d with sec := { d.sec with check := none } } : Dev).random 32 = r
  have hl : r.1.length = 32 := by rw [← hr]; exact (List.length_map _).trans List.length_range
  have hs0 : r.2.sec.check = none ∧ r.2.tick = d.tick ∧ r.2.rd ssCfg = d.rd ssCfg := by rw [← hr]; exact ⟨rfl, rfl, rfl⟩
  obtain ⟨hs, ht, hg⟩ := Dev.chalWords_keep (packOctets r.1 4).zipIdx r.2
  generalize he : (packOctets r.1 4).zipIdx.foldl (fun d p => d.wr (ssChal p.2) p.1) r.2 = e at hs ht hg
  rw [Dev.chainEnd_challenges h rfl hc hr he]
  obtain ⟨g1, g2, g3, g4, g5, g6⟩ := Dev.challenged_slot e k x r.1 (e.tick + e.chalLife)
  refine ⟨g1, ?_, g3, ?_, ?_, g6⟩
  · rw [g2, hs, hs0.1]
  · rw [g4, ht, hs0.2.1, Dev.chalLife, Dev.fg, hg, hs0.2.2, Dev.fg]
  · rw [g5, hl]

end

/-- Settles O56: the commands by SSCMD, the ends by the session's state, the chain by its check. -/
theorem sessionsOpenAndEnd : Obligations.SessionsOpenAndEnd := by
  intro s who k d p pl res fin failed ended
  have cmd : ∀ {v : Half} {a : Bool × State}, s.reaches who ssCmd = true → s.wrSession who (ofHalf v &&& 0xFFFFFFFFF) = a →
      (Host.Outcome.next (s.rowWrite who ssCmd v) : Host.Outcome State Fault Refusal) = .next (a.2.wrote ssCmd a.1 a.2.dev) := fun h ha =>
    congrArg Host.Outcome.next (State.rowWrite_session h _ ha)
  refine ⟨fun h hr => ⟨cmd h (State.wrSession_refused hr _), cmd h (State.wrSession_refused hr _), cmd h (State.wrSession_refused hr _)⟩,
    fun h h1 h2 => ?_, fun h v => congrArg Host.Outcome.next (State.rowWrite_idle h v), fun ha => ?_⟩
  · have opened : ∀ {t : State} {e : Dev}, s.ssOpen p pl k.val = t.onDev e → exec (.sessOpen who k) s = fin t e := fun he =>
      cmd h ((State.wrSession_open h1 h2).trans (congrArg (Prod.mk false) he))
    have proved : ∀ {t : State} {e : Dev}, s.ssProve p pl k.val = t.onDev e → exec (.prove who k) s = fin t e := fun he =>
      cmd h ((State.wrSession_prove h1 h2).trans (congrArg (Prod.mk false) he))
    refine ⟨fun hb => opened (State.ssOpen_busy hb), fun hc h0 hn => ?_, fun hn => proved (State.ssProve_none hn), fun hs hx hb => ?_, fun x hs hx hn => ?_, ?_⟩
    · intro r
      obtain ⟨no, yes⟩ := State.ssOpen_of (pl := pl) hc h0 hn rfl
      exact ⟨fun hr => opened (no hr), fun ws hr => opened (yes ws hr)⟩
    · obtain ⟨x, hx⟩ := Option.ne_none_iff_exists'.1 hx
      exact proved (State.ssProve_busy hx hs hb)
    · intro r t
      obtain ⟨no, yes⟩ := State.ssProve_of (pl := pl) hx hs hn rfl
      refine ⟨fun hr => proved (no hr), fun ws hr => ?_⟩
      intro ok e g y
      have hy := yes ws hr
      dsimp only at hy
      by_cases hok : ok = false
      · rw [if_pos hok]
        exact proved (hy.trans (if_pos hok))
      · rw [if_neg hok]
        by_cases hf : t.dev.auFree = 0
        · rw [if_pos hf]
          exact proved ((hy.trans (if_neg hok)).trans (if_pos hf))
        · rw [if_neg hf]
          exact proved ((hy.trans (if_neg hok)).trans (if_neg hf))
    · exact cmd h ((State.wrSession_close h1 h2).trans (congrArg (fun e => (false, s.onDev e)) (Dev.ssClose_of _)))
  · have endIf : ∀ {f : Dev → Dev} {c : Prop} [Decidable c] {e : Dev}, f s.dev = (if c then e else s.dev) →
        (Host.Outcome.next (s.live f) : Host.Outcome State Fault Refusal) = .next (if c then s.onDev e else s) := fun he =>
      (State.next_live ha he).trans (by split <;> rfl)
    refine ⟨endIf rfl, endIf Dev.idleEnd_of, fun x hx ht h2 => State.next_live ha (Dev.expireSession_of hx ht h2),
      fun hn => State.next_live (d := s.dev) ha (Dev.chainEnd_none hn), fun j ws hc => ?_⟩
    intro x
    split
    · next y hy =>
      obtain ⟨g1, g2, g3, g4, g5, g6⟩ := Dev.chainEnd_passes hc hy
      exact ⟨_, State.next_live ha rfl, g1, g2, g3, g4, g5, g6, rfl⟩
    · next e o hno he =>
      refine State.next_live ha (Dev.chainEnd_fails hc ?_ he)
      by_cases h0 : e = 0
      · refine .inr ?_
        cases o with
        | none => rfl
        | some y => exact (hno y h0 rfl).elim
      · exact .inl h0

end Sys2Proof.Machine
end

section
/-! The jobs of the security unit that work on their buffers and keys (R573-R575). -/

namespace Sys2Proof.Machine

open Sys2Proof

/-! ### The oldest job -/

/-- What a job's work leaves: its error code waits for the job's end. -/
def Work.done (r : Work) (j : Job) (js : List Job) : State :=
  r.2.onDev { r.2.dev with sec := { r.2.dev.sec with jobs := { j with done := some r.1 } :: js } }

section
variable {s : State}

theorem State.jobWork_of {j : Job} {js : List Job} (hj : s.dev.sec.jobs = j :: js) (hd : j.done = none) {op : Nat} (ho : j.op = op)
    {f : State → Job → Work} {r : Work} (hr : f s j = r) : s.jobWork op f = r.done j js := by
  unfold State.jobWork
  rw [hj]
  dsimp only
  rw [if_pos ⟨ho, hd⟩, hr] <;> rfl

/-- An operation that is not the oldest job's, or whose work is done. -/
theorem State.jobWork_other {op : Nat} (h : ∀ j js, s.dev.sec.jobs = j :: js → j.op ≠ op ∨ j.done ≠ none) (f : State → Job → Work) :
    s.jobWork op f = s := by
  unfold State.jobWork
  cases hj : s.dev.sec.jobs with
  | nil => rfl
  | cons j js => exact if_neg fun q => (h j js hj).elim (fun n => n q.1) fun n => n q.2

end

/-! ### The operations -/

section
variable {s : State} {j : Job} {enc : Bool} {b : Flips}

theorem State.jobAes_mode (h : 3 < j.mode) : s.jobAes j enc b = (10, s) := if_pos h

theorem State.jobAes_length (h : j.mode < 2) (hl : j.len % 16 ≠ 0) : s.jobAes j enc b = (6, s) :=
  (if_neg (by omega)).trans (if_pos ⟨h, hl⟩)

/-- ENC and DEC of a known mode and a fitting length: the IV and the associated data come from AUX, the text from SRC. -/
theorem State.jobAes_of (h : j.mode ≤ 3) (hl : j.mode < 2 → j.len % 16 = 0) {iv aad inN outN : Nat}
    (hiv : (if j.mode = 0 then 0 else if j.mode = 3 then 12 else 16) = iv) (haad : (if j.mode = 3 then j.aad else 0) = aad)
    (hin : (if enc then j.len else if j.mode = 3 then j.len + 16 else j.len) = inN)
    (hout : (if enc then if j.mode = 3 then j.len + 16 else j.len else j.len) = outN)
    {e : Nat} (he : s.dev.keyFault j j.slot (if enc then 7 else 6) [1, 2] = e) :
    s.jobAes j enc b = if e ≠ 0 then (e, s) else
      s.jobIn j {} j.aux (iv + aad) fun s p => s.jobIn j b j.src inN fun s l =>
        match aesMode enc j.mode (s.dev.keyOf j.slot) (p.take iv) (p.drop iv) l with
        | some r => s.jobOut j outN r
        | none => (7, (s.jobOut j outN []).2) := by
  have hgcm : ∀ {x y : Nat}, (if decide (j.mode = 3) = true then x else y) = if j.mode = 3 then x else y := fun {x y} => by
    by_cases h3 : j.mode = 3
    · rw [if_pos h3, if_pos (decide_eq_true h3)]
    · rw [if_neg h3, if_neg (by rw [decide_eq_false h3]; decide)]
  have hi : (if (decide (j.mode = 3) && !enc) = true then j.len + 16 else j.len) = inN := by
    rw [← hin]
    cases enc
    · rw [Bool.not_false, Bool.and_true, hgcm] <;> rfl
    · rw [Bool.not_true, Bool.and_false] <;> rfl
  have ho : (if (decide (j.mode = 3) && enc) = true then j.len + 16 else j.len) = outN := by
    rw [← hout]
    cases enc
    · rw [Bool.and_false] <;> rfl
    · rw [Bool.and_true, hgcm] <;> rfl
  have hk : s.dev.keyFault j j.slot (if enc then useENC else useDEC) [1, 2] = e := he
  unfold State.jobAes
  dsimp only
  rw [if_neg (by omega), if_neg fun q => q.2 (hl q.1), hk, hi, ho, hgcm, haad, show ivLength j.mode = iv from hiv] <;> rfl

end

/-- Settles O57: each operation is its own work on the oldest job. -/
theorem jobsWorkOnTheirBuffers : Obligations.JobsWorkOnTheirBuffers := by
  intro s b ha
  refine ⟨fun j js hj hd => ?_, fun op h => ?_⟩
  · intro fin key kv aes
    have job : ∀ {op : Nat} (f : State → Job → Work) {r : Work}, j.op = op → f s j = r →
        (Host.Outcome.next (s.liveS fun s => s.jobWork op f) : Host.Outcome State Fault Refusal) = fin r := fun f _ ho hr =>
      State.next_liveS ha (State.jobWork_of hj hd ho hr)
    refine ⟨fun h => job (fun s j => s.jobHash j b) h rfl, fun h h3 => job (fun s j => s.jobAes j true b) h (State.jobAes_mode h3),
      fun h h3 => job (fun s j => s.jobAes j false b) h (State.jobAes_mode h3),
      fun h h2 hl => job (fun s j => s.jobAes j true b) h (State.jobAes_length h2 hl),
      fun h h2 hl => job (fun s j => s.jobAes j false b) h (State.jobAes_length h2 hl),
      fun h h3 hl => job (fun s j => s.jobAes j true b) h (State.jobAes_of h3 hl rfl rfl rfl rfl rfl),
      fun h h3 hl => job (fun s j => s.jobAes j false b) h (State.jobAes_of h3 hl rfl rfl rfl rfl rfl),
      fun h => job (fun s j => s.jobCmac j b) h rfl, fun h => job (fun s j => s.jobSign j b) h rfl,
      fun h => job (fun s j => s.jobVerify j b) h rfl, fun h => job (fun s j => s.jobDecrypt j b) h rfl,
      fun h => job (fun s j => s.jobRandom j) h rfl, fun h => job (fun s j => s.jobGenAes j) h rfl,
      fun h => job (fun s j => s.jobGenRsa j) h rfl, fun h => job (fun s j => s.jobUnwrap j b) h rfl,
      fun h => job (fun s j => s.jobPubLoad j b) h rfl, fun h => job (fun s j => s.jobPubRead j) h rfl,
      fun h => job (fun s j => s.jobDelete j) h rfl⟩
  · have other : ∀ (f : State → Job → Work),
        (Host.Outcome.next (s.liveS fun s => s.jobWork op f) : Host.Outcome State Fault Refusal) = .next s := fun f =>
      State.next_liveS ha (State.jobWork_other h f)
    refine ⟨?_, ?_, ?_, ?_, ?_⟩ <;> rintro rfl <;> exact other _

end Sys2Proof.Machine
end

section
/-! The jobs that act on the device, the end of a job, checkpoints, exports of the audit log and the time floor (R559, R565, R569, R571, R573, R579). -/

namespace Sys2Proof.Machine

open Sys2Proof

/-! ### Jobs that act on the device -/

section
variable {s : State} {j : Job}

/-- Words that a job writes to DST. -/
def State.jobPut (s : State) (j : Job) (l : List Word) : Work :=
  (if (s.dmaWrite j.pl j.part 2 j.dst l).1 then 0 else 5, (s.dmaWrite j.pl j.part 2 j.dst l).2)

theorem State.jobPut_of (s : State) (j : Job) (l : List Word) :
    (match s.dmaWrite j.pl j.part 2 j.dst l with
      | (true, s1) => ((0, s1) : Work)
      | (false, s1) => (sjACCESS, s1)) = s.jobPut j l := by
  unfold State.jobPut
  generalize s.dmaWrite j.pl j.part 2 j.dst l = q
  obtain ⟨_ | _, t⟩ := q <;> rfl

theorem State.jobAttest_of (b : Flips) : s.jobAttest j b = s.jobIn j b j.src 32 fun s nonce =>
    (s.onDev s.dev.next).jobPut j (s.dev.report nonce ++
      packOctets ((pssSign s.dev.fresh (s.dev.keyOf 0) (wordOctets (s.dev.report nonce))).take 384) 43) := by
  unfold State.jobAttest
  refine congrArg (s.jobIn j b j.src 32) (funext fun s => funext fun nonce => ?_)
  exact State.jobPut_of (s.onDev s.dev.next) j _

theorem State.jobIdCert_of : s.jobIdCert j = s.jobPut j s.dev.idCert := State.jobPut_of s j _

theorem State.jobReseal_of :
    let d := s.dev
    let a := d.actor j.part
    let x : Audit := { typ := 0x51, part := j.part, role := a.1, serial := a.2, old := digest8 d.sec.sd, new := digest8 d.sec.lrd }
    let e := ((d.sessionActs j.part).audit x).fp scStat ScStat.SEALED 1
    s.jobReseal j = if d.maker j.part rightRESEAL = false ∨ d.auFree = 0 then (8, s) else (0, s.onDev { e with sec := { e.sec with sd := e.sec.lrd } }) := by
  intro d a x e
  unfold State.jobReseal
  dsimp only
  by_cases h : d.maker j.part rightRESEAL = false ∨ d.auFree = 0
  · rw [if_pos h, if_pos (by simpa using h)] <;> rfl
  · rw [if_neg h, if_neg (by simpa using h)] <;> rfl

theorem State.jobRevoke_of (b : Flips) : s.jobRevoke j b = if s.dev.maker j.part rightREVOKE = false ∨ s.dev.auRoom = false then (8, s) else
    s.jobIn j b j.src 9 fun s l => (0, s.onDev ((s.dev.sessionActs j.part).revoke ((l.take 8).foldl (fun a o => a * 256 + o % 256) 0))) := by
  unfold State.jobRevoke
  by_cases h : s.dev.maker j.part rightREVOKE = false ∨ s.dev.auRoom = false
  · rw [if_pos h, if_pos (by simpa using h)] <;> rfl
  · rw [if_neg h, if_neg (by simpa using h)] <;> rfl

end

/-! ### The end of a job -/

section
variable {s : State}

theorem State.jobEnd_done {j : Job} {js : List Job} {e : Nat} (hj : s.dev.sec.jobs = j :: js) (he : j.done = some e) :
    let w := s.dev.wr (sjStat j.cell) (fields [(if e = 0 then 1 else 2, 33), (e, 29)])
    s.jobEnd = s.onDev (({ w with sec := { w.sec with jobs := js } } : Dev).scCause 0) := by
  intro w
  have h0 : s.jobWork 0x0B State.jobWrap = s := State.jobWork_other (fun i is hi => .inr (by
    rw [hj] at hi
    cases hi
    rw [he]
    exact Option.some_ne_none e)) _
  unfold State.jobEnd
  dsimp only
  rw [h0, hj]
  dsimp only
  rw [he] <;> rfl

theorem State.jobEnd_none (h : s.dev.sec.jobs = []) : s.jobEnd = s := by
  have h0 : s.jobWork 0x0B State.jobWrap = s := State.jobWork_other (fun j js hj => by rw [h] at hj; cases hj) _
  unfold State.jobEnd
  dsimp only
  rw [h0, h]

end

/-! ### Checkpoints, exports and the time floor -/

section
variable {d : Dev}

theorem Dev.checkpointSigned_none (h : d.sec.ckBusy = none) : d.checkpointSigned = d := by
  unfold Dev.checkpointSigned
  rw [h]

theorem Dev.checkpointSigned_of {ws : List Word} (h : d.sec.ckBusy = some ws) {e : Dev}
    (he : ws.zipIdx.foldl (fun d' p => d'.rsWrite (0x0210F0000 + 64 * (d.sec.ckN % 1024) + p.2) p.1) d = e) :
    let g : Dev := { e with sec := { e.sec with ckBusy := none, ckN := e.sec.ckN + 1 } }
    d.checkpointSigned = (if g.sec.ckDue then g.checkpointDue else g).scCause 6 := by
  unfold Dev.checkpointSigned
  rw [h]
  dsimp only
  rw [he]

theorem Dev.floorRefresh_of :
    let q := d.fg txCfg TxCfg.TPORT
    d.floorRefresh = if d.ff (ptCtl q) PtCtl.LOCK = true ∧ d.fg scTflr ScTflr.SEC < d.fg (ptTime q) PtTime.SEC then
      d.fp scTflr ScTflr.SEC (d.fg (ptTime q) PtTime.SEC) else d := by
  intro q
  unfold Dev.floorRefresh
  dsimp only
  simp only [Bool.and_eq_true, decide_eq_true_eq] <;> rfl

/-- The position of the entry at an address of the audit log. -/
def auditPos (a : Nat) : Nat := (a - auBase) / 12

/-- An EXPORT command up to the entry at address `n` names an entry between AUEXP and AUHEAD. -/
def Dev.exportOk (d : Dev) (n : Nat) : Prop :=
  auBase ≤ n ∧ (n - auBase) % 12 = 0 ∧ auditPos n < auSlots ∧
    (auditPos n + auSlots - auditPos (d.fg auExp AuExp.EXP)) % auSlots ≤
      (auditPos (d.fg auHead AuHead.HEAD) + auSlots - auditPos (d.fg auExp AuExp.EXP)) % auSlots

theorem Dev.exportWrite_of (n : Nat) :
    (d.exportOk n → d.exportWrite n = some ((d.fp auExp AuExp.EXP n).auSync false)) ∧ (¬ d.exportOk n → d.exportWrite n = none) := by
  unfold Dev.exportWrite Dev.exportOk auditPos
  dsimp only
  refine ⟨fun ⟨h1, h2, h3, h4⟩ => ?_, fun h => ?_⟩
  · rw [if_neg (by omega), if_pos h4]
  · by_cases hb : n < auBase ∨ (n - auBase) % 12 ≠ 0 ∨ auSlots ≤ (n - auBase) / 12
    · rw [if_pos hb]
    · rw [if_neg hb, if_neg fun h4 => h ⟨by omega, by omega, by omega, h4⟩]

/-- FREE follows an EXPORT command. -/
theorem Dev.auSync_free : d.auSync false = d.fp auStat AuStat.FREE d.auFree := by
  unfold Dev.auSync
  dsimp only
  exact if_neg (by rw [Bool.false_and]; decide)

end

theorem State.rowWrite_export {s : State} {who : Requester} (h : s.reaches who auExp = true) (v : Half) {o : Option Dev}
    (ho : s.dev.exportWrite (AuExp.EXP.get (s.dev.newAt who auExp v)) = o) :
    s.rowWrite who auExp v = s.wrote auExp ((orRefused s.dev o).1 || s.dev.lockHit who auExp v) (orRefused s.dev o).2 := by
  have heff : ∀ key new w, s.dev.regWrite who auExp key new w = orRefused s.dev (s.dev.exportWrite (AuExp.EXP.get new)) := fun key new w => by
    have hd : s.dev.regWrite who auExp key new w = s.dev.wrSecurity who auExp key new w := rfl
    rw [hd]
    unfold Dev.wrSecurity
    rw [if_neg (by decide), if_pos rfl]
  rw [State.rowWrite_dev s who auExp v h (by decide) (fun k n w => State.regWrite_dev _ _ _ _ _ _ (by decide) (by decide))]
  dsimp only
  rw [heff, ho]

/-- Settles O58: each job is its own work, the end of a job by its code, the others by their own effect. -/
theorem jobsActOnTheDeviceAndEnd : Obligations.JobsActOnTheDeviceAndEnd := by
  intro s b ha d
  refine ⟨fun j js hj hd => ?_, fun j js e hj he => State.next_liveS ha (State.jobEnd_done hj he), fun hn => State.next_liveS ha (State.jobEnd_none hn),
    fun hn => State.next_live (d := s.dev) ha (Dev.checkpointSigned_none hn), fun ws hw => State.next_live ha (Dev.checkpointSigned_of hw rfl),
    fun who v h => ?_, ?_⟩
  · intro fin put
    have job : ∀ {op : Nat} (f : State → Job → Work) {r : Work}, j.op = op → f s j = r →
        (Host.Outcome.next (s.liveS fun s => s.jobWork op f) : Host.Outcome State Fault Refusal) = fin r := fun f _ ho hr =>
      State.next_liveS ha (State.jobWork_of hj hd ho hr)
    exact ⟨fun h => job (fun s j => s.jobAttest j b) h (State.jobAttest_of b), fun h => job (fun s j => s.jobIdCert j) h State.jobIdCert_of,
      fun h => job (fun s _ => s.jobCheckpoint) h rfl, fun h => job (fun s j => s.jobReseal j) h State.jobReseal_of,
      fun h => job (fun s j => s.jobRevoke j b) h (State.jobRevoke_of b)⟩
  · intro n pos e ok
    obtain ⟨yes, no⟩ := Dev.exportWrite_of (d := s.dev) n
    refine ⟨fun hk => congrArg Host.Outcome.next ((State.rowWrite_export h v (yes hk)).trans ?_),
      fun hk => congrArg Host.Outcome.next ((State.rowWrite_export h v (no hk)).trans ?_)⟩
    · rw [Dev.auSync_free] <;> rfl
    · rfl
  · intro q
    refine (State.next_live ha Dev.floorRefresh_of).trans ?_
    split <;> rfl

end Sys2Proof.Machine
end

section
/-! The transmit rings: their registers, the descriptor at HEAD, the frame that is sent, and the held one (R504-R506, R510-R512, R523). -/

namespace Sys2Proof.Machine

open Sys2Proof

/-! ### The registers of the rings -/

/-- The address of register `o` of ring `k` of port `p`: of the transmit ring, or of the receive ring. -/
def ringReg (p : Nat) (tx : Bool) (k o : Nat) : Nat := 0x0B0000 + 0x400 * p + (if tx then 0x40 else 0x80) + 8 * k + o

section
variable {p k o : Nat} (hp : p < 2) (hk : k < 8) (tx : Bool)
include hp hk

theorem regDesc_ring (ho : o < 4) : regDesc (ringReg p tx k o) =
    match o with | 0 => TrBase.desc | 1 => TrCfg.desc | 2 => TrHead.desc | _ => TrTail.desc := by
  have h1 : ringReg p tx k o % 0x1000000 / 0x10000 = 11 := by unfold ringReg; cases tx <;> simp <;> omega
  have h2 : ringReg p tx k o % 0x1000000 % 0x10000 < 0x800 := by unfold ringReg; cases tx <;> simp <;> omega
  have h3 : ringReg p tx k o % 0x1000000 % 0x10000 % 0x400 = (if tx then 0x40 else 0x80) + 8 * k + o := by
    unfold ringReg; cases tx <;> simp <;> omega
  simp only [regDesc, h1, if_pos h2, h3]
  unfold descEther
  cases tx
  · rw [if_neg (by simp; omega), if_neg (by simp; omega), if_pos (by simp; omega), show ((if false = true then 0x40 else 0x80) + 8 * k + o) % 8 = o by simp; omega]
    interval_cases o <;> rfl
  · rw [if_neg (by simp; omega), if_pos (by simp; omega), show ((if true = true then 0x40 else 0x80) + 8 * k + o) % 8 = o by simp; omega]
    interval_cases o <;> rfl

theorem Dev.absentFields_ring (d : Dev) (ho : o < 4) (w : Word) : d.absentFields (ringReg p tx k o) w = [] := by
  have h1 : ringReg p tx k o / 0x10000 = 11 := by unfold ringReg; cases tx <;> simp <;> omega
  simp only [Dev.absentFields, h1, ite_self]

/-- A write of a register of a ring but TRCMD. -/
theorem State.rowWrite_ring {s : State} {who : Requester} (ho : o < 4) (h : s.reaches who (ringReg p tx k o) = true) (v : Half) {x : Bool × Dev}
    (hx : s.dev.wrEther (ringReg p tx k o) (s.dev.newAt who (ringReg p tx k o) v) = x) :
    s.rowWrite who (ringReg p tx k o) v = s.wrote (ringReg p tx k o) (x.1 || s.dev.lockHit who (ringReg p tx k o) v) x.2 := by
  have hr : ringReg p tx k o ≠ fcRec ∧ ringReg p tx k o ≠ bCtl ∧ ringReg p tx k o ≠ btCmd ∧ ringReg p tx k o ≠ ssCmd ∧ ringReg p tx k o ≠ ssCfg := by
    unfold ringReg; cases tx <;> simp [fcRec, bCtl, btCmd, ssCmd, ssCfg] <;> omega
  have h8 : ringReg p tx k o % 8 ≠ 4 := by unfold ringReg; cases tx <;> simp <;> omega
  have h1 : ringReg p tx k o / 0x10000 = 11 := by unfold ringReg; cases tx <;> simp <;> omega
  have hd : ∀ key new w, s.dev.regWrite who (ringReg p tx k o) key new w = s.dev.wrEther (ringReg p tx k o) new := fun key new w => by
    simp only [Dev.regWrite, h1]
  rw [State.rowWrite_dev s who _ v h (by rw [regDesc_ring hp hk tx ho]; interval_cases o <;> rfl)
    (fun k n w => State.regWrite_dev _ _ _ _ _ _ hr (.inr h8))]
  dsimp only
  rw [hd, hx]

theorem Dev.wrEther_ring (d : Dev) (ho : o < 4) (new : Word) : d.wrEther (ringReg p tx k o) new =
    if o = 0 then (if d.ff (ringReg p tx k 1) TrCfg.EN then (true, d) else (false, d.wr (ringReg p tx k o) new))
    else if o = 1 then
      if (d.ff (ringReg p tx k 1) TrCfg.EN && decide (TrCfg.LOGN.get new ≠ d.fg (ringReg p tx k 1) TrCfg.LOGN)) = true then (true, d)
      else if (d.ff (ringReg p tx k 1) TrCfg.EN && !decide (TrCfg.EN.get new ≠ 0) && tx && d.heldClaimed d.frameClaimed p k) = true then (true, d)
      else (false, if (decide (TrCfg.EN.get new ≠ 0) && !d.ff (ringReg p tx k 1) TrCfg.EN) = true then (d.wr (ringReg p tx k o) new).ringStart p k tx
        else d.wr (ringReg p tx k o) new)
    else (false, d.wr (ringReg p tx k o) new) := by
  have h1 : ringReg p tx k o % 0x10000 / 0x400 = p := by unfold ringReg; cases tx <;> simp <;> omega
  have h2 : ringReg p tx k o % 0x10000 % 0x400 = (if tx then 0x40 else 0x80) + 8 * k + o := by unfold ringReg; cases tx <;> simp <;> omega
  have h3 : ¬ 0x800 ≤ ringReg p tx k o % 0x10000 := by unfold ringReg; cases tx <;> simp <;> omega
  have h4 : ((if tx then 0x40 else 0x80) + 8 * k + o) % 0x40 / 8 = k := by cases tx <;> simp <;> omega
  have h5 : ((if tx then 0x40 else 0x80) + 8 * k + o) % 8 = o := by cases tx <;> simp <;> omega
  have h6 : decide ((if tx then 0x40 else 0x80) + 8 * k + o < 0x80) = tx := by cases tx <;> simp <;> omega
  have h7 : (if tx then trCfg p k else rrCfg p k) = ringReg p tx k 1 := by cases tx <;> rfl
  have h8 : ¬ (if tx then 0x40 else 0x80) + 8 * k + o = 0 := by cases tx <;> simp
  have h9 : 0x40 ≤ (if tx then 0x40 else 0x80) + 8 * k + o ∧ (if tx then 0x40 else 0x80) + 8 * k + o < 0xC0 := by cases tx <;> simp <;> omega
  unfold Dev.wrEther
  dsimp only
  rw [h1, h2, h4, h5, h6, h7, if_neg h3, if_neg h8, if_pos h9]

end

theorem ringReg_tail (p k : Nat) (tx : Bool) : (if tx then trTail p k else rrTail p k) = ringReg p tx k 3 := by cases tx <;> rfl
theorem ringReg_cfg (p k : Nat) (tx : Bool) : (if tx then trCfg p k else rrCfg p k) = ringReg p tx k 1 := by cases tx <;> rfl

section
variable {s : State} {who : Requester} {p k : Nat} (hp : p < 2) (hk : k < 8) {tx : Bool}
include hp hk

/-- A write of TAIL. -/
theorem State.rowWrite_tail (h : s.reaches who (ringReg p tx k 3) = true) (v : Half) :
    s.rowWrite who (ringReg p tx k 3) v = s.wrote (ringReg p tx k 3) false (s.dev.wr (ringReg p tx k 3) (s.dev.newAt who (ringReg p tx k 3) v)) := by
  rw [State.rowWrite_ring hp hk tx (by decide) h v ((Dev.wrEther_ring hp hk tx s.dev (by decide) _).trans
      ((if_neg (by decide)).trans (if_neg (by decide)))),
    Dev.lockHit_free _ _ _ _ _ (regDesc_ring hp hk tx (by decide)) (by decide)]
  rfl

theorem Dev.newAt_tail_ring (d : Dev) (n : BitVec 12) :
    TrTail.TAIL.get (d.newAt who (ringReg p tx k 3) (withField TrTail.TAIL n.toNat 0)) = n.toNat := by
  rw [Dev.newAt_rw d who _ _ TrTail.TAIL TrTail.desc (regDesc_ring hp hk tx (by decide)) (d.absentFields_ring hp hk tx (by decide)) (by decide) (by decide)
    (by decide), get_ofHalf_withField _ _ _ (by decide)]
  exact Nat.mod_eq_of_lt n.isLt

/-- A write of a ring's configuration with EN = 1. -/
theorem State.rowWrite_ringEn (h : s.reaches who (ringReg p tx k 1) = true) (v : Half) {a : Nat} (ha : ringReg p tx k 1 = a) :
    let new := s.dev.newAt who a (withField TrCfg.EN 1 v)
    let hit := s.dev.lockHit who a (withField TrCfg.EN 1 v)
    s.rowWrite who a (withField TrCfg.EN 1 v) =
      if s.dev.ff a TrCfg.EN = true then if TrCfg.LOGN.get new ≠ s.dev.fg a TrCfg.LOGN then s.wrote a true s.dev else s.wrote a hit (s.dev.wr a new)
      else s.wrote a hit ((s.dev.wr a new).ringStart p k tx) := by
  intro new hit
  have hen : TrCfg.EN.get new = 1 := by
    change TrCfg.EN.get (s.dev.newAt who a (withField TrCfg.EN 1 v)) = 1
    rw [← ha, Dev.newAt_rw s.dev who _ _ TrCfg.EN TrCfg.desc (regDesc_ring hp hk tx (by decide)) (s.dev.absentFields_ring hp hk tx (by decide)) (by decide)
      (by decide) (by decide), get_ofHalf_withField _ _ _ (by decide)]
    rfl
  have hon : decide (TrCfg.EN.get new ≠ 0) = true := by rw [hen]; decide
  have row := State.rowWrite_ring hp hk tx (by decide) h (withField TrCfg.EN 1 v) ((Dev.wrEther_ring hp hk tx s.dev (by decide) _).trans
    ((if_neg (by decide)).trans (if_pos rfl)))
  rw [ha] at row
  rw [row, show s.dev.newAt who a (withField TrCfg.EN 1 v) = new from rfl, show s.dev.lockHit who a (withField TrCfg.EN 1 v) = hit from rfl, hon]
  cases hf : s.dev.ff a TrCfg.EN
  · simp
  · by_cases hl : TrCfg.LOGN.get new ≠ s.dev.fg a TrCfg.LOGN
    · simp [hl]
    · simp [hl]

end

/-! ### The descriptor at HEAD -/

/-- A transmit ring that may read its descriptor. -/
def Dev.descGo (d : Dev) (p k : Nat) : Bool :=
  d.ethHere p && d.ff (etCfg p) EtCfg.EN && decide (TrCfg.EN.get (d.rd (trCfg p k)) ≠ 0) && !(d.fg (etStat p) EtStat.TRERR).testBit k &&
    !d.ff (trHead p k) TrHead.HELD && !(d.eth p).ready.testBit k && decide (d.txHead p k ≠ d.fg (trTail p k) TrTail.TAIL) &&
    (!d.ethOff p || d.ff (etCfg p) EtCfg.LDD) && !(d.prp && decide (p = 1))

section
variable {s : State} {p k : Nat} {desc buf : Flips}

theorem State.descRead_idle (h : s.dev.descGo p k = false) : s.descRead p k desc buf = s := if_pos (congrArg not h)

/-- The descriptor that ring `k` reads. -/
def State.descWords (s : State) (p k : Nat) (desc : Flips) : Option (List Word × Bool) × State :=
  s.dmaRead desc (ringPl (s.dev.rd (trCfg p k))) (TrCfg.OWNP.get (s.dev.rd (trCfg p k))) p
    (descAddr (s.dev.rd (trBase p k)) (s.dev.rd (trCfg p k)) (s.dev.txHead p k)) 2

/-- A descriptor fault stops the ring. -/
def State.stops (t : State) (p k : Nat) : State := t.onDev (t.dev.txStop p k)

variable (h : s.dev.descGo p k = true) {r : Option (List Word × Bool) × State} (hr : s.descWords p k desc = r)
include h hr

theorem State.descRead_refused (hn : r.1 = none) : s.descRead p k desc buf = r.2.stops p k := by
  unfold State.descRead
  dsimp only
  refine (if_neg (ne_of_eq_of_ne (congrArg not h) (by decide))).trans ?_
  unfold State.descWords at hr
  rw [hr, hn] <;> rfl

variable {w0 : Word} {ws : List Word} {poisoned : Bool} (hw : r.1 = some (w0 :: ws, poisoned))
include hw

theorem State.descRead_bad (hb : poisoned = true ∨ (⟨71, 70⟩ : Span).get w0 ≠ 1) : s.descRead p k desc buf = r.2.stops p k := by
  unfold State.descRead
  dsimp only
  refine (if_neg (ne_of_eq_of_ne (congrArg not h) (by decide))).trans ?_
  unfold State.descWords at hr
  rw [hr, hw]
  exact if_pos (by simpa using hb)

theorem State.descRead_send (hb : ¬(poisoned = true ∨ (⟨71, 70⟩ : Span).get w0 ≠ 1)) (hh : w0.toNat.testBit 69 = false) :
    s.descRead p k desc buf = if r.2.dev.fifoRoom p w0 then (r.2.txRead p k w0 buf).txReady p k false else r.2 := by
  unfold State.descRead
  dsimp only
  refine (if_neg (ne_of_eq_of_ne (congrArg not h) (by decide))).trans ?_
  unfold State.descWords at hr
  rw [hr, hw]
  exact (if_neg (by simpa using hb)).trans (if_neg (by rw [show (w0 :: ws).headD 0 = w0 from rfl, hh]; decide))

theorem State.descRead_hold (hb : ¬(poisoned = true ∨ (⟨71, 70⟩ : Span).get w0 ≠ 1)) (hh : w0.toNat.testBit 69 = true) :
    let cfg := s.dev.rd (trCfg p k)
    let q := r.2.dmaWrite (min 2 (TrCfg.PL.get cfg)) (TrCfg.OWNP.get cfg) p (descAddr (s.dev.rd (trBase p k)) cfg (s.dev.txHead p k))
      [(⟨71, 70⟩ : Span).put w0 2]
    let t := q.2.onDev ((q.2.dev.fp (trHead p k) TrHead.HELD 1).raiseIf (TrCfg.HIE.get cfg ≠ 0) (192 + 8 * p + k))
    s.descRead p k desc buf = if q.1 = false then q.2.stops p k else if t.dev.fifoRoom p w0 then t.txRead p k w0 buf else t := by
  intro cfg q t
  unfold State.descRead
  dsimp only
  refine (if_neg (ne_of_eq_of_ne (congrArg not h) (by decide))).trans ?_
  unfold State.descWords at hr
  rw [hr, hw]
  refine ((if_neg (by simpa using hb)).trans (if_pos hh)).trans ?_
  change (if q.1 = true then if t.dev.fifoRoom p w0 then t.txRead p k w0 buf else t else q.2.stops p k) = _
  cases q.1 <;> rfl

end

/-! ### The frame on the wire -/

theorem State.frameSent_none {s : State} {p back : Nat} (h : (s.dev.eth p).wire = none) : s.frameSent p back = s := by
  unfold State.frameSent
  rw [h]

theorem State.frameSent_of {s : State} {p back k : Nat} (h : (s.dev.eth p).wire = some k) :
    let w0 := s.rdWord (descAddr (s.dev.rd (trBase p k)) (s.dev.rd (trCfg p k)) (s.dev.txHead p k))
    let t := stampWord (s.dev.ptpNs p - back + s.dev.fg (ptLat p) PtLat.EGR / 10)
    let e := s.dev.putEth p { s.dev.eth p with prpSeq := if s.dev.prp then ((s.dev.eth p).prpSeq + 1) % 65536 else (s.dev.eth p).prpSeq }
    s.frameSent p back = ((s.onDev e).txEnd p k 0 (if w0.toNat.testBit 68 then some t else none)).ethPick p 8 := by
  intro w0 t e
  unfold State.frameSent
  rw [h] <;> rfl

/-! ### TRCMD -/

section
variable {s : State} {who : Requester} {p k : Nat} (hp : p < 2) (hk : k < 8)
include hp hk

theorem regDesc_trCmd : regDesc (trCmd p k) = TrCmd.desc := by
  have h1 : trCmd p k % 0x1000000 / 0x10000 = 11 := by unfold trCmd; omega
  have h2 : trCmd p k % 0x1000000 % 0x10000 < 0x800 := by unfold trCmd; omega
  have h3 : trCmd p k % 0x1000000 % 0x10000 % 0x400 = 0x44 + 8 * k := by unfold trCmd; omega
  simp only [regDesc, h1, if_pos h2, h3]
  unfold descEther
  rw [if_neg (by omega), if_pos (by omega), show (0x44 + 8 * k) % 8 = 4 by omega] <;> rfl

/-- A write that reaches TRCMD is its command. -/
theorem State.rowWrite_trCmd (h : s.reaches who (trCmd p k) = true) (v : Half) {a : Bool × State}
    (ha : s.wrRing (trCmd p k) (ofHalf v &&& 0xFFFFFFFFF) = a) : s.rowWrite who (trCmd p k) v = a.2.wrote (trCmd p k) a.1 a.2.dev := by
  have hr : trCmd p k ≠ fcRec ∧ trCmd p k ≠ bCtl := by unfold trCmd fcRec bCtl; omega
  have hg : 0x0B0040 ≤ trCmd p k ∧ trCmd p k < 0x0B0800 ∧ 0x40 ≤ trCmd p k % 0x400 ∧ trCmd p k % 0x400 < 0x80 ∧ trCmd p k % 8 = 4 := by
    unfold trCmd; omega
  rw [State.rowWrite_narrow s who _ v h (by rw [regDesc_trCmd hp hk]; rfl), Dev.lockHit_free _ _ _ _ _ (regDesc_trCmd hp hk) (by decide)]
  dsimp only
  unfold State.regWrite
  rw [if_neg hr.1, if_neg (fun q => hr.2 q.1), if_pos hg, ha, Bool.or_false]

/-- TRCMD with REL or CAN, refused where the ring holds no descriptor of its own free will. -/
theorem State.wrRing_of {v : Word} {rel can : Bool} (hrel : decide (TrCmd.REL.get v ≠ 0) = rel) (hcan : decide (TrCmd.CAN.get v ≠ 0) = can)
    (h : (rel || can) = true) :
    let held := s.dev.ff (trHead p k) TrHead.HELD
    let claimed := s.dev.frameClaimed p k (s.dev.txHead p k)
    (held = false ∨ claimed = true → s.wrRing (trCmd p k) v = (true, s)) ∧
    (held = true → claimed = false → s.wrRing (trCmd p k) v = (false, if can then s.cancel p k else s.release p k false)) := by
  intro held claimed
  have h1 : trCmd p k % 0x10000 / 0x400 = p := by unfold trCmd; omega
  have h2 : trCmd p k % 0x40 / 8 = k := by unfold trCmd; omega
  unfold State.wrRing
  dsimp only
  rw [h1, h2, hrel, hcan, if_neg (by cases rel <;> cases can <;> simp_all), show s.dev.ff (trHead p k) TrHead.HELD = held from rfl,
    show s.dev.heldClaimed s.dev.frameClaimed p k = (held && claimed) from rfl]
  refine ⟨fun hh => if_pos ?_, fun hh hc => (if_neg ?_).trans ?_⟩
  · rcases hh with hh | hh
    · rw [hh]
      rfl
    · rw [hh, Bool.and_true]
      exact Bool.not_or_self _
  · rw [hh, hc]
    decide
  · cases can <;> rfl

end

section
variable {s : State} {p k : Nat} (h : s.dev.ff (trHead p k) TrHead.HELD = true)
include h

theorem State.release_held :
    let w0 := s.rdWord (descAddr (s.dev.rd (trBase p k)) (s.dev.rd (trCfg p k)) (s.dev.txHead p k))
    let s1 := s.onDev (s.dev.fp (trHead p k) TrHead.HELD 0)
    s.release p k false = (if (s1.dev.fifoSts p k).isSome then s1 else s1.txRead p k w0 {}).txReady p k false := if_pos h

theorem State.cancel_held : s.cancel p k = s.txEnd p k 1 none := if_pos h

end

/-- Settles O50: the writes by their register, a descriptor by what its words say, TRCMD by what the ring holds. -/
theorem ringsSendOrHoldTheirFrames : Obligations.RingsSendOrHoldTheirFrames := by
  refine ⟨fun s p k => ?_, fun s who p k h => ?_⟩
  · intro d
    refine ⟨fun who tx tail => ?_, fun who tx v => ?_, fun ha desc buf => ?_, fun ha back hw => ?_, fun ha back hw => ?_⟩
    · intro a h
      have hreg : a = ringReg p.val tx k.val 3 := ringReg_tail _ _ _
      rw [hreg] at h ⊢
      refine ⟨congrArg Host.Outcome.next ?_, Dev.newAt_tail_ring p.isLt k.isLt s.dev tail⟩
      rw [ringReg_tail]
      exact State.rowWrite_tail p.isLt k.isLt h _
    · intro a h new hit
      have row := State.rowWrite_ringEn p.isLt k.isLt (by rw [← ringReg_cfg]; exact h) v (ringReg_cfg p.val k.val tx).symm
      refine congrArg Host.Outcome.next (row.trans ?_)
      cases tx <;> rfl
    · intro cfg go a r stop
      refine ⟨fun hg => State.next_liveS ha (State.descRead_idle hg), fun hg hn => State.next_liveS ha (State.descRead_refused hg rfl hn),
        fun hg w0 ws poisoned hw => ?_⟩
      exact ⟨fun hb => State.next_liveS ha (State.descRead_bad hg rfl hw hb), fun hb hh => State.next_liveS ha (State.descRead_send hg rfl hw hb hh),
        fun hb hh => State.next_liveS ha (State.descRead_hold hg rfl hw hb hh)⟩
    · exact State.next_liveS ha (State.frameSent_none hw)
    · exact State.next_liveS ha (State.frameSent_of hw)
  · intro d held claimed w0 s1 sent ended
    obtain ⟨rno, ryes⟩ := State.wrRing_of (s := s) p.isLt k.isLt (v := ofHalf (withField TrCmd.REL 1 0) &&& 0xFFFFFFFFF) (rel := true) (can := false)
      (by decide) (by decide) rfl
    obtain ⟨cno, cyes⟩ := State.wrRing_of (s := s) p.isLt k.isLt (v := ofHalf (withField TrCmd.CAN 1 0) &&& 0xFFFFFFFFF) (rel := false) (can := true)
      (by decide) (by decide) rfl
    have row : ∀ {v : Half} {a : Bool × State}, s.wrRing (trCmd p.val k.val) (ofHalf v &&& 0xFFFFFFFFF) = a →
        (Host.Outcome.next (s.rowWrite who (trCmd p.val k.val) v) : Host.Outcome State Fault Refusal) = .next (a.2.wrote (trCmd p.val k.val) a.1 a.2.dev) :=
      fun e => congrArg Host.Outcome.next (State.rowWrite_trCmd p.isLt k.isLt h _ e)
    exact ⟨fun hn => ⟨row (rno hn), row (cno hn)⟩, fun hh hc => ⟨row ((ryes hh hc).trans (congrArg (Prod.mk false) (State.release_held hh))),
      row ((cyes hh hc).trans (congrArg (Prod.mk false) (State.cancel_held hh)))⟩⟩

end Sys2Proof.Machine
end

section
/-! What a port receives: a bad frame, PRP, MACsec, the headgate and the ring; the police bucket and the link (R501, R502, R507, R508, R514, R516). -/

namespace Sys2Proof.Machine

open Sys2Proof

/-! ### The port of a frame -/

/-- The port whose settings a received frame meets: under PRP, that of LAN A. -/
def Dev.etherPort (d : Dev) (p : Nat) : Nat := if d.prp then 0 else p

/-- A frame of `f` with its FCS as `fcs` tells is one that a port takes. -/
def frameGood (f : List Nat) (fcs : Bool) : Prop := fcs = true ∧ 60 ≤ f.length ∧ f.length ≤ 9216 ∧ octNum f 12 2 ≠ 0x8808

theorem frameGood_iff (f : List Nat) (fcs : Bool) :
    (!fcs || decide (f.length < 60 ∨ 9216 < f.length) || decide (octNum f 12 2 = 0x8808)) = true ↔ ¬ frameGood f fcs := by
  unfold frameGood
  generalize octNum f 12 2 = n
  generalize f.length = m
  cases fcs
  · simp
  · simp only [Bool.not_true, Bool.false_or, Bool.or_eq_true, decide_eq_true_eq]
    simp only [true_and, ne_eq]
    omega

section
variable {s : State} {p : Nat} {f : List Nat} {fcs : Bool} {back : Nat} {desc : Flips}

theorem State.frameReceived_off (h : s.dev.ethHere p = false ∨ s.dev.ff (etCfg (s.dev.etherPort p)) EtCfg.EN = false ∨ s.dev.ethOff p = true) :
    s.frameReceived p f fcs back desc = s := by
  unfold State.frameReceived
  dsimp only
  cases hh : s.dev.ethHere p
  · exact if_pos rfl
  · refine (if_neg (by decide)).trans (if_pos ?_)
    rcases h with h | h | h
    · rw [hh] at h
      cases h
    · rw [show s.dev.ff (etCfg (if s.dev.prp then 0 else p)) EtCfg.EN = false from h]
      rfl
    · rw [h, Bool.or_true]

variable (h1 : s.dev.ethHere p = true) (h2 : s.dev.ff (etCfg (s.dev.etherPort p)) EtCfg.EN = true) (h3 : s.dev.ethOff p = false)
include h1 h2 h3

/-- What a port that is on makes of a frame. -/
theorem State.frameReceived_on {q : Nat} (hq : s.dev.etherPort p = q) {t : Bool × Dev} (ht : (if s.dev.prp then s.dev.prpTake f else (true, s.dev)) = t)
    {cut : Nat} (hc : (if s.dev.prp && (prpTrailer f).isSome then 6 else 0) = cut) {m : Option (List Nat × Bool) × Dev}
    (hm : t.2.macsec q (f.take (f.length - cut)) = m) :
    (¬ frameGood f fcs → s.frameReceived p f fcs back desc = s.onDev ((s.dev.count (etCnt p 1) EtCnt.CNT).ethCause q 5)) ∧
    (frameGood f fcs → t.1 = false → s.frameReceived p f fcs back desc = s.onDev t.2) ∧
    (frameGood f fcs → t.1 = true → m.1 = none → s.frameReceived p f fcs back desc = s.onDev m.2) ∧
    (frameGood f fcs → t.1 = true → ∀ g0 sec, m.1 = some (g0, sec) →
      let g := g0 ++ f.drop (f.length - cut)
      let h := m.2.headgate q g sec 0 true 32
      (h.1.ring = none → s.frameReceived p f fcs back desc = s.onDev h.2) ∧
      (∀ k, h.1.ring = some k →
        let stamp := stampWord (h.2.ptpNs p - back - h.2.fg (ptLat p) PtLat.ING / 10)
        let fl := [(b2n sec, 69), (b2n (s.dev.prp && (prpTrailer f).isSome), 68), (b2n (s.dev.prp && decide (p = 1)), 67)]
        s.frameReceived p f fcs back desc = (s.onDev h.2).rxStore q k g h.1 fl stamp desc)) := by
  have hg : frameGood f fcs → ¬(!fcs || decide (f.length < 60 ∨ 9216 < f.length) || decide (octNum f 12 2 = 0x8808)) = true := fun h hb =>
    (frameGood_iff f fcs).1 hb h
  unfold Dev.etherPort at h2 hq
  unfold State.frameReceived
  dsimp only
  rw [hq] at h2
  rw [hq, h1, h2, h3, ht, hc, hm, if_neg (by decide), if_neg (by decide)]
  refine ⟨fun h => if_pos ((frameGood_iff f fcs).2 h), fun h h4 => ?_, fun h h4 h5 => ?_, fun h h4 g0 sec h5 => ⟨fun h6 => ?_, fun k h6 => ?_⟩⟩
  · exact (if_neg (hg h)).trans (if_pos (by rw [h4]; rfl))
  · rw [if_neg (hg h), if_neg (by rw [h4]; decide), h5] <;> rfl
  all_goals
    rw [if_neg (hg h), if_neg (by rw [h4]; decide), h5]
    dsimp only
    rw [h6] <;> rfl

end

/-! ### The link -/

theorem State.linkRow_off {s : State} {p : Nat} {up : Bool} (anc : Bool) (h : s.dev.ethHere p = false ∨ (up = true ∧ s.dev.ethOff p = true)) :
    (if s.dev.ethHere p && !(up && s.dev.ethOff p) then s.linkChange p up anc else s) = s := by
  refine if_neg ?_
  rcases h with h | ⟨h, h'⟩
  · rw [h, Bool.false_and]
    decide
  · rw [h, h', Bool.and_true, Bool.not_true, Bool.and_false]
    decide

theorem State.linkRow_on {s : State} {p : Nat} {up : Bool} (anc : Bool) (h1 : s.dev.ethHere p = true) (h : up = true → s.dev.ethOff p = false) :
    (if s.dev.ethHere p && !(up && s.dev.ethOff p) then s.linkChange p up anc else s) = s.linkChange p up anc := by
  refine if_pos ?_
  rw [h1]
  cases up
  · rfl
  · rw [h rfl]
    rfl

/-- Settles O51: a frame by the stage that ends it, the link by its power. -/
theorem framesComeIn : Obligations.FramesComeIn := by
  intro s p ha d q
  refine ⟨fun octets fcs back desc => ?_, State.next_live ha rfl, fun up anc h => State.next_liveS ha (State.linkRow_off anc h), fun up anc h1 h => ?_⟩
  · intro f good t cut m
    refine ⟨fun h => State.next_liveS ha (State.frameReceived_off h), fun h1 h2 h3 => ?_⟩
    obtain ⟨bad, dup, sec, ok⟩ := State.frameReceived_on (f := f) (fcs := fcs) (back := back) (desc := desc) h1 h2 h3 rfl rfl rfl rfl
    exact ⟨fun h => State.next_liveS ha (bad h), fun h h4 => State.next_liveS ha (dup h h4), fun h h4 h5 => State.next_liveS ha (sec h h4 h5),
      fun h h4 g0 se h5 => ⟨fun h6 => State.next_liveS ha ((ok h h4 g0 se h5).1 h6), fun k h6 => State.next_liveS ha ((ok h h4 g0 se h5).2 k h6)⟩⟩
  · intro e g
    exact State.next_liveS ha (State.linkRow_on anc h1 h)

end Sys2Proof.Machine
end
